-- ==== Sys2Proof/Word.lean ====
section
/-! DEFINITION. The word types of the device: lanes, tags, node records (00 R4, 02 R36, R38, R52). -/
namespace Sys2Proof

/-- One payload lane: 32 bits (02 R38). -/
abbrev Word := BitVec 32
/-- One byte of memory or of a tile. -/
abbrev Byte := BitVec 8
/-- A 64-bit quantity: a tag, a pointer, a supervisor register. -/
abbrev DWord := BitVec 64
/-- One node record (02 R36). -/
abbrev Rec := BitVec 96

/-- The lane pair of a 64-bit value: `[31:0]` first (02 Table 3). -/
def DWord.lanes (d : DWord) : List Word := [d.extractLsb' 0 32, d.extractLsb' 32 32]

/-- A 64-bit value from its two lanes. -/
def mkDWord (lo hi : Word) : DWord := hi ++ lo

/-- A truth value as one bit. -/
def bit (b : Bool) : BitVec 1 := BitVec.ofBool b

end Sys2Proof
end

