-- ==== Sys2Proof/Syntax.lean ====
section
/-! DEFINITION. The instruction set: node records in Formats D, L and X (02 R36 to R44), tokens (02 R52), the graph
object that a launch loads (01 R22, 02 R64), and the device's own steps (spec/95). -/
namespace Sys2Proof

/-- Element types (02 Table 3). -/
inductive ETyp where
  | i32 | n32 | i64 | n64 | f32 | bf16 | f16 | e4m3 | e5m2 | e2m1 | pred
  deriving DecidableEq, Repr, Inhabited

/-- Arity codes 0 to 3 (02 Table 2). -/
inductive Ary where
  | mono | dyad | const | lit
  deriving DecidableEq, Repr, Inhabited

/-- Tag operations 0 to 7 (02 Table 4). -/
inductive Tgo where
  | keep | inc | push | pop | zero | set | new | cont
  deriving DecidableEq, Repr, Inhabited

/-- Matching actions 0 to 5 (02 Table 8). -/
inductive Act where
  | pass | assoc | frame | sticky | purge | scale
  deriving DecidableEq, Repr, Inhabited

/-- A destination field (02 R45, Tables 6 and 7). -/
inductive Dest where
  | none
  | node (idx : BitVec 12) (port : Bool)
  | route (e : BitVec 10)
  | acc (n : BitVec 4)
  | mx | cu | mt | scale | event | trap
  deriving DecidableEq, Repr, Inhabited

/-- A node record of Format D, or the head of Format X, less its opcode (02 R36). -/
structure Node where
  typ : ETyp
  ary : Ary
  tgo : Tgo
  mod : BitVec 3
  dstA : Dest
  dstB : Dest
  actA : Act
  actB : Act
  lit : Word
  deriving DecidableEq, Repr, Inhabited

/-- A node record of Format L, less its opcode (02 R41). -/
structure NodeL where
  typ : ETyp
  ary : Ary
  tgo : Tgo
  mod : BitVec 3
  dstA : Dest
  actA : Act
  lit : BitVec 53
  deriving DecidableEq, Repr, Inhabited

/-- The number of a memory firing: address space, logical core, its number in the wave buffer there. -/
abbrev StoreId := Nat × Nat × Nat

/-- A token: header (02 R52) and payload lanes. The WIDTH field is the number of lanes. `hb` is no part of its image: it lists
the stores that happen before what consumes the token and may not have reached their homes (14 R358; DESIGN CHOICE, log 86). -/
structure Token where
  rsv : Bool
  dcore : BitVec 17
  dnode : BitVec 12
  dport : Bool
  act : BitVec 3
  vc : BitVec 3
  tc : BitVec 2
  mark : BitVec 2
  eosl : BitVec 4
  poison : Bool
  asid : BitVec 12
  tag : DWord
  lanes : List Word
  hb : List StoreId := []
  deriving DecidableEq, Repr, Inhabited

/-- The five registers of a colour (04 R107 Table 8). -/
structure ColourRegs where
  order : BitVec 3
  width : BitVec 6
  frame : BitVec 14
  shape : BitVec 6
  limit : BitVec 16
  live : BitVec 16
  deriving DecidableEq, Repr, Inhabited

/-- Roles of a core (01 R15, 04 Table 5). -/
inductive Role where
  | ag | cp | rd
  deriving DecidableEq, Repr, Inhabited

/-- Roles of a tile (10 Table 8). -/
inductive TileRole where
  | ab | tf | cb
  deriving DecidableEq, Repr, Inhabited

/-- What the image says of a tile (02 Table 12, `.tile`). -/
structure TileCfg where
  role : TileRole
  init : Option (List Byte)
  deriving DecidableEq, Repr, Inhabited

/-- The configuration of one logical core: a copy of the object's kernel number `kernel` as placed, with its resource
requests (01 R22, 02 R64). A node's record is its 12 bytes in the object: three little-endian words, the lowest first (02 R36). -/
structure LCoreCfg where
  lcore : Nat
  kernel : Nat
  role : Role
  control : Bool
  reqNodes : Nat
  reqMatch : Option Nat
  reqRoutes : Nat
  reqConsts : Nat
  reqAccs : Nat
  reqTiles : Nat
  bigtop : Nat
  nodes : List (Nat × List Byte)
  consts : List (Nat × Word)
  accs : List (Nat × List Word)
  tiles : List (Nat × TileCfg)
  routes : List (Nat × DWord)
  waveBase : Word
  raCtl : BitVec 5
  maxw : BitVec 6
  deriving DecidableEq, Repr, Inhabited

/-- A collective rule entry that the image installs (02 Table 12, `.meeting`): its six words and its owner. -/
structure MeetingCfg where
  entry : Nat
  words : List DWord
  deriving DecidableEq, Repr, Inhabited

/-- A Delvy graph object, as placed (01 R22). Its byte format is not given by the manual. -/
structure GraphObj where
  scatter : Bool
  salt : BitVec 10
  shapes : List (Nat × BitVec 40)
  colours : List (Nat × ColourRegs)
  trap : Option (Nat × Nat)
  cores : List LCoreCfg
  tokens : List Token
  meetings : List MeetingCfg
  deriving DecidableEq, Repr, Inhabited

/-- Who waits on a translation miss (13 R344): the AG access numbered in the chain state, a copy job, or a meeting unit
(11 R284): its entry, or 65,536 plus the id of the QOPEN it processes. -/
inductive Miss where
  | access (asid lc seq : Nat)
  | job (cluster id : Nat)
  | meet (field e : Nat)
  deriving DecidableEq, Repr, Inhabited

/-- The outcome of an ECC check (13 Table 4). -/
inductive EccResult where
  | clean | corrected | uncorrectable
  deriving DecidableEq, Repr, Inhabited

/-- The unit whose residue check failed (13 Table 4). -/
inductive ResidueUnit where
  | core (cx cy : Nat) (again : Bool)
  | engine (cluster : Nat) (again : Bool)
  deriving DecidableEq, Repr, Inhabited

/-- What a read of one remap copy finds (10 R264, R267): good, corrected by ECC, or unreadable, with its words. -/
structure CopyRead where
  state : BitVec 2
  words : List DWord
  deriving DecidableEq, Repr, Inhabited

/-- The reads of the three copies of one remap entry (10 R267). -/
structure CopyReads where
  a : CopyRead
  b : CopyRead
  c : CopyRead
  deriving DecidableEq, Repr, Inhabited

/-- The self-tests of the two boot ROMs (17 R413). -/
structure RomTest where
  ok3 : Bool
  ok4 : Bool
  deriving DecidableEq, Repr, Inhabited

/-- What verification of a firmware image finds (17 R419). -/
structure FirmwareCheck where
  rsaOk : Bool
  slhOk : Bool
  keysOk : Bool
  arch : Nat
  svn : Nat
  lenOk : Bool
  deriving DecidableEq, Repr, Inhabited

/-- The outcome of a boot step (17 R413 to R416), and at a join that succeeds the measured round trip in ns to the field joined
through (16 R398). In `doneOne`, the boot field passes and the other host-port field fails. -/
inductive StepResult where
  | done (rtt : Nat)
  | doneOne (rtt : Nat)
  | failed
  | noPath
  deriving DecidableEq, Repr, Inhabited

/-- A host request to a BAR (17 R405): port 0 or 1, function, BAR, offset, a write's value or a read, length in bytes. -/
structure HostReq where
  port : Nat
  fn : Nat
  bar : Nat
  off : Nat
  len : Nat
  data : Option (List Byte)
  deriving DecidableEq, Repr, Inhabited

/-- Who writes a supervisor register (04 R113, 17 R408). -/
inductive Writer where
  | host (port fn : Nat)
  | firmware
  deriving DecidableEq, Repr, Inhabited

/-- One data slot of a link frame (18 Table 3): VC, half, and the 256 bits of the half mesh flit. -/
structure LinkSlot where
  vc : BitVec 3
  half : Bool
  bits : BitVec 256
  deriving DecidableEq, Repr, Inhabited

/-- A link frame (18 R428): sequence number, acknowledgement, replay request, data slots, credits, control message. -/
structure LinkFrame where
  fseq : BitVec 12
  ack : Option (BitVec 12)
  nak : Option (BitVec 12)
  slots : List (Option LinkSlot)
  cred : List Nat
  lcmOp : BitVec 4
  lcmLane : BitVec 4
  lcmWl : BitVec 4
  lcmStripe : BitVec 12
  deriving DecidableEq, Repr, Inhabited

/-- A laser module's readings (18 R440). -/
structure LaserReading where
  bias : Nat
  margin : BitVec 16
  temp : BitVec 12
  linePwr : List Nat
  deriving DecidableEq, Repr, Inhabited

/-- The instructions of the device: every row of the opcode table, node records first (02 Table 9), then the
device's own whole steps, whose arguments are what the environment or the choice of an item supplies. -/
inductive Instr where
  /-- PASS (R233). -/
  | pass (n : Node)
  /-- STEER (R233). -/
  | steer (n : Node)
  /-- MERGE (R234). -/
  | merge (n : Node)
  /-- MERGEC (R234). -/
  | mergec (n : Node)
  /-- GATE (R233). -/
  | gate (n : Node)
  /-- SYNC (R233). -/
  | sync (n : Node)
  /-- LENTER (R237). -/
  | lenter (n : Node)
  /-- LNEXT (R237). -/
  | lnext (n : Node)
  /-- LEXIT (R237). -/
  | lexit (n : Node)
  /-- LBOUND (R238). -/
  | lbound (n : Node)
  /-- LDONE (R237). -/
  | ldone (n : Node)
  /-- CALL (R241). -/
  | call (n : Node)
  /-- RET (R243). -/
  | ret (n : Node)
  /-- CFREE (R243). -/
  | cfree (n : Node)
  /-- TAGGET (R245). -/
  | tagget (n : Node)
  /-- TAGSET (R246). -/
  | tagset (n : NodeL)
  /-- EOS (R232). -/
  | eos (n : Node)
  /-- SINK (R232). -/
  | sink (n : Node)
  /-- PURGE (R247). -/
  | purge (n : Node)
  /-- TRAP (R248). -/
  | trap (n : Node)
  /-- BRK (R248). -/
  | brk (n : Node)
  /-- EVENT (R248). -/
  | event (n : Node)
  /-- LAUNCH (R249). -/
  | launch (n : Node) (e1 e2 : BitVec 86)
  /-- CTXALLOC (R241). -/
  | ctxalloc (n : Node)
  /-- CTXFREE (R243). -/
  | ctxfree (n : Node)
  /-- PACK (R250). -/
  | pack (n : Node)
  /-- UNPACK (R250). -/
  | unpack (n : Node)
  /-- BCAST (R250). -/
  | bcast (n : Node)
  /-- SHUF (R250). -/
  | shuf (n : Node)
  /-- LGET (R250). -/
  | lget (n : Node)
  /-- LPUT (R250). -/
  | lput (n : Node)
  /-- LRED (R251). -/
  | lred (n : Node)
  /-- LSCAN (R251). -/
  | lscan (n : Node)
  /-- WIDTH (R252). -/
  | width (n : Node)
  /-- IADD (R188). -/
  | iadd (n : Node)
  /-- ISUB (R188). -/
  | isub (n : Node)
  /-- IADDS (R189). -/
  | iadds (n : Node)
  /-- ISUBS (R189). -/
  | isubs (n : Node)
  /-- IMUL (R188). -/
  | imul (n : Node)
  /-- IMULH (R188). -/
  | imulh (n : Node)
  /-- IMAD (R188). -/
  | imad (n : Node)
  /-- IDIV (R190). -/
  | idiv (n : Node)
  /-- IREM (R190). -/
  | irem (n : Node)
  /-- IMIN (R191). -/
  | imin (n : Node)
  /-- IMAX (R191). -/
  | imax (n : Node)
  /-- IABS (R191). -/
  | iabs (n : Node)
  /-- INEG (R191). -/
  | ineg (n : Node)
  /-- AND (R192). -/
  | and (n : Node)
  /-- OR (R192). -/
  | or (n : Node)
  /-- XOR (R192). -/
  | xor (n : Node)
  /-- ANDN (R192). -/
  | andn (n : Node)
  /-- ORN (R192). -/
  | orn (n : Node)
  /-- SHL (R193). -/
  | shl (n : Node)
  /-- SHR (R193). -/
  | shr (n : Node)
  /-- SAR (R193). -/
  | sar (n : Node)
  /-- ROL (R193). -/
  | rol (n : Node)
  /-- CLZ (R194). -/
  | clz (n : Node)
  /-- CTZ (R194). -/
  | ctz (n : Node)
  /-- POPC (R194). -/
  | popc (n : Node)
  /-- BREV (R194). -/
  | brev (n : Node)
  /-- BFX (R195). -/
  | bfx (n : Node)
  /-- BFI (R195). -/
  | bfi (n : Node)
  /-- ICMP (R196). -/
  | icmp (n : Node)
  /-- SEL (R197). -/
  | sel (n : Node)
  /-- LIT (R198). -/
  | lit (n : NodeL)
  /-- AADR (R199). -/
  | aadr (n : NodeL)
  /-- CVTI (R200). -/
  | cvti (n : Node)
  /-- FADD (R204). -/
  | fadd (n : Node)
  /-- FSUB (R204). -/
  | fsub (n : Node)
  /-- FMUL (R204). -/
  | fmul (n : Node)
  /-- FDIV (R204). -/
  | fdiv (n : Node)
  /-- FMA (R205). -/
  | fma (n : Node)
  /-- FMS (R205). -/
  | fms (n : Node)
  /-- FNMA (R205). -/
  | fnma (n : Node)
  /-- FMIN (R206). -/
  | fmin (n : Node)
  /-- FMAX (R206). -/
  | fmax (n : Node)
  /-- FMINN (R206). -/
  | fminn (n : Node)
  /-- FMAXN (R206). -/
  | fmaxn (n : Node)
  /-- FABS (R207). -/
  | fabs (n : Node)
  /-- FNEG (R207). -/
  | fneg (n : Node)
  /-- FCPSGN (R207). -/
  | fcpsgn (n : Node)
  /-- FCMP (R210). -/
  | fcmp (n : Node)
  /-- FCLASS (R211). -/
  | fclass (n : Node)
  /-- FSQRT (R212). -/
  | fsqrt (n : Node)
  /-- FRSQ (R212). -/
  | frsq (n : Node)
  /-- FRCP (R212). -/
  | frcp (n : Node)
  /-- FEXP (R212). -/
  | fexp (n : Node)
  /-- FEXP2 (R212). -/
  | fexp2 (n : Node)
  /-- FLOG (R212). -/
  | flog (n : Node)
  /-- FLOG2 (R212). -/
  | flog2 (n : Node)
  /-- FSIN (R212). -/
  | fsin (n : Node)
  /-- FCOS (R212). -/
  | fcos (n : Node)
  /-- FSINCOS (R212). -/
  | fsincos (n : Node)
  /-- FTANH (R212). -/
  | ftanh (n : Node)
  /-- FSIGM (R212). -/
  | fsigm (n : Node)
  /-- FERF (R212). -/
  | ferf (n : Node)
  /-- FRND (R209). -/
  | frnd (n : Node)
  /-- FSCALE (R208). -/
  | fscale (n : Node)
  /-- FCVT (R215). -/
  | fcvt (n : Node)
  /-- FQUANT (R217). -/
  | fquant (n : Node)
  /-- FDEQ (R219). -/
  | fdeq (n : Node)
  /-- JORD (R221). -/
  | jord (n : Node)
  /-- JSEED (R223). -/
  | jseed (n : Node)
  /-- JCONST (R223). -/
  | jconst (n : Node)
  /-- JGET (R224). -/
  | jget (n : Node)
  /-- JPUT (R224). -/
  | jput (n : Node)
  /-- JDIFF (R225). -/
  | jdiff (n : Node)
  /-- JINTG (R225). -/
  | jintg (n : Node)
  /-- JTRUNC (R225). -/
  | jtrunc (n : Node)
  /-- JFLAG (R226). -/
  | jflag (n : Node)
  /-- ACCINIT (R117). -/
  | accinit (n : Node)
  /-- ACCADD (R119). -/
  | accadd (n : Node)
  /-- ACCMAX (R119). -/
  | accmax (n : Node)
  /-- ACCMIN (R119). -/
  | accmin (n : Node)
  /-- ACCRD (R120). -/
  | accrd (n : Node)
  /-- KRD (R122). -/
  | krd (n : Node)
  /-- KWR (R123). -/
  | kwr (n : Node)
  /-- CSRRD (R124). -/
  | csrrd (n : Node)
  /-- CSRWR (R124). -/
  | csrwr (n : Node)
  /-- WLOAD (R132). -/
  | wload (n : Node)
  /-- WLOADX (R133). -/
  | wloadx (n : Node)
  /-- WSWAP (R134). -/
  | wswap (n : Node)
  /-- MMA (R135). -/
  | mma (n : Node) (e1 : BitVec 86)
  /-- MMAJ (R135). -/
  | mmaj (n : Node) (e1 : BitVec 86)
  /-- MMAX (R136). -/
  | mmax (n : Node) (e1 e2 : BitVec 86)
  /-- APZERO (R138). -/
  | apzero (n : Node)
  /-- APMV (R139). -/
  | apmv (n : Node)
  /-- APPEEK (R140). -/
  | appeek (n : Node)
  /-- JOBPOLL (R141). -/
  | jobpoll (n : Node)
  /-- JOBWAIT (R141). -/
  | jobwait (n : Node)
  /-- LD (R376). -/
  | ld (n : Node)
  /-- ST (R376). -/
  | st (n : Node)
  /-- LDG (R376). -/
  | ldg (n : Node)
  /-- STS (R376). -/
  | sts (n : Node)
  /-- STRM (R378). -/
  | strm (n : Node) (e1 : BitVec 86)
  /-- STRMST (R378). -/
  | strmst (n : Node) (e1 : BitVec 86)
  /-- PREF (R376). -/
  | pref (n : Node)
  /-- TLD (R381). -/
  | tld (n : Node)
  /-- TST (R381). -/
  | tst (n : Node)
  /-- AADD (R382). -/
  | aadd (n : Node)
  /-- AFADD (R382). -/
  | afadd (n : Node)
  /-- AMIN (R382). -/
  | amin (n : Node)
  /-- AMAX (R382). -/
  | amax (n : Node)
  /-- AAND (R382). -/
  | aand (n : Node)
  /-- AOR (R382). -/
  | aor (n : Node)
  /-- AXOR (R382). -/
  | axor (n : Node)
  /-- AXCHG (R382). -/
  | axchg (n : Node)
  /-- ACAS (R382). -/
  | acas (n : Node)
  /-- AINCB (R382). -/
  | aincb (n : Node)
  /-- FENCE (R384). -/
  | fence (n : Node)
  /-- CPY (R387). -/
  | cpy (n : Node) (e1 : BitVec 86)
  /-- CPYD (R388). -/
  | cpyd (n : Node) (e1 : BitVec 86)
  /-- CPYE (R388). -/
  | cpye (n : Node) (e1 : BitVec 86)
  /-- MCAST (R390). -/
  | mcast (n : Node) (e1 e2 : BitVec 86)
  /-- GATH (R389). -/
  | gath (n : Node) (e1 : BitVec 86)
  /-- SCAT (R389). -/
  | scat (n : Node) (e1 : BitVec 86)
  /-- TFILL (R393). -/
  | tfill (n : Node)
  /-- TEVICT (R393). -/
  | tevict (n : Node)
  /-- TINV (R393). -/
  | tinv (n : Node)
  /-- LOOKUP (R303). -/
  | lookup (n : Node)
  /-- TSTATE (R304). -/
  | tstate (n : Node)
  /-- TSET (R304). -/
  | tset (n : Node)
  /-- RTRD (R305). -/
  | rtrd (n : Node)
  /-- RTWR (R305). -/
  | rtwr (n : Node)
  /-- MAPRD (R306). -/
  | maprd (n : Node)
  /-- BANDRD (R307). -/
  | bandrd (n : Node)
  /-- QOPEN (R310). -/
  | qopen (n : Node) (e1 e2 : BitVec 86)
  /-- QCONTRIB (R311). -/
  | qcontrib (n : Node)
  /-- QCLOSE (R312). -/
  | qclose (n : Node)
  /-- QSTAT (R312). -/
  | qstat (n : Node)
  /-- QLAG (R312). -/
  | qlag (n : Node)
  /-- QWSET (R313). -/
  | qwset (n : Node)
  /-- CWALK (R314). -/
  | cwalk (n : Node) (e1 : BitVec 86)
  /-- TIME (R402). -/
  | time (n : Node)
  /-- TOFFS (R402). -/
  | toffs (n : Node)
  /-- CNTRD (R402). -/
  | cntrd (n : Node)
  /-- CNTWR (R402). -/
  | cntwr (n : Node)
  /-- EXT (R43). -/
  | ext (v : BitVec 86)
  /-- TOKEN_ARRIVAL (R150). -/
  | tokenArrival (k : Nat)
  /-- STICKY_OVERFLOW_SCAN (R257). -/
  | stickyOverflowScan (asid lc : Nat)
  /-- MATCH_REFILL (R152). -/
  | matchRefill (asid lc : Nat)
  /-- CHANNEL_OVERFLOW_SPILL (R153). -/
  | channelOverflowSpill (asid lc vc : Nat)
  /-- CHANNEL_OVERFLOW_REPLAY (R153). -/
  | channelOverflowReplay (asid lc vc : Nat)
  /-- READY_QUEUE_ENTRY (R25). -/
  | readyQueueEntry (core : Nat)
  /-- COLOUR_REFILL (R109). -/
  | colourRefill (asid lc colour : Nat)
  /-- STARVATION_TIMEOUT (R159). -/
  | starvationTimeout (asid lc k : Nat)
  /-- COLOUR_RETURN (R244). -/
  | colourReturn (asid colour : Nat)
  /-- TRAP_TOKEN_RECEIPT (R174). -/
  | trapTokenReceipt (k : Nat)
  /-- ENGINE_COMMAND_ENQUEUE (R127). -/
  | engineCommandEnqueue (k : Nat)
  /-- ENGINE_JOB_GRANT (R161). -/
  | engineJobGrant (cluster eng : Nat)
  /-- MATRIX_JOB_START (R128). -/
  | matrixJobStart (cluster : Nat)
  /-- MMAJ_PLANE_RETIRE (R135). -/
  | mmajPlaneRetire (cluster : Nat)
  /-- MATRIX_JOB_RETIRE (R128). -/
  | matrixJobRetire (cluster k : Nat)
  /-- APPEEK_RESPONSE (R140). -/
  | appeekResponse (cluster : Nat)
  /-- COPY_JOB_START (R386). -/
  | copyJobStart (cluster k : Nat)
  /-- COPY_TILE_CLAIM (R386). -/
  | copyTileClaim (cluster k : Nat)
  /-- ENGINE_LINE_OWNERSHIP (R361). -/
  | engineLineOwnership (cluster k : Nat)
  /-- COPY_JOB_RETIRE (R386). -/
  | copyJobRetire (cluster k : Nat)
  /-- MULTICAST_DELIVERY (R392). -/
  | multicastDelivery (k : Nat)
  /-- CHAIN_ORDER_ENTRY (R351). -/
  | chainOrderEntry (asid lc k : Nat)
  /-- MEMORY_ACCESS_RELEASE (R353). -/
  | memoryAccessRelease (asid lc k : Nat)
  /-- HOME_ACCESS (R355). -/
  | homeAccess (k : Nat)
  /-- MEMORY_REPLY (R373). -/
  | memoryReply (asid lc k : Nat)
  /-- WRITE_RESEND (R367). -/
  | writeResend (k : Nat)
  /-- WRITE_RESEND_EXPIRY (R367). -/
  | writeResendExpiry (k : Nat)
  /-- STREAM_COMPLETE (R379). -/
  | streamComplete (asid lc k : Nat)
  /-- SPECULATIVE_FILL_COMPLETE (R272). -/
  | speculativeFillComplete (asid lc k : Nat)
  /-- TLB_MISS_WALK (R344). -/
  | tlbMissWalk (field asid vpn : Nat) (who : Miss)
  /-- WALK_COMPLETE (R344). -/
  | walkComplete (field k : Nat)
  /-- PAGE_FAULT_RESOLUTION (R345). -/
  | pageFaultResolution (field k : Nat) (leaf : Option DWord)
  /-- BACKING_PAGE_TIMEOUT (R411). -/
  | backingPageTimeout (field k : Nat)
  /-- INVALIDATE_ALL (R347). -/
  | invalidateAll (field : Nat)
  /-- INVALIDATE_ASID (R347). -/
  | invalidateAsid (field asid : Nat)
  /-- INVALIDATE_RANGE (R347). -/
  | invalidateRange (field asid : Nat)
  /-- INVALIDATION_COMPLETE (R276). -/
  | invalidationComplete (field : Nat)
  /-- START_TOKEN_INJECTION (R23). -/
  | startTokenInjection (asid : Nat)
  /-- MEETING_COMMAND_DEQUEUE (R308). -/
  | meetingCommandDequeue (field : Nat) (k : Nat)
  /-- CONTRIBUTION_ARRIVAL (R286). -/
  | contributionArrival (field k : Nat)
  /-- ROUND_TIMEOUT (R293). -/
  | roundTimeout (field e : Nat)
  /-- RING_CHUNK_ARRIVAL (R296). -/
  | ringChunkArrival (k : Nat)
  /-- RING_CREDIT_ARRIVAL (R297). -/
  | ringCreditArrival (k : Nat)
  /-- RING_TIMEOUT (R298). -/
  | ringTimeout (field k : Nat)
  /-- DEAD_NOTICE (R299). -/
  | deadNotice (k : Nat)
  /-- COMPLETION_INDEX (R299). -/
  | completionIndex (k : Nat)
  /-- REPORT_RING_WRITE (R412). -/
  | reportRingWrite
  /-- MAPPING_UNIT_REQUEST (R306). -/
  | mappingUnitRequest (k : Nat)
  /-- PITCH_COMPLETION (R170). -/
  | pitchCompletion (asid : Nat)
  /-- WATCHDOG (R178). -/
  | watchdog (asid : Nat)
  /-- PREEMPTION_HALT (R180). -/
  | preemptionHalt (asid : Nat)
  /-- PREEMPTION_SAVE (R182). -/
  | preemptionSave (asid : Nat)
  /-- PITCH_RESTORE (R183). -/
  | pitchRestore (asid : Nat)
  /-- REFRESH_OPERATION (R331). -/
  | refreshOperation (cluster col layer : Nat) (forced : Bool)
  /-- BANK_SENSOR_READ (R330). -/
  | bankSensorRead (cluster col layer temp : Nat)
  /-- PATROL_SCRUB (R334). -/
  | patrolScrub (cluster col layer line : Nat) (e : EccResult)
  /-- BANK_LOSS (R327). -/
  | bankLoss (cluster col layer spare : Nat)
  /-- REBUILD_STRIPE (R327). -/
  | rebuildStripe (cluster col layer : Nat)
  /-- VERTICAL_BUS_FAILURE (R325). -/
  | verticalBusFailure (cluster col : Nat) (own : Bool)
  /-- COLUMN_LOSS (R329). -/
  | columnLoss (cluster col : Nat)
  /-- LAYER_SHUTDOWN (R332). -/
  | layerShutdown (cluster layer : Nat)
  /-- LAYER_RESTART (R332). -/
  | layerRestart (cluster layer : Nat)
  /-- LINK_CRC_FAILURE (R334). -/
  | linkCrcFailure (cx cy dir : Nat)
  /-- RESIDUE_CHECK_FAILURE (R334). -/
  | residueCheckFailure (unit : ResidueUnit)
  /-- CORE_RETIREMENT (R21). -/
  | coreRetirement (cx cy cause : Nat)
  /-- REBIND_COMPLETE (R270). -/
  | rebindComplete (asid lc : Nat)
  /-- REMAP_SCRUB (R267). -/
  | remapScrub (field e : Nat) (reads : CopyReads)
  /-- REMAP_REBUILD_COMPLETE (R268). -/
  | remapRebuildComplete (field e : Nat) (w : List DWord)
  /-- REMAP_ENTRY_WRITE (R269). -/
  | remapEntryWrite (field e : Nat) (w : List DWord)
  /-- BAND_MEASUREMENT (R278). -/
  | bandMeasurement (field f rtt0 rtt1 : Nat)
  /-- OFFSET_MEASUREMENT (R400). -/
  | offsetMeasurement (field f t1 t2 t3 : Nat)
  /-- DOORBELL (R406). -/
  | doorbell (port fn q val : Nat)
  /-- LQ_PROD_WRITE (R162). -/
  | lqProdWrite (port q val : Nat)
  /-- LAUNCH_INTAKE (R166). -/
  | launchIntake (q : Nat) (obj : Option GraphObj)
  /-- CANCEL (R173). -/
  | cancel (port queue index : Nat)
  /-- PREEMPT (R179). -/
  | preempt (port asid : Nat)
  /-- OWN_CLAIM (R409). -/
  | ownClaim (port : Nat)
  /-- OWN_RELEASE (R409). -/
  | ownRelease (port : Nat)
  /-- HB_BEAT (R407). -/
  | hbBeat (port : Nat)
  /-- OWNER_LOST (R409). -/
  | ownerLost
  /-- REGION_RELEASE (R324). -/
  | regionRelease (field : Nat)
  /-- UNIT_CLEAR (R411). -/
  | unitClear (field : Nat)
  /-- PAGE_GRANT (R411). -/
  | pageGrant (field : Nat)
  /-- CORE_RETIRE (R411). -/
  | coreRetire (field : Nat)
  /-- JOURNAL_CLEAR (R411). -/
  | journalClear (field : Nat)
  /-- SVN_COMMIT (R411). -/
  | svnCommit (field : Nat)
  /-- MAILBOX_BAD_COMMAND (R411). -/
  | mailboxBadCommand (field : Nat)
  /-- BOOT_START (R413). -/
  | bootStart (rom : RomTest) (fw : FirmwareCheck)
  /-- BOOT_STEP (R416). -/
  | bootStep (step : Nat) (ok : StepResult)
  /-- RCVCMD_GO (R418). -/
  | rcvcmdGo (port : Nat) (jclr : Bool)
  /-- IMAGE_VERIFICATION (R419). -/
  | imageVerification (port : Nat)
  /-- SPDM_REQUEST (R420). -/
  | spdmRequest (port index : Nat)
  /-- HOST_MEMORY_REQUEST (R405). -/
  | hostMemoryRequest (r : HostReq)
  /-- THROTTLE_STEP (R422). -/
  | throttleStep (field : Nat) (power : Bool)
  /-- THROTTLE_RECOVERY (R422). -/
  | throttleRecovery (field : Nat)
  /-- HOLD_CLEAR (R422). -/
  | holdClear (field : Nat)
  /-- CLKSET_WRITE (R423). -/
  | clksetWrite (port field code : Nat)
  /-- REGISTER_WRITE (R112). -/
  | registerWrite (src : Writer) (pa : Nat) (val : DWord)
  /-- PORT_EGRESS (R427). -/
  | portEgress (port k : Nat)
  /-- FRAME_RECEIVE (R429). -/
  | frameReceive (port lane corr : Nat) (f : Option (BitVec 2570))
  /-- NAK_REPLAY (R431). -/
  | nakReplay (port lane seq : Nat)
  /-- LANE_TUNE_DONE (R433). -/
  | laneTuneDone (port lane mon : Nat)
  /-- LANE_TRAIN_DONE (R433). -/
  | laneTrainDone (port lane : Nat)
  /-- RING_FAULT (R434). -/
  | ringFault (port site : Nat)
  /-- BER_FAULT (R434). -/
  | berFault (port lane : Nat)
  /-- MOVE (R434). -/
  | move (port lane wl : Nat)
  /-- MOVEACK (R434). -/
  | moveack (port lane : Nat)
  /-- MOVENAK (R434). -/
  | movenak (port lane : Nat)
  /-- RESTRIPE (R435). -/
  | restripe (port lane stripe : Nat)
  /-- DOWN (R435). -/
  | down (port : Nat)
  /-- PORT_RETRAIN (R435). -/
  | portRetrain (port : Nat)
  /-- LOCK_LOOP (R437). -/
  | lockLoop (port site : Nat) (lo mid hi temp : Nat)
  /-- RING_PAGE_SAMPLE (R438). -/
  | ringPageSample (port : Nat) (mon temp : List Nat)
  /-- RING_PAGE_POLL (R438). -/
  | ringPagePoll (port : Nat)
  /-- PCTL_WRITE (R433). -/
  | pctlWrite (src : Writer) (port : Nat) (val : DWord)
  /-- LASER_UPDATE (R440). -/
  | laserUpdate (m : Nat) (r : LaserReading)
  /-- LINK_UP_CHANGE (R407). -/
  | linkUpChange (port : Nat) (up : Bool) (rate width : Nat)
  /-- HOST_PORT_COMPLETION (R383). -/
  | hostPortCompletion (k : Nat) (ok : Bool)
  /-- POWER_LOSS (R418). -/
  | powerLoss (flashing : Bool)
  deriving DecidableEq, Repr

end Sys2Proof
end

