-- ==== Sys2Proof/Machine/NodeView.lean ====
section
/-! DEFINITION. Node records seen as fields: the view of every instruction that a node record holds, whatever its format
(02 R36 to R43, Table 9). -/
namespace Sys2Proof.Machine

/-- Matching action codes (02 Table 8). -/
def actCode : Act → BitVec 3
  | .pass => 0 | .assoc => 1 | .frame => 2 | .sticky => 3 | .purge => 4 | .scale => 5

/-- A node record read as fields, whatever its format (02 R36, R41, R42). -/
structure NV where
  opc : BitVec 10
  typ : ETyp
  ary : Ary
  tgo : Tgo
  mod : BitVec 3
  dstA : Dest
  dstB : Dest
  actA : Act
  actB : Act
  lit : Nat
  e1 : Nat
  e2 : Nat
  deriving DecidableEq, Repr, Inhabited

/-- Bits `[lo + n - 1 : lo]` of a literal. -/
def NV.bits (v : NV) (lo n : Nat) : Nat := v.lit / 2 ^ lo % 2 ^ n

/-- Bits of extension record 1. -/
def NV.x1 (v : NV) (lo n : Nat) : Nat := v.e1 / 2 ^ lo % 2 ^ n

/-- Bits of extension record 2. -/
def NV.x2 (v : NV) (lo n : Nat) : Nat := v.e2 / 2 ^ lo % 2 ^ n

/-- The view of a Format-D node. -/
def viewD (opc : BitVec 10) (n : Node) : NV :=
  { opc := opc, typ := n.typ, ary := n.ary, tgo := n.tgo, mod := n.mod, dstA := n.dstA, dstB := n.dstB, actA := n.actA,
    actB := n.actB, lit := n.lit.toNat, e1 := 0, e2 := 0 }

/-- The view of a Format-L node. -/
def viewL (opc : BitVec 10) (n : NodeL) : NV :=
  { opc := opc, typ := n.typ, ary := n.ary, tgo := n.tgo, mod := n.mod, dstA := n.dstA, dstB := .none, actA := n.actA,
    actB := .pass, lit := n.lit.toNat, e1 := 0, e2 := 0 }

/-- The view of a Format-X node with its extension records. -/
def viewX (opc : BitVec 10) (n : Node) (e1 e2 : BitVec 86) : NV :=
  { viewD opc n with e1 := e1.toNat, e2 := e2.toNat }

/-- The node record that an instruction is: its fields; none for the device's own steps, which no record holds. -/
def view : Instr → Option NV
  | .pass n => some (viewD 0 n)
  | .steer n => some (viewD 1 n)
  | .merge n => some (viewD 2 n)
  | .mergec n => some (viewD 3 n)
  | .gate n => some (viewD 4 n)
  | .sync n => some (viewD 5 n)
  | .lenter n => some (viewD 6 n)
  | .lnext n => some (viewD 7 n)
  | .lexit n => some (viewD 8 n)
  | .lbound n => some (viewD 9 n)
  | .ldone n => some (viewD 10 n)
  | .call n => some (viewD 11 n)
  | .ret n => some (viewD 12 n)
  | .cfree n => some (viewD 13 n)
  | .tagget n => some (viewD 14 n)
  | .tagset n => some (viewL 15 n)
  | .eos n => some (viewD 16 n)
  | .sink n => some (viewD 17 n)
  | .purge n => some (viewD 18 n)
  | .trap n => some (viewD 19 n)
  | .brk n => some (viewD 20 n)
  | .event n => some (viewD 21 n)
  | .launch n e1 e2 => some (viewX 22 n e1 e2)
  | .ctxalloc n => some (viewD 64 n)
  | .ctxfree n => some (viewD 65 n)
  | .pack n => some (viewD 66 n)
  | .unpack n => some (viewD 67 n)
  | .bcast n => some (viewD 68 n)
  | .shuf n => some (viewD 69 n)
  | .lget n => some (viewD 70 n)
  | .lput n => some (viewD 71 n)
  | .lred n => some (viewD 72 n)
  | .lscan n => some (viewD 73 n)
  | .width n => some (viewD 74 n)
  | .iadd n => some (viewD 128 n)
  | .isub n => some (viewD 129 n)
  | .iadds n => some (viewD 130 n)
  | .isubs n => some (viewD 131 n)
  | .imul n => some (viewD 132 n)
  | .imulh n => some (viewD 133 n)
  | .imad n => some (viewD 134 n)
  | .idiv n => some (viewD 135 n)
  | .irem n => some (viewD 136 n)
  | .imin n => some (viewD 137 n)
  | .imax n => some (viewD 138 n)
  | .iabs n => some (viewD 139 n)
  | .ineg n => some (viewD 140 n)
  | .and n => some (viewD 141 n)
  | .or n => some (viewD 142 n)
  | .xor n => some (viewD 143 n)
  | .andn n => some (viewD 144 n)
  | .orn n => some (viewD 145 n)
  | .shl n => some (viewD 146 n)
  | .shr n => some (viewD 147 n)
  | .sar n => some (viewD 148 n)
  | .rol n => some (viewD 149 n)
  | .clz n => some (viewD 150 n)
  | .ctz n => some (viewD 151 n)
  | .popc n => some (viewD 152 n)
  | .brev n => some (viewD 153 n)
  | .bfx n => some (viewD 154 n)
  | .bfi n => some (viewD 155 n)
  | .icmp n => some (viewD 156 n)
  | .sel n => some (viewD 157 n)
  | .lit n => some (viewL 158 n)
  | .aadr n => some (viewL 159 n)
  | .cvti n => some (viewD 160 n)
  | .fadd n => some (viewD 256 n)
  | .fsub n => some (viewD 257 n)
  | .fmul n => some (viewD 258 n)
  | .fdiv n => some (viewD 259 n)
  | .fma n => some (viewD 260 n)
  | .fms n => some (viewD 261 n)
  | .fnma n => some (viewD 262 n)
  | .fmin n => some (viewD 263 n)
  | .fmax n => some (viewD 264 n)
  | .fminn n => some (viewD 265 n)
  | .fmaxn n => some (viewD 266 n)
  | .fabs n => some (viewD 267 n)
  | .fneg n => some (viewD 268 n)
  | .fcpsgn n => some (viewD 269 n)
  | .fcmp n => some (viewD 270 n)
  | .fclass n => some (viewD 271 n)
  | .fsqrt n => some (viewD 272 n)
  | .frsq n => some (viewD 273 n)
  | .frcp n => some (viewD 274 n)
  | .fexp n => some (viewD 275 n)
  | .fexp2 n => some (viewD 276 n)
  | .flog n => some (viewD 277 n)
  | .flog2 n => some (viewD 278 n)
  | .fsin n => some (viewD 279 n)
  | .fcos n => some (viewD 280 n)
  | .fsincos n => some (viewD 281 n)
  | .ftanh n => some (viewD 282 n)
  | .fsigm n => some (viewD 283 n)
  | .ferf n => some (viewD 284 n)
  | .frnd n => some (viewD 285 n)
  | .fscale n => some (viewD 286 n)
  | .fcvt n => some (viewD 287 n)
  | .fquant n => some (viewD 288 n)
  | .fdeq n => some (viewD 289 n)
  | .jord n => some (viewD 384 n)
  | .jseed n => some (viewD 385 n)
  | .jconst n => some (viewD 386 n)
  | .jget n => some (viewD 387 n)
  | .jput n => some (viewD 388 n)
  | .jdiff n => some (viewD 389 n)
  | .jintg n => some (viewD 390 n)
  | .jtrunc n => some (viewD 391 n)
  | .jflag n => some (viewD 392 n)
  | .accinit n => some (viewD 448 n)
  | .accadd n => some (viewD 449 n)
  | .accmax n => some (viewD 450 n)
  | .accmin n => some (viewD 451 n)
  | .accrd n => some (viewD 452 n)
  | .krd n => some (viewD 453 n)
  | .kwr n => some (viewD 454 n)
  | .csrrd n => some (viewD 455 n)
  | .csrwr n => some (viewD 456 n)
  | .wload n => some (viewD 512 n)
  | .wloadx n => some (viewD 513 n)
  | .wswap n => some (viewD 514 n)
  | .mma n e => some (viewX 515 n e 0)
  | .mmaj n e => some (viewX 516 n e 0)
  | .mmax n e1 e2 => some (viewX 517 n e1 e2)
  | .apzero n => some (viewD 518 n)
  | .apmv n => some (viewD 519 n)
  | .appeek n => some (viewD 520 n)
  | .jobpoll n => some (viewD 521 n)
  | .jobwait n => some (viewD 522 n)
  | .ld n => some (viewD 576 n)
  | .st n => some (viewD 577 n)
  | .ldg n => some (viewD 578 n)
  | .sts n => some (viewD 579 n)
  | .strm n e => some (viewX 580 n e 0)
  | .strmst n e => some (viewX 581 n e 0)
  | .pref n => some (viewD 582 n)
  | .tld n => some (viewD 583 n)
  | .tst n => some (viewD 584 n)
  | .aadd n => some (viewD 640 n)
  | .afadd n => some (viewD 641 n)
  | .amin n => some (viewD 642 n)
  | .amax n => some (viewD 643 n)
  | .aand n => some (viewD 644 n)
  | .aor n => some (viewD 645 n)
  | .axor n => some (viewD 646 n)
  | .axchg n => some (viewD 647 n)
  | .acas n => some (viewD 648 n)
  | .aincb n => some (viewD 649 n)
  | .fence n => some (viewD 650 n)
  | .cpy n e => some (viewX 704 n e 0)
  | .cpyd n e => some (viewX 705 n e 0)
  | .cpye n e => some (viewX 706 n e 0)
  | .mcast n e1 e2 => some (viewX 707 n e1 e2)
  | .gath n e => some (viewX 708 n e 0)
  | .scat n e => some (viewX 709 n e 0)
  | .tfill n => some (viewD 710 n)
  | .tevict n => some (viewD 711 n)
  | .tinv n => some (viewD 712 n)
  | .lookup n => some (viewD 768 n)
  | .tstate n => some (viewD 769 n)
  | .tset n => some (viewD 770 n)
  | .rtrd n => some (viewD 771 n)
  | .rtwr n => some (viewD 772 n)
  | .maprd n => some (viewD 773 n)
  | .bandrd n => some (viewD 774 n)
  | .qopen n e1 e2 => some (viewX 775 n e1 e2)
  | .qcontrib n => some (viewD 776 n)
  | .qclose n => some (viewD 777 n)
  | .qstat n => some (viewD 778 n)
  | .qlag n => some (viewD 779 n)
  | .qwset n => some (viewD 780 n)
  | .cwalk n e => some (viewX 781 n e 0)
  | .time n => some (viewD 832 n)
  | .toffs n => some (viewD 833 n)
  | .cntrd n => some (viewD 834 n)
  | .cntwr n => some (viewD 835 n)
  | .ext v => some { viewD 0x3FF default with e1 := v.toNat }
  | .tokenArrival _ => none
  | .stickyOverflowScan _ _ => none
  | .matchRefill _ _ => none
  | .channelOverflowSpill _ _ _ => none
  | .channelOverflowReplay _ _ _ => none
  | .readyQueueEntry _ => none
  | .colourRefill _ _ _ => none
  | .starvationTimeout _ _ _ => none
  | .colourReturn _ _ => none
  | .trapTokenReceipt _ => none
  | .engineCommandEnqueue _ => none
  | .engineJobGrant _ _ => none
  | .matrixJobStart _ => none
  | .mmajPlaneRetire _ => none
  | .matrixJobRetire _ _ => none
  | .appeekResponse _ => none
  | .copyJobStart _ _ => none
  | .copyTileClaim _ _ => none
  | .engineLineOwnership _ _ => none
  | .copyJobRetire _ _ => none
  | .multicastDelivery _ => none
  | .chainOrderEntry _ _ _ => none
  | .memoryAccessRelease _ _ _ => none
  | .homeAccess _ => none
  | .memoryReply _ _ _ => none
  | .writeResend _ => none
  | .writeResendExpiry _ => none
  | .streamComplete _ _ _ => none
  | .speculativeFillComplete _ _ _ => none
  | .tlbMissWalk _ _ _ _ => none
  | .walkComplete _ _ => none
  | .pageFaultResolution _ _ _ => none
  | .backingPageTimeout _ _ => none
  | .invalidateAll _ => none
  | .invalidateAsid _ _ => none
  | .invalidateRange _ _ => none
  | .invalidationComplete _ => none
  | .refreshOperation _ _ _ _ => none
  | .bankSensorRead _ _ _ _ => none
  | .patrolScrub _ _ _ _ _ => none
  | .bankLoss _ _ _ _ => none
  | .rebuildStripe _ _ _ => none
  | .verticalBusFailure _ _ _ => none
  | .columnLoss _ _ => none
  | .layerShutdown _ _ => none
  | .layerRestart _ _ => none
  | .linkCrcFailure _ _ _ => none
  | .residueCheckFailure _ => none
  | .coreRetirement _ _ _ => none
  | .rebindComplete _ _ => none
  | .remapScrub _ _ _ => none
  | .remapRebuildComplete _ _ _ => none
  | .remapEntryWrite _ _ _ => none
  | .bandMeasurement _ _ _ _ => none
  | .offsetMeasurement _ _ _ _ _ => none
  | .doorbell _ _ _ _ => none
  | .lqProdWrite _ _ _ => none
  | .launchIntake _ _ => none
  | .startTokenInjection _ => none
  | .pitchCompletion _ => none
  | .cancel _ _ _ => none
  | .preempt _ _ => none
  | .watchdog _ => none
  | .preemptionHalt _ => none
  | .preemptionSave _ => none
  | .pitchRestore _ => none
  | .meetingCommandDequeue _ _ => none
  | .contributionArrival _ _ => none
  | .roundTimeout _ _ => none
  | .ringChunkArrival _ => none
  | .ringCreditArrival _ => none
  | .ringTimeout _ _ => none
  | .deadNotice _ => none
  | .completionIndex _ => none
  | .ownClaim _ => none
  | .ownRelease _ => none
  | .hbBeat _ => none
  | .ownerLost => none
  | .regionRelease _ => none
  | .unitClear _ => none
  | .pageGrant _ => none
  | .coreRetire _ => none
  | .journalClear _ => none
  | .svnCommit _ => none
  | .mailboxBadCommand _ => none
  | .reportRingWrite => none
  | .bootStart _ _ => none
  | .bootStep _ _ => none
  | .rcvcmdGo _ _ => none
  | .imageVerification _ => none
  | .spdmRequest _ _ => none
  | .hostMemoryRequest _ => none
  | .throttleStep _ _ => none
  | .throttleRecovery _ => none
  | .holdClear _ => none
  | .clksetWrite _ _ _ => none
  | .registerWrite _ _ _ => none
  | .portEgress _ _ => none
  | .frameReceive _ _ _ _ => none
  | .nakReplay _ _ _ => none
  | .laneTuneDone _ _ _ => none
  | .laneTrainDone _ _ => none
  | .ringFault _ _ => none
  | .berFault _ _ => none
  | .move _ _ _ => none
  | .moveack _ _ => none
  | .movenak _ _ => none
  | .restripe _ _ _ => none
  | .down _ => none
  | .portRetrain _ => none
  | .lockLoop _ _ _ _ _ _ => none
  | .ringPageSample _ _ _ => none
  | .ringPagePoll _ => none
  | .pctlWrite _ _ _ => none
  | .laserUpdate _ _ => none
  | .mappingUnitRequest _ => none
  | .linkUpChange _ _ _ _ => none
  | .hostPortCompletion _ _ => none
  | .powerLoss _ => none

end Sys2Proof.Machine
end

