-- ==== Sys2Proof/Machine/OpSpec.lean ====
section
/-! DEFINITION. What each opcode accepts: types, arities, modifiers, tag operations, destinations and literal bits, with
the loader's diagnostics (02 Table 11; 05 R115, 07 R184, 08 R201, 09 R227, 12 R301, 15 R371, 16 R401). -/
namespace Sys2Proof.Machine

/-- Loader diagnostics (02 Table 11), and the DETAIL of an uncorrectable node-store error (04 Table 7). -/
inductive Diag where
  | object | opcode | ext | typ | ary | tgo | mod | action | dest | route | role | reserved | shape | token
  | uncorrectable
  deriving DecidableEq, Repr, Inhabited

/-- The code of a diagnostic. -/
def Diag.code : Diag → Nat
  | .object => 1 | .opcode => 2 | .ext => 3 | .typ => 4 | .ary => 5 | .tgo => 6 | .mod => 7 | .action => 8 | .dest => 9
  | .route => 10 | .role => 11 | .reserved => 12 | .shape => 13 | .token => 14
  | .uncorrectable => 255

/-- Type codes (02 Table 3). -/
def typCode : ETyp → Nat
  | .i32 => 0 | .n32 => 1 | .i64 => 2 | .n64 => 3 | .f32 => 4 | .bf16 => 5 | .f16 => 6 | .e4m3 => 7 | .e5m2 => 8
  | .e2m1 => 9 | .pred => 10

/-- Arity codes (02 Table 2). -/
def aryCode : Ary → Nat
  | .mono => 0 | .dyad => 1 | .const => 2 | .lit => 3

/-- Tag operation codes (02 Table 4). -/
def tgoCode : Tgo → Nat
  | .keep => 0 | .inc => 1 | .push => 2 | .pop => 3 | .zero => 4 | .set => 5 | .new => 6 | .cont => 7

/-- Which destinations an opcode may name (02 Table 7; 05 R125, 07 R184, 09 R243, R248, 12 R308, 15 R373, 08 R218). -/
inductive DstRule where
  | general | mx | mxReply | cu | mt | mtReply | none | trap | event | agent | quant
  deriving DecidableEq, Repr

/-- What an opcode accepts: extension records, Format L, and bit masks of TYP, ARY, MOD and TGO codes. -/
structure OpSpec where
  exts : Nat
  fmtL : Bool
  typ : Nat
  ary : Nat
  mod : Nat
  tgo : Nat
  dst : DstRule
  deriving DecidableEq, Repr

/-- A Format-D row. -/
def opD (typ ary mod tgo : Nat) (dst : DstRule) : OpSpec :=
  { exts := 0, fmtL := false, typ := typ, ary := ary, mod := mod, tgo := tgo, dst := dst }

/-- A Format-X row. -/
def opX (exts typ ary mod tgo : Nat) (dst : DstRule) : OpSpec :=
  { exts := exts, fmtL := false, typ := typ, ary := ary, mod := mod, tgo := tgo, dst := dst }

/-- The flow and tag group (09 Table 1). -/
def specFlow : Nat → Option OpSpec
  | 0x000 => some (opD 0x7FF 1 1 0xFF .general)
  | 0x001 => some (opD 0x7FF 3 1 0xFF .general)
  | 0x002 => some (opD 0x7FF 1 1 0xFF .general)
  | 0x003 => some (opD 0x7FF 1 1 0xFF .general)
  | 0x004 => some (opD 0x7FF 2 1 0xFF .general)
  | 0x005 => some (opD 0x7FF 2 1 0xFF .general)
  | 0x006 => some (opD 0x7FF 1 1 0x01 .general)
  | 0x007 => some (opD 0x7FF 1 1 0x01 .general)
  | 0x008 => some (opD 0x7FF 1 1 0x01 .general)
  | 0x009 => some (opD 0x7FF 1 1 0xFF .general)
  | 0x00A => some (opD 0x7FF 1 1 0xFF .general)
  | 0x00B => some (opD 0x7FF 1 1 0x01 .general)
  | 0x00C => some (opD 0x7FF 1 1 0x01 .none)
  | 0x00D => some (opD 0x7FF 1 1 0x81 .general)
  | 0x00E => some (opD 0x7FF 1 1 0xFF .general)
  | 0x00F => some { exts := 0, fmtL := true, typ := 0x7FF, ary := 3, mod := 1, tgo := 1, dst := .general }
  | 0x010 => some (opD 0x7FF 1 1 0xFF .general)
  | 0x011 => some (opD 0x7FF 1 1 0xDF .general)
  | 0x012 => some (opD 0x7FF 1 1 0xFF .general)
  | 0x013 => some (opD 0x7FF 1 1 0x9F .trap)
  | 0x014 => some (opD 0x7FF 3 1 0xFF .general)
  | 0x015 => some (opD 0x7FF 1 1 0x9F .event)
  | 0x016 => some (opX 2 0x7FF 1 1 0xFF .general)
  | _ => none

/-- The colour and lane group (09 Table 1). -/
def specLane : Nat → Option OpSpec
  | 0x040 => some (opD 0x7FF 1 1 0x01 .general)
  | 0x041 => some (opD 0x7FF 1 1 0xBF .general)
  | 0x042 => some (opD 0x7FF 2 1 0xFF .general)
  | 0x043 => some (opD 0x7FF 1 1 0xFF .general)
  | 0x044 => some (opD 0x7FF 1 1 0xFF .general)
  | 0x045 => some (opD 0x7FF 2 1 0xFF .general)
  | 0x046 => some (opD 0x7FF 3 1 0xFF .general)
  | 0x047 => some (opD 0x7FF 6 1 0xFF .general)
  | 0x048 => some (opD 0x013 1 0xFF 0xFF .general)
  | 0x049 => some (opD 0x013 1 0xFF 0xFF .general)
  | 0x04A => some (opD 0x7FF 1 1 0xFF .general)
  | _ => none

/-- The integer group (07 Table 1). -/
def specInt : Nat → Option OpSpec
  | 0x080 => some (opD 0x00F 0xE 1 0xFF .general)
  | 0x081 => some (opD 0x00F 0xE 1 0xFF .general)
  | 0x082 => some (opD 0x00F 0xE 1 0xFF .general)
  | 0x083 => some (opD 0x00F 0xE 1 0xFF .general)
  | 0x084 => some (opD 0x00F 0xE 1 0xFF .general)
  | 0x085 => some (opD 0x00F 0xE 1 0xFF .general)
  | 0x086 => some (opD 0x00F 0x6 1 0xFF .general)
  | 0x087 => some (opD 0x00F 0xE 1 0xFF .general)
  | 0x088 => some (opD 0x00F 0xE 1 0xFF .general)
  | 0x089 => some (opD 0x00F 0xE 1 0xFF .general)
  | 0x08A => some (opD 0x00F 0xE 1 0xFF .general)
  | 0x08B => some (opD 0x005 0x1 1 0xFF .general)
  | 0x08C => some (opD 0x00F 0x1 1 0xFF .general)
  | 0x08D => some (opD 0x40F 0xE 1 0xFF .general)
  | 0x08E => some (opD 0x40F 0xE 1 0xFF .general)
  | 0x08F => some (opD 0x40F 0xE 1 0xFF .general)
  | 0x090 => some (opD 0x40F 0xE 1 0xFF .general)
  | 0x091 => some (opD 0x40F 0xE 1 0xFF .general)
  | 0x092 => some (opD 0x00F 0xE 1 0xFF .general)
  | 0x093 => some (opD 0x00F 0xE 1 0xFF .general)
  | 0x094 => some (opD 0x00F 0xE 1 0xFF .general)
  | 0x095 => some (opD 0x00F 0xE 1 0xFF .general)
  | 0x096 => some (opD 0x00F 0x1 1 0xFF .general)
  | 0x097 => some (opD 0x00F 0x1 1 0xFF .general)
  | 0x098 => some (opD 0x00F 0x1 1 0xFF .general)
  | 0x099 => some (opD 0x00F 0x1 1 0xFF .general)
  | 0x09A => some (opD 0x00F 0x1 1 0xFF .general)
  | 0x09B => some (opD 0x00F 0x2 1 0xFF .general)
  | 0x09C => some (opD 0x00F 0x3 0xFF 0xFF .general)
  | 0x09D => some (opD 0x7FF 0x6 1 0xFF .general)
  | 0x09E => some { exts := 0, fmtL := true, typ := 0x41F, ary := 1, mod := 1, tgo := 0xDF, dst := .general }
  | 0x09F => some { exts := 0, fmtL := true, typ := 0x00C, ary := 3, mod := 1, tgo := 0xDF, dst := .general }
  | 0x0A0 => some (opD 0x00F 0x1 3 0xFF .general)
  | _ => none

/-- The floating group (08 Table 1). -/
def specFloat : Nat → Option OpSpec
  | 0x100 => some (opD 0x070 0xE 0x1F 0xFF .general)
  | 0x101 => some (opD 0x070 0xE 0x1F 0xFF .general)
  | 0x102 => some (opD 0x070 0xE 0x1F 0xFF .general)
  | 0x103 => some (opD 0x010 0xE 0x1F 0xFF .general)
  | 0x104 => some (opD 0x070 0x6 0x1F 0xFF .general)
  | 0x105 => some (opD 0x070 0x6 0x1F 0xFF .general)
  | 0x106 => some (opD 0x070 0x6 0x1F 0xFF .general)
  | 0x107 => some (opD 0x070 0xE 0x1F 0xFF .general)
  | 0x108 => some (opD 0x070 0xE 0x1F 0xFF .general)
  | 0x109 => some (opD 0x070 0xE 0x1F 0xFF .general)
  | 0x10A => some (opD 0x070 0xE 0x1F 0xFF .general)
  | 0x10B => some (opD 0x070 0x1 0x1F 0xFF .general)
  | 0x10C => some (opD 0x070 0x1 0x1F 0xFF .general)
  | 0x10D => some (opD 0x070 0xE 0x1F 0xFF .general)
  | 0x10E => some (opD 0x070 0x3 0xFF 0xFF .general)
  | 0x10F => some (opD 0x070 0x1 1 0xFF .general)
  | 0x110 => some (opD 0x010 0x1 0x1F 0xFF .general)
  | 0x111 => some (opD 0x010 0x1 0x1F 0xFF .general)
  | 0x112 => some (opD 0x010 0x1 0x1F 0xFF .general)
  | 0x113 => some (opD 0x010 0x1 0x1F 0xFF .general)
  | 0x114 => some (opD 0x010 0x1 0x1F 0xFF .general)
  | 0x115 => some (opD 0x010 0x1 0x1F 0xFF .general)
  | 0x116 => some (opD 0x010 0x1 0x1F 0xFF .general)
  | 0x117 => some (opD 0x010 0x1 0x1F 0xFF .general)
  | 0x118 => some (opD 0x010 0x1 0x1F 0xFF .general)
  | 0x119 => some (opD 0x010 0x1 0x1F 0xFF .general)
  | 0x11A => some (opD 0x010 0x1 0x1F 0xFF .general)
  | 0x11B => some (opD 0x010 0x1 0x1F 0xFF .general)
  | 0x11C => some (opD 0x010 0x1 0x1F 0xFF .general)
  | 0x11D => some (opD 0x010 0x1 0x1F 0xFF .general)
  | 0x11E => some (opD 0x010 0xE 0x1F 0xFF .general)
  | 0x11F => some (opD 0x3FF 0x1 0xFF 0xFF .general)
  | 0x120 => some (opD 0x380 0x1 0xFF 0xDF .quant)
  | 0x121 => some (opD 0x380 0x1 0x1F 0xFF .general)
  | _ => none

/-- The jet group (08 Table 1). -/
def specJet : Nat → Option OpSpec
  | 0x180 => some (opD 0x7FF 0x1 1 0xFF .general)
  | 0x181 => some (opD 0x010 0x7 1 0xFF .general)
  | 0x182 => some (opD 0x010 0x1 1 0xFF .general)
  | 0x183 => some (opD 0x010 0x1 0x1F 0xFF .general)
  | 0x184 => some (opD 0x010 0x6 0x1F 0xFF .general)
  | 0x185 => some (opD 0x010 0x1 0x1F 0xFF .general)
  | 0x186 => some (opD 0x010 0xF 1 0xFF .general)
  | 0x187 => some (opD 0x010 0x1 1 0xFF .general)
  | 0x188 => some (opD 0x7FF 0x1 1 0xFF .general)
  | _ => none

/-- Accumulators, registers and matrix commands (05 Table 1, R125). -/
def specAcc : Nat → Option OpSpec
  | 0x1C0 => some (opD 0x013 1 0x0F 0x9F .general)
  | 0x1C1 => some (opD 0x013 1 0x1F 0x9F .general)
  | 0x1C2 => some (opD 0x013 1 0x03 0x9F .general)
  | 0x1C3 => some (opD 0x013 1 0x03 0x9F .general)
  | 0x1C4 => some (opD 0x7FF 1 1 0xBF .general)
  | 0x1C5 => some (opD 0x7FF 1 1 0xBF .general)
  | 0x1C6 => some (opD 0x7FF 1 1 0xBF .general)
  | 0x1C7 => some (opD 0x7FF 1 1 0xBF .general)
  | 0x1C8 => some (opD 0x7FF 1 3 0xBF .general)
  | 0x200 => some (opD 1 3 0x0F 0x9F .mx)
  | 0x201 => some (opD 1 3 0x0F 0x9F .mx)
  | 0x202 => some (opD 1 3 0x0F 0x9F .mx)
  | 0x203 => some (opX 1 1 3 0x0F 0x9F .mx)
  | 0x204 => some (opX 1 1 3 0x0F 0x9F .mx)
  | 0x205 => some (opX 2 1 3 0x0F 0x9F .mx)
  | 0x206 => some (opD 1 3 0x0F 0x9F .mx)
  | 0x207 => some (opD 1 3 0xFF 0x9F .mx)
  | 0x208 => some (opD 1 3 1 0xBF .mxReply)
  | 0x209 => some (opD 1 1 1 0xBF .general)
  | 0x20A => some (opD 1 1 1 0xBF .general)
  | _ => none

/-- Memory, atomics and copy engine (15 Table 1, R373, R385). -/
def specMem : Nat → Option OpSpec
  | 0x240 => some (opD 0x7FF 1 0x1F 0x9F .agent)
  | 0x241 => some (opD 0x7FF 2 0x1F 0x9F .agent)
  | 0x242 => some (opD 0x7FF 1 0x1F 0x9F .agent)
  | 0x243 => some (opD 0x7FF 2 0x1F 0x9F .agent)
  | 0x244 => some (opX 1 0x7FF 1 0x1F 0x9F .agent)
  | 0x245 => some (opX 1 0x7FF 1 0x1F 0x9F .agent)
  | 0x246 => some (opD 0x7FF 1 0x1F 0x9F .agent)
  | 0x247 => some (opD 0x7FF 1 1 0x9F .agent)
  | 0x248 => some (opD 0x7FF 3 1 0x9F .agent)
  | 0x280 => some (opD 0x00F 2 0x1F 0x9F .agent)
  | 0x281 => some (opD 0x010 2 0x1F 0x9F .agent)
  | 0x282 => some (opD 0x00F 2 0x1F 0x9F .agent)
  | 0x283 => some (opD 0x00F 2 0x1F 0x9F .agent)
  | 0x284 => some (opD 0x00F 2 0x1F 0x9F .agent)
  | 0x285 => some (opD 0x00F 2 0x1F 0x9F .agent)
  | 0x286 => some (opD 0x00F 2 0x1F 0x9F .agent)
  | 0x287 => some (opD 0x01F 2 0x1F 0x9F .agent)
  | 0x288 => some (opD 0x00F 2 0x1F 0x9F .agent)
  | 0x289 => some (opD 0x00A 2 0x1F 0x9F .agent)
  | 0x28A => some (opD 0x7FF 1 0x1F 0x9F .agent)
  | 0x2C0 => some (opX 1 0x7FF 1 0x0F 0x9F .cu)
  | 0x2C1 => some (opX 1 0x7FF 1 0xFF 0x9F .cu)
  | 0x2C2 => some (opX 1 0x7FF 1 0xFF 0x9F .cu)
  | 0x2C3 => some (opX 2 0x7FF 1 0x0F 0x9F .cu)
  | 0x2C4 => some (opX 1 0x7FF 1 0x0F 0x9F .cu)
  | 0x2C5 => some (opX 1 0x7FF 1 0x0F 0x9F .cu)
  | 0x2C6 => some (opD 0x7FF 1 0x0F 0x9F .cu)
  | 0x2C7 => some (opD 0x7FF 1 0xFF 0x9F .cu)
  | 0x2C8 => some (opD 0x7FF 1 0x0F 0x9F .cu)
  | _ => none

/-- Tables, meetings and counters (12 Table 1, R308; 16 Table 3). CWALK does not take `^set`: its literal uses
LIT[17:0], and R39 gives `^set` only to literals confined to LIT[15:0], where 12 Table 1 lists TGO 0 to 7
(DESIGN CHOICE, log 80). -/
def specTab : Nat → Option OpSpec
  | 0x300 => some (opD 0x7FF 1 1 0xFF .general)
  | 0x301 => some (opD 0x7FF 1 1 0xFF .general)
  | 0x302 => some (opD 0x7FF 1 1 0xFF .general)
  | 0x303 => some (opD 0x7FF 3 1 0xFF .general)
  | 0x304 => some (opD 0x7FF 3 1 0xFF .general)
  | 0x305 => some (opD 0x7FF 3 1 0xDF .general)
  | 0x306 => some (opD 0x7FF 3 1 0xFF .general)
  | 0x307 => some (opX 2 0x7FF 1 1 0xDF .mt)
  | 0x308 => some (opD 0x7FF 0xE 1 0xDF .mt)
  | 0x309 => some (opD 0x7FF 5 1 0xFF .mt)
  | 0x30A => some (opD 0x7FF 5 1 0xFF .mtReply)
  | 0x30B => some (opD 0x7FF 5 1 0xDF .mtReply)
  | 0x30C => some (opD 0x7FF 1 1 0xFF .mt)
  | 0x30D => some (opX 1 0x7FF 1 1 0xFF .mt)
  | 0x340 => some (opD 0x7FF 1 1 0xFF .general)
  | 0x341 => some (opD 0x7FF 3 1 0xFF .general)
  | 0x342 => some (opD 0x7FF 3 1 0xDF .general)
  | 0x343 => some (opD 0x7FF 1 1 0xFF .general)
  | _ => none

/-- What an opcode accepts; none for a code that is not assigned (02 Table 9). -/
def opSpec (opc : Nat) : Option OpSpec :=
  match opc / 64 with
  | 0 => specFlow opc
  | 1 => specLane opc
  | 2 => specInt opc
  | 4 => specFloat opc
  | 6 => specJet opc
  | 7 => specAcc opc
  | 8 => specAcc opc
  | 9 => specMem opc
  | 10 => specMem opc
  | 11 => specMem opc
  | 12 => specTab opc
  | 13 => specTab opc
  | _ => none

/-- Whether bit `i` of a mask is set. -/
def maskBit (m i : Nat) : Bool := m / 2 ^ i % 2 == 1

/-- Whether TYP is one that the opcode accepts (E_TYP), with the pairing of 08 R215. -/
def typOk (v : NV) (sp : OpSpec) : Bool :=
  maskBit sp.typ (typCode v.typ) &&
    (if v.opc = 0x11F then decide (v.bits 0 4 ≤ 9) && !(decide (v.bits 0 4 ≤ 3) && decide (typCode v.typ ≤ 3))
     else true)

/-- Whether ARY is accepted (E_ARY), with the pairing of FCMP (08 R201, R210). -/
def aryOk (v : NV) (sp : OpSpec) : Bool :=
  maskBit sp.ary (aryCode v.ary) && !(v.opc == 0x10E && v.ary == .mono && v.typ == .f16)

/-- Whether TGO is accepted (E_TGO), with the conditions on ^set and on CFREE (05 R115, 07 R185, 08 R202, 09 Table 1). -/
def tgoOk (v : NV) (sp : OpSpec) : Bool :=
  maskBit sp.tgo (tgoCode v.tgo) &&
    (if v.opc = 0x00D then (v.tgo == .cont) || (v.dstA == .none && v.dstB == .none)
     else if v.tgo = .set then
       v.ary != .lit && !(v.opc == 0x09C && v.ary == .mono) && !(v.opc == 0x10E && v.ary == .mono) &&
         !(v.opc == 0x1C8 && v.mod == 1)
     else true)

/-- Whether MOD is accepted (E_MOD), with the pairings of 05 Table 1 and 09 R251. -/
def modOk (v : NV) (sp : OpSpec) : Bool :=
  maskBit sp.mod v.mod.toNat &&
    (if v.opc = 0x1C1 then v.typ == .f32 || v.mod == 0
     else if v.opc = 0x1C2 ∨ v.opc = 0x1C3 then v.typ == .f32 || v.mod == 0
     else if v.opc = 0x048 ∨ v.opc = 0x049 then (v.typ == .f32) == decide (v.mod.toNat ≤ 2)
     else true)

/-- Whether a matching action suits a destination (02 R48). -/
def actOk (d : Dest) (a : Act) : Bool :=
  match d with
  | .none => a != .scale
  | .node _ _ => a != .scale
  | .route _ => a != .scale
  | .scale => a == .scale
  | _ => a == .pass

/-- A destination of the kinds of 07 R184. -/
def dstGeneral : Dest → Bool
  | .mx => false | .cu => false | .mt => false | .scale => false | _ => true

/-- A destination that is none, a local node or a route entry. -/
def dstAgent : Dest → Bool
  | .none => true | .node _ _ => true | .route _ => true | _ => false

/-- Whether the destinations are ones that the opcode may name (E_DEST). -/
def dstOk (v : NV) (sp : OpSpec) : Bool :=
  match sp.dst with
  | .general => dstGeneral v.dstA && dstGeneral v.dstB
  | .mx => v.dstA == .mx && dstAgent v.dstB
  | .mxReply => v.dstA == .mx && dstAgent v.dstB && v.dstB != .none
  | .cu => v.dstA == .cu && dstAgent v.dstB
  | .mt => v.dstA == .mt && dstAgent v.dstB
  | .mtReply => v.dstA == .mt && dstAgent v.dstB && v.dstB != .none
  | .none => v.dstA == .none && v.dstB == .none
  | .trap => v.dstA == .trap && v.dstB == .none
  | .event => v.dstA == .event && dstGeneral v.dstB
  | .agent => dstAgent v.dstA && dstAgent v.dstB
  | .quant =>
    if v.bits 0 1 = 1 then v.dstA == .none && v.dstB == .scale
    else dstGeneral v.dstA && (dstAgent v.dstB || v.dstB == .scale)

/-- The fire-time checks of a record's fields, codes 0x04 to 0x09 of Table 11, in their order (02 R57, R58). -/
def checkFields (v : NV) : Option Diag :=
  match opSpec v.opc.toNat with
  | none => some .opcode
  | some sp =>
    if !typOk v sp then some .typ
    else if !aryOk v sp then some .ary
    else if !tgoOk v sp then some .tgo
    else if !modOk v sp then some .mod
    else if !(actOk v.dstA v.actA && actOk v.dstB v.actB) then some .action
    else if !dstOk v sp then some .dest
    else none

/-- Literal bits that operand forms use: K[n] under ARY 2, all bits under ARY 3. -/
def kBits (v : NV) : Nat :=
  match v.ary with | .const => 0x3F | .lit => 0xFFFFFFFF | _ => 0

/-- The literal bits that an instruction declares used (the rest are reserved; E_RESERVED). -/
def litUsed (v : NV) : Nat :=
  match v.opc.toNat with
  | 0x001 => 1 | 0x004 => 1
  | 0x006 => 0xFFFF | 0x009 => 0xFFFF
  | 0x00B => 0xFFFFFFFF | 0x040 => 0xFFFFFFFF
  | 0x00E => 0x1F
  | 0x00F => if v.ary = .dyad then 0 else 0xFFFFFFFFF
  | 0x010 => 0xF | 0x011 => 0xFFFF0F | 0x012 => 0x3FFF
  | 0x013 => 0xFFFF | 0x014 => 0xFFFF | 0x015 => 0xFFFF
  | 0x016 => 0x3F
  | 0x042 => 0x7F | 0x043 => 0x3F | 0x044 => 0x7FF
  | 0x046 => if v.ary = .mono then 0x1F else 0
  | 0x047 => if v.ary = .const then 0x7FF else 0x7C0
  | 0x04A => 0x3F
  | 0x086 => if v.ary = .const then 0xFFF else 0xFC0
  | 0x09A => 0x1FFF | 0x09B => 0x1FFF
  | 0x09C => if v.ary = .mono then 0xFFFFFFF7 else 0x7
  | 0x09D => if v.ary = .const then 0x3F3F else 0x3F00
  | 0x09E => 0x1FFFFFFFFFFFFF | 0x09F => 0x7FFFFFFFFFFFF
  | 0x0A0 => 0x7
  | 0x104 => if v.ary = .const then 0x1FFF else 0x1FC0
  | 0x105 => if v.ary = .const then 0x1FFF else 0x1FC0
  | 0x106 => if v.ary = .const then 0x1FFF else 0x1FC0
  | 0x10E => if v.ary = .mono then 0xFFFF000F else 0xF
  | 0x11F => 0x7F
  | 0x120 => 0x3FF0001 | 0x121 => 0x3FF
  | 0x180 => 0x7
  | 0x181 => if v.ary = .const then 0x7FF else 0x7C0
  | 0x182 => 0x7C0 | 0x183 => 0x3C0
  | 0x184 => if v.ary = .const then 0x3FF else 0x3C0
  | 0x187 => 0x1C0 | 0x188 => 1
  | 0x1C0 => 0xFFFFFF0F | 0x1C1 => 0xF | 0x1C2 => 0xF | 0x1C3 => 0xF | 0x1C4 => 0x3FF
  | 0x1C5 => 0xFFF | 0x1C6 => 0x3F | 0x1C7 => 0xFF
  | 0x1C8 => if v.mod = 1 then 0xFFFFFFFF else 0xFF
  | 0x200 => 0x1FFF | 0x201 => 0x1FFF
  | 0x203 => 0x7FFFFF | 0x204 => 0x7FFFFF | 0x205 => 0xFFFFFF
  | 0x206 => 0xFFFF
  | 0x207 => if v.mod.toNat ≥ 4 then 0x3FFFFFF else 0x1FFFFFFF
  | 0x208 => 0xFF
  | 0x240 => 0x1FFFFFFF | 0x241 => 0x2FFFFFFF | 0x242 => 0x1FFFFFFF | 0x243 => 0x2FFFFFFF
  | 0x244 => 0x5FFFFFFF | 0x245 => 0x2FFFFFFF | 0x246 => 0x0FFFFFFF
  | 0x247 => 0x7FFFFFF | 0x248 => 0xFFFFF
  | 0x280 => 0x3FFFFFFF | 0x281 => 0x3FFFFFFF | 0x282 => 0x3FFFFFFF | 0x283 => 0x3FFFFFFF | 0x284 => 0x3FFFFFFF
  | 0x285 => 0x3FFFFFFF | 0x286 => 0x3FFFFFFF | 0x287 => 0x3FFFFFFF | 0x288 => 0x3FFFFFFF | 0x289 => 0x3FFFFFFF
  | 0x28A => 0x0FFFFFFF
  | 0x2C0 => 0x7FFFFFF | 0x2C1 => 0x7FFFFFF | 0x2C2 => 0x7FFFFFF | 0x2C3 => 0x7FFFFFF | 0x2C4 => 0x7FFFFFF
  | 0x2C5 => 0x7FFFFFF
  | 0x2C6 => 0x7FFF | 0x2C7 => 0x7FFF | 0x2C8 => 0xFFF
  | 0x300 => 0x1F | 0x301 => 0x3F | 0x302 => 0x3F
  | 0x303 => if v.ary = .mono then 0x3FF else 0
  | 0x304 => if v.ary = .mono then 0x3FF else 0
  | 0x305 => if v.ary = .dyad then 0xC0000000 else
      match v.bits 30 2 with | 0 => 0xC001FFFF | 1 => 0xC00007FF | _ => 0xC0003FFF
  | 0x306 => if v.ary = .mono then 0x3F else 0
  | 0x307 => 0xFFFFFFFF
  | 0x309 => 0x7FC0 + kBits v | 0x30A => 0x3FC0 + kBits v | 0x30B => 0x3FF_BFC0 + kBits v
  | 0x30C => 0xFF | 0x30D => 0x3FFFF
  | 0x341 => if v.ary = .mono then 0x3F else 0
  | 0x342 => if v.ary = .mono then 0xFFFFF else 0xFF
  | 0x343 => 0xFF
  | _ => kBits v

/-- The bits of the extension records that an instruction declares used. -/
def extUsed (opc : Nat) : Nat × Nat :=
  match opc with
  | 0x016 => (0xFFFFFFFF, 0x1FFFFFFFFFFFFFF)
  | 0x203 => (0x7FFFFFFF, 0) | 0x204 => (0x3FFFFFFFFFFF, 0) | 0x205 => (0x7FFFFFFF, 0xFFFFFFFF)
  | 0x244 => (0x7FFFFFFFFFFFFFFFFFFFF, 0) | 0x245 => (0x7FFFFFFFFFFFFFFFFFFFF, 0)
  | 0x2C0 => (0x3FFFFFFFFFFFFFF, 0) | 0x2C1 => (0x3FFFFFFFFFFFFFF, 0) | 0x2C2 => (0x3FFFFFFFFFFFFFF, 0)
  | 0x2C3 => (0x3FFFFFFFFFFFFFF, 0xFFFFFFFF)
  | 0x2C4 => (0x7FFFFFFFFFFFFFFFFF, 0) | 0x2C5 => (0x7FFFFFFFFFFFFFFFFF, 0)
  | 0x307 => (0xFFFFFFFFFFFFFFFFFFFFF, 0x7FFFFFFFFFFFFFFFFF)
  | 0x30D => (0x1FFFF, 0)
  | _ => (0, 0)

/-- A wave literal that the loader accepts (14 R350): own not 0xFE or 0xFF, pred not 0xFE. -/
def waveOk (l : Nat) : Bool := decide (l / 256 % 256 < 254) && decide (l % 256 ≠ 254)

/-- Whether a copy command's fields are within 15 Table 3: the sides an opcode accepts, LEN, ROWB, and the tile's end. -/
def copyOk (v : NV) : Bool :=
  let sk := v.bits 0 2; let dk := v.bits 2 2; let len := v.x1 37 21; let rowb := v.x1 58 13
  let opc := v.opc.toNat
  decide (sk ≤ 1) && decide (dk ≤ 1) && decide (v.bits 4 3 ≤ 4) && decide (len % 64 = 0) && decide (64 ≤ len) &&
    decide (len ≤ 1048576) &&
    (sk == 0 || decide (v.bits 12 15 + len ≤ 32768)) && (dk == 0 || decide (v.x1 22 15 + len ≤ 32768)) &&
    (match opc with
     | 0x2C1 => sk == 0
     | 0x2C2 => dk == 0
     | 0x2C3 => sk == 0 && dk == 1 && v.x2 0 32 != 0
     | 0x2C4 => sk == 0 && decide (rowb % 64 = 0) && decide (64 ≤ rowb) && decide (rowb ≤ 4096) && decide (len % rowb = 0)
     | 0x2C5 => dk == 0 && decide (rowb % 64 = 0) && decide (64 ≤ rowb) && decide (rowb ≤ 4096) && decide (len % rowb = 0)
     | _ => true)

/-- Whether a stream's extension record is within 15 Table 2 (R378). -/
def streamOk (v : NV) : Bool :=
  let tok := v.x1 64 1 == 1
  let ra := v.bits 30 1 == 1
  let roww := v.x1 20 11
  decide (v.x1 5 15 % 4 = 0) && decide (1 ≤ roww) && decide (roww ≤ 1024) && decide (v.x1 40 24 % 4 = 0) &&
    (tok || decide (v.x1 5 15 + 4 * roww * (v.x1 31 9 + 1) ≤ 32768)) &&
    (!tok || (v.opc == 0x244 && decide (roww ≤ 32) && !ra && v.x1 0 5 == 0 && v.x1 5 15 == 0)) &&
    (ra || (v.x1 70 12 == 0 && v.x1 82 1 == 0)) && (tok || v.x1 69 1 == 0) && (v.x1 69 1 == 1 || v.x1 65 4 == 0)

/-- Whether an allocation literal is within 09 Table 3. -/
def allocOk (v : NV) : Bool :=
  decide (v.bits 0 4 ≤ 8) && decide (v.bits 4 6 ≤ 32) && decide (v.bits 16 14 ≤ 12287)

/-- Whether CSRRD or CSRWR names a register it may (04 R98, Table 4). -/
def csrOk (i : Nat) (write : Bool) : Bool :=
  if write then i == 0x02 || i == 0x06 || i == 0x09 || i == 0x18
  else decide (i ≤ 9) || (decide (0x10 ≤ i) && decide (i ≤ 0x14)) || i == 0x18

/-- Values that the loader rejects with E_RESERVED, apart from reserved bits. APMV's row0 + N above 256, which names rows
that the engine does not have and which R139 does not name, is one of them (DESIGN CHOICE, log 81). -/
def valuesOk (v : NV) : Bool :=
  match v.opc.toNat with
  | 0x009 => v.bits 0 16 != 0
  | 0x00B => allocOk v
  | 0x040 => allocOk v
  | 0x00E => !(v.bits 0 1 == 1 && v.bits 4 1 == 1)
  | 0x011 => v.bits 8 16 != 0
  | 0x016 => (v.bits 5 1 == 0 || v.e2 == 0) && v.x1 28 1 == 0 && v.x1 30 1 == 0 && v.x1 31 1 == 0 &&
      (v.x1 0 32 == 0 || waveOk (v.x1 0 32))
  | 0x042 => decide (v.bits 0 6 ≤ 32)
  | 0x043 => decide (v.bits 0 6 ≤ 32)
  | 0x044 => decide (v.bits 5 6 ≤ 32)
  | 0x04A => decide (1 ≤ v.bits 0 6) && decide (v.bits 0 6 ≤ 32)
  | 0x09A => decide (1 ≤ v.bits 6 7) && decide (v.bits 0 6 + v.bits 6 7 ≤ (if typCode v.typ < 2 then 32 else 64))
  | 0x09B => decide (1 ≤ v.bits 6 7) && decide (v.bits 0 6 + v.bits 6 7 ≤ (if typCode v.typ < 2 then 32 else 64))
  | 0x09C => v.bits 1 2 != 3
  | 0x09E => (match v.typ with
      | .pred => v.lit < 2
      | .i64 => true
      | .n64 => true
      | _ => decide (v.lit < 4294967296))
  | 0x09F => v.ary == .dyad || v.bits 48 3 == 0
  | 0x0A0 => v.bits 2 1 == 0 || (decide (v.bits 0 2 < 2) && decide (2 ≤ typCode v.typ))
  | 0x104 => v.bits 12 1 == 0 || v.bits 10 2 == 0
  | 0x105 => v.bits 12 1 == 0 || v.bits 10 2 == 0
  | 0x106 => v.bits 12 1 == 0 || v.bits 10 2 == 0
  | 0x10E => v.bits 1 2 != 3
  | 0x120 => v.bits 0 1 == 1 || v.dstB == .scale || v.bits 16 10 == 0
  | 0x121 => v.typ == .e2m1 || decide (v.bits 7 3 ≤ 3)
  | 0x1C0 => v.bits 8 24 != 0
  | 0x1C4 => decide (1 ≤ v.bits 4 6) && decide (v.bits 4 6 ≤ 32)
  | 0x1C7 => csrOk (v.bits 0 8) false
  | 0x1C8 => csrOk (v.bits 0 8) true
  | 0x200 => decide (v.bits 5 5 ≤ 20) && decide (v.bits 10 3 ≤ 2)
  | 0x201 => decide (3 ≤ v.bits 10 3) && (let nb := (match v.bits 10 3 with | 7 => 24 | 5 => 16 | 6 => 16 | _ => 12);
      decide (v.bits 5 5 * 1024 + 12288 + 32 * nb ≤ 32768))
  | 0x203 => decide (v.bits 21 2 ≤ 2) && decide (v.bits 5 8 + v.bits 13 8 + 1 ≤ 256) && decide (v.x1 0 15 % 128 = 0) &&
      decide (v.x1 15 15 % 128 = 0) && decide (384 ≤ v.x1 15 15) &&
      decide (v.x1 0 15 + v.bits 13 8 * v.x1 15 15 + 384 ≤ 32768)
  | 0x204 => decide (v.bits 21 2 ≤ 2) && decide (v.bits 5 8 + v.bits 13 8 + 1 ≤ 256) && decide (v.x1 0 15 % 128 = 0) &&
      decide (v.x1 15 15 % 128 = 0) && decide (384 ≤ v.x1 15 15) && decide (v.x1 31 15 % 128 = 0) &&
      decide (v.x1 0 15 + v.bits 13 8 * v.x1 15 15 + 384 ≤ 32768)
  | 0x205 => decide (3 ≤ v.bits 21 3) && decide (v.bits 5 8 + v.bits 13 8 + 1 ≤ 256) && decide (v.x1 0 15 % 128 = 0) &&
      decide (v.x1 15 15 % 128 = 0) && decide (384 ≤ v.x1 15 15) &&
      decide (v.x1 0 15 + v.bits 13 8 * v.x1 15 15 + 384 ≤ 32768)
  | 0x206 => decide (v.bits 0 8 + v.bits 8 8 + 1 ≤ 256)
  | 0x207 => decide (v.bits 0 8 + v.bits 8 8 + 1 ≤ 256) && (v.mod.toNat ≥ 4 || decide (v.bits 21 8 + v.bits 8 8 + 1 ≤ 256))
  | 0x240 => waveOk v.lit | 0x241 => waveOk v.lit | 0x242 => waveOk v.lit | 0x243 => waveOk v.lit
  | 0x246 => waveOk v.lit | 0x28A => waveOk v.lit
  | 0x280 => waveOk v.lit | 0x281 => waveOk v.lit | 0x282 => waveOk v.lit | 0x283 => waveOk v.lit | 0x284 => waveOk v.lit
  | 0x285 => waveOk v.lit | 0x286 => waveOk v.lit | 0x287 => waveOk v.lit | 0x288 => waveOk v.lit | 0x289 => waveOk v.lit
  | 0x244 => waveOk v.lit && streamOk v
  | 0x245 => waveOk v.lit && streamOk v
  | 0x247 => decide (v.bits 5 15 % 4 = 0) && decide (1 ≤ v.bits 20 6) && decide (v.bits 20 6 ≤ 32)
  | 0x248 => decide (v.bits 5 15 % 4 = 0)
  | 0x2C0 => copyOk v | 0x2C1 => copyOk v | 0x2C2 => copyOk v | 0x2C3 => copyOk v | 0x2C4 => copyOk v | 0x2C5 => copyOk v
  | 0x2C6 => decide (v.bits 12 3 ≤ 4)
  | 0x2C7 => decide (v.bits 12 3 ≤ 4)
  | 0x301 => v.bits 5 1 == 0 || v.bits 0 5 == 0
  | 0x305 => v.bits 30 2 != 3 && (v.ary == .dyad || v.bits 30 2 != 1 || decide (v.bits 6 5 ≤ 20))
  | 0x307 => decide (1 ≤ v.bits 8 10) && decide (v.bits 18 10 ≤ v.bits 8 10) && decide (v.bits 28 3 ≤ 5) &&
      decide (3 ≤ v.x1 64 4) && decide (v.x1 68 4 ≤ 8) && decide (v.x1 68 4 + v.x1 72 2 + 1 ≤ 2 ^ (v.x1 64 4 + 1)) &&
      decide (v.x1 75 4 ≤ 8) && (v.bits 28 3 != 1 || decide (v.x1 79 5 ≤ 15)) &&
      decide (v.x1 0 64 % 2 ^ (v.x1 64 4 + 1) = 0) &&
      !(v.bits 31 1 == 1 && (v.bits 28 3 == 1 || v.x1 74 1 == 1)) &&
      (v.bits 31 1 == 1 || v.x1 74 1 == 1 || v.x2 55 16 == 0)
  | 0x30C => true
  | 0x342 => (let i := v.bits 0 8; let sub := v.bits 8 12;
      (decide (i ≤ 0x16) || decide (0x18 ≤ i ∧ i ≤ 0x19) || decide (0x20 ≤ i ∧ i ≤ 0x24)) && (i != 0x17) &&
      (v.ary == .dyad || (if i ≤ 0x16 then sub == 0 else if i = 0x18 then true else if i = 0x19 then decide (sub ≤ 2)
        else if i = 0x24 then decide (sub ≤ 7) else decide (sub % 16 ≤ 8) && decide (sub < 128))))
  | 0x343 => decide (v.bits 0 8 ≤ 0x0F)
  | _ => true

/-- The literal bits that ^set takes from the reserved ones (02 R39). -/
def setBits (v : NV) : Nat := if v.tgo = .set then 0xFFFF0000 else 0

/-- E_RESERVED (02 Table 11 code 0x0C): reserved bits of the literal and extension records zero, values in range. -/
def reservedOk (v : NV) : Bool :=
  (v.lit &&& (litUsed v ||| setBits v)) == v.lit && (v.e1 &&& (extUsed v.opc.toNat).1) == v.e1 &&
    (v.e2 &&& (extUsed v.opc.toNat).2) == v.e2 && valuesOk v

/-- The loader's check of one record, apart from what depends on its kernel (02 Table 11, R57). -/
def checkNode (v : NV) : Option Diag :=
  match checkFields v with
  | some d => some d
  | none => if reservedOk v then none else some .reserved

/-- The fire-time checks against the kernel's requests: constants (E_ARY), accumulators and route entries (E_DEST)
(04 R96, 05 R122, 02 R466). -/
def checkKernel (consts accs routes : Nat) (v : NV) : Option Diag :=
  let badDest (d : Dest) : Bool := match d with
    | .acc n => decide (accs ≤ n.toNat)
    | .route e => decide (routes ≤ e.toNat)
    | _ => false
  let badK : Bool :=
    (v.ary == .const && decide (consts ≤ v.bits 0 6)) ||
    (match v.opc.toNat with
     | 0x086 => decide (consts ≤ v.bits 6 6)
     | 0x09D => decide (consts ≤ v.bits 8 6)
     | 0x104 => v.bits 12 1 == 0 && decide (consts ≤ v.bits 6 6)
     | 0x105 => v.bits 12 1 == 0 && decide (consts ≤ v.bits 6 6)
     | 0x106 => v.bits 12 1 == 0 && decide (consts ≤ v.bits 6 6)
     | 0x1C5 => decide (v.bits 6 6 = 0) || decide (32 < v.bits 6 6) || decide (consts < v.bits 0 6 + v.bits 6 6)
     | 0x1C6 => decide (consts ≤ v.bits 0 6)
     | _ => false)
  let badA : Bool :=
    match v.opc.toNat with
    | 0x1C0 => decide (accs ≤ v.bits 0 4)
    | 0x1C1 => decide (accs ≤ v.bits 0 4)
    | 0x1C2 => decide (accs ≤ v.bits 0 4)
    | 0x1C3 => decide (accs ≤ v.bits 0 4)
    | 0x1C4 => decide (accs ≤ v.bits 0 4)
    | 0x104 => v.bits 12 1 == 1 && decide (accs ≤ v.bits 6 4)
    | 0x105 => v.bits 12 1 == 1 && decide (accs ≤ v.bits 6 4)
    | 0x106 => v.bits 12 1 == 1 && decide (accs ≤ v.bits 6 4)
    | _ => false
  if badK then some .ary else if badA || badDest v.dstA || badDest v.dstB then some .dest else none

end Sys2Proof.Machine
end

