-- ==== Sys2Proof/Decode.lean ====
section
/-! DEFINITION. The decoder and the encoder of node records (02 R36 to R45, Tables 1 to 8). A record that breaks a
condition of codes 0x02 to 0x09 of Table 11 is rejected with that diagnostic; the words of every bit are decoded. -/
namespace Sys2Proof
open Sys2Proof.Machine

/-- Bits `[lo + n - 1 : lo]` of a record. -/
def recBits (r : Rec) (lo n : Nat) : Nat := r.toNat / 2 ^ lo % 2 ^ n

/-- Element types (02 Table 3). -/
def decTyp (c : Nat) : Option ETyp :=
  match c with
  | 0 => some .i32 | 1 => some .n32 | 2 => some .i64 | 3 => some .n64 | 4 => some .f32 | 5 => some .bf16
  | 6 => some .f16 | 7 => some .e4m3 | 8 => some .e5m2 | 9 => some .e2m1 | 10 => some .pred | _ => none

/-- Arities (02 Table 2). -/
def decAry (c : Nat) : Ary := match c with | 0 => .mono | 1 => .dyad | 2 => .const | _ => .lit

/-- Tag operations (02 Table 4). -/
def decTgo (c : Nat) : Tgo :=
  match c with
  | 0 => .keep | 1 => .inc | 2 => .push | 3 => .pop | 4 => .zero | 5 => .set | 6 => .new | _ => .cont

/-- Matching actions of a node record (02 Table 8, R49). -/
def decAct (c : Nat) : Option Act :=
  match c with
  | 0 => some .pass | 1 => some .assoc | 2 => some .frame | 3 => some .sticky | 4 => some .purge | 5 => some .scale
  | _ => none

/-- A destination field (02 R45, Tables 6 and 7). -/
def decDest (c : Nat) : Option Dest :=
  let index := c / 2 % 32768
  let port := c % 2
  match c / 65536 % 4 with
  | 0 => if index = 0 ∧ port = 0 then some .none else none
  | 1 => if index < 4096 then some (.node (BitVec.ofNat 12 index) (port == 1)) else none
  | 2 => if index < 1024 ∧ port = 0 then some (.route (BitVec.ofNat 10 index)) else none
  | _ =>
    if port ≠ 0 then none
    else if index < 16 then some (.acc (BitVec.ofNat 4 index))
    else match index with
      | 16 => some .mx | 17 => some .cu | 18 => some .mt | 19 => some .scale | 20 => some .event | 21 => some .trap
      | _ => none

/-- The code of a destination (02 R45). -/
def encDest : Dest → Nat
  | .none => 0
  | .node idx p => 65536 + 2 * idx.toNat + (if p then 1 else 0)
  | .route e => 131072 + 2 * e.toNat
  | .acc n => 196608 + 2 * n.toNat
  | .mx => 196608 + 32 | .cu => 196608 + 34 | .mt => 196608 + 36 | .scale => 196608 + 38 | .event => 196608 + 40
  | .trap => 196608 + 42

/-- The instructions of opcode block 0 (02 Table 9). -/
def ofBlock0 (opc : Nat) (n : Node) (l : NodeL) (e1 e2 : BitVec 86) : Option Instr :=
  match opc with
  | 0x000 => some (.pass n)
  | 0x001 => some (.steer n)
  | 0x002 => some (.merge n)
  | 0x003 => some (.mergec n)
  | 0x004 => some (.gate n)
  | 0x005 => some (.sync n)
  | 0x006 => some (.lenter n)
  | 0x007 => some (.lnext n)
  | 0x008 => some (.lexit n)
  | 0x009 => some (.lbound n)
  | 0x00A => some (.ldone n)
  | 0x00B => some (.call n)
  | 0x00C => some (.ret n)
  | 0x00D => some (.cfree n)
  | 0x00E => some (.tagget n)
  | 0x00F => some (.tagset l)
  | 0x010 => some (.eos n)
  | 0x011 => some (.sink n)
  | 0x012 => some (.purge n)
  | 0x013 => some (.trap n)
  | 0x014 => some (.brk n)
  | 0x015 => some (.event n)
  | 0x016 => some (.launch n e1 e2)
  | _ => none

/-- The instructions of opcode block 1 (02 Table 9). -/
def ofBlock1 (opc : Nat) (n : Node) (_ : NodeL) (_ _ : BitVec 86) : Option Instr :=
  match opc with
  | 0x040 => some (.ctxalloc n)
  | 0x041 => some (.ctxfree n)
  | 0x042 => some (.pack n)
  | 0x043 => some (.unpack n)
  | 0x044 => some (.bcast n)
  | 0x045 => some (.shuf n)
  | 0x046 => some (.lget n)
  | 0x047 => some (.lput n)
  | 0x048 => some (.lred n)
  | 0x049 => some (.lscan n)
  | 0x04A => some (.width n)
  | _ => none

/-- The instructions of opcode block 2 (02 Table 9). -/
def ofBlock2 (opc : Nat) (n : Node) (l : NodeL) (_ _ : BitVec 86) : Option Instr :=
  match opc with
  | 0x080 => some (.iadd n)
  | 0x081 => some (.isub n)
  | 0x082 => some (.iadds n)
  | 0x083 => some (.isubs n)
  | 0x084 => some (.imul n)
  | 0x085 => some (.imulh n)
  | 0x086 => some (.imad n)
  | 0x087 => some (.idiv n)
  | 0x088 => some (.irem n)
  | 0x089 => some (.imin n)
  | 0x08A => some (.imax n)
  | 0x08B => some (.iabs n)
  | 0x08C => some (.ineg n)
  | 0x08D => some (.and n)
  | 0x08E => some (.or n)
  | 0x08F => some (.xor n)
  | 0x090 => some (.andn n)
  | 0x091 => some (.orn n)
  | 0x092 => some (.shl n)
  | 0x093 => some (.shr n)
  | 0x094 => some (.sar n)
  | 0x095 => some (.rol n)
  | 0x096 => some (.clz n)
  | 0x097 => some (.ctz n)
  | 0x098 => some (.popc n)
  | 0x099 => some (.brev n)
  | 0x09A => some (.bfx n)
  | 0x09B => some (.bfi n)
  | 0x09C => some (.icmp n)
  | 0x09D => some (.sel n)
  | 0x09E => some (.lit l)
  | 0x09F => some (.aadr l)
  | 0x0A0 => some (.cvti n)
  | _ => none

/-- The instructions of opcode block 4 (02 Table 9). -/
def ofBlock4 (opc : Nat) (n : Node) (_ : NodeL) (_ _ : BitVec 86) : Option Instr :=
  match opc with
  | 0x100 => some (.fadd n)
  | 0x101 => some (.fsub n)
  | 0x102 => some (.fmul n)
  | 0x103 => some (.fdiv n)
  | 0x104 => some (.fma n)
  | 0x105 => some (.fms n)
  | 0x106 => some (.fnma n)
  | 0x107 => some (.fmin n)
  | 0x108 => some (.fmax n)
  | 0x109 => some (.fminn n)
  | 0x10A => some (.fmaxn n)
  | 0x10B => some (.fabs n)
  | 0x10C => some (.fneg n)
  | 0x10D => some (.fcpsgn n)
  | 0x10E => some (.fcmp n)
  | 0x10F => some (.fclass n)
  | 0x110 => some (.fsqrt n)
  | 0x111 => some (.frsq n)
  | 0x112 => some (.frcp n)
  | 0x113 => some (.fexp n)
  | 0x114 => some (.fexp2 n)
  | 0x115 => some (.flog n)
  | 0x116 => some (.flog2 n)
  | 0x117 => some (.fsin n)
  | 0x118 => some (.fcos n)
  | 0x119 => some (.fsincos n)
  | 0x11A => some (.ftanh n)
  | 0x11B => some (.fsigm n)
  | 0x11C => some (.ferf n)
  | 0x11D => some (.frnd n)
  | 0x11E => some (.fscale n)
  | 0x11F => some (.fcvt n)
  | 0x120 => some (.fquant n)
  | 0x121 => some (.fdeq n)
  | _ => none

/-- The instructions of opcode block 6 (02 Table 9). -/
def ofBlock6 (opc : Nat) (n : Node) (_ : NodeL) (_ _ : BitVec 86) : Option Instr :=
  match opc with
  | 0x180 => some (.jord n)
  | 0x181 => some (.jseed n)
  | 0x182 => some (.jconst n)
  | 0x183 => some (.jget n)
  | 0x184 => some (.jput n)
  | 0x185 => some (.jdiff n)
  | 0x186 => some (.jintg n)
  | 0x187 => some (.jtrunc n)
  | 0x188 => some (.jflag n)
  | _ => none

/-- The instructions of opcode block 7 (02 Table 9). -/
def ofBlock7 (opc : Nat) (n : Node) (_ : NodeL) (_ _ : BitVec 86) : Option Instr :=
  match opc with
  | 0x1C0 => some (.accinit n)
  | 0x1C1 => some (.accadd n)
  | 0x1C2 => some (.accmax n)
  | 0x1C3 => some (.accmin n)
  | 0x1C4 => some (.accrd n)
  | 0x1C5 => some (.krd n)
  | 0x1C6 => some (.kwr n)
  | 0x1C7 => some (.csrrd n)
  | 0x1C8 => some (.csrwr n)
  | _ => none

/-- The instructions of opcode block 8 (02 Table 9). -/
def ofBlock8 (opc : Nat) (n : Node) (_ : NodeL) (e1 e2 : BitVec 86) : Option Instr :=
  match opc with
  | 0x200 => some (.wload n)
  | 0x201 => some (.wloadx n)
  | 0x202 => some (.wswap n)
  | 0x203 => some (.mma n e1)
  | 0x204 => some (.mmaj n e1)
  | 0x205 => some (.mmax n e1 e2)
  | 0x206 => some (.apzero n)
  | 0x207 => some (.apmv n)
  | 0x208 => some (.appeek n)
  | 0x209 => some (.jobpoll n)
  | 0x20A => some (.jobwait n)
  | _ => none

/-- The instructions of opcode block 9 (02 Table 9). -/
def ofBlock9 (opc : Nat) (n : Node) (_ : NodeL) (e1 _ : BitVec 86) : Option Instr :=
  match opc with
  | 0x240 => some (.ld n)
  | 0x241 => some (.st n)
  | 0x242 => some (.ldg n)
  | 0x243 => some (.sts n)
  | 0x244 => some (.strm n e1)
  | 0x245 => some (.strmst n e1)
  | 0x246 => some (.pref n)
  | 0x247 => some (.tld n)
  | 0x248 => some (.tst n)
  | _ => none

/-- The instructions of opcode block 10 (02 Table 9). -/
def ofBlock10 (opc : Nat) (n : Node) (_ : NodeL) (_ _ : BitVec 86) : Option Instr :=
  match opc with
  | 0x280 => some (.aadd n)
  | 0x281 => some (.afadd n)
  | 0x282 => some (.amin n)
  | 0x283 => some (.amax n)
  | 0x284 => some (.aand n)
  | 0x285 => some (.aor n)
  | 0x286 => some (.axor n)
  | 0x287 => some (.axchg n)
  | 0x288 => some (.acas n)
  | 0x289 => some (.aincb n)
  | 0x28A => some (.fence n)
  | _ => none

/-- The instructions of opcode block 11 (02 Table 9). -/
def ofBlock11 (opc : Nat) (n : Node) (_ : NodeL) (e1 e2 : BitVec 86) : Option Instr :=
  match opc with
  | 0x2C0 => some (.cpy n e1)
  | 0x2C1 => some (.cpyd n e1)
  | 0x2C2 => some (.cpye n e1)
  | 0x2C3 => some (.mcast n e1 e2)
  | 0x2C4 => some (.gath n e1)
  | 0x2C5 => some (.scat n e1)
  | 0x2C6 => some (.tfill n)
  | 0x2C7 => some (.tevict n)
  | 0x2C8 => some (.tinv n)
  | _ => none

/-- The instructions of opcode block 12 (02 Table 9). -/
def ofBlock12 (opc : Nat) (n : Node) (_ : NodeL) (e1 e2 : BitVec 86) : Option Instr :=
  match opc with
  | 0x300 => some (.lookup n)
  | 0x301 => some (.tstate n)
  | 0x302 => some (.tset n)
  | 0x303 => some (.rtrd n)
  | 0x304 => some (.rtwr n)
  | 0x305 => some (.maprd n)
  | 0x306 => some (.bandrd n)
  | 0x307 => some (.qopen n e1 e2)
  | 0x308 => some (.qcontrib n)
  | 0x309 => some (.qclose n)
  | 0x30A => some (.qstat n)
  | 0x30B => some (.qlag n)
  | 0x30C => some (.qwset n)
  | 0x30D => some (.cwalk n e1)
  | _ => none

/-- The instructions of opcode block 13 (02 Table 9). -/
def ofBlock13 (opc : Nat) (n : Node) (_ : NodeL) (_ _ : BitVec 86) : Option Instr :=
  match opc with
  | 0x340 => some (.time n)
  | 0x341 => some (.toffs n)
  | 0x342 => some (.cntrd n)
  | 0x343 => some (.cntwr n)
  | _ => none
/-- The instruction that holds a view's fields. -/
def ofView (v : NV) : Option Instr :=
  let n : Node :=
    { typ := v.typ, ary := v.ary, tgo := v.tgo, mod := v.mod, dstA := v.dstA, dstB := v.dstB, actA := v.actA,
      actB := v.actB, lit := BitVec.ofNat 32 v.lit }
  let l : NodeL :=
    { typ := v.typ, ary := v.ary, tgo := v.tgo, mod := v.mod, dstA := v.dstA, actA := v.actA,
      lit := BitVec.ofNat 53 v.lit }
  let e1 := BitVec.ofNat 86 v.e1
  let e2 := BitVec.ofNat 86 v.e2
  let opc := v.opc.toNat
  match opc / 64 with
  | 0 => ofBlock0 opc n l e1 e2
  | 1 => ofBlock1 opc n l e1 e2
  | 2 => ofBlock2 opc n l e1 e2
  | 4 => ofBlock4 opc n l e1 e2
  | 6 => ofBlock6 opc n l e1 e2
  | 7 => ofBlock7 opc n l e1 e2
  | 8 => ofBlock8 opc n l e1 e2
  | 9 => ofBlock9 opc n l e1 e2
  | 10 => ofBlock10 opc n l e1 e2
  | 11 => ofBlock11 opc n l e1 e2
  | 12 => ofBlock12 opc n l e1 e2
  | 13 => ofBlock13 opc n l e1 e2
  | _ => none

/-- The literal of a Format-L record (02 R41). -/
def litL (r : Rec) : Nat := recBits r 0 35 + 2 ^ 35 * recBits r 38 18

/-- The fields of a head record with its extension records; fields that hold no legal code stand at a default. -/
def rawView (sp : OpSpec) (r x1 x2 : Rec) : NV :=
  { opc := BitVec.ofNat 10 (recBits r 86 10)
    typ := (decTyp (recBits r 82 4)).getD .i32
    ary := decAry (recBits r 80 2)
    tgo := decTgo (recBits r 77 3)
    mod := BitVec.ofNat 3 (recBits r 74 3)
    dstA := (decDest (recBits r 56 18)).getD .none
    dstB := if sp.fmtL then .none else (decDest (recBits r 38 18)).getD .none
    actA := (decAct (recBits r 35 3)).getD .pass
    actB := if sp.fmtL then .pass else (decAct (recBits r 32 3)).getD .pass
    lit := if sp.fmtL then litL r else recBits r 0 32
    e1 := if 1 ≤ sp.exts then recBits x1 0 86 else 0
    e2 := if 2 ≤ sp.exts then recBits x2 0 86 else 0 }

/-- The first field that holds no legal code: TYP, an action, a destination. -/
def rawBad (sp : OpSpec) (r : Rec) : Option Diag :=
  if (decTyp (recBits r 82 4)).isNone then some .typ
  else if (decAct (recBits r 35 3)).isNone ∨ (!sp.fmtL ∧ (decAct (recBits r 32 3)).isNone) then some .action
  else if (decDest (recBits r 56 18)).isNone ∨ (!sp.fmtL ∧ (decDest (recBits r 38 18)).isNone) then some .dest
  else none

/-- Of two diagnostics, the one that Table 11 lists first. -/
def firstDiag (a b : Option Diag) : Option Diag :=
  match a, b with
  | some x, some y => if y.code < x.code then some y else some x
  | some x, none => some x
  | none, y => y

/-- Whether the extension records that a head needs follow it (02 R42). -/
def extsOk (exts : Nat) (x1 x2 : Rec) : Bool :=
  (exts == 0 || recBits x1 86 10 == 0x3FF) && (decide (exts ≤ 1) || recBits x2 86 10 == 0x3FF)

/-- THE DECODER: the instruction at a node index, from its record and the two records after it, or the first
diagnostic of codes 0x02 to 0x09 that it earns (02 R57, R58). -/
def decode (r x1 x2 : Rec) : Except Diag Instr :=
  if recBits r 86 10 = 0x3FF then .ok (.ext (BitVec.ofNat 86 (recBits r 0 86)))
  else
    match opSpec (recBits r 86 10) with
    | none => .error .opcode
    | some sp =>
      if extsOk sp.exts x1 x2 then
        match firstDiag (rawBad sp r) (checkFields (rawView sp r x1 x2)) with
        | some d => .error d
        | none =>
          match ofView (rawView sp r x1 x2) with
          | some i => .ok i
          | none => .error .opcode
      else .error .ext

/-- The extension record of parameter bits (02 R42). -/
def encExt (e : Nat) : Rec := BitVec.ofNat 96 (0x3FF * 2 ^ 86 + e)

/-- The head record of a view (02 Table 1, R41). -/
def encHead (sp : OpSpec) (v : NV) : Rec :=
  let top := v.opc.toNat * 2 ^ 86 + typCode v.typ * 2 ^ 82 + aryCode v.ary * 2 ^ 80 + tgoCode v.tgo * 2 ^ 77 +
    v.mod.toNat * 2 ^ 74 + encDest v.dstA * 2 ^ 56 + (actCode v.actA).toNat * 2 ^ 35
  if sp.fmtL then BitVec.ofNat 96 (top + v.lit / 2 ^ 35 * 2 ^ 38 + v.lit % 2 ^ 35)
  else BitVec.ofNat 96 (top + encDest v.dstB * 2 ^ 38 + (actCode v.actB).toNat * 2 ^ 32 + v.lit)

/-- THE ENCODER: the records of an instruction; none for the device's own steps, to which the manual gives no
encoding. -/
def encode (i : Instr) : List Rec :=
  match view i with
  | none => []
  | some v =>
    if v.opc.toNat = 0x3FF then [encExt v.e1]
    else
      match opSpec v.opc.toNat with
      | none => []
      | some sp =>
        match sp.exts with
        | 0 => [encHead sp v]
        | 1 => [encHead sp v, encExt v.e1]
        | _ => [encHead sp v, encExt v.e1, encExt v.e2]

/-- Decode a list of records, a record that is not given reading as unset (02 R44). -/
def decodeList (rs : List Rec) : Except Diag Instr :=
  decode (rs.getD 0 0xFFC000000000000000000000) (rs.getD 1 0xFFC000000000000000000000)
    (rs.getD 2 0xFFC000000000000000000000)

/-- The instruction of a word numbered as the opcode table numbers bits: bits [95:0] are the head record, [191:96] and
[287:192] the records after it. -/
def decodeTableWord (_nbits w : Nat) : Option Instr :=
  match decode (BitVec.ofNat 96 w) (BitVec.ofNat 96 (w / 2 ^ 96)) (BitVec.ofNat 96 (w / 2 ^ 192)) with
  | .ok i => some i
  | .error _ => none

end Sys2Proof
end

