-- ==== Sys2Proof/Config.lean ====
section
/-! DEFINITION. What the implementation fixes and the manual does not state: the free values of the model. Each is
opaque, so no statement can rest on a value of it. -/
namespace Sys2Proof.Config

/-- Byte `i` (12 to 15) of the `n`-th event record: R172 gives the record's contents, and none for the bytes that its fields leave
(DESIGN CHOICE, log 11). -/
opaque eventByte : Nat → Nat → Byte

/-- Line `i` of the `n`-th CPY whose source and destination overlap: whether the source byte read is the one the job
has already written (R387, R34 exception 6; DESIGN CHOICE, log 12). -/
opaque overlapRead : Nat → Nat → Bool

/-- A value that the manual leaves open, the `n`-th asked for (DESIGN CHOICE, log 13). -/
opaque freeWord : Nat → Word

/-- The SHA-384 of the ROM, SPDM measurement 1 (17 R420): no file gives the ROM's bytes (DESIGN CHOICE, log 62). -/
opaque romHash : List Byte

/-- The SHA-384 of the signed message of the image that stands in the flash before any is pushed, whose bytes no file gives (DESIGN
CHOICE, log 62). -/
opaque factoryHash : List Byte

/-- The encoding of the fuse state, SPDM measurement 3: of the two key hashes, the SVN minimum and the exclusion lists, which R420
names and does not lay out (DESIGN CHOICE, log 62). -/
opaque fuseState : List Byte → List Byte → Nat → List (List Nat) → List Byte

/-- Whether an RSASSA-PSS 3072 signature verifies (17 R419), for the modulus, the message and the signature: the algorithm stands
outside the manual (DESIGN CHOICE, log 62). -/
opaque pssVerify : List Byte → List Byte → List Byte → Bool

/-- Whether an SLH-DSA-SHAKE-192s signature verifies (17 R419), for the public key, the message and the signature (DESIGN CHOICE, log
62). -/
opaque slhVerify : List Byte → List Byte → List Byte → Bool

/-- The seed of a key pair that HKDF with SHA-384 derives (17 R420), for RSA-3072 (`false`) or SLH-DSA-SHAKE-192s (`true`), from the
unique secret and the context, which is empty for an identity pair and a hash for an alias pair (DESIGN CHOICE, log 62). -/
opaque keySeed : Bool → List Byte → List Byte → List Byte

/-- The public key of the pair of a seed (17 R420; DESIGN CHOICE, log 62). -/
opaque publicKey : Bool → List Byte → List Byte

/-- The signature of a message by the pair of a seed (17 R420; DESIGN CHOICE, log 62). -/
opaque signature : Bool → List Byte → List Byte → List Byte

/-- The transcript hash of an SPDM response, for the port, the index and the value (17 R420): SPDM, which stands outside the manual,
gives the transcript (DESIGN CHOICE, log 62). -/
opaque transcript : Nat → Nat → List Byte → List Byte

/-- The depth of a core's injection queue in flits, which R270 lets held tokens fill and no rule states (DESIGN CHOICE, log 50). -/
opaque injDepth : Nat

/-- The hash of a matching key, its node and its tag, that indexes the summary filter: R156 names one and gives none (DESIGN CHOICE,
log 95). -/
opaque keyHash : Nat → BitVec 64 → Nat

/-- Byte `i` of the 256 bytes that hold a parked firing in the wait ring, which R156 gives no layout (DESIGN CHOICE, log 95); the
list is the firing's node, tag and operands. -/
opaque parkedByte : List Byte → Nat → Byte

/-- The header of the packet of a multicast line at an offset of a tile, which no rule lays out (DESIGN CHOICE, log 95). -/
opaque packetHeader : Nat → Nat → BitVec 128

end Sys2Proof.Config
end

