-- ==== Sys2Proof/Machine/SMap.lean ====
section
/-! DEFINITION. Sparse maps from Nat in one canonical form: keys strictly rising, and no entry equal to what an
unlisted key reads as. Registers, tiles, tables and memory are held so; equal maps are equal data. -/
namespace Sys2Proof.Machine

/-- A sparse map: a list of key and value pairs. -/
abbrev SMap (α : Type) := List (Nat × α)

/-- The value at `k`, or `d` where no entry is listed. -/
def SMap.get {α : Type} (d : α) (m : SMap α) (k : Nat) : α :=
  match m with
  | [] => d
  | (a, v) :: r => if a = k then v else SMap.get d r k

/-- Insert `v` at `k`, keeping the keys rising. -/
def SMap.ins {α : Type} (m : SMap α) (k : Nat) (v : α) : SMap α :=
  match m with
  | [] => [(k, v)]
  | (a, w) :: r =>
    if k < a then (k, v) :: (a, w) :: r
    else if k = a then (k, v) :: r
    else (a, w) :: SMap.ins r k v

/-- Remove the entry at `k`. -/
def SMap.del {α : Type} (m : SMap α) (k : Nat) : SMap α :=
  match m with
  | [] => []
  | (a, w) :: r => if a = k then r else (a, w) :: SMap.del r k

/-- Write `v` at `k`: writing what an unlisted key reads as removes the entry. -/
def SMap.put {α : Type} [DecidableEq α] (d : α) (m : SMap α) (k : Nat) (v : α) : SMap α :=
  if v = d then SMap.del m k else SMap.ins m k v

/-- Write the result of `f` on the present value. -/
def SMap.upd {α : Type} [DecidableEq α] (d : α) (m : SMap α) (k : Nat) (f : α → α) : SMap α :=
  SMap.put d m k (f (SMap.get d m k))

/-- The entry at `k`, if one is listed. -/
def SMap.find {α : Type} (m : SMap α) (k : Nat) : Option α :=
  match m with
  | [] => none
  | (a, v) :: r => if a = k then some v else SMap.find r k

/-- Whether every key is above `k` and the keys rise strictly. -/
def SMap.above {α : Type} (k : Nat) (m : SMap α) : Bool :=
  match m with
  | [] => true
  | (a, _) :: r => decide (k < a) && SMap.above a r

/-- Whether the keys rise strictly. -/
def SMap.rising {α : Type} (m : SMap α) : Bool :=
  match m with
  | [] => true
  | (a, _) :: r => SMap.above a r

/-- The canonical form: keys strictly rising, no entry equal to the default. -/
def SMap.wf {α : Type} [DecidableEq α] (d : α) (m : SMap α) : Bool :=
  SMap.rising m && m.all (fun e => decide (e.2 ≠ d))

/-- Write a list of values at consecutive keys from `k`. -/
def SMap.putAll {α : Type} [DecidableEq α] (d : α) (m : SMap α) (k : Nat) (vs : List α) : SMap α :=
  match vs with
  | [] => m
  | v :: r => SMap.putAll d (SMap.put d m k v) (k + 1) r

/-- The `n` values at consecutive keys from `k`. -/
def SMap.getN {α : Type} (d : α) (m : SMap α) (k n : Nat) : List α :=
  (List.range n).map (fun i => SMap.get d m (k + i))

/-- Replace the `i`-th element of a list. -/
def listSet {α : Type} (l : List α) (i : Nat) (v : α) : List α :=
  match l, i with
  | [], _ => []
  | _ :: r, 0 => v :: r
  | x :: r, i + 1 => x :: listSet r i v

/-- Remove the `i`-th element of a list. -/
def listDrop {α : Type} (l : List α) (i : Nat) : List α :=
  match l, i with
  | [], _ => []
  | _ :: r, 0 => r
  | x :: r, i + 1 => x :: listDrop r i

/-- The index of the first element that meets `p`. -/
def listIdx {α : Type} (p : α → Bool) (l : List α) : Option Nat :=
  match l with
  | [] => none
  | x :: r => if p x then some 0 else (listIdx p r).map (· + 1)

/-- Change the elements that meet `p`. -/
def listMapIf {α : Type} (p : α → Bool) (f : α → α) (l : List α) : List α :=
  l.map (fun x => if p x then f x else x)

/-- The first `n` elements that `f` gives a value for, as a list with its length fixed by padding. -/
def padTo {α : Type} (d : α) (n : Nat) (l : List α) : List α :=
  l.take n ++ List.replicate (n - l.length) d

end Sys2Proof.Machine
end

