-- ==== Sys2Proof/Machine/State.lean ====
section
/-! DEFINITION. The state of the device: everything the manual gives the machine, as plain data, and its value after
reset. -/
namespace Sys2Proof.Machine

/-- Why the model stops. -/
inductive Fault where
  /-- `exec` of a node record's instruction while no firing stands at issue, or of one whose logical core does not
  exist: `step` never does either. Safe: no run reaches it. -/
  | noFiring
  deriving DecidableEq, Repr

/-- Why the model gives no answer. -/
inductive Refusal where
  /-- The instruction has no meaning in the model yet. Safe. -/
  | notModelled (mnemonic : String)
  deriving DecidableEq, Repr

/-- Trap and event causes (04 Table 7). -/
inductive Cause where
  | none | illegalNode | roleViolation | pageFault | accessFault | align | poisonConsumed | matchOverflow
  | channelOverflow | tagStarved | colourStarved | tagWrap | jobFault | remapLost | watchdog | trap | brk | decode
  | unconfigured | quorumUnreachable | quorumAbsent | event
  deriving DecidableEq, Repr, Inhabited

/-- An accumulator: value lanes and open-dimension state (04 R97, Table 3). `part` holds lane i of partial p at 32p + i. -/
structure Acc where
  val : SMap Word
  part : SMap Word
  opn : Bool
  cnt : Word
  len : Word
  typ : BitVec 4
  deriving DecidableEq, Repr, Inhabited

/-- The allocation that a parked firing has been given when it was retried (06 R158): a colour value taken from its core's
local pool, or an iteration instance counted in LIVE. -/
inductive Grant where
  | none
  | colour (c : Nat)
  | inst
  deriving DecidableEq, Repr, Inhabited

/-- A firing: a node whose operands are complete (01 R14, 06 R157). `a` is the token of a monadic node or of port a. Once it
has been parked, `maxw` is LANE_BUDGET.MAXW as it stood then (04 R98), and `grant` what its retry has given it; `waits` is set
once it has been found waiting for a tile (01 R25). -/
structure Firing where
  asid : Nat
  lc : Nat
  node : Nat
  port : Bool
  tag : DWord
  a : Token
  b : Option Token
  maxw : Option (BitVec 6) := .none
  grant : Grant := .none
  waits : Bool := false
  deriving DecidableEq, Repr, Inhabited

/-- Kinds of matching-store entry (10 Table 2). -/
inductive MKind where
  | waiting | sticky | scale | deferred | mergec | lbound
  deriving DecidableEq, Repr, Inhabited

/-- A matching-store entry (10 R256, R259): its token (the key), the second token of a deferred entry, the arrival
number, and E or D of a sequence entry. -/
structure MEntry where
  kind : MKind
  node : Nat
  port : Bool
  tok : Token
  tok2 : Option Token
  count : Nat
  seq : Nat
  deriving DecidableEq, Repr, Inhabited

/-- TRAP_CAUSE, TRAP_TAG and TRAP_NODE (04 R101, R102). -/
structure TrapRegs where
  cause : BitVec 5
  valid : Bool
  overrun : Bool
  detail : BitVec 16
  tag : DWord
  node : BitVec 12
  port : Bool
  opc : BitVec 10
  deriving DecidableEq, Repr, Inhabited

/-- The trap record of R176: the operands of the recorded trap. -/
structure TrapRec where
  a : Option Token
  b : Option Token
  deriving DecidableEq, Repr, Inhabited

/-- A colour held in a core's colour cache (04 R109). -/
structure CEntry where
  colour : Nat
  regs : ColourRegs
  deriving DecidableEq, Repr, Inhabited

/-- The allocation image of a colour in the pitch colour table (04 R109, 09 R242). -/
structure ColourAlloc where
  regs : ColourRegs
  cont : BitVec 128
  deriving DecidableEq, Repr, Inhabited

/-- Counters of a logical core (16 R396). -/
structure Counters where
  raCancel : Word
  mspill : Word
  mrefill : Word
  cspill : Word
  ucdrop : Word
  sramCe : Word
  sramUe : Word
  perf : SMap DWord
  perfSel : SMap (BitVec 9)
  sink : SMap (BitVec 16)
  deriving DecidableEq, Repr, Inhabited

/-- Tile states (10 Table 8). -/
inductive TileState where
  | empty | filling | spec | ready | draining
  deriving DecidableEq, Repr, Inhabited

/-- A cache-bank tag entry (10 R274): V, D, P, TAG, and the order of its last hit or fill. -/
structure CbLine where
  v : Bool
  d : Bool
  p : Bool
  tag : BitVec 48
  last : Nat
  deriving DecidableEq, Repr, Inhabited

/-- A tile with its table entry (10 R271), its poisoned 64-byte lines (13 R335), its frame presence bits (13 R317)
and its cache-bank tag table. -/
structure Tile where
  bytes : SMap Byte
  state : TileState
  role : TileRole
  done : Bool
  inited : Bool
  job : BitVec 16
  eng : BitVec 2
  poison : List Nat
  present : List Nat
  cb : SMap CbLine
  cbClock : Nat
  deriving DecidableEq, Repr, Inhabited

/-- The physical core that hosts a logical core (01 R18). -/
structure HostRef where
  cx : Nat
  cy : Nat
  half : Bool
  doubled : Bool
  deriving DecidableEq, Repr, Inhabited

/-- A translation held in a TLB (10 R276): the page's first 4 KiB page number, its level, and the leaf's fields. -/
structure TlbEntry where
  asid : Nat
  vpn : Nat
  level : Nat
  ppn : Nat
  w : Bool
  u : Bool
  d : Bool
  pz : Bool
  deriving DecidableEq, Repr, Inhabited

/-- What a chain member does to memory (15 R376 to R384). -/
inductive AccKind where
  | load | store | atomic | fence | pref | strm | strmst | launch
  deriving DecidableEq, Repr, Inhabited

/-- One part of an access: bytes of one 64-byte line. `stage` is 0 held, 1 in the store queue, 2 sent to the home,
3 performed, 4 performed and, at a host, flushed; of a load, 2 sent and 4 bound. `va` is where it was asked for, `pa` where it
translated to, `fault` what a run-ahead stream's part met (01 R32). -/
structure Part where
  va : Nat
  pa : Nat
  len : Nat
  data : List Byte
  poison : Bool
  stage : Nat
  fault : Option (Cause × Nat) := .none
  deriving DecidableEq, Repr, Inhabited

/-- The fields of a stream (15 Table 2). -/
structure StreamP where
  tile : Nat
  toff : Nat
  roww : Nat
  rows : Nat
  stride : Int
  token : Bool
  eosl : Nat
  eosen : Bool
  snode : Nat
  spath : Bool
  deriving DecidableEq, Repr, Inhabited

/-- How far a run-ahead stream is resolved (01 R31, R33, 04 R104): not governed, waiting without run-ahead, running ahead,
committed, cancelled, or put back by a pre-emption as not yet issued. -/
inductive RaState where
  | none | wait | ahead | commit | cancel | halted
  deriving DecidableEq, Repr, Inhabited

/-- A memory firing in the wave buffer (14 R350 to R353, 15 R373). `entered`: it stands in chain order. `released`:
the wave buffer has let it go. `bound`: a load's value, a fence, or a stream is done. `replied`: its reply has been
sent, or it has none. `rtA` and `rtB` are the route entries that its destinations name, as they stood when it issued
(10 R260). `was` is the state of a stream's tile before it issued. `hb` lists the stores that happen before it
(14 R358). -/
structure MemAcc where
  id : Nat
  fire : Firing
  opc : BitVec 10
  kind : AccKind
  typ : ETyp
  chain : Nat
  own : Nat
  pred : Nat
  succ : Nat
  acq : Bool
  rel : Bool
  scope : Nat
  tagOut : DWord
  dstA : Dest
  dstB : Dest
  actA : Act
  actB : Act
  rtA : DWord
  rtB : DWord
  parts : List Part
  order : List Nat
  strm : Option StreamP
  ra : RaState
  was : TileState
  hb : List StoreId
  aux : Nat
  entered : Bool
  released : Bool
  bound : Bool
  replied : Bool
  deriving DecidableEq, Repr, Inhabited

/-- A chain instance open in the wave buffer (14 R350, R351): its key, the own and succ of the member that entered
last, the own numbers entered, and the stores that happen before a store that enters next and before any access that does
(14 R358). -/
structure ChainInst where
  chain : Nat
  colour : Nat
  stack : Nat
  last : Option (Nat × Nat)
  owns : List Nat
  hb : List StoreId
  hbAcq : List StoreId
  deriving DecidableEq, Repr, Inhabited

/-- A parked firing (06 R158): it waits for a colour, or for an iteration instance. -/
structure Parked where
  f : Firing
  colour : Bool
  deriving DecidableEq, Repr, Inhabited

/-- A multicast packet caught since the halt (15 R394): the tile and offset of its line, the line, whether it is the last line of its
job, and whether the spill ring holds it or the channel overflow. -/
structure McLine where
  tile : Nat
  off : Nat
  data : List Byte
  poison : Bool
  last : Bool
  ring : Bool
  deriving DecidableEq, Repr, Inhabited

/-- The state of one logical core. `ovfCut` is how many tokens of the channel overflow are older than the spill ring's; `caught` is a token caught since the halt that neither the
spill ring nor the channel overflow could take (06 R181); `savedReady` holds its completed matches with their places in the
queue of their core (06 R183);
`rebindTo` is the host that a rebind in progress moves it to (10 R270); `nodeUe` lists the node records that hold an
uncorrectable error (02 R58); `wgrp` is the field that hosted it at the start of its configuration (11 R283); `frameHb` is what `hb` says of the token in a frame slot. -/
structure LCore where
  role : Role
  control : Bool
  host : HostRef
  reqNodes : Nat
  reqMatch : Nat
  reqRoutes : Nat
  reqConsts : Nat
  reqAccs : Nat
  reqTiles : Nat
  mask : BitVec 8
  nodes : SMap Rec
  k : SMap Word
  accs : SMap Acc
  jxf : BitVec 40
  trap : TrapRegs
  trapRec : TrapRec
  waveBase : Word
  raCtl : BitVec 5
  maxw : BitVec 6
  clamped : Bool
  ovfBase : DWord
  ovfSize : BitVec 9
  enlarged : Bool
  routes : SMap DWord
  ms : List MEntry
  ovf : List MEntry
  frameHb : SMap (List StoreId)
  seqNo : Nat
  chanOvf : List Token
  spill : List Token
  spillLines : List McLine
  waitRing : List Parked
  cache : List CEntry
  copyArea : SMap ColourRegs
  pool : List (Nat × Nat)
  cnt : Counters
  tiles : SMap Tile
  mem : List MemAcc
  insts : List ChainInst
  memId : Nat
  sq : List (Nat × Nat)
  sendSeq : SMap (BitVec 16)
  savedReady : List (Nat × Firing)
  ovfCut : Nat
  caught : Option Token
  rebindTo : Option HostRef
  nodeUe : List Nat
  wgrp : Nat
  deriving DecidableEq, Repr, Inhabited

/-- A job of an engine, or a command on its way there (05 R125 to R131, 06 R160, R161, 15 R385, 12 R308). `prog`
counts planes, bytes or rows done. `rtB` and `rtE` are the route entries that its reply destination and its literal name,
as they stood when it issued (10 R260). `first`: it was granted, but had not started, when a pre-emption saved it (05 R131). -/
structure EJob where
  id : BitVec 16
  asid : Nat
  lc : Nat
  fire : Firing
  opc : BitVec 10
  n : Node
  e1 : BitVec 86
  e2 : BitVec 86
  order : Nat
  tagOut : DWord
  rtB : DWord
  rtE : DWord
  scale : List Word
  pass : Nat
  promo : Nat
  granted : Bool
  first : Bool
  started : Bool
  stopped : Bool
  prog : Nat
  claims : List Nat
  owns : List Nat
  flags : BitVec 5
  buf : List Byte
  aux : Nat
  deriving DecidableEq, Repr, Inhabited

/-- Which engine (05 Table 2). -/
inductive Eng where
  | matrix | copy | meet
  deriving DecidableEq, Repr, Inhabited

/-- A command token on its way to an engine: the cluster, or the field of a meeting unit; with the VC and TC of its header
(02 R46, R47). -/
structure Cmd where
  eng : Eng
  vc : BitVec 3
  tc : BitVec 2
  unit : Nat
  job : EJob
  deriving DecidableEq, Repr, Inhabited

/-- A weight plane, with its format, validity and poison (04 R110, 05 R132, R137). -/
structure Plane where
  bytes : SMap Byte
  fmt : BitVec 3
  valid : Bool
  poison : Bool
  deriving DecidableEq, Repr, Inhabited

/-- An interleave descriptor (13 Table 2; LH is computed). -/
structure Desc where
  div : BitVec 4
  colmap : BitVec 24
  frozen : Bool
  deriving DecidableEq, Repr, Inhabited

/-- The state of a bank (13 R327). -/
inductive BankSt where
  | healthy | degraded | rebuilding | substituted
  deriving DecidableEq, Repr, Inhabited

/-- One bank: its state, first spare index, the banks (8c + l) whose spares it skips, stripes rebuilt, whether its layer is
shut down, the stripes whose units are lost, as intervals (13 R328), its temperature in units of 0.125 °C, its refresh
period in µs, the next group to refresh, and the counters of 16 R396. -/
structure Bank where
  st : BankSt
  spare : Nat
  skip : List Nat
  done : Nat
  down : Bool
  lost : List (Nat × Nat)
  temp : Nat
  period : Nat
  group : Nat
  ce : Word
  ue : Word
  refpress : Word
  degraded : Word
  deriving DecidableEq, Repr, Inhabited

/-- One bank column: its two buses, loss, duplicates discarded, and the stripes whose LP units hold the units of a data
layer: layer, first stripe, and the stripe after the last (13 R325, R328, R329). -/
structure Column where
  busOwn : Bool
  busPartner : Bool
  lost : Bool
  dupdisc : Word
  lpServes : List (Nat × Nat × Nat)
  deriving DecidableEq, Repr, Inhabited

/-- The duplicate record of a home (14 R367): the floor and the sequence numbers performed above it. -/
structure DupRec where
  asid : Nat
  lc : Nat
  chain : Nat
  home : Nat
  floor : BitVec 16
  done : List (BitVec 16)
  time : Nat
  deriving DecidableEq, Repr, Inhabited

/-- The state of one cluster. -/
structure Cluster where
  wa : Plane
  ws : Plane
  scw : SMap Byte
  scwPz : Bool
  sca : SMap Byte
  ap : SMap Word
  apPz : List Nat
  wsload : Bool
  flags : BitVec 5
  lastJob : BitVec 16
  nextJob : BitVec 16
  retired : Word
  mq : List EJob
  mLast : Nat
  peeks : List EJob
  cpq : List EJob
  cpLast : Nat
  cpNext : BitVec 16
  tlb : List TlbEntry
  desc : SMap Desc
  banks : SMap Bank
  cols : SMap Column
  linePz : List Nat
  eccPz : List Nat
  unitPz : List Nat
  deriving DecidableEq, Repr, Inhabited

/-- What a request asks of a home. -/
inductive ReqKind where
  | read | write | atomic | mcast
  deriving DecidableEq, Repr, Inhabited

/-- A request on its way to a home or a host port (14 R348, R355, R367). `read` numbers the pending read that a multicast
request belongs to, `linePz` whether it found its line poisoned, and `left` that its data has left its home (15 R391). -/
structure HReq where
  asid : Nat
  lc : Nat
  id : Nat
  part : Nat
  kind : ReqKind
  opc : BitVec 10
  typ : ETyp
  scope : Nat
  chain : Nat
  pa : Nat
  len : Nat
  data : List Byte
  poison : Bool
  seq : BitVec 16
  floor : BitVec 16
  sent : Nat
  atHost : Bool
  read : Nat := 0
  left : Bool := false
  linePz : Bool := false
  deriving DecidableEq, Repr, Inhabited

/-- Who sent a token (01 R26): a logical core, an engine, a memory agent, a field's unit, an edge port. -/
inductive Src where
  | lcore (asid lc : Nat)
  | agent (asid lc : Nat)
  | matrix (cluster : Nat)
  | copy (cluster : Nat)
  | meet (field : Nat)
  | rc (field : Nat)
  | port (n : Nat)
  deriving DecidableEq, Repr, Inhabited

/-- Where a token goes: a logical core, or off the wafer by the port map entry its DCORE names. -/
inductive Dst where
  | lcore (asid lc : Nat)
  | wafer (m : Nat)
  deriving DecidableEq, Repr, Inhabited

/-- A token in flight (06 R146). `ni` is its arrival number once it waits in a receive buffer; `org` is the logical core
and the TRAP_NODE of the firing that sent it, for a token that leaves the wafer (18 R427). `mesh` is unset for a token to a
local node of the core that emitted it and for a scale token, which the mesh does not carry (02 R46, R47). -/
structure Flight where
  src : Src
  dst : Dst
  tok : Token
  ni : Option Nat
  org : Option (Nat × Word)
  mesh : Bool := true
  deriving DecidableEq, Repr, Inhabited

/-- A trap token on its way (06 R174, R175): to the handler when `handler`, else to the region controller; with the VC and TC
of its header (02 R46, R47), and the stores that happen before it (14 R358). -/
structure TrapTok where
  asid : Nat
  lc : Nat
  vc : BitVec 3
  tc : BitVec 2
  handler : Bool
  cause : Cause
  detail : BitVec 16
  node : Nat
  port : Bool
  opc : BitVec 10
  tag : DWord
  lanes : List Word
  hb : List StoreId := []
  deriving DecidableEq, Repr, Inhabited

/-- A walk in flight at a field's walker (13 R344): the page, who waits (and whether it writes), and the entry at which
it met V = 0. -/
structure Walk where
  asid : Nat
  vpn : Nat
  who : List Miss
  fault : Option Nat
  since : Nat := 0
  deriving DecidableEq, Repr, Inhabited

/-- An invalidation queued (13 R347): kind, address space, first page, pages. -/
structure Inval where
  kind : Nat
  asid : Nat
  vpn : Nat
  pages : Nat
  deriving DecidableEq, Repr, Inhabited

/-- An offset table entry (16 Table 2). -/
structure Offs where
  offset : BitVec 48
  uncm : BitVec 12
  valid : Bool
  tmeas : DWord
  deriving DecidableEq, Repr, Inhabited

/-- A banded-latency entry (10 Table 11). -/
structure Band where
  band0 : BitVec 4
  band1 : BitVec 4
  valid : Bool
  stale : Bool
  gen : BitVec 16
  deriving DecidableEq, Repr, Inhabited

/-- A remap entry: its four words, its three copies, each of four words, and the copy installed in hardware (10 R264 to R267). -/
structure Remap where
  w0 : DWord
  w1 : DWord
  w2 : DWord
  w3 : DWord
  copies : List (List DWord)
  installed : List DWord
  deriving DecidableEq, Repr, Inhabited

/-- A reply that waits at a mapping unit (12 R306). -/
structure MapReq where
  asid : Nat
  lc : Nat
  fire : Firing
  what : Nat
  arg : Nat
  n : Node
  tagOut : DWord
  rtA : DWord
  rtB : DWord
  deriving DecidableEq, Repr, Inhabited

/-- An error that strikes an SRAM of a logical core (13 R334): one that the ECC corrects; an uncorrectable one in the 64-bit
word `word` of a tile, in a node record, or in the matching store or colour cache, with the place in the ready queue of the
firing to blame, if any. -/
inductive SramErr where
  | corrected
  | tile (tile word : Nat)
  | node (n : Nat)
  | control (blamed : Option Nat)
  deriving DecidableEq, Repr

/-- What the model does next (DESIGN CHOICE, log 1): a physical core issues a firing, one step of the device, the ticks of a field's
time reference (16 R398), a clock cycle of a logical core, with whether its vector unit is occupied and whether a
firing is held by a tile condition (16 R403), or an error of an SRAM (13 R334). -/
inductive Action where
  | issue (core : Nat)
  | event (i : Instr)
  | elapse (field ticks : Nat)
  | cycle (asid lc : Nat) (busy held : Bool)
  | sram (asid lc : Nat) (e : SramErr)
  | junction (field temp : Nat)
  deriving DecidableEq, Repr

/-- Where a pitch stands (06 R162 to R183). -/
inductive PState where
  | loading | running | halting | saved | restoring
  deriving DecidableEq, Repr, Inhabited

/-- The fields of a launch record that outlive its intake (06 R164), with its queue, index and age. -/
structure Launch where
  queue : Nat
  index : Nat
  age : Nat
  prio : Nat
  bypass : Nat
  asid : Nat
  cfg : Nat
  cfgLen : Nat
  w : Nat
  h : Nat
  rot : Bool
  wdog : Nat
  compl : Nat
  evring : Nat
  evcount : Nat
  bind : List DWord
  parent : DWord
  deriving DecidableEq, Repr, Inhabited

/-- A contribution (11 R285): member, round field, lateness, payload, its job and the field of its local unit. -/
structure Contrib where
  member : Nat
  t : Nat
  delta : Nat
  lanes : List Word
  poison : Bool
  job : EJob
  field : Nat
  deriving DecidableEq, Repr, Inhabited

/-- Member state (11 Table 5), which the unit writes to the meeting buffer. -/
structure Member where
  lag : Nat
  miss : Nat
  absent : Bool
  on : Bool
  last : Nat
  deriving DecidableEq, Repr, Inhabited

/-- A collective rule entry (11 R280, R282): words 0 to 5, the round state, the tick at which the timeout expires, the
remaining ticks while frozen, member state, and the contributions held: on time, late, ahead in arrival order, and
those that arrived while frozen. `links` are the ring members whose link an optical port carries, with the port (11 R298). -/
structure Meeting where
  w0 : DWord
  w1 : DWord
  w2 : DWord
  w3 : DWord
  w4 : DWord
  w5 : DWord
  round : Word
  oncnt : Nat
  latecnt : Nat
  frozen : Bool
  unreach : Bool
  dup : Nat
  deadline : Nat
  remaining : Nat
  members : SMap Member
  onTime : List Contrib
  late : List Contrib
  ahead : List Contrib
  waiting : List Contrib
  links : List (Nat × Nat)
  deriving DecidableEq, Repr, Inhabited

/-- A weight table (11 R283). `grp` is the field that bound it, which the logical cores that started there keep to wherever a
restore or a rebind takes them (01 R35; DESIGN CHOICE, log 53). -/
structure WTab where
  w : List Word
  valid : Bool
  asid : Nat
  idx : Nat
  grp : Nat
  deriving DecidableEq, Repr, Inhabited

/-- A chunk of a ring on its way (11 R296): from and to member, the epoch, the chunk number, the pass, the live members
still to be visited, its bytes, and how many deaths its sender knew of. -/
structure RingMsg where
  asid : Nat
  mnum : Nat
  owner : Nat
  src : Nat
  dst : Nat
  epoch : Nat
  chunk : Nat
  bcast : Bool
  hops : Nat
  data : List Byte
  poison : Bool
  flags : BitVec 5
  dead : Nat := 0
  deriving DecidableEq, Repr, Inhabited

/-- A control message of a ring (11 R297, R299): a credit, a DEAD notice (the member it declares), a completion index. -/
structure RingCtl where
  asid : Nat
  mnum : Nat
  owner : Nat
  src : Nat
  dst : Nat
  epoch : Nat
  arg : Nat
  dead : Nat := 0
  deriving DecidableEq, Repr, Inhabited

/-- An edge walker (11 R295 to R300, 12 R314): its member and meeting, the job, the addresses, the epoch, the dead
members with the epoch of their death, B of each epoch, chunks completed, slots free at the successor, chunks received
and not yet consumed, completion indexes received in an exchange, and chunks started in this epoch; `out` holds the chunks that wait for a slot of the
successor, `prevDone` and `prevQs` what it had completed and received when it opened the epoch. -/
structure Walker where
  asid : Nat
  mnum : Nat
  owner : Nat
  member : Nat
  job : EJob
  src : Nat
  dst : Nat
  round : Word
  epoch : Nat
  dead : List (Nat × Nat)
  bs : List Nat
  completed : List Nat
  credits : Nat
  started : Nat
  stopped : Bool
  qs : List (Nat × Nat)
  waitSince : Nat
  frozen : Bool
  flags : BitVec 5
  poison : Bool
  out : List RingMsg := []
  prevDone : List Nat := []
  prevQs : List (Nat × Nat) := []
  deriving DecidableEq, Repr, Inhabited

/-- A pitch: its rectangle and mapping, its configuration, its logical cores and its launch. `savedWt` holds the weight tables of
a saved pitch, each with the logical cores that its field hosted; `badPages` the pages that its region controllers found to be
unresolvable (13 R345). -/
structure Pitch where
  kx0 : Nat
  ky0 : Nat
  w : Nat
  h : Nat
  rotated : Bool
  scatter : Bool
  salt : BitVec 10
  shapes : SMap (BitVec 40)
  trap : Option (Nat × Nat)
  colours : SMap ColourAlloc
  pool : List (Nat × Nat)
  reserve : List (Nat × Nat)
  freed : List Nat
  reserveUsed : Bool
  lcores : SMap LCore
  launch : Launch
  st : PState
  start : List Token
  sinks : List (Nat × Nat)
  sinksDone : List (Nat × Nat)
  tAdmit : DWord
  admitNo : Nat
  preempts : Nat
  evWritten : Nat
  evDropped : Nat
  savedClusters : SMap Cluster
  savedMeet : List Meeting
  savedWalk : List Walker
  savedMq : List EJob
  savedMOut : List EJob
  savedWt : List WTab
  lastFiring : Nat
  badPages : List Nat
  image : GraphObj
  deriving DecidableEq, Repr, Inhabited

/-- The supervisor state of one field: clock and heat (17 Table 7), TIME and offsets (16 Table 2), the MAP block
(10 Table 4), the remap table, bands, meetings, walkers, page walks, and the mailbox (17 Table 3). -/
structure Field where
  clkset : BitVec 6
  cur : BitVec 6
  lock : Bool
  tj : BitVec 12
  tjSince : Nat
  tl : SMap (BitVec 12)
  jthrot : Bool
  lthrot : Bool
  hold : Bool
  powerThrot : Bool
  jth : BitVec 8
  lth : BitVec 8
  time : DWord
  offs : SMap Offs
  excl : List Nat
  mex : List Nat
  quar : List Nat
  pitch : SMap DWord
  ovr : SMap DWord
  remap : SMap Remap
  band : SMap Band
  meet : SMap Meeting
  wtab : SMap WTab
  mq : List EJob
  mNext : BitVec 16
  mOut : List EJob
  walkers : SMap Walker
  rootEn : Bool
  rootPa : Nat
  invAddr : Nat
  invLen : Nat
  issued : BitVec 16
  doneInv : BitVec 16
  overrun : Bool
  invq : List Inval
  walks : List Walk
  wqueue : List (Nat × Nat × Miss)
  pwc : List TlbEntry
  run : Bool
  joined : Bool
  fenced : Bool
  recovery : Bool
  fwrev : BitVec 16
  mbOp : BitVec 8
  mbSeq : BitVec 8
  mbArg0 : DWord
  mbArg1 : DWord
  mbArg2 : DWord
  mbArg3 : DWord
  mbDone : BitVec 8
  mbCode : BitVec 8
  mbBusy : Bool
  mbRes : DWord
  pages : List Nat
  kasel : BitVec 11
  halfsel : List Nat
  slowDram : Bool
  linkBad : List (Nat × Nat)
  deriving DecidableEq, Repr, Inhabited

/-- A report of the boot field's report ring (17 R412). -/
structure Report where
  kind : Nat
  field : Nat
  detail : Nat
  pa : Nat
  len : Nat
  time : DWord
  deriving DecidableEq, Repr, Inhabited

/-- A launch queue's registers (06 Table 7). -/
structure LQueue where
  base : DWord
  log2n : BitVec 4
  en : Bool
  dev : Bool
  prod : BitVec 16
  cons : BitVec 16
  deriving DecidableEq, Repr, Inhabited

/-- An entry of the Ticket Booth's waiting table (06 R163, R166): a launch, its bypass count, whether it is a saved
pitch, and its graph object. -/
structure Waiting where
  launch : Launch
  count : Nat
  saved : Bool
  obj : Option GraphObj
  deriving DecidableEq, Repr, Inhabited

/-- One function's permissions (17 Table 2). -/
structure FnEntry where
  en : Bool
  asidLo : BitVec 12
  asidHi : BitVec 12
  vfbase : BitVec 22
  deriving DecidableEq, Repr, Inhabited

/-- The PCIE block of one host port (17 Table 2), the interrupt vectors it has fired (function, vector), and its last
completion: whether the request was supported, and the data (17 R405). -/
structure PcieBlk where
  cpl : Option (Bool × List Byte)
  claimfail : Bool
  up : Bool
  rate : BitVec 3
  width : BitVec 4
  retrains : BitVec 8
  denied : Word
  rcvlen : Word
  wait : Bool
  busy : Bool
  result : BitVec 4
  qfn : SMap (BitVec 6)
  fn : SMap FnEntry
  fired : List (Nat × Nat)
  numVfs : Nat
  deriving DecidableEq, Repr, Inhabited

/-- PF0's answer to a request for a measurement (17 R420): the port, the index and the value, the RSA signature, the alias SLH-DSA
signature of the Azner element of OpaqueData, and the identity keys' certificates of the two aliases. -/
structure SpdmAnswer where
  port : Nat
  index : Nat
  value : List Byte
  rsaSig : List Byte
  slhSig : List Byte
  rsaCert : List Byte
  slhCert : List Byte
  deriving DecidableEq, Repr, Inhabited

/-- A boot journal record (17 R415), with the CRC-32 it holds. -/
structure JRec where
  step : Nat
  start : Bool
  variant : Nat
  attempt : Nat
  result : Nat
  bootnum : Word
  crc : Word
  deriving DecidableEq, Repr, Inhabited

/-- A lane of an optical port (18 Table 4, Table 7): wavelength, site, state, whether it carries its part of each stripe,
counters, the next FSEQ to receive, the newest frame consumed, consecutive uncorrectable frames, corrected symbols of the
last 100 ms with their times, the target of a move, replay buffer, the frame a NAK asked for and whether that is still to be
sent, whether a move awaits the peer's answer, frames held until they are consumed, TIME at which it entered TUNE, and for each of its
last 25 frames the FSEQ, the credits taken, and whether its message was. -/
structure LaneSt where
  wl : BitVec 4
  site : BitVec 4
  st : BitVec 3
  joined : Bool
  corr : Word
  unc : Word
  replay : Word
  moves : BitVec 16
  rxseq : BitVec 12
  ackd : Option (BitVec 12)
  uncRun : Nat
  recent : List (Nat × Nat)
  moveWl : BitVec 4
  moveSite : BitVec 4
  buf : List LinkFrame
  nak : Option (BitVec 12)
  nakDue : Bool
  await : Bool
  rx : List LinkFrame
  since : Nat
  got : List (BitVec 12 × List Nat × Bool)
  deriving DecidableEq, Repr, Inhabited

/-- A ring site (18 R425, Table 7): its registers, its cold resonance at 60 °C in pm above 1,304 nm, and the port's
estimate of its temperature in units of 0.01 °C, and TIME at which it last lost lock. -/
structure SiteSt where
  r60 : Int
  temp : Nat
  code : BitVec 12
  mon : BitVec 12
  lock : Bool
  bad : Bool
  sat : Bool
  held : Bool
  lostAt : Nat
  deriving DecidableEq, Repr, Inhabited

/-- A mesh flit that waits at a port: its token's number there, VC, TC, bits (18 R429). -/
structure PortFlit where
  id : Nat
  vc : Nat
  tc : Nat
  bits : BitVec 512
  deriving DecidableEq, Repr, Inhabited

/-- A lane control message that waits to be sent (18 Table 3). -/
structure Lcm where
  op : Nat
  lane : Nat
  wl : Nat
  stripe : BitVec 12
  deriving DecidableEq, Repr, Inhabited

/-- The arbitration of a port's output (18 R430; 06 R147): whether each of its last four mesh flits was of TC0 while another class
waited, the VC that its round robin granted last, and for each VC the flits sent while its TC3 flit waited. -/
structure Sched where
  hist : List Bool
  rr : Nat
  wait : SMap Nat
  deriving DecidableEq, Repr, Inhabited

/-- What a port that is not UP discards (18 R435): the lanes of the stripes and the oldest stripe that is not counted yet, the frames
held from there on, for each VC the mesh flits still to come of a token that is counted, and whether the low half of a flit came
last. -/
structure Discard where
  lanes : List Nat
  next : BitVec 12
  frames : List (Nat × LinkFrame)
  rem : SMap Nat
  opn : Bool
  deriving DecidableEq, Repr, Inhabited

/-- An optical port (18 Table 7): mesh flits to be sent and to be resent after a retirement, the parts of flits sent and
not acknowledged (lane, FSEQ, token), the next token number, the FSEQ of the next stripe to send and to consume, control
messages to send, the half flit and the flits of unfinished tokens received, credits, buffers freed, whether an ACK is due, the CSEQ last read,
a move that the ring page asked for (lane, CSEQ) and that is not complete, an answer that is to be written there (code, CSEQ), the
arbitration of its output, what it discards, and TIME at which it went DOWN. -/
structure OptPort where
  en : Bool
  hmode : Bool
  minlanes : BitVec 4
  st : BitVec 2
  downs : BitVec 16
  rpgEn : Bool
  rpgPa : Nat
  sper : BitVec 16
  holdoff : BitVec 16
  egEn : Bool
  egPa : Nat
  lockth : BitVec 12
  berth : BitVec 12
  pdrop : Word
  satcnt : Word
  lanes : SMap LaneSt
  sites : SMap SiteSt
  egress : List PortFlit
  again : List PortFlit
  sent : List (Nat × BitVec 12 × Nat)
  tokNo : Nat
  txs : BitVec 12
  rxc : BitVec 12
  lcms : List Lcm
  half : Option LinkSlot
  flits : List (Nat × BitVec 512)
  credits : SMap Nat
  freed : SMap Nat
  ackDue : Bool
  cseq : Option DWord
  asked : Option (Nat × Nat)
  resp : Option (Nat × Nat)
  sched : Sched
  disc : Discard
  downAt : Nat
  linkDown : Bool
  deriving DecidableEq, Repr, Inhabited

/-- A laser module (18 Table 6), with the seconds of the hour that each band of HOURS counts, and what stood beyond its limit at the last
update: 0 the drift, 1 the margin, 2 the temperature, 3 + k line k, whose LOW that is. -/
structure Laser where
  biasAlm : Bool
  lineAlm : Bool
  marginAlm : Bool
  tempAlm : Bool
  biasNow : BitVec 16
  biasBol : BitVec 16
  margin : BitVec 16
  hours : SMap Word
  temp : BitVec 12
  linePwr : SMap (BitVec 16)
  secs : SMap Nat
  past : List Nat
  driftmax : BitVec 16
  linemin : BitVec 16
  marginmin : BitVec 16
  tempmax : BitVec 12
  deriving DecidableEq, Repr, Inhabited

/-- What the loader reports to the host whose queue held a launch that it rejects (02 R57): the launch, the diagnostic, the
kernel and the node or entry index. -/
structure Reject where
  queue : Nat
  index : Nat
  diag : Nat
  kernel : Option Nat
  place : Nat
  deriving DecidableEq, Repr, Inhabited

/-- A completion or event record that a region controller has to write (06 R165, R170, R172): its number, the field that walks
for it, its address, its bytes, the launch, and whether the completion vector of its queue's function fires with it. -/
structure RcWrite where
  id : Nat
  field : Nat
  asid : Nat
  va : Nat
  bytes : List Byte
  queue : Nat
  index : Nat
  vector : Bool
  deriving DecidableEq, Repr, Inhabited

/-- What a physical core holds of the logical core that it hosted, once its pitch has ended and until another takes the core (06
R170; 04 R113; 13 R337). -/
structure LastCore where
  asid : Nat
  lc : Nat
  core : LCore
  deriving DecidableEq, Repr, Inhabited

/-- The state of the device. `rcq` holds the records that wait for a page, `backing` the pages of window backings that were
mapped on a first touch, by address space (13 R341); `tlbs` holds the TLB of each core (10 R276). -/
structure State where
  pitches : SMap Pitch
  ready : SMap (List Firing)
  held : SMap (List Firing)
  last : SMap LastCore
  clusters : SMap Cluster
  tlbs : SMap (List TlbEntry)
  fields : SMap Field
  mem : List Host.Cell
  owned : List (Nat × Nat)
  dups : List DupRec
  flight : List Flight
  traps : List TrapTok
  cmds : List Cmd
  reqs : List HReq
  contribs : List Contrib
  mfwd : List (Nat × EJob)
  ring : List RingMsg
  ringCredit : List RingCtl
  ringDead : List RingCtl
  ringQ : List RingCtl
  mapReqs : List (Nat × MapReq)
  lq : SMap LQueue
  waiting : List Waiting
  preemptReq : List Nat
  boothPre : Option Nat
  victims : List Nat
  ageCtr : Nat
  admitCtr : Nat
  lastQ : Nat
  pcie : SMap PcieBlk
  owner : BitVec 2
  hbage : Word
  rptBase : DWord
  rptLog2n : BitVec 4
  rptEn : Bool
  rptProd : BitVec 16
  rptLost : BitVec 16
  rptCons : BitVec 16
  reports : List Report
  rejects : List Reject
  rcq : List RcWrite
  backing : List (Nat × Nat)
  bootField : Nat
  booted : Bool
  bootCur : Nat
  booting : Bool
  romPass : Bool
  bootNum : Word
  journal : List JRec
  clearPend : Bool
  svnMin : Nat
  fwSvn : Nat
  fwOk : Bool
  flash : Option (List Byte)
  keyRsa : List Byte
  keySlh : List Byte
  secret : List Byte
  rcvPort : Nat
  rcvJclr : Bool
  spdm : List SpdmAnswer
  cfglog : List Byte
  ports : SMap OptPort
  lasers : SMap Laser
  outbox : List (Nat × BitVec 2570)
  agenda : List Action
  cur : Option Firing
  freeCtr : Nat
  deriving DecidableEq, Repr

/-- An accumulator at the start of a configuration (04 Table 3). -/
def Acc.init : Acc := { val := [], part := [], opn := false, cnt := 0, len := 0, typ := 4 }

/-- TRAP registers at reset (04 Table 7). -/
def TrapRegs.init : TrapRegs :=
  { cause := 0, valid := false, overrun := false, detail := 0, tag := 0, node := 0, port := false, opc := 0 }

/-- Counters at configuration start (16 Table 1). -/
def Counters.init : Counters :=
  { raCancel := 0, mspill := 0, mrefill := 0, cspill := 0, ucdrop := 0, sramCe := 0, sramUe := 0, perf := [],
    perfSel := [], sink := [] }

/-- A tile that the image does not name (13 R316, 01 R22). -/
def Tile.init : Tile :=
  { bytes := [], state := .empty, role := .ab, done := false, inited := false, job := 0, eng := 0, poison := [],
    present := [], cb := [], cbClock := 0 }

/-- An invalid cache-bank line (10 R274). -/
def CbLine.init : CbLine := { v := false, d := false, p := false, tag := 0, last := 0 }

/-- A weight plane at the start of a configuration (01 R22). -/
def Plane.init : Plane := { bytes := [], fmt := 0, valid := false, poison := false }

/-- A bank that works (13 R326), at boot. Its temperature and refresh period are not stated (DESIGN CHOICE, log 6). -/
def Bank.init : Bank :=
  { st := .healthy, spare := 0, skip := [], done := 0, down := false, lost := [], temp := 0, period := 288, group := 0, ce := 0,
    ue := 0, refpress := 0, degraded := 0 }

/-- A bank column that works. -/
def Column.init : Column :=
  { busOwn := true, busPartner := true, lost := false, dupdisc := 0, lpServes := [] }

/-- An unassigned interleave descriptor (13 Table 2). -/
def Desc.init : Desc := { div := 0, colmap := 0, frozen := false }

/-- A cluster after reset (04 Table 1, Table 9). -/
def Cluster.init : Cluster :=
  { wa := .init, ws := .init, scw := [], scwPz := false, sca := [], ap := [], apPz := [], wsload := false, flags := 0,
    lastJob := 0, nextJob := 0, retired := 0, mq := [], mLast := 0, peeks := [], cpq := [], cpLast := 0, cpNext := 0,
    tlb := [], desc := [], banks := [], cols := [], linePz := [], eccPz := [], unitPz := [] }

/-- An offset entry after reset (16 Table 2). -/
def Offs.init : Offs := { offset := 0, uncm := 0, valid := false, tmeas := 0 }

/-- A banded-latency entry after reset (10 Table 11). -/
def Band.init : Band := { band0 := 15, band1 := 15, valid := false, stale := false, gen := 0 }

/-- A remap entry after reset (10 Table 6). -/
def Remap.init : Remap := { w0 := 0, w1 := 0, w2 := 0, w3 := 0, copies := [], installed := [] }

/-- A weight table that is free (11 R283). -/
def WTab.init : WTab := { w := [], valid := false, asid := 0, idx := 0, grp := 0 }

/-- Member state when a meeting is installed (11 R284). -/
def Member.init : Member := { lag := 0, miss := 0, absent := false, on := false, last := 0 }

/-- A field after reset (16 Table 2, 10, 11, 13 Table 8, 17 Tables 3 and 7). -/
def Field.init : Field :=
  { clkset := 32, cur := 32, lock := false, tj := 0, tjSince := 0, tl := [], jthrot := false, lthrot := false, hold := false,
    powerThrot := false, jth := 100, lth := 100, time := 0, offs := [], excl := [], mex := [], quar := [], pitch := [],
    ovr := [], remap := [], band := [], meet := [], wtab := [], mq := [], mNext := 0, mOut := [], walkers := [],
    rootEn := false, rootPa := 0, invAddr := 0, invLen := 0, issued := 0, doneInv := 0, overrun := false, invq := [],
    walks := [], wqueue := [], pwc := [], run := false, joined := false, fenced := false, recovery := false,
    fwrev := 0, mbOp := 0, mbSeq := 0, mbArg0 := 0, mbArg1 := 0, mbArg2 := 0, mbArg3 := 0, mbDone := 0, mbCode := 0,
    mbBusy := false, mbRes := 0, pages := [], kasel := 0, halfsel := [], slowDram := false, linkBad := [] }

/-- A launch queue after reset (06 Table 7). -/
def LQueue.init : LQueue := { base := 0, log2n := 0, en := false, dev := false, prod := 0, cons := 0 }

/-- FN[f] after reset (17 Table 2). -/
def FnEntry.init (f : Nat) : FnEntry :=
  { en := f == 0, asidLo := 0, asidHi := if f = 0 then 4095 else 0, vfbase := 0 }

/-- A PCIE block after reset (17 Table 2). -/
def PcieBlk.init : PcieBlk :=
  { cpl := none, claimfail := false, up := false, rate := 0, width := 0, retrains := 0, denied := 0, rcvlen := 0, wait := false,
    busy := false, result := 0, qfn := [], fn := [], fired := [], numVfs := 0 }

/-- Lane `l` after reset (18 Table 7). -/
def LaneSt.init (l : Nat) : LaneSt :=
  { wl := BitVec.ofNat 4 l, site := BitVec.ofNat 4 l, st := 0, joined := false, corr := 0, unc := 0, replay := 0, moves := 0,
    rxseq := 0, ackd := none, uncRun := 0, recent := [], moveWl := 0, moveSite := 0, buf := [], nak := none,
    nakDue := false, await := false, rx := [], since := 0, got := [] }

/-- Site `n` after reset (18 Table 2, Table 7): its cold resonance is the design value, its temperature 60 °C (DESIGN CHOICE, log 9). -/
def SiteSt.init (n : Nat) : SiteSt :=
  { r60 := if n = 14 then 3100 else if n = 15 then 7100 else 800 * (n : Int) - 1250, temp := 6000, code := 0, mon := 0,
    lock := false, bad := false, sat := false, held := false, lostAt := 0 }

/-- The arbitration of a port that has sent nothing. -/
def Sched.init : Sched := { hist := [], rr := 5, wait := [] }

/-- A port that has discarded nothing. -/
def Discard.init : Discard := { lanes := [], next := 0, frames := [], rem := [], opn := false }

/-- An optical port after reset (18 Table 7). -/
def OptPort.init : OptPort :=
  { en := false, hmode := false, minlanes := 8, st := 0, downs := 0, rpgEn := false, rpgPa := 0, sper := 10,
    holdoff := 20, egEn := false, egPa := 0, lockth := 2048, berth := 21, pdrop := 0, satcnt := 0, lanes := [],
    sites := [], egress := [], again := [], sent := [], tokNo := 0, txs := 0, rxc := 0, lcms := [], half := none, flits := [],
    credits := [], freed := [], ackDue := false, cseq := none, asked := none, resp := none, sched := Sched.init,
    disc := Discard.init, downAt := 0, linkDown := false }

/-- A laser module after reset (18 Table 6). BIAS.BOL is a factory value (DESIGN CHOICE, log 9). -/
def Laser.init : Laser :=
  { biasAlm := false, lineAlm := false, marginAlm := false, tempAlm := false, biasNow := 0, biasBol := 0, margin := 0,
    hours := [], temp := 0, linePwr := [], secs := [], past := [], driftmax := 1500, linemin := 800, marginmin := 100, tempmax := 600 }

/-- The device right after reset, before its boot ROM runs: every register at the value the manual gives, and at the
value the assumption log names where it gives none (log 1 to 10). -/
def State.reset : State :=
  { pitches := [], ready := [], held := [], last := [], clusters := [], tlbs := [], fields := [], mem := [], owned := [], dups := [],
    flight := [], traps := [], cmds := [], reqs := [], contribs := [], mfwd := [], ring := [], ringCredit := [],
    ringDead := [], ringQ := [], mapReqs := [], lq := [], waiting := [], preemptReq := [], boothPre := none,
    victims := [], ageCtr := 0, admitCtr := 0, lastQ := 31, pcie := [], owner := 0, hbage := 0, rptBase := 0,
    rptLog2n := 0, rptEn := false, rptProd := 0, rptLost := 0, rptCons := 0, reports := [], rejects := [], rcq := [], backing := [], bootField := 3,
    booted := false, bootCur := 0, booting := false, romPass := false, bootNum := 0, journal := [], clearPend := false, svnMin := 0,
    fwSvn := 0, fwOk := true, flash := none, keyRsa := List.replicate 48 0, keySlh := List.replicate 48 0, secret := List.replicate 32 0, rcvPort := 0, rcvJclr := false, spdm := [], cfglog := List.replicate 48 0, ports := [], lasers := [], outbox := [], agenda := [],
    cur := none, freeCtr := 0 }

end Sys2Proof.Machine
end

