-- ==== Sys2Proof/Machine/Access.lean ====
section
/-! DEFINITION. Reaching the parts of the state: pitches and logical cores, physical cores, clusters, banks, fields,
ports; and the geography that joins them (01, 13 R321). -/
namespace Sys2Proof.Machine

/-- The pitch that holds `asid`. -/
def State.pitch? (s : State) (asid : Nat) : Option Pitch := SMap.find s.pitches asid

/-- The logical core `lc` of the pitch `asid`. -/
def State.lc? (s : State) (asid lc : Nat) : Option LCore :=
  match SMap.find s.pitches asid with
  | none => none
  | some p => SMap.find p.lcores lc

/-- Replace a pitch. -/
def State.setPitch (s : State) (asid : Nat) (p : Pitch) : State := { s with pitches := SMap.ins s.pitches asid p }

/-- Change a pitch that exists. -/
def State.updPitch (s : State) (asid : Nat) (f : Pitch → Pitch) : State :=
  match SMap.find s.pitches asid with
  | none => s
  | some p => s.setPitch asid (f p)

/-- Replace a logical core of a pitch. -/
def Pitch.setLC (p : Pitch) (lc : Nat) (x : LCore) : Pitch := { p with lcores := SMap.ins p.lcores lc x }

/-- Change a logical core that exists. -/
def State.updLC (s : State) (asid lc : Nat) (f : LCore → LCore) : State :=
  match SMap.find s.pitches asid with
  | none => s
  | some p =>
    match SMap.find p.lcores lc with
    | none => s
    | some x => s.setPitch asid (p.setLC lc (f x))

/-- Change every logical core of a pitch. -/
def Pitch.mapLC (p : Pitch) (f : Nat → LCore → LCore) : Pitch :=
  { p with lcores := p.lcores.map (fun e => (e.1, f e.1 e.2)) }

/-- Whether a pitch holds its cores: it runs or is halting (06 R180). -/
def State.active (s : State) (asid : Nat) : Bool :=
  match SMap.find s.pitches asid with | some p => p.st == .running || p.st == .halting | none => false

/-- The number of logical cores of a pitch (01 R17). -/
def Pitch.n (p : Pitch) : Nat := 8 * p.w * p.h

/-- The number of a physical core: 256·cy + cx (13 Table 5). -/
def coreId (cx cy : Nat) : Nat := 256 * cy + cx

/-- The number of the cluster of a physical core: 128·ky + kx (13 R322). -/
def clusterOfCore (cx cy : Nat) : Nat := 128 * (cy / 4) + cx / 2

/-- The number of the field of a physical core: 8y + x. -/
def fieldOfCore (cx cy : Nat) : Nat := 8 * (cy / 32) + cx / 32

/-- The field of a cluster. -/
def fieldOfCluster (k : Nat) : Nat := 8 * (k / 128 / 8) + k % 128 / 16

/-- The field of a pitch's south-west cluster, whose TIME its watchdog counts (06 R178). -/
def Pitch.homeField (p : Pitch) : Nat := fieldOfCluster (128 * p.ky0 + p.kx0)

/-- The column of field `f`. -/
def fieldX (f : Nat) : Nat := f % 8

/-- The row of field `f`. -/
def fieldY (f : Nat) : Nat := f / 8

/-- The cluster index within its field (10 R261). -/
def clusterInField (k : Nat) : Nat := 16 * (k / 128 % 8) + k % 128 % 16

/-- The core index within its field (10 R261). -/
def coreInField (cx cy : Nat) : Nat := 32 * (cy % 32) + cx % 32

/-- The bank column over a core: 2·(cy mod 4) + (cx mod 2) (13 R321). -/
def columnOfCore (cx cy : Nat) : Nat := 2 * (cy % 4) + cx % 2

/-- Whether a rebind of a logical core is in progress (10 R270). -/
def LCore.blocked (x : LCore) : Bool := x.rebindTo.isSome

/-- The physical core that hosts a logical core. -/
def LCore.core (x : LCore) : Nat := coreId x.host.cx x.host.cy

/-- The cluster that hosts a logical core. -/
def LCore.cluster (x : LCore) : Nat := clusterOfCore x.host.cx x.host.cy

/-- The field that hosts a logical core. -/
def LCore.field (x : LCore) : Nat := fieldOfCore x.host.cx x.host.cy

/-- A cluster. -/
def State.cluster (s : State) (k : Nat) : Cluster := SMap.get Cluster.init s.clusters k

/-- Replace a cluster. -/
def State.setCluster (s : State) (k : Nat) (c : Cluster) : State := { s with clusters := SMap.ins s.clusters k c }

/-- Change a cluster. -/
def State.updCluster (s : State) (k : Nat) (f : Cluster → Cluster) : State := s.setCluster k (f (s.cluster k))

/-- A field's supervisor state. -/
def State.field (s : State) (f : Nat) : Field := SMap.get Field.init s.fields f

/-- Replace a field's supervisor state. -/
def State.setField (s : State) (i : Nat) (f : Field) : State := { s with fields := SMap.ins s.fields i f }

/-- Change a field's supervisor state. -/
def State.updField (s : State) (i : Nat) (g : Field → Field) : State := s.setField i (g (s.field i))

/-- The ready queue of a physical core. -/
def State.readyQ (s : State) (core : Nat) : List Firing := SMap.get [] s.ready core

/-- Replace a ready queue. -/
def State.setReady (s : State) (core : Nat) (q : List Firing) : State := { s with ready := SMap.put [] s.ready core q }

/-- The completed matches held while a ready queue is full (01 R25), oldest first. -/
def State.heldQ (s : State) (core : Nat) : List Firing := SMap.get [] s.held core

/-- A bank: column `c`, layer `l` (8 for LP). -/
def Cluster.bank (k : Cluster) (c l : Nat) : Bank := SMap.get Bank.init k.banks (16 * c + l)

/-- Change a bank. -/
def Cluster.updBank (k : Cluster) (c l : Nat) (f : Bank → Bank) : Cluster :=
  { k with banks := SMap.ins k.banks (16 * c + l) (f (k.bank c l)) }

/-- A bank column. -/
def Cluster.col (k : Cluster) (c : Nat) : Column := SMap.get Column.init k.cols c

/-- Change a bank column. -/
def Cluster.updCol (k : Cluster) (c : Nat) (f : Column → Column) : Cluster :=
  { k with cols := SMap.ins k.cols c (f (k.col c)) }

/-- A tile of a logical core. -/
def LCore.tile (x : LCore) (n : Nat) : Tile := SMap.get Tile.init x.tiles n

/-- Change a tile. -/
def LCore.updTile (x : LCore) (n : Nat) (f : Tile → Tile) : LCore :=
  { x with tiles := SMap.ins x.tiles n (f (x.tile n)) }

/-- Tiles of a logical core: 24, or 12 on a doubled core (01 R19). -/
def LCore.tileCount (x : LCore) : Nat := if x.host.doubled then 12 else 24

/-- An accumulator. -/
def LCore.acc (x : LCore) (n : Nat) : Acc := SMap.get Acc.init x.accs n

/-- Change an accumulator. -/
def LCore.updAcc (x : LCore) (n : Nat) (f : Acc → Acc) : LCore :=
  { x with accs := SMap.ins x.accs n (f (x.acc n)) }

/-- A constant register. -/
def LCore.kreg (x : LCore) (n : Nat) : Word := SMap.get 0 x.k n

/-- The record of a node that the image does not set: an EXT record with zero parameters (02 R44). -/
def recUnset : Rec := 0xFFC000000000000000000000

/-- The node record at `i`. -/
def LCore.node (x : LCore) (i : Nat) : Rec := SMap.get recUnset x.nodes i

/-- The route entry at `i`. -/
def LCore.route (x : LCore) (i : Nat) : DWord := SMap.get 0 x.routes i

/-- A counter that saturates at 2^32 − 1 (16 R396). -/
def satInc (w : Word) : Word := if w = 0xFFFFFFFF then w else w + 1

/-- Change the counters of a logical core. -/
def LCore.count (x : LCore) (f : Counters → Counters) : LCore := { x with cnt := f x.cnt }

/-- Count a performance event, as often as `n` (16 R403). -/
def Counters.perfEvent (c : Counters) (code : Nat) (n : Nat) : Counters :=
  { c with perf := (List.range 8).foldl (fun m i =>
      if SMap.get 0 c.perfSel i = BitVec.ofNat 9 (256 + code) then SMap.ins m i (SMap.get 0 m i + BitVec.ofNat 64 n)
      else m) c.perf }

/-- Count a performance event of a logical core. -/
def LCore.perfEvent (x : LCore) (code n : Nat) : LCore := x.count (fun c => c.perfEvent code n)

/-- An optical port. -/
def State.port (s : State) (n : Nat) : OptPort := SMap.get OptPort.init s.ports n

/-- Change an optical port. -/
def State.updPort (s : State) (n : Nat) (f : OptPort → OptPort) : State :=
  { s with ports := SMap.ins s.ports n (f (s.port n)) }

/-- A lane of a port. -/
def OptPort.lane (p : OptPort) (l : Nat) : LaneSt := SMap.get (LaneSt.init l) p.lanes l

/-- Change a lane. -/
def OptPort.updLane (p : OptPort) (l : Nat) (f : LaneSt → LaneSt) : OptPort :=
  { p with lanes := SMap.ins p.lanes l (f (p.lane l)) }

/-- A ring site of a port. -/
def OptPort.sitest (p : OptPort) (n : Nat) : SiteSt := SMap.get (SiteSt.init n) p.sites n

/-- Change a ring site. -/
def OptPort.updSite (p : OptPort) (n : Nat) (f : SiteSt → SiteSt) : OptPort :=
  { p with sites := SMap.ins p.sites n (f (p.sitest n)) }

/-- The PCIE block of port 0 (A) or 1 (B). -/
def State.pcieBlk (s : State) (p : Nat) : PcieBlk := SMap.get PcieBlk.init s.pcie p

/-- Change a PCIE block. -/
def State.updPcie (s : State) (p : Nat) (f : PcieBlk → PcieBlk) : State :=
  { s with pcie := SMap.ins s.pcie p (f (s.pcieBlk p)) }

/-- A launch queue. -/
def State.lqueue (s : State) (q : Nat) : LQueue := SMap.get LQueue.init s.lq q

/-- Change a launch queue. -/
def State.updLQ (s : State) (q : Nat) (f : LQueue → LQueue) : State :=
  { s with lq := SMap.ins s.lq q (f (s.lqueue q)) }

/-- TIME of the boot field, in ticks. -/
def State.bootTime (s : State) : DWord := (s.field s.bootField).time

/-- The next free value's index, and the state after taking it (DESIGN CHOICE, log 10). -/
def State.fresh (s : State) : Nat × State := (s.freeCtr, { s with freeCtr := s.freeCtr + 1 })

end Sys2Proof.Machine
end

