-- ==== Sys2Proof/Machine/Dram.lean ====
section
/-! DEFINITION. The DRAM wafer and host memory: where a physical address lies, its bytes through parity, degraded and
substituted banks, and poison (13 R321 to R329, R335, R336). -/
namespace Sys2Proof.Machine

/-- What a physical address names (13 Table 5, R322). -/
inductive PaKind where
  | dram (k c l q b : Nat)
  | view (k g : Nat)
  | host (p : Nat)
  | tile (core off : Nat)
  | fieldBlk (f off : Nat)
  | waferBlk (off : Nat)
  | absent
  deriving DecidableEq, Repr

/-- A byte's place in `State.mem`: cluster, column, layer, byte of the bank. Host memory stands at its own physical
address, which lies above every such place. -/
def locKey (k c l q b : Nat) : Nat := ((k * 8 + c) * 16 + l) * 16777216 + q * 4096 + b

/-- The live bank columns of a cluster. -/
def Cluster.liveCols (k : Cluster) : List Nat := (List.range 8).filter (fun c => !(k.col c).lost)

/-- The descriptor that a first access assigns (13 R324): the live columns in ascending order. -/
def Cluster.newDesc (k : Cluster) : Desc :=
  let cs := k.liveCols
  { div := BitVec.ofNat 4 cs.length
    colmap := BitVec.ofNat 24 ((cs.zipIdx).foldl (fun a e => a + e.1 * 8 ^ e.2) 0)
    frozen := true }

/-- The descriptor of region `g`. -/
def Cluster.descAt (k : Cluster) (g : Nat) : Desc := SMap.get Desc.init k.desc g

/-- Assign the descriptor of the region of a DRAM address where none is (13 R322, R324). -/
def State.assign (s : State) (pa : Nat) : State :=
  let k := pa / 1073741824
  let o := pa % 1073741824
  if k < 8192 ∧ o < 0x3E000000 ∧ ((s.cluster k).descAt (o / 2097152)).frozen = false then
    s.updCluster k (fun c => { c with desc := SMap.ins c.desc (o / 2097152) c.newDesc })
  else s

/-- Where a physical address lies, its region assigned (13 R322, R336). -/
def State.resolve (s : State) (pa : Nat) : PaKind :=
  if pa < 0x80000000000 then
    let k := pa / 1073741824
    let o := pa % 1073741824
    if (s.field (fieldOfCluster k)).fenced then .absent
    else if o ≥ 0x3E000000 then
      if o ≥ 0x3FFFF000 ∧ o < 0x3FFFFF80 then .view k ((o - 0x3FFFF000) / 8) else .absent
    else
      let g := o / 2097152
      let u := o / 4096 % 512
      let d := (s.cluster k).descAt g
      let div := d.div.toNat
      if u ≥ 64 * div then .absent
      else
        let c := d.colmap.toNat / 8 ^ (u % div) % 8
        let t := 64 * g + u / div
        .dram k c (t % 8) (t / 8) (o % 4096)
  else if 0x100000000000 ≤ pa ∧ pa < 0x101000000000 then
    .tile ((pa - 0x100000000000) / 1048576) (pa % 1048576)
  else if 0x200000000000 ≤ pa ∧ pa < 0x200004000000 then
    .fieldBlk ((pa - 0x200000000000) / 1048576) (pa % 1048576)
  else if 0x200040000000 ≤ pa ∧ pa < 0x200040100000 then .waferBlk (pa % 1048576)
  else if 0x8000000000000 ≤ pa ∧ pa < 0x10000000000000 then .host pa
  else .absent

/-- The `n`-th spare unit counted from spare index `i`, passing the banks in `skip` (13 R327): column, layer, unit. -/
def spareFrom (skip : List Nat) (fuel i n : Nat) : Option (Nat × Nat × Nat) :=
  match fuel with
  | 0 => none
  | fuel + 1 =>
    let m := i / 128
    let room := 128 - i % 128
    if skip.contains m then spareFrom skip fuel (128 * (m + 1)) n
    else if n < room then some (m / 8, m % 8, 3968 + i % 128 + n)
    else spareFrom skip fuel (128 * (m + 1)) (n - room)

/-- Where unit `q` of a bank is held: its own place, or its spare unit once that is written (13 R327). -/
def Cluster.unitLoc (x : Cluster) (k c l q : Nat) : Nat :=
  let bk := x.bank c l
  if bk.st = .substituted ∨ (bk.st = .rebuilding ∧ q < bk.done) then
    match spareFrom bk.skip 64 bk.spare q with
    | some (c', l', u) => locKey k c' l' u 0
    | none => locKey k c l q 0
  else locKey k c l q 0

/-- Whether a number lies in one of a list of intervals. -/
def inIvs (l : List (Nat × Nat)) (q : Nat) : Bool := l.any (fun i => decide (i.1 ≤ q) && decide (q < i.2))

/-- Whether unit `q` of a bank is read and written where it is held (13 R326, R327, R332): a lost unit keeps what is stored
into it (13 R335). -/
def Cluster.usable (x : Cluster) (c l q : Nat) : Bool :=
  let bk := x.bank c l
  inIvs bk.lost q ||
    match bk.st with
    | .substituted => true
    | .rebuilding => decide (q < bk.done)
    | .degraded => false
    | .healthy => !bk.down

/-- Whether the LP unit of stripe `q` holds a data unit in place of parity (13 R328). -/
def Cluster.lpTaken (x : Cluster) (c q : Nat) : Bool := (x.col c).lpServes.any (fun e => decide (e.2.1 ≤ q) && decide (q < e.2.2))

/-- Whether the unit of layer `l` is read from the LP unit of stripe `q` (13 R328). -/
def Cluster.lpHolds (x : Cluster) (c l q : Nat) : Bool :=
  !x.usable c l q && (x.col c).lpServes.any (fun e => e.1 == l && decide (e.2.1 ≤ q) && decide (q < e.2.2))

/-- Whether the LP unit of stripe `q` holds parity (13 R321, R328). -/
def Cluster.lpParity (x : Cluster) (c q : Nat) : Bool := x.usable c 8 q && !x.lpTaken c q

/-- The stored byte at a place. -/
def State.raw (s : State) (loc : Nat) : Byte := SMap.get 0 s.mem loc

/-- Store a byte at a place, keeping the memory's canonical form. -/
def State.setRaw (s : State) (loc : Nat) (v : Byte) : State := { s with mem := SMap.put 0 s.mem loc v }

/-- The exclusive OR of the other data units and the LP unit of a stripe (13 R326). -/
def State.reconstruct (s : State) (x : Cluster) (k c l q b : Nat) : Byte :=
  (List.range 9).foldl (fun a m => if m = l then a else a ^^^ s.raw (x.unitLoc k c m q + b)) 0

/-- A byte of a data unit as every agent sees it (13 R326 to R328). -/
def State.dramByte (s : State) (k c l q b : Nat) : Byte :=
  let x := s.cluster k
  if x.usable c l q then s.raw (x.unitLoc k c l q + b)
  else if x.lpHolds c l q then s.raw (x.unitLoc k c 8 q + b)
  else if x.lpParity c q then s.reconstruct x k c l q b
  else 0

/-- Store a byte of a data unit, with the parity of its stripe (13 R326, R328). -/
def State.setDramByte (s : State) (k c l q b : Nat) (v : Byte) : State :=
  let x := s.cluster k
  let lp := x.unitLoc k c 8 q + b
  if x.usable c l q then
    let loc := x.unitLoc k c l q + b
    if x.lpParity c q then
      (s.setRaw loc v).setRaw lp (s.raw lp ^^^ s.raw loc ^^^ v)
    else s.setRaw loc v
  else if x.lpHolds c l q then s.setRaw lp v
  else if x.lpParity c q then s.setRaw lp (s.raw lp ^^^ s.reconstruct x k c l q b ^^^ v)
  else s

/-- The number of a data unit within its cluster, for loss poison. -/
def unitKey (c l q : Nat) : Nat := (16 * c + l) * 4096 + q

/-- Whether a DRAM line or its unit is poisoned (13 R335), or is reconstructed from a line that ECC could not read
(13 R326, R334). -/
def Cluster.poisonedAt (x : Cluster) (k c l q b : Nat) : Bool :=
  x.linePz.contains (locKey k c l q b / 64) || x.unitPz.contains (unitKey c l q) ||
    (!x.usable c l q &&
      (if x.lpHolds c l q then x.eccPz.contains (locKey k c 8 q b / 64)
       else (List.range 9).any (fun m => m != l && x.eccPz.contains (locKey k c m q b / 64))))

/-- Count a degraded access of a bank (16 R396). -/
def State.countDegraded (s : State) (k c l q : Nat) : State :=
  if (s.cluster k).usable c l q then s
  else s.updCluster k (fun x => x.updBank c l (fun bk => { bk with degraded := satInc bk.degraded }))

/-- Whether a pitch holds clusters (06 R180). -/
def Pitch.placed (p : Pitch) : Bool := p.st != .saved

/-- Whether a core hosts a logical core. -/
def LCore.at (x : LCore) (cx cy : Nat) : Bool := x.host.cx == cx && x.host.cy == cy

/-- The logical core that a physical core's half hosts: address space, number, pitch, core. -/
def State.hosted (s : State) (cx cy : Nat) (half : Bool) : Option (Nat × Nat × Pitch × LCore) :=
  s.pitches.findSome? (fun p =>
    if p.2.placed then (p.2.lcores.find? (fun e => e.2.at cx cy && e.2.host.half == half)).map (fun e => (p.1, e.1, p.2, e.2))
    else none)

/-- The tile byte of a physical core: on a doubled core each half has twelve tiles (13 Table 5; 01 R19). A core that hosts no
logical core gives none. -/
def State.tileAt (s : State) (core off : Nat) : Option (Nat × Nat × Nat × Nat) :=
  let t := off / 32768
  let half := match s.hosted (core % 256) (core / 256) false with | some (_, _, _, x) => x.host.doubled && decide (12 ≤ t) | none => true
  (s.hosted (core % 256) (core / 256) half).map (fun y => (y.1, y.2.1, if y.2.2.2.host.half ∧ 12 ≤ t then t - 12 else t, off % 32768))

/-- What a half of a physical core holds of the pitch that it hosted last, or the other half where that one holds nothing. -/
def State.lastAt (s : State) (core : Nat) (half : Bool) : Option LastCore :=
  match SMap.find s.last (2 * core + half.toNat) with
  | some y => some y
  | none => SMap.find s.last (2 * core + (!half).toNat)

/-- The tile and offset of a byte of a core that hosts no logical core, as it hosted one last. -/
def State.lastTile (s : State) (core off : Nat) : Option (Tile × Nat) :=
  let t := off / 32768
  (s.lastAt core (match s.lastAt core false with | some y => y.core.host.doubled && decide (12 ≤ t) | none => true)).map (fun y =>
    (y.core.tile (if y.core.host.half ∧ 12 ≤ t then t - 12 else t), off % 32768))

/-- A byte of the tile window (13 R336, R337): bytes above a core's tiles read zero; a core that hosts no logical core holds what
its last pitch left (06 R170), and one that has hosted none a free value (DESIGN CHOICE, log 13). -/
def State.tileByte (s : State) (core off : Nat) : Byte :=
  if 0xC0000 ≤ off then 0
  else match s.tileAt core off with
    | some (asid, lc, t, b) => (match s.lc? asid lc with | some x => SMap.get 0 (x.tile t).bytes b | none => 0)
    | none =>
      match s.lastTile core off with
      | some (t, b) => SMap.get 0 t.bytes b
      | none => (Config.freeWord s.freeCtr).extractLsb' 0 8

/-- Whether a line of the tile window is poisoned. -/
def State.tilePz (s : State) (core off : Nat) : Bool :=
  match s.tileAt core off with
  | some (asid, lc, t, b) => (match s.lc? asid lc with | some x => (x.tile t).poison.contains (b / 64) | none => false)
  | none => (match s.lastTile core off with | some (t, b) => t.poison.contains (b / 64) | none => false)

/-- Whether the tile window of a logical core takes writes: while its pitch is loading or being restored, or a rebind stops it (13
R337). -/
def State.tileOpen (s : State) (asid lc : Nat) : Bool :=
  match s.pitch? asid, s.lc? asid lc with
  | some p, some x => p.st == .loading || p.st == .restoring || x.blocked
  | _, _ => false

/-- A write of the tile window (13 R337): only during a configuration swap, a rebind or a restore. -/
def State.writeTile (s : State) (core off : Nat) (v : Byte) : State :=
  match if 0xC0000 ≤ off then none else s.tileAt core off with
  | none => s
  | some (asid, lc, t, b) =>
    if s.tileOpen asid lc then s.updLC asid lc (fun x => x.updTile t (fun y => { y with bytes := SMap.put 0 y.bytes b v }))
    else s

/-- Whether an address is DRAM data or host memory, which memory accesses reach (13 R336, R337). -/
def State.present (s : State) (pa : Nat) : Bool :=
  match (s.assign pa).resolve pa with
  | .dram .. => true
  | .host _ => true
  | _ => false

/-- Whether a leaf may name an address (13 R336, R337): DRAM, host memory, and for a supervisor-only leaf the tile window. -/
def State.leafReach (s : State) (pa : Nat) (user : Bool) : Bool :=
  match (s.assign pa).resolve pa with
  | .dram .. => true
  | .host _ => true
  | .tile .. => !user
  | _ => false

/-- One byte of DRAM, host memory or the tile window, and zero elsewhere. -/
def State.byteAt (s : State) (pa : Nat) : Byte :=
  match s.resolve pa with
  | .dram k c l q b => s.dramByte k c l q b
  | .host p => s.raw p
  | .tile core off => s.tileByte core off
  | _ => 0

/-- Whether a byte of DRAM or of a tile is poisoned. -/
def State.poisonAt (s : State) (pa : Nat) : Bool :=
  match s.resolve pa with
  | .dram k c l q b => (s.cluster k).poisonedAt k c l q b
  | .tile core off => s.tilePz core off
  | _ => false

/-- `n` bytes from `pa`. -/
def State.bytesAt (s : State) (pa n : Nat) : List Byte := (List.range n).map (fun i => s.byteAt (pa + i))

/-- Whether any line of `n` bytes from `pa` is poisoned. -/
def State.poisonIn (s : State) (pa n : Nat) : Bool :=
  (List.range ((pa % 64 + n + 63) / 64)).any (fun i => s.poisonAt (pa - pa % 64 + 64 * i))

/-- Store one byte. -/
def State.setByte (s : State) (pa : Nat) (v : Byte) : State :=
  match s.resolve pa with
  | .dram k c l q b => s.setDramByte k c l q b v
  | .host p => s.setRaw p v
  | .tile core off => s.writeTile core off v
  | _ => s

/-- Store bytes from `pa` upward. -/
def State.setBytes (s : State) (pa : Nat) (vs : List Byte) : State :=
  match vs with
  | [] => s
  | v :: r => State.setBytes (s.setByte pa v) (pa + 1) r

/-- Insert into a list of numbers without repeats. -/
def addNat (l : List Nat) (n : Nat) : List Nat := if l.contains n then l else n :: l

/-- Queue a report for the boot field's report ring (17 R412). -/
def State.pushReport (s : State) (kind field detail pa len : Nat) : State :=
  if !s.rptEn then s
  else if s.reports.length < 1024 then
    let r : Report :=
      { kind := kind, field := field, detail := detail, pa := pa, len := len, time := (s.field field).time }
    { s with reports := s.reports ++ [r] }
  else { s with rptLost := if s.rptLost = 0xFFFF then s.rptLost else s.rptLost + 1 }

/-- Report a poisoned range of DRAM (13 R335; 17 R412); the detail of such a report is not stated (DESIGN CHOICE, log 13). -/
def State.reportPoison (s : State) (k : Nat) (pa : Option Nat) (len : Nat) : State :=
  match pa with
  | some p =>
    if s.rptEn then
      (s.fresh.2).pushReport 1 (fieldOfCluster k) ((Config.freeWord s.fresh.1).toNat % 65536) p len
    else s
  | none => s

/-- A clean write of a whole line ends its poison (13 R335); of a line served by LP it writes the LP line whole too (13 R326,
R328). -/
def Cluster.cleanLine (x : Cluster) (k c l q b : Nat) : Cluster :=
  let key := locKey k c l q b / 64
  let gone (e : Nat) : Bool := e == key || (!x.usable c l q && e == locKey k c 8 q b / 64)
  { x with linePz := x.linePz.filter (fun e => !gone e), eccPz := x.eccPz.filter (fun e => !gone e) }

/-- Poison or clean the line of `pa`, which is reported where it is in DRAM and becomes poisoned (13 R335). -/
def State.markLine (s : State) (pa : Nat) (poison clean : Bool) : State :=
  match s.resolve pa with
  | .dram k c l q b =>
    let key := locKey k c l q b / 64
    if poison then
      (if (s.cluster k).linePz.contains key then s
       else (s.updCluster k (fun x => { x with linePz := addNat x.linePz key })).reportPoison k (some (pa / 64 * 64)) 64)
    else if clean then s.updCluster k (fun x => x.cleanLine k c l q b)
    else s
  | .tile core off =>
    (match s.tileAt core off with
    | some (asid, lc, t, b) =>
      let mark (l : List Nat) : List Nat := if poison then addNat l (b / 64) else if clean then l.filter (· ≠ b / 64) else l
      if s.tileOpen asid lc then s.updLC asid lc (fun x => x.updTile t (fun y => { y with poison := mark y.poison })) else s
    | none => s)
  | _ => s

/-- Count a degraded access at an address. -/
def State.noteAccess (s : State) (pa : Nat) : State :=
  match s.resolve pa with
  | .dram k c l q _ => s.countDegraded k c l q
  | _ => s

/-- A write of bytes that lie in one 64-byte line: the bytes, the line's poison, the counters, the region's
descriptor. -/
def State.writeLine (s : State) (pa : Nat) (vs : List Byte) (poison : Bool) : State :=
  let s := (s.assign pa).noteAccess pa
  (s.setBytes pa vs).markLine pa poison (decide (pa % 64 = 0 ∧ vs.length = 64))

/-- The effect of a read of a line: the region's descriptor and the counters. -/
def State.readNote (s : State) (pa : Nat) : State := (s.assign pa).noteAccess pa

/-- The effect of a read of `n` bytes, line by line. -/
def State.noteRange (s : State) (pa n : Nat) : State :=
  (List.range ((pa % 64 + n + 63) / 64)).foldl (fun s i => s.readNote (pa - pa % 64 + 64 * i)) s

/-- Write bytes of any length, line by line, poison given for all. -/
def State.writeRange (s : State) (fuel pa : Nat) (vs : List Byte) (poison : Bool) : State :=
  match fuel with
  | 0 => s
  | fuel + 1 =>
    match vs with
    | [] => s
    | _ =>
      let n := 64 - pa % 64
      State.writeRange (s.writeLine pa (vs.take n) poison) fuel (pa + n) (vs.drop n) poison

/-- A little-endian number from bytes. -/
def natOfBytes : List Byte → Nat
  | [] => 0
  | b :: r => b.toNat + 256 * natOfBytes r

/-- The `n` little-endian bytes of a number. -/
def bytesOfNat (n v : Nat) : List Byte :=
  match n with
  | 0 => []
  | n + 1 => BitVec.ofNat 8 v :: bytesOfNat n (v / 256)

/-- The bytes of payload lanes. -/
def bytesOfLanes (ls : List Word) : List Byte := ls.flatMap (fun w => bytesOfNat 4 w.toNat)

/-- Lanes from bytes, four each. -/
def lanesOfBytes (n : Nat) (bs : List Byte) : List Word :=
  match n with
  | 0 => []
  | n + 1 => BitVec.ofNat 32 (natOfBytes (bs.take 4)) :: lanesOfBytes n (bs.drop 4)

/-- A 64-bit word of memory. -/
def State.word64 (s : State) (pa : Nat) : DWord := BitVec.ofNat 64 (natOfBytes (s.bytesAt pa 8))

end Sys2Proof.Machine
end

