-- ==== Sys2Proof/Machine/Translate.lean ====
section
/-! DEFINITION. Pointers, windows, page walks and TLBs (13 R338 to R347, 10 R275, R276). -/
namespace Sys2Proof.Machine

/-- A pointer after the checks of R338 and R340: VA[56:0] and whether it came through a window; or a DETAIL of
ACCESS_FAULT. `colour` is the colour of the issuing firing's tag. -/
def checkPtr (colour : Nat) (p : Nat) : Except Nat (Nat × Bool) :=
  let top := p / 144115188075855872
  let b56 := p / 72057594037927936 % 2
  if top ≠ (if b56 = 1 then 127 else 0) then .error 0x54
  else if b56 = 1 then .error 0x55
  else if p < 0x00FE000000000000 then .ok (p, false)
  else if p < 0x00FE001000000000 then
    .ok (0x1F0000000000000 + 68719476736 * colour + (p - 0x00FE000000000000), true)
  else if p < 0x00FF000000000000 then .error 0x58
  else if p < 0x00FF001000000000 then
    .ok (0x1E0000000000000 + 68719476736 * colour + (p - 0x00FF000000000000), true)
  else .error 0x58

/-- What a walk finds: a leaf (the entry's address, the entry, its level, and the table entries passed), V = 0 at an
entry, or a fault with its DETAIL. -/
inductive WalkRes where
  | leaf (at_ : Nat) (e : DWord) (level : Nat) (upper : List (Nat × Nat))
  | absent (at_ : Nat)
  | fault (detail : Nat)
  deriving DecidableEq, Repr

/-- Bits [51:12] of an entry: the page number it names. -/
def ppnOf (e : DWord) : Nat := e.toNat / 4096 % 1099511627776

/-- Walk the levels below and at `level`, from the table at page `tbl` (10 R275, Table 10; 13 Table 7). `upper`
collects the levels and pages of the tables passed. -/
def State.walkFrom (s : State) (f : Field) (asid vpn level tbl : Nat) (upper : List (Nat × Nat)) : WalkRes :=
  let idx := vpn / 512 ^ level % 512
  let pa := tbl * 4096 + 8 * idx
  let cached := f.pwc.find? (fun t => t.asid == asid && t.level == level && t.vpn == vpn / 512 ^ level)
  match level with
  | 0 =>
    if s.present pa then
      let e := (s.assign pa).word64 pa
      if !e.getLsbD 0 then .absent pa
      else if e.toNat / 4503599627370496 ≠ 0 ∨ !e.getLsbD 3 then .fault 0x51
      else .leaf pa e 0 upper
    else .fault 0x56
  | l + 1 =>
    match cached with
    | some t => State.walkFrom s f asid vpn l t.ppn ((l + 1, t.ppn) :: upper)
    | none =>
      if s.present pa then
        let e := (s.assign pa).word64 pa
        if !e.getLsbD 0 then .absent pa
        else if e.toNat / 4503599627370496 ≠ 0 then .fault 0x51
        else if e.getLsbD 3 then
          if l + 1 ≥ 3 ∨ ppnOf e % 512 ^ (l + 1) ≠ 0 then .fault 0x51 else .leaf pa e (l + 1) upper
        else State.walkFrom s f asid vpn l (ppnOf e) ((l + 1, ppnOf e) :: upper)
      else .fault 0x56

/-- The walk of page `vpn` of an address space by the walker of field `fi` (13 R342, R347). -/
def State.walk (s : State) (fi asid vpn : Nat) : WalkRes :=
  let f := s.field fi
  if !f.rootEn then .fault 0x51
  else
    let dir := f.rootPa * 4096 + 8 * asid
    let d := (s.assign dir).word64 dir
    if !s.present dir then .fault 0x56
    else if !d.getLsbD 0 ∨ d.toNat / 2 % 2048 ≠ 0 ∨ d.toNat / 4503599627370496 ≠ 0 then .fault 0x51
    else s.walkFrom f asid vpn 4 (ppnOf d) []

/-- The entries that a walk from a table reads, in order. -/
def State.readsFrom (s : State) (f : Field) (asid vpn level tbl : Nat) : List Nat :=
  let pa := tbl * 4096 + 8 * (vpn / 512 ^ level % 512)
  match level with
  | 0 => [pa]
  | l + 1 =>
    match f.pwc.find? (fun t => t.asid == asid && t.level == level && t.vpn == vpn / 512 ^ level) with
    | some t => State.readsFrom s f asid vpn l t.ppn
    | none =>
      let e := (s.assign pa).word64 pa
      if e.getLsbD 0 ∧ !e.getLsbD 3 then pa :: State.readsFrom s f asid vpn l (ppnOf e) else [pa]

/-- The regions that a walk reads are assigned (13 R322, R324). -/
def State.walkNote (s : State) (fi asid vpn : Nat) : State :=
  let f := s.field fi
  let dir := f.rootPa * 4096 + 8 * asid
  if f.rootEn then
    (dir :: s.readsFrom f asid vpn 4 (ppnOf ((s.assign dir).word64 dir))).foldl State.assign s
  else s

/-- Whether two byte ranges overlap. -/
def overlaps (a n b m : Nat) : Bool := decide (a < b + m) && decide (b < a + n)

/-- Whether an engine owns a line of a range (14 R361). -/
def State.isOwned (s : State) (pa n : Nat) : Bool := s.owned.any (fun o => overlaps (64 * o.1) 64 pa n)

/-- Whether an entry that a walk reads lies in an owned line: the walk then waits (14 R361). -/
def State.walkOwned (s : State) (fi asid vpn : Nat) : Bool :=
  let f := s.field fi
  let dir := f.rootPa * 4096 + 8 * asid
  f.rootEn && (dir :: s.readsFrom f asid vpn 4 (ppnOf ((s.assign dir).word64 dir))).any (fun pa => s.isOwned pa 8)

/-- The leaf check of Table 7 for an access: writing or not, through a window or not, a pitch's or a supervisor's. -/
def leafFault (s : State) (e : DWord) (pa : Nat) (write window super : Bool) : Option Nat :=
  if !super ∧ !window ∧ !e.getLsbD 2 then some 0x52
  else if write ∧ !e.getLsbD 1 then some 0x53
  else if !s.leafReach pa (e.getLsbD 2) then some 0x56
  else if write ∧ e.getLsbD 6 then some 0x57
  else none

/-- Set A, and D for a write, in a leaf (13 R346). -/
def State.setAD (s : State) (at_ : Nat) (e : DWord) (write : Bool) : State :=
  let e' := e ||| (if write then 0x30 else 0x10)
  if e' = e then s else s.setBytes at_ (bytesOfNat 8 e'.toNat)

/-- The TLB entry of a leaf. -/
def tlbOf (asid vpn level : Nat) (e : DWord) : TlbEntry :=
  { asid := asid, vpn := vpn / 512 ^ level * 512 ^ level, level := level, ppn := ppnOf e, w := e.getLsbD 1,
    u := e.getLsbD 2, d := e.getLsbD 5, pz := e.getLsbD 6 }

/-- Whether a TLB entry maps a page. -/
def TlbEntry.covers (t : TlbEntry) (asid vpn : Nat) : Bool :=
  t.asid == asid && t.vpn / 512 ^ t.level == vpn / 512 ^ t.level

/-- The entry of a TLB for a page. -/
def tlbFind (l : List TlbEntry) (asid vpn : Nat) : Option TlbEntry := l.find? (fun t => t.covers asid vpn)

/-- The physical address that a TLB entry gives. -/
def TlbEntry.addr (t : TlbEntry) (va : Nat) : Nat := t.ppn * 4096 + va % (4096 * 512 ^ t.level)

/-- Fill an AG core's TLB: 32 entries, least recently used replaced (10 R276). The most recent stands first. -/
def tlbFill32 (l : List TlbEntry) (t : TlbEntry) : List TlbEntry :=
  (t :: l.filter (fun x => !(x.asid == t.asid && x.vpn == t.vpn && x.level == t.level))).take 32

/-- The set of a cluster TLB that an entry falls in (10 R276). -/
def TlbEntry.set (t : TlbEntry) : Nat := if t.level = 0 then t.vpn / 4 % 128 else t.vpn / 512 ^ t.level % 128

/-- Drop the entries of a set beyond its eight ways. -/
def keepWays (set n : Nat) : List TlbEntry → List TlbEntry
  | [] => []
  | t :: r => if t.set = set then (if n = 0 then keepWays set 0 r else t :: keepWays set (n - 1) r)
    else t :: keepWays set n r

/-- Fill a cluster TLB: 128 sets of 8 ways, least recently used replaced (10 R276). -/
def tlbFillCluster (l : List TlbEntry) (t : TlbEntry) : List TlbEntry :=
  keepWays t.set 8 (t :: l.filter (fun x => !(x.asid == t.asid && x.vpn == t.vpn && x.level == t.level)))

/-- Fill a field's page-walk cache with the tables a walk passed: 64 entries (10 R276). -/
def pwcFill (l : List TlbEntry) (asid vpn : Nat) (upper : List (Nat × Nat)) : List TlbEntry :=
  (upper.foldl (fun l u =>
    let t : TlbEntry := { asid := asid, vpn := vpn / 512 ^ u.1, level := u.1, ppn := u.2, w := false, u := false,
                          d := false, pz := false }
    t :: l.filter (fun x => !(x.asid == asid && x.vpn == t.vpn && x.level == u.1))) l).take 64

/-- Record a miss at a field's walker (13 R344): it joins the walk or the queued miss of its page, starts a walk while
fewer than 16 are in flight, or queues; beyond 64 it is held where it is. -/
def Field.miss (f : Field) (asid vpn : Nat) (who : Miss) : Field :=
  let inWalk (w : Walk) : Bool := w.asid == asid && w.vpn == vpn
  if f.walks.any inWalk then
    { f with walks := f.walks.map (fun w => if inWalk w ∧ ¬ w.who.contains who then { w with who := w.who ++ [who] } else w) }
  else if f.wqueue.contains (asid, vpn, who) then f
  else if f.walks.length < 16 then { f with walks := f.walks ++ [{ asid := asid, vpn := vpn, who := [who], fault := none }] }
  else if ((f.wqueue.map (fun q => (q.1, q.2.1))).eraseDups).length < 64 ∨ f.wqueue.any (fun q => q.1 == asid && q.2.1 == vpn) then
    { f with wqueue := f.wqueue ++ [(asid, vpn, who)] }
  else f

/-- Record a miss of an agent at the walker of a field. -/
def State.missAt (s : State) (fi asid vpn : Nat) (who : Miss) : State := s.updField fi (fun f => f.miss asid vpn who)

/-- A translation made at once by a walker, for the accesses of region controllers, the Ticket Booth and meeting
units (06 R165, 11 R284): the physical address, A and D set, or the fault; `none` for V = 0, and while an engine owns an entry on
the way (14 R361): the access then waits for a walk. -/
def State.translate (s : State) (fi asid va : Nat) (write window super : Bool) : Except (Option Nat) (Nat × Bool × State) :=
  if s.walkOwned fi asid (va / 4096) then .error none
  else match s.walk fi asid (va / 4096) with
  | .absent _ => .error none
  | .fault d => .error (some d)
  | .leaf at_ e level _ =>
    let pa := ppnOf e * 4096 + va % (4096 * 512 ^ level)
    match leafFault s e pa write window super with
    | some d => .error (some d)
    | none => .ok (pa, e.getLsbD 6, (((s.walkNote fi asid (va / 4096)).setAD at_ e write)).assign pa)

/-- Read `n` bytes of an address space, translated at once: the bytes, the poison of any line read, and the state with
A set. -/
def State.vread (s : State) (fi asid va n : Nat) (super : Bool) : Option (List Byte × Bool × State) :=
  (List.range ((va % 4096 + n + 4095) / 4096)).foldl (fun acc i =>
    match acc with
    | none => none
    | some (bs, pz, s) =>
      let a := if i = 0 then va else va - va % 4096 + 4096 * i
      let m := Nat.min (n - bs.length) (4096 - a % 4096)
      match s.translate fi asid a false false super with
      | .error _ => none
      | .ok (pa, pgpz, s') => some (bs ++ s'.bytesAt pa m, pz || pgpz || s'.poisonIn pa m, s'.noteRange pa m)) (some ([], false, s))

/-- Whether `n` bytes of an address space are mapped writable (06 R165). -/
def State.vwritable (s : State) (fi asid va n : Nat) : Bool :=
  (List.range ((va % 4096 + n + 4095) / 4096)).all (fun i =>
    match s.translate fi asid (if i = 0 then va else va - va % 4096 + 4096 * i) true false true with
    | .ok _ => true
    | .error _ => false)

end Sys2Proof.Machine
end

