-- ==== Sys2Proof/Machine/Ops.lean ====
section
/-! DEFINITION. The shared operations: node views, tokens and their emission, traps and events, colours and tag
operations. -/
namespace Sys2Proof.Machine

/-- Cause codes (04 Table 7). -/
def Cause.code : Cause → BitVec 5
  | .none => 0 | .illegalNode => 1 | .roleViolation => 2 | .pageFault => 3 | .accessFault => 4 | .align => 5
  | .poisonConsumed => 6 | .matchOverflow => 7 | .channelOverflow => 8 | .tagStarved => 9 | .colourStarved => 10
  | .tagWrap => 11 | .jobFault => 12 | .remapLost => 13 | .watchdog => 14 | .trap => 15 | .brk => 16 | .decode => 17
  | .unconfigured => 18 | .quorumUnreachable => 19 | .quorumAbsent => 20 | .event => 21

/-- The colour of a tag (02 R52). -/
def tagColour (t : DWord) : Nat := t.toNat / 281474976710656

/-- The iteration stack of a tag. -/
def tagStack (t : DWord) : Nat := t.toNat % 281474976710656

/-- A tag from its colour and stack. -/
def mkTag (colour stack : Nat) : DWord := BitVec.ofNat 64 (colour * 281474976710656 + stack)

/-- The fields of a shape, innermost first, up to the first of width 0 (02 R55). -/
def shapeWidths (n : Nat) (v : Nat) : List Nat :=
  match n with
  | 0 => []
  | n + 1 => if v % 32 = 0 then [] else (v % 32) :: shapeWidths n (v / 32)

/-- The field values of a stack under a shape, innermost first. -/
def stackFields : List Nat → Nat → List Nat
  | [], _ => []
  | w :: r, v => (v % 2 ^ w) :: stackFields r (v / 2 ^ w)

/-- The stack of field values under a shape. -/
def fieldsStack : List Nat → List Nat → Nat
  | [], _ => 0
  | w :: r, v :: vs => v % 2 ^ w + 2 ^ w * fieldsStack r vs
  | w :: r, [] => 2 ^ w * fieldsStack r []

/-- The sum of a shape's widths. -/
def shapeBits (ws : List Nat) : Nat := ws.foldl (· + ·) 0

/-- The widths of shape `i` of a pitch. -/
def Pitch.widths (p : Pitch) (i : Nat) : List Nat := shapeWidths 8 (SMap.get 0 p.shapes i).toNat

/-- Flits of a token of width `w` (01 R10). -/
def flitsOf (w : Nat) : Nat := if w ≤ 12 then 1 else if w ≤ 28 then 2 else 3

/-- The header of a token as 128 bits (02 Table 10). -/
def tokHeader (t : Token) : BitVec 128 :=
  bit t.rsv ++ t.dcore ++ t.dnode ++ bit t.dport ++ t.act ++ t.vc ++ t.tc ++ BitVec.ofNat 6 t.lanes.length ++ t.mark
    ++ t.eosl ++ bit t.poison ++ t.asid ++ t.tag

/-- Whether a token is an EOS token. -/
def isEos (t : Token) : Bool := t.mark == 1

/-- Lane `i` of a token; lanes at or above its width read as zero. -/
def tlane (t : Token) (i : Nat) : Word := t.lanes.getD i 0

/-- The 64-bit value of lanes `i` and `i + 1`. -/
def tlane64 (t : Token) (i : Nat) : Nat := (tlane t i).toNat + 4294967296 * (tlane t (i + 1)).toNat

/-- What a firing emits: destination, action, payload, tag. `code` is the DETAIL of an event or trap it raises, or the
route entry of a scale token. -/
structure Out where
  dest : Dest
  act : Act
  eos : Option (BitVec 4)
  poison : Bool
  lanes : List Word
  tag : DWord
  code : Nat
  hb : List StoreId := []
  deriving DecidableEq, Repr, Inhabited

/-- What a trap or event says of itself (04 R101, R102): cause, DETAIL, tag, node, port, opcode, operands, the lanes of a
token delivered to the event sink (06 R177), and the stores that happen before it (14 R358). -/
structure TrapInfo where
  cause : Cause
  detail : Nat
  tag : DWord
  node : Nat
  port : Bool
  opc : BitVec 10
  a : Option Token
  b : Option Token
  pay : List Word := []
  hb : List StoreId := []
  deriving DecidableEq, Repr, Inhabited

/-- TRAP_NODE (04 R102). -/
def trapNode (node : Nat) (port : Bool) (opc : BitVec 10) : Word :=
  (0 : BitVec 6) ++ opc ++ (0 : BitVec 3) ++ bit port ++ BitVec.ofNat 12 node

/-- TRAP_CAUSE, TRAP_TAG and TRAP_NODE after a trap or event (04 R101). Where VALID alone has been cleared, OVERRUN stays as it
is (DESIGN CHOICE, log 82). -/
def TrapRegs.record (r : TrapRegs) (t : TrapInfo) : TrapRegs :=
  if r.valid then { r with overrun := true }
  else { cause := t.cause.code, valid := true, overrun := r.overrun, detail := BitVec.ofNat 16 t.detail, tag := t.tag,
         node := BitVec.ofNat 12 t.node, port := t.port, opc := t.opc }

/-- Record an event at a logical core (04 R101). -/
def State.recordEvent (s : State) (asid lc : Nat) (t : TrapInfo) : State :=
  s.updLC asid lc (fun x => { x with trap := x.trap.record t })

/-- Record a trap at a logical core; its operands go to the trap record when VALID was 0 (04 R101, 06 R174, R176). -/
def State.recordTrap (s : State) (asid lc : Nat) (t : TrapInfo) : State :=
  s.updLC asid lc (fun x =>
    { x with trap := x.trap.record t, trapRec := if x.trap.valid then x.trapRec else { a := t.a, b := t.b } })

/-- Whether a cause goes to the region controller and never to a trap handler (06 R174). -/
def Cause.toRegion : Cause → Bool
  | .pageFault => true | .matchOverflow => true | .channelOverflow => true | .tagStarved => true
  | .colourStarved => true | .watchdog => true | .remapLost => true | _ => false

/-- The lanes of a trap token (06 Table 10). -/
def trapLanes (lc : Nat) (t : TrapInfo) (held : Bool) : List Word :=
  [BitVec.ofNat 32 (t.cause.code.toNat + 65536 * (t.detail % 65536)), trapNode t.node t.port t.opc,
   t.tag.extractLsb' 0 32, t.tag.extractLsb' 32 32, BitVec.ofNat 32 (lc % 131072),
   BitVec.ofNat 32 ((t.a.elim 0 (·.lanes.length)) + 64 * (t.b.elim 0 (·.lanes.length)) + (if held then 4096 else 0))]

/-- The VC and TC of the header of a token to a special target (02 R46). An event is delivered when it is raised, so no token
of the model carries the header of the event sink. -/
def sinkHeader : Dest → BitVec 3 × BitVec 2
  | .mx => (1, 1) | .cu => (1, 1) | .mt => (2, 1) | .event => (7, 2) | .trap => (7, 0)
  | _ => (0, 1)

/-- The parts of a store that have left the wave buffer and not reached their homes. -/
def State.heldParts (s : State) (i : StoreId) : List Part :=
  match s.lc? i.1 i.2.1 with
  | none => []
  | some x => match x.mem.find? (fun m => m.id == i.2.2) with
    | some m => m.parts.filter (fun p => decide (1 ≤ p.stage) && decide (p.stage < 3))
    | none => []

/-- The stores of a list that have not reached their homes. -/
def State.liveHb (s : State) (l : List StoreId) : List StoreId := l.filter (fun i => !(s.heldParts i).isEmpty)

/-- Two lists of stores as one. -/
def hbJoin (a b : List StoreId) : List StoreId := a ++ b.filter (fun i => !a.contains i)

/-- The stores that happen before what a firing does, by the tokens that it consumes (14 R358 link 2). -/
def Firing.hb (f : Firing) : List StoreId := hbJoin f.a.hb (f.b.elim [] (·.hb))

/-- Send a trap token: to the handler when the pitch names one, the cause may reach it, and the trap did not arise in a
firing of the handler (06 R174); else to the region controller. `payload` replaces the lanes (06 R177). -/
def State.sendTrap (s : State) (asid lc : Nat) (t : TrapInfo) (held : Bool) (payload : Option (List Word)) : State :=
  let handler := match s.pitch? asid with
    | some p => (match p.trap with | some h => !t.cause.toRegion && decide (h ≠ (lc, t.node)) | none => false)
    | none => false
  let tok : TrapTok :=
    { asid := asid, lc := lc, vc := (sinkHeader .trap).1, tc := (sinkHeader .trap).2, handler := handler, cause := t.cause, detail := BitVec.ofNat 16 t.detail, node := t.node,
      port := t.port, opc := t.opc, tag := t.tag, lanes := payload.getD (trapLanes lc t held), hb := s.liveHb t.hb }
  { s with traps := s.traps ++ [tok] }

/-- TAKE A TRAP (04 R101, 06 R174): the trap is recorded at the logical core, and its token is sent. PAGE_FAULT is
not recorded. -/
def State.takeTrap (s : State) (asid lc : Nat) (t : TrapInfo) : State :=
  let held := match s.lc? asid lc with | some x => !x.trap.valid | none => false
  if t.cause = .pageFault then s.sendTrap asid lc t false none
  else (s.recordTrap asid lc t).sendTrap asid lc t held none

/-- Queue a report whose detail, address and length the manual does not state: they are free values (17 R412; DESIGN CHOICE, log 13). -/
def State.pushFree (s : State) (kind field : Nat) : State :=
  let c := s.freeCtr
  let w (k : Nat) : Nat := (Config.freeWord (c + k)).toNat
  ({ s with freeCtr := c + 5 }).pushReport kind field (w 0 % 65536) (w 1 + 4294967296 * w 2) (w 3 + 4294967296 * w 4)

/-- Queue a report whose detail the manual states, and not its address or length: those are free values (17 R412; DESIGN CHOICE, log 13). -/
def State.reportState (s : State) (kind f detail : Nat) : State :=
  let c := s.freeCtr
  let w (k : Nat) : Nat := (Config.freeWord (c + k)).toNat
  ({ s with freeCtr := c + 4 }).pushReport kind f detail (w 0 + 4294967296 * w 1) (w 2 + 4294967296 * w 3)

/-- Report a field's pool when a page that it gives leaves fewer than 1,024 (17 R412). -/
def State.poolLow (s : State) (field : Nat) : State :=
  if (s.field field).pages.length = 1023 then s.pushFree 6 field else s

/-- The physical address of entry `i` of a launch queue (06 R162). -/
def LQueue.entry (l : LQueue) (i : Nat) : Nat :=
  l.base.toNat / 4096 % 1099511627776 * 4096 + 256 * (i % 2 ^ l.log2n.toNat)

/-- The report of a launch whose completion or event record cannot be written (06 R165, 17 R412). -/
def State.launchBad (s : State) (q index : Nat) : State := s.pushReport 7 s.bootField q ((s.lqueue q).entry index) index

/-- Write a completion or event record (06 R165, R170, R172), which lies in one page: where the page is not mapped it waits for the
walk that resolves it, or for its line to be released (14 R361); where it cannot be written, the launch is reported. A completion
record takes T_END as it is written (06 Table 9). -/
def State.rcWrite (s : State) (w : RcWrite) : State :=
  let s0 := { s with rcq := s.rcq.filter (fun q => q.id != w.id) }
  match s.translate w.field w.asid w.va true false true with
  | .ok (pa, _, s1) =>
    let bs := if w.vector then w.bytes.take 32 ++ bytesOfNat 8 s.bootTime.toNat ++ w.bytes.drop 40 else w.bytes
    let s2 := { (s1.writeRange 2 pa bs false) with rcq := s0.rcq }
    if s.isOwned pa w.bytes.length then
      State.missAt { s0 with rcq := s0.rcq ++ [w] } w.field w.asid (w.va / 4096) (.meet w.field (262144 + w.id))
    else if w.vector then
      s2.updPcie (w.queue / 16) (fun b => { b with fired := b.fired ++ [((SMap.get 0 b.qfn (w.queue % 16)).toNat, 0)] })
    else s2
  | .error none =>
    State.missAt { s0 with rcq := s0.rcq ++ [w] } w.field w.asid (w.va / 4096) (.meet w.field (262144 + w.id))
  | .error (some _) => s0.launchBad w.queue w.index

/-- The address of the next entry of a launch's event ring (06 R172). -/
def Pitch.evAddr (p : Pitch) : Nat :=
  p.launch.evring % 144115188075855872 + 64 * (p.evWritten % p.launch.evcount)

/-- Whether EVCOUNT records of a launch's event ring are unconsumed (06 R172): the host has cleared word 0 of none of its entries,
those that still wait to be written among them. -/
def State.evFull (s : State) (fi asid : Nat) (p : Pitch) : Bool :=
  decide (p.launch.evcount ≤ p.evWritten) &&
    (List.range p.launch.evcount).all (fun i =>
      let va := p.launch.evring % 144115188075855872 + 64 * i
      s.rcq.any (fun w => w.asid == asid && w.va == va) ||
        (match s.vread fi asid va 4 true with | some (bs, _, _) => decide (natOfBytes bs ≠ 0) | none => false))

/-- The `n`-th event record (06 R172): cause and DETAIL, the logical core, TRAP_NODE, the tag, the TIME of the raising field,
and 8 payload lanes. The manual gives these contents, and the place of word 0 alone: they stand in its order, the tag and
TIME aligned, with 4 free bytes before the tag (DESIGN CHOICE, log 11). -/
def evBytes (n lc : Nat) (time : DWord) (t : TrapInfo) : List Byte :=
  bytesOfNat 4 (t.cause.code.toNat + 65536 * (t.detail % 65536)) ++ bytesOfNat 4 (lc % 131072) ++
    bytesOfNat 4 (trapNode t.node t.port t.opc).toNat ++ (List.range 4).map (fun i => Config.eventByte n (i + 12)) ++
    bytesOfNat 8 t.tag.toNat ++ bytesOfNat 8 time.toNat ++ bytesOfLanes (padTo 0 8 t.pay)

/-- The field whose walker serves a logical core. -/
def State.evField (s : State) (asid lc : Nat) : Nat :=
  match s.lc? asid lc with | some x => x.field | none => s.bootField

/-- Append an event record, and count it (06 R165, R172). -/
def State.evWrite (s : State) (n fi asid : Nat) (p : Pitch) (bs : List Byte) : State :=
  (s.rcWrite { id := n, field := fi, asid := asid, va := p.evAddr, bytes := bs, queue := p.launch.queue,
               index := p.launch.index, vector := false }).updPitch asid (fun p => { p with evWritten := p.evWritten + 1 })

/-- Append an event to the launch's event ring, or count it as dropped (06 R172). -/
def State.ringAppend (s : State) (asid lc : Nat) (t : TrapInfo) : State :=
  match s.pitch? asid with
  | none => s
  | some p =>
    if p.launch.evring = 0 ∨ p.launch.evcount = 0 ∨ s.evFull (s.evField asid lc) asid p = true then
      s.setPitch asid { p with evDropped := p.evDropped + 1 }
    else s.fresh.2.evWrite s.fresh.1 (s.evField asid lc) asid p (evBytes s.fresh.1 lc (s.field (s.evField asid lc)).time t)

/-- RAISE AN EVENT (04 R101, 06 R172, R177): recorded at the logical core, and appended to the event ring. -/
def State.raiseEvent (s : State) (asid lc : Nat) (t : TrapInfo) : State :=
  (s.recordEvent asid lc t).ringAppend asid lc t

/-- Count an unconfigured-channel drop and raise its event (01 R16, 02 R51, R54). -/
def State.ucDrop (s : State) (asid lc : Nat) (tag : DWord) (node : Nat) (port : Bool) (opc : BitVec 10) : State :=
  (s.updLC asid lc (fun x => x.count (fun c => { c with ucdrop := satInc c.ucdrop }))).raiseEvent asid lc
    { cause := .unconfigured, detail := 0, tag := tag, node := node, port := port, opc := opc, a := none, b := none }

/-- Fields of a route entry (02 R50). -/
structure RouteV where
  core : Nat
  node : Nat
  port : Bool
  vc : BitVec 3
  tc : BitVec 2
  act : Nat
  valid : Bool
  rsv : Nat
  deriving DecidableEq, Repr, Inhabited

/-- Read a route entry (02 R50). -/
def routeV (r : DWord) : RouteV :=
  { core := r.toNat % 131072, node := r.toNat / 131072 % 4096, port := r.getLsbD 29, vc := r.extractLsb' 30 3,
    tc := r.extractLsb' 33 2, act := r.toNat / 34359738368 % 8, valid := r.getLsbD 38,
    rsv := r.toNat / 549755813888 }

/-- Whether a route entry can be sent to: valid, and its on-wafer core below `n` (02 R51). -/
def RouteV.live (r : RouteV) (n : Nat) : Bool := r.valid && (decide (65536 ≤ r.core) || decide (r.core < n))

/-- Where a core field leads: a logical core, or off the wafer (02 R50, 18 R427). -/
def coreDst (asid core : Nat) : Dst := if 65536 ≤ core then .wafer (core % 65536) else .lcore asid core

/-- A token (02 Table 10). -/
def mkToken (asid core node : Nat) (port : Bool) (act : BitVec 3) (vc : BitVec 3) (tc : BitVec 2) (o : Out) : Token :=
  { rsv := false, dcore := BitVec.ofNat 17 core, dnode := BitVec.ofNat 12 node, dport := port, act := act, vc := vc,
    tc := tc, mark := if o.eos.isSome then 1 else 0, eosl := o.eos.getD 0, poison := o.poison,
    asid := BitVec.ofNat 12 asid, tag := o.tag, lanes := o.lanes, hb := o.hb }

/-- Put a token on its way, from a firing of a logical core that TRAP_NODE names. -/
def State.sendAs (s : State) (org : Option (Nat × Word)) (src : Src) (dst : Dst) (t : Token) : State :=
  { s with flight := s.flight ++ [{ src := src, dst := dst, tok := t, ni := none, org := org }] }

/-- Put a token on its way that stays on the wafer. -/
def State.send (s : State) (src : Src) (dst : Dst) (t : Token) : State := s.sendAs none src dst t

/-- Put a token on its way inside its core, or on the scale network (02 R46, R47). -/
def State.sendOff (s : State) (src : Src) (dst : Dst) (t : Token) : State :=
  { s with flight := s.flight ++ [{ src := src, dst := dst, tok := t, ni := none, org := none, mesh := false }] }

/-- Count a token that a logical core hands to the mesh (16 R403). -/
def LCore.handed (x : LCore) (t : Token) : LCore := (x.perfEvent 0x09 1).perfEvent 0x0A (flitsOf t.lanes.length)

/-- Deliver a token to an accumulator: its lanes replace VAL (05 R121). -/
def LCore.deliverAcc (x : LCore) (n : Nat) (lanes : List Word) : LCore :=
  x.updAcc n (fun a => { a with val := (lanes.zipIdx).foldl (fun m e => SMap.ins m e.2 e.1) a.val })

/-- The route entry that a destination names, and 0 for any other destination. -/
def LCore.destEntry (x : LCore) (d : Dest) : DWord := match d with | .route e => x.route e.toNat | _ => 0

/-- Send to a destination field from an agent of a logical core (02 R47 to R51): local nodes with the VC given, a route
entry `rt` with its own VC and TC; `node`, `port`, `opc` and `ftag` name the firing. -/
def State.sendTo (s : State) (src : Src) (asid lc : Nat) (vc : BitVec 3) (d : Dest) (rt : DWord) (flip : Bool) (node : Nat)
    (port : Bool) (opc : BitVec 10) (ftag : DWord) (o : Out) : State :=
  match d with
  | .node idx p =>
    let t := mkToken asid lc idx.toNat (p != flip) (actCode o.act) vc 1 o
    if src = .lcore asid lc then s.sendOff src (.lcore asid lc) t else s.send src (.lcore asid lc) t
  | .route _ =>
    match s.lc? asid lc, s.pitch? asid with
    | some _, some p =>
      let r := routeV rt
      if r.live p.n then
        let act := if r.act = 6 then actCode o.act else BitVec.ofNat 3 r.act
        let t := mkToken asid r.core r.node (r.port != flip) act r.vc r.tc o
        (s.updLC asid lc (fun x => x.handed t)).sendAs
          (some (lc, trapNode node port opc)) src (coreDst asid r.core) t
      else s.ucDrop asid lc ftag node port opc
    | _, _ => s
  | _ => s

/-- Send a scale token on the scale network to the logical core and node of a route entry (08 R218): the entry's VC,
TC, port and action are not used. -/
def State.sendScale (s : State) (f : Firing) (opc : BitVec 10) (rt : DWord) (o : Out) : State :=
  match s.lc? f.asid f.lc, s.pitch? f.asid with
  | some _, some p =>
    let r := routeV rt
    if r.valid && decide (r.core < p.n) then
      s.sendOff (.lcore f.asid f.lc) (.lcore f.asid r.core) (mkToken f.asid r.core r.node false 5 0 1 o)
    else s.ucDrop f.asid f.lc f.tag f.node f.port opc
  | _, _ => s

/-- Deliver one token of a firing to the destination it names (02 R45 to R51, 05 R121, 06 R177, 09 R231): `src` sends it, to
local nodes on `vc`, and `route` gives the route entries as they stood when the firing issued (10 R260). -/
def State.deliver (s : State) (src : Src) (vc : BitVec 3) (route : Nat → DWord) (f : Firing) (opc : BitVec 10) (o : Out) : State :=
  match o.dest with
  | .none => s
  | .acc n => if o.eos.isSome then s else s.updLC f.asid f.lc (fun x => x.deliverAcc n.toNat o.lanes)
  | .scale => if o.eos.isSome then s else s.sendScale f opc (route o.code) o
  | .event =>
    if o.eos.isSome then s
    else s.raiseEvent f.asid f.lc { cause := .event, detail := o.code, tag := f.tag, node := f.node, port := f.port,
                                    opc := opc, a := none, b := none, pay := o.lanes.take 8 }
  | .trap =>
    let t : TrapInfo := { cause := .trap, detail := o.code, tag := f.tag, node := f.node, port := f.port, opc := opc,
                          a := some f.a, b := f.b, hb := o.hb }
    let held := match s.lc? f.asid f.lc with | some x => !x.trap.valid | none => false
    (s.recordTrap f.asid f.lc t).sendTrap f.asid f.lc t held (some o.lanes)
  | .route e => s.sendTo src f.asid f.lc vc (.route e) (route e.toNat) false f.node f.port opc f.tag o
  | d => s.sendTo src f.asid f.lc vc d 0 false f.node f.port opc f.tag o

/-- Emit one token of a firing. -/
def State.emit (s : State) (route : Nat → DWord) (f : Firing) (opc : BitVec 10) (o : Out) : State :=
  s.deliver (.lcore f.asid f.lc) 0 route f opc { o with hb := s.liveHb f.hb }

/-- Emit the tokens of a firing in order (01 R14). -/
def State.emitAll (s : State) (route : Nat → DWord) (f : Firing) (opc : BitVec 10) (outs : List Out) : State :=
  outs.foldl (fun s o => s.emit route f opc o) s

/-- The route entries of a logical core, as they stand. -/
def State.routesOf (s : State) (asid lc : Nat) (e : Nat) : DWord := match s.lc? asid lc with | some x => x.route e | none => 0

/-- A colour's registers in the colour cache. -/
def LCore.cached (x : LCore) (c : Nat) : Option ColourRegs := (x.cache.find? (fun e => e.colour == c)).map (·.regs)

/-- Change a cached colour's registers. -/
def LCore.updColour (x : LCore) (c : Nat) (f : ColourRegs → ColourRegs) : LCore :=
  { x with cache := x.cache.map (fun e => if e.colour = c then { e with regs := f e.regs } else e) }

/-- Note a colour as the most recently issued (04 R109): it stands last. -/
def LCore.touchColour (x : LCore) (c : Nat) : LCore :=
  match x.cache.find? (fun e => e.colour == c) with
  | some e => { x with cache := x.cache.filter (fun e => e.colour != c) ++ [e] }
  | none => x

/-- The colours that cannot be evicted: colour 0, and those with a firing waiting in the ready queue or at issue, which `q` lists
(04 R109; 08 R221). -/
def evictable (q : List Firing) (asid lc c : Nat) : Bool :=
  c != 0 && !q.any (fun f => f.asid == asid && f.lc == lc && tagColour f.tag == c)

/-- Put a colour into the colour cache, evicting the least recently issued one when 256 are held; its copy goes to the
copy area (04 R109). A colour that is allocated or refilled stands as the most recent until another issues, and a firing that traps
does not count as an issue: R109 orders neither (DESIGN CHOICE, log 97). -/
def LCore.cacheColour (x : LCore) (asid lc : Nat) (q : List Firing) (c : Nat) (r : ColourRegs) : LCore :=
  let rest := x.cache.filter (fun e => e.colour != c)
  if rest.length < 256 then { x with cache := rest ++ [{ colour := c, regs := r }] }
  else match rest.find? (fun e => evictable q asid lc e.colour) with
    | some v => { x with cache := rest.filter (fun e => e.colour != v.colour) ++ [{ colour := c, regs := r }],
                         copyArea := SMap.ins x.copyArea v.colour v.regs }
    | none => x

/-- Take `n` values, lowest first, from a pool of intervals. -/
def poolTake (n : Nat) (p : List (Nat × Nat)) : List (Nat × Nat) × List (Nat × Nat) :=
  match p with
  | [] => ([], [])
  | (lo, hi) :: r =>
    if n = 0 then ([], (lo, hi) :: r)
    else if hi - lo ≤ n then
      let t := poolTake (n - (hi - lo)) r
      ((lo, hi) :: t.1, t.2)
    else ([(lo, lo + n)], (lo + n, hi) :: r)

/-- Values in a pool. -/
def poolSize (p : List (Nat × Nat)) : Nat := p.foldl (fun a e => a + (e.2 - e.1)) 0

/-- Insert an interval, in ascending order. -/
def poolIns (p : List (Nat × Nat)) (iv : Nat × Nat) : List (Nat × Nat) :=
  match p with
  | [] => [iv]
  | e :: r => if iv.1 < e.1 then iv :: e :: r else e :: poolIns r iv

/-- Refill a core's local pool: 64 values, lowest first, while it holds fewer than 32 (09 R239). -/
def Pitch.refill (p : Pitch) (lc : Nat) : Pitch :=
  match SMap.find p.lcores lc with
  | none => p
  | some x =>
    if poolSize x.pool < 32 then
      let t := poolTake 64 p.pool
      { p with pool := t.2, lcores := SMap.ins p.lcores lc { x with pool := t.1.foldl poolIns x.pool } }
    else p

/-- Refill the local pools of every logical core, in ascending order. -/
def Pitch.refillAll (p : Pitch) : Pitch := p.lcores.foldl (fun p e => p.refill e.1) p

/-- The lowest colour of a core's local pool. -/
def LCore.nextColour (x : LCore) : Option Nat := x.pool.head?.map (·.1)

/-- Allocate a colour at a logical core with these registers and continuation (09 R239, R241): the colour, and the
state with the pool, the pitch colour table and the core's cache changed. `none` when the pools are empty. -/
def State.allocColour (s : State) (asid lc : Nat) (regs : ColourRegs) (cont : BitVec 128) : Option (Nat × State) :=
  match s.lc? asid lc with
  | none => none
  | some x =>
    match x.nextColour with
    | none => none
    | some c =>
      let q := s.cur.toList ++ s.readyQ x.core
      let t := poolTake 1 x.pool
      let s1 := s.updLC asid lc (fun x => ({ x with pool := t.2 }).cacheColour asid lc q c regs)
      some (c, s1.updPitch asid (fun p =>
        ({ p with colours := SMap.ins p.colours c { regs := regs, cont := cont } }).refill lc))

/-- The result of a tag operation: the state (TGO 6 allocates) and the tag, a TAG_WRAP with its DETAIL, or a wait for
a colour. -/
inductive TagRes where
  | ok (s : State) (tag : DWord)
  | wrap (detail : Nat)
  | park
  deriving DecidableEq, Repr

/-- Tag operations 1 to 3 on the fields of a stack (09 Table 2). -/
def incFields (ws vs : List Nat) : Except Nat (List Nat) :=
  match ws, vs with
  | w :: _, v :: r => if v = 2 ^ w - 1 then .error 1 else .ok ((v + 1) :: r)
  | _, _ => .error 1

/-- Whether every value fits its field. -/
def fitsAll : List Nat → List Nat → Bool
  | w :: ws, v :: vs => decide (v < 2 ^ w) && fitsAll ws vs
  | _, _ => true

/-- Push a field of value 0 (09 Table 2). -/
def pushFields (ws vs : List Nat) : Except Nat (List Nat) :=
  if vs.getLastD 0 ≠ 0 then .error 2
  else
    let r := 0 :: vs.dropLast
    if fitsAll ws r then .ok r else .error 3

/-- Pop the innermost field (09 Table 2). -/
def popFields (ws vs : List Nat) : Except Nat (List Nat) :=
  let r := vs.drop 1 ++ [0]
  if fitsAll ws r then .ok r else .error 3

/-- Set the innermost field (09 Table 2). -/
def setField0 (ws vs : List Nat) (n : Nat) : Except Nat (List Nat) :=
  match ws, vs with
  | w :: _, _ :: r => if n < 2 ^ w then .ok (n :: r) else .error 4
  | _, _ => .error 4

/-- A tag with its stack changed field by field. -/
def retag (ws : List Nat) (tag : DWord) (f : List Nat → List Nat → Except Nat (List Nat)) : Except Nat DWord :=
  match f ws (stackFields ws (tagStack tag)) with
  | .ok vs => .ok (mkTag (tagColour tag) (fieldsStack ws vs))
  | .error d => .error d

/-- LANE_BUDGET.MAXW as it acts: 0 and values above 32 act as 32 (04 R106). -/
def LCore.laneMax (x : LCore) : BitVec 6 := if x.maxw = 0 ∨ 32 < x.maxw.toNat then 32 else x.maxw

/-- MAXW as it acts on an allocation of a firing: as it stood when the firing was parked, if it was (04 R98, R106). -/
def Firing.laneMax (f : Firing) (x : LCore) : BitVec 6 := f.maxw.getD x.laneMax

/-- The registers that TGO 6 gives a new colour: the firing colour's, with LIVE 0 and W clamped to MAXW (09 R241, 04 R106). -/
def newRegs (maxw : BitVec 6) (r : ColourRegs) : ColourRegs :=
  { r with live := 0, width := BitVec.ofNat 6 (Nat.min r.width.toNat maxw.toNat) }

/-- Set CLAMPED where an allocation received less than it asked for (04 R106). -/
def State.noteClamp (s : State) (asid lc : Nat) (clamp : Bool) : State :=
  if clamp then s.updLC asid lc (fun x => { x with clamped := true }) else s

/-- The tag operation of a node (09 R229, R241, R242). `setN` is LIT[31:16], `maxw` the lanes that an allocation may give. -/
def State.tagOp (s : State) (asid lc : Nat) (p : Pitch) (maxw : BitVec 6) (regs : ColourRegs) (tgo : Tgo) (setN : Nat) (tag : DWord) : TagRes :=
  let ws := p.widths regs.shape.toNat
  let fin (e : Except Nat DWord) : TagRes := match e with | .ok t => .ok s t | .error d => .wrap d
  match tgo with
  | .keep => .ok s tag
  | .inc => fin (retag ws tag incFields)
  | .push => fin (retag ws tag pushFields)
  | .pop => fin (retag ws tag popFields)
  | .zero => fin (retag ws tag (fun ws vs => setField0 ws vs 0))
  | .set => fin (retag ws tag (fun ws vs => setField0 ws vs setN))
  | .new =>
    match s.allocColour asid lc (newRegs maxw regs) ((0 : BitVec 64) ++ tag) with
    | some (c, s') => .ok (s'.noteClamp asid lc (decide (maxw.toNat < regs.width.toNat))) (mkTag c 0)
    | none => .park
  | .cont =>
    match SMap.find p.colours (tagColour tag) with
    | some a => .ok s (a.cont.extractLsb' 0 64)
    | none => .ok s 0

/-- The innermost field of a tag under a core's view of its colour's shape. -/
def innermost (ws : List Nat) (tag : DWord) : Nat := (stackFields ws (tagStack tag)).headD 0

/-- Replace the innermost field of a tag by a value modulo its size. -/
def withInner (ws : List Nat) (tag : DWord) (v : Nat) : DWord :=
  match ws, stackFields ws (tagStack tag) with
  | w :: _, _ :: r => mkTag (tagColour tag) (fieldsStack ws (v % 2 ^ w :: r))
  | _, _ => tag

end Sys2Proof.Machine
end

