-- ==== Sys2Proof/Machine/Matching.lean ====
section
/-! DEFINITION. The input path of a core: arrivals, the matching store and its overflow, frame slots, sequence and
deferred entries, the ready queue (01 R16, R24, R25; 02 R43, R54; 06 R150 to R154; 10 R255 to R258; 13 R317, R318). -/
namespace Sys2Proof.Machine

/-- The opcode of a record (02 Table 1). -/
def recOpc (r : Rec) : BitVec 10 := r.extractLsb' 86 10

/-- OPC of TRAP_NODE for a node: its record's opcode, or 0x3FF for a record that cannot be read (04 R102). -/
def LCore.opcAt (x : LCore) (n : Nat) : BitVec 10 := if x.nodeUe.contains n then 0x3FF else recOpc (x.node n)

/-- The ARY code of a record. -/
def recAry (r : Rec) : Nat := r.toNat / 2 ^ 80 % 4

/-- Bits of a record's literal. -/
def recLit (r : Rec) (lo n : Nat) : Nat := r.toNat / 2 ^ lo % 2 ^ n

/-- The registers of a colour as a logical core holds them: its cache, its copy area, else the allocation image
(04 R109). -/
def State.colourRegs (s : State) (asid lc c : Nat) : Option ColourRegs :=
  match s.pitch? asid, s.lc? asid lc with
  | some p, some x =>
    match x.cached c with
    | some r => some r
    | none =>
      match SMap.find p.colours c with
      | none => none
      | some a => some ((SMap.find x.copyArea c).getD a.regs)
  | _, _ => none

/-- The widths of the shape of a tag's colour at a logical core. -/
def State.widthsOf (s : State) (asid lc : Nat) (tag : DWord) : List Nat :=
  match s.pitch? asid, s.colourRegs asid lc (tagColour tag) with
  | some p, some r => p.widths r.shape.toNat
  | _, _ => []

/-- Matching-store entries that an entry uses (10 Table 2). -/
def MEntry.used (e : MEntry) : Nat :=
  match e.kind with
  | .mergec => 1
  | .lbound => 1
  | _ => flitsOf e.tok.lanes.length + e.tok2.elim 0 (fun t => flitsOf t.lanes.length)

/-- Entries of the matching store in use. -/
def LCore.msUsed (x : LCore) : Nat := x.ms.foldl (fun a e => a + e.used) 0

/-- 64-byte entries of the match overflow that an entry takes: its descriptor and its flits, of which a sequence entry has none (10
R259). -/
def MEntry.ovfSize (e : MEntry) : Nat := 1 + (match e.kind with | .mergec => 0 | .lbound => 0 | _ => e.used)

/-- 64-byte entries of the match overflow in use (10 R259). -/
def LCore.ovfUsed (x : LCore) : Nat := x.ovf.foldl (fun a e => a + e.ovfSize) 0

/-- Bytes of the Big Top region that a logical core may fill: SIZE MiB, and half of that on a doubled core (01 R19; 06 R156;
DEDUCED, log 44). -/
def LCore.region (x : LCore) : Nat := x.ovfSize.toNat * 1048576 / (if x.host.doubled then 2 else 1)

/-- 64-byte entries that the match overflow holds (06 Table 4). -/
def LCore.ovfCap (x : LCore) : Nat := (x.region - 524288) / 2 / 64

/-- Flits that the channel overflow holds (06 Table 4). -/
def LCore.chanCap (x : LCore) : Nat := (x.region - 524288 - x.ovfCap * 64) / 64

/-- Flits of a list of tokens. -/
def flitSum (l : List Token) : Nat := l.foldl (fun a t => a + flitsOf t.lanes.length) 0

/-- Put a new entry into the matching store, else into the match overflow; `none` when that is full too (06 R151,
R154). -/
def LCore.place (x : LCore) (e : MEntry) : Option LCore :=
  let e := { e with seq := x.seqNo }
  let x := { x with seqNo := (x.seqNo + 1) % 4294967296 }
  if x.msUsed + e.used ≤ x.reqMatch then some { x with ms := x.ms ++ [e] }
  else if x.ovfUsed + e.ovfSize ≤ x.ovfCap then
    some ({ x with ovf := x.ovf ++ [e] }.count (fun c => { c with mspill := satInc c.mspill }))
  else none

/-- The index of the oldest entry that meets `p`. Entries stand in arrival order. -/
def LCore.takeFrom (x : LCore) (p : MEntry → Bool) : Option (MEntry × LCore) :=
  match x.ms.find? p, x.ovf.find? p with
  | some e, some o =>
    if (o.seq + 4294967296 - e.seq) % 4294967296 < 2147483648 then
      some (e, { x with ms := x.ms.filter (fun y => y.seq != e.seq) })
    else some (o, ({ x with ovf := x.ovf.filter (fun y => y.seq != o.seq) }).count
      (fun c => { c with mrefill := satInc c.mrefill }))
  | some e, none => some (e, { x with ms := x.ms.filter (fun y => y.seq != e.seq) })
  | none, some o => some (o, ({ x with ovf := x.ovf.filter (fun y => y.seq != o.seq) }).count
      (fun c => { c with mrefill := satInc c.mrefill }))
  | none, none => none

/-- Enter a firing into the ready queue, or hold it while the queue is full (01 R24, R25). -/
def State.queueReady (s : State) (f : Firing) : State :=
  match s.lc? f.asid f.lc with
  | none => s
  | some x =>
    if (s.readyQ x.core).length < 64 ∧ s.heldQ x.core = [] then s.setReady x.core (s.readyQ x.core ++ [f])
    else { s with held := SMap.ins s.held x.core (s.heldQ x.core ++ [f]) }

/-- A match completes (16 R403) and enters the ready queue. -/
def State.enterReady (s : State) (f : Firing) : State :=
  (s.updLC f.asid f.lc (fun x => x.perfEvent 0x04 1)).queueReady f

/-- A token of width 0, which stands for the operand that a PASS token at a dyadic node leaves out (DEDUCED, log 14). -/
def emptyToken (t : Token) : Token := { t with lanes := [], poison := false, mark := 0, eosl := 0, hb := [] }

/-- The firing of a match: the port-a and port-b tokens, the tag, the port of the completing token. -/
def mkFiring (asid lc node : Nat) (port : Bool) (tag : DWord) (a : Token) (b : Option Token) : Firing :=
  { asid := asid, lc := lc, node := node, port := port, tag := tag, a := a, b := b }

/-- Whether either operand of a firing is an EOS token. -/
def Firing.eos (f : Firing) : Bool := isEos f.a || (match f.b with | some t => isEos t | none => false)

/-- The key of a sequence entry: a tag with its innermost field zero (10 Table 2). -/
def seqKey (ws : List Nat) (tag : DWord) : DWord := withInner ws tag 0

/-- The sequence entry of a key, in the store or the overflow. -/
def LCore.seqEntry (x : LCore) (kind : MKind) (node : Nat) (key : DWord) : Option MEntry :=
  let p := fun (e : MEntry) => e.kind == kind && e.node == node && e.tok.tag == key
  match x.ms.find? p with
  | some e => some e
  | none => x.ovf.find? p

/-- Set the count of a sequence entry that exists. -/
def LCore.setSeq (x : LCore) (seq count : Nat) : LCore :=
  { x with ms := x.ms.map (fun e => if e.seq = seq then { e with count := count } else e),
           ovf := x.ovf.map (fun e => if e.seq = seq then { e with count := count } else e) }

/-- E or D of a key: the entry's count, or 0 where none exists (09 R234, R238). R247 does not say what becomes of deferred entries
whose sequence entry is purged: they stay, and are compared with 0 until a token opens the entry anew (DESIGN CHOICE, log 97). -/
def LCore.seqCount (x : LCore) (kind : MKind) (node : Nat) (key : DWord) : Nat :=
  match x.seqEntry kind node key with | some e => e.count | none => 0

/-- Set E or D of a key, making the entry where there is none; `none` when there is no room. -/
def LCore.putSeq (x : LCore) (kind : MKind) (node : Nat) (key : DWord) (tok : Token) (count : Nat) : Option LCore :=
  match x.seqEntry kind node key with
  | some e => some (x.setSeq e.seq count)
  | none => x.place { kind := kind, node := node, port := false, tok := { emptyToken tok with tag := key }, tok2 := none,
                      count := count, seq := 0 }

/-- The entry that the first token of a key makes, with its count at 0 (10 Table 2); `none` when there is no room. -/
def LCore.openSeq (x : LCore) (kind : MKind) (node : Nat) (key : DWord) (tok : Token) : Option LCore :=
  x.putSeq kind node key tok (x.seqCount kind node key)

/-- How a completed match of a node is ordered before it enters the ready queue (05 R118, 09 R234, R238). -/
inductive OrderRule where
  | none | acc (n : Nat) | mergec | lbound (k : Nat)
  deriving DecidableEq, Repr

/-- The ordering rule of a node, from its record. -/
def orderRule (r : Rec) : OrderRule :=
  match (recOpc r).toNat with
  | 0x1C1 => .acc (recLit r 0 4)
  | 0x1C2 => .acc (recLit r 0 4)
  | 0x1C3 => .acc (recLit r 0 4)
  | 0x003 => .mergec
  | 0x009 => .lbound (recLit r 0 16)
  | _ => .none

/-- Whether a node's matches complete before they are due: those of R118 are held as completed matches, while a token of MERGEC or
LBOUND completes its match when it comes due (09 R234, R238). -/
def OrderRule.early : OrderRule → Bool
  | .acc _ => true
  | _ => false

/-- Whether a completed match is due under its rule (05 R118, 09 R234, R238). -/
def LCore.due (x : LCore) (ws : List Nat) (rule : OrderRule) (node : Nat) (tag : DWord) : Bool :=
  let t := innermost ws tag
  let m := 2 ^ ws.headD 0
  match rule with
  | .none => true
  | .acc n => (x.acc n).opn && decide (t = (x.acc n).cnt.toNat % m)
  | .mergec => decide (t = x.seqCount .mergec node (seqKey ws tag))
  | .lbound k => decide ((t + m - x.seqCount .lbound node (seqKey ws tag) % m) % m < k)

/-- What entering does to the order: MERGEC's E advances (09 R234). -/
def LCore.advance (x : LCore) (ws : List Nat) (rule : OrderRule) (node : Nat) (tok : Token) (tag : DWord) : LCore :=
  match rule with
  | .mergec =>
    let key := seqKey ws tag
    (x.putSeq .mergec node key tok ((x.seqCount .mergec node key + 1) % 2 ^ ws.headD 0)).getD x
  | _ => x

/-- The logical core once a token of a key has reached its ordering node: a MERGEC or LBOUND key holds its sequence entry
(09 R234, R238); `none` when there is no room for one. -/
def LCore.opened (x : LCore) (ws : List Nat) (rule : OrderRule) (node : Nat) (tok : Token) (tag : DWord) : Option LCore :=
  match rule with
  | .mergec => x.openSeq .mergec node (seqKey ws tag) tok
  | .lbound _ => x.openSeq .lbound node (seqKey ws tag) tok
  | _ => some x

/-- The firing of a deferred entry: its two tokens keep their ports (10 R258). -/
def MEntry.firing (e : MEntry) (asid lc : Nat) : Firing :=
  mkFiring asid lc e.node e.port e.tok.tag e.tok e.tok2

/-- R24's order of matches that complete in one cycle: by tag, node, port. -/
def entryBefore (a b : MEntry) : Bool :=
  decide (a.tok.tag.toNat < b.tok.tag.toNat) ||
    (a.tok.tag == b.tok.tag && (decide (a.node < b.node) || (a.node == b.node && !a.port && b.port)))

/-- The first entry in R24's order. -/
def firstEntry : List MEntry → Option MEntry
  | [] => none
  | e :: r => match firstEntry r with
    | none => some e
    | some m => if entryBefore m e then some m else some e

/-- Release the deferred entries that have come due, in R24's order, at most `fuel` of them (05 R118, 09 R234,
R238). -/
def State.releaseDeferred (s : State) (fuel asid lc : Nat) : State :=
  match fuel with
  | 0 => s
  | fuel + 1 =>
    match s.lc? asid lc with
    | none => s
    | some x =>
      let dueE := fun (e : MEntry) =>
        e.kind == .deferred && x.due (s.widthsOf asid lc e.tok.tag) (orderRule (x.node e.node)) e.node e.tok.tag
      match firstEntry (x.ms.filter dueE ++ x.ovf.filter dueE) with
      | none => s
      | some e =>
        match x.takeFrom (fun y => y.seq == e.seq) with
        | none => s
        | some (_, x') =>
          let rule := orderRule (x.node e.node)
          let s1 := s.updLC asid lc (fun _ => x'.advance (s.widthsOf asid lc e.tok.tag) rule e.node e.tok e.tok.tag)
          let f := e.firing asid lc
          State.releaseDeferred (if rule.early then s1.queueReady f else s1.enterReady f) fuel asid lc

/-- Release what is due at a logical core. -/
def State.releaseAll (s : State) (asid lc : Nat) : State :=
  match s.lc? asid lc with
  | none => s
  | some x => s.releaseDeferred (x.ms.length + x.ovf.length) asid lc

/-- The outcome of an arrival: done, unable to enter yet, or no room for it (06 R154). -/
inductive Arrive where
  | done (s : State)
  | wait
  | full (cause : Cause)
  deriving DecidableEq, Repr

/-- Complete a match: it enters the ready queue, or waits as a deferred entry (05 R118, 09 R231, R234, R238). A token that opens its
key's sequence entry anew, as after a PURGE, lets what is due under the new count go. -/
def State.complete (s : State) (f : Firing) : Arrive :=
  match s.lc? f.asid f.lc with
  | none => .done s
  | some x =>
    let rule := orderRule (x.node f.node)
    let ws := s.widthsOf f.asid f.lc f.tag
    if f.eos ∨ rule = .none then .done (s.enterReady f)
    else match x.opened ws rule f.node f.a f.tag with
    | none => .full .matchOverflow
    | some x =>
    if x.due ws rule f.node f.tag then
      let x' := x.advance ws rule f.node f.a f.tag
      .done (((s.updLC f.asid f.lc (fun _ => x')).enterReady f).releaseAll f.asid f.lc)
    else
      match x.place { kind := .deferred, node := f.node, port := f.port, tok := { f.a with tag := f.tag }, tok2 := f.b,
                      count := 0, seq := 0 } with
      | some x' =>
        .done ((s.updLC f.asid f.lc (fun _ => if rule.early then x'.perfEvent 0x04 1 else x')).releaseAll f.asid f.lc)
      | none => .full .matchOverflow

/-- The firing that pairs an arriving token with another on the opposite port. -/
def pairFiring (asid lc node : Nat) (t o : Token) (tag : DWord) : Firing :=
  if t.dport then mkFiring asid lc node true tag o (some t) else mkFiring asid lc node false tag t (some o)

/-- Place an arriving token as a matching-store entry. -/
def State.placeTok (s : State) (asid lc : Nat) (x : LCore) (kind : MKind) (t : Token) : Arrive :=
  match x.place { kind := kind, node := t.dnode.toNat, port := t.dport, tok := t, tok2 := none, count := 0, seq := 0 } with
  | some x' => .done (s.updLC asid lc (fun _ => x'))
  | none => .full .matchOverflow

/-- An ASSOC token (10 R257 rule 1): the oldest waiting partner, else the sticky partner, else it waits. -/
def State.assoc (s : State) (asid lc : Nat) (x : LCore) (t : Token) : Arrive :=
  let n := t.dnode.toNat
  match x.takeFrom (fun e => e.kind == .waiting && e.node == n && e.port != t.dport && e.tok.tag == t.tag) with
  | some (e, x') => (s.updLC asid lc (fun _ => x')).complete (pairFiring asid lc n t e.tok t.tag)
  | none =>
    let p := fun (e : MEntry) =>
      e.kind == .sticky && e.node == n && e.port != t.dport && tagColour e.tok.tag == tagColour t.tag
    match x.ms.find? p with
    | some e => s.complete (pairFiring asid lc n t e.tok t.tag)
    | none =>
      match x.ovf.find? p with
      | some e => s.complete (pairFiring asid lc n t e.tok t.tag)
      | none => s.placeTok asid lc x .waiting t

/-- Complete the matches of a sticky token with waiting entries of its colour on the other port, in arrival order: those of
the store, or of the store and the overflow (10 R257 rule 2). One that cannot be deferred for want of room stops it. -/
def State.stickyMatches (s : State) (fuel asid lc : Nat) (t : Token) (inStore : Bool) : Arrive :=
  match fuel with
  | 0 => .done s
  | fuel + 1 =>
    match s.lc? asid lc with
    | none => .done s
    | some x =>
      let n := t.dnode.toNat
      let p := fun (e : MEntry) =>
        e.kind == .waiting && e.node == n && e.port != t.dport && tagColour e.tok.tag == tagColour t.tag
      match (if inStore then x.ms.find? p else (x.takeFrom p).map (·.1)) with
      | none => .done s
      | some e =>
        match x.takeFrom (fun y => y.seq == e.seq) with
        | none => .done s
        | some (_, x') =>
          match (s.updLC asid lc (fun _ => x')).complete
              (mkFiring asid lc n t.dport e.tok.tag (if t.dport then e.tok else t) (some (if t.dport then t else e.tok))) with
          | .done s' => State.stickyMatches s' fuel asid lc t inStore
          | r => r

/-- A STICKY token (10 R257 rule 2). -/
def State.sticky (s : State) (asid lc : Nat) (x : LCore) (t : Token) : Arrive :=
  let n := t.dnode.toNat
  let own := fun (e : MEntry) =>
    e.kind == .sticky && e.node == n && e.port == t.dport && tagColour e.tok.tag == tagColour t.tag
  let other := fun (e : MEntry) =>
    e.kind == .sticky && e.node == n && e.port != t.dport && tagColour e.tok.tag == tagColour t.tag
  let x := { x with ms := x.ms.filter (fun e => !own e), ovf := x.ovf.filter (fun e => !own e) }
  match s.placeTok asid lc x .sticky t with
  | .done s1 =>
    let partner := match x.ms.find? other with | some e => some e | none => x.ovf.find? other
    let r := match partner with
      | some e => s1.complete (pairFiring asid lc n t e.tok t.tag)
      | none => .done s1
    match r with
    | .done s2 => s2.stickyMatches x.ms.length asid lc t true
    | r => r
  | r => r

/-- Remove sticky and sequence entries (09 R247): the sticky entries of the ports given, and the sequence entry of the
tag. -/
def LCore.purge (x : LCore) (ws : List Nat) (node : Nat) (portA portB : Bool) (tag : DWord) : LCore :=
  let hit := fun (e : MEntry) =>
    (e.kind == .sticky && e.node == node && tagColour e.tok.tag == tagColour tag && (if e.port then portB else portA)) ||
    ((e.kind == .mergec || e.kind == .lbound) && e.node == node && e.tok.tag == seqKey ws tag)
  { x with ms := x.ms.filter (fun e => !hit e), ovf := x.ovf.filter (fun e => !hit e) }

/-- Bytes of a frame slot (13 Table 1). -/
def frameBytes (t : Token) : List Byte :=
  bytesOfNat 8 t.tag.toNat ++
    [BitVec.ofNat 8 (t.lanes.length + (if t.poison then 64 else 0) + (if t.dport then 128 else 0))] ++
    List.replicate 7 0 ++ bytesOfLanes (padTo 0 12 t.lanes)

/-- The token that a frame slot's bytes describe, for a node of the pitch (13 Table 1). -/
def frameToken (t : Token) (bs : List Byte) : Token :=
  let c := (bs.getD 8 0).toNat
  { t with tag := BitVec.ofNat 64 (natOfBytes (bs.take 8)), dport := decide (128 ≤ c), poison := decide (64 ≤ c % 128),
           mark := 0, eosl := 0, lanes := (lanesOfBytes 12 (bs.drop 16)).take (c % 64) }

/-- Bytes of a tile. -/
def Tile.read (t : Tile) (off n : Nat) : List Byte := SMap.getN 0 t.bytes off n

/-- Write bytes of a tile. -/
def Tile.write (t : Tile) (off : Nat) (bs : List Byte) : Tile := { t with bytes := SMap.putAll 0 t.bytes off bs }

/-- The lines of a tile that `n` bytes from `off` touch. -/
def tileLines (off n : Nat) : List Nat := if n = 0 then [] else (List.range ((off % 64 + n + 63) / 64)).map (· + off / 64)

/-- Whether any of `n` bytes from `off` lies in a poisoned line (13 R335). -/
def Tile.poisonIn (t : Tile) (off n : Nat) : Bool := (tileLines off n).any (fun l => t.poison.contains l)

/-- Write bytes of a tile: poison marks each line touched; a clean write that covers a whole line cleans it
(13 R335). -/
def Tile.store (t : Tile) (off : Nat) (bs : List Byte) (poison : Bool) : Tile :=
  let t := t.write off bs
  let ls := tileLines off bs.length
  if poison then { t with poison := ls.foldl addNat t.poison }
  else
    let whole (l : Nat) : Bool := decide (off ≤ 64 * l) && decide (64 * l + 64 ≤ off + bs.length)
    { t with poison := t.poison.filter (fun l => !(ls.contains l && whole l)) }

/-- A trap about a token that names a node (02 R43, 04 R108, 13 R318, 06 R154). -/
def tokTrap (cause : Cause) (detail : Nat) (t : Token) (opc : BitVec 10) : TrapInfo :=
  { cause := cause, detail := detail, tag := t.tag, node := t.dnode.toNat, port := t.dport, opc := opc, a := some t,
    b := none }

/-- Note which stores happen before what consumes the token of a frame slot. -/
def LCore.setFrameHb (x : LCore) (slot : Nat) (l : List StoreId) : LCore := { x with frameHb := SMap.put [] x.frameHb slot l }

/-- A FRAME token at its slot (04 R108, 13 R317, R318). -/
def State.frame (s : State) (asid lc : Nat) (x : LCore) (t : Token) : Arrive :=
  let opc := x.opcAt t.dnode.toNat
  let trap (d : Nat) : Arrive := .done (s.takeTrap asid lc (tokTrap .accessFault d t opc))
  match s.colourRegs asid lc (tagColour t.tag) with
  | none => trap 0x22
  | some r =>
    let slot := r.frame.toNat + t.dnode.toNat
    let n := slot / 512
    let tl := x.tile n
    if n ≥ x.tileCount ∨ tl.role ≠ .ab then trap 2
    else if t.lanes.length > 12 then trap 3
    else if tl.state ≠ .ready then .wait
    else
      let off := 64 * (slot % 512)
      if !tl.present.contains (slot % 512) then
        .done (s.updLC asid lc (fun x => x.updTile n (fun tl =>
          { tl.store off (frameBytes t) t.poison with present := addNat tl.present (slot % 512) }) |>.setFrameHb slot t.hb))
      else
        let u := frameToken t (tl.read off 64)
        let o := { u with poison := u.poison || tl.poisonIn off 64, hb := SMap.get [] x.frameHb slot }
        if o.dport = t.dport then trap 4
        else
          let s1 := s.updLC asid lc (fun x => x.updTile n (fun tl =>
            { tl with present := tl.present.filter (· ≠ slot % 512) }))
          s1.complete (pairFiring asid lc t.dnode.toNat t o (if t.dport then o.tag else t.tag))

/-- A port-b token at an LBOUND: D advances (09 R238). -/
def State.lboundB (s : State) (asid lc : Nat) (x : LCore) (t : Token) : Arrive :=
  let ws := s.widthsOf asid lc t.tag
  let key := seqKey ws t.tag
  match x.putSeq .lbound t.dnode.toNat key t ((x.seqCount .lbound t.dnode.toNat key + 1) % 2 ^ ws.headD 0) with
  | some x' => .done ((s.updLC asid lc (fun _ => x')).releaseAll asid lc)
  | none => .full .matchOverflow

/-- Whether an entry is the scale entry of a node and tag (10 R256, R258). -/
def scaleFor (node : Nat) (tag : DWord) (e : MEntry) : Bool := e.kind == .scale && e.node == node && e.tok.tag == tag

/-- A token at an FDEQ: its port-a token and a scale entry of its tag complete the match, whichever came first
(08 R219). The scale token is the firing's `b`. -/
def State.fdeq (s : State) (asid lc : Nat) (x : LCore) (t : Token) : Arrive :=
  let n := t.dnode.toNat
  if t.act = 5 then
    match x.takeFrom (fun e => e.kind == .waiting && e.node == n && !e.port && e.tok.tag == t.tag) with
    | some (e, x') => (s.updLC asid lc (fun _ => x')).complete (mkFiring asid lc n false t.tag e.tok (some t))
    | none => s.placeTok asid lc x .scale t
  else
    match x.takeFrom (scaleFor n t.tag) with
    | some (e, x') => (s.updLC asid lc (fun _ => x')).complete (mkFiring asid lc n t.dport t.tag t (some e.tok))
    | none => s.placeTok asid lc x .waiting t

/-- A token enters the input path of its core (06 R150, R151; 02 R43): it completes a match, takes a frame slot, or
goes to the matching store. -/
def State.enterPath (s : State) (asid lc : Nat) (t : Token) : Arrive :=
  match s.lc? asid lc with
  | none => .done s
  | some x =>
    let n := t.dnode.toNat
    let r := x.node n
    let opc := (recOpc r).toNat
    let single := mkFiring asid lc n t.dport t.tag t none
    let pass : Firing := if recAry r = 1 ∧ t.dport then mkFiring asid lc n true t.tag (emptyToken t) (some t) else single
    if opc = 0x3FF then .done (s.takeTrap asid lc (tokTrap .illegalNode 0x03 t 0x3FF))
    else if t.act = 4 then
      .done (s.updLC asid lc (fun x => x.purge (s.widthsOf asid lc t.tag) n (!t.dport) t.dport t.tag))
    else if opc = 0x121 ∧ (t.act = 5 ∨ !t.dport) then s.fdeq asid lc x t
    else if t.act = 5 then s.placeTok asid lc x .scale t
    else if opc = 0x002 ∨ opc = 0x003 then s.complete single
    else if opc = 0x009 ∧ t.dport then s.lboundB asid lc x t
    else if t.act = 0 ∨ recAry r = 2 ∨ recAry r = 3 then s.complete pass
    else if t.act = 2 then s.frame asid lc x t
    else if t.act = 3 then s.sticky asid lc x t
    else s.assoc asid lc x t

/-- Whether a header is one that no firing can produce (02 R54). -/
def badHeader (t : Token) : Bool :=
  t.rsv || decide (2 ≤ t.mark.toNat) || decide (6 ≤ t.act.toNat) || decide (32 < t.lanes.length) ||
    (t.mark == 0 && t.eosl != 0)

/-- Whether a token is discarded at its core (01 R16, 02 R54, 06 R144). -/
def LCore.discards (x : LCore) (asid : Nat) (t : Token) : Bool :=
  badHeader t || t.asid.toNat != asid || !x.mask.getLsbD t.vc.toNat

/-- Flits of the packets of multicast lines, two each (15 R392). -/
def lineFlits (l : List McLine) : Nat := 2 * l.length

/-- Flits in the spill ring (06 R181; 15 R394). -/
def LCore.ringFlits (x : LCore) : Nat := flitSum x.spill + lineFlits (x.spillLines.filter (·.ring))

/-- Flits in the channel overflow (06 R153, R181; 15 R394). -/
def LCore.chanFlits (x : LCore) : Nat := flitSum x.chanOvf + lineFlits (x.spillLines.filter (fun l => !l.ring))

/-- Whether the spill ring has taken everything caught since the halt (06 R181). -/
def LCore.ringOpen (x : LCore) : Bool := decide (x.chanOvf.length ≤ x.ovfCut) && x.spillLines.all (·.ring)

/-- Whether the spill ring takes a token (06 R181): it has room, and no token caught before had to go to the channel overflow,
so that a channel keeps its order (01 R26). -/
def LCore.ringRoom (x : LCore) (t : Token) : Bool :=
  x.ringOpen && decide (x.ringFlits + flitsOf t.lanes.length ≤ 4096)

/-- Whether the channel overflow has room for a token (06 R153, R154). -/
def LCore.chanRoom (x : LCore) (t : Token) : Bool :=
  decide (x.chanFlits + flitsOf t.lanes.length ≤ x.chanCap)

/-- Append a token to the channel overflow (16 R396). -/
def LCore.chanPut (x : LCore) (t : Token) : LCore :=
  LCore.count { x with chanOvf := x.chanOvf ++ [t] } (fun c => { c with cspill := satInc c.cspill })

/-- Whether the spill ring, or the channel overflow behind it, takes a token (06 R181). -/
def LCore.spillRoom (x : LCore) (t : Token) : Bool :=
  x.ringRoom t || x.chanRoom t

/-- Note a token that neither the spill ring nor the channel overflow takes: it stays in the network interface, and the restore of
the pitch raises CHANNEL_OVERFLOW about it (06 R181). -/
def LCore.noteFull (x : LCore) (t : Token) : LCore := if x.caught.isSome then x else { x with caught := some t }

/-- Append the packet of a multicast line, which `t` stands for, to the spill ring, or to the channel overflow when the ring is full
(15 R394; 06 R181). A packet that neither takes waits in the network interface, as a token does. -/
def LCore.spillLine (x : LCore) (t : Token) (l : McLine) : LCore :=
  let y := { x with spillLines := x.spillLines ++ [{ l with ring := x.ringRoom t }] }
  if x.ringRoom t then y
  else if x.chanRoom t then y.count (fun c => { c with cspill := satInc c.cspill })
  else y.noteFull t

/-- Append a token to a spill ring, or to the channel overflow when the ring is full (06 R181). Nothing counts while the pitch is
saved (16 R397). -/
def LCore.spillTok (x : LCore) (saved : Bool) (t : Token) : LCore :=
  if x.ringRoom t then { x with spill := x.spill ++ [t] }
  else ({ x with chanOvf := x.chanOvf ++ [t] }).count (fun c => { c with cspill := if saved then c.cspill else satInc c.cspill })

/-- Count a token that the mesh brings and that has not waited (16 R403). -/
def LCore.received (x : LCore) (g : Flight) : LCore := if g.ni.isNone ∧ g.mesh then x.perfEvent 0x08 1 else x

end Sys2Proof.Machine
end

