-- ==== Sys2Proof/Machine/Fire.lean ====
section
/-! DEFINITION. The firing of a node record: the checks that every instruction makes, end of stream, the tag operation,
emission, traps, holds and parking (01 R14, R15; 02 R58; 06 R157, R158; 09 R228 to R231). -/
namespace Sys2Proof.Machine

/-- What a firing's own operation comes to: done, with the tokens it emits in order; a trap, which undoes it; a trap
whose one effect stands all the same (09 R233); a condition of 06 Table 5 that holds it in the ready queue; or a wait
for a colour or an iteration instance (06 R158). -/
inductive FireRes where
  | done (s : State) (outs : List Out)
  | trap (cause : Cause) (detail : Nat)
  | trapWith (s : State) (cause : Cause) (detail : Nat)
  | hold
  | park (colour : Bool)

/-- A firing at issue: the state with its tag operation done, its firing, pitch and logical core, its record, the
registers and shape of its colour as its core holds them, and the tag of what it emits. -/
structure Ctx where
  s : State
  f : Firing
  p : Pitch
  x : LCore
  v : NV
  regs : ColourRegs
  ws : List Nat
  tag : DWord

/-- Whether a role may issue an opcode (01 Table 5). -/
def roleOk (r : Role) (opc : Nat) : Bool :=
  if opc < 0x200 then true
  else if opc < 0x240 then opc == 0x209 || opc == 0x20A || r == .cp
  else if opc < 0x300 then r == .ag
  else true

/-- The DETAIL that a token to the event or trap sink gives: LIT[15:0] of EVENT at the event sink and of TRAP at the trap sink, else 0
(06 R177). -/
def sinkCode (v : NV) (d : Dest) : Nat :=
  if (v.opc = 0x015 ∧ d = .event) ∨ (v.opc = 0x013 ∧ d = .trap) then v.bits 0 16 else 0

/-- A data token for a destination. -/
def Ctx.out (c : Ctx) (d : Dest) (a : Act) (lanes : List Word) (poison : Bool) : Out :=
  { dest := d, act := a, eos := none, poison := poison, lanes := lanes, tag := c.tag, code := sinkCode c.v d }

/-- A data token for destination A. -/
def Ctx.outA (c : Ctx) (lanes : List Word) (poison : Bool) : Out := c.out c.v.dstA c.v.actA lanes poison

/-- A data token for destination B. -/
def Ctx.outB (c : Ctx) (lanes : List Word) (poison : Bool) : Out := c.out c.v.dstB c.v.actB lanes poison

/-- The same token for both destinations. -/
def Ctx.both (c : Ctx) (lanes : List Word) (poison : Bool) : List Out := [c.outA lanes poison, c.outB lanes poison]

/-- Operand a's token. -/
def Ctx.a (c : Ctx) : Token := c.f.a

/-- The lanes and poison of the port-b token. -/
def Ctx.bTok (c : Ctx) : Token := c.f.b.getD (emptyToken c.f.a)

/-- Change the firing's logical core in a state. -/
def Ctx.upd (c : Ctx) (g : LCore → LCore) : State := c.s.updLC c.f.asid c.f.lc g

/-- What a trap of a firing says of itself (04 R101, R102). -/
def firingTrap (f : Firing) (opc : BitVec 10) (cause : Cause) (detail : Nat) : TrapInfo :=
  { cause := cause, detail := detail, tag := f.tag, node := f.node, port := f.port, opc := opc, a := some f.a, b := f.b, hb := f.hb }

/-- The greater EOSL of a firing's EOS operands (09 R231). -/
def Firing.eosl (f : Firing) : BitVec 4 :=
  let l (t : Token) : Nat := if isEos t then t.eosl.toNat else 0
  BitVec.ofNat 4 (Nat.max (l f.a) (f.b.elim 0 l))

/-- The width-0 EOS tokens of a firing (09 R231). CALL's destination B is no destination of its own. -/
def eosOuts (v : NV) (f : Firing) (tag : DWord) : List Out :=
  let o (d : Dest) (a : Act) : Out :=
    { dest := d, act := a, eos := some f.eosl, poison := false, lanes := [], tag := tag, code := sinkCode v d }
  if v.opc = 0x00B then [o v.dstA v.actA] else [o v.dstA v.actA, o v.dstB v.actB]

/-- Fields of a continuation (09 Table 4). -/
def contToken (asid : Nat) (k : BitVec 128) (a : Token) : Dst × Token :=
  let core := k.toNat / 2 ^ 64 % 2 ^ 17
  (coreDst asid core,
   { a with rsv := false, dcore := BitVec.ofNat 17 core, dnode := k.extractLsb' 81 12, dport := k.getLsbD 93,
            act := k.extractLsb' 99 3, vc := k.extractLsb' 94 3, tc := k.extractLsb' 97 2, asid := BitVec.ofNat 12 asid,
            tag := k.extractLsb' 0 64 })

/-- Send a token to the destination of a continuation (09 R243): the mesh carries it unless that is the firing's own core
(02 R47). -/
def State.sendCont (s : State) (f : Firing) (opc : BitVec 10) (c : Dst × Token) : State :=
  let t : Dst × Token := (c.1, { c.2 with hb := s.liveHb f.hb })
  if t.1 = .lcore f.asid f.lc then s.sendOff (.lcore f.asid f.lc) t.1 t.2
  else (s.updLC f.asid f.lc (fun x => x.handed t.2)).sendAs (some (f.lc, trapNode f.node f.port opc)) (.lcore f.asid f.lc) t.1 t.2

/-- The continuation of a colour, zero where the colour is not allocated. -/
def Pitch.contOf (p : Pitch) (c : Nat) : BitVec 128 := (SMap.find p.colours c).elim 0 (·.cont)

/-- End a firing: it leaves the issue stage, its colour is the most recently issued, and it counts (16 R403). -/
def State.endFiring (s : State) (f : Firing) : State :=
  let s := (s.updLC f.asid f.lc (fun x => (x.touchColour (tagColour f.tag)).perfEvent 0x02 1)).updPitch f.asid
    (fun p => { p with lastFiring := (s.field p.homeField).time.toNat })
  { s with cur := none }

/-- A firing traps: it leaves the issue stage without effect, and its trap is taken (01 R14, 06 R174). -/
def State.firingTraps (s : State) (f : Firing) (opc : BitVec 10) (cause : Cause) (detail : Nat) : State :=
  ({ s with cur := none }).takeTrap f.asid f.lc (firingTrap f opc cause detail)

/-- Park a firing, or hold it when the wait ring is full (06 R158). -/
def State.parkFiring (s : State) (f : Firing) (colour : Bool) : State :=
  match s.lc? f.asid f.lc with
  | none => s
  | some x =>
    if x.waitRing.length < 64 then
      let g : Firing := { f with maxw := some (f.laneMax x), grant := .none }
      let s1 := s.updLC f.asid f.lc (fun x => LCore.perfEvent { x with waitRing := x.waitRing ++ [{ f := g, colour := colour }] } 0x0E 1)
      { s1 with cur := none }
    else s

/-- What a firing's outcome makes of the state: a held firing stays where it is. -/
def State.finish (s : State) (f : Firing) (opc : BitVec 10) (r : FireRes) : State :=
  match r with
  | .done s' outs => (s'.emitAll (s.routesOf f.asid f.lc) f opc outs).endFiring f
  | .trap cause detail => s.firingTraps f opc cause detail
  | .trapWith s' cause detail => s'.firingTraps f opc cause detail
  | .hold => s
  | .park colour => s.parkFiring f colour

/-- The EOS firing of an instruction (09 R231): RET's goes to the continuation, and one whose continuation is not valid traps as an
ordinary RET does (09 R243), which R231 does not say (DESIGN CHOICE, log 97). -/
def State.eosFire (s : State) (f : Firing) (p : Pitch) (v : NV) (tag : DWord) : FireRes :=
  if v.opc = 0x00C then
    let k := p.contOf (tagColour f.tag)
    if k.getLsbD 102 then
      .done (s.sendCont f v.opc (contToken f.asid k { f.a with mark := 1, eosl := f.eosl, poison := false, lanes := [] })) []
    else .trap .accessFault 0x24
  else .done s (eosOuts v f tag)

/-- Whether an EOS operand makes a firing an EOS firing: not of EOS, SINK or PURGE (09 R231). -/
def eosFires (v : NV) (f : Firing) : Bool := f.eos && v.opc != 0x010 && v.opc != 0x011 && v.opc != 0x012

/-- Whether the value of a ^set fits the innermost field of some shape of the pitch (02 R39, R58). -/
def Pitch.setFits (p : Pitch) (v : NV) : Bool :=
  v.tgo != .set || p.shapes.any (fun s => decide (v.bits 16 16 < 2 ^ (shapeWidths 8 s.2.toNat).headD 0))

/-- The first condition of codes 0x04 to 0x09 of Table 11 that a record holds in its pitch (02 R58). -/
def Pitch.fieldDiag (p : Pitch) (v : NV) : Option Diag :=
  match checkFields v with
  | some d => if !p.setFits v ∧ Diag.tgo.code < d.code then some .tgo else some d
  | none => if p.setFits v then none else some .tgo

/-- What a firing comes to: the checks of 02 R58 and 01 R15, its colour (04 R109, 09 R228, R244), its tag operation
(09 R229), end of stream (09 R231), and its own operation. -/
def State.fireRes (s : State) (f : Firing) (p : Pitch) (x : LCore) (v : NV) (body : Ctx → FireRes) : FireRes :=
  match p.fieldDiag v with
  | some d => .trap .illegalNode d.code
  | none =>
    match checkKernel x.reqConsts x.reqAccs x.reqRoutes v with
    | some d => .trap .illegalNode d.code
    | none =>
      if roleOk x.role v.opc.toNat then
        if (SMap.find p.colours (tagColour f.tag)).isNone then .trap .accessFault 0x22
        else match x.cached (tagColour f.tag) with
        | none => .hold
        | some regs =>
          let eos := eosFires v f
          match s.tagOp f.asid f.lc p (f.laneMax x) regs (if eos ∧ v.tgo = .new then .keep else v.tgo) (v.bits 16 16) f.tag with
          | .wrap d => .trap .tagWrap d
          | .park => .park true
          | .ok s' tag =>
            if eos then s'.eosFire f p v tag
            else body { s := s', f := f, p := p, x := x, v := v, regs := regs, ws := p.widths regs.shape.toNat, tag := tag }
      else .trap .roleViolation 0

/-- FIRE a node record (01 R14): the firing at issue runs `body` as its own operation. -/
def fire (v : NV) (s : State) (body : Ctx → FireRes) : Host.Outcome State Fault Refusal :=
  match s.cur with
  | none => .fault .noFiring
  | some f =>
    match s.pitch? f.asid, s.lc? f.asid f.lc with
    | some p, some x => .next (s.finish f v.opc (s.fireRes f p x v body))
    | _, _ => .fault .noFiring

/-- The flags of a firing (03 R92): five bits at a position of JXF, ORed in. -/
def LCore.orFlags (x : LCore) (g : Nat) : LCore := { x with jxf := x.jxf ||| BitVec.ofNat 40 g }

/-- A lane of the firing's colour order. -/
def Ctx.order (c : Ctx) : Nat := c.regs.order.toNat

/-- A firing whose result goes to both destinations. -/
def Ctx.emitBoth (c : Ctx) (s : State) (lanes : List Word) (poison : Bool) : FireRes := .done s (c.both lanes poison)

end Sys2Proof.Machine
end

