-- ==== Sys2Proof/Machine/Operands.lean ====
section
/-! DEFINITION. The operand forms of node records and the layouts of elements in lanes (02 R37, R38; 07 R185, R186;
08 R202, R203). -/
namespace Sys2Proof.Machine

/-- A word from a number. -/
def word (n : Nat) : Word := BitVec.ofNat 32 n

/-- Whether a type has 64-bit elements. -/
def is64 : ETyp → Bool
  | .i64 => true | .n64 => true | _ => false

/-- Whether a type is a signed integer. -/
def isSigned : ETyp → Bool
  | .i32 => true | .i64 => true | _ => false

/-- The element width of an integer type. -/
def intBits (t : ETyp) : Nat := if is64 t then 64 else 32

/-- The signed value of `n` bits. -/
def toS (n x : Nat) : Int := if x < 2 ^ (n - 1) then (x : Int) else (x : Int) - ((2 ^ n : Nat) : Int)

/-- An integer's low `n` bits. -/
def lowBits (n : Nat) (v : Int) : Nat := (v % ((2 ^ n : Nat) : Int)).toNat

/-- The value of an element read as its type says. -/
def intVal (t : ETyp) (x : Nat) : Int := if isSigned t then toS (intBits t) x else (x : Int)

/-- An integer clamped to the range of a type (03 R67). -/
def clampTo (t : ETyp) (v : Int) : Int :=
  let n := intBits t
  let lo : Int := if isSigned t then -((2 ^ (n - 1) : Nat) : Int) else 0
  let hi : Int := if isSigned t then ((2 ^ (n - 1) - 1 : Nat) : Int) else ((2 ^ n - 1 : Nat) : Int)
  if v < lo then lo else if hi < v then hi else v

/-- The width of operand a. -/
def Ctx.wa (c : Ctx) : Nat := c.f.a.lanes.length

/-- Lane `i` of operand a as a number. -/
def Ctx.aLane (c : Ctx) (i : Nat) : Nat := (tlane c.f.a i).toNat

/-- A constant register. -/
def Ctx.k (c : Ctx) (n : Nat) : Nat := (c.x.kreg n).toNat

/-- Lane `i` of operand b in the form that ARY names (02 Table 2): a token's lane beyond its width reads as zero. -/
def Ctx.bLane (c : Ctx) (i : Nat) : Nat :=
  match c.v.ary with
  | .mono => 0
  | .dyad => (tlane c.bTok i).toNat
  | .const => c.k (c.v.bits 0 6)
  | .lit =>
    let l := c.v.bits 0 32
    if is64 c.v.typ ∧ i % 2 = 1 then (if isSigned c.v.typ ∧ 2147483648 ≤ l then 4294967295 else 0) else l

/-- Element `j` of operand a: a lane, or a lane pair for 64-bit types. -/
def Ctx.aElem (c : Ctx) (j : Nat) : Nat :=
  if is64 c.v.typ then c.aLane (2 * j) + 4294967296 * c.aLane (2 * j + 1) else c.aLane j

/-- Element `j` of operand b. -/
def Ctx.bElem (c : Ctx) (j : Nat) : Nat :=
  if is64 c.v.typ then c.bLane (2 * j) + 4294967296 * c.bLane (2 * j + 1) else c.bLane j

/-- Elements in `w` lanes. -/
def elemCount (t : ETyp) (w : Nat) : Nat := if is64 t then w / 2 else w

/-- Whether an operand token carries POISON; constants and literals never do (07 R186). -/
def Ctx.poison (c : Ctx) : Bool := c.f.a.poison || (c.v.ary == .dyad && c.bTok.poison)

/-- Lane pairs of 64-bit elements. -/
def lanes64 (vs : List Nat) : List Word := vs.flatMap (fun v => [word v, word (v / 4294967296)])

/-- The lanes of a result of `w` lanes whose elements are given; an odd last lane of a 64-bit type is zero
(07 R185). -/
def packElems (t : ETyp) (w : Nat) (vs : List Nat) : List Word :=
  if is64 t then padTo 0 w (lanes64 vs) else vs.map word

/-- A result element by element from a and b, at a's width, to both destinations (07 R185). -/
def Ctx.mapInt (c : Ctx) (g : Nat → Nat → Nat) : FireRes :=
  c.emitBoth c.s
    (packElems c.v.typ c.wa ((List.range (elemCount c.v.typ c.wa)).map (fun j => g (c.aElem j) (c.bElem j)))) c.poison

/-- Elements of a list of lanes by element width in bits: 32, 64, 16, 8 or 4 (02 Table 3). -/
def unpackLanes (bits : Nat) (ls : List Word) : List Nat :=
  if bits = 64 then (List.range (ls.length / 2)).map (fun j =>
    (ls.getD (2 * j) 0).toNat + 4294967296 * (ls.getD (2 * j + 1) 0).toNat)
  else if bits = 32 then ls.map (·.toNat)
  else ls.flatMap (fun w => (List.range (32 / bits)).map (fun i => w.toNat / 2 ^ (bits * i) % 2 ^ bits))

/-- A lane from its elements, least significant first. -/
def joinBits (bits : Nat) : List Nat → Nat
  | [] => 0
  | x :: r => x % 2 ^ bits + 2 ^ bits * joinBits bits r

/-- Pack elements of fewer than 32 bits into `n` lanes. -/
def packSmall (bits n : Nat) (es : List Nat) : List Word :=
  match n with
  | 0 => []
  | n + 1 => word (joinBits bits (es.take (32 / bits))) :: packSmall bits n (es.drop (32 / bits))

/-- Pack elements of any width into the fewest lanes that hold them. -/
def packLanes (bits : Nat) (es : List Nat) : List Word :=
  if bits = 64 then lanes64 es
  else if bits = 32 then es.map word
  else packSmall bits ((es.length * bits + 31) / 32) es

/-- The element width of a type in bits. -/
def typBits : ETyp → Nat
  | .i32 => 32 | .n32 => 32 | .i64 => 64 | .n64 => 64 | .f32 => 32 | .bf16 => 16 | .f16 => 16 | .e4m3 => 8
  | .e5m2 => 8 | .e2m1 => 4 | .pred => 32

/-- OR flags into JXF unless an operand is poisoned (08 R203). -/
def Ctx.withFlags (c : Ctx) (poison : Bool) (g : Nat) : State :=
  if poison ∨ g = 0 then c.s else c.upd (fun x => x.orFlags g)

end Sys2Proof.Machine
end

