-- ==== Sys2Proof/Machine/Tiles.lean ====
section
/-! DEFINITION. The tiles that a firing names and the states it needs them in (01 R25; 05 R126; 06 Table 5; 10 R272;
15 R375). -/
namespace Sys2Proof.Machine

/-- Tiles of the issuing core that a firing needs: READY, EMPTY or READY, EMPTY. -/
structure TileNeeds where
  ready : List Nat
  free : List Nat
  empty : List Nat
  deriving DecidableEq, Repr

/-- Whether an opcode is a copy command with sides (15 Table 3). -/
def isCopyCmd (opc : Nat) : Bool := decide (0x2C0 ≤ opc) && decide (opc ≤ 0x2C5)

/-- The tiles that a record names, for the logical core `lc` (05 R126, 15 R375). -/
def tileNeeds (v : NV) (lc : Nat) : TileNeeds :=
  let opc := v.opc.toNat
  let need (r f e : List Nat) : TileNeeds := { ready := r, free := f, empty := e }
  if opc = 0x200 ∨ opc = 0x201 ∨ opc = 0x203 ∨ opc = 0x204 ∨ opc = 0x205 then need [v.bits 0 5] [] []
  else if opc = 0x207 then (if v.mod.toNat < 4 then need [] [v.bits 16 5] [] else need [] [] [])
  else if opc = 0x244 then
    (if v.x1 64 1 = 1 then need [] [] []
     else if v.bits 30 1 = 1 then need [] [] [v.x1 0 5] else need [] [v.x1 0 5] [])
  else if opc = 0x245 then need [v.x1 0 5] [] []
  else if opc = 0x247 ∨ opc = 0x248 ∨ opc = 0x300 then need [v.bits 0 5] [] []
  else if isCopyCmd opc then
    need (if v.bits 0 2 = 1 then [v.bits 7 5] else [])
      (if v.bits 2 2 = 1 ∧ (if opc = 0x2C3 then v.x1 0 17 ≤ lc ∧ v.x2 (lc - v.x1 0 17) 1 = 1 else v.x1 0 17 = lc)
       then [v.x1 17 5] else []) []
  else need [] [] []

/-- Whether every tile that a firing names is in the state it needs (06 Table 5). -/
def LCore.tilesOk (x : LCore) (v : NV) (lc : Nat) : Bool :=
  let n := tileNeeds v lc
  n.ready.all (fun t => (x.tile t).state == .ready) &&
    n.free.all (fun t => (x.tile t).state == .empty || (x.tile t).state == .ready) &&
    n.empty.all (fun t => (x.tile t).state == .empty)

/-- Set the state, job and engine of a tile. -/
def LCore.holdTile (x : LCore) (n : Nat) (st : TileState) (job : BitVec 16) (eng : BitVec 2) : LCore :=
  x.updTile n (fun t => { t with state := st, job := job, eng := eng })

/-- A tile that an engine has finished with (10 Table 9). -/
def LCore.releaseTile (x : LCore) (n : Nat) : LCore := x.holdTile n .ready 0 0

/-- A CB tile's tag entry. -/
def Tile.cbLine (t : Tile) (n : Nat) : CbLine := SMap.get CbLine.init t.cb n

/-- Change a CB tile's tag entry. -/
def Tile.updCb (t : Tile) (n : Nat) (f : CbLine → CbLine) : Tile := { t with cb := SMap.ins t.cb n (f (t.cbLine n)) }

end Sys2Proof.Machine
end

