-- ==== Sys2Proof/Machine/Engine.lean ====
section
/-! DEFINITION. Engine queues and jobs: issue, enqueue, grant, job-id and completion tokens (05 R125 to R131; 06 R160,
R161; 12 R308; 15 R385). -/
namespace Sys2Proof.Machine

/-- The ENG code (05 Table 2). -/
def Eng.code : Eng → Nat
  | .matrix => 0 | .copy => 1 | .meet => 2

/-- The queue of an engine of a cluster. -/
def Cluster.queue (k : Cluster) (e : Eng) : List EJob := match e with | .copy => k.cpq | _ => k.mq

/-- Whether an opcode is a query: APPEEK, QSTAT or QLAG take no job id and no outstanding slot (05 R140, 12 R308). -/
def isQuery (opc : BitVec 10) : Bool := opc == 0x208 || opc == 0x30A || opc == 0x30B

/-- Jobs of a logical core outstanding at an engine, with its commands on their way (06 Table 6). -/
def State.outstanding (s : State) (e : Eng) (unit asid lc : Nat) (q : List EJob) : Nat :=
  (q.filter (fun j => j.asid == asid && j.lc == lc && !isQuery j.opc)).length +
    (s.cmds.filter (fun c => c.eng == e && c.unit == unit && c.job.asid == asid && c.job.lc == lc && !isQuery c.job.opc)).length

/-- Entries of an engine's queue, with the commands on their way. -/
def State.queued (s : State) (e : Eng) (unit : Nat) (q : List EJob) : Nat :=
  q.length + (s.cmds.filter (fun c => c.eng == e && c.unit == unit && c.job.opc != 0x208)).length

/-- Whether an engine's queue takes a further command of a logical core (06 Table 6). -/
def State.queueRoom (s : State) (e : Eng) (unit asid lc : Nat) (q : List EJob) : Bool :=
  match e with
  | .meet => decide (s.outstanding e unit asid lc q < 4) && decide (s.queued e unit q < 64)
  | _ => decide (s.outstanding e unit asid lc q < 8) && decide (s.queued e unit q < 32)

/-- The source of an engine's tokens. -/
def Eng.src (e : Eng) (unit : Nat) : Src :=
  match e with | .matrix => .matrix unit | .copy => .copy unit | .meet => .meet unit

/-- The command token that carries a job to an engine (02 R46). -/
def mkCmd (e : Eng) (unit : Nat) (j : EJob) : Cmd :=
  let h := sinkHeader (match e with | .matrix => .mx | .copy => .cu | .meet => .mt)
  { eng := e, vc := h.1, tc := h.2, unit := unit, job := j }

/-- The job that a command firing makes. -/
def Ctx.job (c : Ctx) (n : Node) (e1 e2 : BitVec 86) (scale : List Word) : EJob :=
  { id := 0, asid := c.f.asid, lc := c.f.lc, fire := c.f, opc := c.v.opc, n := n, e1 := e1, e2 := e2, order := c.order,
    tagOut := c.tag, rtB := c.x.destEntry n.dstB, rtE := c.x.route (if c.v.opc = 0x307 then c.v.x2 45 10 else c.v.bits 16 10), scale := scale, pass := 0, promo := 0, granted := false, first := false, started := false, stopped := false,
    prog := 0, claims := [], owns := [], flags := 0, buf := [], aux := 0 }

/-- The tiles of its own core that a copy command or its job holds: its source, and its destination where that is here (15
R386; 10 R271). -/
def LCore.holdCopy (x : LCore) (v : NV) (own : Bool) (id : BitVec 16) : LCore :=
  let x := if v.bits 0 2 = 1 then x.holdTile (v.bits 7 5) .draining id 1 else x
  if own then x.holdTile (v.x1 17 5) .filling id 1 else x

/-- The record of a job as a view. -/
def EJob.view (j : EJob) : NV := viewX j.opc j.n j.e1 j.e2

/-- Send a token of a job to its reply destination, to the other port when `flip` (05 R127). -/
def State.jobToken (s : State) (e : Eng) (unit : Nat) (j : EJob) (flip : Bool) (lanes : List Word) (poison : Bool) : State :=
  s.sendTo (e.src unit) j.asid j.lc 0 j.n.dstB j.rtB flip j.fire.node j.fire.port j.opc j.fire.tag
    { dest := j.n.dstB, act := j.n.actB, eos := none, poison := poison, lanes := lanes, tag := j.tagOut, code := 0, hb := s.liveHb j.fire.hb }

/-- The job-id token (05 Table 2). -/
def State.jobIdToken (s : State) (e : Eng) (unit : Nat) (j : EJob) : State :=
  s.jobToken e unit j false [BitVec.ofNat 32 (j.id.toNat + 65536 * e.code), BitVec.ofNat 32 j.lc] false

/-- The completion token (05 Table 2): FAULT with its DETAIL when the job faulted. -/
def State.completionToken (s : State) (e : Eng) (unit : Nat) (j : EJob) (fault : Option Nat) : State :=
  s.jobToken e unit j true
    [BitVec.ofNat 32 (j.id.toNat + 65536 * e.code + (if fault.isSome then 262144 else 0)),
     BitVec.ofNat 32 (j.flags.toNat + 256 * (fault.getD 0 % 256))] false

/-- The trap of a job at its issuing logical core. -/
def EJob.trapInfo (j : EJob) (cause : Cause) (detail : Nat) : TrapInfo :=
  { cause := cause, detail := detail, tag := j.fire.tag, node := j.fire.node, port := j.fire.port, opc := j.opc,
    a := some j.fire.a, b := j.fire.b, hb := j.fire.hb }

/-- The head job of a logical core in a queue: its oldest job not yet granted (06 R161). -/
def isHead (q : List EJob) (i : Nat) : Bool :=
  match q[i]? with
  | none => false
  | some j => !j.granted && (q.take i).all (fun k => k.granted || k.asid != j.asid || k.lc != j.lc)

/-- A job's effective class (06 R161). -/
def EJob.cls (j : EJob) : Nat := Nat.min 3 (j.n.mod.toNat % 4 + j.promo)

/-- The round-robin distance of a logical core index after the one granted last. -/
def rrDist (last lc : Nat) : Nat := (lc + 131072 - last - 1) % 131072

/-- The head job that an engine grants next by arbitration: highest effective class, then round-robin (06 R161). -/
def pickClass (q : List EJob) (last : Nat) : Option Nat :=
  (List.range q.length).foldl (fun best i =>
    if !isHead q i then best
    else match q[i]?, best with
      | some _, none => some i
      | some j, some b =>
        (match q[b]? with
         | none => some i
         | some k => if k.cls < j.cls ∨ (k.cls = j.cls ∧ rrDist last j.lc < rrDist last k.lc) then some i else best)
      | none, _ => best) none

/-- The job that an engine grants next: after a restore, those that were granted before it in the same order (05 R131); then
by arbitration. -/
def pickHead (q : List EJob) (last : Nat) : Option Nat :=
  match q.findIdx? (fun j => j.first && !j.granted) with
  | some i => some i
  | none => pickClass q last

/-- Count a grant to another core at every other head job: 256 of them promote a job one class (06 R161). -/
def passOver (q : List EJob) (g : Nat) : List EJob :=
  (q.zipIdx).map (fun e =>
    if isHead q e.2 ∧ e.2 ≠ g then
      (if e.1.pass = 255 then { e.1 with pass := 0, promo := e.1.promo + 1 } else { e.1 with pass := e.1.pass + 1 })
    else e.1)

/-- Grant the job at `g`: it stands behind the jobs granted before it, and ahead of the others. -/
def grantAt (q : List EJob) (g : Nat) : List EJob :=
  let q' := if q.any (·.first) then q else passOver q g
  match q'[g]? with
  | none => q
  | some j =>
    let rest := listDrop q' g
    rest.filter (·.granted) ++ [{ j with granted := true, first := false }] ++ rest.filter (fun k => !k.granted)

/-- Replace the job with an id in a queue. -/
def setJob (q : List EJob) (j : EJob) : List EJob := q.map (fun k => if k.id = j.id then j else k)

/-- Remove the job with an id from a queue. -/
def dropJob (q : List EJob) (id : BitVec 16) : List EJob := q.filter (fun k => k.id != id)

/-- Whether a command at index `k` of those on their way is the oldest of its source to its engine (01 R26). -/
def cmdFirst (cs : List Cmd) (k : Nat) : Bool :=
  match cs[k]? with
  | none => false
  | some c => (cs.take k).all (fun d => d.eng != c.eng || d.job.asid != c.job.asid || d.job.lc != c.job.lc)

end Sys2Proof.Machine
end

