-- ==== Sys2Proof/Machine/Flags.lean ====
section
/-! DEFINITION. The flags of floating-point and integer operations, and their places in JXF (03 R91, R92). -/
namespace Sys2Proof.Machine

/-- Invalid operation. -/
def fINV : Nat := 1
/-- Division by zero. -/
def fDZ : Nat := 2
/-- Overflow. -/
def fOF : Nat := 4
/-- Underflow. -/
def fUF : Nat := 8
/-- Inexact. -/
def fNX : Nat := 16

/-- A result and the flags that it raises. -/
abbrev Fr := Nat × Nat

/-- Flags at coefficient position `k` of JXF (03 Table 10). -/
def atPos (k fl : Nat) : Nat := fl * 32 ^ k

/-- A result with its flags at coefficient position `k`. -/
def Fr.at (k : Nat) (r : Fr) : Fr := (r.1, atPos k r.2)

/-- Apply a rounding to an accumulated result, ORing the flags. -/
def Fr.andThen (a : Fr) (g : Nat → Fr) : Fr := ((g a.1).1, a.2 ||| (g a.1).2)

/-- The OR of the flags of a list of results. -/
def orAll (rs : List Fr) : Nat := rs.foldl (fun g r => g ||| r.2) 0

end Sys2Proof.Machine
end

