-- ==== Sys2Proof/Machine/Float.lean ====
section
/-! DEFINITION. Floating-point formats, rounding, arithmetic and conversions (03 R68 to R73; 08 R204 to R211, R215,
R216). An operation gives the result's bits and its flags. -/
namespace Sys2Proof.Machine

/-- How a format treats its highest exponent (03 Table 1). -/
inductive FKind where
  | ieee | e4m3 | finite
  deriving DecidableEq, Repr

/-- A floating-point format: exponent and mantissa widths, bias, the encoding of the largest finite value, the
infinity and the generated NaN (03 Table 1). -/
structure Fmt where
  ebits : Nat
  mbits : Nat
  bias : Nat
  kind : FKind
  maxFin : Nat
  nan : Nat
  deriving DecidableEq, Repr

/-- binary32. -/
def f32 : Fmt := { ebits := 8, mbits := 23, bias := 127, kind := .ieee, maxFin := 0x7F7FFFFF, nan := 0x7FC00000 }
/-- binary16. -/
def f16 : Fmt := { ebits := 5, mbits := 10, bias := 15, kind := .ieee, maxFin := 0x7BFF, nan := 0x7E00 }
/-- BF16. -/
def bf16 : Fmt := { ebits := 8, mbits := 7, bias := 127, kind := .ieee, maxFin := 0x7F7F, nan := 0x7FC0 }
/-- E4M3. -/
def e4m3 : Fmt := { ebits := 4, mbits := 3, bias := 7, kind := .e4m3, maxFin := 0x7E, nan := 0x7F }
/-- E5M2. -/
def e5m2 : Fmt := { ebits := 5, mbits := 2, bias := 15, kind := .ieee, maxFin := 0x7B, nan := 0x7E }
/-- E3M2. -/
def e3m2 : Fmt := { ebits := 3, mbits := 2, bias := 3, kind := .finite, maxFin := 0x1F, nan := 0 }
/-- E2M3. -/
def e2m3 : Fmt := { ebits := 2, mbits := 3, bias := 1, kind := .finite, maxFin := 0x1F, nan := 0 }
/-- E2M1. -/
def e2m1 : Fmt := { ebits := 2, mbits := 1, bias := 1, kind := .finite, maxFin := 0x7, nan := 0 }

/-- Rounding modes (03 Table 2). -/
inductive Rnd where
  | rne | rtz | rup | rdn | rna
  deriving DecidableEq, Repr

/-- The rounding mode of a MOD value (02 Table 5). -/
def rndOf (m : Nat) : Rnd := match m with | 0 => .rne | 1 => .rtz | 2 => .rup | 3 => .rdn | _ => .rna

/-- A decoded value: a NaN (signalling or not), an infinity, or sign, m and e of (−1)^S · m · 2^e. -/
inductive FNum where
  | nan (sig : Bool)
  | inf (neg : Bool)
  | fin (neg : Bool) (m : Nat) (e : Int)
  deriving DecidableEq, Repr

/-- The weight of the sign bit. -/
def Fmt.sign (f : Fmt) : Nat := 2 ^ (f.ebits + f.mbits)

/-- The encoding of +∞ in a format that has one. -/
def Fmt.inf (f : Fmt) : Nat := (2 ^ f.ebits - 1) * 2 ^ f.mbits

/-- The exponent of the least subnormal. -/
def Fmt.qmin (f : Fmt) : Int := 1 - (f.bias : Int) - (f.mbits : Int)

/-- Decode an encoding (03 R68). -/
def Fmt.dec (f : Fmt) (x : Nat) : FNum :=
  let neg := x / f.sign % 2 == 1
  let e := x / 2 ^ f.mbits % 2 ^ f.ebits
  let m := x % 2 ^ f.mbits
  let top := 2 ^ f.ebits - 1
  if f.kind = .ieee ∧ e = top then (if m = 0 then .inf neg else .nan (decide (m < 2 ^ (f.mbits - 1))))
  else if f.kind = .e4m3 ∧ e = top ∧ m = 7 then .nan false
  else if e = 0 then .fin neg m f.qmin
  else .fin neg (2 ^ f.mbits + m) (f.qmin + (e : Int) - 1)

/-- Apply a sign to an encoding. -/
def Fmt.signed (f : Fmt) (neg : Bool) (mag : Nat) : Nat := if neg then f.sign + mag else mag

/-- Whether a mode rounds a discarded part up in magnitude: the part is `rem` of `2 · half`, `odd` tells the kept
value's parity (03 Table 2). -/
def Rnd.up (m : Rnd) (neg odd : Bool) (rem half : Nat) : Bool :=
  match m with
  | .rne => decide (half < rem) || (decide (rem = half) && odd)
  | .rtz => false
  | .rup => !neg && decide (rem ≠ 0)
  | .rdn => neg && decide (rem ≠ 0)
  | .rna => decide (half ≤ rem)

/-- Round m · 2^e to a multiple of 2^q: the multiple, and whether it is inexact. A part far below the quantum counts
as a quarter of it. -/
def roundAt (mode : Rnd) (neg : Bool) (m : Nat) (e q : Int) : Nat × Bool :=
  if q ≤ e then (m * 2 ^ (e - q).toNat, false)
  else
    let sh := (q - e).toNat
    let (m, sh) := if m.log2 + 3 < sh then ((if m = 0 then 0 else 1), 2) else (m, sh)
    let r := m / 2 ^ sh
    let rem := m % 2 ^ sh
    (if mode.up neg (r % 2 == 1) rem (2 ^ (sh - 1)) then r + 1 else r, decide (rem ≠ 0))

/-- The exponent of the leading bit of m · 2^e. -/
def leadExp (m : Nat) (e : Int) : Int := (m.log2 : Int) + e

/-- The result of an overflow under R70, as an encoding without sign: infinity or the largest finite value. -/
def Rnd.toInf (m : Rnd) (neg : Bool) : Bool :=
  match m with | .rne => true | .rna => true | .rtz => false | .rup => !neg | .rdn => neg

/-- Whether a nonzero value is tiny: rounded with an unbounded exponent, below the smallest normal (03 R70). -/
def Fmt.tiny (f : Fmt) (mode : Rnd) (neg : Bool) (m : Nat) (e : Int) : Bool :=
  let emin := 1 - (f.bias : Int)
  let l := leadExp m e
  if emin ≤ l then false
  else if l < emin - 1 then true
  else (roundAt mode neg m e (l - f.mbits)).1 != 2 ^ (f.mbits + 1)

/-- How an overflow or special value ends in a narrow format: with .SAT or without (03 Table 3). -/
def Fmt.overflow (f : Fmt) (mode : Rnd) (sat neg : Bool) : Fr :=
  let mag := match f.kind with
    | .ieee => if !sat && mode.toInf neg then f.inf else f.maxFin
    | .e4m3 => if !sat && mode.toInf neg then f.nan else f.maxFin
    | .finite => f.maxFin
  (if f.kind = .e4m3 ∧ mag = f.nan then f.nan else f.signed neg mag, fOF ||| fNX)

/-- Round a finite nonzero value (−1)^neg · m · 2^e once into a format (03 R69, R70, R92). -/
def Fmt.round (f : Fmt) (mode : Rnd) (sat neg : Bool) (m : Nat) (e : Int) : Fr :=
  let l := leadExp m e
  let q := max (l - f.mbits) f.qmin
  let (r, inexact) := roundAt mode neg m e q
  let mag := r + (q - f.qmin).toNat * 2 ^ f.mbits
  if f.bias + 2 < l ∨ f.maxFin < mag then f.overflow mode sat neg
  else (f.signed neg mag,
    if inexact then (if f.tiny mode neg m e then fNX ||| fUF else fNX) else 0)

/-- Round a value whose exact form may be zero: a zero takes the sign given. -/
def Fmt.enc (f : Fmt) (mode : Rnd) (sat neg : Bool) (m : Nat) (e : Int) : Fr :=
  if m = 0 then (f.signed neg 0, 0) else f.round mode sat neg m e

/-- INV for a signalling NaN (03 R71). -/
def FNum.inv : FNum → Nat
  | .nan true => fINV
  | _ => 0

/-- Whether a value is a NaN. -/
def FNum.isNan : FNum → Bool
  | .nan _ => true
  | _ => false

/-- The negation of a value, exact. -/
def FNum.negate : FNum → FNum
  | .nan s => .nan s
  | .inf n => .inf (!n)
  | .fin n m e => .fin (!n) m e

/-- The exact sum of two finite values: sign, magnitude, exponent (03 R70: the sign of a zero sum). -/
def addExact (mode : Rnd) (n1 : Bool) (m1 : Nat) (e1 : Int) (n2 : Bool) (m2 : Nat) (e2 : Int) : Bool × Nat × Int :=
  if m1 = 0 ∧ m2 = 0 then ((if n1 = n2 then n1 else mode == .rdn), 0, 0)
  else if m1 = 0 then (n2, m2, e2)
  else if m2 = 0 then (n1, m1, e1)
  else
    let e := min e1 e2
    let a := m1 * 2 ^ (e1 - e).toNat
    let b := m2 * 2 ^ (e2 - e).toNat
    if n1 = n2 then (n1, a + b, e)
    else if a = b then (mode == .rdn, 0, 0)
    else if b < a then (n1, a - b, e)
    else (n2, b - a, e)

/-- The sum of two values, rounded once. -/
def Fmt.addN (f : Fmt) (mode : Rnd) (x y : FNum) : Fr :=
  match x, y with
  | .nan _, _ => (f.nan, x.inv ||| y.inv)
  | _, .nan _ => (f.nan, x.inv ||| y.inv)
  | .inf a, .inf b => if a = b then (f.signed a f.inf, 0) else (f.nan, fINV)
  | .inf a, _ => (f.signed a f.inf, 0)
  | _, .inf b => (f.signed b f.inf, 0)
  | .fin n1 m1 e1, .fin n2 m2 e2 =>
    let r := addExact mode n1 m1 e1 n2 m2 e2
    f.enc mode false r.1 r.2.1 r.2.2

/-- FADD (08 R204). -/
def Fmt.add (f : Fmt) (mode : Rnd) (x y : Nat) : Fr := f.addN mode (f.dec x) (f.dec y)

/-- FSUB (08 R204). -/
def Fmt.sub (f : Fmt) (mode : Rnd) (x y : Nat) : Fr := f.addN mode (f.dec x) (f.dec y).negate

/-- FMUL (08 R204). -/
def Fmt.mul (f : Fmt) (mode : Rnd) (x y : Nat) : Fr :=
  let a := f.dec x
  let b := f.dec y
  match a, b with
  | .nan _, _ => (f.nan, a.inv ||| b.inv)
  | _, .nan _ => (f.nan, a.inv ||| b.inv)
  | .inf n1, .inf n2 => (f.signed (n1 != n2) f.inf, 0)
  | .inf n1, .fin n2 m _ => if m = 0 then (f.nan, fINV) else (f.signed (n1 != n2) f.inf, 0)
  | .fin n1 m _, .inf n2 => if m = 0 then (f.nan, fINV) else (f.signed (n1 != n2) f.inf, 0)
  | .fin n1 m1 e1, .fin n2 m2 e2 => f.enc mode false (n1 != n2) (m1 * m2) (e1 + e2)

/-- a · b + c rounded once, of decoded values; a product of zero and infinity raises INV even beside a quiet NaN
(08 R205). -/
def Fmt.fmaN (f : Fmt) (mode : Rnd) (a b c : FNum) : Fr :=
  let sig := a.inv ||| b.inv ||| c.inv
  let viaInf (n : Bool) : Fr := match c with
    | .nan _ => (f.nan, sig)
    | .inf m => if m = n then (f.signed n f.inf, 0) else (f.nan, fINV)
    | .fin _ _ _ => (f.signed n f.inf, 0)
  match a, b with
  | .nan _, _ => (f.nan, sig)
  | _, .nan _ => (f.nan, sig)
  | .inf n1, .inf n2 => viaInf (n1 != n2)
  | .inf n1, .fin n2 m _ => if m = 0 then (f.nan, sig ||| fINV) else viaInf (n1 != n2)
  | .fin n1 m _, .inf n2 => if m = 0 then (f.nan, sig ||| fINV) else viaInf (n1 != n2)
  | .fin n1 m1 e1, .fin n2 m2 e2 =>
    match c with
    | .nan _ => (f.nan, sig)
    | .inf n => (f.signed n f.inf, 0)
    | .fin n m e =>
      let r := addExact mode (n1 != n2) (m1 * m2) (e1 + e2) n m e
      f.enc mode false r.1 r.2.1 r.2.2

/-- FMA (08 R205). -/
def Fmt.fma (f : Fmt) (mode : Rnd) (x y z : Nat) : Fr := f.fmaN mode (f.dec x) (f.dec y) (f.dec z)

/-- A quotient of two positive numbers as m · 2^e with its lowest bit set when it is inexact: bits enough for any
rounding of the formats. -/
def quotient (m1 : Nat) (e1 : Int) (m2 : Nat) (e2 : Int) : Nat × Int :=
  let k := m2.log2 + 64
  let n := m1 * 2 ^ k
  (2 * (n / m2) + (if n % m2 = 0 then 0 else 1), e1 - e2 - (k : Int) - 1)

/-- FDIV (08 R204). -/
def Fmt.div (f : Fmt) (mode : Rnd) (x y : Nat) : Fr :=
  let a := f.dec x
  let b := f.dec y
  match a, b with
  | .nan _, _ => (f.nan, a.inv ||| b.inv)
  | _, .nan _ => (f.nan, a.inv ||| b.inv)
  | .inf _, .inf _ => (f.nan, fINV)
  | .inf n1, .fin n2 _ _ => (f.signed (n1 != n2) f.inf, 0)
  | .fin n1 _ _, .inf n2 => (f.signed (n1 != n2) 0, 0)
  | .fin n1 m1 e1, .fin n2 m2 e2 =>
    if m2 = 0 then (if m1 = 0 then (f.nan, fINV) else (f.signed (n1 != n2) f.inf, fDZ))
    else if m1 = 0 then (f.signed (n1 != n2) 0, 0)
    else
      let q := quotient m1 e1 m2 e2
      f.enc mode false (n1 != n2) q.1 q.2

/-- The integer square root of `n`, bit by bit from bit `k - 1`. -/
def isqrtFrom (n : Nat) (k r : Nat) : Nat :=
  match k with
  | 0 => r
  | k + 1 => if (r + 2 ^ k) * (r + 2 ^ k) ≤ n then isqrtFrom n k (r + 2 ^ k) else isqrtFrom n k r

/-- The integer square root. -/
def isqrt (n : Nat) : Nat := isqrtFrom n (n.log2 / 2 + 1) 0

/-- A square root of m · 2^e as m' · 2^e' with its lowest bit set when it is inexact. -/
def sqrtExact (m : Nat) (e : Int) : Nat × Int :=
  let (m, e) := if e % 2 = 0 then (m, e) else (2 * m, e - 1)
  let n := m * 2 ^ 128
  let r := isqrt n
  (2 * r + (if r * r = n then 0 else 1), e / 2 - 65)

/-- −1, 0 or 1 as x is below, equal to or above y. -/
def cmpFin (n1 : Bool) (m1 : Nat) (e1 : Int) (n2 : Bool) (m2 : Nat) (e2 : Int) : Int :=
  let e := min e1 e2
  let a : Int := (m1 * 2 ^ (e1 - e).toNat : Nat)
  let b : Int := (m2 * 2 ^ (e2 - e).toNat : Nat)
  let x := if n1 then -a else a
  let y := if n2 then -b else b
  if x < y then -1 else if x = y then 0 else 1

/-- The order of two values: none when unordered (08 R210). -/
def FNum.cmp (x y : FNum) : Option Int :=
  match x, y with
  | .nan _, _ => none
  | _, .nan _ => none
  | .inf a, .inf b => some (if a = b then 0 else if a then -1 else 1)
  | .inf a, _ => some (if a then -1 else 1)
  | _, .inf b => some (if b then 1 else -1)
  | .fin n1 m1 e1, .fin n2 m2 e2 => some (cmpFin n1 m1 e1 n2 m2 e2)

/-- Whether x is below y, −0 below +0 (08 R206). -/
def Fmt.below (f : Fmt) (x y : Nat) : Bool :=
  match (f.dec x).cmp (f.dec y) with
  | some c => if c = 0 then decide (f.sign ≤ x) && decide (y < f.sign) else decide (c < 0)
  | none => false

/-- Which operand a minimum or maximum takes: a, b, or neither (08 R206). -/
inductive Pick where
  | a | b | nan
  deriving DecidableEq, Repr

/-- The choice of FMIN, FMAX, FMINN and FMAXN, with its flags (08 R206). -/
def Fmt.pick (f : Fmt) (isMax number : Bool) (x y : Nat) : Pick × Nat :=
  let a := f.dec x
  let b := f.dec y
  let fl := a.inv ||| b.inv
  if a.isNan && b.isNan then (.nan, fl)
  else if a.isNan then (if number then .b else .nan, fl)
  else if b.isNan then (if number then .a else .nan, fl)
  else if isMax then (if f.below x y then .b else .a, fl)
  else (if f.below y x then .b else .a, fl)

/-- FMIN, FMAX, FMINN and FMAXN (08 R206). -/
def Fmt.minmax (f : Fmt) (isMax number : Bool) (x y : Nat) : Fr :=
  match f.pick isMax number x y with
  | (.a, fl) => (x, fl)
  | (.b, fl) => (y, fl)
  | (.nan, fl) => (f.nan, fl)

/-- FABS, FNEG and FCPSGN: the element with its sign bit as given (08 R207). -/
def Fmt.withSign (f : Fmt) (neg : Bool) (x : Nat) : Fr :=
  match f.dec x with
  | .nan s => (f.nan, if s then fINV else 0)
  | _ => (f.signed neg (x % f.sign), 0)

/-- Whether the sign bit of an encoding is set. -/
def Fmt.isNeg (f : Fmt) (x : Nat) : Bool := decide (f.sign ≤ x % (2 * f.sign))

/-- The relations of FCMP (08 Table 2). -/
def Fmt.rel (f : Fmt) (mod : Nat) (x y : Nat) : Bool :=
  match (f.dec x).cmp (f.dec y) with
  | none => mod == 1 || mod == 6
  | some c =>
    match mod with
    | 0 => c == 0 | 1 => c != 0 | 2 => decide (c < 0) | 3 => decide (c ≤ 0) | 4 => decide (0 < c)
    | 5 => decide (0 ≤ c) | 6 => false | _ => true

/-- FCMP's INV (08 Table 2, LIT[3]). -/
def Fmt.relInv (f : Fmt) (anyNan : Bool) (x y : Nat) : Nat :=
  if anyNan && ((f.dec x).isNan || (f.dec y).isNan) then fINV else (f.dec x).inv ||| (f.dec y).inv

/-- The class of an encoding (08 Table 3). -/
def Fmt.cls (f : Fmt) (x : Nat) : Nat :=
  match f.dec x with
  | .nan s => if s then 2 ^ 8 else 2 ^ 9
  | .inf n => if n then 1 else 2 ^ 7
  | .fin n m _ =>
    if m = 0 then (if n then 2 ^ 3 else 2 ^ 4)
    else if m < 2 ^ f.mbits then (if n then 2 ^ 2 else 2 ^ 5)
    else (if n then 2 ^ 1 else 2 ^ 6)

/-- FRND (08 R209). -/
def Fmt.rint (f : Fmt) (mode : Rnd) (x : Nat) : Fr :=
  match f.dec x with
  | .nan s => (f.nan, if s then fINV else 0)
  | .inf _ => (x, 0)
  | .fin n m e =>
    if m = 0 then (x, 0)
    else
      let r := roundAt mode n m e 0
      ((f.enc mode false n r.1 0).1, if r.2 then fNX else 0)

/-- FSCALE: x · 2^n rounded once (08 R208). -/
def Fmt.scale (f : Fmt) (mode : Rnd) (x : Nat) (n : Int) : Fr :=
  match f.dec x with
  | .nan s => (f.nan, if s then fINV else 0)
  | .inf _ => (x, 0)
  | .fin neg m e => if m = 0 then (x, 0) else f.round mode false neg m (e + n)

/-- An integer rounded into a format (08 Table 6). -/
def Fmt.ofInt (f : Fmt) (mode : Rnd) (sat : Bool) (v : Int) : Fr := f.enc mode sat (decide (v < 0)) v.natAbs 0

/-- A value rounded to an integer of `n` bits (08 Table 6), as its bits. -/
def FNum.toInt (x : FNum) (mode : Rnd) (n : Nat) (signed : Bool) : Fr :=
  let lo : Int := if signed then -(2 ^ (n - 1) : Nat) else 0
  let hi : Int := if signed then (2 ^ (n - 1) - 1 : Nat) else (2 ^ n - 1 : Nat)
  let bits (v : Int) : Nat := (v % (2 ^ n : Nat)).toNat
  match x with
  | .nan _ => (0, fINV)
  | .inf neg => (bits (if neg then lo else hi), fINV)
  | .fin neg m e =>
    if 200 < leadExp m e then (bits (if neg then lo else hi), if m = 0 then 0 else fINV)
    else
      let r := roundAt mode neg m e 0
      let v : Int := if neg then -(r.1 : Int) else r.1
      if v < lo then (bits lo, fINV) else if hi < v then (bits hi, fINV) else (bits v, if r.2 then fNX else 0)

/-- Whether a format holds every value of another (03 R72). -/
def Fmt.holds (dst src : Fmt) : Bool :=
  dst == src || dst == f32 || (dst == bf16 && (src == e4m3 || src == e5m2 || src == e2m1)) ||
    (dst == f16 && (src == e4m3 || src == e5m2 || src == e2m1)) ||
    ((dst == e4m3 || dst == e5m2) && src == e2m1)

/-- Convert a decoded value into a format with .SAT or without: `exact` when the format holds every value of the
source (03 R72, Table 3; 08 Table 6). -/
def Fmt.conv (f : Fmt) (mode : Rnd) (sat exact : Bool) (x : FNum) : Fr :=
  let narrow := f.kind != .ieee || f == e5m2
  match x with
  | .nan s =>
    if f.kind = .finite then (0, fINV) else (f.nan, if s then fINV else 0)
  | .inf n =>
    if narrow && !exact then
      (match f.kind with
       | .ieee => if sat then (f.signed n f.maxFin, fOF ||| fNX) else (f.signed n f.inf, 0)
       | .e4m3 => if sat then (f.signed n f.maxFin, fOF ||| fNX) else (f.nan, fINV)
       | .finite => (f.signed n f.maxFin, fOF ||| fNX))
    else (f.signed n f.inf, 0)
  | .fin n m e => f.enc mode (sat && narrow) n m e

/-- The floating format of an element type. -/
def fmtOf : ETyp → Fmt
  | .f32 => f32 | .bf16 => bf16 | .f16 => f16 | .e4m3 => e4m3 | .e5m2 => e5m2 | .e2m1 => e2m1
  | .i32 => f32 | .n32 => f32 | .i64 => f32 | .n64 => f32 | .pred => f32

/-- The sum of a list by the pair tree (03 R77): each level replaces neighbours by their sum in RNE; an odd last
element passes on. -/
def pairLevel {α : Type} (op : α → α → α) : List α → List α
  | x :: y :: r => op x y :: pairLevel op r
  | [x] => [x]
  | [] => []

/-- The pair tree: levels repeat until one element remains (03 R77). -/
def pairTree {α : Type} (op : α → α → α) (fuel : Nat) (l : List α) : List α :=
  match fuel with
  | 0 => l
  | fuel + 1 => match l with
    | _ :: _ :: _ => pairTree op fuel (pairLevel op l)
    | l => l

end Sys2Proof.Machine
end

