-- ==== Sys2Proof/Machine/Transc.lean ====
section
/-! DEFINITION. The order-0 special functions, correctly rounded (03 R89; 08 R212 to R214). A function's exact value is
enclosed in fixed point with `fxBits` fraction bits, far below the distance of any inexact result from a rounding
boundary, and is rounded once; the exact cases of R214 are decided apart. -/
namespace Sys2Proof.Machine

/-- Fraction bits of the fixed-point enclosures. -/
def fxBits : Nat := 1100

/-- One in fixed point. -/
def fxOne : Int := (2 ^ 1100 : Nat)

/-- A product in fixed point. -/
def fxMul (a b : Int) : Int := a * b / fxOne

/-- A quotient in fixed point. -/
def fxDiv (a b : Int) : Int := a * fxOne / b

/-- A finite value in fixed point. -/
def fxOf (neg : Bool) (m : Nat) (e : Int) : Int :=
  let s := e + fxBits
  let v : Int := if 0 ≤ s then (m * 2 ^ s.toNat : Nat) else (m / 2 ^ (-s).toNat : Nat)
  if neg then -v else v

/-- The sum of the series t, t·x/(i), ... with i from `i`: exp's tail. -/
def expSeries (fuel : Nat) (x t acc : Int) (i : Nat) : Int :=
  match fuel with
  | 0 => acc
  | fuel + 1 => if t = 0 then acc else
      let t' := fxMul t x / (i : Int)
      expSeries fuel x t' (acc + t') (i + 1)

/-- exp of a small fixed-point value. -/
def fxExpSmall (x : Int) : Int := expSeries 260 x fxOne fxOne 1

/-- The sum z + z³/3 + z⁵/5 + ..., `zp` the running power. -/
def atanhSeries (fuel : Nat) (z2 zp acc : Int) (i : Nat) : Int :=
  match fuel with
  | 0 => acc
  | fuel + 1 => if zp = 0 then acc else atanhSeries fuel z2 (fxMul zp z2) (acc + zp / (i : Int)) (i + 2)

/-- 2·atanh z. -/
def fxAtanh2 (z : Int) : Int := 2 * atanhSeries 400 (fxMul z z) z 0 1

/-- ln 2. -/
def fxLn2 : Int := fxAtanh2 (fxOne / 3)

/-- The sum 1/n − 1/(3 n³) + ..., for atan(1/n). -/
def atanSeries (fuel : Nat) (n2 : Int) (p acc : Int) (i : Nat) (neg : Bool) : Int :=
  match fuel with
  | 0 => acc
  | fuel + 1 => if p = 0 then acc else
      atanSeries fuel n2 (p / n2) (if neg then acc - p / (i : Int) else acc + p / (i : Int)) (i + 2) (!neg)

/-- π, by 16 atan(1/5) − 4 atan(1/239), with 300 further fraction bits. -/
def piWide : Int :=
  let one : Int := (2 ^ 1400 : Nat)
  16 * atanSeries 320 25 (one / 5) 0 1 false - 4 * atanSeries 100 57121 (one / 239) 0 1 false

/-- The sum of the sine or cosine series from the term `t` of index `i`. -/
def trigSeries (fuel : Nat) (x2 t acc : Int) (i : Nat) : Int :=
  match fuel with
  | 0 => acc
  | fuel + 1 => if t = 0 then acc else
      let t' := -(fxMul t x2 / ((i : Int) * ((i : Int) + 1)))
      trigSeries fuel x2 t' (acc + t') (i + 2)

/-- sin r for a reduced argument. -/
def fxSin (r : Int) : Int := trigSeries 160 (fxMul r r) r r 2

/-- cos r for a reduced argument. -/
def fxCos (r : Int) : Int := trigSeries 160 (fxMul r r) fxOne fxOne 1

/-- The quadrant and the reduced argument of m · 2^e (e at least −149). -/
def trigReduce (m : Nat) (e : Int) : Int × Int :=
  let x : Int := (m * 2 ^ (e + 1400).toNat : Nat)
  let half := piWide / 2
  let q := x / half
  (q % 4, (x - q * half) / ((2 ^ 300 : Nat) : Int))

/-- sin of m · 2^e in fixed point. -/
def fxSinOf (m : Nat) (e : Int) : Int :=
  let (q, r) := trigReduce m e
  if q = 0 then fxSin r else if q = 1 then fxCos r else if q = 2 then -(fxSin r) else -(fxCos r)

/-- cos of m · 2^e in fixed point. -/
def fxCosOf (m : Nat) (e : Int) : Int :=
  let (q, r) := trigReduce m e
  if q = 0 then fxCos r else if q = 1 then -(fxSin r) else if q = 2 then -(fxCos r) else fxSin r

/-- exp of a fixed-point value: a mantissa and the power of two that scales it. -/
def fxExp (x : Int) : Int × Int :=
  let k := x / fxLn2
  (fxExpSmall (x - k * fxLn2), k)

/-- exp of a fixed-point value at most 0, in fixed point. -/
def fxExpNeg (x : Int) : Int :=
  let (m, k) := fxExp x
  if 0 ≤ k then m * ((2 ^ k.toNat : Nat) : Int) else m / ((2 ^ (-k).toNat : Nat) : Int)

/-- ln of a positive m · 2^e in fixed point. -/
def fxLog (m : Nat) (e : Int) : Int :=
  let l := m.log2
  let y : Int := (m * 2 ^ (fxBits - l) : Nat)
  fxAtanh2 (fxDiv (y - fxOne) (y + fxOne)) + ((l : Int) + e) * fxLn2

/-- The error-function series Σ (−1)ⁿ x^(2n+1) / (n! (2n+1)). -/
def erfSeries (fuel : Nat) (x2 t acc : Int) (n : Nat) : Int :=
  match fuel with
  | 0 => acc
  | fuel + 1 => if t = 0 then acc else
      let t' := -(fxMul t x2 / ((n : Int) + 1))
      erfSeries fuel x2 t' (acc + t' / (2 * (n : Int) + 3)) (n + 1)

/-- erf of a positive fixed-point value below 11. -/
def fxErf (x : Int) : Int :=
  let s := erfSeries 1200 (fxMul x x) x x 0
  let sqrtPi : Int := (isqrt (piWide.toNat * 2 ^ 800) : Nat)
  2 * s * fxOne / sqrtPi

/-- Round an inexact result given in fixed point, `p` an extra power of two. -/
def fxRound (mode : Rnd) (neg : Bool) (v p : Int) : Fr :=
  f32.round mode false (neg != decide (v < 0)) (2 * v.natAbs + 1) (p - fxBits - 1)

/-- A positive result just below one, and one that no F32 value is as small as. -/
def nearOne (mode : Rnd) (neg : Bool) : Fr := f32.round mode false neg (2 ^ 200 - 1) (-200)

/-- A result below every subnormal. -/
def tinyRes (mode : Rnd) (neg : Bool) : Fr := f32.round mode false neg 1 (-300)

/-- A result beyond the range. -/
def hugeRes (mode : Rnd) : Fr := f32.round mode false false 1 300

/-- The special functions (08 Table 4). -/
inductive Fn where
  | sqrt | rsqrt | rcp | exp | exp2 | log | log2 | sin | cos | tanh | sigm | erf
  deriving DecidableEq, Repr

/-- 1.0 in F32. -/
def oneF : Nat := 0x3F800000

/-- The functions of an infinity (08 Table 5). -/
def Fn.ofInf (fn : Fn) (neg : Bool) : Fr :=
  let inv : Fr := (f32.nan, fINV)
  match fn with
  | .sqrt => if neg then inv else (f32.inf, 0)
  | .rsqrt => if neg then inv else (0, 0)
  | .rcp => (f32.signed neg 0, 0)
  | .exp => if neg then (0, 0) else (f32.inf, 0)
  | .exp2 => if neg then (0, 0) else (f32.inf, 0)
  | .log => if neg then inv else (f32.inf, 0)
  | .log2 => if neg then inv else (f32.inf, 0)
  | .sin => inv
  | .cos => inv
  | .tanh => (f32.signed neg oneF, 0)
  | .sigm => if neg then (0, 0) else (oneF, 0)
  | .erf => (f32.signed neg oneF, 0)

/-- The functions of a zero (08 Table 5). -/
def Fn.ofZero (fn : Fn) (neg : Bool) : Fr :=
  match fn with
  | .sqrt => (f32.signed neg 0, 0)
  | .rsqrt => (f32.signed neg f32.inf, fDZ)
  | .rcp => (f32.signed neg f32.inf, fDZ)
  | .exp => (oneF, 0)
  | .exp2 => (oneF, 0)
  | .log => (f32.signed true f32.inf, fDZ)
  | .log2 => (f32.signed true f32.inf, fDZ)
  | .sin => (f32.signed neg 0, 0)
  | .cos => (oneF, 0)
  | .tanh => (f32.signed neg 0, 0)
  | .sigm => (0x3F000000, 0)
  | .erf => (f32.signed neg 0, 0)

/-- The functions of a finite nonzero value (08 R212 to R214). -/
def Fn.ofFin (fn : Fn) (mode : Rnd) (neg : Bool) (m : Nat) (e : Int) : Fr :=
  let inv : Fr := (f32.nan, fINV)
  let l := leadExp m e
  let x := fxOf neg m e
  let ax := fxOf false m e
  match fn with
  | .sqrt => if neg then inv else
      let r := sqrtExact m e
      f32.round mode false false r.1 r.2
  | .rsqrt => if neg then inv else
      let (m, e) := if e % 2 = 0 then (m, e) else (2 * m, e - 1)
      let n := 2 ^ 256
      let r := isqrt (n / m)
      f32.round mode false false (2 * r + (if r * r * m = n then 0 else 1)) (-(e / 2) - 129)
  | .rcp =>
      let q := quotient 1 0 m e
      f32.round mode false neg q.1 q.2
  | .exp =>
      if 8 ≤ l then (if neg then tinyRes mode false else hugeRes mode)
      else
        let r := fxExp x
        fxRound mode false r.1 r.2
  | .exp2 =>
      if 9 ≤ l then (if neg then tinyRes mode false else hugeRes mode)
      else
        let k := x / fxOne
        let r := x - k * fxOne
        if r = 0 then f32.round mode false false 1 k
        else fxRound mode false (fxExpSmall (fxMul r fxLn2)) k
  | .log => if neg then inv else
      if l = 0 ∧ m = 2 ^ m.log2 then (0, 0) else fxRound mode false (fxLog m e) 0
  | .log2 => if neg then inv else
      if m = 2 ^ m.log2 then f32.ofInt mode false l else fxRound mode false (fxDiv (fxLog m e) fxLn2) 0
  | .sin => fxRound mode neg (fxSinOf m e) 0
  | .cos => fxRound mode false (fxCosOf m e) 0
  | .tanh =>
      if 7 ≤ l then nearOne mode neg
      else
        let t := fxExpNeg (-(2 * ax))
        fxRound mode neg (fxDiv (fxOne - t) (fxOne + t)) 0
  | .sigm =>
      if 8 ≤ l then (if neg then tinyRes mode false else nearOne mode false)
      else
        let t := fxExpNeg (-ax)
        fxRound mode false (if neg then fxDiv t (fxOne + t) else fxDiv fxOne (fxOne + t)) 0
  | .erf => if fxOne * 11 < ax then nearOne mode neg else fxRound mode neg (fxErf ax) 0

/-- An order-0 function (08 Table 4). -/
def Fn.apply (fn : Fn) (mode : Rnd) (x : Nat) : Fr :=
  match f32.dec x with
  | .nan s => (f32.nan, if s then fINV else 0)
  | .inf n => fn.ofInf n
  | .fin n m e => if m = 0 then fn.ofZero n else fn.ofFin mode n m e

end Sys2Proof.Machine
end

