-- ==== Sys2Proof/Machine/Jets.lean ====
section
/-! DEFINITION. The series rules of Taylor jets (03 R80 to R88, R92): a jet is the list of its coefficients' F32 bits;
each function gives the result jet and the 40 flag bits of JXF. A helper value sets its flags at the position of the
coefficient that uses it first. -/
namespace Sys2Proof.Machine

/-- A result jet and its flags in JXF's layout. -/
abbrev Jet := List Nat × Nat

/-- Coefficient `k` of a jet. -/
def co (l : List Nat) (k : Nat) : Nat := l.getD k 0

/-- The negation of an operand, exact (03 R83). -/
def flipF (x : Nat) : Nat := if f32.isNeg x then x - f32.sign else x + f32.sign

/-- The negation of a result: a NaN stays the generated NaN (03 R71). -/
def negF (x : Nat) : Nat := if (f32.dec x).isNan then f32.nan else flipF x

/-- A small integer as F32, exact. -/
def intF (v : Int) : Nat := (f32.ofInt .rne false v).1

/-- divk: division by an integer, in RNE (03 R82). -/
def divk (x k : Nat) : Fr := f32.div .rne x (intF k)

/-- `s := fma(f j, g j, s)` for j from `lo` to `hi`, flags at position `pos`. -/
def fmaLoop (m : Rnd) (pos lo hi : Nat) (f g : Nat → Nat) (init : Fr) : Fr :=
  (List.range (hi + 1 - lo)).foldl (fun s i =>
    let r := f32.fma m (f (lo + i)) (g (lo + i)) s.1
    (r.1, s.2 ||| atPos pos r.2)) init

/-- A rounding of an accumulated value, flags at position `pos`. -/
def step1 (pos : Nat) (s : Fr) (g : Nat → Fr) : Fr :=
  let r := g s.1
  (r.1, s.2 ||| atPos pos r.2)

/-- The convolution of the exponential series: rnd(mj[1]·x[k−1]), then fma(mj[j], x[k−j], s) (03 R85). -/
def conv (m : Rnd) (pos k : Nat) (mj xs : Nat → Nat) : Fr :=
  fmaLoop m pos 2 k mj (fun j => xs (k - j)) (Fr.at pos (f32.mul m (mj 1) (xs (k - 1))))

/-- Append a coefficient. -/
def Jet.push (y : Jet) (r : Fr) : Jet := (y.1 ++ [r.1], y.2 ||| r.2)

/-- Coefficients 1 to d, each from those before it. -/
def Jet.build (d : Nat) (y0 : Fr) (f : Nat → List Nat → Fr) : Jet :=
  (List.range d).foldl (fun y i => Jet.push y (f (i + 1) y.1)) ([y0.1], y0.2)

/-- FADD and FSUB (03 R83). -/
def jetAdd (m : Rnd) (isSub : Bool) (d : Nat) (a b : List Nat) : Jet :=
  (List.range (d + 1)).foldl (fun y k =>
    Jet.push y (Fr.at k (if isSub then f32.sub m (co a k) (co b k) else f32.add m (co a k) (co b k)))) ([], 0)

/-- FMUL (03 R83). -/
def jetMul (m : Rnd) (d : Nat) (a b : List Nat) : Jet :=
  (List.range (d + 1)).foldl (fun y k =>
    Jet.push y (fmaLoop m k 1 k (co a) (fun j => co b (k - j)) (Fr.at k (f32.mul m (co a 0) (co b k))))) ([], 0)

/-- FMA (03 R83). -/
def jetFma (m : Rnd) (d : Nat) (a b c : List Nat) : Jet :=
  (List.range (d + 1)).foldl (fun y k =>
    Jet.push y (fmaLoop m k 1 k (co a) (fun j => co b (k - j)) (Fr.at k (f32.fma m (co a 0) (co b k) (co c k)))))
    ([], 0)

/-- FDIV (03 R84). -/
def jetDiv (m : Rnd) (d : Nat) (a b : List Nat) : Jet :=
  Jet.build d (f32.div m (co a 0) (co b 0)) (fun k y =>
    let s := fmaLoop m k 1 k (fun j => flipF (co b j)) (fun j => co y (k - j)) (co a k, 0)
    step1 k s (fun v => f32.div m v (co b 0)))

/-- FRCP (03 R84). -/
def jetRcp (m : Rnd) (d : Nat) (a : List Nat) : Jet := jetDiv m d [oneF] a

/-- FSQRT (03 R84). -/
def jetSqrt (m : Rnd) (d : Nat) (a : List Nat) : Jet :=
  let y0 := Fn.sqrt.apply m (co a 0)
  let t := f32.mul m 0x40000000 y0.1
  Jet.build d (y0.1, y0.2 ||| (if d = 0 then 0 else atPos 1 t.2)) (fun k y =>
    let s := fmaLoop m k 1 (k - 1) (fun j => flipF (co y j)) (fun j => co y (k - j)) (co a k, 0)
    step1 k s (fun v => f32.div m v t.1))

/-- e(k, j) = j/2 − k as F32, exact (03 R84). -/
def halfF (k j : Nat) : Nat := (f32.enc .rne false true (2 * k - j) (-1)).1

/-- FRSQ (03 R84). -/
def jetRsqrt (m : Rnd) (d : Nat) (a : List Nat) : Jet :=
  Jet.build d (Fn.rsqrt.apply m (co a 0)) (fun k y =>
    let c (j : Nat) : Fr := f32.mul m (halfF k j) (co a j)
    let s0 := step1 k (Fr.at k (c 1)) (fun v => f32.mul m v (co y (k - 1)))
    let fl := (List.range (k - 1)).foldl (fun g i => g ||| atPos k (c (i + 2)).2) 0
    let s := fmaLoop m k 2 k (fun j => (c j).1) (fun j => co y (k - j)) (s0.1, s0.2 ||| fl)
    step1 k (step1 k s (fun v => f32.div m v (co a 0))) (fun v => divk v k))

/-- mj[j] := rnd(j·a[j]), or with a[j] scaled by LN2_F32 first (03 R85); flags at position j. -/
def mjAt (m : Rnd) (ln2 : Bool) (a : List Nat) (j : Nat) : Fr :=
  let x := if ln2 then Fr.at j (f32.mul m (co a j) 0x3F317218) else (co a j, 0)
  step1 j x (fun v => f32.mul m (intF j) v)

/-- The flags of mj[1] to mj[d]. -/
def mjFlags (m : Rnd) (ln2 : Bool) (d : Nat) (a : List Nat) : Nat :=
  (List.range d).foldl (fun g i => g ||| (mjAt m ln2 a (i + 1)).2) 0

/-- The multipliers as a list, so that each is rounded once. -/
def mjList (m : Rnd) (ln2 : Bool) (d : Nat) (a : List Nat) : List Nat :=
  0 :: (List.range d).map (fun i => (mjAt m ln2 a (i + 1)).1)

/-- FEXP and FEXP2 (03 R85). -/
def jetExp (m : Rnd) (two : Bool) (d : Nat) (a : List Nat) : Jet :=
  let y0 := (if two then Fn.exp2 else Fn.exp).apply m (co a 0)
  let mj := mjList m two d a
  Jet.build d (y0.1, y0.2 ||| mjFlags m two d a) (fun k y =>
    step1 k (conv m k k (co mj) (co y)) (fun v => divk v k))

/-- The coefficients of the FLOG series from 1 on (03 R85), after `y0`. -/
def jetLogFrom (m : Rnd) (d : Nat) (a : List Nat) (y0 : Fr) : Jet :=
  Jet.build d y0 (fun k y =>
    let c (j : Nat) : Fr := f32.mul m (intF j) (co y j)
    let fl := (List.range (k - 1)).foldl (fun g i => g ||| atPos k (c (i + 1)).2) 0
    let s := fmaLoop m k 1 (k - 1) (fun j => (c j).1) (fun j => co a (k - j)) (0, fl)
    step1 k (step1 k (step1 k s (fun v => divk v k)) (fun v => f32.sub m (co a k) v)) (fun v => f32.div m v (co a 0)))

/-- FLOG (03 R85). -/
def jetLog (m : Rnd) (d : Nat) (a : List Nat) : Jet := jetLogFrom m d a (Fn.log.apply m (co a 0))

/-- FLOG2 (03 R82, R85): the whole FLOG series `l` at order 1 or more, with the flags of each of its steps, and its coefficients
from 1 on scaled after log2. -/
def jetLog2 (m : Rnd) (d : Nat) (a : List Nat) : Jet :=
  let y0 := Fn.log2.apply m (co a 0)
  if d = 0 then ([y0.1], y0.2)
  else
    let l := jetLog m d a
    let y := Jet.build d y0 (fun k _ => Fr.at k (f32.mul m (co l.1 k) 0x3FB8AA3B))
    (y.1, y.2 ||| l.2)

/-- FSIN, FCOS and FSINCOS (03 R86): the sine and cosine series; at order 0 only those asked for. -/
def jetSinCos (m : Rnd) (wantS wantC : Bool) (d : Nat) (a : List Nat) : List Nat × List Nat × Nat :=
  let s0 : Fr := if d ≠ 0 ∨ wantS then Fn.sin.apply m (co a 0) else (0, 0)
  let c0 : Fr := if d ≠ 0 ∨ wantC then Fn.cos.apply m (co a 0) else (0, 0)
  let mj := mjList m false d a
  (List.range d).foldl (fun (r : List Nat × List Nat × Nat) i =>
    let k := i + 1
    let s := step1 k (conv m k k (co mj) (co r.2.1)) (fun v => divk v k)
    let sn := r.1 ++ [s.1]
    let c := step1 k (conv m k k (co mj) (co r.1)) (fun v => divk v k)
    (sn, r.2.1 ++ [negF c.1], r.2.2 ||| s.2 ||| c.2)) ([s0.1], [c0.1], s0.2 ||| c0.2 ||| mjFlags m false d a)

/-- FTANH and FSIGM (03 R87). -/
def jetTanh (m : Rnd) (sigm : Bool) (d : Nat) (a : List Nat) : Jet :=
  let y0 := (if sigm then Fn.sigm else Fn.tanh).apply m (co a 0)
  if d = 0 then ([y0.1], y0.2)
  else
    let v0 := f32.fma m (flipF y0.1) y0.1 (if sigm then y0.1 else oneF)
    let mj := mjList m false d a
    let r := (List.range d).foldl (fun (r : List Nat × List Nat × Nat) i =>
      let k := i + 1
      let y := step1 k (conv m k k (co mj) (co r.2.1)) (fun v => divk v k)
      let ys := r.1 ++ [y.1]
      if k < d then
        let t := fmaLoop m (k + 1) 1 k (co ys) (fun j => co ys (k - j)) (Fr.at (k + 1) (f32.mul m (co ys 0) (co ys k)))
        let v := if sigm then step1 (k + 1) t (fun x => f32.sub m y.1 x) else (negF t.1, t.2)
        (ys, r.2.1 ++ [v.1], r.2.2 ||| y.2 ||| v.2)
      else (ys, r.2.1, r.2.2 ||| y.2)) ([y0.1], [v0.1], y0.2 ||| atPos 1 v0.2 ||| mjFlags m false d a)
    (r.1, r.2.2)

/-- The running lists of FERF: y, g, h and the flags. -/
structure ErfSt where
  y : List Nat
  g : List Nat
  h : List Nat
  fl : Nat
  deriving Repr

/-- FERF (03 R87). -/
def jetErf (m : Rnd) (d : Nat) (a : List Nat) : Jet :=
  let y0 := Fn.erf.apply m (co a 0)
  if d = 0 then ([y0.1], y0.2)
  else
    let two : Nat := 0x3F906EBB
    let q : Jet := (List.range d).foldl (fun q k =>
      let s := fmaLoop m (k + 1) 1 k (co a) (fun j => co a (k - j)) (Fr.at (k + 1) (f32.mul m (co a 0) (co a k)))
      Jet.push q (negF s.1, s.2)) ([], 0)
    let g0 := Fn.exp.apply m (co q.1 0)
    let h0 := f32.mul m two g0.1
    let mj := mjList m false d a
    let mq (j : Nat) : Fr := Fr.at (j + 1) (f32.mul m (intF j) (co q.1 j))
    let mqs := 0 :: (List.range (d - 1)).map (fun i => (mq (i + 1)).1)
    let mqf := (List.range (d - 1)).foldl (fun g i => g ||| (mq (i + 1)).2) 0
    let init : ErfSt :=
      { y := [y0.1], g := [g0.1], h := [h0.1],
        fl := y0.2 ||| q.2 ||| atPos 1 g0.2 ||| atPos 1 h0.2 ||| mjFlags m false d a ||| mqf }
    let r := (List.range d).foldl (fun (r : ErfSt) i =>
      let k := i + 1
      let y := step1 k (conv m k k (co mj) (co r.h)) (fun v => divk v k)
      if k < d then
        let g := step1 (k + 1) (conv m (k + 1) k (co mqs) (co r.g)) (fun v => divk v k)
        let h := Fr.at (k + 1) (f32.mul m two g.1)
        { y := r.y ++ [y.1], g := r.g ++ [g.1], h := r.h ++ [h.1], fl := r.fl ||| y.2 ||| g.2 ||| h.2 }
      else { r with y := r.y ++ [y.1], fl := r.fl ||| y.2 }) init
    (r.y, r.fl)

/-- FNEG, FABS and FCPSGN (03 Table 7): every coefficient negated or kept, `flip` deciding. -/
def jetSign (flip : Bool) (d : Nat) (a : List Nat) : Jet :=
  (List.range (d + 1)).foldl (fun y k =>
    let x := co a k
    Jet.push y (Fr.at k (f32.withSign (f32.isNeg x != flip) x))) ([], 0)

/-- FSCALE (03 Table 7, 08 R208). -/
def jetScale (m : Rnd) (n : Int) (d : Nat) (a : List Nat) : Jet :=
  (List.range (d + 1)).foldl (fun y k => Jet.push y (Fr.at k (f32.scale m (co a k) n))) ([], 0)

/-- FMIN, FMAX, FMINN and FMAXN of whole jets (03 Table 7). -/
def jetPick (isMax number : Bool) (d : Nat) (a b : List Nat) : Jet :=
  match f32.pick isMax number (co a 0) (co b 0) with
  | (.a, fl) => ((List.range (d + 1)).map (co a), fl)
  | (.b, fl) => ((List.range (d + 1)).map (co b), fl)
  | (.nan, fl) => (List.replicate (d + 1) f32.nan, fl)

/-- FRND (03 Table 7). -/
def jetRnd (m : Rnd) (d : Nat) (a : List Nat) : Jet :=
  let r := f32.rint m (co a 0)
  (r.1 :: List.replicate d 0, r.2)

end Sys2Proof.Machine
end

