-- ==== Sys2Proof/Machine/FloatOps.lean ====
section
/-! DEFINITION. The floating group (08 R201 to R219). -/
namespace Sys2Proof.Machine

/-- Whole jets in `w` lanes at order `d` (03 R80). -/
def jetCount (w d : Nat) : Nat := w / (d + 1)

/-- Jet `j` of operand a. -/
def Ctx.aJet (c : Ctx) (d j : Nat) : List Nat := (List.range (d + 1)).map (fun k => c.aLane (j * (d + 1) + k))

/-- Jet `j` of operand b: a token's lanes, or the constant jet of K[n] or the literal (03 R81). -/
def Ctx.bJet (c : Ctx) (d j : Nat) : List Nat :=
  if c.v.ary = .dyad then (List.range (d + 1)).map (fun k => c.bLane (j * (d + 1) + k))
  else c.bLane j :: List.replicate d 0

/-- The lanes of a token of jets: lanes beyond the last whole jet are +0 (03 R80). -/
def jetLanes (w d : Nat) (js : List Jet) : List Word :=
  padTo 0 w ((js.flatMap (fun j => padTo 0 (d + 1) j.1)).map word)

/-- The flags of jets. -/
def jetFlags (js : List Jet) : Nat := js.foldl (fun g j => g ||| j.2) 0

/-- Emit a result with its flags to both destinations. -/
def Ctx.emitF (c : Ctx) (lanes : List Word) (g : Nat) : FireRes := c.emitBoth (c.withFlags c.poison g) lanes c.poison

/-- A result jet by jet, from the index of the jet and the operand jets. -/
def Ctx.mapJet (c : Ctx) (g : Nat → List Nat → List Nat → Jet) : FireRes :=
  let d := c.order
  let js := (List.range (jetCount c.wa d)).map (fun j => g j (c.aJet d j) (c.bJet d j))
  c.emitF (jetLanes c.wa d js) (jetFlags js)

/-- The two halves of lane values, elements of BF16 and F16. -/
def halves (x : Nat) : List Nat := [x % 65536, x / 65536 % 65536]

/-- A result element by element for BF16 and F16 pairs, from the lane index and operand elements (08 R202). -/
def Ctx.mapHalf (c : Ctx) (g : Nat → Nat → Nat → Nat → Fr) : FireRes :=
  let rs := (List.range c.wa).flatMap (fun i => (List.range 2).map (fun h =>
    g i h (c.aLane i / 65536 ^ h % 65536) (c.bLane i / 65536 ^ h % 65536)))
  c.emitF (packLanes 16 (rs.map Prod.fst)) (orAll rs)

/-- A floating operation: whole jets for F32, elements of the other formats. -/
def Ctx.mapFloat (c : Ctx) (jf : List Nat → List Nat → Jet) (ef : Fmt → Nat → Nat → Fr) : FireRes :=
  if c.v.typ = .f32 then c.mapJet (fun _ a b => jf a b) else c.mapHalf (fun _ _ a b => ef (fmtOf c.v.typ) a b)

/-- The rounding mode of the node (03 R69). -/
def Ctx.rnd (c : Ctx) : Rnd := rndOf c.v.mod.toNat

/-- FADD (08 R204). -/
def execFadd (n : Node) (s : State) : Host.Outcome State Fault Refusal :=
  fire (viewD 0x100 n) s (fun c => c.mapFloat (jetAdd c.rnd false c.order) (fun f => f.add c.rnd))

/-- FSUB (08 R204). -/
def execFsub (n : Node) (s : State) : Host.Outcome State Fault Refusal :=
  fire (viewD 0x101 n) s (fun c => c.mapFloat (jetAdd c.rnd true c.order) (fun f => f.sub c.rnd))

/-- FMUL (08 R204). -/
def execFmul (n : Node) (s : State) : Host.Outcome State Fault Refusal :=
  fire (viewD 0x102 n) s (fun c => c.mapFloat (jetMul c.rnd c.order) (fun f => f.mul c.rnd))

/-- FDIV (08 R204). -/
def execFdiv (n : Node) (s : State) : Host.Outcome State Fault Refusal :=
  fire (viewD 0x103 n) s (fun c => c.mapFloat (jetDiv c.rnd c.order) (fun f => f.div c.rnd))

/-- The addend of FMA, FMS and FNMA in a lane (08 R205). -/
def Ctx.addend (c : Ctx) (lane : Nat) : Nat :=
  if c.v.bits 12 1 = 1 then (SMap.get 0 (c.x.acc (c.v.bits 6 4)).val lane).toNat else c.k (c.v.bits 6 6)

/-- The addend as jet `j` (03 R81). -/
def Ctx.addendJet (c : Ctx) (d j : Nat) : List Nat := c.addend (j * (d + 1)) :: List.replicate d 0

/-- FMA, FMS and FNMA: a or the addend negated, exactly (08 R205, 03 R83). -/
def Ctx.fused (c : Ctx) (negA negC : Bool) : FireRes :=
  let sgn (b : Bool) (x : FNum) : FNum := if b then x.negate else x
  if c.v.typ = .f32 then
    c.mapJet (fun j a b =>
      let cs := c.addendJet c.order j
      jetFma c.rnd c.order (if negA then a.map flipF else a) b (if negC then cs.map flipF else cs))
  else
    let f := fmtOf c.v.typ
    c.mapHalf (fun i h a b =>
      f.fmaN c.rnd (sgn negA (f.dec a)) (f.dec b) (sgn negC (f.dec (c.addend i / 65536 ^ h % 65536))))

/-- FMA (08 R205). -/
def execFma (n : Node) (s : State) : Host.Outcome State Fault Refusal :=
  fire (viewD 0x104 n) s (fun c => c.fused false false)

/-- FMS (08 R205). -/
def execFms (n : Node) (s : State) : Host.Outcome State Fault Refusal :=
  fire (viewD 0x105 n) s (fun c => c.fused false true)

/-- FNMA (08 R205). -/
def execFnma (n : Node) (s : State) : Host.Outcome State Fault Refusal :=
  fire (viewD 0x106 n) s (fun c => c.fused true false)

/-- FMIN (08 R206). -/
def execFmin (n : Node) (s : State) : Host.Outcome State Fault Refusal :=
  fire (viewD 0x107 n) s (fun c => c.mapFloat (jetPick false false c.order) (fun f => f.minmax false false))

/-- FMAX (08 R206). -/
def execFmax (n : Node) (s : State) : Host.Outcome State Fault Refusal :=
  fire (viewD 0x108 n) s (fun c => c.mapFloat (jetPick true false c.order) (fun f => f.minmax true false))

/-- FMINN (08 R206). -/
def execFminn (n : Node) (s : State) : Host.Outcome State Fault Refusal :=
  fire (viewD 0x109 n) s (fun c => c.mapFloat (jetPick false true c.order) (fun f => f.minmax false true))

/-- FMAXN (08 R206). -/
def execFmaxn (n : Node) (s : State) : Host.Outcome State Fault Refusal :=
  fire (viewD 0x10A n) s (fun c => c.mapFloat (jetPick true true c.order) (fun f => f.minmax true true))

/-- FABS (08 R207): at order d ≥ 1 the jet is negated when the sign bit of c0 is set. -/
def execFabs (n : Node) (s : State) : Host.Outcome State Fault Refusal :=
  fire (viewD 0x10B n) s (fun c =>
    c.mapFloat (fun a _ => jetSign (f32.isNeg (co a 0)) c.order a) (fun f a _ => f.withSign false a))

/-- FNEG (08 R207). -/
def execFneg (n : Node) (s : State) : Host.Outcome State Fault Refusal :=
  fire (viewD 0x10C n) s (fun c =>
    c.mapFloat (fun a _ => jetSign true c.order a) (fun f a _ => f.withSign (!f.isNeg a) a))

/-- FCPSGN (08 R207): a signalling NaN b raises INV at position 0. -/
def execFcpsgn (n : Node) (s : State) : Host.Outcome State Fault Refusal :=
  fire (viewD 0x10D n) s (fun c =>
    c.mapFloat
      (fun a b =>
        let r := jetSign (f32.isNeg (co a 0) != f32.isNeg (co b 0)) c.order a
        (r.1, r.2 ||| (f32.dec (co b 0)).inv))
      (fun f a b => let r := f.withSign (f.isNeg b) a; (r.1, r.2 ||| (f.dec b).inv)))

/-- The results of FCMP: one per jet or element, with the flags (08 R210). -/
def Ctx.compare (c : Ctx) : List Bool × Nat :=
  let mod := c.v.mod.toNat
  let anyNan := c.v.bits 3 1 == 1
  let imm := c.v.bits 16 16
  if c.v.typ = .f32 then
    let d := c.order
    let ps := (List.range (jetCount c.wa d)).map (fun j =>
      (co (c.aJet d j) 0, if c.v.ary = .mono then imm * 65536 else co (c.bJet d j) 0))
    (ps.map (fun p => f32.rel mod p.1 p.2), ps.foldl (fun g p => g ||| f32.relInv anyNan p.1 p.2) 0)
  else
    let f := fmtOf c.v.typ
    let ps := (List.range c.wa).flatMap (fun i => (List.range 2).map (fun h =>
      (c.aLane i / 65536 ^ h % 65536, if c.v.ary = .mono then imm else c.bLane i / 65536 ^ h % 65536)))
    (ps.map (fun p => f.rel mod p.1 p.2), ps.foldl (fun g p => g ||| f.relInv anyNan p.1 p.2) 0)

/-- FCMP (08 R210). -/
def execFcmp (n : Node) (s : State) : Host.Outcome State Fault Refusal :=
  fire (viewD 0x10E n) s (fun c =>
    let (rs, g) := c.compare
    let mask := c.v.bits 0 1 == 1
    match c.v.bits 1 2 with
    | 0 =>
      if c.v.typ = .f32 then
        let one : Word := if mask then 0xFFFFFFFF else 1
        c.emitF (padTo 0 c.wa (rs.flatMap (fun r => List.replicate (c.order + 1) (if r then one else 0)))) g
      else c.emitF (packLanes 16 (rs.map (fun r => if r then (if mask then 0xFFFF else 1) else 0))) g
    | 1 => c.emitF (reducedF false mask rs) g
    | _ => c.emitF (reducedF true mask rs) g)
where
  /-- A reduced result: one lane (08 Table 2). -/
  reducedF (all mask : Bool) (rs : List Bool) : List Word :=
    [if (if all then rs.all id else rs.any id) then (if mask then 0xFFFFFFFF else 1) else 0]

/-- FCLASS (08 R211). -/
def execFclass (n : Node) (s : State) : Host.Outcome State Fault Refusal :=
  fire (viewD 0x10F n) s (fun c =>
    c.mapFloat (fun a _ => (List.replicate (c.order + 1) (f32.cls (co a 0)), 0)) (fun f a _ => (f.cls a, 0)))

/-- FSQRT (08 R212). -/
def execFsqrt (n : Node) (s : State) : Host.Outcome State Fault Refusal :=
  fire (viewD 0x110 n) s (fun c => c.mapJet (fun _ a _ => jetSqrt c.rnd c.order a))

/-- FRSQ (08 R212). -/
def execFrsq (n : Node) (s : State) : Host.Outcome State Fault Refusal :=
  fire (viewD 0x111 n) s (fun c => c.mapJet (fun _ a _ => jetRsqrt c.rnd c.order a))

/-- FRCP (08 R212). -/
def execFrcp (n : Node) (s : State) : Host.Outcome State Fault Refusal :=
  fire (viewD 0x112 n) s (fun c => c.mapJet (fun _ a _ => jetRcp c.rnd c.order a))

/-- FEXP (08 R212). -/
def execFexp (n : Node) (s : State) : Host.Outcome State Fault Refusal :=
  fire (viewD 0x113 n) s (fun c => c.mapJet (fun _ a _ => jetExp c.rnd false c.order a))

/-- FEXP2 (08 R212). -/
def execFexp2 (n : Node) (s : State) : Host.Outcome State Fault Refusal :=
  fire (viewD 0x114 n) s (fun c => c.mapJet (fun _ a _ => jetExp c.rnd true c.order a))

/-- FLOG (08 R212). -/
def execFlog (n : Node) (s : State) : Host.Outcome State Fault Refusal :=
  fire (viewD 0x115 n) s (fun c => c.mapJet (fun _ a _ => jetLog c.rnd c.order a))

/-- FLOG2 (08 R212). -/
def execFlog2 (n : Node) (s : State) : Host.Outcome State Fault Refusal :=
  fire (viewD 0x116 n) s (fun c => c.mapJet (fun _ a _ => jetLog2 c.rnd c.order a))

/-- FSIN (08 R212). -/
def execFsin (n : Node) (s : State) : Host.Outcome State Fault Refusal :=
  fire (viewD 0x117 n) s (fun c => c.mapJet (fun _ a _ =>
    let r := jetSinCos c.rnd true false c.order a
    (r.1, r.2.2)))

/-- FCOS (08 R212). -/
def execFcos (n : Node) (s : State) : Host.Outcome State Fault Refusal :=
  fire (viewD 0x118 n) s (fun c => c.mapJet (fun _ a _ =>
    let r := jetSinCos c.rnd false true c.order a
    (r.2.1, r.2.2)))

/-- FSINCOS (08 R212): the sine series to DSTA, the cosine series to DSTB. -/
def execFsincos (n : Node) (s : State) : Host.Outcome State Fault Refusal :=
  fire (viewD 0x119 n) s (fun c =>
    let d := c.order
    let rs := (List.range (jetCount c.wa d)).map (fun j => jetSinCos c.rnd true true d (c.aJet d j))
    let g := rs.foldl (fun g r => g ||| r.2.2) 0
    .done (c.withFlags c.poison g)
      [c.outA (jetLanes c.wa d (rs.map (fun r => (r.1, 0)))) c.poison,
       c.outB (jetLanes c.wa d (rs.map (fun r => (r.2.1, 0)))) c.poison])

/-- FTANH (08 R212). -/
def execFtanh (n : Node) (s : State) : Host.Outcome State Fault Refusal :=
  fire (viewD 0x11A n) s (fun c => c.mapJet (fun _ a _ => jetTanh c.rnd false c.order a))

/-- FSIGM (08 R212). -/
def execFsigm (n : Node) (s : State) : Host.Outcome State Fault Refusal :=
  fire (viewD 0x11B n) s (fun c => c.mapJet (fun _ a _ => jetTanh c.rnd true c.order a))

/-- FERF (08 R212). -/
def execFerf (n : Node) (s : State) : Host.Outcome State Fault Refusal :=
  fire (viewD 0x11C n) s (fun c => c.mapJet (fun _ a _ => jetErf c.rnd c.order a))

/-- FRND (08 R209). -/
def execFrnd (n : Node) (s : State) : Host.Outcome State Fault Refusal :=
  fire (viewD 0x11D n) s (fun c => c.mapJet (fun _ a _ => jetRnd c.rnd c.order a))

/-- FSCALE (08 R208). -/
def execFscale (n : Node) (s : State) : Host.Outcome State Fault Refusal :=
  fire (viewD 0x11E n) s (fun c => c.mapJet (fun _ a b => jetScale c.rnd (toS 32 (co b 0)) c.order a))

/-- The type of a code 0 to 9 (02 Table 3). -/
def typOf (t : Nat) : ETyp :=
  match t with
  | 0 => .i32 | 1 => .n32 | 2 => .i64 | 3 => .n64 | 4 => .f32 | 5 => .bf16 | 6 => .f16 | 7 => .e4m3 | 8 => .e5m2
  | _ => .e2m1

/-- Whether a type is an integer type. -/
def isIntTyp : ETyp → Bool
  | .i32 => true | .n32 => true | .i64 => true | .n64 => true | _ => false

/-- One conversion of FCVT (08 Table 6). -/
def cvtElem (src dst : ETyp) (m : Rnd) (sat : Bool) (x : Nat) : Fr :=
  if isIntTyp src then
    (fmtOf dst).ofInt m (sat && (typBits dst < 16 : Bool)) (intVal src x)
  else if isIntTyp dst then ((fmtOf src).dec x).toInt m (intBits dst) (isSigned dst)
  else (fmtOf dst).conv m sat ((fmtOf dst).holds (fmtOf src)) ((fmtOf src).dec x)

/-- FCVT (08 R215, R216). -/
def execFcvt (n : Node) (s : State) : Host.Outcome State Fault Refusal :=
  fire (viewD 0x11F n) s (fun c =>
    let src := typOf (c.v.bits 0 4)
    let m := 1024 / typBits c.v.typ
    let es := ((unpackLanes (typBits src) c.f.a.lanes).drop (c.v.bits 4 3 * m)).take m
    let rs := es.map (cvtElem src c.v.typ (rndOf (c.v.mod.toNat % 4)) (c.v.mod.getLsbD 2))
    c.emitF (packLanes (typBits c.v.typ) (rs.map Prod.fst)) (orAll rs))

/-- An element format's emax for FQUANT (08 R217). -/
def quantEmax : ETyp → Int
  | .e4m3 => 8 | .e5m2 => 15 | _ => 2

/-- The greatest floor(log₂ |v|) of a list of finite values; none when all are zero. -/
def maxExp (vs : List FNum) : Option Int :=
  vs.foldl (fun a v => match v with
    | .fin _ m e => if m = 0 then a else some (match a with | none => leadExp m e | some b => max b (leadExp m e))
    | _ => a) none

/-- Quantise the 32 values of a block: the scale, the element encodings and the flags (08 R217). -/
def quantBlock (t : ETyp) (m : Rnd) (sat : Bool) (vs : List Nat) : Nat × List Nat × Nat :=
  let ns := vs.map f32.dec
  let bad := ns.any (fun v => match v with | .fin _ _ _ => false | _ => true)
  if bad then
    (255, List.replicate 32 0, ns.foldl (fun g v => g ||| (match v with | .inf _ => fINV | v => v.inv)) 0)
  else
    match maxExp ns with
    | none => (127, List.replicate 32 0, 0)
    | some e =>
      let x := max 0 (min 254 (e - quantEmax t + 127))
      let rs := ns.map (fun v => match v with
        | .fin neg mm ee => (fmtOf t).conv m sat false (.fin neg mm (ee + 127 - x))
        | v => (fmtOf t).conv m sat false v)
      (x.toNat, rs.map Prod.fst, orAll rs)

/-- FQUANT (08 R217, R218). -/
def execFquant (n : Node) (s : State) : Host.Outcome State Fault Refusal :=
  fire (viewD 0x120 n) s (fun c =>
    let e := c.v.bits 16 10
    let toB (lanes : List Word) : Out :=
      { c.outB lanes c.f.a.poison with code := if c.v.dstB = .scale then e else 0 }
    if c.v.bits 0 1 = 1 then .done c.s [toB c.f.a.lanes]
    else
      let (x, es, g) := quantBlock c.v.typ (rndOf (c.v.mod.toNat % 4)) (c.v.mod.getLsbD 2)
        ((List.range 32).map c.aLane)
      .done (c.withFlags c.f.a.poison g)
        [c.outA (packLanes (typBits c.v.typ) es) c.f.a.poison, toB [word (0xFFFFFF00 + x)]])

/-- FDEQ (08 R219). -/
def execFdeq (n : Node) (s : State) : Host.Outcome State Fault Refusal :=
  fire (viewD 0x121 n) s (fun c =>
    let sb := c.v.bits 0 7
    let p := c.v.bits 7 3
    let scale := c.bTok
    let x := if sb < 4 * scale.lanes.length then (tlane scale (sb / 4)).toNat / 256 ^ (sb % 4) % 256 else 255
    let es := unpackLanes (typBits c.v.typ) c.f.a.lanes
    let f := fmtOf c.v.typ
    let rs := (List.range 32).map (fun i =>
      if x = 255 then ((f32.nan, 0) : Fr)
      else match f.dec (es.getD (32 * p + i) 0) with
        | .fin neg m e => f32.enc c.rnd false neg m (e + (x : Int) - 127)
        | .inf neg => (f32.signed neg f32.inf, 0)
        | .nan sig => (f32.nan, if sig then fINV else 0))
    let poison := c.f.a.poison || scale.poison
    c.emitBoth (c.withFlags poison (orAll rs)) (rs.map (fun r => word r.1)) poison)

end Sys2Proof.Machine
end

