-- ==== Sys2Proof/Machine/Colours.lean ====
section
/-! DEFINITION. Freeing colours, iteration instances, parked firings, and run-ahead streams resolved by a STEER
(01 R31 to R33; 06 R158; 09 R236, R241 to R244; 15 R380). -/
namespace Sys2Proof.Machine

/-- Put a firing back at the tail of its core's ready queue (06 R158). -/
def State.requeue (s : State) (f : Firing) : State :=
  match s.lc? f.asid f.lc with
  | none => s
  | some x =>
    if (s.readyQ x.core).length < 64 ∧ s.heldQ x.core = [] then s.setReady x.core (s.readyQ x.core ++ [f])
    else { s with held := SMap.ins s.held x.core (s.heldQ x.core ++ [f]) }

/-- The first `n` parked firings that meet `p`, and the wait ring without them. -/
def takeParked (p : Parked → Bool) (n : Nat) : List Parked → List Parked × List Parked
  | [] => ([], [])
  | q :: r =>
    if p q ∧ n ≠ 0 then
      let t := takeParked p (n - 1) r
      (q :: t.1, t.2)
    else
      let t := takeParked p n r
      (t.1, q :: t.2)

/-- Change a core's own copy of a colour's registers (04 R109): in the cache, in the copy area, or, where it has none yet,
the allocation image, which becomes the copy area's. -/
def LCore.updRegs (x : LCore) (img : Option ColourRegs) (c : Nat) (g : ColourRegs → ColourRegs) : LCore :=
  if (x.cached c).isSome then x.updColour c g
  else match SMap.find x.copyArea c, img with
    | some r, _ => { x with copyArea := SMap.ins x.copyArea c (g r) }
    | none, some r => { x with copyArea := SMap.ins x.copyArea c (g r) }
    | none, none => x

/-- Change a logical core's own copy of a colour's registers. -/
def State.updRegs (s : State) (asid lc c : Nat) (g : ColourRegs → ColourRegs) : State :=
  match s.pitch? asid with
  | none => s
  | some p => s.updLC asid lc (fun x => x.updRegs ((SMap.find p.colours c).map (·.regs)) c g)

/-- Whether a firing may create an iteration instance (09 R236). -/
def quotaFree (r : ColourRegs) : Bool := r.limit == 0 || r.live != r.limit

/-- Retry parked firings of a logical core, oldest first, with the allocations given (06 R158): each re-enters the ready
queue at its tail with its own. -/
def State.retryWith (s : State) (asid lc : Nat) (p : Parked → Bool) (gs : List Grant) : State :=
  match s.lc? asid lc with
  | none => s
  | some x =>
    let t := takeParked p gs.length x.waitRing
    (t.1.zip gs).foldl (fun s q => s.requeue { q.1.f with grant := q.2 }) (s.updLC asid lc (fun x => { x with waitRing := t.2 }))

/-- Retry the firings parked for an iteration instance of a colour: each that fits within LIMIT is counted in LIVE now. -/
def State.retryTags (s : State) (asid lc colour : Nat) : State :=
  match s.colourRegs asid lc colour, s.lc? asid lc with
  | some r, some x =>
    let mine (q : Parked) : Bool := !q.colour && tagColour q.f.tag == colour
    let room := if r.limit = 0 then 64 else r.limit.toNat - r.live.toNat
    let n := Nat.min room (x.waitRing.filter mine).length
    (s.updRegs asid lc colour (fun r => { r with live := r.live + BitVec.ofNat 16 n })).retryWith asid lc mine
      (List.replicate n .inst)
  | _, _ => s

/-- The values of a pool of intervals. -/
def poolList (p : List (Nat × Nat)) : List Nat := p.flatMap (fun e => (List.range (e.2 - e.1)).map (· + e.1))

/-- Retry the firings parked for a colour at every logical core of a pitch: each takes a value of its local pool now. -/
def State.retryColours (s : State) (asid : Nat) : State :=
  match s.pitch? asid with
  | none => s
  | some p =>
    p.lcores.foldl (fun s e =>
      match s.lc? asid e.1 with
      | none => s
      | some x =>
        let n := Nat.min (poolSize x.pool) (x.waitRing.filter (·.colour)).length
        if n = 0 then s
        else
          let t := poolTake n x.pool
          (((s.updLC asid e.1 (fun x => { x with pool := t.2 })).updPitch asid (fun p => p.refill e.1)).retryWith asid e.1
            (fun q => q.colour) ((poolList t.1).map .colour))) s

/-- A firing at issue gives back the allocation that its retry gave it, for its own operation to take (06 R158). -/
def State.giveBack (s : State) (f : Firing) : State :=
  match f.grant with
  | .none => s
  | .colour c => s.updLC f.asid f.lc (fun x => { x with pool := poolIns x.pool (c, c + 1) })
  | .inst => s.updRegs f.asid f.lc (tagColour f.tag) (fun r => { r with live := if r.live = 0 then 0 else r.live - 1 })

/-- What a free removes at one logical core: the cached copy, the copy area's entry, sticky and sequence entries, and
parked firings of the colour (09 R244). -/
def LCore.dropColour (x : LCore) (c : Nat) : LCore :=
  let hit (e : MEntry) : Bool :=
    (e.kind == .sticky || e.kind == .mergec || e.kind == .lbound) && tagColour e.tok.tag == c
  { x with cache := x.cache.filter (fun e => e.colour != c), copyArea := SMap.del x.copyArea c,
           ms := x.ms.filter (fun e => !hit e), ovf := x.ovf.filter (fun e => !hit e),
           waitRing := x.waitRing.filter (fun q => tagColour q.f.tag != c) }

/-- Free a colour at a logical core (09 R243, R244): it is allocated no longer; the region controllers' part follows
as COLOUR_RETURN. -/
def State.freeColour (s : State) (asid lc c : Nat) : State :=
  (s.updLC asid lc (fun x => x.dropColour c)).updPitch asid (fun p =>
    { p with colours := SMap.del p.colours c, freed := p.freed ++ [c] })

/-- Change LIVE of the firing's colour at its core. -/
def Ctx.setLive (c : Ctx) (g : BitVec 16 → BitVec 16) : State :=
  c.upd (fun x => x.updColour (tagColour c.f.tag) (fun r => { r with live := g r.live }))

/-- Create an iteration instance (09 R236). -/
def Ctx.createInst (c : Ctx) : State := c.setLive (· + 1)

/-- Retire an iteration instance, and retry the firings parked for one (09 R236). -/
def Ctx.retireInst (c : Ctx) : State :=
  (c.setLive (fun l => if l = 0 then 0 else l - 1)).retryTags c.f.asid c.f.lc (tagColour c.f.tag)

/-- The registers of a new colour from an allocation literal (09 Table 3): W clamped to MAXW. -/
def allocRegs (lit : Nat) (maxw : BitVec 6) (r : ColourRegs) : ColourRegs × Bool :=
  let fld (lo n : Nat) : Nat := lit / 2 ^ lo % 2 ^ n
  let w := if fld 4 6 = 0 then r.width.toNat else fld 4 6
  let limit : Nat := match fld 30 2 with | 0 => 0 | 1 => 16 | 2 => 256 | _ => r.limit.toNat
  ({ order := if fld 0 4 = 8 then r.order else BitVec.ofNat 3 (fld 0 4), width := BitVec.ofNat 6 (Nat.min w maxw.toNat),
     frame := BitVec.ofNat 14 (fld 16 14), shape := BitVec.ofNat 6 (fld 10 6), limit := BitVec.ofNat 16 limit, live := 0 },
   decide (maxw.toNat < w))

/-- The continuation of a CALL: the return destination resolved now (09 R242, Table 4). -/
def contOfCall (lc : Nat) (x : LCore) (p : Pitch) (v : NV) (tag : DWord) : BitVec 128 :=
  let mk (core node : Nat) (port : Bool) (vc : BitVec 3) (tc : BitVec 2) (act : BitVec 3) : BitVec 128 :=
    (0 : BitVec 25) ++ (1 : BitVec 1) ++ act ++ tc ++ vc ++ bit port ++ BitVec.ofNat 12 node ++ BitVec.ofNat 17 core ++ tag
  let unset : BitVec 128 := (0 : BitVec 64) ++ tag
  match v.dstB with
  | .node idx pt => mk lc idx.toNat pt 0 1 (actCode v.actB)
  | .route e =>
    let r := routeV (x.route e.toNat)
    if r.live p.n then mk r.core r.node r.port r.vc r.tc (if r.act = 6 then actCode v.actB else BitVec.ofNat 3 r.act)
    else unset
  | _ => unset

/-- Change a memory firing of a logical core by its number. -/
def LCore.updMem (x : LCore) (id : Nat) (g : MemAcc → MemAcc) : LCore :=
  { x with mem := x.mem.map (fun m => if m.id = id then g m else m) }

/-- Set the state of a tile; DONE stays (10 Table 9). -/
def LCore.setTile (x : LCore) (n : Nat) (st : TileState) : LCore := x.updTile n (fun t => { t with state := st })

/-- A run-ahead stream issues over a tile (10 Table 9). -/
def LCore.setSpec (x : LCore) (n : Nat) : LCore := x.updTile n (fun t => { t with state := .spec, done := false })

/-- The trap of a memory firing (04 R101). -/
def MemAcc.trapInfo (m : MemAcc) (cause : Cause) (detail : Nat) : TrapInfo :=
  { cause := cause, detail := detail, tag := m.fire.tag, node := m.fire.node, port := m.fire.port, opc := m.opc,
    a := some m.fire.a, b := m.fire.b, hb := m.hb }

/-- Pieces of `n` bytes from a pointer, each within one 64-byte line. -/
def pieces (fuel va n : Nat) : List (Nat × Nat) :=
  match fuel with
  | 0 => []
  | fuel + 1 =>
    if n = 0 then []
    else
      let m := Nat.min n (64 - va % 64)
      (va, m) :: pieces fuel (va + m) (n - m)

/-- The pieces of a range of any length. -/
def piecesOf (va n : Nat) : List (Nat × Nat) := pieces (n / 64 + 2) va n

/-- The pointer of row `r` of a stream (15 R378). -/
def StreamP.rowAddr (t : StreamP) (va r : Nat) : Nat :=
  (((va : Int) + (r : Int) * t.stride) % 18446744073709551616).toNat

/-- The line pieces of a stream's rows, one for each part of the access: row, offset in it, pointer, length. -/
def StreamP.linePieces (t : StreamP) (va : Nat) : List (Nat × Nat × Nat × Nat) :=
  (List.range t.rows).flatMap (fun r =>
    let a := t.rowAddr va r
    (piecesOf a (4 * t.roww)).map (fun e => (r, e.1 - a, e.1, e.2)))

/-- Fill a tile with the bytes of a stream's parts (15 R378, R379; 13 R335). -/
def LCore.fillParts (x : LCore) (m : MemAcc) (t : StreamP) : LCore :=
  (m.parts.zip (t.linePieces (tlane64 m.fire.a 0))).foldl (fun x e =>
    x.updTile t.tile (fun k => k.store (t.toff + 4 * t.roww * e.2.1 + e.2.2.1) e.1.data e.1.poison)) x

/-- Whether every part of a stream has its bytes. -/
def MemAcc.filled (m : MemAcc) : Bool := m.parts.all (fun p => p.stage == 4)

/-- The faults that a member's parts hold: one that a page made is held by each part of it, and is one fault (01 R32; DESIGN CHOICE,
log 96). -/
def MemAcc.heldFaults (m : MemAcc) : List (Cause × Nat) :=
  ((m.parts.filterMap (fun p => p.fault.map (fun e => (p.va / 4096, e)))).eraseDups).map (·.2)

/-- A stream whose parts all have their bytes: they fill its tile, which goes READY, and each fault held by a run-ahead fill is
raised as a trap (01 R32; 15 R379). -/
def State.fillStream (s : State) (asid lc : Nat) (m : MemAcc) (t : StreamP) : State :=
  m.heldFaults.foldl (fun s e => s.takeTrap asid lc (m.trapInfo e.1 e.2))
    (s.updLC asid lc (fun x => (x.fillParts m t).setTile t.tile .ready))

/-- A part that a held PAGE_FAULT stopped is fetched again once its stream is committed (01 R32). -/
def Part.refetch (p : Part) : Part :=
  if (p.fault.map (·.1)) = some .pageFault then { p with data := [], poison := false, stage := 0, fault := none } else p

/-- Commit a run-ahead stream (01 R31, R32; 10 Table 9): its tile is filled now, `aux` 3, if its fill is complete and holds no
PAGE_FAULT, and STREAM_COMPLETE binds it; else its tile is FILLING, `aux` 1, and what it lacks is fetched. -/
def State.commitStream (s : State) (asid lc : Nat) (m : MemAcc) (t : StreamP) : State :=
  let filled := match s.lc? asid lc with | some x => (x.tile t.tile).done | none => false
  if !filled || m.parts.any (fun p => (p.fault.map (·.1)) == some .pageFault) then
    s.updLC asid lc (fun x =>
      (x.setTile t.tile .filling).updMem m.id (fun m => { m with ra := .commit, aux := 1, parts := m.parts.map Part.refetch }))
  else
    (s.fillStream asid lc m t).updLC asid lc (fun x => x.updMem m.id (fun m => { m with ra := .commit, aux := 3 }))

/-- Resolve one run-ahead stream (01 R31, R32; 04 R104; 10 Table 9): committed or cancelled. -/
def State.resolveStream (s : State) (asid lc : Nat) (m : MemAcc) (t : StreamP) (commit : Bool) : State :=
  let upd (g : LCore → LCore) : State := s.updLC asid lc g
  match m.ra with
  | .wait =>
    if commit then upd (fun x => x.updMem m.id (fun m => { m with ra := .commit }))
    else upd (fun x => x.updMem m.id (fun m => { m with ra := .cancel, bound := true, replied := true }))
  | .ahead =>
    if commit then s.commitStream asid lc m t
    else
      upd (fun x => ((x.setTile t.tile .empty).updMem m.id
        (fun m => { m with ra := .cancel, bound := true, replied := true })).count
          (fun k => { k with raCancel := satInc k.raCancel }))
  | _ => s

/-- Resolve every run-ahead stream that a STEER governs: its node and tag (15 R380). `taken` is the predicate; none
resolves all as not taken (09 R233). -/
def State.resolveRa (s : State) (asid lc node : Nat) (tag : DWord) (taken : Option Bool) : State :=
  match s.lc? asid lc with
  | none => s
  | some x =>
    x.mem.foldl (fun s m =>
      match m.strm with
      | some t =>
        if t.snode = node ∧ m.fire.tag = tag ∧ (m.ra = .wait ∨ m.ra = .ahead) then
          s.resolveStream asid lc m t (match taken with | some b => t.spath == b | none => false)
        else s
      | none => s) s

end Sys2Proof.Machine
end

