-- ==== Sys2Proof/Machine/FlowOps.lean ====
section
/-! DEFINITION. The flow and tag group (09 R227 to R248). -/
namespace Sys2Proof.Machine

/-- Emit a unchanged to both destinations (09 R228). -/
def Ctx.passA (c : Ctx) (s : State) : FireRes := c.emitBoth s c.f.a.lanes c.f.a.poison

/-- PASS (09 R233). -/
def execPass (n : Node) (s : State) : Host.Outcome State Fault Refusal := fire (viewD 0x000 n) s (fun c => c.passA c.s)

/-- The predicate token: port b, or a under ARY 0 (09 R233). -/
def Ctx.predTok (c : Ctx) : Token := if c.v.ary = .dyad then c.bTok else c.f.a

/-- A predicate with .NEG applied (09 R233). -/
def Ctx.pred (c : Ctx) : Bool := (tlane c.predTok 0).getLsbD 0 != (c.v.bits 0 1 == 1)

/-- STEER (09 R233): resolves the run-ahead streams that name its node and tag, as not taken when it traps. -/
def execSteer (n : Node) (s : State) : Host.Outcome State Fault Refusal :=
  fire (viewD 0x001 n) s (fun c =>
    if c.predTok.poison then
      .trapWith (s.resolveRa c.f.asid c.f.lc c.f.node c.f.tag none) .poisonConsumed 0x01
    else
      let s' := c.s.resolveRa c.f.asid c.f.lc c.f.node c.f.tag (some c.pred)
      .done s' [if c.pred then c.outA c.f.a.lanes c.f.a.poison else c.outB c.f.a.lanes c.f.a.poison])

/-- MERGE (09 R234). -/
def execMerge (n : Node) (s : State) : Host.Outcome State Fault Refusal := fire (viewD 0x002 n) s (fun c => c.passA c.s)

/-- MERGEC (09 R234): its order is that of the matching store (OrderRule). -/
def execMergec (n : Node) (s : State) : Host.Outcome State Fault Refusal := fire (viewD 0x003 n) s (fun c => c.passA c.s)

/-- GATE (09 R233). -/
def execGate (n : Node) (s : State) : Host.Outcome State Fault Refusal :=
  fire (viewD 0x004 n) s (fun c =>
    if c.predTok.poison then .trap .poisonConsumed 0x01
    else if c.pred then c.passA c.s else .done c.s [])

/-- SYNC (09 R233). -/
def execSync (n : Node) (s : State) : Host.Outcome State Fault Refusal :=
  fire (viewD 0x005 n) s (fun c =>
    .done c.s [c.outA c.f.a.lanes c.f.a.poison, c.outB c.bTok.lanes c.bTok.poison])

/-- Emit a with another tag to both destinations. -/
def Ctx.passTag (c : Ctx) (s : State) (tag : DWord) : FireRes :=
  ({ c with tag := tag } : Ctx).passA s

/-- A loop instruction that makes an iteration instance under a changed tag (09 R236, R237). -/
def Ctx.enterLoop (c : Ctx) (f : List Nat → List Nat → Except Nat (List Nat)) : FireRes :=
  match retag c.ws c.f.tag f with
  | .error d => .trap .tagWrap d
  | .ok t => if quotaFree c.regs then c.passTag c.createInst t else .park false

/-- LENTER (09 R237). -/
def execLenter (n : Node) (s : State) : Host.Outcome State Fault Refusal :=
  fire (viewD 0x006 n) s (fun c =>
    c.enterLoop (fun ws vs =>
      match pushFields ws vs with
      | .error d => .error d
      | .ok r => setField0 ws r (c.v.bits 0 16)))

/-- LNEXT (09 R237). -/
def execLnext (n : Node) (s : State) : Host.Outcome State Fault Refusal :=
  fire (viewD 0x007 n) s (fun c => c.enterLoop incFields)

/-- LEXIT (09 R237). -/
def execLexit (n : Node) (s : State) : Host.Outcome State Fault Refusal :=
  fire (viewD 0x008 n) s (fun c =>
    match retag c.ws c.f.tag popFields with
    | .error d => .trap .tagWrap d
    | .ok t => c.passTag c.retireInst t)

/-- LBOUND (09 R238): its bound is that of the matching store (OrderRule). -/
def execLbound (n : Node) (s : State) : Host.Outcome State Fault Refusal := fire (viewD 0x009 n) s (fun c => c.passA c.s)

/-- LDONE (09 R237). -/
def execLdone (n : Node) (s : State) : Host.Outcome State Fault Refusal :=
  fire (viewD 0x00A n) s (fun c => c.passA c.retireInst)

/-- Allocate a colour by an allocation literal (09 R241); none when the pools are empty. -/
def Ctx.allocate (c : Ctx) (cont : BitVec 128) : Option (Nat × State) :=
  let (regs, clamped) := allocRegs (c.v.bits 0 32) (c.f.laneMax c.x) c.regs
  let s := if clamped then c.upd (fun x => { x with clamped := true }) else c.s
  s.allocColour c.f.asid c.f.lc regs cont

/-- CALL (09 R241, R242). -/
def execCall (n : Node) (s : State) : Host.Outcome State Fault Refusal :=
  fire (viewD 0x00B n) s (fun c =>
    match c.allocate (contOfCall c.f.lc c.x c.p c.v c.f.tag) with
    | none => .park true
    | some (k, s') => .done s' [{ c.outA c.f.a.lanes c.f.a.poison with tag := mkTag k 0 }])

/-- RET (09 R243). -/
def execRet (n : Node) (s : State) : Host.Outcome State Fault Refusal :=
  fire (viewD 0x00C n) s (fun c =>
    let colour := tagColour c.f.tag
    let k := c.p.contOf colour
    if colour = 0 then .trap .accessFault 0x21
    else if k.getLsbD 102 then
      let t := contToken c.f.asid k { c.f.a with mark := 0, eosl := 0 }
      .done ((c.s.sendCont c.f 0x00C t).freeColour c.f.asid c.f.lc colour) []
    else .trap .accessFault 0x24)

/-- CFREE (09 R243). -/
def execCfree (n : Node) (s : State) : Host.Outcome State Fault Refusal :=
  fire (viewD 0x00D n) s (fun c =>
    let colour := tagColour c.f.tag
    if colour = 0 then .trap .accessFault 0x21
    else c.passA (c.s.freeColour c.f.asid c.f.lc colour))

/-- TAGGET (09 R245). -/
def execTagget (n : Node) (s : State) : Host.Outcome State Fault Refusal :=
  fire (viewD 0x00E n) s (fun c =>
    let t := c.f.tag
    let lanes : List Word :=
      if c.v.bits 0 1 = 1 then [word ((stackFields c.ws (tagStack t)).getD (c.v.bits 1 3) 0)]
      else if c.v.bits 4 1 = 1 then [word (tagColour t)]
      else DWord.lanes t
    c.emitBoth c.s lanes c.f.a.poison)

/-- Whether a tag's colour is allocated and its stack within the colour's shape, as a core holds it (09 R246): the
DETAIL and cause of the fault otherwise. -/
def State.tagFault (s : State) (asid lc : Nat) (tag : DWord) : Option (Cause × Nat) :=
  match s.pitch? asid, s.colourRegs asid lc (tagColour tag) with
  | some p, some r =>
    if 2 ^ shapeBits (p.widths r.shape.toNat) ≤ tagStack tag then some (.tagWrap, 0x06) else none
  | _, _ => some (.accessFault, 0x22)

/-- TAGSET (09 R246). -/
def execTagset (n : NodeL) (s : State) : Host.Outcome State Fault Refusal :=
  fire (viewL 0x00F n) s (fun c =>
    let send (t : DWord) : FireRes :=
      match c.s.tagFault c.f.asid c.f.lc t with
      | some (cause, d) => .trap cause d
      | none => c.passTag c.s t
    if c.v.ary = .dyad then
      if c.bTok.poison then .trap .poisonConsumed 0x02
      else send (mkDWord (tlane c.bTok 0) (tlane c.bTok 1))
    else if c.v.bits 19 1 = 1 then send (mkTag (c.v.bits 20 16) (tagStack c.f.tag))
    else
      let f := c.v.bits 0 3
      let v := c.v.bits 3 16
      if c.ws.length ≤ f then .trap .tagWrap 0x05
      else if 2 ^ c.ws.getD f 0 ≤ v then .trap .tagWrap 0x04
      else
        c.passTag c.s (mkTag (tagColour c.f.tag) (fieldsStack c.ws (listSet (stackFields c.ws (tagStack c.f.tag)) f v))))

/-- EOS (09 R232): its tokens carry no POISON "whatever a holds", as an EOS firing's carry none; that R228 does not pass it on is the
model's reading (DESIGN CHOICE, log 97). -/
def execEos (n : Node) (s : State) : Host.Outcome State Fault Refusal :=
  fire (viewD 0x010 n) s (fun c =>
    let l := BitVec.ofNat 4 (c.v.bits 0 4)
    .done c.s [{ c.outA [] false with eos := some l }, { c.outB [] false with eos := some l }])

/-- SINK (09 R232). -/
def execSink (n : Node) (s : State) : Host.Outcome State Fault Refusal :=
  fire (viewD 0x011 n) s (fun c =>
    let l := c.v.bits 0 4
    let cnt := c.v.bits 8 16
    if isEos c.f.a ∧ c.f.a.eosl.toNat = l then
      let k := (SMap.get 0 c.x.cnt.sink c.f.node).toNat
      let k' := Nat.min (k + 1) 65535
      let s1 := c.upd (fun x => x.count (fun z => { z with sink := SMap.ins z.sink c.f.node (BitVec.ofNat 16 k') }))
      let key := (c.f.lc, c.f.node)
      if k < cnt ∧ k' = cnt ∧ ¬ c.p.sinksDone.contains key then
        c.emitBoth (s1.updPitch c.f.asid (fun p => { p with sinksDone := p.sinksDone ++ [key] })) [word cnt] false
      else .done s1 []
    else .done c.s [])

/-- PURGE (09 R247). -/
def execPurge (n : Node) (s : State) : Host.Outcome State Fault Refusal :=
  fire (viewD 0x012 n) s (fun c =>
    let node := c.v.bits 0 12
    let all := c.v.bits 13 1 == 1
    let pb := c.v.bits 12 1 == 1
    let s' := c.upd (fun x => x.purge c.ws node (all || !pb) (all || pb) c.f.tag)
    let mark (o : Out) : Out := if isEos c.f.a then { o with eos := some c.f.a.eosl } else o
    .done s' ((c.both c.f.a.lanes c.f.a.poison).map mark))

/-- TRAP (09 R248): the firing completes and its token to the trap sink is the trap (06 R177). -/
def execTrap (n : Node) (s : State) : Host.Outcome State Fault Refusal :=
  fire (viewD 0x013 n) s (fun c => .done c.s [c.outA c.f.a.lanes c.f.a.poison])

/-- BRK (09 R248). -/
def execBrk (n : Node) (s : State) : Host.Outcome State Fault Refusal :=
  fire (viewD 0x014 n) s (fun c =>
    if c.v.ary = .dyad ∧ c.bTok.poison then .trap .poisonConsumed 0x01
    else if c.v.ary = .dyad ∧ (tlane c.bTok 0).getLsbD 0 = false then c.passA c.s
    else .trap .brk (c.v.bits 0 16))

/-- EVENT (09 R248): the event to DSTA, a copy of a to DSTB. -/
def execEvent (n : Node) (s : State) : Host.Outcome State Fault Refusal :=
  fire (viewD 0x015 n) s (fun c => c.passA c.s)

end Sys2Proof.Machine
end

