-- ==== Sys2Proof/Machine/AccOps.lean ====
section
/-! DEFINITION. Accumulators, constants and status registers (05 R115 to R124; 04 R98 to R110). -/
namespace Sys2Proof.Machine

/-- A firing of the matrix chapter: a poisoned operand token traps (05 R116). -/
def Ctx.clean (c : Ctx) (k : FireRes) : FireRes := if c.poison then .trap .poisonConsumed 0 else k

/-- The accumulator that LIT[3:0] names. -/
def Ctx.accN (c : Ctx) : Nat := c.v.bits 0 4

/-- The initial value of ACCINIT (05 R117). -/
def accInit (mod : Nat) (t : ETyp) : Word :=
  match mod with
  | 1 => (match t with | .f32 => 0xFF800000 | .i32 => 0x80000000 | _ => 0)
  | 2 => (match t with | .f32 => 0x7F800000 | .i32 => 0x7FFFFFFF | _ => 0xFFFFFFFF)
  | _ => 0

/-- ACCINIT (05 R117). -/
def execAccinit (n : Node) (s : State) : Host.Outcome State Fault Refusal :=
  fire (viewD 0x1C0 n) s (fun c => c.clean (
    let acc := c.x.acc c.accN
    if acc.opn then .trap .accessFault 0x11
    else
      let val : SMap Word :=
        if c.v.mod = 3 then (c.f.a.lanes.zipIdx).foldl (fun m e => SMap.ins m e.2 e.1) acc.val
        else (List.range 32).map (fun i => (i, accInit c.v.mod.toNat c.v.typ))
      let acc' : Acc :=
        { val := val, part := [], opn := true, cnt := 0, len := word (c.v.bits 8 24),
          typ := BitVec.ofNat 4 (typCode c.v.typ) }
      c.passA ((c.upd (fun x => x.updAcc c.accN (fun _ => acc'))).releaseAll c.f.asid c.f.lc)))

/-- The lanes of a that an accumulating firing takes: whole jets at order d ≥ 1 for F32 (03 R80). -/
def Ctx.accLanes (c : Ctx) : Nat := if c.v.typ = .f32 then jetCount c.wa c.order * (c.order + 1) else c.wa

/-- The flag position of a lane (03 R92). -/
def Ctx.lanePos (c : Ctx) (i : Nat) : Nat := if c.v.typ = .f32 then i % (c.order + 1) else 0

/-- Add two lane values (05 R119). -/
def Ctx.accAdd (c : Ctx) (i x y : Nat) : Fr :=
  if c.v.typ = .f32 then Fr.at (c.lanePos i) (f32.add c.rnd x y) else ((x + y) % 4294967296, 0)

/-- The value lanes rebuilt from the partials (03 R79): (p0 + p1) + (p2 + p3). -/
def Ctx.combine (c : Ctx) (part : SMap Word) (i : Nat) : Fr :=
  let p (k : Nat) : Nat := (SMap.get 0 part (32 * k + i)).toNat
  let a := c.accAdd i (p 0) (p 1)
  let b := c.accAdd i (p 2) (p 3)
  let r := c.accAdd i a.1 b.1
  (r.1, a.2 ||| b.2 ||| r.2)

/-- Finish an accumulating firing: CNT advances; the firing that brings it to LEN closes the dimension and emits VAL
(05 R119), the lanes beyond the last whole jet among them, which 03 R80 would have as +0 (DESIGN CHOICE, log 85). -/
def Ctx.accFinish (c : Ctx) (acc : Acc) (flags : Nat) (close : Acc → Acc × Nat) : FireRes :=
  let acc := { acc with cnt := acc.cnt + 1 }
  let done := acc.cnt == acc.len
  let (acc, g) := if done then close { acc with opn := false } else (acc, 0)
  let s1 := (c.upd (fun x => (x.updAcc c.accN (fun _ => acc)).orFlags (flags ||| g))).releaseAll c.f.asid c.f.lc
  if done then c.emitBoth s1 ((List.range c.wa).map (fun i => SMap.get 0 acc.val i)) false else .done s1 []

/-- The checks of an accumulating firing (05 R119). -/
def Ctx.accCheck (c : Ctx) (k : Acc → FireRes) : FireRes :=
  let acc := c.x.acc c.accN
  c.clean (if acc.typ.toNat ≠ typCode c.v.typ then .trap .accessFault 0x12 else k acc)

/-- ACCADD (05 R119). -/
def execAccadd (n : Node) (s : State) : Host.Outcome State Fault Refusal :=
  fire (viewD 0x1C1 n) s (fun c => c.accCheck (fun acc =>
    let p := acc.cnt.toNat % 4
    let rs := (List.range c.accLanes).map (fun i => (i, c.accAdd i (SMap.get 0 acc.part (32 * p + i)).toNat (c.aLane i)))
    let part := rs.foldl (fun m e => SMap.ins m (32 * p + e.1) (word e.2.1)) acc.part
    c.accFinish { acc with part := part } (orAll (rs.map Prod.snd)) (fun acc =>
      let vs := (List.range 32).map (fun i => (i, c.combine acc.part i))
      ({ acc with val := vs.map (fun e => (e.1, word e.2.1)) }, orAll (vs.map Prod.snd)))))

/-- The value lanes of ACCMAX and ACCMIN: whole jets by c0, or integers (05 R119). -/
def Ctx.accPick (c : Ctx) (isMax : Bool) (acc : Acc) : SMap Word × Nat :=
  let v (i : Nat) : Nat := (SMap.get 0 acc.val i).toNat
  if c.v.typ = .f32 then
    let d := c.order
    (List.range (jetCount c.wa d)).foldl (fun (r : SMap Word × Nat) j =>
      let old := (List.range (d + 1)).map (fun k => v (j * (d + 1) + k))
      let y := jetPick isMax (c.v.mod == 1) d old (c.aJet d j)
      ((y.1.zipIdx).foldl (fun m e => SMap.ins m (j * (d + 1) + e.2) (word e.1)) r.1, r.2 ||| y.2)) (acc.val, 0)
  else
    let lt (x y : Nat) : Bool := decide (intVal c.v.typ x < intVal c.v.typ y)
    ((List.range c.wa).foldl (fun m i =>
      let x := v i
      let y := c.aLane i
      SMap.ins m i (word (if isMax then (if lt x y then y else x) else (if lt y x then y else x)))) acc.val, 0)

/-- ACCMAX (05 R119). -/
def execAccmax (n : Node) (s : State) : Host.Outcome State Fault Refusal :=
  fire (viewD 0x1C2 n) s (fun c => c.accCheck (fun acc =>
    let (val, g) := c.accPick true acc
    c.accFinish { acc with val := val } g (fun a => (a, 0))))

/-- ACCMIN (05 R119). -/
def execAccmin (n : Node) (s : State) : Host.Outcome State Fault Refusal :=
  fire (viewD 0x1C3 n) s (fun c => c.accCheck (fun acc =>
    let (val, g) := c.accPick false acc
    c.accFinish { acc with val := val } g (fun a => (a, 0))))

/-- ACCRD (05 R120). -/
def execAccrd (n : Node) (s : State) : Host.Outcome State Fault Refusal :=
  fire (viewD 0x1C4 n) s (fun c => c.clean (
    c.emitBoth c.s ((List.range (c.v.bits 4 6)).map (fun i => SMap.get 0 (c.x.acc c.accN).val i)) false))

/-- KRD (05 R122). -/
def execKrd (n : Node) (s : State) : Host.Outcome State Fault Refusal :=
  fire (viewD 0x1C5 n) s (fun c => c.clean (
    c.emitBoth c.s ((List.range (c.v.bits 6 6)).map (fun i => c.x.kreg (c.v.bits 0 6 + i))) false))

/-- KWR (05 R123). -/
def execKwr (n : Node) (s : State) : Host.Outcome State Fault Refusal :=
  fire (viewD 0x1C6 n) s (fun c => c.clean (
    let k := c.v.bits 0 6
    if c.x.reqConsts < k + c.wa ∧ c.wa ≠ 0 then .trap .accessFault 0x13
    else c.passA (c.upd (fun x =>
      { x with k := (c.f.a.lanes.zipIdx).foldl (fun m e => SMap.ins m (k + e.2) e.1) x.k }))))

/-- CORE_ROLE (04 R99). -/
def coreRole (f : Firing) (x : LCore) : Nat :=
  (match x.role with | .ag => 0 | .cp => 1 | .rd => 2) + (if x.host.doubled then 4 else 0) +
    (if x.host.half then 8 else 0) + 16 * (f.lc % 65536) + 1048576 * (f.asid % 4096)

/-- The view of the node that a firing names, its tile fields read from the record. -/
def tileView (x : LCore) (f : Firing) : Option NV :=
  let r := x.node f.node
  let b (lo n : Nat) : Nat := r.toNat / 2 ^ lo % 2 ^ n
  if recOpc r = 0x3FF then none
  else some { opc := recOpc r, typ := .n32, ary := .mono, tgo := .keep, mod := BitVec.ofNat 3 (b 74 3), dstA := .none,
              dstB := .none, actA := .pass, actB := .pass, lit := b 0 32,
              e1 := (x.node (f.node + 1)).toNat % 2 ^ 86, e2 := (x.node (f.node + 2)).toNat % 2 ^ 86 }

/-- Whether a firing waits for a tile: one that it names is not in the state that it needs (06 Table 5). -/
def tileHeld (x : LCore) (f : Firing) : Bool := match tileView x f with | some v => !x.tilesOk v f.lc | none => false

/-- Whether a firing waits for a tile to be READY (04 R100): one that waits for EMPTY or READY counts too, one that waits for EMPTY
alone does not (DESIGN CHOICE, log 98). -/
def waitsTile (x : LCore) (f : Firing) : Bool :=
  tileHeld x f && (match tileView x f with | some v => (tileNeeds v f.lc).empty.isEmpty | none => false)

/-- CORE_STAT of the physical core that hosts a logical core (04 R100), a snapshot of both halves of a doubled core (04 Table 1).
`issuing` counts the CSRRD itself, which stands in the ready queue until its cycle is over (04 R98). -/
def coreStat (s : State) (issuing : Nat) (p : Pitch) (x : LCore) : Nat :=
  let q := s.readyQ x.core
  let hosted := p.lcores.filter (fun e => e.2.core == x.core)
  let b (t : Bool) (k : Nat) : Nat := if t then 2 ^ k else 0
  let waits (p : LCore → Firing → Bool) : Bool := hosted.any (fun e => q.any (fun g => g.lc == e.1 && p e.2 g))
  Nat.min (q.length + issuing) 64 + 128 * Nat.min (hosted.foldl (fun a e => a + e.2.msUsed) 0) 1024 +
    b (hosted.any (fun e => !e.2.ovf.isEmpty || !e.2.chanOvf.isEmpty)) 18 + b (hosted.any (fun e => !e.2.waitRing.isEmpty)) 19 +
    b (waits (fun x g => (x.cached (tagColour g.tag)).isNone)) 20 + b (waits waitsTile) 21 + b p.reserveUsed 22

/-- TRAP_CAUSE (04 R101). -/
def trapCauseWord (t : TrapRegs) : Nat :=
  t.cause.toNat + (if t.valid then 256 else 0) + (if t.overrun then 512 else 0) + 65536 * t.detail.toNat

/-- Whether a job is a streaming job (05 Table 3). -/
def isStreaming (opc : Nat) : Bool := opc == 0x203 || opc == 0x204 || opc == 0x205 || opc == 0x206 || opc == 0x207

/-- ME_STAT (04 R110). -/
def meStat (k : Cluster) : Nat :=
  let b (t : Bool) (i : Nat) : Nat := if t then 2 ^ i else 0
  b (k.mq.any (fun j => j.started && isStreaming j.opc.toNat)) 0 + b k.wsload 1 + b k.wa.valid 2 + b k.ws.valid 3 +
    16 * k.wa.fmt.toNat + 512 * k.flags.toNat + 65536 * k.lastJob.toNat

/-- The lanes of the register of an index (04 Table 4), seen by a firing of a logical core whose colour has these
registers; `issuing` is 1 for a firing's own read (04 R98), 0 for one through the CORE block (04 R113). RA_CTL reads as it is held on
every role (DESIGN CHOICE, log 98). -/
def csrValue (s : State) (issuing : Nat) (f : Firing) (p : Pitch) (x : LCore) (r : ColourRegs) (i : Nat) : List Word :=
  match i with
  | 0x00 => [word (coreRole f x)]
  | 0x01 => [word (coreStat s issuing p x)]
  | 0x02 => [word (trapCauseWord x.trap)]
  | 0x03 => DWord.lanes x.trap.tag
  | 0x04 => [trapNode x.trap.node.toNat x.trap.port x.trap.opc]
  | 0x05 => [if x.role = .ag then x.waveBase else 0]
  | 0x06 => [x.raCtl.setWidth 32]
  | 0x07 => DWord.lanes x.ovfBase
  | 0x08 => [word (x.ovfSize.toNat + (if x.enlarged then 512 else 0))]
  | 0x09 => [word (x.maxw.toNat + (if x.clamped then 64 else 0))]
  | 0x10 => [r.order.setWidth 32]
  | 0x11 => [r.width.setWidth 32]
  | 0x12 => [r.frame.setWidth 32]
  | 0x13 => [r.shape.setWidth 32]
  | 0x14 => [word (r.limit.toNat + 65536 * r.live.toNat)]
  | _ => [word (meStat (s.cluster x.cluster))]

/-- The lanes that CSRRD gives for an index (04 Table 4). -/
def Ctx.csr (c : Ctx) (i : Nat) : List Word := csrValue c.s 1 c.f c.p c.x c.regs i

/-- CSRRD (05 R124). -/
def execCsrrd (n : Node) (s : State) : Host.Outcome State Fault Refusal :=
  fire (viewD 0x1C7 n) s (fun c => c.clean (c.emitBoth c.s (c.csr (c.v.bits 0 8)) false))

/-- Write a register by index: program-writable fields, W1C bits (04 Table 4). A write of RA_CTL off an AG core, or of ME_STAT
off a CP core, changes nothing (DESIGN CHOICE, log 36). -/
def Ctx.csrWrite (c : Ctx) (i : Nat) (v : Word) : State :=
  match i with
  | 0x02 => c.upd (fun x => { x with trap :=
      { x.trap with valid := x.trap.valid && !v.getLsbD 8, overrun := x.trap.overrun && !v.getLsbD 9 } })
  | 0x06 => if c.x.role = .ag then c.upd (fun x => { x with raCtl := v.extractLsb' 0 5 }) else c.s
  | 0x09 => c.upd (fun x => { x with maxw := v.extractLsb' 0 6, clamped := x.clamped && !v.getLsbD 6 })
  | 0x18 =>
    if c.x.role = .cp then c.s.updCluster c.x.cluster (fun k => { k with flags := k.flags &&& ~~~(v.extractLsb' 9 5) })
    else c.s
  | _ => c.s

/-- CSRWR (05 R124). -/
def execCsrwr (n : Node) (s : State) : Host.Outcome State Fault Refusal :=
  fire (viewD 0x1C8 n) s (fun c => c.clean (
    let v : Word := if c.v.mod = 1 then word (c.v.bits 8 24) else tlane c.f.a 0
    c.passA (c.csrWrite (c.v.bits 0 8) v)))

end Sys2Proof.Machine
end

