-- ==== Sys2Proof/Machine/Hosts.lean ====
section
/-! DEFINITION. Positions, dead cores and hosts: the computation of the mapping unit (01 R17, R18; 10 R261, R263, R265). -/
namespace Sys2Proof.Machine

/-- The core to whose router an optical port attaches (18 Table 1). -/
def portCore (n : Nat) : Nat × Nat :=
  let i := n % 16
  let along := 32 * (i / 2) + 8 + 16 * (i % 2)
  match n / 16 with
  | 0 => (255, along)
  | 1 => (255 - along, 255)
  | 2 => (0, 255 - along)
  | _ => (along, 0)

/-- Whether the installed copy of a remap entry is a RETIRE of a core (10 R264, R265). -/
def Remap.retires (e : Remap) (cx cy : Nat) : Bool :=
  let w0 := e.installed.getD 0 0
  let w1 := (e.installed.getD 1 0).toNat
  w0.toNat % 4 == 0 && w0.getLsbD 2 && w1 % 256 == cx && w1 / 256 % 256 == cy

/-- Whether a core is dead: on the fused exclusion list, or retired (01 R18). -/
def State.deadCore (s : State) (cx cy : Nat) : Bool :=
  let f := s.field (fieldOfCore cx cy)
  f.excl.contains (coreInField cx cy) || f.remap.any (fun e => e.2.retires cx cy)

/-- A rectangle with its map function (01 R17). `w` and `h` are in clusters as admitted. -/
structure Rect where
  kx0 : Nat
  ky0 : Nat
  w : Nat
  h : Nat
  scatter : Bool
  salt : BitVec 10
  deriving DecidableEq, Repr

/-- The rectangle of a pitch. -/
def Pitch.rect (p : Pitch) : Rect :=
  { kx0 := p.kx0, ky0 := p.ky0, w := p.w, h := p.h, scatter := p.scatter, salt := p.salt }

/-- The number of positions of a rectangle. -/
def Rect.n (r : Rect) : Nat := 8 * r.w * r.h

/-- The position of a logical core (01 R17). -/
def Rect.position (r : Rect) (i : Nat) : Nat :=
  if r.scatter then
    let b := i - i % 1024
    let j := i % 1024 ^^^ r.salt.toNat
    if b + j < r.n then b + j else i
  else i

/-- The physical core at a position. -/
def Rect.coreAt (r : Rect) (q : Nat) : Nat × Nat :=
  (2 * r.kx0 + q % (2 * r.w), 4 * r.ky0 + q / (2 * r.w))

/-- The logical core of a position, for either map function is its own inverse. -/
def Rect.lcoreAt (r : Rect) (q : Nat) : Nat := r.position q

/-- The positions of a rectangle whose cores are dead. -/
def State.deadAt (s : State) (r : Rect) : List Nat :=
  (List.range r.n).filter (fun q => let c := r.coreAt q; s.deadCore c.1 c.2)

/-- The first position from `q` on, wrapping, that is live and takes no chained logical core yet. -/
def firstHost (n : Nat) (dead taken : List Nat) (q : Nat) : Option Nat :=
  ((List.range n).map (fun i => (q + 1 + i) % n)).find? (fun p => !dead.contains p && !taken.contains p)

/-- The hosts of the dead positions, lowest first (01 R18): dead position and host position; none where one has no
host. -/
def chainFrom (n : Nat) (dead : List Nat) : List Nat → List (Nat × Nat) → Option (List (Nat × Nat))
  | [], acc => some acc
  | q :: r, acc =>
    match firstHost n dead (acc.map (·.2)) q with
    | none => none
    | some p => chainFrom n dead r (acc ++ [(q, p)])

/-- The chains of a rectangle. -/
def State.chainsOf (s : State) (r : Rect) : Option (List (Nat × Nat)) :=
  let d := s.deadAt r
  chainFrom r.n d d []

/-- The host that the computation gives a logical core (01 R18). -/
def Rect.hostOf (r : Rect) (chains : List (Nat × Nat)) (i : Nat) : HostRef :=
  let q := r.position i
  match chains.find? (fun e => e.1 == q) with
  | some (_, p) => { cx := (r.coreAt p).1, cy := (r.coreAt p).2, half := true, doubled := true }
  | none =>
    { cx := (r.coreAt q).1, cy := (r.coreAt q).2, half := false, doubled := chains.any (fun e => e.2 == q) }

/-- A host override in force for a logical core of a pitch (10 Table 5). -/
def Field.override (f : Field) (asid lc : Nat) : Option DWord :=
  (f.ovr.find? (fun e => e.2.getLsbD 0 && decide (e.2.toNat / 4 % 4096 = asid) &&
    decide (e.2.toNat / 16384 % 131072 = lc))).map (·.2)

/-- An override entry (10 Table 5). -/
def mkOvr (asid lc cx cy : Nat) (half blocked : Bool) : DWord :=
  BitVec.ofNat 64 (1 + 2 * blocked.toNat + 4 * asid + 16384 * lc + 2147483648 * cx + 549755813888 * cy
    + 140737488355328 * half.toNat)

/-- The field that contains a logical core's position. -/
def Pitch.posField (p : Pitch) (i : Nat) : Nat :=
  let c := p.rect.coreAt (p.rect.position i)
  fieldOfCore c.1 c.2

/-- The host that an override names (10 Table 5). -/
def ovrHost (w : DWord) (doubled : Bool) : HostRef :=
  { cx := w.toNat / 2147483648 % 256, cy := w.toNat / 549755813888 % 256, half := w.getLsbD 47, doubled := doubled }

/-- The host that the mapping unit gives a logical core (10 R263): that of its override, else its present one, else as computed. -/
def State.hostNow (s : State) (p : Pitch) (i : Nat) : HostRef :=
  let here := SMap.find p.lcores i
  match (s.field (p.posField i)).override p.launch.asid i, here with
  | some w, some x => ovrHost w x.host.doubled
  | some w, none => ovrHost w false
  | none, some x => x.host
  | none, none => p.rect.hostOf ((s.chainsOf p.rect).getD []) i

end Sys2Proof.Machine
end

