-- ==== Sys2Proof/Machine/Detour.lean ====
section
/-! DEFINITION. Router detours of the remap tables: which tokens one serves, the legs that it gives them, and when it may be
installed (10 R265, R266, R269; 06 R146). -/
namespace Sys2Proof.Machine

/-- A router or core of the mesh, by its column and row. -/
abbrev Router := Nat × Nat

/-- A detour: its dead router and its waypoints (10 R265). -/
structure Detour where
  router : Router
  way : List Router
  deriving DecidableEq, Repr

/-- The detour that words 1 and 2 of a remap entry describe (10 Table 7). -/
def detourOf (w1 w2 : DWord) : Detour :=
  { router := (w1.toNat % 256, w1.toNat / 256 % 256)
    way := (List.range (w1.toNat / 65536 % 8)).map (fun k => (w2.toNat / 65536 ^ k % 256, w2.toNat / 65536 ^ k / 256 % 256)) }

/-- The detour that a remap entry has installed. -/
def Remap.detour (r : Remap) : Option Detour :=
  let w (i : Nat) : DWord := r.installed.getD i 0
  if (w 0).getLsbD 2 ∧ (w 0).toNat % 4 = 1 then some (detourOf (w 1) (w 2)) else none

/-- The detours installed on the wafer. -/
def State.detours (s : State) : List Detour := s.fields.flatMap (fun f => f.2.remap.filterMap (fun e => e.2.detour))

/-- Whether a number lies between two others, in either order. -/
def between (a b x : Nat) : Bool := (decide (a ≤ x) && decide (x ≤ b)) || (decide (b ≤ x) && decide (x ≤ a))

/-- Whether a leg from `a` to `b`, x-then-y or y-then-x, enters a router. -/
def legEnters (xFirst : Bool) (a b r : Router) : Bool :=
  r != a &&
    (if xFirst then (r.2 == a.2 && between a.1 b.1 r.1) || (r.1 == b.1 && between a.2 b.2 r.2)
     else (r.1 == a.1 && between a.2 b.2 r.2) || (r.2 == b.2 && between a.1 b.1 r.1))

/-- The turn order of a leg (10 R266): x-then-y where that enters no dead router, else y-then-x; none where both do. -/
def legTurn (dead : List Router) (a b : Router) : Option Bool :=
  if !dead.any (legEnters true a b) then some true else if !dead.any (legEnters false a b) then some false else none

/-- Whether a detour serves a token (10 R266): its path of 06 R146, x-then-y, would enter the dead router. -/
def Detour.serves (d : Detour) (a b : Router) : Bool := legEnters true a b d.router

/-- The stops of a token: its source, the waypoints of the detour that serves it, its destination (10 R266). -/
def stops (ds : List Detour) (a b : Router) : List Router :=
  a :: ((match ds.find? (fun d => d.serves a b) with | some d => d.way | none => []) ++ [b])

/-- The legs between stops. -/
def legsOf : List Router → List (Router × Router)
  | a :: b :: r => (a, b) :: legsOf (b :: r)
  | _ => []

/-- The numbers after `a` up to `b`. -/
def stepsTo (a b : Nat) : List Nat :=
  if a ≤ b then (List.range (b - a)).map (fun i => a + 1 + i) else (List.range (a - b)).map (fun i => a - 1 - i)

/-- The routers that a leg enters, in order. -/
def legRouters (xFirst : Bool) (a b : Router) : List Router :=
  if xFirst then (stepsTo a.1 b.1).map (fun x => (x, a.2)) ++ (stepsTo a.2 b.2).map (fun y => (b.1, y))
  else (stepsTo a.2 b.2).map (fun y => (a.1, y)) ++ (stepsTo a.1 b.1).map (fun x => (x, b.2))

/-- A mesh channel: a link in one direction. -/
abbrev Channel := Router × Router

/-- The channel dependencies of a way: a flit that holds one channel waits for the next. -/
def wayDeps : List Router → List (Channel × Channel)
  | a :: b :: c :: r => ((a, b), (b, c)) :: wayDeps (b :: c :: r)
  | _ => []

/-- Whether dependencies are acyclic: dropping, again and again, those of channels that none leads to drops them all. -/
def acyclic (ds : List (Channel × Channel)) : Bool :=
  ((List.range ds.length).foldl (fun (l : List (Channel × Channel)) _ => l.filter (fun e => l.any (fun d => d.2 == e.1))) ds).isEmpty

/-- Every router of the wafer. -/
def allRouters : List Router := (List.range 65536).map (fun i => (i % 256, i / 256))

/-- The cores at which units other than cores attach to the mesh (01 R465; 18 R424): region controllers, meeting units, host ports
and optical ports. They stay attached when their core is dead. -/
def attachments : List Router :=
  (List.range 64).flatMap (fun f => [(32 * fieldX f + 16, 32 * fieldY f + 16), (32 * fieldX f + 15, 32 * fieldY f + 16)]) ++
    [(112, 0), (144, 0)] ++ (List.range 64).map portCore

/-- Whether some endpoint receives from `a` through the dead router of a detour. -/
def Detour.source (d : Detour) (ends : List Router) (a : Router) : Bool := ends.any (fun b => d.serves a b)

/-- As `Detour.source`, of a destination. -/
def Detour.dest (d : Detour) (ends : List Router) (b : Router) : Bool := ends.any (fun a => d.serves a b)

/-- Whether a leg between two waypoints of a detour has no turn order that enters no dead router. -/
def Detour.blocked (d : Detour) (dead : List Router) : Bool := (legsOf d.way).any (fun l => (legTurn dead l.1 l.2).isNone)

/-- Whether a detour serves traffic from or to an endpoint. -/
def Detour.hasPath (d : Detour) (ends : List Router) (c : Router) : Bool := d.source ends c || d.dest ends c

/-- Whether a detour cannot route the traffic of an endpoint (10 R266): its first or last leg, or one between waypoints, has no turn
order that avoids the dead routers. -/
def Detour.stuck (d : Detour) (dead ends : List Router) (c : Router) : Bool :=
  (d.source ends c && (legTurn dead c (d.way.headD c)).isNone) || (d.dest ends c && (legTurn dead (d.way.getLastD c) c).isNone) ||
    (d.blocked dead && d.hasPath ends c)

/-- The legs of a detour: from each source to the first waypoint, between waypoints, and from the last to each destination. -/
def Detour.legs (d : Detour) (ends : List Router) : List (Router × Router) :=
  (ends.filter (d.source ends)).map (fun c => (c, d.way.headD c)) ++ legsOf d.way ++
    (ends.filter (d.dest ends)).map (fun c => (d.way.getLastD c, c))

/-- The channel dependencies of the legs of a detour (10 R266), each leg by itself: 19 Table 2 holds a detour whose legs, joined at
their waypoints, would have a cycle (DEDUCED, log 57). -/
def Detour.deps (d : Detour) (dead ends : List Router) : List (Channel × Channel) :=
  (d.legs ends).flatMap (fun l => wayDeps (l.1 :: legRouters ((legTurn dead l.1 l.2).getD true) l.1 l.2))

/-- Whether the channel dependencies of the legs of detours are acyclic (10 R266). -/
def detoursFree (ds : List Detour) (ends : List Router) : Bool :=
  acyclic (ds.flatMap (fun d => d.deps (ds.map (·.router)) ends))

/-- Whether detours may stand together (10 R266): every leg that they give has a turn order that enters no dead router, and the
channel dependencies of all their legs are acyclic. -/
def detoursOk (ds : List Detour) (ends : List Router) : Bool :=
  ds.all (fun d => !ends.any (d.stuck (ds.map (·.router)) ends)) && detoursFree ds ends

/-- The waypoints that a region controller gives a detour that it installs by itself: the corners beside the dead router, on its east,
or on its west at the east edge (DESIGN CHOICE, log 57). -/
def wayRound (r : Router) : List Router :=
  let x := if r.1 < 255 then r.1 + 1 else r.1 - 1
  [(x, r.2 - 1), (x, Nat.min 255 (r.2 + 1))]

/-- Words 1 and 2 of the remap entry of a detour (10 Table 7). -/
def Detour.words (d : Detour) : DWord × DWord :=
  (BitVec.ofNat 64 (d.router.1 + 256 * d.router.2 + 65536 * d.way.length),
   BitVec.ofNat 64 (d.way.foldr (fun w a => w.1 + 256 * w.2 + 65536 * a) 0))

/-- The live cores of the wafer. -/
def State.liveCores (s : State) : List Router := allRouters.filter (fun c => !s.deadCore c.1 c.2)

/-- The sources and destinations of the mesh: live cores, and the units that attach at a core. -/
def State.endpoints (s : State) : List Router := s.liveCores ++ attachments

end Sys2Proof.Machine
end

