-- ==== Sys2Proof/Machine/MatrixOps.lean ====
section
/-! DEFINITION. The matrix engine: sums of fixed shape, its jobs' effects, and its steps (03 R77, R78; 05 R128 to R140;
04 R110). -/
namespace Sys2Proof.Machine

/-- The element format of a WAFMT code (04 Table 9). -/
def meFmt (c : Nat) : Fmt :=
  match c with
  | 0 => bf16 | 1 => e4m3 | 2 => e5m2 | 3 => e4m3 | 4 => e5m2 | 5 => e3m2 | 6 => e2m3 | _ => e2m1

/-- The element width of a WAFMT code. -/
def meBits (c : Nat) : Nat := match c with | 0 => 16 | 5 => 6 | 6 => 6 | 7 => 4 | _ => 8

/-- Scales of a column: NB of WLOADX (05 R133). -/
def meBlocks (c : Nat) : Nat := match c with | 7 => 24 | 5 => 16 | 6 => 16 | _ => 12

/-- The elements of 384 bytes, packed in order (03 R73). -/
def meElems (c : Nat) (bs : List Byte) : List FNum :=
  let v := natOfBytes bs
  let w := meBits c
  (List.range (3072 / w)).map (fun i => (meFmt c).dec (v / 2 ^ (w * i) % 2 ^ w))

/-- An exact product and its flags: infinity times zero is a NaN with INV (03 R78). -/
def prodN (x y : FNum) : FNum × Nat :=
  match x, y with
  | .nan a, .nan b => (.nan (a || b), 0)
  | .nan a, _ => (.nan a, 0)
  | _, .nan b => (.nan b, 0)
  | .inf a, .inf b => (.inf (a != b), 0)
  | .inf a, .fin b m _ => if m = 0 then (.nan false, fINV) else (.inf (a != b), 0)
  | .fin a m _, .inf b => if m = 0 then (.nan false, fINV) else (.inf (a != b), 0)
  | .fin a m e, .fin b n g => (.fin (a != b) (m * n) (e + g), 0)

/-- One node of the pair tree (03 R77). -/
def pairNode (x y : FNum × Nat) : FNum × Nat :=
  let r := f32.addN .rne x.1 y.1
  (f32.dec r.1, x.2 ||| y.2 ||| r.2)

/-- The root of the pair tree as F32, with its flags (03 R77). -/
def pairSum (l : List (FNum × Nat)) : Fr :=
  match pairTree pairNode 10 l with
  | r :: _ => let v := f32.conv .rne false true r.1; (v.1, r.2 ||| v.2)
  | [] => (0, 0)

/-- The leaf of one MX block: the exact sum of its products, scaled, rounded once (03 R78). -/
def mxLeaf (xs ws : List FNum) (sa sb : Nat) : FNum × Nat :=
  let ps := List.zipWith prodN xs ws
  let g := ps.foldl (fun a p => a ||| p.2 ||| p.1.inv) 0
  let anyInf (n : Bool) : Bool := ps.any (fun p => p.1 == .inf n)
  if sa = 255 ∨ sb = 255 ∨ ps.any (fun p => p.1.isNan) ∨ (anyInf true ∧ anyInf false) then (.nan false, g ||| fINV)
  else if anyInf true then (.inf true, g)
  else if anyInf false then (.inf false, g)
  else
    let sum := ps.foldl (fun (a : Option (Bool × Nat × Int)) p =>
      match a, p.1 with
      | none, .fin n m e => some (n, m, e)
      | some (n1, m1, e1), .fin n m e => some (addExact .rne n1 m1 e1 n m e)
      | a, _ => a) none
    match sum with
    | some (n, m, e) =>
      let r := f32.enc .rne false n m (e + (sa : Int) + (sb : Int) - 254)
      (f32.dec r.1, g ||| r.2)
    | none => (.fin false 0 0, g)

/-- The MX leaves of a row and a column: block `j` with its scales (05 R136). -/
def mxLeaves (fmt : Nat) (xs ws : List FNum) (sa sb : Nat → Nat) : List (FNum × Nat) :=
  (List.range (meBlocks fmt)).map (fun j =>
    mxLeaf ((xs.drop (32 * j)).take 32) ((ws.drop (32 * j)).take 32) (sa j) (sb j))

/-- A job's flags in the order of ME_STAT: INV, OF, UF, NX, PZ (04 Table 9, 05 Table 2). -/
def meFlags (g : Nat) (pz : Bool) : BitVec 5 :=
  let b (k : Nat) : Nat := g / k % 2
  BitVec.ofNat 5 (b fINV + 2 * b fOF + 4 * b fUF + 8 * b fNX + (if pz then 16 else 0))

/-- A byte of SCW, 0x7F where none is loaded (04 Table 1). -/
def Cluster.scwByte (k : Cluster) (i : Nat) : Nat := (SMap.get 0x7F k.scw i).toNat

/-- A byte of SCA, 0x7F where none is loaded (04 R111). -/
def Cluster.scaByte (k : Cluster) (i : Nat) : Nat := (SMap.get 0x7F k.sca i).toNat

/-- The elements of column `c` of WA. -/
def Cluster.waCol (k : Cluster) (c : Nat) : List FNum := meElems k.wa.fmt.toNat (SMap.getN 0 k.wa.bytes (384 * c) 384)

/-- The columns that a job writes: those of COLMASK for MMAX, all for the others (05 R135, R136). -/
def jobCols (v : NV) : List Nat :=
  (List.range 32).filter (fun c => v.opc != 0x205 || v.x2 c 1 == 1)

/-- The activation format of a job, as a WAFMT code (05 R135, R136). -/
def jobFmt (v : NV) : Nat := if v.opc = 0x205 then v.bits 21 3 else v.bits 21 2

/-- Stream one row of plane `p` of an MMA-family job (05 R135 to R137): the engine, and the job's flags so far. Poisoned weights
or scales set PZ here, where a row is streamed against them, and not when they are loaded (DESIGN CHOICE, log 87). -/
def mmaRow (v : NV) (t : Tile) (p : Nat) (cols : List (Nat × List FNum)) (kg : Cluster × BitVec 5) (r : Nat) :
    Cluster × BitVec 5 :=
  let k := kg.1
  let mx := v.opc == 0x205
  let n := v.bits 13 8 + 1
  let base := v.x1 0 15 + p * v.x1 31 15 + r * v.x1 15 15
  let row := v.bits 5 8 + p * n + r
  let ovw := v.x1 30 1 == 1
  let xs := meElems (jobFmt v) (t.read base 384)
  let out := cols.map (fun c =>
    let leaves := if mx then mxLeaves (jobFmt v) xs c.2 k.scaByte (fun j => k.scwByte (24 * c.1 + j))
      else List.zipWith prodN xs c.2
    let root := pairSum leaves
    if ovw then (c.1, root)
    else (c.1, Fr.andThen root (fun y => f32.add .rne (SMap.get 0 k.ap (32 * row + c.1)).toNat y)))
  let pz := t.poisonIn base 384 || k.wa.poison || (mx && k.scwPz)
  ({ k with
      ap := out.foldl (fun m e => SMap.put 0 m (32 * row + e.1) (word e.2.1)) k.ap
      apPz := if cols.isEmpty then k.apPz else if pz then addNat k.apPz row
        else if ovw then k.apPz.filter (· ≠ row) else k.apPz },
   kg.2 ||| meFlags (orAll (out.map Prod.snd)) pz)

/-- Stream plane `p` of an MMA-family job (05 R135). -/
def mmaPlane (v : NV) (t : Tile) (p : Nat) (k : Cluster) : Cluster × BitVec 5 :=
  let cols := (jobCols v).map (fun c => (c, k.waCol c))
  (List.range (v.bits 13 8 + 1)).foldl (mmaRow v t p cols) (k, 0)

/-- Load WS from 12 KiB of a tile (05 R132, R133); WLOADX writes SCW too. -/
def Cluster.loadWs (k : Cluster) (t : Tile) (off fmt : Nat) (mx : Bool) : Cluster :=
  let k := { k with ws := { bytes := SMap.putAll 0 [] 0 (t.read off 12288), fmt := BitVec.ofNat 3 fmt, valid := true,
                            poison := t.poisonIn off 12288 } }
  if mx then
    let nb := meBlocks fmt
    { k with
      scw := (List.range 32).foldl (fun m c => SMap.putAll 0x7F m (24 * c) (t.read (off + 12288 + nb * c) nb)) []
      scwPz := t.poisonIn (off + 12288) (32 * nb) }
  else k

/-- WSWAP (05 R134). -/
def Cluster.swapWs (k : Cluster) : Cluster :=
  let k := { k with wa := k.ws, ws := k.wa }
  if k.wa.fmt.toNat ≤ 2 then { k with scw := [], scwPz := false } else k

/-- The F32 values of an AP row. -/
def Cluster.apRow (k : Cluster) (r : Nat) : List Word := SMap.getN 0 k.ap (32 * r) 32

/-- APZERO (05 R138). -/
def Cluster.zeroAp (k : Cluster) (row n : Nat) : Cluster :=
  { k with ap := (List.range (32 * n)).foldl (fun m i => SMap.del m (32 * row + i)) k.ap,
           apPz := k.apPz.filter (fun r => !(decide (row ≤ r) && decide (r < row + n))) }

/-- APMV (05 R139): the rows to a tile, or to a route entry as tokens. -/
def State.apMove (s : State) (ci : Nat) (j : EJob) : State :=
  let v := j.view
  let k := s.cluster ci
  let row := v.bits 0 8
  (List.range (v.bits 8 8 + 1)).foldl (fun s r =>
    let ls := k.apRow (row + r)
    let pz := k.apPz.contains (row + r)
    if v.mod.toNat < 4 then
      s.updLC j.asid j.lc (fun x => x.updTile (v.bits 16 5) (fun t =>
        t.store (128 * (v.bits 21 8 + r)) (bytesOfLanes ls) pz))
    else
      let d : Dest := .route (BitVec.ofNat 10 (v.bits 16 10))
      s.sendTo (.matrix ci) j.asid j.lc 0 d j.rtE false j.fire.node j.fire.port j.opc j.fire.tag
        { dest := d, act := .pass, eos := none, poison := pz, lanes := ls,
          tag := withInner (s.widthsOf j.asid j.lc j.tagOut) j.tagOut r, code := 0, hb := s.liveHb j.fire.hb }) s

/-- The tile that a matrix command reads, and the tile that it writes (05 R126). -/
def matrixTiles (v : NV) (lc : Nat) : List Nat × List Nat :=
  let t := tileNeeds v lc
  (t.ready, t.free)

/-- Hold the tiles of a matrix job: DRAINING and FILLING (05 R126). -/
def LCore.holdTiles (x : LCore) (v : NV) (lc : Nat) (id : BitVec 16) : LCore :=
  let t := matrixTiles v lc
  t.2.foldl (fun x n => x.holdTile n .filling id 0) (t.1.foldl (fun x n => x.holdTile n .draining id 0) x)

/-- Release the tiles of a matrix job (05 R126, R130). -/
def LCore.dropTiles (x : LCore) (v : NV) (lc : Nat) : LCore :=
  let t := matrixTiles v lc
  (t.1 ++ t.2).foldl LCore.releaseTile x

/-- End a matrix job: its tiles, LASTJOB, C, its flags and its completion token (05 R126, R127, R140; 04 R110). The planes of an MMAJ
have shown their flags and have counted already (05 R128). -/
def State.endMatrixJob (s : State) (ci : Nat) (j : EJob) (fault : Option Nat) : State :=
  let counts := j.opc == 0x203 || j.opc == 0x205
  let s := s.updLC j.asid j.lc (fun x => x.dropTiles j.view j.lc)
  let s := s.updCluster ci (fun k =>
    { k with mq := dropJob k.mq j.id, lastJob := j.id,
             flags := if j.opc = 0x204 then k.flags else k.flags ||| j.flags,
             retired := if counts then k.retired + 1 else k.retired,
             wsload := if j.opc = 0x200 ∨ j.opc = 0x201 then false else k.wsload })
  s.completionToken .matrix ci j fault

/-- The check that a job's start fails, in R130's order. -/
def startFault (v : NV) (wa : Plane) : Option Nat :=
  let opc := v.opc
  let w := wa.fmt.toNat
  let f := jobFmt v
  if opc = 0x203 ∨ opc = 0x204 then
    (if !wa.valid then some 1 else if 3 ≤ w then some 4 else if (f = 0) ≠ (w = 0) then some 2 else none)
  else if opc = 0x205 then
    (if !wa.valid then some 1 else if w < 3 then some 4 else if meBlocks f ≠ meBlocks w then some 2 else none)
  else none

/-- Whether a granted job may start beside the started ones (05 Table 3). -/
def mayStart (opc : Nat) (q : List EJob) : Bool :=
  let run (p : Nat → Bool) : Bool := q.any (fun j => j.started && p j.opc.toNat)
  if opc = 0x200 then !run (fun o => o == 0x200 || o == 0x201 || o == 0x202)
  else if opc = 0x201 ∨ opc = 0x202 then !run (fun _ => true)
  else !run (fun o => isStreaming o || o == 0x201 || o == 0x202)

/-- Whether a pitch runs: it is loaded and neither halting nor saved (06 R180). -/
def State.running (s : State) (asid : Nat) : Bool :=
  match s.pitch? asid with | some p => p.st == .running | none => false

/-- MATRIX_JOB_START (05 R128, R130): the granted job starts when its conditions hold, or faults. -/
def execMatrixJobStart (cluster : Nat) (s : State) : Host.Outcome State Fault Refusal :=
  let k := s.cluster cluster
  .next (match k.mq.find? (fun j => j.granted && !j.started) with
  | none => s
  | some j =>
    if mayStart j.opc.toNat k.mq && s.running j.asid then
      match startFault j.view k.wa with
      | some d => (s.takeTrap j.asid j.lc (j.trapInfo .jobFault d)).endMatrixJob cluster j (some d)
      | none =>
        s.updCluster cluster (fun k =>
          { k with mq := setJob k.mq { j with started := true },
                   wsload := k.wsload || j.opc == 0x200 || j.opc == 0x201,
                   sca := if j.opc = 0x205 then
                       SMap.putAll 0x7F [] 0 (padTo 0xFF 24 (bytesOfLanes j.scale)) else k.sca })
    else s)

/-- MMAJ_PLANE_RETIRE (05 R128, R131, R135; 04 R111): the next plane of a started MMAJ becomes visible with its flags and counts in
C; with the last plane the job retires. From a halt on it finishes the one plane that it is streaming, and stops. -/
def execMmajPlaneRetire (cluster : Nat) (s : State) : Host.Outcome State Fault Refusal :=
  let k := s.cluster cluster
  .next (match k.mq.find? (fun j => j.started && j.opc == 0x204 && decide (j.prog ≤ j.order)) with
  | none => s
  | some j =>
    match s.lc? j.asid j.lc with
    | none => s
    | some x =>
      if j.stopped then s
      else
        let r := mmaPlane j.view (x.tile (j.view.bits 0 5)) j.prog k
        let j1 := { j with prog := j.prog + 1, flags := j.flags ||| r.2, stopped := !s.running j.asid }
        let s1 := s.setCluster cluster
          { r.1 with mq := setJob k.mq j1, retired := k.retired + 1, flags := k.flags ||| r.2 }
        if j.order < j1.prog then s1.endMatrixJob cluster j1 none else s1)

/-- The effect of a matrix job as it retires, and its flags (05 R132 to R139). -/
def State.matrixEffect (s : State) (ci : Nat) (j : EJob) (x : LCore) : State × BitVec 5 :=
  let v := j.view
  let k := s.cluster ci
  let t := x.tile (v.bits 0 5)
  match j.opc.toNat with
  | 0x200 => (s.setCluster ci (k.loadWs t (1024 * v.bits 5 5) (v.bits 10 3) false), 0)
  | 0x201 => (s.setCluster ci (k.loadWs t (1024 * v.bits 5 5) (v.bits 10 3) true), 0)
  | 0x202 => (s.setCluster ci k.swapWs, 0)
  | 0x203 => let r := mmaPlane v t 0 k; (s.setCluster ci r.1, r.2)
  | 0x205 => let r := mmaPlane v t 0 k; (s.setCluster ci r.1, r.2)
  | 0x206 => (s.setCluster ci (k.zeroAp (v.bits 0 8) (v.bits 8 8 + 1)), 0)
  | 0x207 => (s.apMove ci j, 0)
  | _ => (s, 0)

/-- MATRIX_JOB_RETIRE (05 R128): the effects, flags and count of a started job become visible together. An MMAJ retires with its
last plane (MMAJ_PLANE_RETIRE). -/
def execMatrixJobRetire (cluster i : Nat) (s : State) : Host.Outcome State Fault Refusal :=
  .next (match (s.cluster cluster).mq[i]? with
  | none => s
  | some j =>
    match s.lc? j.asid j.lc with
    | none => s
    | some x =>
      if j.started && j.opc != 0x204 then
        let r := s.matrixEffect cluster j x
        r.1.endMatrixJob cluster { j with flags := j.flags ||| r.2 } none
      else s)

/-- APPEEK_RESPONSE (05 R140): the row and the count together, to the reply destination's two ports. -/
def execAppeekResponse (cluster : Nat) (s : State) : Host.Outcome State Fault Refusal :=
  let k := s.cluster cluster
  .next (match k.peeks with
  | [] => s
  | j :: r =>
    let row := j.view.bits 0 8
    let s := s.setCluster cluster { k with peeks := r }
    (s.jobToken .matrix cluster j false (k.apRow row) (k.apPz.contains row)).jobToken .matrix cluster j true
      [k.retired, word k.lastJob.toNat] false)

/-- Whether a job with this id is outstanding at an engine of the cluster (or its field) that hosts a logical core
(05 R141). -/
def State.jobOut (s : State) (eng id : Nat) (x : LCore) : Bool :=
  let is (j : EJob) : Bool := j.id.toNat == id && !isQuery j.opc
  match eng with
  | 0 => (s.cluster x.cluster).mq.any is
  | 1 => (s.cluster x.cluster).cpq.any is
  | _ => (s.field x.field).mq.any is || (s.field x.field).mOut.any is

/-- JOBPOLL and JOBWAIT ask about the job of operand a (05 R141): none for an invalid engine or core. -/
def Ctx.askJob (c : Ctx) : Option Bool :=
  let id := c.aLane 0 % 65536
  let eng := c.aLane 0 / 65536 % 4
  let lc := c.aLane 1 % 131072
  if eng = 3 ∨ c.p.n ≤ lc then none
  else (s.lc? c.f.asid lc).map (fun x => !s.jobOut eng id x)
where s := c.s

/-- JOBPOLL (05 R141). -/
def execJobpoll (n : Node) (s : State) : Host.Outcome State Fault Refusal :=
  fire (viewD 0x209 n) s (fun c => c.clean (
    match c.askJob with
    | none => .trap .accessFault 0x15
    | some r => c.emitBoth c.s [if r then 1 else 0] false))

/-- JOBWAIT (05 R141). -/
def execJobwait (n : Node) (s : State) : Host.Outcome State Fault Refusal :=
  fire (viewD 0x20A n) s (fun c => c.clean (
    match c.askJob with
    | none => .trap .accessFault 0x15
    | some r => if r then c.passA c.s else .hold))

end Sys2Proof.Machine
end

