-- ==== Sys2Proof/Machine/MatrixCmds.lean ====
section
/-! DEFINITION. The commands of the matrix engine as a CP core issues them, their enqueue, and the grant of engine jobs
(05 R125 to R140; 06 R160, R161). -/
namespace Sys2Proof.Machine

/-- Whether a tile of a logical core exists and has a role. -/
def LCore.tileIs (x : LCore) (n : Nat) (r : TileRole) : Bool := decide (n < x.tileCount) && (x.tile n).role == r

/-- Send a command to the matrix engine of the firing's cluster, its tiles held (05 R126). -/
def Ctx.sendCmd (c : Ctx) (s : State) (j : EJob) : FireRes :=
  let s := s.updLC c.f.asid c.f.lc (fun x => (x.holdTiles c.v c.f.lc 0).perfEvent 0x0B 1)
  .done { s with cmds := s.cmds ++ [mkCmd .matrix c.x.cluster j] } []

/-- A matrix command at issue (05 R116, R126): the role of its tiles, room in the queue, their states. -/
def Ctx.matrixCmd (c : Ctx) (n : Node) (e1 e2 : BitVec 86) (k : (List Word → FireRes) → FireRes) : FireRes :=
  let t := matrixTiles c.v c.f.lc
  c.clean (
    if (t.1 ++ t.2).all (fun i => c.x.tileIs i .ab) then
      k (fun scale =>
        if c.s.queueRoom .matrix c.x.cluster c.f.asid c.f.lc (c.s.cluster c.x.cluster).mq && c.x.tilesOk c.v c.f.lc then
          c.sendCmd c.s (c.job n e1 e2 scale)
        else .hold)
    else .trap .accessFault 0x14)

/-- A matrix command without further conditions. -/
def Ctx.plainCmd (c : Ctx) (n : Node) (e1 e2 : BitVec 86) : FireRes := c.matrixCmd n e1 e2 (fun go => go [])

/-- WLOAD (05 R132). -/
def execWload (n : Node) (s : State) : Host.Outcome State Fault Refusal :=
  fire (viewD 0x200 n) s (fun c => c.plainCmd n 0 0)

/-- WLOADX (05 R133). -/
def execWloadx (n : Node) (s : State) : Host.Outcome State Fault Refusal :=
  fire (viewD 0x201 n) s (fun c => c.plainCmd n 0 0)

/-- WSWAP (05 R134). -/
def execWswap (n : Node) (s : State) : Host.Outcome State Fault Refusal :=
  fire (viewD 0x202 n) s (fun c => c.plainCmd n 0 0)

/-- MMA (05 R135). -/
def execMma (n : Node) (e1 : BitVec 86) (s : State) : Host.Outcome State Fault Refusal :=
  fire (viewX 0x203 n e1 0) s (fun c => c.plainCmd n e1 0)

/-- MMAJ (05 R135): the planes must fit the AP and the tile at the colour's order. -/
def execMmaj (n : Node) (e1 : BitVec 86) (s : State) : Host.Outcome State Fault Refusal :=
  fire (viewX 0x204 n e1 0) s (fun c =>
    let rows := c.v.bits 13 8 + 1
    let d := c.order
    c.matrixCmd n e1 0 (fun go =>
      if 256 < c.v.bits 5 8 + (d + 1) * rows ∨ 32768 < c.v.x1 0 15 + d * c.v.x1 31 15 + (rows - 1) * c.v.x1 15 15 + 384
      then .trap .jobFault 0x03
      else go []))

/-- MMAX (05 R136): it issues once its scale entry is present, and consumes it; what happens before the scale token happens before
its job (14 R358 link 2). -/
def execMmax (n : Node) (e1 e2 : BitVec 86) (s : State) : Host.Outcome State Fault Refusal :=
  fire (viewX 0x205 n e1 e2) s (fun c =>
    match c.x.takeFrom (scaleFor c.f.node c.f.tag) with
    | none => c.matrixCmd n e1 e2 (fun _ => .hold)
    | some (e, x') =>
      if e.tok.poison then .trap .poisonConsumed 0
      else
        let f := { c.f with a := { c.f.a with hb := hbJoin c.f.a.hb e.tok.hb } }
        let c' : Ctx := { c with s := c.upd (fun _ => x'), f := f }
        c'.matrixCmd n e1 e2 (fun go => go e.tok.lanes))

/-- APZERO (05 R138). -/
def execApzero (n : Node) (s : State) : Host.Outcome State Fault Refusal :=
  fire (viewD 0x206 n) s (fun c => c.plainCmd n 0 0)

/-- APMV (05 R139). -/
def execApmv (n : Node) (s : State) : Host.Outcome State Fault Refusal :=
  fire (viewD 0x207 n) s (fun c => c.plainCmd n 0 0)

/-- APPEEK (05 R140): it takes no queue entry. -/
def execAppeek (n : Node) (s : State) : Host.Outcome State Fault Refusal :=
  fire (viewD 0x208 n) s (fun c => c.clean (c.sendCmd c.s (c.job n 0 0 [])))

/-- ENGINE_COMMAND_ENQUEUE (05 R127; 06 R160): the oldest command of its source to its engine takes a queue entry and
the next job id, and the job-id token is sent. -/
def execEngineCommandEnqueue (k : Nat) (s : State) : Host.Outcome State Fault Refusal :=
  .next (match s.cmds[k]? with
  | none => s
  | some c =>
    if cmdFirst s.cmds k then
      let s := { s with cmds := listDrop s.cmds k }
      match c.eng with
      | .matrix =>
        if c.job.opc = 0x208 then s.updCluster c.unit (fun x => { x with peeks := x.peeks ++ [c.job] })
        else
          let j := { c.job with id := (s.cluster c.unit).nextJob }
          let s := s.updCluster c.unit (fun x => { x with nextJob := x.nextJob + 1, mq := x.mq ++ [j] })
          (s.updLC j.asid j.lc (fun x => x.holdTiles j.view j.lc j.id)).jobIdToken .matrix c.unit j
      | .copy =>
        let j := { c.job with id := (s.cluster c.unit).cpNext }
        let s := s.updCluster c.unit (fun x => { x with cpNext := x.cpNext + 1, cpq := x.cpq ++ [j] })
        (if isCopyCmd j.opc.toNat then s.updLC j.asid j.lc (fun x => x.holdCopy j.view (j.claims.contains j.lc) j.id) else s).jobIdToken
          .copy c.unit j
      | .meet =>
        if isQuery c.job.opc then s.updField c.unit (fun x => { x with mq := x.mq ++ [c.job] })
        else
        let j := { c.job with id := (s.field c.unit).mNext }
        let s := s.updField c.unit (fun x => { x with mNext := x.mNext + 1, mq := x.mq ++ [j] })
        s.jobIdToken .meet c.unit j
    else s)

/-- ENGINE_JOB_GRANT (06 R160, R161): engine 0 is the matrix engine, which grants while it holds no granted job that has
not started; engine 1 is the copy unit, which runs up to four jobs. The tiles of a matrix job are held (05 R131). -/
def execEngineJobGrant (cluster eng : Nat) (s : State) : Host.Outcome State Fault Refusal :=
  let k := s.cluster cluster
  .next (if eng = 0 then
    match pickHead k.mq k.mLast with
    | none => s
    | some g =>
      match k.mq[g]? with
      | none => s
      | some j =>
        if k.mq.any (fun j => j.granted && !j.started) ∨ !s.running j.asid then s
        else
          (s.setCluster cluster { k with mq := grantAt k.mq g, mLast := j.lc }).updLC j.asid j.lc
            (fun x => x.holdTiles j.view j.lc j.id)
  else
    match pickHead k.cpq k.cpLast with
    | none => s
    | some g =>
      match k.cpq[g]? with
      | none => s
      | some j =>
        if 4 ≤ (k.cpq.filter (·.granted)).length ∨ !s.running j.asid then s
        else s.setCluster cluster { k with cpq := grantAt k.cpq g, cpLast := j.lc })

end Sys2Proof.Machine
end

