-- ==== Sys2Proof/Machine/Wave.lean ====
section
/-! DEFINITION. The wave buffer as firings meet it at issue: chain members, their parts, chain instances, and the
misses of their translations (14 R350 to R352; 15 R371 to R374; 04 R103; 13 R344). -/
namespace Sys2Proof.Machine

/-- The alignment of a memory element (15 R374). -/
def memAlign (t : ETyp) : Nat := if is64 t then 8 else 4

/-- Parts for pieces of a range, each pointer checked (13 R338, R340), with the bytes to store. -/
def partsOf (colour : Nat) (poison : Bool) : List (Nat × Nat) → List Byte → Except Nat (List Part)
  | [], _ => .ok []
  | (va, n) :: r, data =>
    match checkPtr colour (va % 18446744073709551616) with
    | .error d => .error d
    | .ok (v, _) =>
      match partsOf colour poison r (data.drop n) with
      | .error d => .error d
      | .ok ps => .ok ({ va := v, pa := 0, len := n, data := data.take n, poison := poison, stage := 0 } :: ps)

/-- Parts for the pieces of a .RA stream: a piece whose pointer faults holds that fault, which its fetch meets (01 R32; 15 R380). -/
def raParts (colour : Nat) (l : List (Nat × Nat)) : List Part :=
  l.map (fun e =>
    let va := e.1 % 18446744073709551616
    match checkPtr colour va with
    | .ok (v, _) => { va := v, pa := 0, len := e.2, data := [], poison := false, stage := 0 }
    | .error d => { va := va, pa := 0, len := e.2, data := [], poison := false, stage := 0, fault := some (.accessFault, d) })

/-- The number that the next member of an AG core takes: above those of every logical core that it hosts, so that the numbers follow
the order of issue (14 R352). -/
def Pitch.nextMem (p : Pitch) (core : Nat) : Nat := p.lcores.foldl (fun n e => if e.2.core = core then Nat.max n e.2.memId else n) 0

/-- The chain member that a firing makes, its wave literal read (02 R40, 14 R350). -/
def Ctx.member (c : Ctx) (kind : AccKind) (lit scope : Nat) : MemAcc :=
  { id := c.p.nextMem c.x.core, fire := c.f, opc := c.v.opc, kind := kind, typ := c.v.typ, chain := lit / 2 ^ 24 % 16,
    own := lit / 2 ^ 8 % 256, pred := lit % 256, succ := lit / 2 ^ 16 % 256, acq := lit / 2 ^ 28 % 2 == 1,
    rel := lit / 2 ^ 29 % 2 == 1, scope := scope, tagOut := c.tag, dstA := c.v.dstA, dstB := c.v.dstB,
    actA := c.v.actA, actB := c.v.actB, rtA := c.x.destEntry c.v.dstA, rtB := c.x.destEntry c.v.dstB, parts := [], order := [],
    strm := none, ra := .none, was := .ready, hb := c.f.hb, aux := 0,
    entered := false, released := false, bound := false, replied := false }

/-- Whether a chain instance is that of a member (14 R350). -/
def ChainInst.isOf (i : ChainInst) (m : MemAcc) : Bool :=
  i.chain == m.chain && i.colour == tagColour m.fire.tag && i.stack == tagStack m.fire.tag

/-- Whether two members belong to one chain instance. -/
def MemAcc.sameInst (a b : MemAcc) : Bool := a.chain == b.chain && a.fire.tag == b.fire.tag

/-- Whether the member with these numbers is the next to enter an instance (14 R351). -/
def ChainInst.names (first : Nat) (i : ChainInst) (own pred : Nat) : Bool :=
  match i.last with
  | none => own == first
  | some (o, sc) => if sc = 0xFE then false else if sc = 0xFF then pred == o else own == sc

/-- WAVE_BASE.CHAIN_EN of a chain (04 R103). -/
def LCore.chainEn (x : LCore) (chain : Nat) : Bool := x.waveBase.getLsbD chain

/-- WAVE_BASE.FIRST. -/
def LCore.waveFirst (x : LCore) : Nat := x.waveBase.toNat / 65536 % 256

/-- WAVE_BASE.WINDOW. -/
def LCore.waveWindow (x : LCore) : Nat := x.waveBase.toNat / 16777216 % 64

/-- Put a member into the wave buffer, opening its chain instance where none is open (14 R350, R352). `tile` is what its
issue does to a tile. -/
def LCore.addMem (x : LCore) (m : MemAcc) (tile : LCore → LCore) : LCore :=
  let i : ChainInst := { chain := m.chain, colour := tagColour m.fire.tag, stack := tagStack m.fire.tag, last := none,
                         owns := [], hb := [], hbAcq := [] }
  let x := if x.insts.any (fun i => i.isOf m) then x else { x with insts := x.insts ++ [i] }
  tile { x with mem := x.mem ++ [m], memId := m.id + 1 }

/-- Whether the wave buffer takes a member (04 R103; 14 R352): its instance is open or the window has a place, and the buffer
has one or the member is next. -/
def LCore.windowOk (x : LCore) (m : MemAcc) : Bool :=
  let inst := x.insts.find? (fun i => i.isOf m)
  let next := match inst with
    | some i => i.names x.waveFirst m.own m.pred
    | none => m.own == x.waveFirst
  (inst.isSome || decide (x.insts.length < x.waveWindow)) && (next || decide ((x.mem.filter (fun m => !m.entered)).length < 256))

/-- A chain member at issue (04 R103; 14 R351, R352): its chain must be enabled and its own number new in its open
instance; it waits for a place in the window and in the wave buffer. -/
def Ctx.submit (c : Ctx) (m : MemAcc) (outs : List Out) (tile : LCore → LCore) : FireRes :=
  let x := c.x
  let inst := x.insts.find? (fun i => i.isOf m)
  if !x.chainEn m.chain then .trap .accessFault 0x01
  else if (match inst with | some i => i.owns.contains m.own | none => false) then .trap .accessFault 0x5B
  else
    if !x.windowOk m then .hold
    else .done (c.upd (fun x => x.addMem m tile)) outs

/-- A control operand: a poisoned one traps (15 R374). -/
def controlOk (t : Token) (k : FireRes) : FireRes := if t.poison then .trap .poisonConsumed 0x04 else k

/-- A member whose parts are given, or the ACCESS_FAULT of a pointer (13 R338, R340). -/
def Ctx.submitParts (c : Ctx) (m : MemAcc) (ps : Except Nat (List Part)) : FireRes :=
  match ps with
  | .error d => .trap .accessFault d
  | .ok ps => c.submit { m with parts := ps } [] id

/-- An access of `n` bytes at the address in a (15 R374, R376). -/
def Ctx.linear (c : Ctx) (m : MemAcc) (n : Nat) (data : List Byte) (poison : Bool) : FireRes :=
  let va := tlane64 c.f.a 0
  controlOk c.f.a (
    if va % memAlign c.v.typ ≠ 0 then .trap .align 0
    else c.submitParts m (partsOf (tagColour c.f.tag) poison (piecesOf va n) data))

/-- Elements of an LDG or STS (15 R376). -/
def Ctx.gathers (c : Ctx) : Nat := Nat.min (c.wa / 2) 16

/-- Parts of an LDG or STS: one for each element; ALIGN where an address is misaligned (15 R374, R376). -/
def Ctx.scattered (c : Ctx) (m : MemAcc) (data : List Byte) (poison : Bool) : FireRes :=
  let al := memAlign c.v.typ
  let as := (List.range c.gathers).map (fun j => tlane64 c.f.a (2 * j))
  controlOk c.f.a (
    if as.any (fun a => decide (a % al ≠ 0)) then .trap .align 0
    else c.submitParts m (partsOf (tagColour c.f.tag) poison (as.map (fun a => (a, al))) data))

/-- LD (15 R376). -/
def execLd (n : Node) (s : State) : Host.Outcome State Fault Refusal :=
  fire (viewD 0x240 n) s (fun c => c.linear (c.member .load c.v.lit c.v.mod.toNat) (4 * c.regs.width.toNat) [] false)

/-- ST (15 R376). -/
def execSt (n : Node) (s : State) : Host.Outcome State Fault Refusal :=
  fire (viewD 0x241 n) s (fun c =>
    c.linear (c.member .store c.v.lit c.v.mod.toNat) (4 * c.bTok.lanes.length) (bytesOfLanes c.bTok.lanes) c.bTok.poison)

/-- LDG (15 R376). -/
def execLdg (n : Node) (s : State) : Host.Outcome State Fault Refusal :=
  fire (viewD 0x242 n) s (fun c => c.scattered (c.member .load c.v.lit c.v.mod.toNat) [] false)

/-- STS (15 R376). -/
def execSts (n : Node) (s : State) : Host.Outcome State Fault Refusal :=
  fire (viewD 0x243 n) s (fun c =>
    let lanes := (List.range (c.gathers * memAlign c.v.typ / 4)).map (fun i => tlane c.bTok i)
    c.scattered (c.member .store c.v.lit c.v.mod.toNat) (bytesOfLanes lanes) c.bTok.poison)

/-- PREF at issue (15 R376): it raises no fault of any kind. One whose own number has entered its instance, or whose chain is not
enabled (04 R103), takes no place in the chain and prefetches nothing (DESIGN CHOICE, log 83). -/
def Ctx.submitPref (c : Ctx) (m : MemAcc) : FireRes :=
  let x := c.x
  let inst := x.insts.find? (fun i => i.isOf m)
  if !x.chainEn m.chain || (match inst with | some i => i.owns.contains m.own | none => false) then
    .done (c.upd (fun x => { x with mem := x.mem ++ [{ m with entered := true, parts := [] }], memId := m.id + 1 })) []
  else
    if !x.windowOk m then .hold
    else .done (c.upd (fun x => x.addMem m id)) []

/-- PREF (15 R376): no address of it faults. -/
def execPref (n : Node) (s : State) : Host.Outcome State Fault Refusal :=
  fire (viewD 0x246 n) s (fun c =>
    let m := c.member .pref c.v.lit c.v.mod.toNat
    let ps := if c.f.a.poison then [] else
      match partsOf (tagColour c.f.tag) false [(tlane64 c.f.a 0, 1)] [] with
      | .ok ps => ps
      | .error _ => []
    c.submitPref { m with parts := ps })

/-- FENCE (15 R384). -/
def execFence (n : Node) (s : State) : Host.Outcome State Fault Refusal :=
  fire (viewD 0x28A n) s (fun c => c.submit (c.member .fence c.v.lit c.v.mod.toNat) [] id)

/-- An atomic at issue (15 R382): its operands are the lanes of b. -/
def Ctx.atomic (c : Ctx) : FireRes :=
  if c.f.a.poison then .trap .poisonConsumed 0x04
  else if c.bTok.poison then .trap .poisonConsumed 0x05
  else
    let al := memAlign c.v.typ
    let va := tlane64 c.f.a 0
    if va % al ≠ 0 then .trap .align 0
    else
      c.submitParts (c.member .atomic c.v.lit c.v.mod.toNat)
        ((partsOf (tagColour c.f.tag) false [(va, al)] []).map (fun ps =>
          ps.map (fun p => { p with data := bytesOfLanes ((List.range 4).map (fun i => tlane c.bTok i)) })))

/-- AADD (15 R382). -/
def execAadd (n : Node) (s : State) : Host.Outcome State Fault Refusal := fire (viewD 0x280 n) s (fun c => c.atomic)
/-- AFADD (15 R382). -/
def execAfadd (n : Node) (s : State) : Host.Outcome State Fault Refusal := fire (viewD 0x281 n) s (fun c => c.atomic)
/-- AMIN (15 R382). -/
def execAmin (n : Node) (s : State) : Host.Outcome State Fault Refusal := fire (viewD 0x282 n) s (fun c => c.atomic)
/-- AMAX (15 R382). -/
def execAmax (n : Node) (s : State) : Host.Outcome State Fault Refusal := fire (viewD 0x283 n) s (fun c => c.atomic)
/-- AAND (15 R382). -/
def execAand (n : Node) (s : State) : Host.Outcome State Fault Refusal := fire (viewD 0x284 n) s (fun c => c.atomic)
/-- AOR (15 R382). -/
def execAor (n : Node) (s : State) : Host.Outcome State Fault Refusal := fire (viewD 0x285 n) s (fun c => c.atomic)
/-- AXOR (15 R382). -/
def execAxor (n : Node) (s : State) : Host.Outcome State Fault Refusal := fire (viewD 0x286 n) s (fun c => c.atomic)
/-- AXCHG (15 R382). -/
def execAxchg (n : Node) (s : State) : Host.Outcome State Fault Refusal := fire (viewD 0x287 n) s (fun c => c.atomic)
/-- ACAS (15 R382). -/
def execAcas (n : Node) (s : State) : Host.Outcome State Fault Refusal := fire (viewD 0x288 n) s (fun c => c.atomic)
/-- AINCB (15 R382). -/
def execAincb (n : Node) (s : State) : Host.Outcome State Fault Refusal := fire (viewD 0x289 n) s (fun c => c.atomic)

/-- The fields of a stream's extension record (15 Table 2). -/
def streamOf (v : NV) : StreamP :=
  let st := v.x1 40 24
  { tile := v.x1 0 5, toff := v.x1 5 15, roww := v.x1 20 11, rows := v.x1 31 9 + 1, stride := toS 24 st,
    token := v.x1 64 1 == 1, eosl := v.x1 65 4, eosen := v.x1 69 1 == 1, snode := v.x1 70 12, spath := v.x1 82 1 == 1 }

/-- Tiles of a logical core that are FILLING-speculative. -/
def LCore.specTiles (x : LCore) : Nat := (x.tiles.filter (fun e => e.2.state == .spec)).length

/-- RA_CTL.MAXSPEC as it acts (04 R104). -/
def LCore.maxSpec (x : LCore) : Nat := Nat.min 8 (x.raCtl.toNat / 2)

/-- A stream at issue (15 R378 to R380; 04 R104). -/
def Ctx.stream (c : Ctx) (kind : AccKind) : FireRes :=
  let t := streamOf c.v
  let va := tlane64 c.f.a 0
  let ra := c.v.bits 30 1 == 1
  controlOk c.f.a (
    if va % 4 ≠ 0 then .trap .align 0
    else if t.stride % 4 ≠ 0 then .trap .align 1
    else if !t.token ∧ !c.x.tileIs t.tile .ab then .trap .accessFault 0x60
    else
      let l := (t.linePieces va).map (fun e => e.2.2)
      match if ra ∧ kind = .strm ∧ !t.token then .ok (raParts (tagColour c.f.tag) l) else partsOf (tagColour c.f.tag) false l [] with
      | .error d => .trap .accessFault d
      | .ok ps =>
        if !c.x.tilesOk c.v c.f.lc then .hold
        else
          let m := { c.member kind c.v.lit c.v.mod.toNat with strm := some t, parts := ps, was := (c.x.tile t.tile).state }
          if kind = .strmst then c.submit m [] (fun x => x.setTile t.tile .draining)
          else if t.token then c.submit m [] id
          else if ra then
            let ahead := c.x.raCtl.getLsbD 0 && decide (c.x.specTiles < c.x.maxSpec)
            let outB : Out := c.outB [] false
            if ahead then c.submit { m with ra := .ahead } [outB] (fun x => x.setSpec t.tile)
            else c.submit { m with ra := .wait, aux := 2 } [outB] id
          else c.submit m [] (fun x => x.setTile t.tile .filling))

/-- STRM (15 R378 to R380). -/
def execStrm (n : Node) (e1 : BitVec 86) (s : State) : Host.Outcome State Fault Refusal :=
  fire (viewX 0x244 n e1 0) s (fun c => c.stream .strm)

/-- STRMST (15 R378, R379). -/
def execStrmst (n : Node) (e1 : BitVec 86) (s : State) : Host.Outcome State Fault Refusal :=
  fire (viewX 0x245 n e1 0) s (fun c => c.stream .strmst)

end Sys2Proof.Machine
end

