-- ==== Sys2Proof/Machine/Held.lean ====
section
/-! DEFINITION. Translation through the TLBs; homes, duplicates, and the writes that stand in store queues and cluster write
queues; which of them a read sees, and which happen before an access (13 R343, R344; 10 R276; 14 R348, R355, R358 to R362,
R367). -/
namespace Sys2Proof.Machine

/-- A translation of an access through TLBs (13 R343, R344, R346). -/
inductive Xl where
  | ok (pa : Nat) (t : TlbEntry)
  | miss
  | fault (detail : Nat)
  deriving DecidableEq, Repr

/-- What a TLB entry makes of an access, or the want of one (13 R343, R346). -/
def State.xlBy (s : State) (e : Option TlbEntry) (va : Nat) (write : Bool) : Xl :=
  match e with
  | none => .miss
  | some t =>
    if !t.u ∧ va < 72057594037927936 then .fault 0x52
    else if write ∧ !t.w then .fault 0x53
    else if !s.leafReach (t.addr va) t.u then .fault 0x56
    else if write ∧ t.pz then .fault 0x57
    else if write ∧ !t.d then .miss
    else .ok (t.addr va) t

/-- The TLB of the AG core that hosts a logical core (10 R276); other cores have none. -/
def State.agTlb (s : State) (x : LCore) : List TlbEntry := if x.role = .ag then SMap.get [] s.tlbs x.core else []

/-- Translate through the TLB of an AG core, then that of its cluster (13 R344). -/
def State.lookup (s : State) (asid : Nat) (x : LCore) (va : Nat) (write : Bool) : Xl :=
  s.xlBy (match tlbFind (s.agTlb x) asid (va / 4096) with
    | some t => some t
    | none => tlbFind (s.cluster x.cluster).tlb asid (va / 4096)) va write

/-- Translate the parts of a member: the parts with their addresses and the TLB entries used; `none` for a miss. -/
def State.xlParts (s : State) (asid : Nat) (x : LCore) (write : Bool) :
    List Part → Except (Option Nat) (List Part × List TlbEntry)
  | [] => .ok ([], [])
  | p :: r =>
    match s.lookup asid x p.va write with
    | .miss => .error none
    | .fault d => .error (some d)
    | .ok pa t =>
      match State.xlParts s asid x write r with
      | .error e => .error e
      | .ok (ps, ts) => .ok ({ p with pa := pa, poison := p.poison || (!write && t.pz) } :: ps, t :: ts)

/-- Whether two TLB entries map one page. -/
def TlbEntry.same (a b : TlbEntry) : Bool := a.asid == b.asid && a.vpn == b.vpn && a.level == b.level

/-- Note the use of a TLB entry (10 R276): the AG core's TLB holds it as the most recent; where it did not hold it before, that
is a miss there (16 R403), and the cluster's TLB, which did, holds it as its most recent. -/
def State.useEntry (s : State) (asid lc : Nat) (x : LCore) (t : TlbEntry) : State :=
  let s1 := if x.role = .ag then { s with tlbs := SMap.put [] s.tlbs x.core (tlbFill32 (s.agTlb x) t) } else s
  if (s.agTlb x).any (TlbEntry.same t) then s1
  else (s1.updCluster x.cluster (fun k => { k with tlb := tlbFillCluster k.tlb t })).updLC asid lc
    (fun x => if x.role = .ag then x.perfEvent 0x0D 1 else x)

/-- Note the use of TLB entries by an access of a logical core. -/
def State.useTlb (s : State) (asid lc : Nat) (x : LCore) (ts : List TlbEntry) : State :=
  ts.foldl (fun s t => s.useEntry asid lc x t) s

/-- A translation of an access of a logical core that ends in a fault: the region that it names is assigned (13 R322, R324), and a miss
in its core's TLB counts (16 R403). -/
def State.noteFault (s : State) (asid lc : Nat) (x : LCore) (va : Nat) : State :=
  match tlbFind (s.agTlb x) asid (va / 4096) with
  | some t => s.assign (t.addr va)
  | none =>
    let s1 := match tlbFind (s.cluster x.cluster).tlb asid (va / 4096) with | some t => s.assign (t.addr va) | none => s
    s1.updLC asid lc (fun x => if x.role = .ag then x.perfEvent 0x0D 1 else x)

/-- The translations of an access whose parts end in a fault: those before the fault are used, and the fault is noted. -/
def State.noteFaults (s : State) (asid lc : Nat) (x : LCore) (write : Bool) : List Part → State
  | [] => s
  | p :: r =>
    match s.lookup asid x p.va write with
    | .ok _ t => State.noteFaults (s.useEntry asid lc x t) asid lc x write r
    | .fault _ => s.noteFault asid lc x p.va
    | .miss => s

/-- Translate for an engine of a cluster, which starts at the cluster's TLB (13 R344): the address, whether the page is
poisoned, and the state with the entry the most recent; `none` for a miss. A write whose entry has D clear walks again and sets
D first (13 R346). -/
def State.xlEngine (s : State) (k asid va : Nat) (write win : Bool) : Except (Option Nat) (Nat × Bool × State) :=
  match tlbFind (s.cluster k).tlb asid (va / 4096) with
  | none => .error none
  | some t =>
    let renew (s : State) (t : TlbEntry) : State := s.updCluster k (fun c => { c with tlb := tlbFillCluster c.tlb t })
    if write ∧ !t.d then
      match s.translate (fieldOfCluster k) asid va true win false with
      | .ok (pa, pz, s1) => .ok (pa, pz, renew s1 { t with d := true })
      | .error e => .error e
    else match s.xlBy (some t) va write with
      | .ok pa t => .ok (pa, t.pz, renew (s.assign pa) t)
      | .miss => .error none
      | .fault d => .error (some d)

/-- The region of an engine access that a leaf or the region refuses is assigned all the same (13 R322, R324). -/
def State.noteEngine (s : State) (k asid va : Nat) : State :=
  match tlbFind (s.cluster k).tlb asid (va / 4096) with | some t => s.assign (t.addr va) | none => s

/-- The home of a physical address: a bank column, or a host port (14 R348). -/
def State.homeOf (s : State) (pa : Nat) : Nat :=
  match (s.assign pa).resolve pa with
  | .dram k c _ _ _ => 8 * k + c
  | .host p => 65536 + p / 1125899906842624 % 2
  | _ => 65538

/-- Whether `a` lies before `b` in the sequence window of R367. -/
def seqBelow (a b : BitVec 16) : Bool := a != b && decide ((b - a).toNat < 32768)

/-- The duplicate record of a source at a home. -/
def State.dupRec (s : State) (asid lc chain home : Nat) : Option DupRec :=
  s.dups.find? (fun d => d.asid == asid && d.lc == lc && d.chain == chain && d.home == home)

/-- Whether a request is a duplicate at its home (14 R367). -/
def State.isDup (s : State) (r : HReq) : Bool :=
  match s.dupRec r.asid r.lc r.chain (s.homeOf r.pa) with
  | none => false
  | some d => seqBelow r.seq d.floor || d.done.contains r.seq

/-- Whether a member is a store of rows or of lanes, which moves part by part through the store queue (14 R348). -/
def MemAcc.isQueued (m : MemAcc) : Bool := m.kind == .store || m.kind == .strmst

/-- Whether a part of a member has left the wave buffer and is not acknowledged (14 R367). -/
def MemAcc.partOut (m : MemAcc) (p : Part) : Bool :=
  if m.isQueued then decide (1 ≤ p.stage) && decide (p.stage < 3)
  else m.kind == .atomic && m.released && decide (p.stage < 4)

/-- Whether a home takes another store or atomic of a logical core: at most 256 are unacknowledged (14 R367). -/
def State.homeRoom (s : State) (x : LCore) (home : Nat) : Bool :=
  decide (x.mem.foldl (fun n m => n + (m.parts.filter (fun p => m.partOut p && s.homeOf p.pa == home)).length) 0 < 256)

/-- The stores and atomics of a source that it still holds for a home (14 R367). -/
def State.unacked (s : State) (asid lc chain home : Nat) : List HReq :=
  let held (r : HReq) : Bool := match s.lc? r.asid r.lc with
    | some x => x.mem.any (fun m => m.id == r.id && (match m.parts[r.part]? with | some p => m.partOut p | none => false))
    | none => false
  s.reqs.filter (fun r => (r.kind == .write || r.kind == .atomic) && !r.atHost && r.asid == asid && r.lc == lc &&
    r.chain == chain && s.homeOf r.pa == home && held r)

/-- A write held in a store queue or a cluster write queue: whose it is, its address, bytes, poison. -/
structure Pend where
  id : StoreId
  pa : Nat
  data : List Byte
  poison : Bool
  deriving DecidableEq, Repr

/-- The entries of a store queue, oldest first. -/
def LCore.sqPends (x : LCore) (asid lc : Nat) : List Pend :=
  x.sq.filterMap (fun e =>
    match x.mem.find? (fun m => m.id == e.1) with
    | some m => (m.parts[e.2]?).map (fun p => { id := (asid, lc, m.id), pa := p.pa, data := p.data, poison := p.poison })
    | none => none)

/-- The cluster of a logical core. -/
def State.lcCluster (s : State) (asid lc : Nat) : Nat := match s.lc? asid lc with | some x => x.cluster | none => 0

/-- The writes in a cluster's write queue, in order. -/
def State.cwqPends (s : State) (cluster : Nat) : List Pend :=
  (s.reqs.filter (fun r => r.kind == .write && !r.atHost && s.lcCluster r.asid r.lc == cluster && !s.isDup r)).map
    (fun r => { id := (r.asid, r.lc, r.id), pa := r.pa, data := r.data, poison := r.poison })

/-- Every write held in a cluster's queues (14 R348). -/
def State.clusterPends (s : State) (cluster : Nat) : List Pend :=
  s.cwqPends cluster ++
    s.pitches.flatMap (fun p => p.2.lcores.flatMap (fun e => if e.2.cluster = cluster then e.2.sqPends p.1 e.1 else []))

/-- Whether a write held in a cluster's queues touches a range. -/
def State.pending (s : State) (cluster pa n : Nat) : Bool :=
  (s.clusterPends cluster).any (fun w => overlaps w.pa w.data.length pa n)

/-- The newest held write to a byte: its value and poison. -/
def newest (ws : List Pend) (b : Nat) : Option (Byte × Bool) :=
  ws.foldl (fun acc w =>
    if w.pa ≤ b ∧ b < w.pa + w.data.length then some (w.data.getD (b - w.pa) 0, w.poison) else acc) none

/-- The held writes that a load of a core sees at CORE or CLUSTER scope, oldest first: its cluster's write queue, then its own
store queue (14 R348). -/
def State.seenPends (s : State) (asid lc : Nat) (x : LCore) : List Pend := s.cwqPends x.cluster ++ x.sqPends asid lc

/-- What a load of a core reads at CORE or CLUSTER scope: the newest of its store queue, its cluster write queue and the
home (14 R348). -/
def State.readThrough (s : State) (asid lc : Nat) (x : LCore) (pa n : Nat) : List Byte × Bool :=
  let ws := s.seenPends asid lc x
  let home := s.bytesAt pa n
  let got := (List.range n).map (fun i => (newest ws (pa + i), home.getD i 0))
  (got.map (fun g => match g.1 with | some v => v.1 | none => g.2),
   got.any (fun g => match g.1 with | some v => v.2 | none => false) ||
     (got.any (fun g => g.1.isNone) && s.poisonIn pa n))

/-- Whether a part of a store that is held somewhere is performed at a scope for a logical core (14 R348): at the home, in the
write queue of its cluster, or in its own store queue. -/
def State.seesPart (s : State) (asid lc : Nat) (x : LCore) (scope : Nat) (i : StoreId) (p : Part) : Bool :=
  decide (scope < 2) && ((p.stage == 2 && s.lcCluster i.1 i.2.1 == x.cluster) ||
    (p.stage == 1 && i.1 == asid && i.2.1 == lc && scope == 0))

/-- Whether an access at its home must wait for a store that happens before it (14 R359, R360): one to the same home; below
FIELD scope, one to the same bytes that its agent does not see. -/
def State.hbWaits (s : State) (asid lc : Nat) (x : LCore) (scope : Nat) (hb : List StoreId) (pa n : Nat) : Bool :=
  hb.any (fun i => (s.heldParts i).any (fun p =>
    if 2 ≤ scope then s.homeOf p.pa == s.homeOf pa
    else overlaps p.pa p.len pa n && !s.seesPart asid lc x 0 i p))

/-- Whether an access at a home must wait for a store that happens before it, or before its command, to the same home (14 R360,
R362). -/
def State.hbHolds (s : State) (hb : List StoreId) (pa : Nat) : Bool :=
  hb.any (fun i => (s.heldParts i).any (fun p => s.homeOf p.pa == s.homeOf pa))

/-- Whether every store that happens before a release is performed at its scope (14 R357, R358 link 3). -/
def State.hbDone (s : State) (asid lc : Nat) (x : LCore) (scope : Nat) (hb : List StoreId) : Bool :=
  (s.liveHb hb).all (fun i => (s.heldParts i).all (s.seesPart asid lc x scope i))

/-- A member learns that stores happen before what follows it (14 R358, R359): those whose bytes it read while they were held,
and for an acquire those that its release may have performed at its scope. An acquire orders every later access of its chain,
another load the later stores and fences. -/
def State.learn (s : State) (asid lc : Nat) (m : MemAcc) (all : Bool) (ids : List StoreId) : State :=
  let touches (e : MemAcc) : Bool :=
    e.id == m.id || (e.order.contains m.id && (all || e.kind == .store || e.kind == .strmst || e.kind == .atomic || e.kind == .fence))
  s.updLC asid lc (fun x =>
    { x with
        mem := x.mem.map (fun e => if touches e then { e with hb := hbJoin e.hb ids } else e)
        insts := x.insts.map (fun i =>
          if i.isOf m then { i with hb := hbJoin i.hb ids, hbAcq := if all then hbJoin i.hbAcq ids else i.hbAcq } else i) })

/-- What a load or atomic learns when it is bound: as an acquire at any scope, the stores performed for its core or its cluster and
not at their homes, which a release of CORE or CLUSTER scope that it synchronises with may have ordered (14 R349, R358). -/
def State.learnAcq (s : State) (asid lc : Nat) (x : LCore) (m : MemAcc) : State :=
  if m.acq then s.learn asid lc m true ((s.seenPends asid lc x).map (·.id)) else s

end Sys2Proof.Machine
end

