-- ==== Sys2Proof/Machine/MeetUnit.lean ====
section
/-! DEFINITION. Meetings at their home units: the collective rule entry, classification, the close of a round, and the
removal of a meeting (11 R279 to R293; 12 R309 to R311). -/
namespace Sys2Proof
open Sys2Proof.Machine

/-- A meeting of six entry words, as an image installs it (11 R280, R282). -/
def MeetingCfg.meeting (c : MeetingCfg) (asid : Nat) : Meeting :=
  let w (i : Nat) : DWord := c.words.getD i 0
  let rw := (w 2).toNat / 32768 % 16 + 1
  let low (x : DWord) (n : Nat) : DWord := BitVec.ofNat 64 (x.toNat % 2 ^ n)
  { w0 := w 0, w1 := BitVec.ofNat 64 ((w 1).toNat / 2 ^ rw * 2 ^ rw),
    w2 := BitVec.ofNat 64 ((w 2).toNat / 32768 * 32768 + (w 2).toNat % 8 / 2 * 2 + 8 * asid + 1), w3 := low (w 3) 63,
    w4 := low (w 4) 57, w5 := low (w 5) 54, round := BitVec.ofNat 32 ((w 0).toNat % 2 ^ rw), oncnt := if (w 2).getLsbD 1 then (w 2).toNat / 524288 % 1024 + 1 else 0, latecnt := 0, frozen := false,
    unreach := false, dup := 0, deadline := 0, remaining := 0, members := [], onTime := [], late := [], ahead := [],
    waiting := [], links := [] }

end Sys2Proof

namespace Sys2Proof.Machine

/-- The outcome of a unit's own memory access: done; a page with V = 0; a line that another engine owns; a fault. -/
inductive URes (α : Type) where
  | ok (a : α)
  | page (va : Nat)
  | wait
  | fault

/-- Continue with the value of an access. -/
def URes.bind {α β : Type} (r : URes α) (g : α → URes β) : URes β :=
  match r with | .ok a => g a | .page va => .page va | .wait => .wait | .fault => .fault

/-- The pieces of a range within 4 KiB pages. -/
def pagePieces (fuel va n : Nat) : List (Nat × Nat) :=
  match fuel with
  | 0 => []
  | fuel + 1 =>
    if n = 0 then []
    else
      let m := Nat.min n (4096 - va % 4096)
      (va, m) :: pagePieces fuel (va + m) (n - m)

/-- The cluster of the core at which a field's meeting unit attaches (01 R465). -/
def meetCluster (fi : Nat) : Nat := clusterOfCore (32 * fieldX fi + 15) (32 * fieldY fi + 16)

/-- Translate for a unit of field `fi`: an edge walker starts at the TLB of its cluster (13 R344); a meeting unit's own access is
translated by the field's walker. -/
def State.unitXl (s : State) (fi : Nat) (edge : Bool) (asid va : Nat) (write : Bool) : Except (Option Nat) (Nat × Bool × State) :=
  let win := decide (72057594037927936 ≤ va)
  if edge then s.xlEngine (meetCluster fi) asid va write win else s.translate fi asid va write win false

/-- Read pieces of an address space for a unit of field `fi`: bytes and poison. It waits for the writes to a piece's home that
happen before its command (14 R360). -/
def State.unitReadL (s : State) (fi : Nat) (edge : Bool) (asid : Nat) (hb : List StoreId) : List (Nat × Nat) → URes (State × List Byte × Bool)
  | [] => .ok (s, [], false)
  | (va, n) :: r =>
    match s.unitXl fi edge asid va false with
    | .error none => .page va
    | .error (some _) => .fault
    | .ok (pa, pz, s1) =>
      if s1.isOwned pa n ∨ s1.hbHolds hb pa then .wait
      else match State.unitReadL (s1.noteRange pa n) fi edge asid hb r with
        | .ok (s2, bs, p2) => .ok (s2, s1.bytesAt pa n ++ bs, pz || s1.poisonIn pa n || p2)
        | .page v => .page v
        | .wait => .wait
        | .fault => .fault

/-- Read `n` bytes for a unit. -/
def State.unitRead (s : State) (fi : Nat) (edge : Bool) (asid : Nat) (hb : List StoreId) (va n : Nat) : URes (State × List Byte × Bool) :=
  s.unitReadL fi edge asid hb (pagePieces (n / 4096 + 2) va n)

/-- Write bytes of an address space for a unit, piece by piece. -/
def State.unitWriteL (s : State) (fi : Nat) (edge : Bool) (asid : Nat) (hb : List StoreId) (poison : Bool) : List (Nat × Nat) → List Byte → URes State
  | [], _ => .ok s
  | (va, n) :: r, bs =>
    match s.unitXl fi edge asid va true with
    | .error none => .page va
    | .error (some _) => .fault
    | .ok (pa, _, s1) =>
      if s1.isOwned pa n ∨ s1.hbHolds hb pa then .wait
      else State.unitWriteL (s1.writeRange 65 pa (bs.take n) poison) fi edge asid hb poison r (bs.drop n)

/-- Write bytes for a unit. -/
def State.unitWrite (s : State) (fi : Nat) (edge : Bool) (asid : Nat) (hb : List StoreId) (va : Nat) (bs : List Byte) (poison : Bool) : URes State :=
  s.unitWriteL fi edge asid hb poison (pagePieces (bs.length / 4096 + 2) va bs.length) bs

/-- Bits `[lo + n - 1 : lo]` of a register. -/
def dbits (w : DWord) (lo n : Nat) : Nat := w.toNat / 2 ^ lo % 2 ^ n

/-- Fields of a collective rule entry (11 Table 2). -/
def Meeting.ring (m : Meeting) : Bool := m.w2.getLsbD 1
/-- Memory mode. -/
def Meeting.mem (m : Meeting) : Bool := m.w2.getLsbD 2
/-- The pitch of the owner. -/
def Meeting.asid (m : Meeting) : Nat := dbits m.w2 3 12
/-- RW, the width of the round field. -/
def Meeting.rw (m : Meeting) : Nat := dbits m.w2 15 4 + 1
/-- n, the number of members. -/
def Meeting.n (m : Meeting) : Nat := dbits m.w2 19 10 + 1
/-- k, the quorum. -/
def Meeting.k (m : Meeting) : Nat := dbits m.w2 29 10 + 1
/-- The operator. -/
def Meeting.op (m : Meeting) : Nat := dbits m.w2 39 3
/-- L, the lag limit. -/
def Meeting.lag (m : Meeting) : Nat := dbits m.w2 42 4
/-- D, the absence threshold. -/
def Meeting.abs (m : Meeting) : Nat := dbits m.w2 46 8
/-- The weight-table index of the pitch. -/
def Meeting.wt (m : Meeting) : Nat := dbits m.w2 54 5
/-- V, the lanes of a contribution. -/
def Meeting.v (m : Meeting) : Nat := dbits m.w2 59 5 + 1
/-- The round timeout or ring timeout. -/
def Meeting.timeout (m : Meeting) : Nat := dbits m.w3 0 32
/-- Rounds that may be contributed ahead. -/
def Meeting.aheadN (m : Meeting) : Nat := dbits m.w3 32 2
/-- The logical core that opened the meeting. -/
def Meeting.owner (m : Meeting) : Nat := dbits m.w3 42 17
/-- RQ. -/
def Meeting.rq (m : Meeting) : Nat := dbits m.w3 59 4
/-- The meeting buffer. -/
def Meeting.mbuf (m : Meeting) : Nat := dbits m.w4 0 57
/-- The destination logical core. -/
def Meeting.dcore (m : Meeting) : Nat := dbits m.w5 0 17
/-- C, elements or chunks. -/
def Meeting.count (m : Meeting) : Nat := dbits m.w5 30 16 + 1
/-- The meeting number. -/
def Meeting.mnum (m : Meeting) : Nat := dbits m.w5 46 8
/-- 2^RW. -/
def Meeting.span (m : Meeting) : Nat := 2 ^ m.rw
/-- The round-field value of the open round. -/
def Meeting.roundMod (m : Meeting) : Nat := m.round.toNat % m.span
/-- The emitted tag of the open round (11 R282). -/
def Meeting.tag (m : Meeting) : DWord := BitVec.ofNat 64 (m.w0.toNat / m.span * m.span + m.roundMod)

/-- The state of a member. -/
def Meeting.member (m : Meeting) (i : Nat) : Member := SMap.get Member.init m.members i

/-- Change the state of a member. -/
def Meeting.updMember (m : Meeting) (i : Nat) (g : Member → Member) : Meeting :=
  { m with members := SMap.put Member.init m.members i (g (m.member i)) }

/-- Member state as a word of the meeting buffer (11 Table 5). -/
def Member.word (x : Member) : Nat :=
  x.lag + 65536 * x.miss + 16777216 * x.absent.toNat + 33554432 * x.on.toNat + 4294967296 * (x.last % 4294967296)

/-- The round state of an entry (11 Table 3). -/
def Meeting.state (m : Meeting) : DWord :=
  BitVec.ofNat 64 (m.round.toNat + 2 ^ 32 * (m.oncnt % 2048) + 2 ^ 43 * (m.latecnt % 2048) + 2 ^ 54 * m.frozen.toNat
    + 2 ^ 55 * m.unreach.toNat + 2 ^ 56 * m.dup)

/-- The entry of a field's collective rule table. -/
def State.meeting? (s : State) (fi e : Nat) : Option Meeting := SMap.find (s.field fi).meet e

/-- Replace an entry. -/
def State.setMeeting (s : State) (fi e : Nat) (m : Meeting) : State :=
  s.updField fi (fun f => { f with meet := SMap.ins f.meet e m })

/-- Free an entry. -/
def State.delMeeting (s : State) (fi e : Nat) : State := s.updField fi (fun f => { f with meet := SMap.del f.meet e })

/-- The live meeting of a field with this pitch, number and owner (12 R312). -/
def Field.findMeet (f : Field) (asid mnum owner : Nat) : Option (Nat × Meeting) :=
  f.meet.find? (fun e => e.2.asid == asid && e.2.mnum == mnum && e.2.owner == owner)

/-- The field whose unit is the home of an owner's meetings. -/
def State.homeUnit (s : State) (asid owner : Nat) : Nat := match s.lc? asid owner with | some x => x.field | none => 0

/-- The timeout starts: the tick of the home field at which it expires. -/
def State.startTimeout (s : State) (fi : Nat) (m : Meeting) : Meeting :=
  { m with deadline := (s.field fi).time.toNat + m.timeout }

/-- An event of a meeting, recorded at its owner (11 R292, R293; 04 R101). No firing raises it: the node, port and
opcode, and the tag where none is stated, are free values (DESIGN CHOICE, log 13). -/
def State.quorumEvent (s : State) (m : Meeting) (cause : Cause) (detail : Nat) (tag : Option DWord) : State :=
  let c := s.freeCtr
  let w := Config.freeWord c
  ({ s with freeCtr := c + 3 }).raiseEvent m.asid m.owner
    { cause := cause, detail := detail, tag := tag.getD (mkDWord (Config.freeWord (c + 1)) (Config.freeWord (c + 2))),
      node := w.toNat % 4096, port := w.getLsbD 12, opc := w.extractLsb' 16 10, a := none, b := none }

/-- A trap at a logical core that no firing of it raised: its node, port, opcode and tag are free values (DESIGN CHOICE, log 13). -/
def State.coreTrap (s : State) (asid lc : Nat) (cause : Cause) (detail : Nat) : State :=
  let c := s.freeCtr
  let w := Config.freeWord c
  ({ s with freeCtr := c + 3 }).takeTrap asid lc
    { cause := cause, detail := detail, tag := mkDWord (Config.freeWord (c + 1)) (Config.freeWord (c + 2)),
      node := w.toNat % 4096, port := w.getLsbD 12, opc := w.extractLsb' 16 10, a := none, b := none }

/-- A trap at the owner of a meeting that no firing of it raised (11 R284). -/
def State.ownerTrap (s : State) (m : Meeting) (cause : Cause) (detail : Nat) : State :=
  s.coreTrap m.asid m.owner cause detail

/-- Whether two jobs of a local unit are one. -/
def sameJob (a b : EJob) : Bool := a.id == b.id && a.opc == b.opc && a.fire == b.fire

/-- Remove the first job of a list that is `j`. -/
def removeJob (l : List EJob) (j : EJob) : List EJob :=
  match l with
  | [] => []
  | x :: r => if sameJob x j then r else x :: removeJob r j

/-- A job leaves its local unit, the field `j.aux`. -/
def State.dropMeet (s : State) (j : EJob) : State :=
  s.updField j.aux (fun f => { f with mq := removeJob f.mq j, mOut := removeJob f.mOut j })

/-- Complete a meeting job (12 R308): it leaves its local unit, and its completion token is sent. -/
def State.endMeet (s : State) (j : EJob) (fault : Option Nat) : State :=
  (s.dropMeet j).completionToken .meet j.aux j fault

/-- A command that fails a check (12 R309). -/
def State.failMeet (s : State) (j : EJob) (detail : Nat) : State :=
  (s.takeTrap j.asid j.lc (j.trapInfo .jobFault detail)).endMeet j (some detail)

/-- Every contribution that a meeting holds. -/
def Meeting.held (m : Meeting) : List Contrib := m.onTime ++ m.late ++ m.ahead ++ m.waiting

/-- Whether a contribution's completion is still to be sent: in memory mode until its vector is read, and while it
waits unclassified (11 R291, R294). -/
def Meeting.owes (m : Meeting) (c : Contrib) : Bool := m.mem || m.waiting.contains c

/-- Remove a meeting: its held contributions are released with a DETAIL, and its walkers stop (11 R284, 12 R312). -/
def State.removeMeeting (s : State) (fi e : Nat) (m : Meeting) (detail : Nat) : State :=
  let s1 := (m.held.filter m.owes).foldl (fun s c => s.endMeet c.job (some detail)) s
  let mine (w : Walker) : Bool := w.asid == m.asid && w.mnum == m.mnum && w.owner == m.owner
  let s2 := s1.fields.foldl (fun s f =>
    f.2.walkers.foldl (fun s w =>
      if mine w.2 then
        (if w.2.job.stopped then s else s.endMeet w.2.job (some 0x45)).updField f.1 (fun f =>
          { f with walkers := SMap.del f.walkers w.1 })
      else s) s) s1
  let ofRing (a n o : Nat) : Bool := a == m.asid && n == m.mnum && o == m.owner
  { s2.delMeeting fi e with
      ring := s2.ring.filter (fun x => !ofRing x.asid x.mnum x.owner),
      ringCredit := s2.ringCredit.filter (fun x => !ofRing x.asid x.mnum x.owner),
      ringDead := s2.ringDead.filter (fun x => !ofRing x.asid x.mnum x.owner),
      ringQ := s2.ringQ.filter (fun x => !ofRing x.asid x.mnum x.owner) }

/-- An access of a meeting's unit that cannot be resolved: ACCESS_FAULT 0x41 at the owner, and the meeting is removed
(11 R284). -/
def State.meetFault (s : State) (fi e : Nat) : State :=
  match s.meeting? fi e with
  | none => s
  | some m => (s.ownerTrap m .accessFault 0x41).removeMeeting fi e m 0x41

/-- What a unit's step comes to: the state, a wait for a page, a wait for a line, or the fault of its meeting. -/
def State.unitStep (s : State) (fi asid e : Nat) (r : URes State) : State :=
  match r with
  | .ok s' => s'
  | .page va => s.missAt fi asid (va / 4096) (.meet fi e)
  | .wait => s
  | .fault => s.meetFault fi e

/-- Combine two terms (11 R288). -/
def meetOp (op x y : Nat) : Fr :=
  match op with
  | 2 => f32.minmax true false x y
  | 3 => f32.minmax false false x y
  | 4 => ((x + y) % 4294967296, 0)
  | 5 => (x ||| y, 0)
  | _ => f32.add .rne x y

/-- The identity of an operator. -/
def meetIdent (op : Nat) : Nat := match op with | 2 => 0xFF800000 | 3 => 0x7F800000 | _ => 0

/-- One element of a result from its terms, in order: a late term's weight, and its value (11 R288). -/
def combineElem (op : Nat) (terms : List (Option Nat × Nat)) : Fr :=
  let r := terms.foldl (fun (acc : Option Nat × Nat) t =>
    let v : Fr := match t.1 with | some w => f32.mul .rne w t.2 | none => (t.2, 0)
    match acc.1 with
    | none => (some v.1, acc.2 ||| v.2)
    | some x => let r := meetOp op x v.1; (some r.1, acc.2 ||| v.2 ||| r.2)) (none, 0)
  (r.1.getD (meetIdent op), r.2)

/-- Whether one contribution comes before another by member. -/
def insMember (c : Contrib) : List Contrib → List Contrib
  | [] => [c]
  | d :: r => if c.delta < d.delta ∨ (c.delta = d.delta ∧ c.member < d.member) then c :: d :: r else d :: insMember c r

/-- The terms of a round in the order of R288: on time by member, then late by δ and member. -/
def Meeting.terms (m : Meeting) : List Contrib := m.onTime.foldr insMember [] ++ m.late.foldr insMember []

/-- Elements of a vector's bytes: BF16 widened to F32 for BSUM, else words. -/
def vecElems (op : Nat) (bs : List Byte) : List Nat :=
  if op = 1 then (List.range (bs.length / 2)).map (fun i => 65536 * natOfBytes ((bs.drop (2 * i)).take 2))
  else (List.range (bs.length / 4)).map (fun i => natOfBytes ((bs.drop (4 * i)).take 4))

/-- Elements of a contribution in token mode (11 R288): a lane beyond its width reads as the identity. -/
def Meeting.tokElems (m : Meeting) (c : Contrib) : List Nat :=
  (List.range m.v).flatMap (fun i =>
    if i < c.lanes.length then
      let x := (c.lanes.getD i 0).toNat
      (if m.op = 1 then [x % 65536 * 65536, x / 65536 * 65536] else [x])
    else if m.op = 1 then [0, 0] else [meetIdent m.op])

/-- Elements of a result. -/
def Meeting.elems (m : Meeting) : Nat := if m.mem then m.count else if m.op = 1 then 2 * m.v else m.v

/-- Bytes of a member's vector in memory mode. -/
def Meeting.vecBytes (m : Meeting) : Nat := if m.op = 1 then 2 * m.count else 4 * m.count

/-- The values of the terms: those in memory are read; a poisoned contribution's vector is not (11 R291, 12 R311). -/
def State.readTerms (s : State) (fi : Nat) (m : Meeting) : List Contrib → URes (State × List (List Nat) × Bool)
  | [] => .ok (s, [], false)
  | c :: r =>
    let rest (s : State) (v : List Nat) (pz : Bool) : URes (State × List (List Nat) × Bool) :=
      (State.readTerms s fi m r).bind (fun q => .ok (q.1, v :: q.2.1, pz || q.2.2))
    if !m.mem then rest s (m.tokElems c) c.poison
    else if c.poison then rest s (List.replicate m.count (meetIdent m.op)) true
    else
      match checkPtr (tagColour c.job.tagOut) (tlane64 { c.job.fire.a with lanes := c.lanes } 0) with
      | .error _ => .fault
      | .ok (va, _) =>
        (s.unitRead fi false m.asid c.job.fire.hb va m.vecBytes).bind (fun q => rest q.1 (vecElems m.op q.2.1) q.2.2)

/-- Whether a table is the one that the logical cores of a group name by an index. -/
def WTab.is (t : WTab) (asid grp idx : Nat) : Bool := t.valid && t.asid == asid && t.grp == grp && t.idx == idx

/-- The field and number of the table that the logical cores of a group name by an index (11 R283). -/
def State.tableAt (s : State) (asid grp idx : Nat) : Option (Nat × Nat × WTab) :=
  s.fields.findSome? (fun f => (f.2.wtab.find? (fun t => t.2.is asid grp idx)).map (fun t => (f.1, t)))

/-- That table, or the one that a restored pitch keeps for want of a free one (DESIGN CHOICE, log 53). -/
def State.tableOf (s : State) (asid grp idx : Nat) : Option WTab :=
  match s.tableAt asid grp idx with
  | some t => some t.2.2
  | none => match s.pitch? asid with | some p => p.savedWt.find? (fun t => t.is asid grp idx) | none => none

/-- The group of a logical core: the field that hosted it when its configuration started. -/
def State.lcGroup (s : State) (asid lc : Nat) : Nat := match s.lc? asid lc with | some x => x.wgrp | none => 0

/-- The weight of a late term: that of the table of the owner's field, 1.0 where it has set none (11 R283). -/
def State.weight (s : State) (m : Meeting) (delta : Nat) : Nat :=
  match s.tableOf m.asid (s.lcGroup m.asid m.owner) m.wt with
  | some t => (t.w.getD (delta - 1) 0x3F800000).toNat
  | none => 0x3F800000

/-- Where a member is counted in a close: on time, and the δ of its late term. -/
def Meeting.codeOf (m : Meeting) (i : Nat) : Nat :=
  let on := m.onTime.any (fun c => c.member == i)
  match m.late.find? (fun c => c.member == i) with
  | some c => if on then 16 + c.delta else c.delta + 1
  | none => if on then 1 else if (m.member i).absent then 0x80 else 0

/-- A bitmap of the members that meet a test. -/
def bitmap (n : Nat) (p : Nat → Bool) : Nat := (List.range n).foldl (fun a i => if p i then a + 2 ^ i else a) 0

/-- The words of a bit string. -/
def wordsOf (k x : Nat) : List Word := (List.range k).map (fun i => word (x / 2 ^ (32 * i)))

/-- The address of the roster record of the open round (11 R290). -/
def Meeting.rosterAt (m : Meeting) : Nat := m.mbuf + 0x4000 + 0x800 * m.n + 0x800 * (m.round.toNat % 2 ^ m.rq)

/-- Lane 1 of the roster token (11 Table 6). -/
def Meeting.lane1 (m : Meeting) (forced : Bool) (on late : Nat) (flags : BitVec 5) : Nat :=
  on + 2048 * late + 4194304 * forced.toNat + 8388608 * (decide (64 < m.n)).toNat + 16777216 * flags.toNat

/-- The lanes of the roster token of a quorum round (11 Table 6). -/
def Meeting.roster (m : Meeting) (lane1 : Nat) : List Word :=
  let n := m.n
  if 64 < n then [m.round, word lane1] ++ DWord.lanes (BitVec.ofNat 64 m.rosterAt) ++ List.replicate 8 0
  else
    let late (i : Nat) : Option Contrib := m.late.find? (fun c => c.member == i)
    let ds := (List.range n).foldl (fun a i => match late i with | some c => a + (c.delta - 1) * 2 ^ (3 * i) | none => a) 0
    [m.round, word lane1] ++ wordsOf 2 (bitmap n (fun i => m.onTime.any (fun c => c.member == i))) ++
      wordsOf 2 (bitmap n (fun i => (late i).isSome)) ++ wordsOf 6 ds

/-- Send a token of a meeting to its destination (11 R289). One that cannot be sent is counted and its event recorded
at the owner. No firing sent one that leaves the wafer: the node it would name is a free value (DESIGN CHOICE, log 13). -/
def State.meetToken (s : State) (fi : Nat) (m : Meeting) (hb : List StoreId) (flip : Bool) (lanes : List Word) (poison : Bool) : State :=
  let n := match s.pitch? m.asid with | some p => p.n | none => 0
  let o : Out := { dest := .none, act := .pass, eos := none, poison := poison, lanes := lanes, tag := m.tag, code := 0, hb := s.liveHb hb }
  if 65536 ≤ m.dcore ∨ m.dcore < n then
    ({ s with freeCtr := s.freeCtr + 1 }).sendAs (some (m.owner, Config.freeWord s.freeCtr)) (.meet fi) (coreDst m.asid m.dcore)
      (mkToken m.asid m.dcore (dbits m.w5 17 12) (m.w5.getLsbD 29 != flip) (BitVec.ofNat 3 (dbits m.w3 39 3))
        (BitVec.ofNat 3 (dbits m.w3 34 3)) (BitVec.ofNat 2 (dbits m.w3 37 2)) o)
  else
    (s.updLC m.asid m.owner (fun x => x.count (fun c => { c with ucdrop := satInc c.ucdrop }))).quorumEvent m
      .unconfigured 0 (some m.tag)

/-- Count a miss of member `i`; it becomes ABSENT when its misses reach D (11 R292). -/
def State.missMember (s : State) (m : Meeting) (i : Nat) : State × Meeting :=
  let x := m.member i
  let miss := Nat.min 255 (x.miss + 1)
  let absent := decide (1 ≤ m.abs) && decide (m.abs ≤ miss)
  let m' := m.updMember i (fun x => { x with miss := miss, absent := x.absent || absent })
  (if absent && !x.absent then s.quorumEvent m .quorumAbsent i none else s, m')

/-- Count a miss of every member with ON = 0. -/
def State.missAll (s : State) (m : Meeting) : State × Meeting :=
  (List.range m.n).foldl (fun (p : State × Meeting) i =>
    if (m.member i).on then p else p.1.missMember p.2 i) (s, m)

/-- Write the whole member table (11 R284). -/
def State.writeMembers (s : State) (fi : Nat) (m : Meeting) : URes State :=
  s.unitWrite fi false m.asid [] m.mbuf ((List.range m.n).flatMap (fun i => bytesOfNat 8 (m.member i).word)) false

/-- Write one member's state. -/
def State.writeMember (s : State) (fi : Nat) (m : Meeting) (i : Nat) : URes State :=
  s.unitWrite fi false m.asid [] (m.mbuf + 8 * i) (bytesOfNat 8 (m.member i).word) false

/-- In memory mode, write the result at RESULT; the result token's lanes (11 R289, R291). -/
def State.writeResult (s : State) (fi : Nat) (m : Meeting) (hb : List StoreId) (y : List Nat) (pz : Bool) : URes (State × List Word) :=
  if m.mem then
    (s.unitRead fi false m.asid [] (m.mbuf + 0x2000) 8).bind (fun q =>
      match checkPtr (tagColour m.w0) (natOfBytes q.2.1) with
      | .error _ => .fault
      | .ok (va, _) =>
        (q.1.unitWrite fi false m.asid hb va (y.flatMap (fun v => bytesOfNat 4 v)) pz).bind (fun s' =>
          .ok (s', lanesOfBytes 2 q.2.1)))
  else .ok (s, y.map word)

/-- The open round closes (11 R287 steps 1 to 6): it is combined, the roster record and the result are written, the
tokens are sent, misses count, and the next round opens. In memory mode the counted contributions complete. -/
def State.closeRound (s : State) (fi e : Nat) (m : Meeting) (forced : Bool) : URes State :=
  let ts := m.terms
  let hb := ts.foldl (fun l c => hbJoin l c.job.fire.hb) []
  (s.readTerms fi m ts).bind (fun q =>
    let tv := ts.zip q.2.1
    let ys := (List.range m.elems).map (fun i =>
      combineElem m.op (tv.map (fun p =>
        (if p.1.delta ≠ 0 ∧ m.op ≤ 1 then some (s.weight m p.1.delta) else none, p.2.getD i 0))))
    let pz := q.2.2
    let lane1 := m.lane1 forced m.onTime.length m.late.length (meFlags (orAll ys) pz)
    let rec0 := bytesOfNat 8 m.round.toNat ++ bytesOfNat 4 lane1 ++ List.replicate 52 0 ++
      (List.range m.n).map (fun i => BitVec.ofNat 8 (m.codeOf i))
    (q.1.unitWrite fi false m.asid [] m.rosterAt rec0 false).bind (fun s1 =>
      (s1.writeResult fi m hb (ys.map Prod.fst) pz).bind (fun r =>
        let s2 := (r.1.meetToken fi m hb false r.2 (pz && !m.mem)).meetToken fi m hb true (m.roster lane1) false
        let s3 := if m.mem then ts.foldl (fun s c => s.endMeet c.job none) s2 else s2
        let p := s3.missAll m
        let off (e : Nat × Member) : Nat × Member := (e.1, { e.2 with on := false })
        let m2 := { p.2 with members := (p.2.members.map off).filter (fun e => e.2 != Member.init), round := m.round + 1, oncnt := 0,
                             latecnt := 0, unreach := false, onTime := [], late := [] }
        let m3 := p.1.startTimeout fi m2
        ((p.1.setMeeting fi e m3).writeMembers fi m3))))

/-- The contribution is discarded (11 R286, 12 R311). One whose completion has been sent already sends none. -/
def State.discard (s : State) (m : Meeting) (first : Bool) (c : Contrib) (detail : Nat) : State :=
  if first || m.mem then s.endMeet c.job (some detail) else s

/-- The contribution is held: its slot is written, and in token mode its completion token is sent (11 R284, R291). -/
def State.hold (s : State) (fi : Nat) (m : Meeting) (first : Bool) (c : Contrib) (round : Nat) : URes State :=
  let at_ := m.mbuf + 0x4000 + 0x800 * c.member + 0x80 * (round % 16)
  let bytes := if m.mem then bytesOfLanes (padTo 0 2 c.lanes)
    else bytesOfLanes (padTo (word (meetIdent m.op)) m.v c.lanes)
  (s.unitWrite fi false m.asid c.job.fire.hb at_ bytes (c.poison && !m.mem)).bind (fun s1 =>
    .ok (if m.mem || !first then s1 else s1.endMeet c.job none))

/-- A duplicate or out-of-range contribution counts in DUP, saturating. -/
def Meeting.dupInc (m : Meeting) : Meeting := { m with dup := Nat.min 255 (m.dup + 1) }

/-- A contribution is classified against entry `e` (11 R286); the k-th on time closes the round, and the ahead
contributions held for the next are then processed as arrivals (R287 step 7). A late one is a duplicate where a late term of its
member is held for the open round; that the member was counted in the round it names is not looked up (DESIGN CHOICE, log 98). -/
def State.contribute (fuel : Nat) (s : State) (fi e : Nat) (first : Bool) (c : Contrib) : URes State :=
  match fuel with
  | 0 => .ok s
  | fuel + 1 =>
    match s.meeting? fi e with
    | none => .ok s
    | some m =>
      let t := c.t % m.span
      let u := (t + m.span - m.roundMod) % m.span
      let d := (m.roundMod + m.span - t) % m.span
      let dup (m : Meeting) : URes State := .ok ((s.setMeeting fi e m.dupInc).discard m first c 0x4C)
      if m.n ≤ c.member then .ok ((s.setMeeting fi e m.dupInc).discard m first c 0x43)
      else if u = 0 then
        if (m.member c.member).on then dup m
        else
          let m1 := { m.updMember c.member (fun x => { x with on := true, miss := 0, absent := false, last := m.round.toNat })
                        with oncnt := m.oncnt + 1, onTime := m.onTime ++ [{ c with t := t, delta := 0 }] }
          ((s.hold fi m first c m.round.toNat).bind (fun s1 => (s1.setMeeting fi e m1).writeMember fi m1 c.member)).bind
            (fun s2 =>
              if m1.oncnt = m1.k then
                (s2.closeRound fi e m1 false).bind (fun s3 =>
                  match s3.meeting? fi e with
                  | none => .ok s3
                  | some m2 =>
                    let now := m2.ahead.filter (fun c => c.t % m2.span == m2.roundMod)
                    let m3 := { m2 with ahead := m2.ahead.filter (fun c => c.t % m2.span != m2.roundMod) }
                    now.foldl (fun r c => r.bind (fun s => State.contribute fuel s fi e false c)) (.ok (s3.setMeeting fi e m3)))
              else .ok s2)
      else if u ≤ m.aheadN then
        if m.ahead.any (fun a => a.member == c.member && a.t == t) then dup m
        else (s.hold fi m first c (m.round.toNat + u)).bind (fun s1 =>
          .ok (s1.setMeeting fi e { m with ahead := m.ahead ++ [{ c with t := t }] }))
      else if d ≤ m.lag then
        if m.late.any (fun a => a.member == c.member) then dup m
        else (s.hold fi m first c (m.round.toNat + 4294967296 - d)).bind (fun s1 =>
          .ok (s1.setMeeting fi e { m with late := m.late ++ [{ c with t := t, delta := d }], latecnt := m.latecnt + 1 }))
      else
        let m1 := m.updMember c.member (fun x => { x with lag := Nat.min 65535 (x.lag + 1) })
        ((s.setMeeting fi e m1).writeMember fi m1 c.member).bind (fun s1 => .ok (s1.discard m first c 0x4D))

/-- Close the open round by force, and process what was held ahead (11 R287, 12 R312). -/
def State.forceClose (s : State) (fi e : Nat) (m : Meeting) : URes State :=
  (s.closeRound fi e m true).bind (fun s1 =>
    match s1.meeting? fi e with
    | none => .ok s1
    | some m2 =>
      let now := m2.ahead.filter (fun c => c.t % m2.span == m2.roundMod)
      let m3 := { m2 with ahead := m2.ahead.filter (fun c => c.t % m2.span != m2.roundMod) }
      now.foldl (fun r c => r.bind (fun s => s.contribute (m.held.length + 2) fi e false c)) (.ok (s1.setMeeting fi e m3)))

/-- The entry that takes a contribution: the lowest-indexed that matches its pitch and tag (11 R280, R286). -/
def Field.takes (f : Field) (asid : Nat) (tag : DWord) : Option (Nat × Meeting) :=
  f.meet.find? (fun e => !e.2.ring && e.2.asid == asid && (tag &&& e.2.w1) == (e.2.w0 &&& e.2.w1))

end Sys2Proof.Machine
end

