-- ==== Sys2Proof/Machine/Sha.lean ====
section
/-! DEFINITION. SHA-384, by which the configuration log grows (17 R420). The manual names the hash and does not define
it: FIPS 180-4 (PRESUMED, log 17). -/
namespace Sys2Proof.Machine

/-- The greatest `r` of `b` more bits below `acc` whose `k`-th power does not exceed `n`. -/
def rootBelow (k n : Nat) : Nat → Nat → Nat
  | 0, acc => acc
  | b + 1, acc => rootBelow k n b (if (acc + 2 ^ b) ^ k ≤ n then acc + 2 ^ b else acc)

/-- The first 64 bits of the fractional part of the `k`-th root of `p`, whose whole part is below 8. -/
def rootFrac (k p : Nat) : DWord := BitVec.ofNat 64 (rootBelow k (p * 2 ^ (64 * k)) 67 0)

/-- The 80 primes up to 409. -/
def shaPrimes : List Nat := (List.range 410).filter (fun n => 2 ≤ n && (List.range n).all (fun d => d < 2 || n % d != 0))

/-- The round constants: cube roots of the first 80 primes. -/
def shaConsts : List DWord := shaPrimes.map (rootFrac 3)

/-- The initial hash value of SHA-384: square roots of the ninth to sixteenth primes. -/
def shaStart : List DWord := ((shaPrimes.drop 8).take 8).map (rootFrac 2)

/-- Big-endian 64-bit words of bytes. -/
def shaWords (n : Nat) (bs : List Byte) : List DWord :=
  match n with
  | 0 => []
  | n + 1 => BitVec.ofNat 64 ((bs.take 8).foldl (fun a b => 256 * a + b.toNat) 0) :: shaWords n (bs.drop 8)

/-- Extend a message schedule by `n` words; the last sixteen stand newest first. -/
def shaSchedule (n : Nat) (ws : List DWord) : List DWord :=
  match n with
  | 0 => ws
  | n + 1 =>
    let w (i : Nat) : DWord := ws.getD i 0
    let s0 := (w 14).rotateRight 1 ^^^ (w 14).rotateRight 8 ^^^ (w 14) >>> 7
    let s1 := (w 1).rotateRight 19 ^^^ (w 1).rotateRight 61 ^^^ (w 1) >>> 6
    shaSchedule n ((s1 + w 6 + s0 + w 15) :: ws)

/-- One round. -/
def shaRound (h : List DWord) (kw : DWord × DWord) : List DWord :=
  let x (i : Nat) : DWord := h.getD i 0
  let e := x 4
  let a := x 0
  let t1 := x 7 + (e.rotateRight 14 ^^^ e.rotateRight 18 ^^^ e.rotateRight 41) + ((e &&& x 5) ^^^ (~~~e &&& x 6)) + kw.1 + kw.2
  let t2 := (a.rotateRight 28 ^^^ a.rotateRight 34 ^^^ a.rotateRight 39) + ((a &&& x 1) ^^^ (a &&& x 2) ^^^ (x 1 &&& x 2))
  [t1 + t2, a, x 1, x 2, x 3 + t1, e, x 5, x 6]

/-- One block of 128 bytes. -/
def shaBlock (h : List DWord) (bs : List Byte) : List DWord :=
  let ws := (shaSchedule 64 (shaWords 16 bs).reverse).reverse
  let r := (shaConsts.zip ws).foldl shaRound h
  (h.zip r).map (fun p => p.1 + p.2)

/-- The blocks of a padded message. -/
def shaBlocks (n : Nat) (h : List DWord) (bs : List Byte) : List DWord :=
  match n with
  | 0 => h
  | n + 1 => shaBlocks n (shaBlock h (bs.take 128)) (bs.drop 128)

/-- The SHA-384 of a message, 48 bytes. -/
def sha384 (bs : List Byte) : List Byte :=
  let n := (bs.length + 17 + 127) / 128
  let len : List Byte := (List.range 16).map (fun i => BitVec.ofNat 8 (8 * bs.length / 256 ^ (15 - i)))
  let m := bs ++ [0x80] ++ List.replicate (128 * n - bs.length - 17) 0 ++ len
  ((shaBlocks n shaStart m).take 6).flatMap (fun w => (List.range 8).map (fun i => w.extractLsb' (56 - 8 * i) 8))

end Sys2Proof.Machine
end

