-- ==== Sys2Proof/Machine/Loader.lean ====
section
/-! DEFINITION. The image loader: its checks of a graph object, and the configuration of a placed pitch (02 R57 Table 11,
R64, R466; 01 R17 to R23; 06 R144; 09 R239). -/
namespace Sys2Proof
open Sys2Proof.Machine

/-- The bytes of a record in a graph object: bits [31:0], [63:32] and [95:64], each little-endian (02 R36). -/
def recImage (r : Rec) : List Byte :=
  bytesOfNat 4 (r.extractLsb' 0 32).toNat ++ bytesOfNat 4 (r.extractLsb' 32 32).toNat ++ bytesOfNat 4 (r.extractLsb' 64 32).toNat

/-- The record of 12 bytes of a graph object (02 R36). -/
def recOfImage (bs : List Byte) : Rec :=
  BitVec.ofNat 32 (natOfBytes ((bs.drop 8).take 4)) ++ BitVec.ofNat 32 (natOfBytes ((bs.drop 4).take 4)) ++
    BitVec.ofNat 32 (natOfBytes (bs.take 4))

/-- The records of a kernel's copy, with their node indices. -/
def LCoreCfg.recs (c : LCoreCfg) : List (Nat × Rec) := c.nodes.map (fun e => (e.1, recOfImage e.2))

/-- The record of a kernel at a node index. -/
def LCoreCfg.recAt (c : LCoreCfg) (i : Nat) : Option Rec := (c.recs.find? (fun e => e.1 == i)).map (·.2)

/-- The role that an image gives a tile (02 Table 12). -/
def LCoreCfg.tileRole (c : LCoreCfg) (n : Nat) : TileRole :=
  match c.tiles.find? (fun e => e.1 == n) with | some e => e.2.role | none => .ab

/-- Extension records that a head record takes. -/
def recExts (r : Rec) : Nat := match opSpec (recOpc r).toNat with | some sp => sp.exts | none => 0

/-- Whether a record stands wrongly among extension records (E_EXT). -/
def LCoreCfg.extBad (c : LCoreCfg) (i : Nat) (r : Rec) : Bool :=
  let exts (j : Nat) : Nat := if i < j then 0 else match c.recAt (i - j) with | some h => recExts h | none => 0
  let isExt (j : Nat) : Bool := match c.recAt j with | some q => recOpc q == 0x3FF | none => false
  if recOpc r = 0x3FF then !(decide (1 ≤ exts 1) || (decide (2 ≤ exts 2) && isExt (i - 1)))
  else (List.range (recExts r)).any (fun j => !isExt (i + 1 + j) || decide (Nat.min 4096 c.reqNodes ≤ i + 1 + j))

/-- The tiles that a copy command may name on a logical core (02 R466): its kernel's request; where no kernel is placed on it
24, or 12 where `doubled` says that its host is doubled. -/
def GraphObj.tilesOf (o : GraphObj) (doubled : Nat → Bool) (lc : Nat) : Nat :=
  match o.cores.find? (fun c => c.lcore == lc) with | some c => c.reqTiles | none => if doubled lc then 12 else 24

/-- The tiles of the issuing logical core that a record names (02 R466). -/
def ownTiles (v : NV) : List Nat :=
  let n := tileNeeds v 1048576
  let opc := v.opc.toNat
  n.ready ++ n.free ++ n.empty ++
    (if opc = 0x302 ∨ opc = 0x2C6 ∨ opc = 0x2C7 ∨ opc = 0x2C8 ∨ (opc = 0x301 ∧ v.bits 5 1 = 0) then [v.bits 0 5] else [])

/-- The destination cores of a copy command whose DK is 1. -/
def destCores (v : NV) : List Nat :=
  if !isCopyCmd v.opc.toNat ∨ v.bits 2 2 ≠ 1 then []
  else if v.opc = 0x2C3 then ((List.range 32).filter (fun i => v.x2 i 1 == 1)).map (· + v.x1 0 17)
  else [v.x1 0 17]

/-- The route entries that a record's literal or extension records name (02 R466). -/
def litRoutes (v : NV) : List Nat :=
  match v.opc.toNat with
  | 0x207 => if 4 ≤ v.mod.toNat then [v.bits 16 10] else []
  | 0x120 => if v.bits 0 1 = 1 ∨ v.dstB = .scale then [v.bits 16 10] else []
  | 0x307 => [v.x2 45 10]
  | 0x303 => if v.ary = .mono then [v.bits 0 10] else []
  | 0x304 => if v.ary = .mono then [v.bits 0 10] else []
  | _ => []

/-- The tiles of the issuing logical core whose role in the image must be AB: of a stream in tile mode (15 R378), and the
source tile of a copy command (15 R385). -/
def abTiles (v : NV) : List Nat :=
  match v.opc.toNat with
  | 0x244 => if v.x1 64 1 = 0 then [v.x1 0 5] else []
  | 0x245 => [v.x1 0 5]
  | opc => if isCopyCmd opc ∧ v.bits 0 2 = 1 then [v.bits 7 5] else []

/-- Whether a TLD or TST on a TF tile of the image has o and .IDX zero and, for TLD, a width of 32 (15 R381). -/
def ringFormOk (c : LCoreCfg) (v : NV) : Bool :=
  !(v.opc == 0x247 || v.opc == 0x248) || c.tileRole (v.bits 0 5) != .tf ||
    (v.bits 5 15 == 0 && (v.opc == 0x248 || (v.bits 20 6 == 32 && v.bits 26 1 == 0)))

/-- Whether a record's tiles and literal route indices are within the requests (02 R466), its stream and source tiles are AB
tiles, and a LAUNCH outside an AG core has no wave literal (09 R249). -/
def limitsOk (o : GraphObj) (doubled : Nat → Bool) (c : LCoreCfg) (v : NV) : Bool :=
  (ownTiles v).all (fun t => decide (t < c.reqTiles)) &&
    (abTiles v).all (fun t => c.tileRole t == .ab) &&
    (destCores v).all (fun l => decide (v.x1 17 5 < o.tilesOf doubled l)) &&
    (litRoutes v).all (fun e => decide (e < c.reqRoutes)) && ringFormOk c v &&
    (v.opc != 0x016 || c.role == .ag || v.e1 == 0)

/-- Whether the value of a ^set fits the innermost field of some shape (02 R39). -/
def setFits (o : GraphObj) (v : NV) : Bool :=
  v.tgo != .set || o.shapes.any (fun s => decide (v.bits 16 16 < 2 ^ (shapeWidths 8 s.2.toNat).headD 0))

/-- Whether a CALL or CTXALLOC names a shape that the configuration defines (09 R241). -/
def allocShapeOk (o : GraphObj) (v : NV) : Bool :=
  !(v.opc == 0x00B || v.opc == 0x040) || o.shapes.any (fun s => s.1 == v.bits 10 6)

/-- The loader's check of a record's group (E_ROLE): the role may issue it (01 R15), and RTWR stands in a kernel marked
`.control` (12 R301). -/
def roleFits (c : LCoreCfg) (v : NV) : Bool := roleOk c.role v.opc.toNat && (v.opc != 0x304 || c.control)

/-- The loader's diagnostic of one record: of those it earns, the one that Table 11 lists first. -/
def nodeDiag (o : GraphObj) (doubled : Nat → Bool) (c : LCoreCfg) (i : Nat) (r : Rec) : Option Diag :=
  let test (b : Bool) (d : Diag) : Option Diag := if b then none else some d
  let ext := test (!c.extBad i r) .ext
  if recOpc r = 0x3FF then ext
  else match opSpec (recOpc r).toNat with
    | none => some .opcode
    | some sp =>
      let v := rawView sp r ((c.recAt (i + 1)).getD recUnset) ((c.recAt (i + 2)).getD recUnset)
      [ext, rawBad sp r, checkFields v, test (setFits o v) .tgo, checkKernel c.reqConsts c.reqAccs c.reqRoutes v,
        test (roleFits c v) .role, test (reservedOk v && limitsOk o doubled c v) .reserved,
        test (allocShapeOk o v) .shape].foldl firstDiag none

/-- The loader's check of a route entry (02 R50, E_ROUTE). -/
def routeBad (n : Nat) (control : Bool) (r : DWord) : Bool :=
  let v := routeV r
  v.rsv != 0 || v.act == 7 ||
    (v.valid && (v.vc == 7 || (v.vc == 6 && !control) || v.act == 5 || (decide (v.core < 65536) && decide (n ≤ v.core))))

/-- The loader's check of a shape (01 R11, 02 R55, E_SHAPE). -/
def shapeBad (i : Nat) (v : BitVec 40) : Bool :=
  let ws := shapeWidths 8 v.toNat
  decide (64 ≤ i) || ws.isEmpty || ws.any (fun w => decide (w < 4) || decide (16 < w)) || decide (48 < shapeBits ws) ||
    decide (2 ^ (5 * ws.length) ≤ v.toNat)

/-- The registers of a colour that an image does not give (02 Table 12). -/
def colourDefault : ColourRegs := { order := 0, width := 32, frame := 0, shape := 0, limit := 0, live := 0 }

/-- The colours of a configuration, colour 0 among them. -/
def GraphObj.allColours (o : GraphObj) : List (Nat × ColourRegs) :=
  if o.colours.any (fun c => c.1 == 0) then o.colours else (0, colourDefault) :: o.colours

/-- The loader's check of an initial or start token (E_TOKEN). -/
def tokenBad (o : GraphObj) (n : Nat) (t : Token) : Bool :=
  badHeader t || decide (n ≤ t.dcore.toNat) ||
    (match o.allColours.find? (fun c => c.1 == tagColour t.tag) with
     | none => true
     | some c =>
       (match o.shapes.find? (fun s => s.1 == c.2.shape.toNat) with
        | none => true
        | some s => decide (2 ^ shapeBits (shapeWidths 8 s.2.toNat) ≤ tagStack t.tag)))

/-- Whether the control slot of an initialised TF tile is inconsistent with its capacity of 511 images (13 R319). -/
def ringSlotBad (t : TileCfg) : Bool :=
  match t.init with
  | none => false
  | some bs =>
    let f (i : Nat) : Nat := natOfBytes ((bs.drop i).take 2)
    t.role == .tf && !(decide (1 ≤ f 0) && decide (f 0 ≤ 511) && decide (1 ≤ f 2) && decide (f 2 ≤ 511) && decide (f 4 ≤ 511) &&
      (f 0 + f 4) % 511 == f 2 % 511 && ((bs.drop 6).take 58).all (· == 0))

/-- The loader's checks of one kernel's copy: its requests, tiles, records and route entries. -/
def coreDiag (o : GraphObj) (n : Nat) (doubled : Nat → Bool) (c : LCoreCfg) : Option (Diag × Nat) :=
  let rm := c.reqMatch.getD 512
  let sinks := c.recs.filter (fun e => recOpc e.2 == 0x011)
  if n ≤ c.lcore ∨ c.nodes.any (fun e => decide (c.reqNodes ≤ e.1) || e.2.length != 12) then some (.object, 0)
  else if 4096 < c.reqNodes ∨ rm = 0 ∨ 1024 < rm ∨ 1024 < c.reqRoutes ∨ 64 < c.reqConsts ∨ 16 < c.reqAccs ∨ 24 < c.reqTiles ∨
      c.bigtop = 0 ∨ 256 < c.bigtop ∨ 64 < sinks.length ∨ c.tiles.any (fun e => ringSlotBad e.2) then some (.reserved, 0)
  else if c.role = .ag ∧ (c.waveBase.toNat / 16777216 = 0 ∨ 64 ≤ c.waveBase.toNat / 16777216 ∨
      c.waveBase.toNat / 65536 % 256 = 255) then some (.reserved, 0)
  else
    match c.recs.findSome? (fun e => (nodeDiag o doubled c e.1 e.2).map (fun d => (d, e.1))) with
    | some d => some d
    | none => (c.routes.find? (fun e => routeBad n c.control e.2)).map (fun e => (.route, e.1))

/-- Whether a list of numbers has a repeat. -/
def hasDup : List Nat → Bool
  | [] => false
  | a :: r => r.contains a || hasDup r

/-- What the loader reports (02 R57): the diagnostic, the kernel where a kernel earns it, and the node or entry index. -/
structure Report57 where
  diag : Diag
  kernel : Option Nat
  index : Nat
  deriving DecidableEq, Repr, Inhabited

/-- Whether the six words of a collective rule entry are ones that a unit accepts (11 R280, R281): reserved bits zero, no
mask on the round field, values within Table 2, and L + AHEAD + 1 at most 2^RW. -/
def meetWordsOk (ws : List DWord) : Bool :=
  let f (i lo n : Nat) : Nat := (ws.getD i 0).toNat / 2 ^ lo % 2 ^ n
  let rw := f 2 15 4 + 1
  ws.length == 6 && f 3 63 1 == 0 && f 4 57 7 == 0 && f 4 0 12 == 0 && f 5 54 10 == 0 && f 1 0 rw == 0 && decide (3 ≤ f 2 15 4) &&
    decide (1 ≤ f 2 19 10) && decide (f 2 29 10 ≤ f 2 19 10) && decide (f 2 39 3 ≤ 5) && decide (f 2 42 4 ≤ 8) &&
    (f 2 39 3 != 1 || decide (f 2 59 5 ≤ 15)) && decide (f 3 34 3 ≤ 5) && decide (f 3 39 3 ≤ 4) && decide (f 3 59 4 ≤ 8) &&
    decide (f 2 42 4 + f 3 32 2 + 1 ≤ 2 ^ rw)

/-- The loader's checks that no one kernel earns: shapes, colours, tokens, the trap handler and the meetings. -/
def GraphObj.diagOuter (o : GraphObj) (n : Nat) : Option (Diag × Nat) :=
  match o.shapes.find? (fun s => shapeBad s.1 s.2) with
  | some s => some (.shape, s.1)
  | none =>
    match o.allColours.find? (fun c => !o.shapes.any (fun s => s.1 == c.2.shape.toNat)) with
    | some c => some (.shape, c.1)
    | none =>
      match (o.tokens.zipIdx).find? (fun t => tokenBad o n t.1) with
      | some t => some (.token, t.2)
      | none =>
        match o.meetings.find? (fun m => !meetWordsOk m.words) with
        | some m => some (.reserved, m.entry)
        | none =>
          match o.trap with
          | none => none
          | some (lc, nd) =>
            match (o.cores.find? (fun c => c.lcore == lc)).bind (fun c => c.recAt nd) with
            | some r => if recAry r = 1 then some (.dest, nd) else none
            | none => some (.dest, nd)

/-- The image loader (02 R57): the first diagnostic, with the kernel and the node or entry index; `n` is the logical cores
that the launch provides, and `doubled` those whose host is doubled. -/
def GraphObj.diag (o : GraphObj) (n : Nat) (doubled : Nat → Bool) : Option Report57 :=
  if hasDup (o.cores.map (·.lcore)) then some { diag := .object, kernel := none, index := 0 }
  else match o.cores.findSome? (fun c => (coreDiag o n doubled c).map (fun d => (c.kernel, d))) with
    | some (k, d, i) => some { diag := d, kernel := some k, index := i }
    | none => (o.diagOuter n).map (fun d => { diag := d.1, kernel := none, index := d.2 })

/-- Whether a kernel's requests exceed one half of a core (01 R19), whose Big Top region is at most 256 MiB (04 R105). -/
def LCoreCfg.overHalf (c : LCoreCfg) : Bool :=
  decide (2048 < c.reqNodes) || decide (512 < c.reqMatch.getD 0) || decide (512 < c.reqRoutes) || decide (32 < c.reqConsts) ||
    decide (8 < c.reqAccs) || decide (12 < c.reqTiles) || decide (128 < c.bigtop)

/-- A kernel's copy for a logical core on which the image places none. -/
def LCoreCfg.empty (lc : Nat) : LCoreCfg :=
  { lcore := lc, kernel := 0, role := .ag, control := false, reqNodes := 0, reqMatch := none, reqRoutes := 0, reqConsts := 0, reqAccs := 0,
    reqTiles := 0, bigtop := 16, nodes := [], consts := [], accs := [], tiles := [], routes := [], waveBase := 0, raCtl := 9,
    maxw := 32 }

/-- The kernel's copy of a logical core. -/
def GraphObj.coreCfg (o : GraphObj) (lc : Nat) : LCoreCfg :=
  (o.cores.find? (fun c => c.lcore == lc)).getD (LCoreCfg.empty lc)

/-- The channel mask of a logical core (06 R144). -/
def GraphObj.mask (o : GraphObj) (lc : Nat) (role : Role) : BitVec 8 :=
  let fixed : BitVec 8 := if role = .ag then 0xC9 else 0xC1
  let routes := o.cores.foldl (fun (m : BitVec 8) c =>
    c.routes.foldl (fun (m : BitVec 8) e =>
      let r := routeV e.2
      if r.valid ∧ r.core = lc then m ||| (1 <<< r.vc.toNat) else m) m) fixed
  o.meetings.foldl (fun (m : BitVec 8) e =>
    let w5 := (e.words.getD 5 0).toNat
    if w5 % 131072 = lc then m ||| (1 <<< ((e.words.getD 3 0).toNat / 17179869184 % 8)) else m) routes

/-- A tile as the image leaves it (01 R22, 10 R271); a TF tile that it does not initialise has HEAD and TAIL 1 (13 R319). -/
def TileCfg.tile (t : TileCfg) : Tile :=
  match t.init with
  | none => { (if t.role = .tf then Tile.write Tile.init 0 [1, 0, 1, 0] else Tile.init) with role := t.role }
  | some bs => { (Tile.write Tile.init 0 bs) with role := t.role, state := .ready, inited := true }

/-- A logical core at the start of a configuration (01 R22; 04; 16 Table 1). -/
def LCoreCfg.core (c : LCoreCfg) (o : GraphObj) (host : HostRef) : LCore :=
  let full := if host.doubled then 512 else 1024
  { role := c.role, control := c.control, host := host, reqNodes := c.reqNodes, reqMatch := c.reqMatch.getD full,
    reqRoutes := c.reqRoutes, reqConsts := c.reqConsts, reqAccs := c.reqAccs, reqTiles := c.reqTiles,
    mask := o.mask c.lcore c.role,
    nodes := c.recs.foldl (fun m e => SMap.put recUnset m e.1 e.2) [],
    k := c.consts.foldl (fun m e => SMap.put 0 m e.1 e.2) [],
    accs := c.accs.foldl (fun m e => SMap.ins m e.1 { Acc.init with val := SMap.putAll 0 [] 0 e.2 }) [],
    jxf := 0, trap := TrapRegs.init, trapRec := { a := none, b := none },
    waveBase := if c.role = .ag then c.waveBase else 0, raCtl := c.raCtl, maxw := c.maxw, clamped := false,
    ovfBase := BitVec.ofNat 64 (0xFF00000000000000 + 268435456 * c.lcore), ovfSize := BitVec.ofNat 9 c.bigtop,
    enlarged := false, routes := c.routes.foldl (fun m e => SMap.put 0 m e.1 e.2) [], ms := [], ovf := [], seqNo := 0,
    chanOvf := [], spill := [], spillLines := [], waitRing := [],
    cache := (o.allColours.filter (fun e => e.1 == 0)).map (fun e => { colour := 0, regs := { e.2 with live := 0 } }),
    copyArea := [], pool := [], cnt := Counters.init,
    tiles := c.tiles.foldl (fun m e => SMap.ins m e.1 e.2.tile) [],
    mem := [], insts := [], memId := 0, sq := [], sendSeq := [], frameHb := [], caught := none, savedReady := [], ovfCut := 0, rebindTo := none,
    nodeUe := [], wgrp := fieldOfCore host.cx host.cy }

/-- The configured sinks of an image: logical core and node (09 R232). -/
def GraphObj.sinks (o : GraphObj) : List (Nat × Nat) :=
  o.cores.flatMap (fun c => (c.recs.filter (fun e => recOpc e.2 == 0x011)).map (fun e => (c.lcore, e.1)))

end Sys2Proof

namespace Sys2Proof.Machine

/-- A logical core on another host (01 R18, R19): its matching store is as its kernel requests, else what the host gives. -/
def LCore.rehost (x : LCore) (o : GraphObj) (lc : Nat) (h : HostRef) : LCore :=
  { x with host := h, reqMatch := (o.coreCfg lc).reqMatch.getD (if h.doubled then 512 else 1024) }

/-- The colour values below 65,536 that are not allocated, as intervals in ascending order. -/
def freeColours (used : List Nat) (lo : Nat) : List Nat → List (Nat × Nat)
  | [] => if lo < 65536 then [(lo, 65536)] else []
  | c :: r => if c < lo then freeColours used lo r
      else if lo < c then (lo, c) :: freeColours used (c + 1) r else freeColours used (c + 1) r

/-- Insert into an ascending list. -/
def insAsc (n : Nat) : List Nat → List Nat
  | [] => [n]
  | a :: r => if n < a then n :: a :: r else if n = a then a :: r else a :: insAsc n r

/-- A pitch at the start of its configuration on a rectangle (01 R17, R18, R22; 09 R239). -/
def mkPitch (l : Launch) (o : GraphObj) (r : Rect) (rot : Bool) (chains : List (Nat × Nat)) (t : DWord) (no : Nat) : Pitch :=
  let used := (o.allColours.map (·.1)).foldr insAsc []
  let free := freeColours used 0 used
  let cut := poolTake (poolSize free - 1024) free
  let cores := (List.range r.n).map (fun i => (i, (o.coreCfg i).core o (r.hostOf chains i)))
  Pitch.refillAll
    { kx0 := r.kx0, ky0 := r.ky0, w := r.w, h := r.h, rotated := rot, scatter := o.scatter, salt := o.salt,
      shapes := o.shapes.foldl (fun m s => SMap.put 0 m s.1 s.2) [], trap := o.trap,
      colours := o.allColours.foldl (fun m c => SMap.ins m c.1 { regs := { c.2 with live := 0 }, cont := 0 }) [],
      pool := cut.1, reserve := cut.2, freed := [], reserveUsed := false, lcores := cores, launch := l, st := .loading,
      start := o.tokens, sinks := o.sinks, sinksDone := [], tAdmit := t, admitNo := no, preempts := 0,
      evWritten := 0, evDropped := 0, savedClusters := [], savedMeet := [], savedWalk := [], savedMq := [], savedMOut := [], savedWt := [],
      lastFiring := 0, badPages := [], image := o }

/-- A cluster at the start of a configuration (01 R22, 05 R140): its engines are empty; its DRAM and its job ids stay. -/
def Cluster.startConfig (k : Cluster) : Cluster :=
  { Cluster.init with nextJob := k.nextJob, cpNext := k.cpNext, mLast := k.mLast, cpLast := k.cpLast, tlb := k.tlb,
                      desc := k.desc, banks := k.banks, cols := k.cols, linePz := k.linePz, eccPz := k.eccPz, unitPz := k.unitPz }

/-- The clusters of a rectangle, in raster order. -/
def Rect.clusters (r : Rect) : List Nat :=
  (List.range (r.w * r.h)).map (fun i => 128 * (r.ky0 + i / r.w) + r.kx0 + i % r.w)

/-- The fields that a rectangle touches. -/
def Rect.fields (r : Rect) : List Nat := (r.clusters.map fieldOfCluster).foldr insAsc []

/-- A pitch entry of the MAP block (10 Table 5). -/
def Pitch.entry (p : Pitch) (asid : Nat) : DWord :=
  BitVec.ofNat 64 (1 + 2 * asid + 8192 * p.scatter.toNat + 16384 * p.salt.toNat + 16777216 * p.rotated.toNat + 33554432 * p.kx0
    + 4294967296 * p.ky0 + 274877906944 * (p.w - 1) + 35184372088832 * (p.h - 1))

/-- The cores that a pitch takes hold nothing more of an earlier one (01 R22). -/
def State.takeCores (s : State) (p : Pitch) : State :=
  { s with last := s.last.filter (fun e => !p.lcores.any (fun l => l.2.core == e.1 / 2)) }

/-- Write a pitch's entry into the MAP block of every field it touches: the lowest free one. Its cores are its own from now on. -/
def State.mapPitch (s : State) (asid : Nat) (p : Pitch) : State :=
  p.rect.fields.foldl (fun s f => s.updField f (fun fd =>
    match (List.range 128).find? (fun i => !(SMap.get 0 fd.pitch i).getLsbD 0) with
    | some i => { fd with pitch := SMap.put 0 fd.pitch i (p.entry asid) }
    | none => fd)) (s.takeCores p)

/-- Clear a pitch's entries and overrides in the MAP blocks (10 R262). -/
def State.unmapPitch (s : State) (asid : Nat) : State :=
  let fp (e : Nat × DWord) : Bool := !(e.2.getLsbD 0 && decide (e.2.toNat / 2 % 4096 = asid))
  let fo (e : Nat × DWord) : Bool := !(e.2.getLsbD 0 && decide (e.2.toNat / 4 % 4096 = asid))
  let ff (f : Nat × Field) : Nat × Field := (f.1, { f.2 with pitch := f.2.pitch.filter fp, ovr := f.2.ovr.filter fo })
  { s with fields := s.fields.map ff }

end Sys2Proof.Machine
end

