-- ==== Sys2Proof/Machine/Pf8.lean ====
section
/-! DEFINITION. The packed FP8 stream: decoding and encoding of blocks (03 R74 to R76). -/
namespace Sys2Proof.Machine

/-- The bits of a block's units, most significant first (03 R74): units are little-endian pairs of bytes. -/
def pf8Bits : List Byte → List Bool
  | lo :: hi :: r => (List.range 8).map (fun i => hi.getLsbD (7 - i)) ++ (List.range 8).map (fun i => lo.getLsbD (7 - i)) ++ pf8Bits r
  | _ => []

/-- The number that bits make, most significant first. -/
def bitsNat (l : List Bool) : Nat := l.foldl (fun a b => 2 * a + (if b then 1 else 0)) 0

/-- Take `n` bits, or fail. -/
def takeBits (n : Nat) (l : List Bool) : Option (Nat × List Bool) :=
  if l.length < n then none else some (bitsNat (l.take n), l.drop n)

/-- Decode an exponent code (03 Table 5): the exponent and the rest. -/
def pf8Code (ew : Nat) (e : Int) (l : List Bool) : Option (Int × List Bool) :=
  match l with
  | false :: r => some (e, r)
  | true :: false :: r => some (e - 1, r)
  | true :: true :: false :: r => some (e + 1, r)
  | true :: true :: true :: false :: r => some (e - 2, r)
  | true :: true :: true :: true :: r => (takeBits ew r).map (fun t => ((t.1 : Int), t.2))
  | _ => none

/-- Decode `n` elements: their encodings and the bits left (03 R74). -/
def pf8Elems (ew : Nat) (e : Int) (n : Nat) (l : List Bool) : Option (List Nat × List Bool) :=
  match n with
  | 0 => some ([], l)
  | n + 1 =>
    match pf8Code ew e l with
    | none => none
    | some (x, r) =>
      if x < 0 ∨ 2 ^ ew ≤ x then none
      else
        let mw := 7 - ew
        match takeBits (mw + 1) r with
        | none => none
        | some (v, r') =>
          let b := v / 2 ^ mw * 128 + x.toNat * 2 ^ mw + v % 2 ^ mw
          (pf8Elems ew e n r').map (fun t => (b :: t.1, t.2))

/-- The exponent width of a variant. -/
def pf8Ew (e5m2 : Bool) : Nat := if e5m2 then 5 else 4

/-- LEN in units, where it lies in the range of its variant (03 R74, R75). -/
def pf8Len (e5m2 : Bool) (first : List Byte) : Option Nat :=
  let n := (first.getD 1 0).toNat
  if (if e5m2 then 9 else 11) ≤ n ∧ n ≤ 25 then some n else none

/-- Decode a block of LEN units: its 32 elements, or none where it is malformed (03 R75). -/
def pf8Decode (e5m2 : Bool) (bs : List Byte) : Option (List Byte) :=
  let ew := pf8Ew e5m2
  match takeBits ew ((pf8Bits bs).drop 8) with
  | none => none
  | some (e, l) =>
    match pf8Elems ew e 32 l with
    | none => none
    | some (xs, r) => if r.length < 16 ∧ r.all (fun b => !b) then some (xs.map (BitVec.ofNat 8)) else none

/-- How often a value occurs. -/
def countNat (x : Nat) (l : List Nat) : Nat := (l.filter (fun y => y == x)).length

/-- The base exponent: the one that occurs most often, the lower on a tie (03 R76). -/
def pf8Base (es : List Nat) : Nat :=
  (List.range 32).foldl (fun b x => if countNat b es < countNat x es then x else b) 0

/-- `n` bits of a number, most significant first. -/
def natBits (n v : Nat) : List Bool := (List.range n).map (fun i => v / 2 ^ (n - 1 - i) % 2 == 1)

/-- The bytes of units from bits whose count is a multiple of 16, padded with zeros. -/
def pf8Bytes (fuel : Nat) (l : List Bool) : List Byte :=
  match fuel with
  | 0 => []
  | fuel + 1 =>
    if l.isEmpty then []
    else
      let u := l.take 16 ++ List.replicate (16 - l.length) false
      BitVec.ofNat 8 (bitsNat (u.drop 8)) :: BitVec.ofNat 8 (bitsNat (u.take 8)) :: pf8Bytes fuel (l.drop 16)

/-- Encode 32 elements (03 R76). -/
def pf8Encode (e5m2 : Bool) (xs : List Byte) : List Byte :=
  let ew := pf8Ew e5m2
  let mw := 7 - ew
  let ex (b : Byte) : Nat := b.toNat / 2 ^ mw % 2 ^ ew
  let e := pf8Base (xs.map ex)
  let code (x : Nat) : List Bool :=
    if x = e then [false]
    else if x + 1 = e then [true, false]
    else if x = e + 1 then [true, true, false]
    else if x + 2 = e then [true, true, true, false]
    else [true, true, true, true] ++ natBits ew x
  let body := natBits ew e ++ xs.flatMap (fun b =>
    code (ex b) ++ natBits (mw + 1) (b.toNat / 128 * 2 ^ mw + b.toNat % 2 ^ mw))
  let len := (8 + body.length + 15) / 16
  pf8Bytes 32 (natBits 8 len ++ body)

end Sys2Proof.Machine
end

