-- ==== Sys2Proof/Machine/Chain.lean ====
section
/-! DEFINITION. Chain order, release, replies and device-side launches (14 R351 to R357, R366; 15 R373, R376 to R380;
09 R249; 06 R162). -/
namespace Sys2Proof.Machine

/-- Whether a member loads (14 R353 rule 6). -/
def MemAcc.isLoad (m : MemAcc) : Bool := m.kind == .load || m.kind == .strm || m.kind == .atomic

/-- Whether a member stores (14 R353 rule 6, R366). -/
def MemAcc.isStore (m : MemAcc) : Bool :=
  m.kind == .store || m.kind == .strmst || m.kind == .atomic || m.kind == .launch

/-- Whether a part of a store is performed at a scope (14 Table 1): stage 1 store queue, 2 cluster write queue, 3 home,
4 visible at SYSTEM. -/
def Part.reached (scope : Nat) (p : Part) : Bool :=
  decide ((match scope with | 0 => 1 | 1 => 2 | 2 => 3 | 3 => 3 | _ => 4) ≤ p.stage)

/-- Whether an access is bound (loads) or performed at a scope (stores, atomics). A run-ahead stream is bound once its STEER has
resolved it: what it has fetched before may be fetched again (01 R33; 14 R370). -/
def MemAcc.doneAt (scope : Nat) (m : MemAcc) : Bool :=
  match m.kind with
  | .pref => true
  | .store => m.released && m.parts.all (Part.reached scope)
  | .strmst => m.released && m.parts.all (Part.reached scope)
  | _ => m.bound

/-- Whether a member has been released whole: every part of a store stands in the store queue or beyond. -/
def MemAcc.isSent (m : MemAcc) : Bool := m.released && (!m.isQueued || m.parts.all (fun p => decide (1 ≤ p.stage)))

/-- Whether bytes of two members may overlap: by page offset, which translation keeps. -/
def MemAcc.mayOverlap (a b : MemAcc) : Bool :=
  a.parts.any (fun p => b.parts.any (fun q =>
    decide (p.va % 4096 < q.va % 4096 + q.len) && decide (q.va % 4096 < p.va % 4096 + p.len)))

/-- Whether one earlier member lets a later one be released (14 R353, R357). -/
def MemAcc.lets (e m : MemAcc) : Bool :=
  match m.kind with
  | .pref => true
  | .fence => (!e.acq || e.bound) && e.doneAt m.scope
  | _ =>
    (!e.acq || e.bound) && (e.kind != .fence || e.bound) && (!m.rel || e.doneAt m.scope) &&
      (!m.isStore || ((!e.isLoad || e.bound) && (!e.isStore || e.isSent))) &&
      (!m.isLoad || !e.isStore || e.isSent || !e.mayOverlap m)

/-- The earlier members of a member's instance that are still in the wave buffer. -/
def LCore.earlier (x : LCore) (m : MemAcc) : List MemAcc := x.mem.filter (fun e => m.order.contains e.id)

/-- Whether a member sends replies: a .RA stream replies to DSTA only (15 R373, R380), a LAUNCH to DSTB (09 R249). -/
def MemAcc.wantsReply (m : MemAcc) : Bool :=
  match m.kind with
  | .launch => m.dstB != .none
  | _ => m.dstA != .none || (m.dstB != .none && m.ra == .none)

/-- Whether a member has nothing left to do. -/
def MemAcc.finished (m : MemAcc) : Bool :=
  m.entered && m.bound && (m.replied || !m.wantsReply) && (!m.isQueued || m.parts.all (fun p => p.stage == 4))

/-- Drop the members that have nothing left to do. -/
def LCore.gcMem (x : LCore) : LCore := { x with mem := x.mem.filter (fun m => !m.finished) }

/-- Whether a load, atomic or store is bound by the stages of its parts (14 R356, R357). -/
def MemAcc.settle (m : MemAcc) : MemAcc :=
  match m.kind with
  | .load => { m with bound := m.released && m.parts.all (fun p => p.stage == 4) }
  | .atomic => { m with bound := m.released && m.parts.all (fun p => p.stage == 4) }
  | .store => { m with bound := m.released && m.parts.all (Part.reached m.scope) }
  | .strmst => { m with bound := m.released && m.parts.all (Part.reached m.scope) }
  | _ => m

/-- Change a member, settle it, and drop what is finished. -/
def State.updMem (s : State) (asid lc id : Nat) (g : MemAcc → MemAcc) : State :=
  s.updLC asid lc (fun x => (x.updMem id (fun m => (g m).settle)).gcMem)

/-- Take a member out of the wave buffer and its store queue. -/
def LCore.dropMem (x : LCore) (id : Nat) : LCore :=
  { x with mem := x.mem.filter (fun e => e.id != id), sq := x.sq.filter (fun e => e.1 != id) }

/-- End a member with a trap (13 R343, 15 R374): a stream's tile goes READY, so that no firing waits for ever. -/
def State.endMem (s : State) (asid lc : Nat) (m : MemAcc) (cause : Cause) (detail : Nat) : State :=
  (s.updLC asid lc (fun x =>
    match m.strm with
    | some t => if t.token then x.dropMem m.id else (x.dropMem m.id).setTile t.tile .ready
    | none => x.dropMem m.id)).takeTrap asid lc (m.trapInfo cause detail)

/-- Whether a stream that has not entered chain order holds its tile: its issue took it, and nothing has given it back (04 R104; 10
Table 9). -/
def MemAcc.hasTile (m : MemAcc) : Bool := m.ra == .none || m.ra == .ahead || (m.ra == .commit && m.aux != 2)

/-- The tile of a stream that has not entered chain order, as it was before the stream issued (14 R351, R352). -/
def LCore.undoTile (x : LCore) (m : MemAcc) : LCore :=
  match m.strm with
  | some t => if t.token ∨ !m.hasTile then x else x.setTile t.tile m.was
  | none => x

/-- Enter a member of an open instance into chain order (14 R351): it closes the instance with succ 0xFE. The stores that happen
before it are those that its operands carry, those of the instance that it stays behind, and for a load those earlier ones that its
bytes may overlap (14 R353, R357, R358). -/
def LCore.enter (x : LCore) (m : MemAcc) (i : ChainInst) (asid lc : Nat) : LCore :=
  let before := (x.mem.filter (fun e => e.entered && e.sameInst m)).map (·.id)
  let behindAll := m.isStore || m.rel || m.kind == .fence
  let forwards := if m.isLoad then x.mem.filter (fun e => e.entered && e.sameInst m && e.isStore && e.mayOverlap m) else []
  let hb := forwards.foldl (fun l e => hbJoin (hbJoin l e.hb) [(asid, lc, e.id)]) (hbJoin m.hb (if behindAll then i.hb else i.hbAcq))
  let hb' := hbJoin i.hb (if m.isStore then hbJoin hb [(asid, lc, m.id)] else hb)
  let i' : ChainInst := { i with last := some (m.own, m.succ), owns := m.own :: i.owns, hb := hb',
                                 hbAcq := if m.kind = .fence then hb' else if m.acq then hbJoin i.hbAcq hb else i.hbAcq }
  let insts := if m.succ = 0xFE then x.insts.filter (fun i => !i.isOf m) else x.insts.map (fun i => if i.isOf m then i' else i)
  (LCore.gcMem { LCore.updMem x m.id (fun m => { m with entered := true, order := before, hb := hb }) with insts := insts }).perfEvent
    0x0C 1

/-- Send one token of a member to its destination A or B (15 R373): VC3 to a local node; VC0 for the status token of a LAUNCH.
It carries what happens before it (14 R358). -/
def State.memToken (s : State) (asid lc : Nat) (m : MemAcc) (b : Bool) (eos : Option (BitVec 4)) (lanes : List Word)
    (poison : Bool) (tag : DWord) : State :=
  let hb := s.liveHb (if m.isStore then hbJoin m.hb [(asid, lc, m.id)] else m.hb)
  s.deliver (.agent asid lc) (if m.kind = .launch then 0 else 3) (fun _ => if b then m.rtB else m.rtA) m.fire m.opc
    { dest := if b then m.dstB else m.dstA, act := if b then m.actB else m.actA, eos := eos, poison := poison, lanes := lanes,
      tag := tag, code := 0, hb := hb }

/-- A LAUNCH of an AG core has no effect before it enters chain order: then it emits a to DSTA (09 R249; 14 R352). -/
def State.launchOut (s : State) (asid lc : Nat) (m : MemAcc) : State :=
  if m.kind = .launch then s.memToken asid lc m false none m.fire.a.lanes m.fire.a.poison m.tagOut else s

/-- CHAIN_ORDER_ENTRY (14 R351): the member at `k` enters when it is named next; one whose own number has entered traps with no
effect. A .RA stream that waits for its STEER does not enter before it (04 R104). -/
def execChainOrderEntry (asid lc k : Nat) (s : State) : Host.Outcome State Fault Refusal :=
  .next (match s.lc? asid lc with
  | none => s
  | some x =>
    match x.mem[k]? with
    | none => s
    | some m =>
      match x.insts.find? (fun i => i.isOf m) with
      | none => s
      | some i =>
        if m.entered ∨ m.ra = .wait ∨ !s.running asid then s
        else if i.owns.contains m.own then
          (if m.kind = .pref then s.updMem asid lc m.id (fun m => { m with entered := true })
           else (s.updLC asid lc (fun x => (x.undoTile m).dropMem m.id)).takeTrap asid lc (m.trapInfo .accessFault 0x5B))
        else if i.names x.waveFirst m.own m.pred then (s.updLC asid lc (fun x => x.enter m i asid lc)).launchOut asid lc m
        else s)

/-- The next sequence number of a source for a home (14 R367). A logical core that has sent nothing there yet goes on from the
record that an earlier launch of its address space has left at the home. -/
def State.nextSeq (s : State) (asid lc : Nat) (x : LCore) (chain home : Nat) : BitVec 16 :=
  match SMap.find x.sendSeq (chain * 1048576 + home), s.dupRec asid lc chain home with
  | some q, _ => q
  | none, none => 0
  | none, some d => d.done.foldl (fun n q => if seqBelow n (q + 1) then q + 1 else n) d.floor

/-- Send a request of a member's part towards its home: stores and atomics take the next sequence number of their
source and carry its floor (14 R367). -/
def State.sendReq (s : State) (asid lc : Nat) (x : LCore) (m : MemAcc) (i : Nat) (p : Part) (kind : ReqKind) : State :=
  let home := s.homeOf p.pa
  let key := m.chain * 1048576 + home
  let numbered := kind == .write || kind == .atomic
  let seq := s.nextSeq asid lc x m.chain home
  let floor := (s.unacked asid lc m.chain home).foldl (fun f r => if seqBelow r.seq f then r.seq else f) seq
  let r : HReq :=
    { asid := asid, lc := lc, id := m.id, part := i, kind := kind, opc := m.opc, typ := m.typ, scope := m.scope,
      chain := m.chain, pa := p.pa, len := p.len, data := p.data, poison := p.poison, seq := seq, floor := floor,
      sent := (s.field x.field).time.toNat, atHost := false }
  let s := { s with reqs := s.reqs ++ [r] }
  if numbered then s.updLC asid lc (fun x => { x with sendSeq := SMap.ins x.sendSeq key (seq + 1) }) else s

/-- Send the parts of a load or atomic. -/
def State.sendParts (s : State) (asid lc : Nat) (m : MemAcc) (kind : ReqKind) (ps : List Part) : State :=
  (ps.zipIdx).foldl (fun s e =>
    match s.lc? asid lc with
    | some x => s.sendReq asid lc x m e.2 e.1 kind
    | none => s) s

/-- The address of the entry of a queue that the next launch record takes. -/
def LQueue.nextEntry (l : LQueue) : Nat := l.base.toNat / 4096 * 4096 % 4503599627370496 + 256 * (l.prod.toNat % 2 ^ l.log2n.toNat)

/-- Append a launch record to a queue, as a device-side producer (06 R162, 09 R249): the status lane and the state. -/
def State.appendLaunch (s : State) (q : Nat) (rec : List Byte) : Nat × State :=
  let l := s.lqueue q
  let n := 2 ^ l.log2n.toNat
  if !l.en ∨ !l.dev ∨ l.log2n.toNat < 4 ∨ 12 < l.log2n.toNat then (2, s)
  else if (l.prod - l.cons).toNat = n then (1, s)
  else
    (65536 * l.prod.toNat, (s.writeRange 5 l.nextEntry rec false).updLQ q (fun l => { l with prod := l.prod + 1 }))

/-- Perform a LAUNCH (09 R249, 14 R366): every store that happens before it is at its home; the record is read in the pitch's
space, PARENT is set in it, and it is appended; an unmapped page is resolved and the access replayed. -/
def State.performLaunch (s : State) (asid lc : Nat) (x : LCore) (m : MemAcc) : State :=
  match s.xlParts asid x false m.parts with
  | .error none => s
  | .error (some _) => (s.noteFaults asid lc x false m.parts).endMem asid lc m .accessFault 0x23
  | .ok (ps, ts) =>
    if ps.any (fun p => s.isOwned p.pa p.len || s.pending x.cluster p.pa p.len) ∨ s.isOwned (s.lqueue (m.aux % 32)).nextEntry 256 ∨
        !(s.liveHb m.hb).isEmpty then s
    else
      let s1 := ps.foldl (fun s p => s.readNote p.pa) (s.useTlb asid lc x ts)
      let bs := ps.flatMap (fun p => s1.bytesAt p.pa p.len)
      let r := s1.appendLaunch (m.aux % 32) (bs.take 192 ++ bytesOfNat 8 (lc % 131072 + 131072 * (asid % 4096)) ++ bs.drop 200)
      r.2.updMem asid lc m.id (fun m =>
        { m with released := true, bound := true,
                 parts := m.parts.mapIdx (fun i p => { p with data := if i = 0 then bytesOfNat 4 r.1 else [], stage := 4 }) })

/-- Release a member whose ordering allows it (14 R353, R357; 13 R343, R344). Stores and streams then move part by part. -/
def State.release (s : State) (asid lc : Nat) (x : LCore) (m : MemAcc) : State :=
  let mark (s : State) : State := s.updMem asid lc m.id (fun m => { m with released := true })
  let answer (s : State) : State := s.updMem asid lc m.id (fun m => { m with released := true, bound := true })
  let through (write : Bool) (k : List Part → State → State) : State :=
    match s.xlParts asid x write m.parts with
    | .error none => s
    | .error (some d) => (s.noteFaults asid lc x write m.parts).endMem asid lc m .accessFault d
    | .ok (ps, ts) => k ps (s.useTlb asid lc x ts)
  let give (ps : List Part) (s : State) : State := s.updMem asid lc m.id (fun m => { m with released := true, parts := ps })
  match m.kind with
  | .fence => answer s
  | .pref =>
    match m.parts with
    | [] => answer s
    | p :: _ =>
      match s.lookup asid x p.va false with
      | .miss => s
      | .fault _ => answer (s.noteFault asid lc x p.va)
      | .ok _ t => answer (s.useTlb asid lc x [t])
  | .launch => s.performLaunch asid lc x m
  | .strmst => mark s
  | .strm =>
    match m.strm with
    | none => s
    | some t =>
      if m.aux = 2 then
        let st := (x.tile t.tile).state
        if st = .empty ∨ st = .ready then
          (s.updLC asid lc (fun x => x.setTile t.tile .filling)).updMem asid lc m.id (fun m => { m with released := true, aux := 0 })
        else s
      else mark s
  | .load => through false (fun ps s => (give ps s).sendParts asid lc m .read ps)
  | .atomic =>
    through true (fun ps s1 =>
      if ps.all (fun p => s.homeRoom x (s.homeOf p.pa)) then (give ps s1).sendParts asid lc m .atomic ps else s)
  | .store => through true (fun ps s => give ps s)

/-- A stream meets a fault at its part `i` (13 R343): it traps, its later parts and its replies are not made, and the tile of a
store is free once its last part has been read. -/
def State.failStream (s : State) (asid lc : Nat) (m : MemAcc) (i : Nat) (detail : Nat) : State :=
  let free (s : State) : State :=
    match m.strm with
    | some t => if m.kind = .strmst then s.updLC asid lc (fun x => x.setTile t.tile .ready) else s
    | none => s
  ((free s).updMem asid lc m.id (fun m => { m with parts := m.parts.take i, replied := true })).takeTrap asid lc
    (m.trapInfo .accessFault detail)

/-- Change part `i` of a member. -/
def State.updPart (s : State) (asid lc id i : Nat) (g : Part → Part) : State :=
  s.updMem asid lc id (fun m => { m with parts := m.parts.mapIdx (fun j p => if j = i then g p else p) })

/-- Whether a stream holds the faults that it meets until its tile would become READY: it runs ahead, or did, and fetches again what
a PAGE_FAULT had stopped (01 R32). -/
def MemAcc.holdsFaults (m : MemAcc) : Bool := m.ra == .ahead || (m.ra == .commit && m.aux == 1)

/-- A part of a run-ahead stream holds the fault that it met (01 R32). -/
def Part.hold (cause : Cause) (detail : Nat) (p : Part) : Part :=
  { p with data := List.replicate p.len 0, poison := true, stage := 4, fault := some (cause, detail) }

/-- Move a released store on from the wave buffer to the store queue, part by part in order, while its home has room (14 R348,
R353, R367); a stream's part is translated and read from its tile now, and with the last the tile goes READY (15 R379). -/
def State.pushPart (s : State) (asid lc : Nat) (x : LCore) (m : MemAcc) (i : Nat) (p : Part) : Option State :=
  let go (s : State) (q : Part) : Option State :=
    if s.homeRoom x (s.homeOf q.pa) then
      some ((s.updLC asid lc (fun x => { x with sq := x.sq ++ [(m.id, i)] })).updPart asid lc m.id i (fun _ => { q with stage := 1 }))
    else none
  match m.strm, (m.strm.bind fun t => (t.linePieces (tlane64 m.fire.a 0))[i]?) with
  | some t, some e =>
    match s.lookup asid x p.va true with
    | .miss => none
    | .fault d => some ((s.noteFault asid lc x p.va).failStream asid lc m i d)
    | .ok pa u =>
      let off := t.toff + 4 * t.roww * e.1 + e.2.1
      let k := x.tile t.tile
      (go s { p with pa := pa, data := k.read off p.len, poison := k.poisonIn off p.len }).map (fun s =>
        (s.useTlb asid lc x [u]).updLC asid lc (fun x => if i + 1 = m.parts.length then x.setTile t.tile .ready else x))
  | _, _ => go s p

/-- Whether a store must stay in its store queue (14 R348, R360): one that happens before it, to the same home, still stands in
another; the cluster write queues would else turn their order round. -/
def State.drainWaits (s : State) (m : MemAcc) : Bool :=
  m.hb.any (fun i => (s.heldParts i).any (fun q => q.stage == 1 && m.parts.any (fun p => s.homeOf p.pa == s.homeOf q.pa)))

/-- Move the oldest entry of a core's store queue to its cluster's write queue (14 R348). -/
def State.drainSq (s : State) (asid lc : Nat) (x : LCore) (m : MemAcc) : State :=
  match x.sq with
  | [] => s
  | (id, i) :: r =>
    if id = m.id ∧ !s.drainWaits m then
      match m.parts[i]? with
      | none => s
      | some p =>
        ((s.sendReq asid lc x m i p .write).updLC asid lc (fun x => { x with sq := r })).updPart asid lc m.id i
          (fun p => { p with stage := 2 })
    else s

/-- Send the next part of a released stream to its home, once it translates (13 R344; 15 R379). -/
def State.fetchPart (s : State) (asid lc : Nat) (x : LCore) (m : MemAcc) (i : Nat) (p : Part) : State :=
  let meet (s : State) (d : Nat) : State :=
    if m.holdsFaults then s.updPart asid lc m.id i (Part.hold .accessFault d) else s.failStream asid lc m i d
  match p.fault, s.lookup asid x p.va false with
  | some f, _ => meet s f.2
  | none, .miss => s
  | none, .fault d => meet (s.noteFault asid lc x p.va) d
  | none, .ok pa u =>
    let q := { p with pa := pa, poison := u.pz, stage := 2 }
    ((s.useTlb asid lc x [u]).updPart asid lc m.id i (fun _ => q)).sendReq asid lc x m i q .read

/-- MEMORY_ACCESS_RELEASE (14 R348, R353, R357): the member at `k` is released when its ordering and its translations
allow, and a release once what happens before it is performed at its scope; a released stream or store moves its next part. -/
def execMemoryAccessRelease (asid lc k : Nat) (s : State) : Host.Outcome State Fault Refusal :=
  .next (match s.lc? asid lc with
  | none => s
  | some x =>
    match x.mem[k]? with
    | none => s
    | some m =>
      if !m.entered ∨ m.ra = .cancel ∨ m.ra = .halted ∨ !s.active asid then s
      else if !m.released then
        (if (x.earlier m).all (fun e => e.lets m) ∧ (!m.rel ∨ s.hbDone asid lc x m.scope m.hb) then s.release asid lc x m else s)
      else
        match (m.parts.zipIdx).find? (fun e => e.1.stage == 0) with
        | some (p, i) =>
          if m.isQueued then (s.pushPart asid lc x m i p).getD (s.drainSq asid lc x m)
          else if m.kind = .strm then s.fetchPart asid lc x m i p
          else s
        | none => if m.isQueued then s.drainSq asid lc x m else s)

/-- The payload of a reply, with its poison (15 R376, R382, R384; 09 R249). -/
def MemAcc.payload (m : MemAcc) : List Word × Bool :=
  let bytes := m.parts.flatMap (·.data)
  let poison := m.parts.any (·.poison)
  match m.kind with
  | .load => (lanesOfBytes (bytes.length / 4) bytes, poison)
  | .atomic => (lanesOfBytes (memAlign m.typ / 4) bytes, poison)
  | .fence => (m.fire.a.lanes, m.fire.a.poison)
  | .launch => (lanesOfBytes 1 bytes, false)
  | _ => ([], false)

/-- Send the replies of a member whose value is bound (15 R373, R379, R380). -/
def State.sendReplies (s : State) (asid lc : Nat) (m : MemAcc) : State :=
  let pl := m.payload
  match m.kind, m.strm with
  | .launch, _ => s.memToken asid lc m true none pl.1 pl.2 m.tagOut
  | .strm, some t =>
    if t.token then
      let ws := s.widthsOf asid lc m.tagOut
      let s := (m.parts.zipIdx).foldl (fun s e =>
        s.memToken asid lc m false none (lanesOfBytes t.roww e.1.data) e.1.poison (withInner ws m.tagOut e.2)) s
      let s := if t.eosen then
          s.memToken asid lc m false (some (BitVec.ofNat 4 t.eosl)) [] false (withInner ws m.tagOut t.rows)
        else s
      s.memToken asid lc m true none [] false m.tagOut
    else
      let s := s.memToken asid lc m false none [] false m.tagOut
      if m.ra = .none then s.memToken asid lc m true none [] false m.tagOut else s
  | _, _ =>
    (s.memToken asid lc m false none pl.1 pl.2 m.tagOut).memToken asid lc m true none pl.1 pl.2 m.tagOut

/-- Whether a member's replies may be sent: its value is bound, and every earlier reply has been sent (15 R373). -/
def LCore.mayReply (x : LCore) (m : MemAcc) : Bool :=
  m.entered && m.bound && !m.replied && m.ra != .cancel &&
    (x.earlier m).all (fun e => e.replied || !e.wantsReply || e.ra == .cancel)

/-- Send the replies of a member if they may be sent. -/
def State.reply (s : State) (asid lc id : Nat) : State :=
  match s.lc? asid lc with
  | none => s
  | some x =>
    match x.mem.find? (fun m => m.id == id) with
    | none => s
    | some m =>
      if x.mayReply m then (s.sendReplies asid lc m).updMem asid lc id (fun m => { m with replied := true }) else s

/-- MEMORY_REPLY (15 R373): the replies of the member at `k`. -/
def execMemoryReply (asid lc k : Nat) (s : State) : Host.Outcome State Fault Refusal :=
  .next (match s.lc? asid lc with
  | none => s
  | some x =>
    match x.mem[k]? with
    | none => s
    | some m => if s.active asid then s.reply asid lc m.id else s)

/-- LAUNCH (09 R249): on an AG core it is a chain member, which emits a to DSTA as it enters chain order (14 R352); elsewhere it emits
a to DSTA now and its access is made at once. -/
def execLaunch (n : Node) (e1 e2 : BitVec 86) (s : State) : Host.Outcome State Fault Refusal :=
  fire (viewX 0x016 n e1 e2) s (fun c =>
    let byA := c.v.bits 5 1 == 1
    let va := if byA then tlane64 c.f.a 0 else c.v.x2 0 57
    if byA ∧ c.f.a.poison then .trap .poisonConsumed 0x02
    else
      match partsOf (tagColour c.f.tag) false (piecesOf va 256) [] with
      | .error _ => .trap .accessFault 0x23
      | .ok ps =>
        let m := { c.member .launch (c.v.x1 0 32) 3 with rel := true, parts := ps, aux := c.v.bits 0 5 }
        if c.x.role = .ag then c.submit m [] id
        else if c.v.e1 ≠ 0 then .trap .illegalNode Diag.reserved.code
        else .done (c.upd (fun x => { x with mem := x.mem ++ [{ m with entered := true }], memId := m.id + 1 }))
          [c.outA c.f.a.lanes c.f.a.poison])

end Sys2Proof.Machine
end

