-- ==== Sys2Proof/Machine/Home.lean ====
section
/-! DEFINITION. Accesses at their homes and at the host ports, resends, streams, page walks and invalidations (14 R348,
R355, R357, R361, R367, R369; 15 R379 to R383; 13 R344 to R347; 10 R276). -/
namespace Sys2Proof.Machine

/-- Record a request as performed at its home (14 R367). -/
def State.markDone (s : State) (r : HReq) : State :=
  let home := s.homeOf r.pa
  let time := (s.field (fieldOfCluster (home / 8))).time.toNat
  let old := match s.dupRec r.asid r.lc r.chain home with
    | some d => d
    | none => { asid := r.asid, lc := r.lc, chain := r.chain, home := home, floor := r.floor, done := [], time := time }
  let f := if seqBelow old.floor r.floor then r.floor else old.floor
  let new := { old with floor := f, done := (r.seq :: old.done).filter (fun q => !seqBelow q f), time := time }
  { s with dups := s.dups.filter (fun d =>
      !(d.asid == r.asid && d.lc == r.lc && d.chain == r.chain && d.home == home)) ++ [new] }

/-- Count a discarded duplicate at its home (14 R367, 16 R396). -/
def State.countDup (s : State) (r : HReq) : State :=
  let home := s.homeOf r.pa
  if home < 65536 then
    s.updCluster (home / 8) (fun k => k.updCol (home % 8) (fun c => { c with dupdisc := satInc c.dupdisc }))
  else s

/-- The floor that a request carries moves its home's record of its source forward (14 R367). -/
def State.noteFloor (s : State) (r : HReq) : State :=
  let home := s.homeOf r.pa
  let time := (s.field (fieldOfCluster (home / 8))).time.toNat
  { s with dups := s.dups.map (fun d =>
      if d.asid = r.asid ∧ d.lc = r.lc ∧ d.chain = r.chain ∧ d.home = home then
        let f := if seqBelow d.floor r.floor then r.floor else d.floor
        { d with floor := f, done := d.done.filter (fun q => !seqBelow q f), time := time }
      else d) }

/-- The value that an atomic leaves, from the old value and its operands; none where it leaves memory unchanged
(15 R382). -/
def atomicNew (opc : BitVec 10) (t : ETyp) (old v y : Nat) : Option Nat :=
  let n := intBits t
  let so := intVal t old
  let sv := intVal t v
  match opc.toNat with
  | 0x280 => some ((old + v) % 2 ^ n)
  | 0x281 => some (f32.add .rne old v).1
  | 0x282 => some (if sv < so then v else old)
  | 0x283 => some (if so < sv then v else old)
  | 0x284 => some (old &&& v)
  | 0x285 => some (old ||| v)
  | 0x286 => some (old ^^^ v)
  | 0x287 => some v
  | 0x288 => if old = v then some y else none
  | _ => some (if v ≤ old then 0 else old + 1)

/-- Finish a part of a member: its data, poison and stage. -/
def State.finishPart (s : State) (r : HReq) (data : List Byte) (poison : Bool) (stage : Nat) : State :=
  s.updMem r.asid r.lc r.id (fun m =>
    { m with parts := m.parts.mapIdx (fun j p =>
        if j = r.part then { p with data := data, poison := p.poison || poison, stage := Nat.max p.stage stage } else p) })

/-- Whether the rest of a member's parts have their bytes. -/
def MemAcc.lastPart (m : MemAcc) (i : Nat) : Bool := m.parts.zipIdx.all (fun e => e.2 == i || e.1.stage == 4)

/-- A part of a load or atomic has its value; with the last, an acquire learns what happens before it (14 R357, R358). -/
def State.bindPart (s : State) (r : HReq) (x : LCore) (m : MemAcc) (data : List Byte) (poison : Bool) : State :=
  (if m.lastPart r.part ∧ m.kind ≠ .strm then s.learnAcq r.asid r.lc x m else s).finishPart r data poison 4

/-- Perform an atomic on memory: a poisoned line is left unchanged (15 R382). -/
def State.doAtomic (s : State) (r : HReq) (x : LCore) (m : MemAcc) : State :=
  let s := s.readNote r.pa
  let bs := s.bytesAt r.pa r.len
  let pz := s.poisonIn r.pa r.len
  let v := natOfBytes (r.data.take r.len)
  let y := natOfBytes ((r.data.drop r.len).take r.len)
  let s1 := if pz then s else
    match atomicNew r.opc r.typ (natOfBytes bs) v y with
    | some w => (s.setBytes r.pa (bytesOfNat r.len w)).markLine r.pa false false
    | none => s
  s1.bindPart r x m bs pz

/-- Whether an earlier load of a request's chain instance has yet to bind an overlapping byte (14 R353 rule 4). The parts of a
stream that has not fetched them are compared by page offset; a run-ahead stream may fetch its bytes again until its STEER has
resolved it (01 R33). -/
def State.loadWaits (s : State) (r : HReq) : Bool :=
  match s.lc? r.asid r.lc with
  | none => false
  | some x =>
    match x.mem.find? (fun m => m.id == r.id) with
    | none => false
    | some m => (x.earlier m).any (fun e => e.isLoad && !e.bound && e.ra != .cancel &&
        e.parts.any (fun p => (p.stage != 4 || e.ra == .ahead || e.ra == .halted) &&
          (if p.stage = 0 ∨ p.fault.isSome ∨ e.ra = .halted then
             m.parts.any (fun q => overlaps (p.va % 4096) p.len (q.va % 4096) q.len)
           else overlaps p.pa p.len r.pa r.len)))

/-- Whether an older write of the same cluster to the same line is still on its way (14 R348). -/
def State.writeWaits (s : State) (k : Nat) (r : HReq) : Bool :=
  (s.reqs.take k).any (fun q => q.kind == .write && !q.atHost && q.pa / 64 == r.pa / 64 &&
    s.lcCluster q.asid q.lc == s.lcCluster r.asid r.lc && !s.isDup q &&
    !(q.asid == r.asid && q.lc == r.lc && q.id == r.id && q.part == r.part))

/-- A request with the logical core and the member that it serves. -/
def State.reqMem (s : State) (r : HReq) : Option (LCore × MemAcc) :=
  match s.lc? r.asid r.lc with
  | none => none
  | some x => (x.mem.find? (fun m => m.id == r.id)).map (fun m => (x, m))

/-- Whether an address is host memory. -/
def isHostPa (pa : Nat) : Bool := decide (2251799813685248 ≤ pa) && decide (pa < 4503599627370496)

/-- Mark request `k` as standing at its host port. -/
def State.toHost (s : State) (k : Nat) : State :=
  let f (e : HReq × Nat) : HReq := if e.2 = k then { e.1 with atHost := true } else e.1
  { s with reqs := s.reqs.zipIdx.map f }

/-- What a read returns, and what it learns: below FIELD scope the newest held bytes of its core and cluster, whose stores then
happen before what follows (14 R348, R355, R359). -/
def State.readHome (s : State) (r : HReq) (x : LCore) (m : MemAcc) : State :=
  let s := s.readNote r.pa
  if r.scope < 2 then
    let v := s.readThrough r.asid r.lc x r.pa r.len
    let seen := (s.seenPends r.asid r.lc x).filter (fun w => overlaps w.pa w.data.length r.pa r.len)
    (s.learn r.asid r.lc m false (seen.map (·.id))).bindPart r x m v.1 v.2
  else s.bindPart r x m (s.bytesAt r.pa r.len) (s.poisonIn r.pa r.len)

/-- A read at its home (14 R348, R353, R355, R360): it waits for the writes that happen before it, and at FIELD scope or wider
for those that its cluster holds. -/
def State.homeRead (s : State) (k : Nat) (r : HReq) : State :=
  match s.reqMem r with
  | none => { s with reqs := listDrop s.reqs k }
  | some (x, m) =>
    if s.loadWaits r ∨ (2 ≤ r.scope ∧ s.pending x.cluster r.pa r.len) ∨ s.hbWaits r.asid r.lc x r.scope m.hb r.pa r.len then s
    else if isHostPa r.pa then s.toHost k
    else { s with reqs := listDrop s.reqs k }.readHome r x m

/-- What happens before the member that a request serves. -/
def State.reqHb (s : State) (r : HReq) : List StoreId := match s.reqMem r with | some (_, m) => m.hb | none => []

/-- A write at its home: a duplicate is discarded and counted; any other is performed once the writes that happen before it to
the same home are (14 R355, R360, R367). A write to host memory then waits for a flush (14 R348). -/
def State.homeWrite (s : State) (k : Nat) (r : HReq) : State :=
  let s1 := { s with reqs := listDrop s.reqs k }
  if s.isDup r then (s1.noteFloor r).countDup r
  else if s.writeWaits k r ∨ s.hbHolds (s.reqHb r) r.pa then s
  else
    let s2 := (s1.writeLine r.pa r.data r.poison).markDone r
    if isHostPa r.pa then
      ({ s2 with reqs := s2.reqs ++ [{ r with atHost := true }] }).finishPart r r.data r.poison 3
    else s2.finishPart r r.data r.poison 4

/-- An atomic at its home, after the writes its cluster holds to its bytes and those to the same home that happen before it
(14 R357, R360); at a host port it becomes an AtomicOp or faults (15 R383). -/
def State.homeAtomic (s : State) (k : Nat) (r : HReq) : State :=
  let s1 := { s with reqs := listDrop s.reqs k }
  if s.isDup r then (s1.noteFloor r).countDup r
  else
    match s.reqMem r with
    | none => s1
    | some (x, m) =>
      if s.pending x.cluster r.pa r.len ∨ s.loadWaits r ∨ s.hbHolds m.hb r.pa then s
      else if isHostPa r.pa then
        if r.opc = 0x280 ∨ r.opc = 0x287 ∨ r.opc = 0x288 then (s.toHost k).markDone r
        else s1.endMem r.asid r.lc m .accessFault 0x63
      else (s1.markDone r).doAtomic r x m

/-- The copy job that a multicast line belongs to; `chain` is the cluster of its copy unit. -/
def State.mcastJob (s : State) (r : HReq) : Option EJob := (s.cluster r.chain).cpq.find? (fun j => j.id.toNat == r.id)

/-- The logical cores that a multicast line goes to. -/
def State.mcastDests (s : State) (r : HReq) : List Nat := match s.mcastJob r with | some j => j.claims | none => []

/-- The pending multicast read that a request may join (15 R391): one of the same line and address space whose data has not left
its home, with no write since its place in home order, fewer than 4 requests, and other destinations. Writes that leave the
line's bytes and poison as the read found them cannot be told from none. -/
def State.mergesWith (s : State) (r : HReq) : Option HReq :=
  let group (q : HReq) : List HReq := s.reqs.filter (fun g => g.kind == .mcast && g.atHost && g.read == q.read)
  s.reqs.find? (fun q => q.kind == .mcast && q.atHost && !q.left && q.pa == r.pa && q.asid == r.asid &&
    q.data == s.bytesAt r.pa r.len && q.linePz == s.poisonIn r.pa r.len && decide ((group q).length < 4) &&
    (group q).all (fun g => (s.mcastDests g).all (fun l => !(s.mcastDests r).contains l)))

/-- A multicast line at its home (14 R360, R362; 15 R390, R391): it joins a pending read, or it is read once its cluster holds
no write to it and the writes that happen before its command are performed; its data then leaves. -/
def State.homeMcast (s : State) (k : Nat) (r : HReq) : State :=
  match s.mcastJob r with
  | none => { s with reqs := listDrop s.reqs k }
  | some j =>
    if s.pending r.chain r.pa r.len ∨ s.hbHolds j.fire.hb r.pa then s
    else
      match s.mergesWith r with
      | some q =>
        let r' := { r with data := q.data, linePz := q.linePz, poison := r.poison || q.linePz, atHost := true, read := q.read }
        { s with reqs := listSet s.reqs k r' }
      | none =>
        let s1 := s.readNote r.pa
        let pz := s1.poisonIn r.pa r.len
        let r' := { r with data := s1.bytesAt r.pa r.len, linePz := pz, poison := r.poison || pz, atHost := true,
                           read := s1.freeCtr }
        { s1 with freeCtr := s1.freeCtr + 1, reqs := listSet s1.reqs k r' }

/-- HOME_ACCESS (14 R355, R357, R361, R367): the request at `k` is performed at its home when nothing it must wait for is
left; an owned line makes it wait. -/
def execHomeAccess (k : Nat) (s : State) : Host.Outcome State Fault Refusal :=
  .next (match s.reqs[k]? with
  | none => s
  | some r =>
    if r.atHost ∨ (s.isOwned r.pa r.len ∧ !((r.kind == .write || r.kind == .atomic) && s.isDup r)) then s
    else match r.kind with
      | .read => s.homeRead k r
      | .write => s.homeWrite k r
      | .atomic => s.homeAtomic k r
      | .mcast => s.homeMcast k r)

/-- HOST_PORT_COMPLETION (14 R348; 15 R383): the host completes a read, a flush or an AtomicOp. An AtomicOp completed
as unsupported faults; the data of a read so completed are not stated, and are free values. -/
def execHostPortCompletion (k : Nat) (ok : Bool) (s : State) : Host.Outcome State Fault Refusal :=
  .next (match s.reqs[k]? with
  | none => s
  | some r =>
    let s1 := { s with reqs := listDrop s.reqs k }
    if !r.atHost then s
    else match r.kind with
      | .read =>
        (match s.reqMem r with
        | none => s1
        | some (x, m) =>
          if ok then s1.readHome r x m
          else
            let bs := bytesOfLanes ((List.range 16).map (fun i => Config.freeWord (s.freeCtr + i)))
            ({ s1 with freeCtr := s.freeCtr + 16 }).bindPart r x m (bs.take r.len) false)
      | .write => if ok then s1.finishPart r r.data r.poison 4 else s
      | .atomic =>
        (match s.reqMem r with
        | none => s1
        | some (x, m) => if ok then s1.doAtomic r x m else s1.endMem r.asid r.lc m .accessFault 0x63)
      | .mcast => s)

/-- The time at which a request's source counts (14 R367). -/
def State.srcTime (s : State) (r : HReq) : Nat :=
  match s.lc? r.asid r.lc with | some x => (s.field x.field).time.toNat | none => 0

/-- WRITE_RESEND (14 R367): a copy of an unacknowledged store or atomic, with its number and the current floor, within
100 µs of the first send. It takes its place behind the copy it repeats. -/
def execWriteResend (k : Nat) (s : State) : Host.Outcome State Fault Refusal :=
  .next (match s.reqs[k]? with
  | none => s
  | some r =>
    if (r.kind = .write ∨ r.kind = .atomic) ∧ !r.atHost ∧ !s.isDup r ∧ s.srcTime r < r.sent + 100000 then
      let floor := (s.unacked r.asid r.lc r.chain (s.homeOf r.pa)).foldl
        (fun f q => if seqBelow q.seq f then q.seq else f) r.seq
      { s with reqs := s.reqs.take (k + 1) ++ [{ r with floor := floor }] ++ s.reqs.drop (k + 1) }
    else s)

/-- WRITE_RESEND_EXPIRY (14 R367): 100 µs after its first send an access unacknowledged raises ACCESS_FAULT. -/
def execWriteResendExpiry (k : Nat) (s : State) : Host.Outcome State Fault Refusal :=
  .next (match s.reqs[k]? with
  | none => s
  | some r =>
    if (r.kind = .write ∨ r.kind = .atomic) ∧ !r.atHost ∧ !s.isDup r ∧ r.sent + 100000 ≤ s.srcTime r then
      match s.lc? r.asid r.lc with
      | none => s
      | some x =>
        let s1 := { s with reqs := s.reqs.filter (fun q => !(q.asid == r.asid && q.lc == r.lc && q.id == r.id)) }
        match x.mem.find? (fun m => m.id == r.id) with
        | none => s1
        | some m => s1.endMem r.asid r.lc m .accessFault 0x5A
    else s)

/-- The rows of a token-mode stream as parts, one for each row. -/
def MemAcc.rowParts (m : MemAcc) (t : StreamP) : List Part :=
  let ps := m.parts.zip (t.linePieces (tlane64 m.fire.a 0))
  (List.range t.rows).map (fun r =>
    let ds := (ps.filter (fun p => p.2.1 == r)).map (·.1)
    { va := 0, pa := 0, len := 4 * t.roww, data := ds.flatMap (·.data), poison := ds.any (·.poison), stage := 4 })

/-- STREAM_COMPLETE (15 R379; 01 R32): a released STRM with all its bytes fills its tile, which goes READY, or makes its rows; it
is bound, and its replies are sent once every earlier reply has been. -/
def execStreamComplete (asid lc k : Nat) (s : State) : Host.Outcome State Fault Refusal :=
  .next (match s.lc? asid lc with
  | none => s
  | some x =>
    match x.mem[k]? with
    | none => s
    | some m =>
      match m.strm with
      | none => s
      | some t =>
        if !s.active asid ∨ m.kind ≠ .strm ∨ !m.released ∨ m.bound ∨ !m.filled ∨ m.ra = .ahead ∨ m.ra = .wait ∨ m.ra = .cancel ∨
            m.ra = .halted then s
        else
          let s1 := if t.token ∨ m.aux = 3 then s else s.fillStream asid lc m t
          ((s1.learnAcq asid lc x m).updMem asid lc m.id (fun m =>
            { m with bound := true, parts := if t.token then m.rowParts t else [] })).reply asid lc m.id)

/-- SPECULATIVE_FILL_COMPLETE (10 R272; 01 R31): a run-ahead stream has all its bytes, or the faults that it holds for them: DONE
is set. -/
def execSpeculativeFillComplete (asid lc k : Nat) (s : State) : Host.Outcome State Fault Refusal :=
  .next (match s.lc? asid lc with
  | none => s
  | some x =>
    match x.mem[k]? with
    | none => s
    | some m =>
      match m.strm with
      | none => s
      | some t =>
        if !s.active asid ∨ !m.released ∨ m.ra ≠ .ahead ∨ !m.filled then s
        else s.updLC asid lc (fun x => x.updTile t.tile (fun tl => { tl with done := true })))

/-- A waiting access of a walk: its member. -/
def State.missMem (s : State) (w : Miss) : Option (LCore × MemAcc) :=
  match w with
  | .access asid lc id =>
    match s.lc? asid lc with
    | some x => (x.mem.find? (fun m => m.id == id)).map (fun m => (x, m))
    | none => none
  | _ => none

/-- Whether a member's access writes. -/
def MemAcc.writes (m : MemAcc) : Bool := m.kind == .store || m.kind == .atomic || m.kind == .strmst

/-- Whether a waiting access writes. A copy job sets D with its own translation. -/
def State.missWrites (s : State) (w : Miss) : Bool :=
  match s.missMem w with
  | some (_, m) => m.writes
  | none => false

/-- The tile of a logical core that a copy job writes (15 Table 3). -/
def EJob.dtile (j : EJob) : Nat := j.view.x1 17 5

/-- The slot of a CB line command: LIT, or a lane 2 with .IDX (15 R393). -/
def EJob.slot (j : EJob) : Nat := if j.view.bits 11 1 = 1 then (tlane j.fire.a 2).toNat else j.view.bits 5 6

/-- End a copy job: its tiles go READY, its lines are released, it leaves the queue, and its completion token is sent
(05 R127, R130; 15 R386). A TFILL that ends with a fault after it has started is no longer in progress: P of its line is cleared, and
V stays clear (10 R274). -/
def State.endCopy (s : State) (cluster : Nat) (j : EJob) (fault : Option Nat) : State :=
  let key := 65536 * cluster + j.id.toNat
  let isCopy := isCopyCmd j.opc.toNat
  let s := if isCopy ∧ j.view.bits 0 2 = 1 then s.updLC j.asid j.lc (fun x => x.releaseTile (j.view.bits 7 5)) else s
  let s := if isCopy ∧ j.view.bits 2 2 = 1 then
      j.claims.foldl (fun s lc => s.updLC j.asid lc (fun x => x.releaseTile j.dtile)) s
    else s
  let s := if j.opc = 0x2C6 ∧ j.started ∧ fault.isSome then
      s.updLC j.asid j.lc (fun x => x.updTile (j.view.bits 0 5) (fun t => t.updCb j.slot (fun e => { e with p := false })))
    else s
  let s := { s with owned := s.owned.filter (fun o => o.2 != key),
                    reqs := s.reqs.filter (fun r => !(r.kind == ReqKind.mcast && r.chain == cluster && r.id == j.id.toNat)) }
  (s.updCluster cluster (fun k => { k with cpq := dropJob k.cpq j.id })).completionToken .copy cluster j fault

/-- A copy job ends with a trap at its issuing logical core (05 R130). -/
def State.failCopy (s : State) (cluster : Nat) (j : EJob) (cause : Cause) (detail : Nat) : State :=
  (s.takeTrap j.asid j.lc (j.trapInfo cause detail)).endCopy cluster j (some detail)

/-- Whether a waiting access raises no fault: a PREF (15 R376), and a run-ahead stream before its STEER (01 R32). -/
def State.missQuiet (s : State) (w : Miss) : Bool :=
  match s.missMem w with | some (_, m) => m.kind == .pref || m.ra == .ahead || m.ra == .halted | none => false

/-- A stream meets a fault at the part that it is to fetch next (13 R343). -/
def State.failNext (s : State) (asid lc : Nat) (m : MemAcc) (detail : Nat) : State :=
  match (m.parts.zipIdx).find? (fun e => e.1.stage == 0) with
  | some e => s.failStream asid lc m e.2 detail
  | none => s

/-- A record that a region controller waits to write. -/
def State.rcWait (s : State) (n : Nat) : Option RcWrite := s.rcq.find? (fun w => w.id + 262144 == n)

/-- An access of an AG core whose walk ends in a fault has missed in its core's TLB (16 R403). -/
def State.countMiss (s : State) (w : Miss) : State :=
  match w with
  | .access asid lc _ => s.updLC asid lc (fun x => if x.role = .ag then x.perfEvent 0x0D 1 else x)
  | _ => s

/-- Whether the line that a waiting record goes to is owned (14 R361). -/
def State.rcOwned (s : State) (a : Miss) : Bool :=
  match a with
  | .meet _ e =>
    (match s.rcWait e with
    | some w => (match s.translate w.field w.asid w.va true false true with
      | .ok (pa, _, _) => s.isOwned pa w.bytes.length
      | .error _ => false)
    | none => false)
  | _ => false

/-- What a fault of page `vpn` does to a waiter: an access ends with it, a run-ahead stream holds it, a PREF is answered, a copy
job ends, a record is reported, and the start or save of a pitch knows the page as one that cannot be resolved. -/
def State.failMiss (s : State) (vpn : Nat) (cause : Cause) (detail : Nat) (w : Miss) : State :=
  match w, s.missMem w with
  | .access asid lc id, some (_, m) =>
    if m.kind = .pref then s.updMem asid lc id (fun m => { m with released := true, bound := true })
    else if m.ra = .halted then s
    else if m.holdsFaults then
      s.updMem asid lc id (fun m =>
        { m with parts := m.parts.map (fun p => if p.stage = 0 ∧ p.va / 4096 = vpn then p.hold cause detail else p) })
    else if m.kind = .launch then s.endMem asid lc m .accessFault 0x23
    else if m.strm.isSome then s.failNext asid lc m detail
    else s.endMem asid lc m .accessFault detail
  | .job k id, _ =>
    match (s.cluster k).cpq.find? (fun j => j.id.toNat == id) with
    | none => s
    | some j => s.failCopy k j .accessFault detail
  | .meet fi e, _ =>
    if 262144 ≤ e then
      match s.rcWait e with
      | some w => State.launchBad { s with rcq := s.rcq.filter (fun q => q.id != w.id) } w.queue w.index
      | none => s
    else if 131072 ≤ e then s.updPitch (e - 131072) (fun p => { p with badPages := vpn :: p.badPages })
    else if 65536 ≤ e then
      match (s.field fi).mq.find? (fun j => j.id.toNat + 65536 == e && j.opc == 0x307) with
      | none => s
      | some j => (s.takeTrap j.asid j.lc (j.trapInfo .accessFault 0x41)).endMeet j (some 0x41)
    else s.meetFault fi e
  | _, _ => s

/-- Fill the TLB of a waiter's core, and that of its cluster (13 R344), for a walk of field `fi`; a region controller writes its
record. -/
def State.fillMiss (s : State) (fi : Nat) (t : TlbEntry) (w : Miss) : State :=
  match w with
  | .access asid lc _ =>
    match s.lc? asid lc with
    | some x =>
      let s1 := if x.role = .ag then
          { s with tlbs := SMap.put [] s.tlbs x.core (tlbFill32 (s.agTlb x) t) }.updLC asid lc (fun x => x.perfEvent 0x0D 1)
        else s
      s1.updCluster x.cluster (fun k => { k with tlb := tlbFillCluster k.tlb t })
    | none => s
  | .job k _ => s.updCluster k (fun k => { k with tlb := tlbFillCluster k.tlb t })
  | .meet _ e =>
    match s.rcWait e with
    | some w => s.rcWrite w
    | none => if e < 131072 then s.updCluster (meetCluster fi) (fun k => { k with tlb := tlbFillCluster k.tlb t }) else s

/-- Start the walk of the oldest queued miss, with those that join it, while fewer than 16 are in flight (13 R344). -/
def Field.nextWalk (f : Field) : Field :=
  match f.wqueue with
  | [] => f
  | (asid, vpn, _) :: _ =>
    if f.walks.length < 16 then
      let mine := f.wqueue.filter (fun q => q.1 == asid && q.2.1 == vpn)
      { f with wqueue := f.wqueue.filter (fun q => !(q.1 == asid && q.2.1 == vpn)),
               walks := f.walks ++ [{ asid := asid, vpn := vpn, who := mine.map (·.2.2), fault := none }] }
    else f

/-- The parts of a member that are to be translated next (13 R344): a released stream's next, and before its release those of
any other access. -/
def MemAcc.toWalk (m : MemAcc) : List Part :=
  if m.ra = .cancel ∨ m.ra = .halted then []
  else if m.strm.isSome then (if m.released then ((m.parts.find? (fun p => p.stage == 0)).toList) else [])
  else if m.released then [] else m.parts

/-- TLB_MISS_WALK (13 R344): an access that misses in the TLBs of its core and cluster goes to its field's walker. -/
def execTlbMissWalk (field asid vpn : Nat) (who : Miss) (s : State) : Host.Outcome State Fault Refusal :=
  .next (match who with
  | .access a lc id =>
    match s.lc? a lc with
    | none => s
    | some x =>
      match x.mem.find? (fun m => m.id == id) with
      | none => s
      | some m =>
        if a = asid ∧ x.field = field ∧ s.active asid ∧ m.entered ∧
            m.toWalk.any (fun p => p.va / 4096 == vpn && s.lookup asid x p.va m.writes == .miss) then
          s.missAt field asid vpn who
        else s
  | .job k id =>
    if fieldOfCluster k = field ∧ (s.cluster k).cpq.any (fun j => j.id.toNat == id && j.started && j.asid == asid) then
      s.missAt field asid vpn who
    else s
  | .meet _ e =>
    match s.rcWait e with
    | some w => if w.field = field ∧ w.asid = asid ∧ w.va / 4096 = vpn then s.missAt field asid vpn who else s
    | none => s)

/-- Remove walk `k` of a field, and start the next. -/
def State.dropWalk (s : State) (fi k : Nat) : State :=
  s.updField fi (fun f => Field.nextWalk { f with walks := listDrop f.walks k })

/-- The dirty lines of a pitch's CB tiles: logical core, its field, tile, slot, line. -/
def Pitch.dirtyLines (p : Pitch) : List (Nat × Nat × Tile × Nat × CbLine) :=
  p.lcores.flatMap (fun e => e.2.tiles.flatMap (fun t =>
    if t.2.role = .cb then
      (t.2.cb.filter (fun l => l.2.v && l.2.d)).map (fun l => (e.1, e.2.field, t.2, l.1, l.2))
    else []))

/-- Whether a member table lies in a page. -/
def Meeting.inPage (m : Meeting) (vpn : Nat) : Bool :=
  decide (m.mbuf / 4096 ≤ vpn) && decide (vpn ≤ (m.mbuf + 8 * m.n - 1) / 4096)

/-- The PAGE_FAULT of the start of a pitch, of the owner of a meeting of its image (11 R284), or of its save, of the logical core
whose tile holds the line (06 R182). -/
def State.pitchFault (s : State) (asid vpn : Nat) : State :=
  match s.pitch? asid with
  | none => s
  | some p =>
    if p.st = .loading then
      match (p.image.meetings.map (fun c => c.meeting asid)).find? (fun m => m.inPage vpn) with
      | some m => s.ownerTrap m .pageFault 0
      | none => s
    else
      match p.dirtyLines.find? (fun e => 512 * e.2.2.2.2.tag.toNat / 4096 == vpn) with
      | some e => s.coreTrap asid e.1 .pageFault 0
      | none => s

/-- WALK_COMPLETE (13 R344 to R346): a leaf fills the caches, sets A, and D for the walk of a write, and answers every
waiter; V = 0 raises one PAGE_FAULT, attributed to the first access that can fault; another fault reaches every
waiter. It waits while an engine owns an entry that it reads, or the line that a region controller's record goes to (14 R361). -/
def execWalkComplete (field k : Nat) (s : State) : Host.Outcome State Fault Refusal :=
  .next (match (s.field field).walks[k]? with
  | none => s
  | some w =>
    if w.fault.isSome ∨ s.walkOwned field w.asid w.vpn ∨ w.who.any s.rcOwned then s
    else
      let s0 := s.walkNote field w.asid w.vpn
      match s.walk field w.asid w.vpn with
      | .leaf at_ e level upper =>
        let write := match w.who with | a :: _ => s.missWrites a | [] => false
        let pa := ppnOf e * 4096 + (w.vpn * 4096) % (4096 * 512 ^ level)
        let setD := write && (leafFault s e pa true true true).isNone
        let e' : DWord := e ||| (if setD then 0x30 else 0x10)
        let s1 := s0.setAD at_ e setD
        let s2 := s1.updField field (fun f => { f with pwc := pwcFill f.pwc w.asid w.vpn upper })
        (w.who.foldl (fun s a => s.fillMiss field (tlbOf w.asid w.vpn level e') a) s2).dropWalk field k
      | .absent at_ =>
        (match w.who.find? (fun a => !s.missQuiet a) with
        | none => (w.who.foldl (fun s a => (s.countMiss a).failMiss w.vpn .pageFault 0 a) s0).dropWalk field k
        | some a =>
          let s1 := s0.updField field (fun f =>
            { f with walks := f.walks.mapIdx (fun j w => if j = k then { w with fault := some at_, since := f.time.toNat } else w) })
          match s.missMem a, a with
          | some (_, m), .access asid lc _ => s1.sendTrap asid lc (m.trapInfo .pageFault 0) false none
          | _, .job c id =>
            (match (s.cluster c).cpq.find? (fun j => j.id.toNat == id) with
            | some j => s1.sendTrap j.asid j.lc (j.trapInfo .pageFault 0) false none
            | none => s1)
          | _, .meet fi e =>
            (match s.meeting? fi e, (s.field fi).mq.find? (fun j => j.id.toNat + 65536 == e && j.opc == 0x307) with
            | some m, _ => s1.ownerTrap m .pageFault 0
            | none, some j => s1.sendTrap j.asid j.lc (j.trapInfo .pageFault 0) false none
            | none, none => if 131072 ≤ e ∧ e < 262144 then s1.pitchFault (e - 131072) w.vpn else s1)
          | _, _ => s1)
      | .fault d => (w.who.foldl (fun s a => (s.countMiss a).failMiss w.vpn .accessFault d a) s0).dropWalk field k)

/-- PAGE_FAULT_RESOLUTION (13 R341, R345): the region controller writes an entry, and the walk is made again; the page of
a window's backing comes, zero-filled, from the field's pool. With no entry, every waiter raises ACCESS_FAULT. -/
def execPageFaultResolution (field k : Nat) (leaf : Option DWord) (s : State) : Host.Outcome State Fault Refusal :=
  .next (match (s.field field).walks[k]? with
  | none => s
  | some w =>
    match w.fault with
    | none => s
    | some at_ =>
      if s.isOwned at_ 8 then s
      else match leaf with
      | none => (w.who.foldl (fun s a => (s.countMiss a).failMiss w.vpn .accessFault 0x59 a) s).dropWalk field k
      | some e =>
        let again (s : State) : State :=
          ((s.assign at_).setBytes at_ (bytesOfNat 8 e.toNat)).updField field (fun f =>
            { f with walks := f.walks.mapIdx (fun j w => if j = k then { w with fault := none } else w) })
        if 17592186044416 ≤ w.vpn ∧ e.getLsbD 3 then
          if (s.field field).pages.contains (ppnOf e) then
            again (State.poolLow { ((s.writeRange 64 (ppnOf e * 4096) (List.replicate 4096 0) false).updField field
                (fun f => { f with pages := f.pages.filter (· ≠ ppnOf e) })) with
              backing := (w.asid, w.vpn) :: s.backing.filter (· ≠ (w.asid, w.vpn)) } field)
          else s
        else again s)

/-- BACKING_PAGE_TIMEOUT (17 R411): an access that has waited 10 ms of its field's TIME for a backing page, with the pool empty, raises
ACCESS_FAULT 0x59. -/
def execBackingPageTimeout (field k : Nat) (s : State) : Host.Outcome State Fault Refusal :=
  .next (match (s.field field).walks[k]? with
  | none => s
  | some w =>
    if w.fault.isSome ∧ 17592186044416 ≤ w.vpn ∧ (s.field field).pages = [] ∧ w.since + 10000000 ≤ (s.field field).time.toNat then
      (w.who.foldl (fun s a => (s.countMiss a).failMiss w.vpn .accessFault 0x59 a) s).dropWalk field k
    else s)

/-- Queue an invalidation at a field: at most 8 at once (13 R347). -/
def Field.queueInval (f : Field) (i : Inval) : Field :=
  if f.invq.length < 8 then { f with invq := f.invq ++ [i], issued := f.issued + 1 } else { f with overrun := true }

/-- INVALIDATE_ALL (13 R347). -/
def execInvalidateAll (field : Nat) (s : State) : Host.Outcome State Fault Refusal :=
  .next (s.updField field (fun f => f.queueInval { kind := 0, asid := 0, vpn := 0, pages := 0 }))

/-- INVALIDATE_ASID (13 R347). -/
def execInvalidateAsid (field asid : Nat) (s : State) : Host.Outcome State Fault Refusal :=
  .next (s.updField field (fun f => f.queueInval { kind := 1, asid := asid, vpn := 0, pages := 0 }))

/-- INVALIDATE_RANGE (13 R347): INVADDR and INVLEN give the range, a length of 0 one page. -/
def execInvalidateRange (field asid : Nat) (s : State) : Host.Outcome State Fault Refusal :=
  .next (s.updField field (fun f =>
    f.queueInval { kind := 2, asid := asid, vpn := f.invAddr, pages := if f.invLen = 0 then 1 else f.invLen }))

/-- Whether an invalidation names a TLB entry: any page of the entry in the range. -/
def Inval.hits (i : Inval) (t : TlbEntry) : Bool :=
  match i.kind with
  | 0 => true
  | 1 => t.asid == i.asid
  | _ => t.asid == i.asid && decide (t.vpn < i.vpn + i.pages) && decide (i.vpn < t.vpn + 512 ^ t.level)

/-- Whether an invalidation names an entry of a page-walk cache, which covers the pages below its table. -/
def Inval.hitsUpper (i : Inval) (t : TlbEntry) : Bool :=
  i.hits { t with vpn := t.vpn * 512 ^ t.level }

/-- Whether an access translated through a dropped entry has yet to complete at its home (10 R276). -/
def State.invalPending (s : State) (i : Inval) : Bool :=
  s.reqs.any (fun r => i.kind == 0 || r.asid == i.asid) ||
    s.clusters.any (fun c => c.2.cpq.any (fun j => (i.kind == 0 || j.asid == i.asid) && !j.owns.isEmpty)) ||
    s.pitches.any (fun p => (i.kind == 0 || p.1 == i.asid) &&
      p.2.lcores.any (fun e => !e.2.sq.isEmpty ||
        e.2.mem.any (fun m => m.kind == .store && m.released && m.parts.any (fun p => p.stage == 0))))

/-- INVALIDATION_COMPLETE (10 R276, 13 R347): the oldest invalidation of a field completes once the accesses in flight
have; every TLB and walk cache drops its entries, and DONE counts it. -/
def execInvalidationComplete (field : Nat) (s : State) : Host.Outcome State Fault Refusal :=
  .next (match (s.field field).invq with
  | [] => s
  | i :: r =>
    if s.invalPending i then s
    else
      let keep (l : List TlbEntry) : List TlbEntry := l.filter (fun t => !i.hits t)
      let ft (t : Nat × List TlbEntry) : Nat × List TlbEntry := (t.1, keep t.2)
      let fc (e : Nat × Cluster) : Nat × Cluster := (e.1, { e.2 with tlb := keep e.2.tlb })
      let ff (e : Nat × Field) : Nat × Field := (e.1, { e.2 with pwc := e.2.pwc.filter (fun t => !i.hitsUpper t) })
      let s1 := { s with tlbs := (s.tlbs.map ft).filter (fun t => !t.2.isEmpty), clusters := s.clusters.map fc, fields := s.fields.map ff }
      s1.updField field (fun f => { f with invq := r, doneInv := f.doneInv + 1 }))

end Sys2Proof.Machine
end

