-- ==== Sys2Proof/Machine/TileOps.lean ====
section
/-! DEFINITION. Tile loads and stores: AB and CB tiles, and the token rings of TF tiles (15 R381; 13 R319; 10 R274). -/
namespace Sys2Proof.Machine

/-- The flit images of a token, 64 bytes each (02 R53). -/
def flitImages (t : Token) : List Byte :=
  bytesOfNat 16 (tokHeader t).toNat ++
    bytesOfLanes (padTo 0 (16 * flitsOf t.lanes.length - 4) t.lanes)

/-- A 16-bit field of a TF tile's control slot (13 R319). -/
def Tile.ctl (t : Tile) (off : Nat) : Nat := natOfBytes (t.read off 2)

/-- Set HEAD, TAIL and COUNT of a TF tile. -/
def Tile.setCtl (t : Tile) (head tail count : Nat) : Tile :=
  t.write 0 (bytesOfNat 2 head ++ bytesOfNat 2 tail ++ bytesOfNat 2 count)

/-- The slot after one: after 511 comes 1 (13 R319). -/
def nextSlot (n : Nat) : Nat := if n = 511 then 1 else n + 1

/-- The slot `k` after another. -/
def slotPlus (n k : Nat) : Nat := (n - 1 + k) % 511 + 1

/-- Push a token's image, which poisons its slots where the token is poisoned (13 R335); none while there is no room (13 R319). -/
def Tile.push (t : Tile) (tok : Token) : Option Tile :=
  let fl := flitsOf tok.lanes.length
  let tail := t.ctl 2
  if 511 < t.ctl 4 + fl then none
  else
    let img := flitImages tok
    let t1 := (List.range fl).foldl (fun t i => t.store (64 * slotPlus tail i) ((img.drop (64 * i)).take 64) tok.poison) t
    some (t1.setCtl (t.ctl 0) (slotPlus tail fl) (t.ctl 4 + fl))

/-- Pop the oldest image: its payload, its poison, which a poisoned line of its slots sets too (13 R335), and the tile; none
while the ring is empty (13 R319). -/
def Tile.pop (t : Tile) : Option (List Word × Bool × Tile) :=
  if t.ctl 4 = 0 then none
  else
    let head := t.ctl 0
    let hdr := natOfBytes (t.read (64 * head) 16)
    let w := hdr / 2 ^ 83 % 64
    let fl := flitsOf w
    let img := (List.range fl).flatMap (fun i => t.read (64 * slotPlus head i) 64)
    let pz := (List.range fl).any (fun i => t.poisonIn (64 * slotPlus head i) 64)
    some ((lanesOfBytes 44 (img.drop 16)).take w, hdr / 2 ^ 76 % 2 == 1 || pz,
      t.setCtl (slotPlus head fl) (t.ctl 2) (t.ctl 4 - fl))

/-- The CB lines (512 bytes each) of `n` bytes from `off`. -/
def cbLines (off n : Nat) : List Nat :=
  if n = 0 then [] else (List.range ((off % 512 + n + 511) / 512)).map (· + off / 512)

/-- Mark the lines of a write that hold valid copies as written (10 R274). -/
def Tile.cbDirty (t : Tile) (off n : Nat) : Tile :=
  if t.role = .cb then
    (cbLines off n).foldl (fun t l => if (t.cbLine l).v then t.updCb l (fun e => { e with d := true }) else t) t
  else t

/-- A tile access of TLD or TST: the tile, its offset, the bytes it covers (15 R381). -/
def Ctx.tileAcc (c : Ctx) (add : Option Token) (n : Nat) (k : Tile → Nat → FireRes) : FireRes :=
  let i := c.v.bits 0 5
  let t := c.x.tile i
  let off := c.v.bits 5 15 + (match add with | some a => (tlane a 0).toNat | none => 0)
  let poisoned := match add with | some a => a.poison | none => false
  if poisoned then .trap .poisonConsumed 0x04
  else if c.x.tileCount ≤ i then .trap .accessFault 0x60
  else if off % 4 ≠ 0 then .trap .align 0
  else if 32768 < off + n then .trap .accessFault 0x61
  else if !c.x.tilesOk c.v c.f.lc then .hold
  else if t.role = .cb ∧ (cbLines off n).any (fun l => (t.cbLine l).p) then .hold
  else k t off

/-- TLD (15 R381). -/
def execTld (n : Node) (s : State) : Host.Outcome State Fault Refusal :=
  fire (viewD 0x247 n) s (fun c =>
    let i := c.v.bits 0 5
    let w := c.v.bits 20 6
    let idx := c.v.bits 26 1 == 1
    if (c.x.tile i).role = .tf then
      if c.v.bits 5 15 ≠ 0 ∨ idx ∨ w ≠ 32 then .trap .illegalNode Diag.reserved.code
      else if !c.x.tilesOk c.v c.f.lc then .hold
      else match (c.x.tile i).pop with
        | none => .hold
        | some (ls, pz, t) => c.emitBoth (c.upd (fun x => x.updTile i (fun _ => t))) ls pz
    else
      c.tileAcc (if idx then some c.f.a else none) (4 * w) (fun t off =>
        c.emitBoth c.s (lanesOfBytes w (t.read off (4 * w))) (t.poisonIn off (4 * w))))

/-- TST (15 R381): under ARY 1 the offset of b is checked at a TF tile too, which then takes the image. -/
def execTst (n : Node) (s : State) : Host.Outcome State Fault Refusal :=
  fire (viewD 0x248 n) s (fun c =>
    let i := c.v.bits 0 5
    if (c.x.tile i).role = .tf then
      if c.v.bits 5 15 ≠ 0 then .trap .illegalNode Diag.reserved.code
      else c.tileAcc (if c.v.ary = .dyad then some c.bTok else none) 4 (fun t _ =>
        match t.push c.f.a with
        | none => .hold
        | some t => c.passA (c.upd (fun x => x.updTile i (fun _ => t))))
    else
      c.tileAcc (if c.v.ary = .dyad then some c.bTok else none) (4 * c.wa) (fun t off =>
        c.passA (c.upd (fun x => x.updTile i (fun _ =>
          (t.store off (bytesOfLanes c.f.a.lanes) c.f.a.poison).cbDirty off (4 * c.wa))))))

end Sys2Proof.Machine
end

