-- ==== Sys2Proof/Machine/CopyOps.lean ====
section
/-! DEFINITION. Copy-engine commands and the copy unit's jobs (15 R385 to R394; 14 R361, R362; 10 R274). In a job, `prog`
counts bytes done (source bytes for CPYE); `claims` holds the logical cores whose tiles it has claimed, and for a CPYE
or an overlapping CPY the poisoned lines of `buf`; `aux` is the CPYD stream position (twice the bytes consumed, plus one
once the stream is lost), the bytes a CPYE has written, or the phase of a CB line command. -/
namespace Sys2Proof.Machine

/-- LEN of a copy command (15 Table 3). -/
def EJob.len (j : EJob) : Nat := j.view.x1 37 21
/-- ROWB of GATH and SCAT. -/
def EJob.rowb (j : EJob) : Nat := j.view.x1 58 13
/-- SK: the source is a tile. -/
def EJob.srcTile (j : EJob) : Bool := j.view.bits 0 2 == 1
/-- DK: the destination is a tile. -/
def EJob.dstTile (j : EJob) : Bool := j.view.bits 2 2 == 1
/-- A pointer from lanes of a. -/
def EJob.ptr (j : EJob) (i : Nat) : Nat := tlane64 j.fire.a i
/-- The colour of a job's firing. -/
def EJob.colour (j : EJob) : Nat := tagColour j.fire.tag
/-- The key under which a job owns lines. -/
def EJob.key (j : EJob) (cluster : Nat) : Nat := 65536 * cluster + j.id.toNat

/-- The destination logical cores of a command whose DK is 1 (15 R385, R390). -/
def copyDests (v : NV) : List Nat :=
  if v.bits 2 2 ≠ 1 then []
  else if v.opc = 0x2C3 then ((List.range 32).filter (fun i => v.x2 i 1 == 1)).map (· + v.x1 0 17)
  else [v.x1 0 17]

/-- The address operands of a copy command: lanes used, and the alignment of each (15 R385, R388, R389). -/
def copyPtrs (v : NV) (third : Nat) : List (Nat × Nat) :=
  let opc := v.opc
  (if v.bits 0 2 = 0 then [(0, if opc = 0x2C1 then 2 else if opc = 0x2C4 then 8 else 64)] else []) ++
    (if v.bits 2 2 = 0 ∧ opc ≠ 0x2C5 then [(2, 64)] else []) ++
    (if opc = 0x2C5 then [(4, 8)] else if (opc = 0x2C1 ∨ opc = 0x2C2) ∧ third ≠ 0 then [(4, 64)] else [])

/-- A copy command at issue (15 R374, R385, R386; 05 R126): control operands, alignment, pointers, destination cores, tiles. -/
def Ctx.copyCmd (c : Ctx) (n : Node) (e1 e2 : BitVec 86) : FireRes :=
  let third := tlane64 c.f.a 4
  let ps := copyPtrs c.v (if c.v.opc = 0x2C1 ∨ c.v.opc = 0x2C2 then third else 0)
  let needsA := !ps.isEmpty || c.v.opc == 0x2C1 || c.v.opc == 0x2C2
  let own := (copyDests c.v).contains c.f.lc
  let src := c.v.bits 7 5
  if needsA ∧ c.f.a.poison then .trap .poisonConsumed 0x04
  else if ps.any (fun p => decide (tlane64 c.f.a p.1 % p.2 ≠ 0)) ∨ (c.v.bits 0 2 = 1 ∧ c.v.bits 12 15 % 64 ≠ 0) ∨
      (c.v.bits 2 2 = 1 ∧ c.v.x1 22 15 % 64 ≠ 0) then .trap .align 0
  else if c.v.x1 37 21 % 64 ≠ 0 ∨ ((c.v.opc = 0x2C4 ∨ c.v.opc = 0x2C5) ∧ c.v.x1 58 13 % 64 ≠ 0) then .trap .align 1
  else
    match ps.findSome? (fun p =>
      match checkPtr (tagColour c.f.tag) (tlane64 c.f.a p.1) with | .error d => some d | .ok _ => none) with
    | some d => .trap .accessFault d
    | none =>
      if (copyDests c.v).any (fun l => decide (c.p.n ≤ l)) then .trap .accessFault 0x64
      else if c.v.bits 0 2 = 1 ∧ !c.x.tileIs src .ab then .trap .accessFault 0x60
      else if c.s.queueRoom .copy c.x.cluster c.f.asid c.f.lc (c.s.cluster c.x.cluster).cpq && c.x.tilesOk c.v c.f.lc then
        let s := c.upd (fun x => (x.holdCopy c.v own 0).perfEvent 0x0B 1)
        let j := { c.job n e1 e2 [] with claims := if own then [c.f.lc] else [] }
        .done { s with cmds := s.cmds ++ [mkCmd .copy c.x.cluster j] } []
      else .hold

/-- CPY (15 R387). -/
def execCpy (n : Node) (e1 : BitVec 86) (s : State) : Host.Outcome State Fault Refusal :=
  fire (viewX 0x2C0 n e1 0) s (fun c => c.copyCmd n e1 0)
/-- CPYD (15 R388). -/
def execCpyd (n : Node) (e1 : BitVec 86) (s : State) : Host.Outcome State Fault Refusal :=
  fire (viewX 0x2C1 n e1 0) s (fun c => c.copyCmd n e1 0)
/-- CPYE (15 R388). -/
def execCpye (n : Node) (e1 : BitVec 86) (s : State) : Host.Outcome State Fault Refusal :=
  fire (viewX 0x2C2 n e1 0) s (fun c => c.copyCmd n e1 0)
/-- MCAST (15 R390). -/
def execMcast (n : Node) (e1 e2 : BitVec 86) (s : State) : Host.Outcome State Fault Refusal :=
  fire (viewX 0x2C3 n e1 e2) s (fun c => c.copyCmd n e1 e2)
/-- GATH (15 R389). -/
def execGath (n : Node) (e1 : BitVec 86) (s : State) : Host.Outcome State Fault Refusal :=
  fire (viewX 0x2C4 n e1 0) s (fun c => c.copyCmd n e1 0)
/-- SCAT (15 R389). -/
def execScat (n : Node) (e1 : BitVec 86) (s : State) : Host.Outcome State Fault Refusal :=
  fire (viewX 0x2C5 n e1 0) s (fun c => c.copyCmd n e1 0)

/-- A CB line command at issue (15 R393). -/
def Ctx.cbCmd (c : Ctx) (n : Node) : FireRes :=
  let idx := c.v.bits 11 1 == 1
  let fill := c.v.opc == 0x2C6
  if (idx ∨ fill) ∧ c.f.a.poison then .trap .poisonConsumed 0x04
  else if !c.x.tileIs (c.v.bits 0 5) .cb then .trap .accessFault 0x60
  else if idx ∧ 63 < (tlane c.f.a 2).toNat then .trap .accessFault 0x62
  else if fill ∧ tlane64 c.f.a 0 % 512 ≠ 0 then .trap .align 0
  else
    let ptr := if fill then checkPtr (tagColour c.f.tag) (tlane64 c.f.a 0) else .ok (0, false)
    match ptr with
    | .error d => .trap .accessFault d
    | .ok _ =>
      if c.s.queueRoom .copy c.x.cluster c.f.asid c.f.lc (c.s.cluster c.x.cluster).cpq then
        .done { c.upd (fun x => x.perfEvent 0x0B 1) with
          cmds := c.s.cmds ++ [mkCmd .copy c.x.cluster (c.job n 0 0 [])] } []
      else .hold

/-- TFILL (15 R393). -/
def execTfill (n : Node) (s : State) : Host.Outcome State Fault Refusal := fire (viewD 0x2C6 n) s (fun c => c.cbCmd n)
/-- TEVICT (15 R393). -/
def execTevict (n : Node) (s : State) : Host.Outcome State Fault Refusal := fire (viewD 0x2C7 n) s (fun c => c.cbCmd n)
/-- TINV (15 R393). -/
def execTinv (n : Node) (s : State) : Host.Outcome State Fault Refusal := fire (viewD 0x2C8 n) s (fun c => c.cbCmd n)

/-- Replace a copy job in its queue. -/
def State.setCopy (s : State) (cluster : Nat) (j : EJob) : State :=
  s.updCluster cluster (fun k => { k with cpq := setJob k.cpq j })

/-- The result of a job's read: data and poison, a page with V = 0, a fault with the address that a leaf or a region refused, or a
line it must wait for. -/
inductive Rd where
  | ok (s : State) (bs : List Byte) (pz : Bool)
  | page (vpn : Nat)
  | fault (cause : Cause) (detail : Nat) (va : Option Nat)
  | wait

/-- Whether a line of a range is owned by another engine. -/
def State.ownedByOther (s : State) (key pa n : Nat) : Bool :=
  s.owned.any (fun o => o.2 != key && overlaps (64 * o.1) 64 pa n)

/-- Read the pieces of a range as an engine source: after the writes that its cluster holds, and those to the same home that
happen before its command (14 R360, R362). -/
def State.jobPieces (s : State) (cluster : Nat) (j : EJob) : List (Nat × Nat) → Rd
  | [] => .ok s [] false
  | (p, n) :: r =>
    match checkPtr j.colour (p % 18446744073709551616) with
    | .error d => .fault .accessFault d none
    | .ok (va, win) =>
      match s.xlEngine cluster j.asid va false win with
      | .error none => .page (va / 4096)
      | .error (some d) => .fault .accessFault d (some va)
      | .ok (pa, pz, s1) =>
        if s1.ownedByOther (j.key cluster) pa n ∨ s1.pending cluster pa n ∨ s1.hbHolds j.fire.hb pa then .wait
        else
          match State.jobPieces (s1.readNote pa) cluster j r with
          | .ok s2 bs pz2 => .ok s2 (s1.bytesAt pa n ++ bs) (pz || s1.poisonIn pa n || pz2)
          | x => x

/-- Read `n` bytes of memory as an engine source. -/
def State.jobRead (s : State) (cluster : Nat) (j : EJob) (p n : Nat) : Rd := s.jobPieces cluster j (piecesOf p n)

/-- An index entry of GATH or SCAT (15 R389): its pointer, or JOB_FAULT 0x66. -/
def State.indexEntry (s : State) (cluster : Nat) (j : EJob) (row : Nat) : Except Rd (State × Nat) :=
  match s.jobRead cluster j (j.ptr (if j.opc = 0x2C5 then 4 else 0) + 8 * row) 8 with
  | .ok s1 bs _ =>
    let p := natOfBytes bs
    match checkPtr j.colour p with
    | .error 0x58 => .error (.fault .accessFault 0x58 none)
    | .error _ => .error (.fault .jobFault 0x66 none)
    | .ok _ => if p % 64 ≠ 0 then .error (.fault .jobFault 0x66 none) else .ok (s1, p)
  | x => .error x

/-- The source bytes of a job at an offset (15 R387 to R389): from its tile, or from memory. -/
def State.jobSource (s : State) (cluster : Nat) (j : EJob) (off n : Nat) : Rd :=
  if j.srcTile then
    match s.lc? j.asid j.lc with
    | none => .wait
    | some x =>
      let t := x.tile (j.view.bits 7 5)
      .ok s (t.read (j.view.bits 12 15 + off) n) (t.poisonIn (j.view.bits 12 15 + off) n)
  else if j.opc = 0x2C4 then
    match s.indexEntry cluster j (off / j.rowb) with
    | .ok (s1, p) => s1.jobRead cluster j (p + off % j.rowb) n
    | .error e => e
  else s.jobRead cluster j (j.ptr 0 + off) n

/-- The pointer at which a job writes its output at an offset. -/
def State.jobDest (s : State) (cluster : Nat) (j : EJob) (off : Nat) : Except Rd (State × Nat) :=
  if j.opc = 0x2C5 then
    match s.indexEntry cluster j (off / j.rowb) with
    | .ok (s1, p) => .ok (s1, p + off % j.rowb)
    | .error e => .error e
  else .ok (s, j.ptr 2 + off)

/-- Whether the source and destination ranges of a CPY overlap in memory (15 R387). -/
def EJob.overlapping (j : EJob) : Bool :=
  j.opc == 0x2C0 && !j.srcTile && !j.dstTile && overlaps (j.ptr 0) j.len (j.ptr 2) j.len

/-- The 32 poisoned elements of a malformed block: the manual gives no value for their bytes, which are free (03 R75; DESIGN
CHOICE, log 89). -/
def State.badBlock (s : State) (j : EJob) : State × EJob × List Byte × Bool :=
  ({ s with freeCtr := s.freeCtr + 8 }, j, bytesOfLanes ((List.range 8).map (fun i => Config.freeWord (s.freeCtr + i))), true)

/-- Decode one block of a CPYD (15 R388; 03 R75): the state with its event, the job, 32 bytes, poison. -/
def State.decodeBlock (s : State) (cluster : Nat) (j : EJob) : Except Rd (State × EJob × List Byte × Bool) :=
  let e5 := j.n.mod.getLsbD 2
  let event (s : State) : State := s.raiseEvent j.asid j.lc (j.trapInfo .decode 0)
  if j.aux % 2 = 1 then .ok (s.badBlock j)
  else
    let p := j.ptr 0 + j.aux / 2
    match s.jobRead cluster j p 2 with
    | .ok s1 hd pz1 =>
      match pf8Len e5 hd with
      | none => .ok ((event s1).badBlock { j with aux := j.aux + 1 })
      | some len =>
        match s1.jobRead cluster j p (2 * len) with
        | .ok s2 bs pz2 =>
          let j' := { j with aux := j.aux + 4 * len }
          match pf8Decode e5 bs with
          | none => .ok ((event s2).badBlock j')
          | some out => .ok (s2, j', out, pz1 || pz2)
        | x => .error x
    | x => .error x

/-- Produce the next 64-byte line of a job's output, at offset `prog`. -/
def State.jobLine (s : State) (cluster : Nat) (j : EJob) : Except Rd (State × EJob × List Byte × Bool) :=
  if j.opc = 0x2C1 then
    match s.decodeBlock cluster j with
    | .error e => .error e
    | .ok (s1, j1, b1, p1) =>
      match s1.decodeBlock cluster j1 with
      | .error e => .error e
      | .ok (s2, j2, b2, p2) => .ok (s2, j2, b1 ++ b2, p1 || p2)
  else
    match s.jobSource cluster j j.prog 64 with
    | .ok s1 bs pz =>
      let o := j.ptr 0 + j.prog - j.ptr 2
      if j.overlapping ∧ j.ptr 2 ≤ j.ptr 0 + j.prog ∧ o < j.prog ∧ !Config.overlapRead j.pass (j.prog / 64) then
        .ok (s1, j, (j.buf.drop o).take 64, j.claims.contains (o / 64))
      else .ok (s1, j, bs, pz)
    | x => .error x

/-- What an interrupted read does to a job: it waits, starts a walk after releasing its lines (14 R361), or ends. -/
def State.jobStop (s : State) (cluster : Nat) (j : EJob) (r : Rd) : State :=
  let free (s : State) : State :=
    ({ s with owned := s.owned.filter (fun o => o.2 != j.key cluster) }).setCopy cluster { j with owns := [] }
  match r with
  | .page vpn => (free s).missAt (fieldOfCluster cluster) j.asid vpn (.job cluster j.id.toNat)
  | .fault c d va => (match va with | some va => s.noteEngine cluster j.asid va | none => s).failCopy cluster j c d
  | _ => free s

/-- Write the owned lines of a job one after another (14 R361): `owns` lists their physical lines in order. -/
def State.writeOwned (s : State) (cluster : Nat) (fuel : Nat) (j : EJob) : State :=
  match fuel with
  | 0 => s
  | fuel + 1 =>
    match j.owns with
    | [] => ({ s with owned := s.owned.filter (fun o => o.2 != j.key cluster) }).setCopy cluster j
    | l :: r =>
      match s.jobLine cluster j with
      | .error e => s.jobStop cluster j e
      | .ok (s1, j1, bs, pz) =>
        let pa := 64 * l
        let j2 := if j.overlapping then
            { j1 with buf := j1.buf ++ s1.bytesAt pa 64,
                      claims := if s1.poisonIn pa 64 then (j1.prog / 64) :: j1.claims else j1.claims }
          else j1
        State.writeOwned (s1.writeLine pa bs pz) cluster fuel { j2 with prog := j2.prog + 64, owns := r }

/-- Write the owned lines of a job whose bytes stand in `buf`, the last padded with zeros (15 R388). `base` is the number
of the first line among the poisoned lines. -/
def State.writeBuf (s : State) (j : EJob) (base : Nat) : State :=
  (j.owns.zipIdx).foldl (fun s e =>
    s.writeLine (64 * e.1) (padTo 0 64 ((j.buf.drop (64 * e.2)).take 64)) (j.claims.contains (base + e.2))) s

/-- Translate `n` lines of a page of the destination, from a pointer. -/
def State.ownPage (s : State) (cluster : Nat) (j : EJob) (p n : Nat) : Except Rd (State × List Nat) :=
  match checkPtr j.colour (p % 18446744073709551616) with
  | .error d => .error (.fault .accessFault d none)
  | .ok (va, win) =>
    match s.xlEngine cluster j.asid va true win with
    | .error none => .error (.page (va / 4096))
    | .error (some d) => .error (.fault .accessFault d (some va))
    | .ok (pa, _, s1) =>
      let ls := (List.range n).map (fun i => pa / 64 + i)
      if ls.any (fun l => s1.ownedByOther (j.key cluster) (64 * l) 64) ∨ s1.hbHolds j.fire.hb pa then .error .wait
      else .ok (s1, ls)

/-- Take ownership of the next lines of a job's destination (14 R361). -/
def State.takeLines (s : State) (cluster : Nat) (j : EJob) (p n : Nat) : State :=
  match s.ownPage cluster j p n with
  | .error .wait => s
  | .error e => s.jobStop cluster j e
  | .ok (s1, ls) =>
    ({ s1 with owned := s1.owned ++ ls.map (fun l => (l, j.key cluster)) }).setCopy cluster { j with owns := ls }

/-- Encode source blocks of a CPYE until the buffer holds `need` bytes or the source ends (15 R388). -/
def State.encodeMore (s : State) (cluster : Nat) (fuel need : Nat) (j : EJob) : Except Rd (State × EJob) :=
  match fuel with
  | 0 => .ok (s, j)
  | fuel + 1 =>
    if need ≤ j.buf.length ∨ j.len ≤ j.prog then .ok (s, j)
    else
      match s.jobSource cluster j j.prog 32 with
      | .ok s1 bs pz =>
        let out := pf8Encode (j.n.mod.getLsbD 2) bs
        let first := (j.aux + j.buf.length) / 64
        let last := (j.aux + j.buf.length + out.length - 1) / 64
        let marks := if pz then (List.range (last + 1 - first)).map (· + first) else []
        State.encodeMore s1 cluster fuel need
          { j with buf := j.buf ++ out, prog := j.prog + 32, pass := j.pass + out.length, claims := marks ++ j.claims }
      | x => .error x

/-- A job into a tile as it stands: with its last byte written, the tile goes READY (15 R386). -/
def State.tileMoved (s : State) (cluster : Nat) (j : EJob) : State :=
  (if j.len ≤ j.prog then j.claims.foldl (fun s lc => s.updLC j.asid lc (fun x => x.releaseTile j.dtile)) s else s).setCopy cluster j

/-- Move the next page of a job whose destination is a tile (15 R386). -/
def State.moveTile (s : State) (cluster : Nat) (fuel : Nat) (j : EJob) : State :=
  match fuel with
  | 0 => s.tileMoved cluster j
  | fuel + 1 =>
    if j.len ≤ j.prog then s.tileMoved cluster j
    else
      match s.jobLine cluster j with
      | .error e => s.jobStop cluster j e
      | .ok (s1, j1, bs, pz) =>
        let off := j.view.x1 22 15 + j.prog
        let s2 := j.claims.foldl (fun s lc => s.updLC j.asid lc (fun x => x.updTile j.dtile (fun t => t.store off bs pz))) s1
        State.moveTile s2 cluster fuel { j1 with prog := j1.prog + 64 }

/-- Whether a job has claimed every destination tile (15 R386). -/
def EJob.claimed (j : EJob) : Bool := (copyDests j.view).all (fun l => j.claims.contains l)

/-- The `k`-th job of a cluster's copy unit. -/
def State.copyJob (s : State) (cluster k : Nat) : Option EJob := (s.cluster cluster).cpq[k]?

/-- Start a CB line command (15 R393): P faults; TEVICT and a TFILL of a written line read the line's bytes to write them
back (phase 1); TFILL then sets TAG, V and P. -/
def State.startCb (s : State) (cluster : Nat) (j : EJob) (x : LCore) : State :=
  let i := j.view.bits 0 5
  let slot := j.slot
  let t := x.tile i
  let e := t.cbLine slot
  let upd (s : State) (f : CbLine → CbLine) : State := s.updLC j.asid j.lc (fun x => x.updTile i (fun t => t.updCb slot f))
  let back := (j.opc == 0x2C6 && e.v && e.d) || (j.opc == 0x2C7 && e.d)
  let marks := (List.range 8).filter (fun k => t.poisonIn (512 * slot + 64 * k) 64)
  let j1 := { j with started := true, aux := if back then 1 else 0, buf := if back then t.read (512 * slot) 512 else [],
                     claims := if back then marks else [], pass := e.tag.toNat }
  if e.p then s.failCopy cluster j .jobFault 0x65
  else if j.opc = 0x2C6 then
    (upd s (fun e => { e with v := false, d := false, p := true, tag := BitVec.ofNat 48 (j.ptr 0 / 512 % 2 ^ 48) })).setCopy
      cluster j1
  else if j.opc = 0x2C7 then
    (upd s (fun e => { e with d := false, v := e.v && !j.n.mod.getLsbD 2 })).setCopy cluster j1
  else (upd s (fun e => { e with v := false, d := false })).setCopy cluster j1

/-- Move a CB line command on (15 R393): the write-back, then a TFILL's read. -/
def State.moveCb (s : State) (cluster : Nat) (j : EJob) : State :=
  if j.aux = 1 then
    (if j.owns = [] then s.takeLines cluster j (512 * j.pass) 8
     else
      ({ (s.writeBuf j 0) with owned := s.owned.filter (fun o => o.2 != j.key cluster) }).setCopy cluster
        { j with owns := [], aux := 0, buf := [] })
  else if j.opc = 0x2C6 ∧ j.prog = 0 then
    match s.jobRead cluster j (j.ptr 0) 512 with
    | .ok _ _ _ =>
      let s1 := (List.range 8).foldl (fun s k =>
        match s.jobRead cluster j (j.ptr 0 + 64 * k) 64 with
        | .ok s' bs pz => s'.updLC j.asid j.lc (fun x =>
            x.updTile (j.view.bits 0 5) (fun t => t.store (512 * j.slot + 64 * k) bs pz))
        | _ => s) s
      let done (t : Tile) : Tile :=
        { t.updCb j.slot (fun e => { e with v := true, p := false, d := false, last := t.cbClock }) with cbClock := t.cbClock + 1 }
      (s1.updLC j.asid j.lc (fun x => x.updTile (j.view.bits 0 5) done)).setCopy cluster { j with prog := 512 }
    | r => s.jobStop cluster j r
  else s

/-- COPY_JOB_START (15 R386, R393): a granted job checks the roles of its destination tiles, and starts. -/
def execCopyJobStart (cluster k : Nat) (s : State) : Host.Outcome State Fault Refusal :=
  .next (match s.copyJob cluster k with
  | none => s
  | some j =>
    match s.lc? j.asid j.lc with
    | none => s
    | some x =>
      if !j.granted ∨ j.started ∨ !s.running j.asid then s
      else if isCopyCmd j.opc.toNat then
        if (copyDests j.view).any (fun l =>
            match s.lc? j.asid l with | some y => !y.tileIs j.dtile .ab | none => true) then s.failCopy cluster j .jobFault 0x67
        else
          let r := s.fresh
          let own := (copyDests j.view).contains j.lc
          (r.2.updLC j.asid j.lc (fun x => x.holdCopy j.view own j.id)).setCopy cluster { j with started := true, pass := if j.opc = 0x2C0 then r.1 else 0 }
      else s.startCb cluster j x)

/-- Send the line reads of a multicast's next page (15 R390). -/
def State.mcastPage (s : State) (cluster : Nat) (j : EJob) : State :=
  let p := j.ptr 0 + j.aux
  let n := Nat.min (4096 - p % 4096) (j.len - j.aux)
  match checkPtr j.colour (p % 18446744073709551616) with
  | .error d => s.failCopy cluster j .accessFault d
  | .ok (va, win) =>
    match s.xlEngine cluster j.asid va false win with
    | .error none => s.jobStop cluster j (.page (va / 4096))
    | .error (some d) => s.jobStop cluster j (.fault .accessFault d (some va))
    | .ok (pa, pz, s1) =>
      let mk (i : Nat) : HReq :=
        { asid := j.asid, lc := j.lc, id := j.id.toNat, part := (j.aux + 64 * i) / 64, kind := .mcast, opc := j.opc, typ := .n32,
          scope := 3, chain := cluster, pa := pa + 64 * i, len := 64, data := [], poison := pz, seq := 0, floor := 0, sent := 0,
          atHost := false }
      ({ s1 with reqs := s1.reqs ++ (List.range (n / 64)).map mk }).setCopy cluster { j with aux := j.aux + n }

/-- COPY_TILE_CLAIM (15 R386): a started job claims its next destination tile once it is EMPTY or READY; an MCAST that
has claimed every tile asks its homes for the lines of its next page (15 R390). -/
def execCopyTileClaim (cluster k : Nat) (s : State) : Host.Outcome State Fault Refusal :=
  .next (match s.copyJob cluster k with
  | none => s
  | some j =>
    if !j.started ∨ !isCopyCmd j.opc.toNat ∨ !s.running j.asid then s
    else
      match (copyDests j.view).find? (fun l => !j.claims.contains l) with
      | some l =>
        (match s.lc? j.asid l with
        | none => s
        | some y =>
          if (y.tile j.dtile).state = .empty ∨ (y.tile j.dtile).state = .ready then
            (s.updLC j.asid l (fun y => y.holdTile j.dtile .filling j.id 1)).setCopy cluster { j with claims := j.claims ++ [l] }
          else s)
      | none => if j.opc = 0x2C3 ∧ j.aux < j.len then s.mcastPage cluster j else s)

/-- The next lines of a job whose destination is memory: it writes the lines it owns and releases them, or takes those
of its next page (14 R361). -/
def State.moveMem (s : State) (cluster : Nat) (j : EJob) : State :=
  if j.opc = 0x2C2 then
    if j.owns = [] then
      let p := j.ptr 2 + j.aux
      let room := 4096 - p % 4096
      match s.encodeMore cluster 256 room j with
      | .error e => s.jobStop cluster j e
      | .ok (s1, j1) =>
        if j1.buf = [] then s1.setCopy cluster j1
        else (s1.setCopy cluster j1).takeLines cluster j1 p (Nat.min (room / 64) ((j1.buf.length + 63) / 64))
    else
      let n := 64 * j.owns.length
      let s1 := s.writeBuf j (j.aux / 64)
      ({ s1 with owned := s1.owned.filter (fun o => o.2 != j.key cluster) }).setCopy cluster
        { j with owns := [], aux := j.aux + n, buf := j.buf.drop n }
  else if j.owns ≠ [] then s.writeOwned cluster 128 j
  else if j.len ≤ j.prog then s
  else
    match s.jobDest cluster j j.prog with
    | .error e => s.jobStop cluster j e
    | .ok (s1, p) =>
      let inPage := 4096 - p % 4096
      let inRow := if j.opc = 0x2C5 then j.rowb - j.prog % j.rowb else inPage
      s1.takeLines cluster j p (Nat.min (Nat.min inPage inRow) (j.len - j.prog) / 64)

/-- ENGINE_LINE_OWNERSHIP (14 R361, R362): a started job moves on by one page: a job that owns lines writes and releases
them, another takes the lines of its next page when no engine holds one, and a job into a tile moves a page of it. -/
def execEngineLineOwnership (cluster k : Nat) (s : State) : Host.Outcome State Fault Refusal :=
  .next (match s.copyJob cluster k with
  | none => s
  | some j =>
    if !j.started ∨ (j.owns = [] ∧ isCopyCmd j.opc.toNat ∧ !s.running j.asid) then s
    else if !isCopyCmd j.opc.toNat then s.moveCb cluster j
    else if j.opc = 0x2C3 then s
    else if j.dstTile then (if j.claimed ∧ j.prog < j.len then s.moveTile cluster 64 j else s)
    else s.moveMem cluster j)

/-- Whether a job has moved everything. -/
def EJob.moved (j : EJob) : Bool :=
  if isCopyCmd j.opc.toNat then decide (j.len ≤ j.prog) && j.owns.isEmpty && (j.opc != 0x2C2 || j.buf.isEmpty)
  else j.aux == 0 && (j.opc != 0x2C6 || j.prog == 512)

/-- COPY_JOB_RETIRE (15 R386, R388): a job that has moved everything writes its byte count where lanes 4 and 5 name an
address, and completes. -/
def execCopyJobRetire (cluster k : Nat) (s : State) : Host.Outcome State Fault Refusal :=
  .next (match s.copyJob cluster k with
  | none => s
  | some j =>
    if !j.started ∨ !j.moved ∨ (j.opc = 0x2C3 ∧ !s.running j.asid) then s
    else
      let third := if j.opc = 0x2C1 ∨ j.opc = 0x2C2 then j.ptr 4 else 0
      if third = 0 then s.endCopy cluster j none
      else
        match s.ownPage cluster j third 1 with
        | .error .wait => s
        | .error e => s.jobStop cluster j e
        | .ok (s1, ls) =>
          let n := if j.opc = 0x2C1 then j.aux / 2 else j.pass
          (s1.writeLine (64 * ls.headD 0 + third % 64) (bytesOfNat 8 n) false).endCopy cluster j none)

/-- Write the line of a multicast packet into its tile; the last one makes the tile READY (15 R386). -/
def LCore.takeLine (x : LCore) (l : McLine) : LCore :=
  let y := x.updTile l.tile (fun t => t.store l.off l.data l.poison)
  if l.last then y.releaseTile l.tile else y

/-- The packet of a multicast line at a destination core, as the token that its trap would name: the node and tag of its MCAST. -/
def EJob.packet (j : EJob) (lc : Nat) (bs : List Byte) (pz : Bool) : Token :=
  mkToken j.asid lc j.fire.node false 0 1 1 { (default : Out) with lanes := lanesOfBytes 16 bs, poison := pz, tag := j.fire.tag }

/-- MULTICAST_DELIVERY (15 R390 to R392, R394): the data of the pending read of the line at `k` leaves its home, and the line is written
into the tile of every destination core of the request; with the last line the tiles go READY. From the halt of a pre-emption on,
the spill rings of the destinations take it. -/
def execMulticastDelivery (k : Nat) (s : State) : Host.Outcome State Fault Refusal :=
  .next (match s.reqs[k]? with
  | none => s
  | some r =>
    if r.kind ≠ .mcast ∨ !r.atHost then s
    else
      let leave (q : HReq) : HReq := if q.kind = .mcast ∧ q.atHost ∧ q.read = r.read then { q with left := true } else q
      let s1 := { s with reqs := (listDrop s.reqs k).map leave }
      match s.mcastJob r with
      | none => s1
      | some j =>
        let off := j.view.x1 22 15 + 64 * r.part
        let j' := { j with prog := j.prog + 64 }
        let l : McLine := { tile := j.dtile, off := off, data := r.data, poison := r.poison, last := decide (j.len ≤ j'.prog), ring := true }
        let take (lc : Nat) (x : LCore) : LCore :=
          if s.running j.asid then x.takeLine l else x.spillLine (j.packet lc r.data r.poison) l
        let s2 := j.claims.foldl (fun s lc => s.updLC j.asid lc (take lc)) s1
        s2.setCopy r.chain j')

end Sys2Proof.Machine
end

