-- ==== Sys2Proof/Machine/TableOps.lean ====
section
/-! DEFINITION. The instructions on the tile, cache-bank, route, mapping and band tables (12 R301 to R307). -/
namespace Sys2Proof.Machine

/-- The control operand of ARY 1 (12 R302), or a value of the literal. -/
def Ctx.control (c : Ctx) (lit : Nat) (k : Nat → FireRes) : FireRes :=
  if c.v.ary = .dyad then
    if c.bTok.poison then .trap .poisonConsumed 0x03 else k (tlane c.bTok 0).toNat
  else k lit

/-- The number of a tile state (10 Table 8). -/
def TileState.code : TileState → Nat
  | .empty => 0 | .filling => 1 | .spec => 2 | .ready => 3 | .draining => 4

/-- The number of a tile role. -/
def tileRoleCode : TileRole → Nat
  | .ab => 0 | .tf => 1 | .cb => 2

/-- The tile-table entry of a tile (10 Table 8). -/
def Tile.entry (t : Tile) : Word :=
  word (t.state.code + 8 * tileRoleCode t.role + 32 * t.done.toNat + 64 * t.inited.toNat + 128 * t.job.toNat
    + 8388608 * t.eng.toNat)

/-- The slot of a tag table whose V or P is set and whose TAG is `tag` (12 R303). -/
def Tile.cbHit (t : Tile) (tag : BitVec 48) : Option Nat :=
  (List.range 64).find? (fun i => ((t.cbLine i).v || (t.cbLine i).p) && (t.cbLine i).tag == tag)

/-- The victim slot of a tag table: the lowest free one, else the valid one hit or filled longest ago, else 0x7F
(10 R274). -/
def Tile.cbVictim (t : Tile) : Nat :=
  match (List.range 64).find? (fun i => !(t.cbLine i).v && !(t.cbLine i).p) with
  | some i => i
  | none =>
    ((List.range 64).foldl (fun best i =>
      if (t.cbLine i).v ∧ !(t.cbLine i).p then
        match best with
        | none => some i
        | some b => if (t.cbLine i).last < (t.cbLine b).last then some i else best
      else best) (none : Option Nat)).getD 0x7F

/-- The result lane of an address (12 R303). -/
def Tile.lookupLane (t : Tile) (va : Nat) : Word :=
  match t.cbHit (BitVec.ofNat 48 (va / 512)) with
  | some i => word (i + 128 + 256 * (t.cbLine i).p.toNat + 512 * (t.cbLine i).d.toNat)
  | none => word t.cbVictim

/-- Mark the line of a hit as the most recently hit. -/
def Tile.noteHit (t : Tile) (va : Nat) : Tile :=
  match t.cbHit (BitVec.ofNat 48 (va / 512)) with
  | some i => { t.updCb i (fun e => { e with last := t.cbClock + 1 }) with cbClock := t.cbClock + 1 }
  | none => t

/-- LOOKUP (12 R303). -/
def execLookup (n : Node) (s : State) : Host.Outcome State Fault Refusal :=
  fire (viewD 0x300 n) s (fun c =>
    let i := c.v.bits 0 5
    let t := c.x.tile i
    let vas := (List.range (c.wa / 2)).map (fun j => tlane64 c.f.a (2 * j))
    if c.f.a.poison then .trap .poisonConsumed 0x03
    else if c.x.tileCount ≤ i then .trap .accessFault 0x32
    else if !c.x.tilesOk c.v c.f.lc then .hold
    else if t.role ≠ .cb then .trap .accessFault 0x32
    else c.emitBoth (c.upd (fun x => x.updTile i (fun t => vas.foldl Tile.noteHit t))) (vas.map t.lookupLane) false)

/-- TSTATE (12 R304). -/
def execTstate (n : Node) (s : State) : Host.Outcome State Fault Refusal :=
  fire (viewD 0x301 n) s (fun c =>
    let ls := if c.v.bits 5 1 = 1 then (List.range c.x.tileCount).map (fun i => (c.x.tile i).entry)
      else [(c.x.tile (c.v.bits 0 5)).entry]
    c.emitBoth c.s ls c.f.a.poison)

/-- TSET (12 R304; 10 Table 9). -/
def execTset (n : Node) (s : State) : Host.Outcome State Fault Refusal :=
  fire (viewD 0x302 n) s (fun c =>
    let i := c.v.bits 0 5
    let st := (c.x.tile i).state
    if st = .empty ∨ st = .ready then
      let s' := if i < c.x.tileCount then
          c.upd (fun x => x.setTile i (if c.v.bits 5 1 = 1 then .ready else .empty))
        else c.s
      c.emitBoth s' c.f.a.lanes c.f.a.poison
    else .trap .accessFault 0x31)

/-- The route index of RTRD and RTWR (12 R305). -/
def Ctx.routeIdx (c : Ctx) (k : Nat → FireRes) : FireRes :=
  c.control (c.v.bits 0 10) (fun e =>
    if 1024 ≤ e ∨ c.x.reqRoutes ≤ e then .trap .accessFault 0x33 else k e)

/-- RTRD (12 R305). -/
def execRtrd (n : Node) (s : State) : Host.Outcome State Fault Refusal :=
  fire (viewD 0x303 n) s (fun c => c.routeIdx (fun e => c.emitBoth c.s (c.x.route e).lanes c.f.a.poison))

/-- Whether a route entry may stand in a route table of a `.control` kernel (02 R50, Table 11). -/
def routeEntryOk (n : Nat) (d : DWord) : Bool :=
  let r := routeV d
  r.rsv == 0 && r.act != 7 && (!r.valid || (r.vc != 7 && r.act != 5 && r.live n))

/-- RTWR (12 R305): only a `.control` kernel may issue it (12 R301). -/
def execRtwr (n : Node) (s : State) : Host.Outcome State Fault Refusal :=
  fire (viewD 0x304 n) s (fun c =>
    if !c.x.control then .trap .roleViolation 0
    else if c.f.a.poison then .trap .poisonConsumed 0x03
    else c.routeIdx (fun e =>
      let d := mkDWord (tlane c.f.a 0) (tlane c.f.a 1)
      if routeEntryOk c.p.n d then
        c.emitBoth (c.upd (fun x => { x with routes := SMap.put 0 x.routes e d })) (c.x.route e).lanes false
      else .trap .accessFault 0x34))

/-- MAPRD (12 R306): the request goes to the mapping unit concerned. -/
def execMaprd (n : Node) (s : State) : Host.Outcome State Fault Refusal :=
  fire (viewD 0x305 n) s (fun c =>
    c.control c.v.lit (fun b =>
      let form := c.v.bits 30 2
      let i := b % 131072
      let req (arg : Nat) : MapReq :=
        { asid := c.f.asid, lc := c.f.lc, fire := c.f, what := form, arg := arg, n := n, tagOut := c.tag,
          rtA := c.x.destEntry n.dstA, rtB := c.x.destEntry n.dstB }
      let put (f arg : Nat) : FireRes := .done { c.s with mapReqs := c.s.mapReqs ++ [(f, req arg)] } []
      if form = 0 then (if c.p.n ≤ i then .trap .accessFault 0x35 else put (c.p.posField i) i)
      else if form = 1 then put (b % 64) (b / 64 % 32)
      else if form = 2 then put (b % 64) (b / 64 % 256)
      else .trap .illegalNode Diag.reserved.code))

/-- Bits `64v` to `64v + 63` of a set of numbers. -/
def setWord (l : List Nat) (v : Nat) : Nat :=
  (List.range 64).foldl (fun a i => if l.contains (64 * v + i) then a + 2 ^ i else a) 0

/-- A register of the MAP block up to FENCED, by word (10 Table 4, 12 R306). -/
def Field.mapWord (f : Field) (v : Nat) : DWord :=
  BitVec.ofNat 64 (
    if f.fenced then (if v = 20 then 1 else 0)
    else if v < 16 then setWord f.excl v
    else if v < 18 then setWord f.mex (v - 16)
    else if v < 20 then setWord f.quar (v - 18)
    else 0)

/-- The lanes that MAPRD.host returns (12 R306). -/
def State.hostLanes (s : State) (p : Pitch) (asid i : Nat) : List Word :=
  let q := p.rect.position i
  let at_ := p.rect.coreAt q
  let h := s.hostNow p i
  let ovr := ((s.field (p.posField i)).override asid i).isSome
  let blocked := match SMap.find p.lcores i with | some x => x.blocked | none => false
  [word (q + 131072 * p.scatter.toNat + 262144 * p.salt.toNat + 268435456 * p.rotated.toNat),
   word (h.cx + 256 * h.cy + 65536 * h.half.toNat + 131072 * h.doubled.toNat
     + 262144 * (s.deadCore at_.1 at_.2).toNat + 524288 * ovr.toNat + 1048576 * blocked.toNat)]

/-- The lanes of a mapping request's result. -/
def State.mapLanes (s : State) (field : Nat) (p : Pitch) (r : MapReq) : List Word :=
  match r.what with
  | 0 => s.hostLanes p r.asid r.arg
  | 1 => ((s.field field).mapWord r.arg).lanes
  | _ =>
    let e := SMap.get Remap.init (s.field field).remap r.arg
    e.w0.lanes ++ e.w1.lanes ++ e.w2.lanes ++ e.w3.lanes

/-- MAPPING_UNIT_REQUEST (12 R306): a mapping unit answers a MAPRD, in the order of its field. -/
def execMappingUnitRequest (k : Nat) (s : State) : Host.Outcome State Fault Refusal :=
  .next (match s.mapReqs[k]? with
  | none => s
  | some (field, r) =>
    let s1 := { s with mapReqs := listDrop s.mapReqs k }
    match s.pitch? r.asid with
    | none => s1
    | some p =>
      let ls := s.mapLanes field p r
      let send (s : State) (d : Dest) (a : Act) (rt : DWord) : State :=
        s.deliver (.rc field) 0 (fun _ => rt) r.fire 0x305
          { dest := d, act := a, eos := none, poison := r.fire.a.poison, lanes := ls, tag := r.tagOut, code := 0,
            hb := s.liveHb r.fire.hb }
      send (send s1 r.n.dstA r.n.actA r.rtA) r.n.dstB r.n.actB r.rtB)

/-- A banded-latency entry as a register (10 Table 11). -/
def Band.word (b : Band) : DWord :=
  BitVec.ofNat 64 (b.band0.toNat + 16 * b.band1.toNat + 256 * b.valid.toNat + 512 * b.stale.toNat + 65536 * b.gen.toNat)

/-- BANDRD (12 R307). -/
def execBandrd (n : Node) (s : State) : Host.Outcome State Fault Refusal :=
  fire (viewD 0x306 n) s (fun c =>
    c.control (c.v.bits 0 6) (fun f =>
      c.emitBoth c.s (SMap.get Band.init (c.s.field c.x.field).band (f % 64)).word.lanes c.f.a.poison))

end Sys2Proof.Machine
end

