-- ==== Sys2Proof/Machine/CounterOps.lean ====
section
/-! DEFINITION. The counters group, and the firing of an EXT record (16 R401 to R404; 02 R43, R58). -/
namespace Sys2Proof.Machine

/-- The control operand of TOFFS and CNTRD under ARY 1 (16 R401), or a value of the literal. -/
def Ctx.counterOp (c : Ctx) (lit : Nat) (k : Nat → FireRes) : FireRes :=
  if c.v.ary = .dyad then
    if c.bTok.poison then .trap .poisonConsumed 0x06 else k (tlane c.bTok 0).toNat
  else k lit

/-- TIME (16 R402). -/
def execTime (n : Node) (s : State) : Host.Outcome State Fault Refusal :=
  fire (viewD 0x340 n) s (fun c => c.emitBoth c.s (c.s.field c.x.field).time.lanes c.f.a.poison)

/-- The uncertainty of an offset at own time `t` (16 R400). -/
def Offs.unc (o : Offs) (t : Nat) : Nat := Nat.min 4095 (o.uncm.toNat + (t - o.tmeas.toNat + 9999) / 10000)

/-- The lanes of TOFFS (16 R402): the own field's entry is fixed; a field that has not joined gives zeros, and one that has not been
measured yet the entry as it stands. -/
def Field.toffs (f : Field) (own i : Nat) (joined : Bool) : List Word :=
  if i = own then [0, 0, 0x1000]
  else if joined then
    let o := SMap.get Offs.init f.offs i
    let d : DWord := o.offset.signExtend 64
    d.lanes ++ [word (o.unc f.time.toNat + 4096 * o.valid.toNat)]
  else [0, 0, 0]

/-- TOFFS (16 R402). -/
def execToffs (n : Node) (s : State) : Host.Outcome State Fault Refusal :=
  fire (viewD 0x341 n) s (fun c =>
    c.counterOp (c.v.bits 0 6) (fun f =>
      c.emitBoth c.s ((c.s.field c.x.field).toffs c.x.field (f % 64) (c.s.field (f % 64)).joined) c.f.a.poison))

/-- Whether a sub-index is in range for an index (16 Table 4). -/
def cntSubOk (i sub : Nat) : Bool :=
  if i ≤ 0x16 then sub == 0
  else if i = 0x18 then true
  else if i = 0x19 then decide (sub ≤ 2)
  else if i = 0x24 then decide (sub ≤ 7)
  else decide (sub < 128) && decide (sub % 16 ≤ 8)

/-- The counter at an index and sub-index (16 Table 4). -/
def State.counter (s : State) (x : LCore) (i sub : Nat) : Nat :=
  let k := x.cnt
  let cl := s.cluster x.cluster
  let bk := cl.bank (sub / 16 % 8) (sub % 16)
  if i < 8 then (SMap.get 0 k.perf i).toNat
  else if i < 16 then (SMap.get 0 k.perfSel (i - 8)).toNat
  else match i with
    | 0x10 => k.raCancel.toNat | 0x11 => k.mspill.toNat | 0x12 => k.mrefill.toNat | 0x13 => k.cspill.toNat
    | 0x14 => k.ucdrop.toNat | 0x15 => k.sramCe.toNat | 0x16 => k.sramUe.toNat
    | 0x18 => if recOpc (x.node sub) = 0x011 then (SMap.get 0 k.sink sub).toNat else 0
    | 0x19 => if sub = 0 then cl.nextJob.toNat else if sub = 1 then cl.cpNext.toNat else (s.field x.field).mNext.toNat
    | 0x20 => bk.ce.toNat | 0x21 => bk.ue.toNat | 0x22 => bk.refpress.toNat | 0x23 => bk.degraded.toNat
    | 0x24 => (cl.col (sub % 8)).dupdisc.toNat
    | _ => 0

/-- CNTRD (16 R402). -/
def execCntrd (n : Node) (s : State) : Host.Outcome State Fault Refusal :=
  fire (viewD 0x342 n) s (fun c =>
    let i := c.v.bits 0 8
    c.counterOp (c.v.bits 8 12) (fun b =>
      if cntSubOk i (b % 4096) then
        c.emitBoth c.s (DWord.lanes (BitVec.ofNat 64 (c.s.counter c.x i (b % 4096)))) c.f.a.poison
      else .trap .accessFault 0x71))

/-- CNTWR (16 R402). -/
def execCntwr (n : Node) (s : State) : Host.Outcome State Fault Refusal :=
  fire (viewD 0x343 n) s (fun c =>
    let i := c.v.bits 0 8
    let v := tlane64 c.f.a 0
    if c.f.a.poison then .trap .poisonConsumed 0x06
    else
      let wr (k : Counters) : Counters :=
        if i < 8 then { k with perf := SMap.put 0 k.perf i (BitVec.ofNat 64 v) }
        else if i < 16 then { k with perfSel := SMap.put 0 k.perfSel (i - 8) (BitVec.ofNat 9 v) }
        else k
      c.emitBoth (c.upd (fun x => x.count wr)) c.f.a.lanes false)

/-- EXT (02 R43, R58): a record that no firing may name. The trap of a token that names one is taken when the token
arrives; a firing that comes to hold one, as after a soft error, raises the same. -/
def execExt (_v : BitVec 86) (s : State) : Host.Outcome State Fault Refusal :=
  match s.cur with
  | none => .fault .noFiring
  | some f => .next (s.firingTraps f 0x3FF .illegalNode 0x03)

end Sys2Proof.Machine
end

