-- ==== Sys2Proof/Machine/Ring.lean ====
section
/-! DEFINITION. Ring meetings: edge walkers, chunks and credits, deaths and the exchange that opens the next epoch
(11 R295 to R300; 12 R314). -/
namespace Sys2Proof.Machine

/-- The live meeting of a pitch with this number and owner, wherever its unit is: field, entry, meeting. -/
def State.findMeeting (s : State) (asid mnum owner : Nat) : Option (Nat × Nat × Meeting) :=
  s.fields.findSome? (fun f => (f.2.findMeet asid mnum owner).map (fun e => (f.1, e.1, e.2)))

/-- Whether a walker walks for a meeting. -/
def Walker.isOf (w : Walker) (m : Meeting) : Bool := w.asid == m.asid && w.mnum == m.mnum && w.owner == m.owner

/-- The walkers of a meeting: field, index, walker. -/
def State.walkersOf (s : State) (m : Meeting) : List (Nat × Nat × Walker) :=
  s.fields.flatMap (fun f => f.2.walkers.filterMap (fun w => if w.2.isOf m then some (f.1, w.1, w.2) else none))

/-- The walker of a member of a meeting. -/
def State.walkerOf (s : State) (m : Meeting) (member : Nat) : Option (Nat × Nat × Walker) :=
  (s.walkersOf m).find? (fun w => w.2.2.member == member)

/-- Replace a walker. -/
def State.setWalker (s : State) (fi wi : Nat) (w : Walker) : State :=
  s.updField fi (fun f => { f with walkers := SMap.ins f.walkers wi w })

/-- Members not dead in epoch `e` (11 R296). -/
def Walker.liveAt (w : Walker) (n e : Nat) : List Nat :=
  (List.range n).filter (fun i => !w.dead.any (fun d => d.1 == i && decide (d.2 ≤ e)))

/-- The live set of the walker's epoch. -/
def Walker.live (w : Walker) (n : Nat) : List Nat := w.liveAt n w.epoch

/-- Members that no death has taken. -/
def Walker.survivors (w : Walker) (n : Nat) : List Nat := w.liveAt n (w.epoch + 1)

/-- The member after another in a ring. -/
def ringNext (l : List Nat) (i : Nat) : Nat := l.getD (((listIdx (· == i) l).getD 0 + 1) % l.length) i

/-- The member before another in a ring. -/
def ringPrev (l : List Nat) (i : Nat) : Nat := l.getD (((listIdx (· == i) l).getD 0 + l.length - 1) % l.length) i

/-- Whether a control message is a meeting's. -/
def RingCtl.isOf (x : RingCtl) (m : Meeting) : Bool := x.asid == m.asid && x.mnum == m.mnum && x.owner == m.owner

/-- Whether a chunk is a meeting's. -/
def RingMsg.isOf (x : RingMsg) (m : Meeting) : Bool := x.asid == m.asid && x.mnum == m.mnum && x.owner == m.owner

/-- A control message from a walker. -/
def Walker.ctl (w : Walker) (dst arg : Nat) : RingCtl :=
  { asid := w.asid, mnum := w.mnum, owner := w.owner, src := w.member, dst := dst, epoch := w.epoch, arg := arg, dead := w.dead.length }

/-- Combine a chunk with a member's own (11 R296, R288): bytes and flags. -/
def chunkOp (op : Nat) (p x : List Byte) : List Byte × Nat :=
  let rs := ((vecElems 0 p).zip (vecElems 0 x)).map (fun e => meetOp op e.1 e.2)
  (rs.flatMap (fun r => bytesOfNat 4 r.1), orAll rs)

/-- A walker sends a chunk to its successor, and a slot there is taken (11 R297). -/
def State.sendChunk (s : State) (fi wi : Nat) (w : Walker) (n chunk : Nat) (bcast : Bool) (hops : Nat) (data : List Byte)
    (poison : Bool) : State :=
  let x : RingMsg :=
    { asid := w.asid, mnum := w.mnum, owner := w.owner, src := w.member, dst := ringNext (w.live n) w.member,
      epoch := w.epoch, chunk := chunk, bcast := bcast, hops := hops, data := data, poison := poison, flags := 0, dead := w.dead.length }
  { s.setWalker fi wi { w with credits := w.credits - 1 } with ring := s.ring ++ [x] }

/-- A walker completes a chunk (11 R296): the result is written, and the CWALK completes with the last (12 R314). -/
def State.finishChunk (s : State) (fi wi : Nat) (w : Walker) (count chunk : Nat) (data : List Byte) (poison : Bool) :
    URes State :=
  (s.unitWrite fi true w.asid w.job.fire.hb (w.dst + 4096 * chunk) data poison).bind (fun s1 =>
    let w1 := { w with completed := w.completed ++ [chunk], poison := w.poison || poison }
    if w1.completed.length = count ∧ !w1.job.stopped then
      .ok ((s1.endMeet w1.job none).setWalker fi wi { w1 with job := { w1.job with stopped := true } })
    else .ok (s1.setWalker fi wi w1))

/-- The lowest own chunk from `c` on: chunk c starts at live member c mod G (11 R296). -/
def nextOwn (fuel g pos c : Nat) : Nat :=
  match fuel with
  | 0 => c
  | fuel + 1 => if c % g = pos then c else nextOwn fuel g pos (c + 1)

/-- Send the chunks that wait for a slot of the successor, while it has one (11 R297). -/
def State.sendOut (fuel : Nat) (s : State) (fi wi n : Nat) : State :=
  match fuel with
  | 0 => s
  | fuel + 1 =>
    match SMap.find (s.field fi).walkers wi with
    | none => s
    | some w =>
      match w.out with
      | [] => s
      | x :: r =>
        if w.credits = 0 then s
        else State.sendOut fuel (s.sendChunk fi wi { w with out := r } n x.chunk x.bcast x.hops x.data x.poison) fi wi n

/-- Start own chunks in ascending order while credits allow (11 R296, R297), behind the chunks on their way. A ring of one
completes its chunks itself. -/
def State.startChunks (fuel : Nat) (s : State) (fi wi : Nat) (m : Meeting) : URes State :=
  match fuel with
  | 0 => .ok s
  | fuel + 1 =>
    match SMap.find (s.field fi).walkers wi with
    | none => .ok s
    | some w =>
      let live := w.live m.n
      let g := live.length
      let c := nextOwn g g ((listIdx (· == w.member) live).getD 0) w.started
      if w.stopped ∨ m.count ≤ c ∨ (1 < g ∧ (w.credits = 0 ∨ w.out ≠ [])) then .ok s
      else
        (s.unitRead fi true w.asid w.job.fire.hb (w.src + 4096 * c) 4096).bind (fun q =>
          let w1 := { w with started := c + 1 }
          if g ≤ 1 then
            (q.1.finishChunk fi wi w1 m.count c q.2.1 q.2.2).bind (fun s1 => State.startChunks fuel s1 fi wi m)
          else
            State.startChunks fuel (q.1.sendChunk fi wi w1 m.n c false (g - 1) q.2.1 q.2.2) fi wi m)

/-- Drop every message and walker of a meeting's ring round. -/
def State.clearRing (s : State) (m : Meeting) : State :=
  let ff (f : Nat × Field) : Nat × Field := (f.1, { f.2 with walkers := f.2.walkers.filter (fun w => !w.2.isOf m) })
  { s with fields := s.fields.map ff, ring := s.ring.filter (fun x => !x.isOf m),
           ringCredit := s.ringCredit.filter (fun x => !x.isOf m), ringDead := s.ringDead.filter (fun x => !x.isOf m),
           ringQ := s.ringQ.filter (fun x => !x.isOf m) }

/-- The codes of a ring's roster record (11 R300). -/
def Walker.ringCode (w : Walker) (i : Nat) : Nat :=
  match w.dead.find? (fun d => d.1 == i) with | some d => 0x40 + d.2 | none => 0

/-- The roster token of a ring round (11 R300). -/
def Meeting.ringRoster (m : Meeting) (w : Walker) (lane1 : Nat) : List Word :=
  let bs := (List.range 4).map (fun i => word (w.bs.getD i 0))
  if 64 < m.n then [m.round, word lane1] ++ DWord.lanes (BitVec.ofNat 64 m.rosterAt) ++ [0, 0] ++ bs ++ [0, 0]
  else
    [m.round, word lane1] ++ wordsOf 2 (bitmap m.n (fun i => w.ringCode i == 0)) ++
      wordsOf 2 (bitmap m.n (fun i => w.ringCode i != 0)) ++ bs ++ [0, 0]

/-- Whether a walker is of an earlier epoch, or knows of fewer deaths, than another (11 R297, R299). -/
def Walker.isOlder (w : Walker) (epoch dead : Nat) : Bool :=
  decide (w.epoch < epoch) || (w.epoch == epoch && decide (w.dead.length < dead))

/-- Whether a message is of an earlier epoch than a walker, or was sent before a death that it knows of (11 R297, R299). -/
def Walker.isPast (w : Walker) (epoch dead : Nat) : Bool :=
  decide (epoch < w.epoch) || (epoch == w.epoch && decide (dead < w.dead.length))

/-- End the CWALKs of a ring that are still to complete (11 R298, R300): a dead member's with 0x44. -/
def State.endWalkers (s : State) (m : Meeting) (dead : List (Nat × Nat)) (code : Nat) : State :=
  (s.walkersOf m).foldl (fun s w =>
    if w.2.2.job.stopped then s else s.endMeet w.2.2.job (some (if dead.any (fun d => d.1 == w.2.2.member) then 0x44 else code))) s

/-- When every live member has completed every chunk, the roster record is written, the tokens are sent and the ring
round ends (11 R300). -/
def State.ringCheck (s : State) (fi e : Nat) : URes State :=
  match s.meeting? fi e with
  | none => .ok s
  | some m =>
    let ws := (s.walkersOf m).map (fun w => w.2.2)
    match ws with
    | [] => .ok s
    | w0 :: _ =>
      let w := ws.foldl (fun b v => if b.isOlder v.epoch v.dead.length then v else b) w0
      let live := w.survivors m.n
      let done (i : Nat) : Bool := ws.any (fun v => v.member == i && v.epoch == w.epoch && v.dead.length == w.dead.length && !v.stopped && v.completed.length == m.count)
      if live.all done then
        let flags := ws.foldl (fun (g : BitVec 5) v => g ||| v.flags ||| (if v.poison then 0x10 else 0)) 0
        let lane1 := m.lane1 false live.length 0 flags
        let rec0 := bytesOfNat 8 m.round.toNat ++ bytesOfNat 4 lane1 ++ List.replicate 4 0 ++ bytesOfNat 4 w.epoch ++
          List.replicate 4 0 ++ (List.range 4).flatMap (fun i => bytesOfNat 4 (w.bs.getD i 0)) ++ List.replicate 24 0 ++
          (List.range m.n).map (fun i => BitVec.ofNat 8 (w.ringCode i))
        let hb := ws.foldl (fun l v => hbJoin l v.job.fire.hb) []
        (s.unitWrite fi false m.asid [] m.rosterAt rec0 false).bind (fun s1 =>
          let s2 := (s1.meetToken fi m hb false [m.round, word w.epoch] false).meetToken fi m hb true (m.ringRoster w lane1) false
          .ok (((s2.endWalkers m w.dead 0x45).clearRing m).setMeeting fi e { m with round := m.round + 1, oncnt := m.n, latecnt := 0, unreach := false }))
      else .ok s

/-- The walker's completion index: the lowest chunk not completed (11 R299). -/
def Walker.index (w : Walker) (count : Nat) : Nat := ((List.range count).find? (fun c => !w.completed.contains c)).getD count

/-- Stop the ring: QUORUM_UNREACHABLE at the owner, and the survivors' CWALKs fault (11 R300). -/
def State.ringStop (s : State) (fi e : Nat) (m : Meeting) (dead : List (Nat × Nat)) : State :=
  (((s.endWalkers m dead 0x45).clearRing m).setMeeting fi e { m with unreach := true }).quorumEvent m .quorumUnreachable m.mnum (some m.tag)

/-- A walker that holds the index of every survivor opens the next epoch (11 R299). -/
def State.openEpoch (s : State) (fi wi hf he : Nat) (m : Meeting) (w : Walker) : URes State :=
  let sv := w.survivors m.n
  if w.stopped ∧ sv.all (fun i => w.qs.any (fun q => q.1 == i)) then
    let b := (w.qs.filter (fun q => sv.contains q.1)).foldl (fun a q => Nat.min a q.2) m.count
    let w1 := { w with epoch := w.epoch + 1, bs := w.bs ++ [b], completed := w.completed.filter (· < b), started := b,
                       credits := 4, stopped := false, qs := [], waitSince := (s.field fi).time.toNat, out := [],
                       prevDone := w.completed, prevQs := w.qs }
    let s1 := (s.setWalker fi wi w1).setMeeting hf he { m with oncnt := sv.length, latecnt := w1.epoch }
    (s1.startChunks (m.count + 1) fi wi m).bind (fun s2 => s2.ringCheck hf he)
  else .ok (s.setWalker fi wi w)

/-- A walker learns of a death declared in epoch `e` (11 R299, R300): it stops sending and sends its completion index to every
survivor; a fifth death, or fewer than k live members, stops the ring. A death of the exchange that opened the walker's epoch
joins that exchange: the epoch opens again without the dead member. -/
def State.learnDeath (s : State) (fi wi hf he : Nat) (m : Meeting) (w : Walker) (d e : Nat) : URes State :=
  let w0 := { w with dead := w.dead ++ [(d, Nat.min e w.epoch + 1)], stopped := true, out := [],
                     waitSince := (s.field fi).time.toNat }
  let w1 := if e < w.epoch then
      { w0 with epoch := e, completed := w.prevDone, qs := w.prevQs, bs := w.bs.dropLast }
    else w0
  if 5 ≤ w1.dead.length ∨ m.n < m.k + w1.dead.length then .ok (s.ringStop hf he m w1.dead)
  else if w.stopped ∨ e < w.epoch then s.openEpoch fi wi hf he m w1
  else
    let q := w1.index m.count
    let sv := (w1.survivors m.n).filter (· ≠ w.member)
    { s with ringQ := s.ringQ ++ sv.map (fun i => w1.ctl i q) }.openEpoch fi wi hf he m
      { w1 with qs := [(w.member, q)] ++ w1.qs }

/-- Whether a message at `k` is the first from its sender to its receiver. -/
def RingMsg.first (l : List RingMsg) (k : Nat) : Bool :=
  match l[k]? with
  | none => false
  | some x => (l.take k).all (fun y => !(y.asid == x.asid && y.mnum == x.mnum && y.owner == x.owner && y.src == x.src && y.dst == x.dst))

/-- Whether the pitch of a walker runs. -/
def State.walks (s : State) (asid : Nat) : Bool :=
  match s.pitch? asid with | some p => p.st == .running | none => false

/-- A credit on its way back to a sender (11 R297). -/
def State.returnCredit (s : State) (c : RingCtl) : State := { s with ringCredit := s.ringCredit ++ [c] }

/-- A walker passes a chunk on, when its successor has a slot. -/
def State.passChunk (s : State) (fi wi : Nat) (m : Meeting) (chunk : Nat) (bcast : Bool) (hops : Nat) (data : List Byte)
    (pz : Bool) : State :=
  match SMap.find (s.field fi).walkers wi with
  | some v =>
    let x : RingMsg :=
      { asid := v.asid, mnum := v.mnum, owner := v.owner, src := v.member, dst := 0, epoch := v.epoch, chunk := chunk, bcast := bcast,
        hops := hops, data := data, poison := pz, flags := 0 }
    (s.setWalker fi wi { v with out := v.out ++ [x] }).sendOut 8 fi wi m.n
  | none => s

/-- A chunk consumed by a walker (11 R296, R297): it combines or writes the chunk, returns the credit, and passes it on. -/
def State.takeChunk (s : State) (fi wi : Nat) (m : Meeting) (w : Walker) (x : RingMsg) : URes State :=
  let g := (w.live m.n).length
  let last := x.hops ≤ 1
  let w := { w with waitSince := (s.field fi).time.toNat }
  let c := w.ctl x.src 0
  if x.bcast then
    (s.finishChunk fi wi w m.count x.chunk x.data x.poison).bind (fun s1 =>
      .ok ((if last then s1 else s1.passChunk fi wi m x.chunk true (x.hops - 1) x.data x.poison).returnCredit c))
  else
    (s.unitRead fi true w.asid w.job.fire.hb (w.src + 4096 * x.chunk) 4096).bind (fun q =>
      let r := chunkOp m.op x.data q.2.1
      let pz := x.poison || q.2.2
      let w1 := { w with flags := w.flags ||| meFlags r.2 false }
      if last then
        (q.1.finishChunk fi wi w1 m.count x.chunk r.1 pz).bind (fun s1 =>
          .ok ((if 1 < g then s1.passChunk fi wi m x.chunk true (g - 1) r.1 pz else s1).returnCredit c))
      else .ok (((q.1.setWalker fi wi w1).passChunk fi wi m x.chunk false (x.hops - 1) r.1 pz).returnCredit c))

/-- RING_CHUNK_ARRIVAL (11 R296, R297, R300): the chunk at `k` of those on their way. One of an earlier epoch is
discarded. -/
def execRingChunkArrival (k : Nat) (s : State) : Host.Outcome State Fault Refusal :=
  .next (match s.ring[k]? with
  | none => s
  | some x =>
    match s.findMeeting x.asid x.mnum x.owner with
    | none => { s with ring := listDrop s.ring k }
    | some (hf, he, m) =>
      match s.walkerOf m x.dst with
      | none => s
      | some (fi, wi, w) =>
        let s1 := { s with ring := listDrop s.ring k }
        if !RingMsg.first s.ring k ∨ w.frozen ∨ !s.walks x.asid then s
        else if x.epoch < w.epoch then s1
        else if w.isOlder x.epoch x.dead ∨ w.stopped then s
        else if w.isPast x.epoch x.dead then s1
        else match (s1.takeChunk fi wi m w x).bind (fun s2 => s2.ringCheck hf he) with
          | .ok s3 => s3
          | .page va => s.missAt fi x.asid (va / 4096) (.meet hf he)
          | .wait => s
          | .fault => s.meetFault hf he)

/-- RING_CREDIT_ARRIVAL (11 R297): the sender's count of free slots rises, and it starts what it can. -/
def execRingCreditArrival (k : Nat) (s : State) : Host.Outcome State Fault Refusal :=
  .next (match s.ringCredit[k]? with
  | none => s
  | some x =>
    let s1 := { s with ringCredit := listDrop s.ringCredit k }
    match s.findMeeting x.asid x.mnum x.owner with
    | none => s1
    | some (hf, he, m) =>
      match s.walkerOf m x.dst with
      | none => s1
      | some (fi, wi, w) =>
        if w.frozen ∨ !s.walks x.asid then s
        else if w.isPast x.epoch x.dead then s1
        else if w.isOlder x.epoch x.dead then s
        else
          match ((s1.setWalker fi wi { w with credits := w.credits + 1 }).sendOut 8 fi wi m.n).startChunks (m.count + 1) fi wi m with
          | .ok s2 => s2
          | .page va => s.missAt fi x.asid (va / 4096) (.meet hf he)
          | .wait => s
          | .fault => s.meetFault hf he)

/-- RING_TIMEOUT (11 R298, R299): walker `k` of a field has awaited a chunk that its predecessor owes it for TIMEOUT
ticks, also while an exchange goes on: it declares the predecessor dead and sends the DEAD notices. -/
def execRingTimeout (field k : Nat) (s : State) : Host.Outcome State Fault Refusal :=
  .next (match SMap.find (s.field field).walkers k with
  | none => s
  | some w =>
    match s.findMeeting w.asid w.mnum w.owner with
    | none => s
    | some (hf, he, m) =>
      let live := w.survivors m.n
      if w.frozen ∨ !s.walks w.asid ∨ m.timeout = 0 ∨ live.length ≤ 1 ∨ m.count ≤ w.completed.length ∨
          (s.field field).time.toNat < w.waitSince + m.timeout then s
      else
        let d := ringPrev live w.member
        let s1 := { s with ringDead := s.ringDead ++
          ((List.range m.n).filter (· ≠ w.member)).map (fun i => w.ctl i d) }
        s.unitStep hf w.asid he (s1.learnDeath field k hf he m w d w.epoch))

/-- DEAD_NOTICE (11 R298, R299): a walker learns of a death; one that finds itself dead completes with 0x44. -/
def execDeadNotice (k : Nat) (s : State) : Host.Outcome State Fault Refusal :=
  .next (match s.ringDead[k]? with
  | none => s
  | some x =>
    let s1 := { s with ringDead := listDrop s.ringDead k }
    match s.findMeeting x.asid x.mnum x.owner with
    | none => s1
    | some (hf, he, m) =>
      match s.walkerOf m x.dst with
      | none => s
      | some (fi, wi, w) =>
        if w.frozen ∨ !s.walks x.asid then s
        else if x.arg = w.member then
          s.unitStep hf x.asid he
            (((if w.job.stopped then s1 else s1.endMeet w.job (some 0x44)).updField fi (fun f =>
              { f with walkers := SMap.del f.walkers wi })).ringCheck hf he)
        else if w.dead.any (fun d => d.1 == x.arg) ∨ x.epoch + 1 < w.epoch then s1
        else if w.epoch < x.epoch then s
        else s.unitStep hf x.asid he (s1.learnDeath fi wi hf he m w x.arg x.epoch))

/-- COMPLETION_INDEX (11 R299, R300): a survivor's index arrives; the walker that holds every one opens the next epoch
at B, the least of them. It arrives behind the notices that its sender sent before it (01 R26). -/
def execCompletionIndex (k : Nat) (s : State) : Host.Outcome State Fault Refusal :=
  .next (match s.ringQ[k]? with
  | none => s
  | some x =>
    let s1 := { s with ringQ := listDrop s.ringQ k }
    match s.findMeeting x.asid x.mnum x.owner with
    | none => s1
    | some (hf, he, m) =>
      match s.walkerOf m x.dst with
      | none => s
      | some (fi, wi, w) =>
        let behind := s.ringDead.any (fun y => y.isOf m && y.src == x.src && y.dst == x.dst && decide (y.epoch ≤ x.epoch))
        if w.frozen ∨ !s.walks x.asid ∨ behind then s
        else if x.epoch < w.epoch then s1
        else if w.epoch < x.epoch ∨ !w.stopped then s
        else s.unitStep hf x.asid he (s1.openEpoch fi wi hf he m { w with qs := w.qs ++ [(x.src, x.arg)] }))

end Sys2Proof.Machine
end

