-- ==== Sys2Proof/Machine/MeetCmds.lean ====
section
/-! DEFINITION. The meeting commands at issue and at the meeting units (12 R308 to R314; 11 R285, R286, R293). A
meeting job's `aux` is the field of its local unit, `scale` its member word, `prog` its place among the forwarded
commands and contributions of its source. -/
namespace Sys2Proof.Machine

/-- Whether a meeting unit takes a further command of a logical core (12 R308; 06 Table 6; 11 R285). -/
def State.meetRoom (s : State) (unit asid lc : Nat) : Bool :=
  let f := s.field unit
  let q := f.mq ++ f.mOut
  decide (s.outstanding .meet unit asid lc q < 4) &&
    decide (s.queued .meet unit (f.mq ++ f.mOut.filter (fun j => j.opc != 0x308)) < 64)

/-- Send a meeting command to the local unit, with its member word. -/
def Ctx.meetCmd (c : Ctx) (n : Node) (e1 e2 : BitVec 86) (w : Word) : FireRes :=
  let u := c.x.field
  if c.s.meetRoom u c.f.asid c.f.lc then
    let j := { c.job n e1 e2 [w] with aux := u }
    let s := c.upd (fun x => x.perfEvent 0x0B 1)
    .done { s with cmds := s.cmds ++ [mkCmd .meet u j] } []
  else .hold

/-- A member word (12 R311): ACCESS_FAULT 0x36 where reserved bits are set or an on-wafer owner is not below n. -/
def Ctx.memberWord (c : Ctx) (w : Nat) (k : Word → FireRes) : FireRes :=
  let owner := w / 1024 % 131072
  if w / 134217728 ≠ 0 ∨ (owner < 65536 ∧ c.p.n ≤ owner) then .trap .accessFault 0x36 else k (word w)

/-- The member word that names the owner of QCLOSE, QSTAT and QLAG: the issuing core under ARY 0 (12 R312). -/
def Ctx.ownerWord (c : Ctx) (k : Word → FireRes) : FireRes :=
  if c.v.ary = .const then c.memberWord (c.k (c.v.bits 0 6)) k else k (word (1024 * c.f.lc))

/-- The owner that a member word names. -/
def EJob.owner (j : EJob) : Nat := (j.scale.getD 0 0).toNat / 1024 % 131072

/-- QOPEN (12 R310). -/
def execQopen (n : Node) (e1 e2 : BitVec 86) (s : State) : Host.Outcome State Fault Refusal :=
  fire (viewX 0x307 n e1 e2) s (fun c =>
    if c.f.a.poison then .trap .poisonConsumed 0x03 else c.meetCmd n e1 e2 (word (1024 * c.f.lc)))

/-- QCONTRIB (12 R311). -/
def execQcontrib (n : Node) (s : State) : Host.Outcome State Fault Refusal :=
  fire (viewD 0x308 n) s (fun c =>
    match c.v.ary with
    | .dyad => if c.bTok.poison then .trap .poisonConsumed 0x03
        else c.memberWord (tlane c.bTok 0).toNat (fun w => c.meetCmd n 0 0 w)
    | .const => c.memberWord (c.k (c.v.bits 0 6)) (fun w => c.meetCmd n 0 0 w)
    | _ => c.memberWord (c.v.bits 0 32) (fun w => c.meetCmd n 0 0 w))

/-- QCLOSE (12 R312). -/
def execQclose (n : Node) (s : State) : Host.Outcome State Fault Refusal :=
  fire (viewD 0x309 n) s (fun c => c.ownerWord (fun w => c.meetCmd n 0 0 w))

/-- QSTAT (12 R312). -/
def execQstat (n : Node) (s : State) : Host.Outcome State Fault Refusal :=
  fire (viewD 0x30A n) s (fun c => c.ownerWord (fun w => c.meetCmd n 0 0 w))

/-- QLAG (12 R312). -/
def execQlag (n : Node) (s : State) : Host.Outcome State Fault Refusal :=
  fire (viewD 0x30B n) s (fun c => c.ownerWord (fun w => c.meetCmd n 0 0 w))

/-- QWSET (12 R313). -/
def execQwset (n : Node) (s : State) : Host.Outcome State Fault Refusal :=
  fire (viewD 0x30C n) s (fun c => if c.f.a.poison then .trap .poisonConsumed 0x03 else c.meetCmd n 0 0 0)

/-- CWALK (12 R314). -/
def execCwalk (n : Node) (e1 : BitVec 86) (s : State) : Host.Outcome State Fault Refusal :=
  fire (viewX 0x30D n e1 0) s (fun c =>
    if c.f.a.poison then .trap .poisonConsumed 0x03 else c.meetCmd n e1 0 (word (1024 * (c.v.x1 0 17))))

/-- Choose one of a list: which, the manual leaves open (DESIGN CHOICE, log 13). -/
def State.choose (s : State) (l : List Nat) : Option (Nat × State) :=
  match l with
  | [] => none
  | x :: _ =>
    some (l.getD ((Config.freeWord s.freeCtr).toNat % l.length) x, { s with freeCtr := s.freeCtr + 1 })

/-- The entry that a QOPEN installs (12 R310, Table 2; 11 Table 2). -/
def openEntry (j : EJob) (r : RouteV) (mbuf : Nat) : Meeting :=
  let v := j.view
  let rw := v.x1 64 4 + 1
  let d (x : Nat) : DWord := BitVec.ofNat 64 x
  { w0 := d (j.tagOut.toNat / 2 ^ rw * 2 ^ rw)
    w1 := d (v.x1 0 64)
    w2 := d (1 + 2 * v.bits 31 1 + 4 * v.x1 74 1 + 8 * (j.asid % 4096) + 2 ^ 15 * v.x1 64 4 + 2 ^ 19 * v.bits 8 10
      + 2 ^ 29 * v.bits 18 10 + 2 ^ 39 * v.bits 28 3 + 2 ^ 42 * v.x1 68 4 + 2 ^ 46 * v.x2 32 8 + 2 ^ 54 * v.x2 40 5
      + 2 ^ 59 * v.x1 79 5)
    w3 := d (v.x2 0 32 + 2 ^ 32 * v.x1 72 2 + 2 ^ 34 * r.vc.toNat + 2 ^ 37 * r.tc.toNat
      + 2 ^ 39 * (if r.act = 6 then 1 else r.act) + 2 ^ 42 * (j.lc % 131072) + 2 ^ 59 * v.x1 75 4)
    w4 := d mbuf
    w5 := d (r.core + 2 ^ 17 * r.node + 2 ^ 29 * r.port.toNat + 2 ^ 30 * v.x2 55 16 + 2 ^ 46 * v.bits 0 8)
    round := word (j.tagOut.toNat % 2 ^ rw), oncnt := if v.bits 31 1 = 1 then v.bits 8 10 + 1 else 0, latecnt := 0,
    frozen := false, unreach := false, dup := 0, deadline := 0, remaining := 0, members := [], onTime := [], late := [],
    ahead := [], waiting := [], links := [] }

/-- Free entries of a field's collective rule table. -/
def Field.freeEntries (f : Field) : List Nat := (List.range 256).filter (fun i => (SMap.find f.meet i).isNone)

/-- A QOPEN at its unit (12 R310): its checks in order, the member table zeroed, the entry installed, the timeout
started, the completion token sent. A canonical address that no pitch may use is not found wrong until the member table is
written (11 R284). -/
def State.openMeeting (s : State) (fi : Nat) (j : EJob) : State :=
  let v := j.view
  let ptr := tlane64 j.fire.a 0
  let at_ := checkPtr (tagColour j.fire.tag) ptr
  match s.pitch? j.asid with
  | some p =>
    let r := routeV j.rtE
    let mbuf := match at_ with | .ok (va, _) => va | .error _ => 0
    let bad : Bool := match at_ with | .error d => d == 0x54 | .ok _ => false
    if ptr % 4096 ≠ 0 ∨ bad then s.failMeet j 0x49
    else if !r.live p.n ∨ r.vc = 6 then s.failMeet j 0x48
    else if s.fields.any (fun f => f.2.meet.any (fun e => e.2.asid == j.asid && e.2.mnum == v.bits 0 8)) then s.failMeet j 0x46
    else match s.choose (s.field fi).freeEntries with
      | none => s.failMeet j 0x47
      | some (e, s1) =>
        let m := s1.startTimeout fi (openEntry j r mbuf)
        match (match at_ with | .ok _ => s1.writeMembers fi m | .error _ => .fault) with
        | .ok s2 => (s2.setMeeting fi e m).endMeet j none
        | .page va => s.missAt fi j.asid (va / 4096) (.meet fi (65536 + j.id.toNat))
        | .wait => s
        | .fault => (s.takeTrap j.asid j.lc (j.trapInfo .accessFault 0x41)).endMeet j (some 0x41)
  | none => s.dropMeet j

/-- A QWSET at its unit (12 R313; 11 R283). -/
def State.setWeights (s : State) (fi : Nat) (j : EJob) : State :=
  let f := s.field fi
  let v := j.view
  let idx := v.bits 0 5
  let from_ := v.bits 5 3
  let grp := s.lcGroup j.asid j.lc
  let upd (t : WTab) : WTab :=
    { t with w := (List.range (Nat.min j.fire.a.lanes.length (8 - from_))).foldl (fun l i => listSet l (from_ + i) (tlane j.fire.a i)) t.w }
  let write (s : State) (g t : Nat) (old : WTab) : State :=
    (s.updField g (fun f => { f with wtab := SMap.ins f.wtab t (upd old) })).endMeet j none
  match s.tableAt j.asid grp idx, s.tableOf j.asid grp idx with
  | some t, _ => write s t.1 t.2.1 t.2.2
  | none, some _ =>
    (s.updPitch j.asid (fun p => { p with savedWt := p.savedWt.map (fun t => if t.is j.asid grp idx then upd t else t) })).endMeet j none
  | none, none =>
    match s.choose ((List.range 32).filter (fun i => !(SMap.get WTab.init f.wtab i).valid)) with
    | none => s.failMeet j 0x4F
    | some (t, s1) => write s1 fi t { w := List.replicate 8 0x3F800000, valid := true, asid := j.asid, idx := idx, grp := grp }

/-- A walker of a CWALK at the start of a ring round (11 R295, R296). -/
def mkWalker (j : EJob) (round : Word) (src dst now : Nat) : Walker :=
  { asid := j.asid, mnum := j.view.bits 0 8, owner := j.owner, member := j.view.bits 8 10, job := j, src := src, dst := dst,
    round := round, epoch := 0, dead := [], bs := [], completed := [], credits := 4, started := 0, stopped := false, qs := [],
    waitSince := now, frozen := false, flags := 0, poison := false }

/-- The lowest free edge walker of a unit (12 R314). -/
def Field.freeWalker (f : Field) : Option Nat := (List.range 16).find? (fun i => (SMap.find f.walkers i).isNone)

/-- A CWALK at its local unit (12 R314; 11 R295). The first walker of a round starts epoch 0 with every member live (11 Table 3). -/
def State.startWalk (s : State) (fi : Nat) (j : EJob) : State :=
  let v := j.view
  let member := v.bits 8 10
  let src := tlane64 j.fire.a 0
  let dst := tlane64 j.fire.a 2
  match s.findMeeting j.asid (v.bits 0 8) j.owner with
  | none => s.failMeet j 0x4A
  | some (hf, he, m) =>
    if !m.ring then s.failMeet j 0x4B
    else if m.n ≤ member then s.failMeet j 0x43
    else if (s.walkerOf m member).isSome then s.failMeet j 0x4C
    else match (s.field fi).freeWalker with
      | none => s.failMeet j 0x47
      | some wi =>
        if src % 4096 ≠ 0 ∨ dst % 4096 ≠ 0 then s.failMeet j 0x49
        else match checkPtr (tagColour j.fire.tag) src, checkPtr (tagColour j.fire.tag) dst with
        | .ok (a, _), .ok (b, _) =>
          let w := mkWalker j m.round a b (s.field fi).time.toNat
          let s0 := if (s.walkersOf m).isEmpty then s.setMeeting hf he { m with oncnt := m.n, latecnt := 0 } else s
          let s1 := (s0.updField fi (fun f => { f with mq := removeJob f.mq j, mOut := f.mOut ++ [j] })).setWalker fi wi w
          match s1.startChunks (m.count + 1) fi wi m with
          | .ok s2 => s2
          | .page va => s.missAt fi j.asid (va / 4096) (.meet hf he)
          | .wait => s
          | .fault => (s.meetFault hf he).endMeet j (some 0x41)
        | _, _ => (s.meetFault hf he).endMeet j (some 0x41)

/-- An access that cannot be resolved ends a command so (11 R284). -/
def URes.faultTo (r : URes State) (t : State) : URes State := match r with | .fault => .ok t | r => r

/-- QCLOSE, QSTAT or QLAG at the home unit (12 R312). -/
def State.homeCommand (s : State) (fi : Nat) (j : EJob) : URes State :=
  let v := j.view
  let found := (s.field fi).findMeet j.asid (v.bits 6 8) j.owner
  let answer (ls : List Word) : State := (s.dropMeet j).jobToken .meet j.aux j false ls false
  if j.opc = 0x30A then
    match found with
    | none => .ok <| answer [0, 0, 0, 0]
    | some (e, m) => .ok <| answer (m.state.lanes ++ [word (e + 256), 0])
  else if j.opc = 0x30B then
    let i := v.bits 15 10
    match found with
    | none => .ok <| answer [0, 0]
    | some (e, m) =>
      if m.n ≤ i then .ok (answer [0, 0])
      else
        let s1 := answer (wordsOf 2 (m.member i).word)
        if v.bits 25 1 = 1 then
          let m1 := m.updMember i (fun x => { x with lag := 0 })
          ((s1.setMeeting fi e m1).writeMember fi m1 i).faultTo (s1.meetFault fi e)
        else .ok s1
  else
    match found with
    | none => .ok (s.failMeet j 0x4A)
    | some (e, m) =>
      if v.bits 14 1 = 1 then .ok ((s.removeMeeting fi e m 0x4E).endMeet j none)
      else if m.ring then .ok (s.failMeet j 0x4B)
      else ((s.forceClose fi e m).bind (fun s1 => .ok (s1.endMeet j none))).faultTo ((s.meetFault fi e).endMeet j (some 0x41))

/-- A command at its home unit: one that must wait, for a page or for a line, stays where it is. -/
def State.homeStep (s : State) (fi : Nat) (j : EJob) (taken : State) : State :=
  match taken.homeCommand fi j, (s.field fi).findMeet j.asid (j.view.bits 6 8) j.owner with
  | .ok s1, _ => s1
  | .page va, some (e, _) => s.missAt fi j.asid (va / 4096) (.meet fi e)
  | _, _ => s

/-- Whether two jobs were sent by one logical core to one home. -/
def sameLine (a b : EJob) (h k : Nat) : Bool := a.asid == b.asid && a.lc == b.lc && h == k

/-- The number of forwarded commands and contributions of a job's source that have yet to reach a home (01 R26). -/
def State.ahead (s : State) (j : EJob) (home : Nat) : Nat :=
  (s.mfwd.filter (fun x => sameLine x.2 j x.1 home)).length + (s.contribs.filter (fun c => sameLine c.job j c.field home)).length

/-- A forwarded item has reached its home: those behind it move up. -/
def State.moveUp (s : State) (j : EJob) (home : Nat) : State :=
  let up (k : EJob) : EJob := { k with prog := k.prog - 1 }
  let fm (x : Nat × EJob) : Nat × EJob := if sameLine x.2 j x.1 home then (x.1, up x.2) else x
  let fc (c : Contrib) : Contrib := if sameLine c.job j c.field home then { c with job := up c.job } else c
  { s with mfwd := s.mfwd.map fm, contribs := s.contribs.map fc }

/-- The home of a job's meeting: 64 for an owner off the wafer, whose traffic leaves by an edge port (DESIGN CHOICE, log 16). -/
def State.homeOfJob (s : State) (j : EJob) : Nat := if 65536 ≤ j.owner then 64 else s.homeUnit j.asid j.owner

/-- A command or contribution for an owner on another wafer leaves by the port map and an edge port on VC2, and its job stays
outstanding (12 R308; 18 R427). The manual gives no node or port of such a token: they are free values (DESIGN CHOICE, log 16). -/
def State.leaveWafer (s : State) (fi : Nat) (j : EJob) : State :=
  let w := Config.freeWord s.freeCtr
  let h := sinkHeader .mt
  ({ s with freeCtr := s.freeCtr + 1 }).sendAs (some (j.lc, trapNode j.fire.node j.fire.port j.opc)) (.meet fi)
    (coreDst j.asid j.owner)
    (mkToken j.asid j.owner (w.toNat % 4096) (w.getLsbD 12) 0 h.1 h.2
      { dest := .none, act := .pass, eos := none, poison := j.fire.a.poison, lanes := j.fire.a.lanes, tag := j.tagOut, code := 0 })

/-- A CWALK whose owner is on another wafer (12 R314): the local unit makes the checks that are its own, assigns a walker, and the
command leaves; whether the meeting lives and is a ring is for its home to say. -/
def State.walkOff (s : State) (fi : Nat) (j : EJob) : State :=
  let w := mkWalker j 0 (tlane64 j.fire.a 0) (tlane64 j.fire.a 2) (s.field fi).time.toNat
  let same (v : Walker) : Bool := v.asid == w.asid && v.mnum == w.mnum && v.owner == w.owner && v.member == w.member
  if s.fields.any (fun f => f.2.walkers.any (fun e => same e.2)) then s.failMeet j 0x4C
  else match (s.field fi).freeWalker with
    | none => s.failMeet j 0x47
    | some wi =>
      if w.src % 4096 ≠ 0 ∨ w.dst % 4096 ≠ 0 then s.failMeet j 0x49
      else
        ((s.updField fi (fun f => { f with mq := removeJob f.mq j, mOut := f.mOut ++ [j] })).setWalker fi wi w).leaveWafer fi j

/-- A command at the head of its local unit's queue (12 R308). -/
def State.localCommand (s : State) (fi : Nat) (j : EJob) : State :=
  let home := s.homeOfJob j
  let out (s : State) : State := s.updField fi (fun f => { f with mq := removeJob f.mq j, mOut := f.mOut ++ [j] })
  let j' := { j with prog := s.ahead j home }
  if home = 64 ∧ j.opc = 0x30D then s.walkOff fi j
  else if home = 64 ∧ j.opc ≠ 0x307 ∧ j.opc ≠ 0x30C then (out s).leaveWafer fi j
  else match j.opc.toNat with
  | 0x307 => s.openMeeting fi j
  | 0x308 =>
    let c : Contrib := { member := (j.scale.getD 0 0).toNat % 1024, t := j.tagOut.toNat % 65536, delta := 0,
                         lanes := j.fire.a.lanes, poison := j.fire.a.poison, job := j', field := home }
    { out s with contribs := s.contribs ++ [c] }
  | 0x30C => s.setWeights fi j
  | 0x30D => s.startWalk fi j
  | _ => if home = fi then s.homeStep fi j s else { out s with mfwd := s.mfwd ++ [(home, j')] }

/-- MEETING_COMMAND_DEQUEUE (12 R308 to R314): with k = 0, the oldest command of the local unit whose pitch runs; else
the forwarded command at k − 1, the next of its source. -/
def execMeetingCommandDequeue (field k : Nat) (s : State) : Host.Outcome State Fault Refusal :=
  .next (if k = 0 then
    match (s.field field).mq.find? (fun j => s.walks j.asid) with
    | none => s
    | some j => s.localCommand field j
  else
    match s.mfwd[k - 1]? with
    | none => s
    | some (home, j) =>
      if home = field ∧ j.prog = 0 ∧ s.walks j.asid then
        s.homeStep field j ({ s with mfwd := listDrop s.mfwd (k - 1) }.moveUp j home)
      else s)

/-- CONTRIBUTION_ARRIVAL (11 R285, R286, R294): the contribution at `k`, the next of its source, reaches its home unit.
One for a frozen meeting is held in arrival order. -/
def execContributionArrival (field k : Nat) (s : State) : Host.Outcome State Fault Refusal :=
  .next (match s.contribs[k]? with
  | none => s
  | some c =>
    if c.field ≠ field ∨ c.job.prog ≠ 0 then s
    else
      let s1 := { s with contribs := listDrop s.contribs k }.moveUp c.job field
      match (s.field field).takes c.job.asid c.job.tagOut with
      | none => s1.endMeet c.job (some 0x42)
      | some (e, m) =>
        if m.frozen then s1.setMeeting field e { m with waiting := m.waiting ++ [c] }
        else match s1.contribute (m.held.length + 2) field e true c with
          | .ok s2 => s2
          | .page va => s.missAt field c.job.asid (va / 4096) (.meet field e)
          | .wait => s
          | .fault => (s1.meetFault field e).endMeet c.job (some 0x41))

/-- ROUND_TIMEOUT (11 R292, R293): the timeout of entry `e` expires: misses count, and a count below k of members not
absent raises QUORUM_UNREACHABLE once; the timeout restarts. -/
def execRoundTimeout (field e : Nat) (s : State) : Host.Outcome State Fault Refusal :=
  .next (match s.meeting? field e with
  | none => s
  | some m =>
    if m.ring ∨ m.frozen ∨ m.timeout = 0 ∨ (s.field field).time.toNat < m.deadline then s
    else
      let p := s.missAll m
      let present := ((List.range m.n).filter (fun i => !(p.2.member i).absent)).length
      let raise := decide (present < m.k) && !m.unreach
      let s1 := if raise then p.1.quorumEvent m .quorumUnreachable m.mnum (some m.tag) else p.1
      let m1 := s1.startTimeout field { p.2 with unreach := m.unreach || raise }
      s.unitStep field m.asid e ((s1.setMeeting field e m1).writeMembers field m1))

end Sys2Proof.Machine
end

