-- ==== Sys2Proof/Machine/Booth.lean ====
section
/-! DEFINITION. The Ticket Booth: completion records, which rectangle fits, and the scan that admits and pre-empts (06
R162 to R171; 01 R18, R19; 17 R420). -/
namespace Sys2Proof.Machine

/-- An address of a launch record in its address space (06 R165; 13 R338): none where it is not canonical. -/
def launchVa (va : Nat) : Option Nat :=
  if va < 72057594037927936 then some va
  else if 18374686479671623680 ≤ va then some (va % 144115188075855872)
  else none

/-- How a launch ended (06 R171): STATUS, CAUSE, WHERE, NODE, TAG. -/
structure EndRec where
  status : Nat
  cause : Nat
  place : Nat
  node : Nat
  tag : DWord
  deriving DecidableEq, Repr, Inhabited

/-- The end of a launch with a status alone. -/
def EndRec.plain (status : Nat) : EndRec := { status := status, cause := 0, place := 0, node := 0, tag := 0 }

/-- The end of a launch that the loader or the intake rejects (06 R171). -/
def EndRec.reject (d : Diag) (i : Nat) : EndRec := { EndRec.plain 3 with place := d.code + 256 * (i % 16777216) }

/-- The bytes of a completion record (06 Table 9). -/
def EndRec.bytes (e : EndRec) (tAdmit tEnd : DWord) (preempts evWritten evDropped : Nat) : List Byte :=
  bytesOfNat 4 e.status ++ bytesOfNat 4 e.cause ++ bytesOfNat 4 e.place ++ bytesOfNat 4 e.node ++ bytesOfNat 8 e.tag.toNat ++
    bytesOfNat 8 tAdmit.toNat ++ bytesOfNat 8 tEnd.toNat ++ bytesOfNat 4 preempts ++ bytesOfNat 4 evWritten ++
    bytesOfNat 4 evDropped ++ List.replicate 12 0

/-- Write a completion record through the launch's address space, and fire the completion vector of the function that
its queue is assigned to (06 R165, R171; 17 R405). -/
def State.writeCompletion (s : State) (l : Launch) (e : EndRec) (tAdmit : DWord) (preempts evw evd : Nat) : State :=
  match launchVa l.compl with
  | none => s.launchBad l.queue l.index
  | some va =>
    s.fresh.2.rcWrite
      { id := s.fresh.1, field := s.bootField, asid := l.asid, va := va, bytes := e.bytes tAdmit s.bootTime preempts evw evd,
        queue := l.queue, index := l.index, vector := true }

/-- The completion record of a launch that was never admitted. -/
def State.reject (s : State) (l : Launch) (e : EndRec) : State := s.writeCompletion l e 0 0 0 0

/-- The end of a launch that the loader rejects, and its report to the host that submitted it (02 R57; 06 R171). -/
def State.rejectWith (s : State) (l : Launch) (r : Report57) : State :=
  State.reject { s with rejects := s.rejects ++
    [{ queue := l.queue, index := l.index, diag := r.diag.code, kernel := r.kernel, place := r.index }] } l (EndRec.reject r.diag r.index)

/-- Whether a rectangle holds a cluster. -/
def Rect.has (r : Rect) (k : Nat) : Bool :=
  let x := k % 128
  let y := k / 128
  decide (r.kx0 ≤ x) && decide (x < r.kx0 + r.w) && decide (r.ky0 ≤ y) && decide (y < r.ky0 + r.h)

/-- Whether a cluster is admissible: neither excluded, nor quarantined, nor in a fenced or held field (06 R167; 17
R422). -/
def State.admissible (s : State) (k : Nat) : Bool :=
  let f := s.field (fieldOfCluster k)
  !f.mex.contains (clusterInField k) && !f.quar.contains (clusterInField k) && !f.fenced && !f.hold

/-- Whether no pitch but those in `gone` holds a cluster. -/
def State.clusterFree (s : State) (gone : Nat → Bool) (k : Nat) : Bool :=
  !s.pitches.any (fun p => p.2.placed && !gone p.1 && p.2.rect.has k)

/-- Whether a graph object can be hosted on a rectangle (01 R18, R19; 06 R167). -/
def State.canHost (s : State) (r : Rect) (o : GraphObj) : Bool :=
  match s.chainsOf r with
  | none => false
  | some ch => o.cores.all (fun c => !(r.hostOf ch c.lcore).doubled || !c.overHalf)

/-- The field of a logical core on a rectangle. -/
def State.rectField (s : State) (r : Rect) (lc : Nat) : Nat :=
  let h := r.hostOf ((s.chainsOf r).getD []) lc
  fieldOfCore h.cx h.cy

/-- Whether the units that would hold a saved pitch's meetings have entries for them (06 R167, 11 R294). -/
def State.meetFits (s : State) (r : Rect) (ms : List Meeting) : Bool :=
  ms.all (fun m =>
    let f := s.rectField r m.owner
    decide ((ms.filter (fun q => s.rectField r q.owner == f)).length ≤ (s.field f).freeEntries.length))

/-- Whether a rectangle fits (06 R167). -/
def State.rectFits (s : State) (gone : Nat → Bool) (o : GraphObj) (ms : List Meeting) (r : Rect) : Bool :=
  r.clusters.all (fun k => s.admissible k && s.clusterFree gone k) && s.canHost r o && s.meetFits r ms

/-- The lowest rectangle of a shape that fits: lowest cluster row, then lowest cluster column (06 R167). -/
def State.lowestRect (s : State) (gone : Nat → Bool) (o : GraphObj) (ms : List Meeting) (w h : Nat) : Option Rect :=
  ((List.range ((65 - h) * (129 - w))).map (fun i =>
    ({ kx0 := i % (129 - w), ky0 := i / (129 - w), w := w, h := h, scatter := o.scatter, salt := o.salt } : Rect))).find?
      (s.rectFits gone o ms)

/-- The rectangle of a launch, unrotated first, and whether it is rotated (06 R167). -/
def State.place (s : State) (gone : Nat → Bool) (l : Launch) (o : GraphObj) (ms : List Meeting) : Option (Rect × Bool) :=
  match s.lowestRect gone o ms l.w l.h with
  | some r => some (r, false)
  | none =>
    if l.rot ∧ l.h ≤ 128 ∧ l.w ≤ 64 then (s.lowestRect gone o ms l.h l.w).map (fun r => (r, true)) else none

/-- The graph object and saved meetings of a waiting launch. -/
def State.waitObj (s : State) (w : Waiting) : GraphObj × List Meeting :=
  match w.obj, s.pitch? w.launch.asid with
  | some o, _ => (o, [])
  | none, some p => (p.image, p.savedMeet)
  | none, none => (default, [])

/-- Whether an overflow trap of a pitch still waits for its region controller (06 R154). -/
def State.overflowPending (s : State) (asid : Nat) : Bool :=
  s.traps.any (fun t => t.asid == asid && !t.handler && (t.cause == .matchOverflow || t.cause == .channelOverflow))

/-- Where a waiting launch fits now: its ASID must be free, and a saved pitch's overflow enlarged (01 R16; 06 R154). -/
def State.waitFits (s : State) (gone : Nat → Bool) (w : Waiting) : Option (Rect × Bool) :=
  let o := s.waitObj w
  if w.saved then (if s.overflowPending w.launch.asid then none else s.place gone w.launch o.1 o.2)
  else if (s.pitch? w.launch.asid).isSome then none
  else s.place gone w.launch o.1 o.2

/-- Whether one waiting launch ranks above another: by priority, then by age (06 R167). -/
def Waiting.above (a b : Waiting) : Bool :=
  decide (b.launch.prio < a.launch.prio) || (a.launch.prio == b.launch.prio && decide (a.launch.age < b.launch.age))

/-- Insert in rank order. -/
def insRank (a : Waiting) : List Waiting → List Waiting
  | [] => [a]
  | b :: r => if a.above b then a :: b :: r else b :: insRank a r

/-- The waiting table in rank order. -/
def State.ranked (s : State) : List Waiting := s.waiting.foldr insRank []

/-- Whether a waiting launch is blocking (06 R168). -/
def Waiting.blocking (w : Waiting) : Bool := decide (w.launch.bypass ≤ w.count)

/-- The configuration log after an admission (17 R420). -/
def State.logConfig (s : State) (l : Launch) : State :=
  let (bytes, s) := match launchVa l.cfg with
    | some va => (match s.vread s.bootField l.asid va l.cfgLen true with | some (bs, _, s1) => (bs, s1) | none => ([], s))
    | none => ([], s)
  { s with cfglog := sha384 (s.cfglog ++ sha384 bytes ++ bytesOfNat 2 l.asid) }

/-- Admit a launch that needs a configuration (01 R22; 06 R167, R171): its clusters and cores are configured. -/
def State.admitNew (s : State) (l : Launch) (o : GraphObj) (r : Rect) (rot : Bool) : State :=
  let p := mkPitch l o r rot ((s.chainsOf r).getD []) s.bootTime s.admitCtr
  let s1 := r.clusters.foldl (fun s k => s.updCluster k Cluster.startConfig) (s.logConfig l)
  ({ s1.setPitch l.asid p with admitCtr := s1.admitCtr + 1 }).mapPitch l.asid p

/-- Install a frozen meeting in the lowest free entry of its owner's new field (11 R294). -/
def State.installMeeting (s : State) (r : Rect) (m : Meeting) : State :=
  let f := s.rectField r m.owner
  match (s.field f).freeEntries with
  | e :: _ => s.setMeeting f e m
  | [] => s

/-- Admit a saved pitch onto a rectangle (06 R167, R183; 11 R294): its logical cores take their new hosts, and the
entries of its meetings are taken. -/
def State.admitSaved (s : State) (asid : Nat) (r : Rect) (rot : Bool) : State :=
  match s.pitch? asid with
  | none => s
  | some p =>
    let ch := (s.chainsOf r).getD []
    let p1 := { p with kx0 := r.kx0, ky0 := r.ky0, w := r.w, h := r.h, rotated := rot, st := PState.restoring }
    let p2 := p1.mapLC (fun i x => x.rehost p.image i (r.hostOf ch i))
    let s1 := p.savedMeet.foldl (fun s m => s.installMeeting r m) s
    (s1.setPitch asid { p2 with savedMeet := [] }).mapPitch asid p2

/-- Take a launch out of the waiting table. -/
def State.unwait (s : State) (age : Nat) : State :=
  { s with waiting := s.waiting.filter (fun x => x.launch.age != age),
           boothPre := if s.boothPre = some age then none else s.boothPre,
           victims := if s.boothPre = some age then [] else s.victims }

/-- What the loader finds against a launch on the rectangle that it takes: the tiles of a logical core whose host is doubled (02
R466). -/
def State.placeDiag (s : State) (w : Waiting) (r : Rect) : Option Report57 :=
  match w.saved, w.obj with
  | false, some o => o.diag r.n (fun i => (r.hostOf ((s.chainsOf r).getD []) i).doubled)
  | _, _ => none

/-- Admit a waiting launch. -/
def State.admitLaunch (s : State) (w : Waiting) (r : Rect) (rot : Bool) : State :=
  match w.saved, w.obj with
  | false, some o => (s.unwait w.launch.age).admitNew w.launch o r rot
  | _, _ => (s.unwait w.launch.age).admitSaved w.launch.asid r rot

/-- Count a bypass of every waiting launch in a list (06 R168). -/
def State.bumpAll (s : State) (ws : List Waiting) : State :=
  let g (x : Waiting) : Waiting :=
    if ws.any (fun w => w.launch.age == x.launch.age) then { x with count := x.count + 1 } else x
  { s with waiting := s.waiting.map g }

/-- The scan in rank order (06 R167, R168): `skipped` are the launches above that do not fit. While one of them is
blocking, nothing below it is admitted. The launch that victims are being saved for waits for them (06 R169). -/
def State.scanFrom (s : State) (skipped : List Waiting) : List Waiting → State
  | [] => s
  | w :: r =>
    if skipped.any Waiting.blocking then s
    else
      let waits := s.boothPre == some w.launch.age && !s.victims.isEmpty
      match (if waits then none else s.waitFits (fun _ => false) w) with
      | none => State.scanFrom s (skipped ++ [w]) r
      | some (rect, rot) =>
        match s.placeDiag w rect with
        | some d => State.scanFrom ((s.unwait w.launch.age).rejectWith w.launch d) skipped r
        | none =>
          let up := skipped.map (fun x => { x with count := x.count + 1 })
          State.scanFrom ((s.admitLaunch w rect rot).bumpAll skipped) up r

/-- Whether one running pitch is chosen as a victim before another: lowest priority, then latest admission (06 R169). -/
def victimBefore (a b : Nat × Pitch) : Bool :=
  decide (a.2.launch.prio < b.2.launch.prio) ||
    (a.2.launch.prio == b.2.launch.prio && decide (b.2.admitNo < a.2.admitNo))

/-- Insert in the order of choice. -/
def insVictim (a : Nat × Pitch) : List (Nat × Pitch) → List (Nat × Pitch)
  | [] => [a]
  | b :: r => if victimBefore a b then a :: b :: r else b :: insVictim a r

/-- The victims added until the launch fits (06 R169). -/
def State.addVictims (s : State) (w : Waiting) (chosen : List Nat) : List Nat → Option (List Nat)
  | [] => none
  | a :: r =>
    let c := chosen ++ [a]
    if (s.waitFits (fun p => c.contains p) w).isSome then some c else State.addVictims s w c r

/-- Remove, in reverse order of choice, every victim without which the launch still fits (06 R169). -/
def State.dropVictims (s : State) (w : Waiting) (chosen : List Nat) : List Nat → List Nat
  | [] => chosen
  | a :: r =>
    let c := chosen.filter (· ≠ a)
    State.dropVictims s w (if (s.waitFits (fun p => c.contains p) w).isSome then c else chosen) r

/-- The Booth makes room for the highest-ranked launch that does not fit (06 R169). -/
def State.boothPreempt (s : State) : State :=
  match s.ranked with
  | [] => s
  | w :: _ =>
    if s.boothPre.isSome ∨ (s.waitFits (fun _ => false) w).isSome then s
    else
      let cands := (s.pitches.filter (fun p => p.2.st == .running && decide (p.2.launch.prio < w.launch.prio))).foldr insVictim []
      match s.addVictims w [] (cands.map (·.1)) with
      | none => s
      | some c =>
        let v := s.dropVictims w c c.reverse
        { s with boothPre := some w.launch.age, victims := v, preemptReq := s.preemptReq ++ v.filter (fun a => !s.preemptReq.contains a) }

/-- The launch that the Booth made room for has no victim left to wait for: it competes as any other. -/
def State.endRoom (s : State) : State := if s.victims.isEmpty then { s with boothPre := none } else s

/-- A Booth scan (06 R167 to R169). -/
def State.boothScan (s : State) : State := (s.endRoom.scanFrom [] s.ranked).boothPreempt

end Sys2Proof.Machine
end

