-- ==== Sys2Proof/Machine/QueueOps.lean ====
section
/-! DEFINITION. Tokens at a core's network interface, its overflows and refills, parked requests, and the return of
colours (06 R150 to R159, R181; 01 R16, R25; 04 R109; 09 R244; 10 R257). -/
namespace Sys2Proof.Machine

/-- The channel within which a token keeps its order: its VC, or 8 for the scale network (01 R26, 06 R150). -/
def tokChan (t : Token) : Nat := if t.act = 5 then 8 else t.vc.toNat

/-- Whether two tokens in flight keep their order (01 R26). -/
def sameChan (a b : Flight) : Bool := a.src == b.src && a.dst == b.dst && tokChan a.tok == tokChan b.tok

/-- Whether the token at `k` is the oldest of its source, destination and channel (01 R26). -/
def flightFirst (fs : List Flight) (k : Nat) : Bool :=
  match fs[k]? with
  | none => false
  | some a => (fs.take k).all (fun b => !sameChan a b)

/-- Insert by arrival number. -/
def insArrived (a : Flight) : List Flight → List Flight
  | [] => [a]
  | b :: r => if a.ni.getD 0 < b.ni.getD 0 then a :: b :: r else b :: insArrived a r

/-- The tokens that wait at a network interface on a channel, in the order they arrived (06 R150). -/
def State.waitingAt (s : State) (asid lc chan : Nat) : List Flight :=
  (s.flight.filter (fun g => g.dst == .lcore asid lc && g.ni.isSome && tokChan g.tok == chan)).foldr insArrived []

/-- The arrival number of the next token at a network interface. -/
def State.nextArrival (s : State) (asid lc : Nat) : Nat :=
  s.flight.foldl (fun m g => if g.dst = .lcore asid lc then Nat.max m (g.ni.elim 0 (· + 1)) else m) 0

/-- Note that the token at `k` waits at its network interface. -/
def State.markArrived (s : State) (k asid lc : Nat) : State :=
  let n := s.nextArrival asid lc
  { s with flight := s.flight.mapIdx (fun j g => if j = k then { g with ni := some (g.ni.getD n) } else g) }

/-- The checks of the network interface, and the input path (06 R150): a token that fails them is discarded and counted
(01 R16, 02 R54); VC6 and VC7 go to the controller, but for a trap token to the trap handler. -/
def State.admitTok (s : State) (asid lc : Nat) (t : Token) : Arrive :=
  match s.pitch? asid, s.lc? asid lc with
  | some p, some x =>
    if x.discards asid t then
      .done (s.ucDrop asid lc t.tag t.dnode.toNat t.dport (x.opcAt t.dnode.toNat))
    else if t.vc = 7 then
      (if p.trap = some (lc, t.dnode.toNat) then s.enterPath asid lc { t with act := 0 } else .done s)
    else if t.vc = 6 then .done s
    else s.enterPath asid lc t
  | _, _ => .done s

/-- Raise MATCH_OVERFLOW or CHANNEL_OVERFLOW about a token, once until the region controller has dealt with it
(06 R154). -/
def State.raiseOverflow (s : State) (asid lc : Nat) (cause : Cause) (t : Token) : State :=
  if s.traps.any (fun q => q.asid == asid && q.lc == lc && q.cause == cause && !q.handler) then s
  else
    let opc := match s.lc? asid lc with | some x => x.opcAt t.dnode.toNat | none => 0
    s.takeTrap asid lc (tokTrap cause 0 t opc)

/-- The token at `k` of a running pitch (06 R150, R153): it queues behind those that wait on its channel, joins the
channel overflow while that holds tokens of its channel, or enters the input path. -/
def State.arrive (s : State) (k asid lc : Nat) (fl : Flight) (x : LCore) : State :=
  let t := fl.tok
  let s0 := s.updLC asid lc (fun x => x.received fl)
  let s1 := { s0 with flight := listDrop s.flight k }
  let ahead (g : Flight) : Bool := match fl.ni, g.ni with | some a, some b => decide (b < a) | _, _ => true
  if (s.waitingAt asid lc (tokChan t)).any (fun g => ahead g && g != fl) then
    (if fl.ni.isNone then s0.markArrived k asid lc else s)
  else if x.chanOvf.any (fun u => tokChan u == tokChan t) ∧ !x.discards asid t then
    (if x.chanRoom t then s1.updLC asid lc (fun x => x.chanPut t)
     else (s0.markArrived k asid lc).raiseOverflow asid lc .channelOverflow t)
  else match s1.admitTok asid lc t with
    | .done s2 => s2
    | .wait => s0.markArrived k asid lc
    | .full cause => (s0.markArrived k asid lc).raiseOverflow asid lc cause t

/-- TOKEN_ARRIVAL (06 R150, R181): the token at `k`, the oldest of its source on its channel, reaches its core. From the
halt on it goes to the spill ring; while its logical core is rebound it is held (10 R270). -/
def execTokenArrival (k : Nat) (s : State) : Host.Outcome State Fault Refusal :=
  .next (match s.flight[k]? with
  | none => s
  | some fl =>
    match fl.dst with
    | .wafer _ => s
    | .lcore asid lc =>
      match s.pitch? asid, s.lc? asid lc with
      | some p, some x =>
        if !flightFirst s.flight k ∨ x.blocked then s
        else match p.st with
          | .loading => s
          | .running => s.arrive k asid lc fl x
          | _ =>
            if x.spillRoom fl.tok then
              let saved := p.st == .saved
              { s with flight := listDrop s.flight k }.updLC asid lc (fun x =>
                (if saved then x else x.received fl).spillTok saved fl.tok)
            else s.updLC asid lc (fun x => x.noteFull fl.tok)
      | _, _ => { s with flight := listDrop s.flight k })

/-- Whether a logical core's input path works: its pitch runs and it is not being rebound. -/
def State.pathOpen (s : State) (asid : Nat) (x : LCore) : Bool := s.running asid && !x.blocked

/-- STICKY_OVERFLOW_SCAN (10 R257 rule 2): the oldest sticky entry that has a waiting partner, in the match overflow or
refilled from it (06 R152), completes a match with each partner, oldest first. -/
def execStickyOverflowScan (asid lc : Nat) (s : State) : Host.Outcome State Fault Refusal :=
  .next (match s.lc? asid lc with
  | none => s
  | some x =>
    let partner (e w : MEntry) : Bool :=
      w.kind == .waiting && w.node == e.node && w.port != e.port && tagColour w.tok.tag == tagColour e.tok.tag
    if s.pathOpen asid x then
      let all := x.ms ++ x.ovf
      match all.find? (fun e => e.kind == .sticky && all.any (partner e)) with
      | none => s
      | some e =>
        match s.stickyMatches all.length asid lc e.tok false with
        | .done s1 => s1
        | .wait => s
        | .full cause => s.raiseOverflow asid lc cause e.tok
    else s)

/-- Insert a refilled entry by its arrival number. -/
def insRefill (e : MEntry) : List MEntry → List MEntry
  | [] => [e]
  | y :: r => if (y.seq + 4294967296 - e.seq) % 4294967296 < 2147483648 then e :: y :: r else y :: insRefill e r

/-- MATCH_REFILL (06 R152, 10 R255): with at least 256 entries free, the oldest spilled entry returns. -/
def execMatchRefill (asid lc : Nat) (s : State) : Host.Outcome State Fault Refusal :=
  .next (match s.lc? asid lc with
  | none => s
  | some x =>
    match x.ovf with
    | [] => s
    | e :: r =>
      if s.pathOpen asid x ∧ x.msUsed + 256 ≤ x.reqMatch then
        s.updLC asid lc (fun x => LCore.count { x with ms := insRefill e x.ms, ovf := r }
          (fun c => { c with mrefill := satInc c.mrefill }))
      else s)

/-- Move waiting tokens to the channel overflow in order, up to the first that finds no room (06 R153, R154). -/
def State.spillWaiting (s : State) (asid lc : Nat) : List Flight → State
  | [] => s
  | g :: r =>
    match s.lc? asid lc with
    | none => s
    | some x =>
      if x.chanRoom g.tok then
        State.spillWaiting ({ s with flight := s.flight.erase g }.updLC asid lc (fun x => x.chanPut g.tok)) asid lc r
      else s.raiseOverflow asid lc .channelOverflow g.tok

/-- CHANNEL_OVERFLOW_SPILL (06 R153): the tokens that wait on a VC move to the channel overflow. -/
def execChannelOverflowSpill (asid lc vc : Nat) (s : State) : Host.Outcome State Fault Refusal :=
  .next (match s.lc? asid lc with
  | none => s
  | some x => if s.pathOpen asid x ∧ vc < 8 then s.spillWaiting asid lc (s.waitingAt asid lc vc) else s)

/-- CHANNEL_OVERFLOW_REPLAY (06 R153): the oldest token of a VC in the channel overflow enters the input path. -/
def execChannelOverflowReplay (asid lc vc : Nat) (s : State) : Host.Outcome State Fault Refusal :=
  .next (match s.lc? asid lc with
  | none => s
  | some x =>
    match x.chanOvf.find? (fun t => tokChan t == vc) with
    | none => s
    | some t =>
      if s.pathOpen asid x then
        match (s.updLC asid lc (fun x => { x with chanOvf := x.chanOvf.erase t })).admitTok asid lc t with
        | .done s1 => s1
        | .wait => s
        | .full cause => s.raiseOverflow asid lc cause t
      else s)

/-- READY_QUEUE_ENTRY (01 R25): the oldest completed match that a full ready queue held back takes a free slot. -/
def execReadyQueueEntry (core : Nat) (s : State) : Host.Outcome State Fault Refusal :=
  .next (match s.heldQ core with
  | [] => s
  | f :: r =>
    if (s.readyQ core).length < 64 then
      ({ s with held := SMap.put [] s.held core r }).setReady core (s.readyQ core ++ [f])
    else s)

/-- COLOUR_REFILL (04 R109): the registers of a colour that a waiting firing needs come from the copy area where that is
valid, else from the allocation image. The copy area's entry is no longer valid then (DESIGN CHOICE, log 88). -/
def execColourRefill (asid lc colour : Nat) (s : State) : Host.Outcome State Fault Refusal :=
  .next (match s.lc? asid lc, s.pitch? asid with
  | some x, some p =>
    match SMap.find p.colours colour with
    | none => s
    | some a =>
      if x.cached colour = none ∧ (s.readyQ x.core).any (fun f => f.asid == asid && f.lc == lc && tagColour f.tag == colour) then
        let r := (SMap.find x.copyArea colour).getD a.regs
        let q := s.readyQ x.core
        s.updLC asid lc (fun x =>
          let y := x.cacheColour asid lc q colour r
          if (y.cached colour).isSome then LCore.perfEvent { y with copyArea := SMap.del y.copyArea colour } 0x07 1 else x)
      else s
  | _, _ => s)

/-- STARVATION_TIMEOUT (06 R159): the parked request at `k` raises TAG_STARVED or COLOUR_STARVED, attributed to its
firing. -/
def execStarvationTimeout (asid lc k : Nat) (s : State) : Host.Outcome State Fault Refusal :=
  .next (match s.lc? asid lc with
  | none => s
  | some x =>
    match x.waitRing[k]? with
    | none => s
    | some q =>
      let cause : Cause := if q.colour then .colourStarved else .tagStarved
      if s.running asid ∧ !s.traps.any (fun t => t.asid == asid && t.lc == lc && t.cause == cause) then
        s.takeTrap asid lc (firingTrap q.f (x.opcAt q.f.node) cause 0)
      else s)

/-- COLOUR_RETURN (09 R239, R244; 06 R158): every core has acknowledged a free; the value returns to the pitch pool, the
local pools refill, and parked firings are retried. -/
def execColourReturn (asid colour : Nat) (s : State) : Host.Outcome State Fault Refusal :=
  .next (match s.pitch? asid with
  | none => s
  | some p =>
    if p.freed.contains colour then
      let p1 := p.mapLC (fun _ x => x.dropColour colour)
      let p2 := { p1 with freed := p1.freed.erase colour, pool := poolIns p1.pool (colour, colour + 1) }
      (s.setPitch asid p2.refillAll).retryColours asid
    else s)

/-- The reserve grant for a starved colour request (06 R159): the reserve joins the pitch pool. -/
def State.grantColours (s : State) (asid : Nat) : State :=
  (s.updPitch asid (fun p =>
    Pitch.refillAll { p with pool := p.reserve.foldl poolIns p.pool, reserve := [], reserveUsed := true })).retryColours asid

/-- LIMIT raised by the reserve grant (06 R159), at most 65,535. -/
def raiseLimit (r : ColourRegs) : ColourRegs :=
  let l := r.limit.toNat
  { r with limit := BitVec.ofNat 16 (Nat.min 65535 (l + Nat.max 1 (l / 4))) }

/-- The reserve grant for a starved tag request (06 R159; 04 R109): LIMIT of the colour rises in the allocation image, in
every cached copy and in every valid copy-area entry. -/
def State.grantTags (s : State) (asid colour : Nat) : State :=
  let s1 := s.updPitch asid (fun p =>
    let img := match SMap.find p.colours colour with
      | some a => SMap.ins p.colours colour { a with regs := raiseLimit a.regs }
      | none => p.colours
    let core (x : LCore) : LCore :=
      { x.updColour colour raiseLimit with
          copyArea := match SMap.find x.copyArea colour with
            | some r => SMap.ins x.copyArea colour (raiseLimit r)
            | none => x.copyArea }
    { p with colours := img, reserveUsed := true }.mapLC (fun _ x => core x))
  match s1.pitch? asid with
  | none => s1
  | some p => p.lcores.foldl (fun s e => s.retryTags asid e.1 colour) s1

end Sys2Proof.Machine
end

