-- ==== Sys2Proof/Machine/EndPitch.lean ====
section
/-! DEFINITION. The end of a launch: what is discarded, the completion record, and the events that end one (06 R170 to
R179; 09 R232; 17 R408). -/
namespace Sys2Proof.Machine

/-- The trap word of a completion record (06 R171; 04 Table 7). -/
def causeWord (c : Cause) (detail : Nat) : Nat := c.code.toNat + 256 + 65536 * (detail % 65536)

/-- The end of a launch by a trap (06 R171, R174). -/
def EndRec.trap (t : TrapTok) : EndRec :=
  { status := 2, cause := causeWord t.cause t.detail.toNat, place := t.lc % 131072, node := (trapNode t.node t.port t.opc).toNat,
    tag := t.tag }

/-- The end of a launch by a trap that no firing raised: WHERE, NODE and TAG are free values (06 R178; DESIGN CHOICE, log 13). -/
def State.endFree (s : State) (c : Cause) : EndRec × State :=
  let i := s.freeCtr
  let w (k : Nat) : Word := Config.freeWord (i + k)
  ({ status := 2, cause := causeWord c 0, place := (w 0).toNat, node := (w 1).toNat, tag := mkDWord (w 2) (w 3) },
   { s with freeCtr := i + 4 })

/-- Every copy job that owns lines writes and releases them: a job of a halted pitch stops at a page, and an access to an owned
line waits for it (06 R180; 14 R361). -/
def State.settleCopies (s : State) : State :=
  s.clusters.foldl (fun s e =>
    (s.cluster e.1).cpq.foldl (fun s j =>
      if j.owns ≠ [] then (if isCopyCmd j.opc.toNat then s.moveMem e.1 j else s.moveCb e.1 j) else s) s) s

/-- Perform the writes and atomics of a pitch that are on their way, in order (06 R170, R180 step 4). -/
def State.performReqs (s : State) (asid : Nat) : State :=
  s.reqs.foldl (fun s r =>
    if r.asid ≠ asid then s
    else match r.kind with
      | .write => if r.atHost ∨ s.isDup r then s else (s.markDone r).writeLine r.pa r.data r.poison
      | .atomic =>
        (match s.reqMem r with
        | some (x, m) =>
          if r.atHost then s.doAtomic r x m else if s.isDup r ∨ isHostPa r.pa then s else (s.markDone r).doAtomic r x m
        | none => s)
      | _ => s) s

/-- Perform the stores that stand in the store queues of a pitch. -/
def State.performStores (s : State) (asid : Nat) (p : Pitch) : State :=
  p.lcores.foldl (fun s e => (e.2.sqPends asid e.1).foldl (fun s w => s.writeLine w.pa w.data w.poison) s) s

/-- Insert a member behind those that entered chain order before it. -/
def insEntered (m : MemAcc) : List MemAcc → List MemAcc
  | [] => [m]
  | e :: r => if e.order.contains m.id then m :: e :: r else e :: insEntered m r

/-- The writes and atomics of a logical core that stand in chain order and have not left its wave buffer, in that order (14 R351). -/
def LCore.heldWrites (x : LCore) : List MemAcc :=
  (x.mem.filter (fun m => m.entered && (m.kind == .store || m.kind == .strmst || (m.kind == .atomic && !m.released)))).foldr insEntered []

/-- Send a part of such a write to its home, where it translates (06 R180 step 4; 14 R352). -/
def State.sendHeld (s : State) (asid lc : Nat) (m : MemAcc) (e : Nat × Part) : State :=
  match s.lc? asid lc with
  | none => s
  | some x =>
    if e.2.stage ≠ 0 then s
    else match s.translate x.field asid e.2.va true false false with
      | .ok (pa, _, s1) =>
        let p : Part :=
          match m.strm, (m.strm.bind fun t => (t.linePieces (tlane64 m.fire.a 0))[e.1]?) with
          | some t, some r =>
            let off := t.toff + 4 * t.roww * r.1 + r.2.1
            let k := x.tile t.tile
            { e.2 with pa := pa, data := k.read off e.2.len, poison := k.poisonIn off e.2.len }
          | _, _ => { e.2 with pa := pa }
        s1.sendReq asid lc x m e.1 p (if m.kind = .atomic then .atomic else .write)
      | .error _ => s

/-- Send the writes that a pitch holds in its wave buffers. -/
def State.sendWrites (s : State) (asid : Nat) (p : Pitch) : State :=
  p.lcores.foldl (fun s l => l.2.heldWrites.foldl (fun s m =>
    (m.parts.zipIdx).foldl (fun s e => s.sendHeld asid l.1 m (e.2, e.1)) s) s) s

/-- Complete the memory requests of a pitch: those on their way, its store queues, and what stands in chain order (06 R170, R180;
14 R352, R368). -/
def State.flushPitch (s : State) (asid : Nat) : State :=
  let s1 := s.settleCopies.performReqs asid
  match s1.pitch? asid with
  | none => s1
  | some p =>
    let s2 := s1.performStores asid p
    let s3 := { s2 with reqs := s2.reqs.filter (fun r => r.asid != asid) }
    (s3.sendWrites asid p).performReqs asid

/-- A field without what a pitch holds there: meetings, walkers, weight tables, commands, walks (11 R283). -/
def Field.dropPitch (f : Field) (asid : Nat) : Field :=
  let mine (m : Miss) : Bool :=
    match m with | .access a _ _ => a == asid | _ => false
  { f with meet := f.meet.filter (fun e => e.2.asid != asid), walkers := f.walkers.filter (fun e => e.2.asid != asid),
           wtab := f.wtab.filter (fun e => e.2.asid != asid), mq := f.mq.filter (fun j => j.asid != asid),
           mOut := f.mOut.filter (fun j => j.asid != asid), walks := f.walks.filter (fun w => w.asid != asid),
           wqueue := f.wqueue.filter (fun q => q.1 != asid && !mine q.2.2) }

/-- A cluster without the jobs of a pitch. -/
def Cluster.dropPitch (k : Cluster) (asid : Nat) : Cluster :=
  { k with mq := k.mq.filter (fun j => j.asid != asid), cpq := k.cpq.filter (fun j => j.asid != asid),
           peeks := k.peeks.filter (fun j => j.asid != asid) }

/-- Release the lines that engines of a pitch's clusters own. -/
def State.freeLines (s : State) (p : Pitch) : State :=
  { s with owned := s.owned.filter (fun o => !(p.placed && p.rect.has (o.2 / 65536))) }

/-- The backing pages of an address space's windows (13 Table 6) read as zero to its next launch (13 R341): those mapped on a first
touch that still are. -/
def State.clearBacking (s : State) (asid : Nat) : State :=
  s.backing.foldl (fun s b =>
    if b.1 ≠ asid ∨ b.2 < 0x1E0000000000 then s
    else match s.walk s.bootField asid b.2 with
      | .leaf _ e level _ =>
        s.writeRange 64 (ppnOf e * 4096 + b.2 * 4096 % (4096 * 512 ^ level)) (List.replicate 4096 0) false
      | _ => s) s

/-- A logical core after its pitch: without tokens, matching entries, firings and the contents of its Big Top region (06 R170 step 2).
Its registers, its tiles and its counters stand. -/
def LCore.after (x : LCore) : LCore :=
  { x with trapRec := { a := none, b := none }, ms := [], ovf := [], frameHb := [], chanOvf := [], spill := [], spillLines := [],
           waitRing := [], mem := [], insts := [], sq := [], savedReady := [], ovfCut := 0, caught := none }

/-- The cores of a placed pitch keep what R170 does not discard. -/
def State.keepCores (s : State) (asid : Nat) (p : Pitch) : State :=
  if p.placed then
    p.lcores.foldl (fun s e =>
      { s with last := SMap.ins s.last (2 * e.2.core + e.2.host.half.toNat) { asid := asid, lc := e.1, core := e.2.after } }) (s.takeCores p)
  else s

/-- Discard what is left of a pitch (06 R170 step 2, R173): its tokens, entries, queues, jobs, meetings and mappings;
its clusters are free. -/
def State.dropPitch (s : State) (asid : Nat) (p : Pitch) : State :=
  let fr (e : Nat × List Firing) : Nat × List Firing := (e.1, e.2.filter (fun f => f.asid != asid))
  let ff (e : Nat × Field) : Nat × Field := (e.1, e.2.dropPitch asid)
  let s1 := if p.placed then (p.rect.clusters.foldl (fun s k => s.updCluster k (fun k => k.dropPitch asid)) ((s.keepCores asid p).freeLines p)).unmapPitch asid
    else s
  { s1 with
      pitches := SMap.del s1.pitches asid, ready := s1.ready.map fr, held := s1.held.map fr,
      flight := s1.flight.filter (fun g => g.tok.asid.toNat != asid), traps := s1.traps.filter (fun t => t.asid != asid),
      cmds := s1.cmds.filter (fun c => c.job.asid != asid), reqs := s1.reqs.filter (fun r => r.asid != asid),
      contribs := s1.contribs.filter (fun c => c.job.asid != asid), mfwd := s1.mfwd.filter (fun x => x.2.asid != asid),
      ring := s1.ring.filter (fun x => x.asid != asid), ringCredit := s1.ringCredit.filter (fun x => x.asid != asid),
      ringDead := s1.ringDead.filter (fun x => x.asid != asid), ringQ := s1.ringQ.filter (fun x => x.asid != asid),
      mapReqs := s1.mapReqs.filter (fun x => x.2.asid != asid),
      fields := s1.fields.map ff, waiting := s1.waiting.filter (fun w => !(w.saved && w.launch.asid == asid)),
      preemptReq := s1.preemptReq.filter (· ≠ asid), victims := s1.victims.filter (· ≠ asid) }

/-- END A LAUNCH (06 R170 to R174): its memory requests complete, the rest is discarded, its completion record is written,
its clusters are free, and the Booth scans. -/
def State.endLaunch (s : State) (asid : Nat) (e : EndRec) : State :=
  let s1 := s.flushPitch asid
  match s1.pitch? asid with
  | none => s1
  | some p =>
    (((s1.clearBacking asid).dropPitch asid p).writeCompletion p.launch e p.tAdmit p.preempts p.evWritten p.evDropped).boothScan

/-- Whether an engine holds a job of a pitch, or a command on its way to one (06 R170, R178). -/
def State.jobsOut (s : State) (asid : Nat) : Bool :=
  let is (j : EJob) : Bool := j.asid == asid && !isQuery j.opc
  s.cmds.any (fun c => is c.job) || s.clusters.any (fun k => k.2.mq.any is || k.2.cpq.any is) ||
    s.fields.any (fun f => f.2.mq.any is || f.2.mOut.any is) || s.mfwd.any (fun x => is x.2)

/-- Whether a member is a write that stands in chain order and is not acknowledged, or a LAUNCH not yet performed (06 R170). -/
def MemAcc.unacked (m : MemAcc) : Bool :=
  match m.kind with
  | .store => m.entered && !m.parts.all (fun p => p.stage == 4)
  | .launch => m.entered && !m.bound
  | .strmst => m.entered && !m.parts.all (fun p => p.stage == 4)
  | .atomic => m.entered && !m.bound
  | _ => false

/-- Whether a memory write of a pitch is unacknowledged. -/
def State.writesOut (s : State) (asid : Nat) (p : Pitch) : Bool :=
  s.reqs.any (fun r => r.asid == asid && (r.kind == .write || r.kind == .atomic)) ||
    p.lcores.any (fun e => !e.2.sq.isEmpty || e.2.mem.any MemAcc.unacked)

/-- Whether every configured SINK of a pitch has reported (09 R232). -/
def Pitch.sunk (p : Pitch) : Bool := !p.sinks.isEmpty && p.sinks.all (fun k => p.sinksDone.contains k)

/-- PITCH_COMPLETION (06 R170): every SINK has reported, and nothing is outstanding. -/
def execPitchCompletion (asid : Nat) (s : State) : Host.Outcome State Fault Refusal :=
  .next (match s.pitch? asid with
  | none => s
  | some p =>
    if p.st = .running ∧ p.sunk ∧ !s.jobsOut asid ∧ !s.writesOut asid p then s.endLaunch asid (EndRec.plain 1) else s)

/-- Whether a pitch has an outstanding engine job or a token on the mesh (06 R178). -/
def State.busyPitch (s : State) (asid : Nat) : Bool :=
  s.jobsOut asid || s.flight.any (fun g => g.mesh && g.tok.asid.toNat == asid)

/-- WATCHDOG (06 R178): an interval of WDOG µs with no firing, no outstanding job and no token on the mesh. `lastFiring` is the end
of the last tick with one of them. -/
def execWatchdog (asid : Nat) (s : State) : Host.Outcome State Fault Refusal :=
  .next (match s.pitch? asid with
  | none => s
  | some p =>
    let now := (s.field p.homeField).time.toNat
    if p.st = .running ∧ p.launch.wdog ≠ 0 ∧ p.lastFiring + 1000 * p.launch.wdog ≤ now ∧ !s.busyPitch asid then
      let r := s.endFree .watchdog
      r.2.endLaunch asid r.1
    else s)

/-- Whether a port's host owns the device (17 R407, R409). -/
def State.isOwner (s : State) (port : Nat) : Bool := s.owner.toNat == port + 1

/-- A write that R408 ignores is counted. -/
def State.deny (s : State) (port : Nat) : State := s.updPcie port (fun b => { b with denied := satInc b.denied })

/-- Cancel a launch (06 R173): one that waits leaves the waiting table; a running or saved pitch is discarded. -/
def State.cancel (s : State) (queue index : Nat) : State :=
  let is (l : Launch) : Bool := l.queue == queue && l.index == index
  match s.waiting.find? (fun w => !w.saved && is w.launch) with
  | some w =>
    ((s.unwait w.launch.age).reject w.launch (EndRec.plain 4)).boothScan
  | none =>
    match s.pitches.find? (fun p => is p.2.launch) with
    | some p => s.endLaunch p.1 (EndRec.plain 4)
    | none => s

/-- CANCEL (06 R173; 17 R408): each host cancels launches of its own port's queues, the owner any. -/
def execCancel (port queue index : Nat) (s : State) : Host.Outcome State Fault Refusal :=
  .next (if queue / 16 = port ∨ s.isOwner port then s.cancel queue index else s.deny port)

/-- Request pre-emption of a pitch (06 R179): a request for one that is halting or saved is merged. -/
def State.requestPreempt (s : State) (asid : Nat) : State :=
  match s.pitch? asid with
  | none => s
  | some p =>
    if p.st = .halting ∨ p.st = .saved ∨ s.preemptReq.contains asid then s
    else { s with preemptReq := s.preemptReq ++ [asid] }

/-- PREEMPT (06 R179; 17 R408): the owner's write of PREEMPT. -/
def execPreempt (port asid : Nat) (s : State) : Host.Outcome State Fault Refusal :=
  .next (if s.isOwner port then s.requestPreempt asid else s.deny port)

/-- Take the trap token at `k` off its way. -/
def State.dropTrap (s : State) (k : Nat) : State := { s with traps := listDrop s.traps k }

/-- The token of a trap token on VC7 for the trap handler (06 R174, R175). A token that a firing sent to the trap sink brings its
payload; R177 does not say that it brings its POISON or its EOS mark, and it brings neither (DESIGN CHOICE, log 97). -/
def TrapTok.token (t : TrapTok) (core node : Nat) : Token :=
  mkToken t.asid core node false 0 7 0
    { dest := .none, act := .pass, eos := none, poison := false, lanes := t.lanes, tag := t.tag, code := 0, hb := t.hb }

/-- A trap token at the core of its handler (06 R174, R181). -/
def State.handlerTrap (s : State) (k : Nat) (t : TrapTok) (p : Pitch) : State :=
  match p.trap with
  | none => s.dropTrap k
  | some (core, node) =>
    match s.lc? t.asid core with
    | none => s.dropTrap k
    | some x =>
      let tok := t.token core node
      if x.blocked then s
      else match p.st with
        | .loading => s
        | .running =>
          match (s.dropTrap k).admitTok t.asid core tok with
          | .done s1 => s1
          | .wait => s
          | .full cause => s.raiseOverflow t.asid core cause tok
        | _ =>
          if x.spillRoom tok then (s.dropTrap k).updLC t.asid core (fun x => x.spillTok (p.st == .saved) tok)
          else s.updLC t.asid core (fun x => x.noteFull tok)

/-- Double OVF_SIZE, at most to 256, on every logical core of a pitch, and set ENLARGED (06 R154). -/
def Pitch.enlarge (p : Pitch) : Pitch :=
  p.mapLC (fun _ x => { x with ovfSize := BitVec.ofNat 9 (Nat.min 256 (2 * x.ovfSize.toNat)), enlarged := true })

/-- An overflow trap at the region controller (06 R154): the pitch is pre-empted; when it is saved its Big Top regions are
enlarged, which absorbs the overflow traps that stand; one that cannot be enlarged ends. -/
def State.overflowTrap (s : State) (t : TrapTok) (p : Pitch) (x : LCore) : State :=
  if x.enlarged ∨ 256 ≤ x.ovfSize.toNat then s.endLaunch t.asid (EndRec.trap t)
  else match p.st with
    | .running => s.requestPreempt t.asid
    | .saved =>
      { s.setPitch t.asid p.enlarge with
          traps := s.traps.filter (fun u => !(u.asid == t.asid && !u.handler && (u.cause == Cause.matchOverflow || u.cause == Cause.channelOverflow))) }.boothScan
    | _ => s

/-- A trap token at the region controller (06 R174; R154, R159). -/
def State.regionTrap (s : State) (k : Nat) (t : TrapTok) (p : Pitch) : State :=
  match s.lc? t.asid t.lc with
  | none => s.dropTrap k
  | some x =>
    match t.cause with
    | .pageFault => s.dropTrap k
    | .matchOverflow => s.overflowTrap t p x
    | .channelOverflow => s.overflowTrap t p x
    | .tagStarved =>
      if p.reserveUsed then s.endLaunch t.asid (EndRec.trap t)
      else if p.st = .running then (s.dropTrap k).grantTags t.asid (tagColour t.tag) else s
    | .colourStarved =>
      if p.reserveUsed then s.endLaunch t.asid (EndRec.trap t)
      else if p.st = .running then (s.dropTrap k).grantColours t.asid else s
    | _ => s.endLaunch t.asid (EndRec.trap t)

/-- TRAP_TOKEN_RECEIPT (06 R174, R177): the trap token at `k`, the oldest of its source on its way to its receiver. -/
def execTrapTokenReceipt (k : Nat) (s : State) : Host.Outcome State Fault Refusal :=
  .next (match s.traps[k]? with
  | none => s
  | some t =>
    if (s.traps.take k).any (fun u => u.asid == t.asid && u.lc == t.lc && u.handler == t.handler) then s
    else match s.pitch? t.asid with
      | none => s.dropTrap k
      | some p => if t.handler then s.handlerTrap k t p else s.regionTrap k t p)

end Sys2Proof.Machine
end

