-- ==== Sys2Proof/Machine/Preempt.lean ====
section
/-! DEFINITION. Pre-emption and restore: the halt, the save, and the replay (06 R179 to R183; 01 R33, R35; 04 R111; 05
R131; 11 R294). While a pitch is saved, `lastFiring` holds the ticks since its last firing. -/
namespace Sys2Proof.Machine

/-- The field of a logical core. -/
def State.lcField (s : State) (asid lc : Nat) : Nat := match s.lc? asid lc with | some x => x.field | none => 0

/-- Move the tokens that wait at a network interface to the spill ring, in the order in which they arrived (06 R181). -/
def State.spillArrived (s : State) (asid lc : Nat) : List Flight → State
  | [] => s
  | g :: r =>
    match s.lc? asid lc with
    | none => s
    | some x =>
      if x.spillRoom g.tok then
        State.spillArrived ({ s with flight := s.flight.erase g }.updLC asid lc (fun x => (x.received g).spillTok false g.tok)) asid lc r
      else s.updLC asid lc (fun x => x.noteFull g.tok)

/-- The tokens that wait at a network interface, in the order in which they arrived. -/
def State.arrived (s : State) (asid lc : Nat) : List Flight :=
  (s.flight.filter (fun g => g.dst == .lcore asid lc && g.ni.isSome)).foldr insArrived []

/-- A run-ahead stream at a pre-emption: its tile returns to EMPTY, RA_CANCEL counts, and it stands as not yet issued, with nothing
fetched (01 R33). -/
def LCore.unissue (x : LCore) (m : MemAcc) : LCore :=
  let pointer (f : Cause × Nat) : Bool := f.2 == 0x54 || f.2 == 0x55 || f.2 == 0x58
  let blank (p : Part) : Part := { p with data := [], poison := false, stage := 0, fault := p.fault.filter pointer }
  match m.ra, m.strm with
  | .ahead, some t =>
    ((x.setTile t.tile .empty).updMem m.id (fun m => { m with ra := .halted, released := false, parts := m.parts.map blank })).count
      (fun k => { k with raCancel := satInc k.raCancel })
  | _, _ => x

/-- A logical core at the halt: run-ahead streams are not yet issued, and the tokens of its channel overflow are older than
those its spill ring will hold. -/
def LCore.halt (x : LCore) : LCore := { x.mem.foldl LCore.unissue x with ovfCut := x.chanOvf.length }

/-- The reads that a run-ahead stream had sent before it was put back are dropped. -/
def State.dropHalted (s : State) (asid : Nat) : State :=
  let gone (r : HReq) : Bool := r.asid == asid && r.kind == .read &&
    (match s.lc? r.asid r.lc with | some x => x.mem.any (fun m => m.id == r.id && m.ra == .halted) | none => false)
  { s with reqs := s.reqs.filter (fun r => !gone r) }

/-- Whether a firing in the wave buffer goes back to the head of the saved ready queue: it has not entered chain order (14 R352). A
.RA stream has sent its DSTB token when it issued, and may have been resolved: it stays in the saved wave buffer as not yet issued
(01 R33; 15 R380; DESIGN CHOICE, log 86). -/
def MemAcc.returns (m : MemAcc) : Bool := !m.entered && m.ra == .none

/-- A logical core without the firings of its wave buffer that have not entered chain order (14 R352). -/
def LCore.returnMem (x : LCore) : LCore :=
  { (x.mem.filter MemAcc.returns).foldl LCore.undoTile x with mem := x.mem.filter (fun m => !m.returns) }

/-- The firings that a logical core's wave buffer returns, with their numbers (14 R352). -/
def LCore.returned (x : LCore) : List (Nat × Firing) :=
  (x.mem.filter MemAcc.returns).map (fun m => (m.id, { m.fire with grant := .none, waits := false }))

/-- Whether a member keeps no save waiting (14 R352): it has not entered chain order, it is done but for a reply that an earlier
one must precede, or it waits for a run-ahead stream, directly or behind others. -/
def LCore.memRests (x : LCore) (m : MemAcc) : Bool :=
  !m.entered || m.ra == .halted || (m.kind == .strm && m.aux == 2 && !m.released) ||
    (!m.released && !(x.earlier m).all (fun e => e.lets m)) || (m.bound && !x.mayReply m)

/-- The walkers and meetings of a pitch at a field, frozen (06 R180; 11 R294): the timeouts of meetings stop. A walker's
time frozen counts (11 R298): until its restore, `waitSince` is in the boot field's TIME. -/
def Field.freeze (f : Field) (boot asid : Nat) : Field :=
  let now := f.time.toNat
  let fm (e : Nat × Meeting) : Nat × Meeting :=
    if e.2.asid = asid ∧ !e.2.frozen then (e.1, { e.2 with frozen := true, remaining := e.2.deadline - now }) else e
  let fw (e : Nat × Walker) : Nat × Walker :=
    if e.2.asid = asid ∧ !e.2.frozen then (e.1, { e.2 with frozen := true, waitSince := boot - (now - e.2.waitSince) }) else e
  { f with meet := f.meet.map fm, walkers := f.walkers.map fw }

/-- PREEMPTION_HALT (06 R179 to R181; 01 R30): no core of the pitch issues a further firing. A request that follows the
last SINK is dropped; one for a pitch with a rebind in progress waits. -/
def execPreemptionHalt (asid : Nat) (s : State) : Host.Outcome State Fault Refusal :=
  .next (match s.pitch? asid with
  | none => s
  | some p =>
    if !s.preemptReq.contains asid ∨ p.st ≠ .running ∨ p.lcores.any (fun e => e.2.blocked) then s
    else if p.sunk then { s with preemptReq := s.preemptReq.filter (· ≠ asid) }
    else
      let p1 := { p.mapLC (fun _ x => x.halt) with st := PState.halting }
      let ff (e : Nat × Field) : Nat × Field := (e.1, e.2.freeze s.bootTime.toNat asid)
      let s1 := State.dropHalted { s.setPitch asid p1 with fields := s.fields.map ff } asid
      p1.lcores.foldl (fun s e => s.spillArrived asid e.1 (s.arrived asid e.1)) s1)

/-- Whether a matrix job may be saved: it has not started, is an MMAJ that has finished the plane it was streaming, or a weight load
(05 R131; 04 R111). -/
def EJob.savable (j : EJob) : Bool := !j.started || (j.opc == 0x204 && j.stopped) || j.opc == 0x200 || j.opc == 0x201

/-- Whether a pitch has come to rest (06 R180 steps 3 and 4): accesses that have entered chain order have completed (14 R352), and
TFILL, TEVICT and TINV (15 R394). -/
def State.atRest (s : State) (asid : Nat) (p : Pitch) : Bool :=
  !s.reqs.any (fun r => r.asid == asid) && !s.cmds.any (fun c => c.job.asid == asid) &&
    !s.mapReqs.any (fun r => r.2.asid == asid) && p.lcores.all (fun e => e.2.sq.isEmpty && e.2.mem.all e.2.memRests) &&
    p.rect.clusters.all (fun k =>
      let c := s.cluster k
      c.mq.all EJob.savable && c.peeks.isEmpty && c.cpq.all (fun j => j.owns.isEmpty && (isCopyCmd j.opc.toNat || !j.started)))

/-- A matrix job as it is saved (05 R131; 04 R111): a started MMAJ with its next plane, any other as not yet granted; one that had
been granted is granted again first. -/
def EJob.unstart (j : EJob) : EJob :=
  if j.started ∧ j.opc = 0x204 then { j with stopped := false } else { j with granted := false, started := false, first := j.first || j.granted }

/-- Release the tiles that are held for the matrix jobs of a queue that have not started (05 R131). -/
def State.dropWaitingTiles (s : State) (q : List EJob) : State :=
  q.foldl (fun s j => if j.started ∧ j.opc = 0x204 then s else s.updLC j.asid j.lc (fun x => x.dropTiles j.view j.lc)) s

/-- Write one dirty line of a CB tile back, as TEVICT does (06 R182; 15 R393): none where its page has V = 0, unless `bad` says that
it cannot be resolved. -/
def State.evictLine (s : State) (asid lc : Nat) (fi : Nat) (bad : List Nat) (t : Tile) (slot : Nat) (l : CbLine) :
    Except Nat State :=
  let va := 512 * l.tag.toNat
  match s.translate fi asid va true (decide (72057594037927936 ≤ va)) false with
  | .error none => if bad.contains (va / 4096) then .ok (s.coreTrap asid lc .accessFault 0x59) else .error (va / 4096)
  | .error (some d) => .ok (s.coreTrap asid lc .accessFault d)
  | .ok (pa, _, s1) =>
    .ok ((List.range 8).foldl (fun s k =>
      s.writeLine (pa + 64 * k) (t.read (512 * slot + 64 * k) 64) (t.poisonIn (512 * slot + 64 * k) 64)) s1)

/-- Write back every dirty line of a pitch: the field and page of the first page with V = 0 that it meets. -/
def State.evictAll (s : State) (asid : Nat) (bad : List Nat) : List (Nat × Nat × Tile × Nat × CbLine) → Except (Nat × Nat) State
  | [] => .ok s
  | (lc, fi, t, slot, l) :: r =>
    match s.evictLine asid lc fi bad t slot l with
    | .error vpn => .error (fi, vpn)
    | .ok s1 => State.evictAll s1 asid bad r

/-- The firings of a queue with their places in it. -/
def placed (asid : Nat) (q : List Firing) : List (Nat × Firing) := ((q.filter (fun f => f.asid == asid)).zipIdx).map (fun e => (e.2, e.1))

/-- A logical core as it is saved (06 R182): its completed matches with their places in the queue `q` of its core, each cached
colour written to its copy area, and its CB tiles invalid. -/
def LCore.save (x : LCore) (lc : Nat) (q : List (Nat × Firing)) : LCore :=
  let x := x.returnMem
  let cb (t : Nat × Tile) : Nat × Tile :=
    (t.1, { t.2 with cb := t.2.cb.map (fun l => (l.1, { l.2 with v := false, d := false })) })
  { x with savedReady := q.filter (fun e => e.2.lc == lc), tiles := x.tiles.map (fun t => if t.2.role = .cb then cb t else t),
           copyArea := x.cache.foldl (fun m e => SMap.ins m e.colour e.regs) x.copyArea }

/-- Insert a firing by its number. -/
def insPlace (a : Nat × Firing) : List (Nat × Firing) → List (Nat × Firing)
  | [] => [a]
  | b :: r => if a.1 ≤ b.1 then a :: b :: r else b :: insPlace a r

/-- The queue of a core as a pitch saves it: the firings that its wave buffer returns, in their issue order, its ready queue, and the completed matches
behind it (06 R182; 14 R352). -/
def State.savedQueue (s : State) (asid core : Nat) (p : Pitch) : List (Nat × Firing) :=
  let back := ((p.lcores.filter (fun e => e.2.core == core)).flatMap (fun e => e.2.returned)).foldr insPlace []
  placed asid (back.map (·.2) ++ s.readyQ core ++ s.heldQ core)

/-- The commands and contributions of a pitch on their way between meeting units, in the order of their source: they are
saved at their local units (06 R182). -/
def State.meetFlying (s : State) (asid : Nat) : List EJob :=
  let js := (s.mfwd.map (·.2) ++ s.contribs.map (·.job)).filter (fun j => j.asid == asid)
  (List.range (js.length + 1)).flatMap (fun i => js.filter (fun j => j.prog == i))

/-- A matrix engine and copy unit as they are saved (04 R111; 05 R131). -/
def Cluster.save (k : Cluster) : Cluster := { k with mq := k.mq.map EJob.unstart, wsload := false, sca := [] }

/-- The entries of every field's list that belong to a pitch. -/
def State.fieldItems {α : Type} (s : State) (get : Field → List α) (mine : α → Bool) : List α :=
  s.fields.flatMap (fun f => (get f.2).filter mine)

/-- The weight tables of a pitch. -/
def State.tablesOf (s : State) (asid : Nat) (p : Pitch) : List WTab :=
  (s.fieldItems Field.wtab (fun t => t.2.valid && t.2.asid == asid)).map (·.2) ++ p.savedWt

/-- A pitch as it is saved (06 R182): its cores, engines and meetings, and the weight tables that the meetings combine with (01
R35). -/
def State.savedPitch (s : State) (asid : Nat) (p : Pitch) : Pitch :=
  let fly := s.meetFlying asid
  let saved (e : Nat × Nat) : Cluster := Cluster.save (s.cluster e.1)
  let mine (j : EJob) : Bool := j.asid == asid
  { p with
      lcores := (p.mapLC (fun i x => x.save i (s.savedQueue asid x.core p))).lcores
      savedClusters := p.rect.clusters.zipIdx.foldl (fun m e => SMap.ins m e.2 (saved e)) []
      savedMeet := (s.fieldItems Field.meet (fun e => e.2.asid == asid)).map Prod.snd
      savedWalk := (s.fieldItems Field.walkers (fun e => e.2.asid == asid)).map Prod.snd
      savedMq := fly.map (fun j => { j with prog := 0 }) ++ s.fieldItems Field.mq mine
      savedMOut := s.fieldItems Field.mOut (fun j => mine j && !fly.any (fun k => sameJob k j))
      savedWt := s.tablesOf asid p
      preempts := p.preempts + 1
      st := .saved
      lastFiring := (s.field p.homeField).time.toNat - p.lastFiring }

/-- The waiting-table entry of a saved pitch: its bypass count is 0 (06 R169). -/
def Pitch.waitEntry (p : Pitch) : Waiting := { launch := p.launch, count := 0, saved := true, obj := none }

/-- Save the state of a pitch that has come to rest; its clusters are free, and it waits (06 R182; 11 R294). -/
def State.savePitch (s : State) (asid : Nat) (p0 : Pitch) : State :=
  let s1 := p0.rect.clusters.foldl (fun s k => s.dropWaitingTiles (s.cluster k).mq) s
  match s1.pitch? asid with
  | none => s1
  | some p =>
    let fr (e : Nat × List Firing) : Nat × List Firing := (e.1, e.2.filter (fun f => f.asid != asid))
    let ff (e : Nat × Field) : Nat × Field := (e.1, e.2.dropPitch asid)
    let s2 := (p.rect.clusters.foldl (fun s k => s.updCluster k Cluster.startConfig) s1).unmapPitch asid
    let s3 := { s2 with
      ready := s2.ready.map fr, held := s2.held.map fr, fields := s2.fields.map ff,
      contribs := s2.contribs.filter (fun c => c.job.asid != asid), mfwd := s2.mfwd.filter (fun x => x.2.asid != asid),
      preemptReq := s2.preemptReq.filter (· ≠ asid), victims := s2.victims.filter (· ≠ asid),
      waiting := s2.waiting ++ [p.waitEntry] }
    (s3.setPitch asid (s1.savedPitch asid p)).boothScan

/-- PREEMPTION_SAVE (06 R180 to R182): once the pitch has come to rest, the dirty lines of its CB tiles are written back,
its state is saved, and it enters the waiting table. -/
def execPreemptionSave (asid : Nat) (s : State) : Host.Outcome State Fault Refusal :=
  .next (match s.pitch? asid with
  | none => s
  | some p =>
    if p.st ≠ .halting ∨ !s.atRest asid p then s
    else match s.settleCopies.evictAll asid p.badPages p.dirtyLines with
      | .error (fi, vpn) => s.missAt fi asid vpn (.meet fi (131072 + asid))
      | .ok s1 => s1.savePitch asid p)

/-- Put the state of a saved cluster onto the cluster that takes its place: the DRAM wafer's part stays (06 R182). -/
def Cluster.restore (old k : Cluster) : Cluster :=
  { k with tlb := old.tlb, desc := old.desc, banks := old.banks, cols := old.cols, linePz := old.linePz, eccPz := old.eccPz,
           unitPz := old.unitPz }

/-- Issue again a run-ahead stream that the pre-emption put back (01 R33). -/
def LCore.reissue (x : LCore) (m : MemAcc) : LCore :=
  match m.ra, m.strm with
  | .halted, some t => (x.setSpec t.tile).updMem m.id (fun m => { m with ra := .ahead })
  | _, _ => x

/-- Replay one token of a spill ring into the input path (06 R183): it follows the older tokens of its channel in the
channel overflow, and joins them where it cannot enter yet. -/
def State.replayTok (s : State) (asid lc : Nat) (t : Token) : State :=
  let older (s : State) : State :=
    s.updLC asid lc (fun x => { x with chanOvf := x.chanOvf.take x.ovfCut ++ [t] ++ x.chanOvf.drop x.ovfCut, ovfCut := x.ovfCut + 1 })
  match s.lc? asid lc with
  | none => s
  | some x =>
    if (x.chanOvf.take x.ovfCut).any (fun u => tokChan u == tokChan t) ∧ !x.discards asid t then older s
    else match s.admitTok asid lc t with
      | .done s1 => s1
      | _ => older s

/-- Replay the saved firings of some logical cores into their ready queues, in saved order (06 R183 step 2), and issue again what
their wave buffers had put back. -/
def State.replayReady (s : State) (asid : Nat) (lcs : List Nat) : State :=
  let all := (lcs.flatMap (fun lc => match s.lc? asid lc with | some x => x.savedReady | none => [])).foldr insPlace []
  let s1 := lcs.foldl (fun s lc =>
    s.updLC asid lc (fun x => { x.mem.foldl LCore.reissue x with savedReady := [] })) s
  all.foldl (fun s e => s.requeue e.2) s1

/-- Replay the spill ring of a logical core (06 R183 step 3; 15 R394), whose node store has been written anew (02 R58). -/
def State.replayRing (s : State) (asid lc : Nat) : State :=
  match s.lc? asid lc with
  | none => s
  | some x =>
    let s1 := s.updLC asid lc (fun x => x.spillLines.foldl LCore.takeLine { x with spill := [], spillLines := [] })
    (x.spill.foldl (fun s t => s.replayTok asid lc t) s1).updLC asid lc (fun x => { x with ovfCut := 0, nodeUe := [] })

/-- A restore raises CHANNEL_OVERFLOW about a token that neither ring had taken (06 R181). -/
def State.raiseCaught (s : State) (asid lc : Nat) : State :=
  match s.lc? asid lc with
  | none => s
  | some x =>
    match x.caught with
    | none => s
    | some t => (s.updLC asid lc (fun x => { x with caught := none })).raiseOverflow asid lc .channelOverflow t

/-- Replay what some logical cores saved: the ready firings of all, then the spill rings (06 R183). -/
def State.replay (s : State) (asid : Nat) (lcs : List Nat) : State :=
  lcs.foldl (fun s lc => s.raiseCaught asid lc) (lcs.foldl (fun s lc => s.replayRing asid lc) (s.replayReady asid lcs))

/-- The lowest free weight table of a field. -/
def Field.freeTable (f : Field) : Option Nat := (List.range 32).find? (fun i => !(SMap.get WTab.init f.wtab i).valid)

/-- A weight table of a restored pitch, in the lowest free table of a field that hosts a logical core of its group; where none of
them has one, the pitch keeps it, and it acts from there (01 R35; 11 R283; DESIGN CHOICE, log 53). -/
def State.putTable (s : State) (asid : Nat) (t : WTab) : State :=
  let fs : List Nat := match s.pitch? asid with
    | some p => (p.lcores.filter (fun (e : Nat × LCore) => e.2.wgrp == t.grp)).map (fun (e : Nat × LCore) => e.2.field)
    | none => []
  match fs.find? (fun i => (s.field i).freeTable.isSome) with
  | some i => s.updField i (fun f => match f.freeTable with | some n => { f with wtab := SMap.ins f.wtab n t } | none => f)
  | none => s.updPitch asid (fun p => { p with savedWt := p.savedWt ++ [t] })

/-- A meeting job at the unit of its logical core's field. -/
def State.rehomeJob (s : State) (j : EJob) : EJob := { j with aux := s.lcField j.asid j.lc }

/-- A walker in the lowest free number of a unit. -/
def Field.putWalker (f : Field) (w : Walker) : Field :=
  match (List.range 4096).find? (fun i => (SMap.find f.walkers i).isNone) with
  | some i => { f with walkers := SMap.ins f.walkers i w }
  | none => f

/-- Place the walkers and meeting jobs of a restored pitch at the units of their logical cores' fields. -/
def State.placeMeetJobs (s : State) (p : Pitch) : State :=
  let s1 := p.savedMq.foldl (fun s j => let k := s.rehomeJob j; s.updField k.aux (fun f => { f with mq := f.mq ++ [k] })) s
  let s2 := p.savedMOut.foldl (fun s j => let k := s.rehomeJob j; s.updField k.aux (fun f => { f with mOut := f.mOut ++ [k] })) s1
  p.savedWalk.foldl (fun s w =>
    let fi := s.lcField w.job.asid w.job.lc
    s.updField fi (fun f => f.putWalker { w with
      job := s.rehomeJob w.job, frozen := false, waitSince := f.time.toNat - (s.bootTime.toNat - w.waitSince) })) s2

/-- The frozen meetings of a pitch: field and entry. -/
def State.frozenOf (s : State) (asid : Nat) : List (Nat × Nat) :=
  s.fields.flatMap (fun f => (f.2.meet.filter (fun e => e.2.asid == asid && e.2.frozen)).map (fun e => (f.1, e.1)))

/-- A frozen meeting goes on (11 R294): its remaining timeout resumes, and the contributions that it held while frozen are
processed in arrival order. -/
def State.thaw (s : State) (fi e : Nat) : URes State :=
  match s.meeting? fi e with
  | none => .ok s
  | some m =>
    let cs (l : List Contrib) : List Contrib := l.map (fun c => { c with job := s.rehomeJob c.job })
    let m1 := { m with frozen := false, deadline := (s.field fi).time.toNat + m.remaining, remaining := 0, onTime := cs m.onTime,
                       late := cs m.late, ahead := cs m.ahead, waiting := [] }
    (cs m.waiting).foldl (fun r c => r.bind (fun s => s.contribute (m.held.length + 2) fi e true c)) (.ok (s.setMeeting fi e m1))

/-- Let every frozen meeting of a pitch go on; one whose accesses fault is removed (11 R284). A page with V = 0 stops there. -/
def State.thawAll (s : State) : List (Nat × Nat) → Except State State
  | [] => .ok s
  | (fi, e) :: r =>
    match s.thaw fi e with
    | .ok s1 => State.thawAll s1 r
    | .page va => .error (s.missAt fi (match s.meeting? fi e with | some m => m.asid | none => 0) (va / 4096) (.meet fi e))
    | .wait => .error s
    | .fault => State.thawAll (s.meetFault fi e) r

/-- PITCH_RESTORE (06 R183; 11 R294): the engines take the saved state, the meetings go on, and every core replays its ready
firings, and then every core its spill ring; then the pitch runs. -/
def execPitchRestore (asid : Nat) (s : State) : Host.Outcome State Fault Refusal :=
  .next (match s.pitch? asid with
  | none => s
  | some p =>
    if p.st ≠ .restoring then s
    else
      let s0 := (s.placeMeetJobs p).setPitch asid { p with savedWalk := [], savedMq := [], savedMOut := [], savedWt := [] }
      let s1 := p.savedWt.foldl (fun s t => s.putTable asid t) s0
      match s1.thawAll (s1.frozenOf asid) with
      | .error s2 => s2
      | .ok s2 =>
        let s3 := (p.rect.clusters.zipIdx).foldl (fun s e =>
          s.updCluster e.1 (fun old => old.restore (SMap.get Cluster.init p.savedClusters e.2))) s2
        let s4 := s3.replay asid (p.lcores.map (·.1))
        s4.updPitch asid (fun q =>
          { q with st := .running, savedClusters := [], lastFiring := (s4.field q.homeField).time.toNat - q.lastFiring }))

end Sys2Proof.Machine
end

