-- ==== Sys2Proof/Machine/Region.lean ====
section
/-! DEFINITION. The region controllers' repairs: retired cores and rebinds, the remap table, and the measurement of bands
and offsets (01 R8, R21; 10 R261 to R270, R277, R278; 13 R334; 16 R400; 17 R412). -/
namespace Sys2Proof.Machine

/-- Word 0 of a remap entry (10 Table 6): good copies, installed. -/
def remapWord (kind gen : Nat) : DWord := BitVec.ofNat 64 (kind + 4 + 8 + 65536 * (gen % 65536))

/-- GEN of a remap entry. -/
def Remap.gen (r : Remap) : Nat := r.w0.toNat / 65536 % 65536

/-- KIND of a remap entry. -/
def Remap.kind (r : Remap) : Nat := r.w0.toNat % 4

/-- The words of a remap entry. -/
def Remap.words (r : Remap) : List DWord := [r.w0, r.w1, r.w2, r.w3]

/-- The bits of words 1 to 3 that Table 7 lists for a kind (10 R265); the others are zero (00 R3). -/
def remapMask (kind i : Nat) : DWord :=
  match kind, i with
  | 0, 1 => 0x7FFFF
  | 0, 2 => 0x3FFFFFFFFFFF
  | 1, 1 => 0x7FFFF
  | 1, 2 => 0xFFFFFFFFFFFFFFFF
  | 2, 1 => 0x3FFFFF
  | 2, 2 => 0xFFFFFFFFFFFFFFFF
  | 3, 1 => 0x1FFFF
  | 3, 2 => 0xFFFFFFFF
  | _, _ => 0

/-- A remap entry with these words in its copies and in hardware; reserved bits are zero. -/
def mkRemap (w0 w1 w2 w3 : DWord) : Remap :=
  let k := w0.toNat % 4
  let ws := [w0, w1 &&& remapMask k 1, w2 &&& remapMask k 2, w3 &&& remapMask k 3]
  { w0 := w0, w1 := ws.getD 1 0, w2 := ws.getD 2 0, w3 := ws.getD 3 0, copies := [ws, ws, ws], installed := ws }

/-- A remap entry that is not in use, at a change of it. -/
def Remap.cleared (r : Remap) : Remap :=
  let ws : List DWord := [BitVec.ofNat 64 (65536 * ((r.gen + 1) % 65536)), 0, 0, 0]
  { Remap.init with w0 := ws.getD 0 0, copies := [ws, ws, ws] }

/-- An entry of a field's remap table. -/
def Field.remapAt (f : Field) (e : Nat) : Remap := SMap.get Remap.init f.remap e

/-- Replace a remap entry. -/
def State.setRemap (s : State) (f e : Nat) (r : Remap) : State := s.updField f (fun fd => { fd with remap := SMap.put Remap.init fd.remap e r })

/-- The lowest free entry of a field's remap table. -/
def Field.freeRemap (f : Field) : Option Nat := (List.range 256).find? (fun e => !(f.remapAt e).w0.getLsbD 2)

/-- Write an entry of a kind into the lowest free slot, or over the slot given (10 R269). GEN counts a change of the entry, and the
progress DONE of a rebuild is none: 19 Table 2 has a rebuilt bank at GEN 3 (DEDUCED, log 57). -/
def State.writeRemap (s : State) (f : Nat) (slot : Option Nat) (kind : Nat) (w1 w2 w3 : DWord) : State :=
  match slot with
  | none => s
  | some e =>
    let r := (s.field f).remapAt e
    let same := r.w0.getLsbD 2 && r.kind == 2 && kind == 2 && r.w1 == w1
    s.setRemap f e (mkRemap (remapWord kind (if same then r.gen else r.gen + 1)) w1 w2 w3)

/-- Whether field `f` lies on the x-then-y path between two fields (10 R278). -/
def onPath (a b f : Nat) : Bool :=
  (fieldY f == fieldY a && between (fieldX a) (fieldX b) (fieldX f)) || (fieldX f == fieldX b && between (fieldY a) (fieldY b) (fieldY f))

/-- Start the re-measurement of the bands that a change at field `f` bears on (10 R278). -/
def State.staleBands (s : State) (f : Nat) : State :=
  let mark (a : Nat) (e : Nat × Band) : Nat × Band := if e.2.valid ∧ onPath a e.1 f then (e.1, { e.2 with stale := true }) else e
  let ff (e : Nat × Field) : Nat × Field := (e.1, { e.2 with band := e.2.band.map (mark e.1) })
  { s with fields := s.fields.map ff }

/-- Write a host override of a logical core in its position's field: over the one in force, else the lowest free one
(10 R262, R263). -/
def State.setOvr (s : State) (p : Pitch) (asid lc : Nat) (w : DWord) : State :=
  s.updField (p.posField lc) (fun f =>
    match f.ovr.find? (fun e => e.2.getLsbD 0 && decide (e.2.toNat / 4 % 4096 = asid) && decide (e.2.toNat / 16384 % 131072 = lc)) with
    | some e => { f with ovr := SMap.put 0 f.ovr e.1 w }
    | none =>
      match (List.range 256).find? (fun i => !(SMap.get 0 f.ovr i).getLsbD 0) with
      | some i => { f with ovr := SMap.put 0 f.ovr i w }
      | none => f)

/-- Host overrides in use at a field. -/
def Field.ovrUsed (f : Field) : Nat := (f.ovr.filter (fun e => e.2.getLsbD 0)).length

/-- Insert by position. -/
def insPos (a : Nat × Nat) : List (Nat × Nat) → List (Nat × Nat)
  | [] => [a]
  | b :: r => if a.2 < b.2 then a :: b :: r else b :: insPos a r

/-- The new hosts of the logical cores that a retired core hosted, in ascending order of their dead positions (01 R18, R21):
logical core and host position; none where one has no host. -/
def newHosts (n : Nat) (dead : List Nat) : List (Nat × Nat) → List Nat → Option (List (Nat × Nat))
  | [], _ => some []
  | (lc, q) :: r, taken =>
    match firstHost n dead taken q with
    | none => none
    | some h => (newHosts n dead r (h :: taken)).map (fun l => (lc, h) :: l)

/-- How a pitch takes the retirement of a core: the new host positions of the logical cores it hosted, or none where the
pitch must be pre-empted (01 R21). The core is dead already. -/
def State.rebinds (s : State) (p : Pitch) (cx cy : Nat) : Option (List (Nat × Nat)) :=
  let r := p.rect
  let dead := s.deadAt r
  let xs := ((p.lcores.filter (fun e => e.2.at cx cy)).map (fun e => (e.1, r.position e.1))).foldr insPos []
  let halves := (List.range r.n).filter (fun q =>
    let c := r.coreAt q
    p.lcores.any (fun e => !e.2.at cx cy && ((e.2.host.half && e.2.at c.1 c.2) ||
      (match e.2.rebindTo with | some h => h.cx == c.1 && h.cy == c.2 | none => false))))
  match s.chainsOf r, newHosts r.n dead xs halves with
  | some _, some hs =>
    if hs.any (fun h => (p.image.coreCfg h.1).overHalf || (p.image.coreCfg (r.lcoreAt h.2)).overHalf) then none else some hs
  | _, _ => none

/-- The logical cores that stay, and whose computed host is now another: they are pinned to their present host (01 R21;
10 R263). -/
def State.pins (s : State) (p : Pitch) (asid cx cy : Nat) : List (Nat × LCore) :=
  let r := p.rect
  let ch := (s.chainsOf r).getD []
  p.lcores.filter (fun e =>
    let h := r.hostOf ch e.1
    !e.2.at cx cy && (h.cx != e.2.host.cx || h.cy != e.2.host.cy || h.half != e.2.host.half) &&
      ((s.field (p.posField e.1)).override asid e.1).isNone)

/-- Whether the meeting units of the fields that logical cores move to have entries for the meetings that they own (11 R294). -/
def State.meetRoomAt (s : State) (asid : Nat) (p : Pitch) (hs : List (Nat × Nat)) : Bool :=
  hs.all (fun h =>
    let c := p.rect.coreAt h.2
    let f := fieldOfCore c.1 c.2
    let owned (g lc : Nat) : Nat := ((s.field g).meet.filter (fun e => e.2.asid == asid && e.2.owner == lc)).length
    let need := (hs.map (fun k =>
      let d := p.rect.coreAt k.2
      if fieldOfCore d.1 d.2 = f ∧ s.lcField asid k.1 ≠ f then owned (s.lcField asid k.1) k.1 else 0)).foldl (· + ·) 0
    decide (need ≤ (s.field f).freeEntries.length))

/-- Block a logical core whose host is retired (10 R270 steps 1 and 2): its run-ahead streams stand as not yet issued, and
the tokens on their way to it go to its spill ring. -/
def State.blockCore (s : State) (asid : Nat) (p : Pitch) (lc pos : Nat) : State :=
  match SMap.find p.lcores lc with
  | none => s
  | some x =>
    let c := p.rect.coreAt pos
    let s1 := (s.updLC asid lc (fun x => { x.halt with rebindTo := some { cx := c.1, cy := c.2, half := true, doubled := true } })).dropHalted asid
    let s2 := s1.setOvr p asid lc (mkOvr asid lc x.host.cx x.host.cy x.host.half true)
    s2.spillArrived asid lc (s2.arrived asid lc ++ s2.flight.filter (fun g => g.dst == .lcore asid lc && g.ni.isNone))

/-- A pitch at the retirement of a core: its logical cores there are rebound, or it is pre-empted (01 R21; 10 R263, R270). -/
def State.retireIn (s : State) (cx cy asid : Nat) (p : Pitch) : State :=
  if !p.placed ∨ p.st = .halting ∨ !p.lcores.any (fun e => e.2.at cx cy) then s
  else
    let pins := s.pins p asid cx cy
    match s.rebinds p cx cy with
    | none => s.requestPreempt asid
    | some hs =>
      let need (f : Nat) : Nat := ((pins.map (·.1) ++ hs.map (·.1)).filter (fun lc =>
        p.posField lc == f && ((s.field f).override asid lc).isNone)).length
      if p.rect.fields.any (fun f => decide (256 < (s.field f).ovrUsed + need f)) ∨ !s.meetRoomAt asid p hs then s.requestPreempt asid
      else
        let s1 := pins.foldl (fun s e => s.setOvr p asid e.1 (mkOvr asid e.1 e.2.host.cx e.2.host.cy e.2.host.half false)) s
        hs.foldl (fun s h => s.blockCore asid p h.1 h.2) s1

/-- The logical core that a RETIRE entry names as bound, with its new host (10 Table 7): word 2. -/
def State.boundWord (s : State) (cx cy : Nat) : DWord :=
  match s.pitches.findSome? (fun p =>
    if !p.2.placed ∨ p.2.st = .halting then none
    else (p.2.lcores.find? (fun e => e.2.at cx cy)).bind (fun e =>
      ((s.rebinds p.2 cx cy).bind (fun hs => hs.find? (fun h => h.1 == e.1))).map (fun h => (p.1, h.1, p.2.rect.coreAt h.2)))) with
  | none => 0
  | some (asid, lc, c) => BitVec.ofNat 64 (1 + 2 * asid + 8192 * lc + 1073741824 * c.1 + 274877906944 * c.2)

/-- RETIRE A CORE (01 R21; 10 R265, R269): the entry is written and installed, the pitches that it hosted are rebound or
pre-empted, the bands are measured again, and the retirement is reported. -/
def State.retireCore (s : State) (cx cy cause : Nat) : State :=
  let f := fieldOfCore cx cy
  if s.deadCore cx cy ∨ 256 ≤ cx ∨ 256 ≤ cy then s
  else
    let slot := (s.field f).freeRemap
    let w1 : DWord := BitVec.ofNat 64 (cx + 256 * cy + 65536 * (cause % 8))
    let s1 := s.writeRemap f slot 0 w1 0 0
    let s2 := s.writeRemap f slot 0 w1 (s1.boundWord cx cy) 0
    if slot.isNone then s
    else ((s2.pitches.foldl (fun s p => s.retireIn cx cy p.1 p.2) s2).staleBands f).pushFree 4 f

/-- CORE_RETIREMENT (01 R21): CAUSE is 1 to 4 (10 Table 7). -/
def execCoreRetirement (cx cy cause : Nat) (s : State) : Host.Outcome State Fault Refusal :=
  .next (if 1 ≤ cause ∧ cause ≤ 4 then s.retireCore cx cy cause else s)

/-- Whether the outstanding memory and engine work of a logical core has completed (10 R270 step 2): accesses that have entered
chain order (14 R352), its jobs at the engines, and its commands at its meeting unit. Contributions that wait for a round move with
it (DESIGN CHOICE, log 53). -/
def State.coreQuiet (s : State) (asid lc : Nat) (x : LCore) : Bool :=
  let mine (j : EJob) : Bool := j.asid == asid && j.lc == lc
  let k := s.cluster x.cluster
  !s.reqs.any (fun r => r.asid == asid && r.lc == lc) && x.sq.isEmpty && x.mem.all x.memRests &&
    !(s.field x.field).mq.any mine && !s.cmds.any (fun c => mine c.job) &&
    !k.mq.any mine && !k.cpq.any mine && !k.peeks.any mine && !s.mapReqs.any (fun r => r.2.asid == asid && r.2.lc == lc)

/-- Walks without the accesses of a logical core, which miss again at their new host. -/
def Field.forget (f : Field) (asid lc : Nat) : Field :=
  let keep (m : Miss) : Bool := match m with | .access a l _ => !(a == asid && l == lc) | _ => true
  { f with walks := f.walks.map (fun w => { w with who := w.who.filter keep }), wqueue := f.wqueue.filter (fun q => keep q.2.2) }

/-- What the meeting unit of a logical core's field holds for it moves to that of its new field (10 R270; 11 R294): its
contributions and walkers, and the meetings that it owns. -/
def State.moveMeet (s : State) (asid lc old new : Nat) : State :=
  if old = new then s
  else
    let mine (j : EJob) : Bool := j.asid == asid && j.lc == lc
    let job (j : EJob) : EJob := if mine j then { j with aux := new } else j
    let home (j : EJob) (f : Nat) : Nat := if f = old ∧ j.asid = asid ∧ j.owner = lc then new else f
    let con (c : Contrib) : Contrib := { c with job := job c.job, field := home c.job c.field }
    let meet (m : Meeting) : Meeting :=
      { m with onTime := m.onTime.map con, late := m.late.map con, ahead := m.ahead.map con, waiting := m.waiting.map con }
    let f := s.field old
    let owned (e : Nat × Meeting) : Bool := e.2.asid == asid && e.2.owner == lc
    let ff (e : Nat × Field) : Nat × Field := (e.1, { e.2 with meet := e.2.meet.map (fun m => (m.1, meet m.2)) })
    let s1 := { s with contribs := s.contribs.map con, mfwd := s.mfwd.map (fun (x : Nat × EJob) => (home x.2 x.1, job x.2)), fields := s.fields.map ff }
    let gone (g : Field) : Field :=
      { g with mOut := g.mOut.filter (fun j => !mine j), walkers := g.walkers.filter (fun e => !mine e.2.job),
               meet := g.meet.filter (fun e => !owned e) }
    let s2 := s1.updField old gone
    let s3 := s2.updField new (fun g =>
      let g0 : Field := { g with mOut := g.mOut ++ (f.mOut.filter mine).map job }
      let ws := (f.walkers.filter (fun (e : Nat × Walker) => mine e.2.job)).map (fun e => { e.2 with job := job e.2.job })
      ws.foldl Field.putWalker g0)
    (f.meet.filter owned).foldl (fun s e =>
      match (s.field new).freeEntries with
      | i :: _ => s.setMeeting new i (meet e.2)
      | [] => s) s3

/-- The state of a logical core moves from its host to another (10 R270 steps 2 to 4): its firings and its spill ring are
replayed there, and the tokens held for it follow. -/
def State.moveCore (s : State) (asid lc : Nat) (p : Pitch) (x : LCore) (h : HostRef) : State :=
  let mine (f : Firing) : Bool := f.asid == asid && f.lc == lc
  let ready := s.savedQueue asid x.core p
  let ff (e : Nat × Field) : Nat × Field := (e.1, e.2.forget asid lc)
  let own := p.rect.lcoreAt ((List.range p.n).find? (fun q => p.rect.coreAt q == (h.cx, h.cy)) |>.getD 0)
  let s1 := { s with ready := SMap.ins s.ready x.core ((s.readyQ x.core).filter (fun f => !mine f)),
                     held := SMap.put [] s.held x.core ((s.heldQ x.core).filter (fun f => !mine f)), fields := s.fields.map ff }
  let s2 := s1.updLC asid own (fun y => y.rehost p.image own { y.host with doubled := true })
  let s3 := s2.updLC asid lc (fun x => (LCore.rehost { x.save lc ready with rebindTo := none } p.image lc h))
  ((s3.setOvr p asid lc (mkOvr asid lc h.cx h.cy h.half false)).moveMeet asid lc x.field (fieldOfCore h.cx h.cy)).replay asid [lc]

/-- REBIND_COMPLETE (10 R270): once the old host's work for the logical core has completed, it moves to its new host. -/
def execRebindComplete (asid lc : Nat) (s : State) : Host.Outcome State Fault Refusal :=
  .next (match s.pitch? asid, s.lc? asid lc with
  | some p, some x =>
    match x.rebindTo with
    | none => s
    | some h =>
      if p.st ≠ .running ∨ !s.coreQuiet asid lc x then s
      else match s.settleCopies.evictAll asid p.badPages (p.dirtyLines.filter (fun l => l.1 == lc)) with
        | .error (fi, vpn) => s.missAt fi asid vpn (.meet fi (131072 + asid))
        | .ok s1 => s1.moveCore asid lc p x h
  | _, _ => s)

/-- The clusters that a lost remap entry puts in quarantine (10 R268). -/
def Remap.clusters (r : Remap) : List Nat :=
  let w1 := r.w1.toNat
  let w2 := r.w2.toNat
  let k := clusterOfCore (w1 % 256) (w1 / 256 % 256)
  match r.kind with
  | 0 => if w2 % 2 = 1 then [k, clusterOfCore (w2 / 2 ^ 30 % 256) (w2 / 2 ^ 38 % 256)] else [k]
  | 1 => k :: (List.range (w1 / 65536 % 8)).map (fun i => clusterOfCore (w2 / 2 ^ (16 * i) % 256) (w2 / 2 ^ (16 * i + 8) % 256))
  | _ => [k]

/-- Put clusters in quarantine. -/
def State.quarantine (s : State) (ks : List Nat) : State :=
  ks.foldl (fun s k => s.updField (fieldOfCluster k) (fun f => { f with quar := addNat f.quar (clusterInField k) })) s

/-- The end of a pitch by REMAP_LOST (10 R268): WHERE is its lowest logical core in a quarantined cluster. No firing raised
it: NODE and TAG are free values (DESIGN CHOICE, log 13). -/
def State.remapLost (s : State) (e : Nat) (ks : List Nat) (asid : Nat) : State :=
  match s.pitch? asid with
  | none => s
  | some p =>
    let lc := ((p.lcores.find? (fun x => ks.contains x.2.cluster)).map (·.1)).getD 0
    let r := s.endFree .remapLost
    r.2.endLaunch asid { r.1 with cause := causeWord .remapLost e, place := lc }

/-- What a read of a held copy finds (10 R267): 0 its words as they stand, 1 the same once its ECC has corrected them, 2 other
words, which its ECC does not catch, and 3 that it cannot be read. -/
def foundCopy (held : List DWord) (c : CopyRead) : CopyRead := if c.state.toNat < 2 then { c with words := held } else c

/-- The value that two copies of an entry agree on (10 R267). -/
def copyMajority (r : CopyReads) : Option (List DWord) :=
  let ok (c : CopyRead) : Bool := c.state != 3
  if ok r.a ∧ ok r.b ∧ r.a.words = r.b.words then some r.a.words
  else if ok r.a ∧ ok r.c ∧ r.a.words = r.c.words then some r.a.words
  else if ok r.b ∧ ok r.c ∧ r.b.words = r.c.words then some r.b.words
  else none

/-- The state of a copy after a scrub (10 Table 6): as its ECC found it, or repaired by majority. -/
def copyRepaired (w : List DWord) (c : CopyRead) : Nat := if c.state = 3 ∨ c.words ≠ w then 2 else c.state.toNat % 2

/-- Word 0 with its copy states and REBUILD replaced; GEN counts a change of the entry, and reserved bits are zero (10 R264). -/
def withCopies (w0 : DWord) (a b c : Nat) (rebuild : Bool) : DWord :=
  let low := 1024 * rebuild.toNat + 256 * c + 64 * b + 16 * a + w0.toNat % 16
  let gen := w0.toNat / 65536 % 65536
  BitVec.ofNat 64 (65536 * (if low = w0.toNat % 65536 then gen else (gen + 1) % 65536) + low)

/-- The three copies of an entry as a read finds them; an entry that was never written holds its reset words. -/
def Remap.reads (r : Remap) (x : CopyReads) : CopyReads :=
  let h (i : Nat) : List DWord := r.copies.getD i r.words
  { a := foundCopy (h 0) x.a, b := foundCopy (h 1) x.b, c := foundCopy (h 2) x.c }

/-- The region controller reads the three copies of an entry (10 R267, R268): a copy that differs is rewritten from the two that
agree, and the installed copy from them; where no two agree, the clusters concerned are quarantined, and their pitches
end. -/
def State.scrubEntry (s : State) (field e : Nat) (reads : CopyReads) : State :=
  let r := (s.field field).remapAt e
  let x := r.reads reads
  match copyMajority x with
  | some w =>
    let w0 := withCopies (w.getD 0 0) (copyRepaired w x.a) (copyRepaired w x.b) (copyRepaired w x.c) (r.w0.getLsbD 10)
    let r1 := mkRemap w0 (w.getD 1 0) (w.getD 2 0) (w.getD 3 0)
    s.setRemap field e (if w0.getLsbD 3 then r1 else { r1 with installed := r.installed })
  | none =>
    let st (c : CopyRead) : Nat := c.state.toNat
    let ks := r.clusters
    let w0 := withCopies r.w0 (st x.a) (st x.b) (st x.c) true
    let s1 := (s.setRemap field e { r with w0 := w0, copies := [x.a.words, x.b.words, x.c.words] }).quarantine ks
    let hit (p : Nat × Pitch) : Bool := p.2.placed && p.2.rect.clusters.any (fun k => ks.contains k)
    ((s.pitches.filter hit).map (·.1)).foldl (fun s a => s.remapLost e ks a) s1

/-- REMAP_SCRUB (10 R267): a read of the copies of an entry, at a scrub or after a write. -/
def execRemapScrub (field e : Nat) (reads : CopyReads) (s : State) : Host.Outcome State Fault Refusal :=
  .next (if 256 ≤ e then s else s.scrubEntry field e reads)

/-- A read that finds every copy as it is held. -/
def CopyReads.held : CopyReads :=
  let h : CopyRead := { state := 0, words := [] }
  { a := h, b := h, c := h }

/-- The region controller of a field that joins reads every entry of its remap table (10 R267). -/
def State.scrubTable (s : State) (f : Nat) : State :=
  (s.field f).remap.foldl (fun s e => s.scrubEntry f e.1 CopyReads.held) s

/-- The clusters that entries of the remap tables keep in quarantine. -/
def State.rebuilding (s : State) : List Nat :=
  s.fields.flatMap (fun f => (f.2.remap.filter (fun e => e.2.w0.getLsbD 10)).flatMap (fun e => e.2.clusters))

/-- REMAP_REBUILD_COMPLETE (10 R268): the rebuilt entry is written to its three copies and installed, and the quarantine is
lifted. -/
def execRemapRebuildComplete (field e : Nat) (w : List DWord) (s : State) : Host.Outcome State Fault Refusal :=
  .next (
    let r := (s.field field).remapAt e
    if !r.w0.getLsbD 10 then s
    else
      let w0 := w.getD 0 0
      let r1 := if w0.getLsbD 2 then mkRemap (remapWord (w0.toNat % 4) (r.gen + 1)) (w.getD 1 0) (w.getD 2 0) (w.getD 3 0)
        else r.cleared
      let s1 := s.setRemap field e r1
      let still := s1.rebuilding
      let lift (s : State) (k : Nat) : State :=
        if still.contains k then s
        else s.updField (fieldOfCluster k) (fun f => { f with quar := f.quar.filter (· ≠ clusterInField k) })
      (r.clusters.foldl lift (if r.kind ≤ 1 then s1.staleBands field else s1)).boothScan)

/-- Whether the defect of a detour has ceased to matter (10 R269): no path between two endpoints enters its dead router. -/
def State.detourIdle (s : State) (d : Detour) : Bool := !s.endpoints.any (d.source s.endpoints)

/-- Retire the live cores whose traffic a detour cannot route (10 R266; CAUSE 2 is a DESIGN CHOICE, log 57). -/
def State.retireStuck (s : State) (stuck : Router → Bool) : State :=
  (s.liveCores.filter stuck).foldl (fun s c => s.retireCore c.1 c.2 2) s

/-- Install a DETOUR in a free entry of a field (10 R266): the cores whose traffic its legs cannot route are retired first, all that it
serves where the dependencies of the legs have a cycle; it is installed where it may stand with those that are. -/
def State.installDetour (s : State) (field e : Nat) (w1 w2 : DWord) : State :=
  let d := detourOf w1 w2
  let ds := d :: s.detours
  let s1 := s.retireStuck (d.stuck (ds.map (·.router)) s.endpoints)
  let s2 := if detoursFree ds s1.endpoints then s1 else s1.retireStuck (d.hasPath s1.endpoints)
  if !((s2.field field).remapAt e).w0.getLsbD 2 ∧ detoursOk ds s2.endpoints then
    (s2.writeRemap field (some e) 1 w1 w2 0).staleBands field
  else s2

/-- REMAP_ENTRY_WRITE (10 R266, R269): the region controller installs a DETOUR, or removes one that has ceased to matter.
The other kinds are written by the steps that make them. -/
def execRemapEntryWrite (field e : Nat) (w : List DWord) (s : State) : Host.Outcome State Fault Refusal :=
  .next (
    let r := (s.field field).remapAt e
    let w0 := w.getD 0 0
    let way := (w.getD 1 0).toNat / 65536 % 8
    if 256 ≤ e then s
    else if w0.getLsbD 2 ∧ w0.toNat % 4 = 1 ∧ !r.w0.getLsbD 2 then
      (if 1 ≤ way ∧ way ≤ 4 then s.installDetour field e (w.getD 1 0) (w.getD 2 0) else s)
    else if !w0.getLsbD 2 ∧ r.w0.getLsbD 2 ∧ r.kind = 1 ∧ s.detourIdle (detourOf r.w1 r.w2) then
      (s.setRemap field e r.cleared).staleBands field
    else s)

/-- The band of a largest round trip in nanoseconds (10 R278). -/
def bandOf (rtt : Nat) : BitVec 4 := BitVec.ofNat 4 (Nat.min 15 ((rtt + 1) / 2 / 25))

/-- BAND_MEASUREMENT (10 R277, R278): the entry of field `f` at another, from the largest round trips of the two classes. -/
def execBandMeasurement (field f rtt0 rtt1 : Nat) (s : State) : Host.Outcome State Fault Refusal :=
  .next (if field < 64 ∧ f < 64 ∧ (s.field field).joined ∧ (s.field f).joined then
    s.updField field (fun fd =>
      let b := SMap.get Band.init fd.band f
      { fd with band := SMap.ins fd.band f { band0 := bandOf rtt0, band1 := bandOf rtt1, valid := true, stale := false, gen := b.gen + 1 } })
  else s)

/-- An offset entry from one ping (16 R400). -/
def measured (t1 t2 t3 : Nat) : Offs :=
  { offset := BitVec.ofInt 48 ((t2 : Int) - ((t1 + t3) / 2 : Nat)), uncm := BitVec.ofNat 12 (Nat.min 4095 ((t3 - t1 + 1) / 2 + 1)),
    valid := true, tmeas := BitVec.ofNat 64 t3 }

/-- OFFSET_MEASUREMENT (16 R399, R400): the entry of another field from one ping: sent at own time `t1`, answered with TIME
`t2` there, back at own time `t3`, which is now. The TIME of the other field stood at `t2` between the two, drift of 100 ppm
included. -/
def execOffsetMeasurement (field f t1 t2 t3 : Nat) (s : State) : Host.Outcome State Fault Refusal :=
  .next (if field ≠ f ∧ f < 64 ∧ (s.field field).joined ∧ (s.field f).joined ∧ t1 ≤ t3 ∧ (s.field field).time.toNat = t3 ∧
      t2 ≤ (s.field f).time.toNat ∧ (s.field f).time.toNat ≤ t2 + (t3 - t1) + (t3 - t1 + 9999) / 10000 then
    s.updField field (fun fd => { fd with offs := SMap.ins fd.offs f (measured t1 t2 t3) })
  else s)

/-- The router that the link of a router in a direction leads to; sides are numbered as in 18 Table 1. -/
def linkTo (cx cy dir : Nat) : Router :=
  match dir % 4 with
  | 0 => (cx + 1, cy)
  | 1 => (cx, cy + 1)
  | 2 => (cx - 1, cy)
  | _ => (cx, cy - 1)

/-- Retire a link behind a detour (13 R334): round the router that it leads to, in the lowest free entry of that router's field
(DESIGN CHOICE, log 57). -/
def State.retireLink (s : State) (cx cy dir : Nat) : State :=
  let r := linkTo cx cy dir
  let field := fieldOfCore r.1 r.2
  match (s.field field).freeRemap with
  | some e =>
    if r.1 < 256 ∧ r.2 < 256 ∧ r ≠ (cx, cy) ∧ !s.detours.any (fun d => d.router == r) then
      let w := (Detour.words { router := r, way := wayRound r })
      s.installDetour field e w.1 w.2
    else s
  | none => s

/-- LINK_CRC_FAILURE (13 R334): the flit is resent in order, which changes nothing that an agent sees. The link of router (cx, cy)
in direction `dir` mod 4 counts its failures running: a `dir` of 4 or more says that a flit has passed since the last one. A link
that has failed 3 times running is retired behind a detour. -/
def execLinkCrcFailure (cx cy dir : Nat) (s : State) : Host.Outcome State Fault Refusal :=
  let link := 4 * coreInField cx cy + dir % 4
  let field := fieldOfCore cx cy
  let run := SMap.get 0 (s.field field).linkBad link
  let now := if run = 3 then 3 else if 4 ≤ dir then 1 else run + 1
  let s1 := s.updField field (fun f => { f with linkBad := SMap.ins f.linkBad link now })
  .next (if run = 2 ∧ now = 3 then s1.retireLink cx cy dir else s1)

/-- Retire a matrix engine (01 R8; 13 R334): its cluster is excluded, and a pitch on it is pre-empted for another rectangle
(01 R21). -/
def State.retireEngine (s : State) (k : Nat) : State :=
  let s1 := s.updField (fieldOfCluster k) (fun f => { f with mex := addNat f.mex (clusterInField k) })
  ((s1.pitches.filter (fun p => p.2.placed && p.2.rect.has k)).map (·.1)).foldl State.requestPreempt s1

/-- RESIDUE_CHECK_FAILURE (13 R334): the firing or job is reissued once, without effect; a second failure retires the core
or the matrix engine. -/
def execResidueCheckFailure (unit : ResidueUnit) (s : State) : Host.Outcome State Fault Refusal :=
  .next (match unit with
  | .core cx cy again => if again then s.retireCore cx cy 3 else s
  | .engine k again => if again ∧ k < 8192 then s.retireEngine k else s)

end Sys2Proof.Machine
end

