-- ==== Sys2Proof/Machine/DramOps.lean ====
section
/-! DEFINITION. The DRAM wafer's own steps: refresh, sensors, scrub, lost banks, columns and layers, rebuild (13 R325 to
R335; 16 R396; 17 R412). -/
namespace Sys2Proof.Machine

/-- Stripes of a bank (13 R321). -/
def stripes : Nat := 3968

/-- The refresh period in µs at a temperature in units of 0.125 °C (13 Table 3). -/
def refreshPeriod (t : Nat) : Nat :=
  let d := (t + 7) / 8
  if d ≤ 65 then 288 else if d ≤ 105 then 18 * 2 ^ ((105 - d) / 10) else 12

/-- REFRESH_OPERATION (13 R331): the next group of eight rows is refreshed; a forced refresh counts. -/
def execRefreshOperation (cluster col layer : Nat) (forced : Bool) (s : State) : Host.Outcome State Fault Refusal :=
  .next (s.updCluster cluster (fun k => k.updBank col layer (fun b =>
    { b with group := (b.group + 1) % 1024, refpress := if forced then satInc b.refpress else b.refpress })))

/-- The hottest bank of a layer of a field (17 Table 7). -/
def State.layerTemp (s : State) (f l : Nat) : Nat :=
  s.clusters.foldl (fun m k =>
    if fieldOfCluster k.1 = f then (List.range 8).foldl (fun m c => Nat.max m (k.2.bank c l).temp) m else m) 0

/-- BANK_SENSOR_READ (13 R330; 17 Table 7): a bank's temperature in units of 0.125 °C sets its refresh period, and TL of
its layer. Where the field runs at boot variant 3, the period is half (17 R413, R414). -/
def execBankSensorRead (cluster col layer temp : Nat) (s : State) : Host.Outcome State Fault Refusal :=
  let f := fieldOfCluster cluster
  let slow := (s.field f).slowDram
  let s1 := s.updCluster cluster (fun k => k.updBank col layer (fun b => { b with temp := temp, period := refreshPeriod temp / (if slow then 2 else 1) }))
  .next (s1.updField f (fun fd => { fd with tl := SMap.put 0 fd.tl layer (BitVec.ofNat 12 (s1.layerTemp f layer)) }))

/-- The physical address of a data unit, where its region is assigned (13 R322). -/
def Cluster.paOf (x : Cluster) (k c l q : Nat) : Option Nat :=
  let t := 8 * q + l
  let d := x.descAt (t / 64)
  let div := d.div.toNat
  if d.frozen then
    ((List.range div).find? (fun j => decide (d.colmap.toNat / 8 ^ j % 8 = c))).map (fun j =>
      1073741824 * k + 2097152 * (t / 64) + 4096 * (t % 64 * div + j))
  else none

/-- Zero a range of stored bytes: bytes that an error made unreadable read as zero (13 R335). -/
def State.zeroRaw (s : State) (lo n : Nat) : State :=
  { s with mem := s.mem.filter (fun e => !(decide (lo ≤ e.1) && decide (e.1 < lo + n))) }

/-- Add a number to intervals that are built in ascending order. -/
def addIv (q : Nat) (l : List (Nat × Nat)) : List (Nat × Nat) :=
  match l with
  | (lo, hi) :: r => if hi = q then (lo, q + 1) :: r else (q, q + 1) :: (lo, hi) :: r
  | [] => [(q, q + 1)]

/-- Note that LP serves a layer for one more stripe. -/
def addServe (m q : Nat) (l : List (Nat × Nat × Nat)) : List (Nat × Nat × Nat) :=
  match l with
  | (a, lo, hi) :: r => if a = m ∧ hi = q then (a, lo, q + 1) :: r else (m, q, q + 1) :: (a, lo, hi) :: r
  | [] => [(m, q, q + 1)]

/-- A data unit is lost (13 R328): it is poisoned, and its bytes read as zero. -/
def State.loseUnit (s : State) (k c l q : Nat) : State :=
  let x := s.cluster k
  let s1 := (s.zeroRaw (x.unitLoc k c l q) 4096).updCluster k (fun x =>
    { x.updBank c l (fun b => { b with lost := addIv q b.lost }) with unitPz := addNat x.unitPz (unitKey c l q) })
  s1.reportPoison k (x.paOf k c l q) 4096

/-- The parity unit of a stripe has been written whole: no line of it is one that the ECC could not read (13 R335). -/
def Cluster.cleanLp (x : Cluster) (k c q : Nat) : Cluster :=
  let gone (e : Nat) : Bool := decide (locKey k c 8 q 0 / 64 ≤ e) && decide (e < locKey k c 8 q 0 / 64 + 64)
  { x with linePz := x.linePz.filter (fun e => !gone e), eccPz := x.eccPz.filter (fun e => !gone e) }

/-- Store a whole unit at a place. -/
def State.setUnit (s : State) (loc : Nat) (f : Nat → Byte) : State :=
  (List.range 4096).foldl (fun s b => s.setRaw (loc + b) (f b)) s

/-- Another data bank of a column whose unit of stripe `q` is missing. -/
def Cluster.otherMissing (x : Cluster) (c l q : Nat) : Option Nat :=
  (List.range 8).find? (fun m => m != l && !x.usable c m q)

/-- What the loss of a bank does to stripe `q` (13 R326, R328): a data unit can be reconstructed while no other is missing;
else the missing one moves into LP, and the unit is lost. With LP, what LP alone could give is lost. -/
def State.loseStripe (s : State) (k c l q : Nat) : State :=
  let x := s.cluster k
  if !x.usable c l q then s
  else match x.otherMissing c l q with
    | none => if l = 8 ∨ x.lpParity c q then s else s.loseUnit k c l q
    | some m =>
      if l = 8 then s.loseUnit k c m q
      else
        let s1 := if x.lpParity c q then
            (s.setUnit (x.unitLoc k c 8 q) (fun b => s.reconstruct x k c m q b)).updCluster k (fun x =>
              x.updCol c (fun y => { y with lpServes := addServe m q y.lpServes }))
          else s
        s1.loseUnit k c l q

/-- The core over a bank column (13 R321). -/
def columnCore (k c : Nat) : Nat × Nat := (2 * (k % 128) + c % 2, 4 * (k / 128) + c / 2)

/-- The slot of the remap entry of a bank or column: the one in use, else a free one. -/
def State.remapSlot (s : State) (f kind w1 : Nat) : Option Nat :=
  match (s.field f).remap.find? (fun e => e.2.w0.getLsbD 2 && e.2.kind == kind && decide (e.2.w1.toNat % 1048576 = w1 % 1048576)) with
  | some e => some e.1
  | none => (s.field f).freeRemap

/-- Write the BANKSUB entry of a bank (10 Table 7). -/
def State.noteBank (s : State) (k c l : Nat) : State :=
  let b := (s.cluster k).bank c l
  let p := columnCore k c
  let st : Nat := match b.st with | .rebuilding => 1 | .substituted => 2 | _ => 0
  let w := p.1 + 256 * p.2 + 65536 * l
  s.writeRemap (fieldOfCluster k) (s.remapSlot (fieldOfCluster k) 2 w) 2 (BitVec.ofNat 64 (w + 1048576 * st))
    (BitVec.ofNat 64 (b.spare + 4294967296 * b.done)) 0

/-- BANK_LOSS (13 R327, R328): the bank is DEGRADED; `spare` is the spare index at which its substitution will begin. -/
def execBankLoss (cluster col layer spare : Nat) (s : State) : Host.Outcome State Fault Refusal :=
  .next (if ((s.cluster cluster).bank col layer).st ≠ .healthy ∨ 8 < layer ∨ 8 ≤ col then s
  else
    let s1 := (List.range stripes).foldl (fun s q => s.loseStripe cluster col layer q) s
    let s2 := s1.updCluster cluster (fun k => k.updBank col layer (fun b => { b with st := .degraded, spare := spare, done := 0 }))
    (s2.noteBank cluster col layer).reportState 2 (fieldOfCluster cluster) 0)

/-- The exclusive OR of the data units of a stripe. -/
def State.parityOf (s : State) (k c q b : Nat) : Byte :=
  (List.range 8).foldl (fun a m => a ^^^ s.dramByte k c m q b) 0

/-- Whether a bank works or is substituted. -/
def Bank.whole (b : Bank) : Bool := (b.st == .healthy && !b.down) || b.st == .substituted

/-- Compute the parity unit of a stripe at a place (13 R321). -/
def State.setParity (s : State) (k c q loc : Nat) : State :=
  (s.setUnit loc (fun b => s.parityOf k c q b)).updCluster k (fun x => x.cleanLp k c q)

/-- A column whose data banks all work or are substituted holds parity again for every stripe (13 R328, R333). -/
def State.settleColumn (s : State) (k c : Nat) : State :=
  let x := s.cluster k
  if (List.range 8).all (fun l => (x.bank c l).whole) then
    let s1 := ((List.range stripes).filter (x.lpTaken c)).foldl (fun s q =>
      if x.usable c 8 q then s.setParity k c q (x.unitLoc k c 8 q) else s) s
    s1.updCluster k (fun x => x.updCol c (fun y => { y with lpServes := [] }))
  else s

/-- Banks of a cluster that are being or have been substituted. -/
def Cluster.substitutes (x : Cluster) : Nat := (x.banks.filter (fun b => b.2.st == .rebuilding || b.2.st == .substituted)).length

/-- The banks (8c + l) whose spare units a substitution passes over (13 R327). -/
def Cluster.lostBanks (x : Cluster) : List Nat :=
  (x.banks.filter (fun b => b.2.st != .healthy && decide (b.1 % 16 < 8))).map (fun b => 8 * (b.1 / 16) + b.1 % 16)

/-- Rebuild one stripe of a bank into its spare unit (13 R327). -/
def State.rebuildOne (s : State) (k c l : Nat) : State :=
  let x := s.cluster k
  let b := x.bank c l
  match spareFrom b.skip 64 b.spare b.done with
  | none => s
  | some (c', l', u) =>
    let loc := locKey k c' l' u 0
    let s1 := if l = 8 then s.setParity k c b.done loc else s.setUnit loc (fun i => s.dramByte k c l b.done i)
    let last := b.done + 1 = stripes
    let s2 := s1.updCluster k (fun x => x.updBank c l (fun b =>
      { b with done := b.done + 1, st := if last then .substituted else .rebuilding, lost := if last then [] else b.lost }))
    let s3 := s2.noteBank k c l
    if last then (s3.settleColumn k c).reportState 2 (fieldOfCluster k) 2 else s3

/-- REBUILD_STRIPE (13 R327): the next stripe of a lost bank; the first of them passes the bank to REBUILDING, unless two
banks of the cluster hold its spare units already. -/
def execRebuildStripe (cluster col layer : Nat) (s : State) : Host.Outcome State Fault Refusal :=
  let x := s.cluster cluster
  .next (match (x.bank col layer).st with
  | .rebuilding => s.rebuildOne cluster col layer
  | .degraded =>
    if 2 ≤ x.substitutes then s
    else
      let s1 := s.updCluster cluster (fun x => x.updBank col layer (fun b => { b with st := .rebuilding, skip := x.lostBanks, done := 0 }))
      (s1.reportState 2 (fieldOfCluster cluster) 1).rebuildOne cluster col layer
  | _ => s)

/-- A column is lost (13 R329): the units that frozen regions map to it are poisoned and counted. With its controller its LP
units are lost too: whole stripes read zero, and LP is still their exclusive OR (13 R321). -/
def State.loseColumn (s : State) (k c : Nat) : State :=
  let x := s.cluster k
  if (x.col c).lost then s
  else
    let used (g : Nat) : Bool :=
      let d := x.descAt g
      d.frozen && (List.range d.div.toNat).any (fun j => decide (d.colmap.toNat / 8 ^ j % 8 = c))
    let units := ((List.range 496).filter used).flatMap (fun g => (List.range 64).map (fun i => ((64 * g + i) % 8, (64 * g + i) / 8)))
    let s1 := units.foldl (fun s u => (s.zeroRaw (x.unitLoc k c u.1 u.2) 4096).updCluster k (fun x =>
      { x with unitPz := addNat x.unitPz (unitKey c u.1 u.2) })) s
    let s1 := units.foldl (fun s u => s.zeroRaw (x.unitLoc k c 8 u.2) 4096) s1
    let s2 := s1.updCluster k (fun x => x.updCol c (fun y => { y with lost := true }))
    let p := columnCore k c
    let w := p.1 + 256 * p.2 + 65536
    let s3 := s2.writeRemap (fieldOfCluster k) (s2.remapSlot (fieldOfCluster k) 3 w) 3 (BitVec.ofNat 64 w) (BitVec.ofNat 64 units.length) 0
    units.foldl (fun s u => s.reportPoison k (x.paOf k c u.1 u.2) 4096) s3

/-- COLUMN_LOSS (13 R329): the column's DRAM controller has failed. -/
def execColumnLoss (cluster col : Nat) (s : State) : Host.Outcome State Fault Refusal :=
  .next (if col < 8 then s.loseColumn cluster col else s)

/-- VERTICAL_BUS_FAILURE (13 R325): the bus of a column, or with `own` false that of its partner, fails; the traffic moves to
the other bus, and a column that both buses have left is lost. -/
def execVerticalBusFailure (cluster col : Nat) (own : Bool) (s : State) : Host.Outcome State Fault Refusal :=
  let c := if own then col else col ^^^ 1
  let d := c ^^^ 1
  let s1 := s.updCluster cluster (fun k => (k.updCol c (fun y => { y with busOwn := false })).updCol d (fun y => { y with busPartner := false }))
  let gone (s : State) (c : Nat) : State :=
    let y := (s.cluster cluster).col c
    if !y.busOwn ∧ !y.busPartner then s.loseColumn cluster c else s
  .next (if col < 8 then gone (gone s1 c) d else s)

/-- Whether a bank of a layer of a cluster stands at the shutdown threshold, 110 °C, in units of 0.125 °C (17 R421). -/
def Cluster.layerHot (x : Cluster) (layer : Nat) : Bool := (List.range 8).any (fun c => decide (880 ≤ (x.bank c layer).temp))

/-- LAYER_SHUTDOWN (13 R332, R333; 17 R421): a layer of a cluster that reaches 110 °C shuts down: its banks are degraded until it
restarts. -/
def execLayerShutdown (cluster layer : Nat) (s : State) : Host.Outcome State Fault Refusal :=
  .next (if 8 < layer ∨ ((s.cluster cluster).bank 0 layer).down ∨ !(s.cluster cluster).layerHot layer then s
  else
    let s1 := (List.range 8).foldl (fun s c =>
      let s1 := if ((s.cluster cluster).bank c layer).st = .healthy then
          (List.range stripes).foldl (fun s q => s.loseStripe cluster c layer q) s
        else s
      s1.updCluster cluster (fun k => k.updBank c layer (fun b => { b with down := true }))) s
    s1.reportState 3 (fieldOfCluster cluster) layer)

/-- A bank of a restarted layer: its units are written back in ascending order, or for LP its parity is computed again
(13 R332). -/
def State.writeBack (s : State) (k c l : Nat) : State :=
  let x := s.cluster k
  if (x.bank c l).st ≠ .healthy then s
  else (List.range stripes).foldl (fun s q =>
    if l = 8 then (if x.lpTaken c q then s else s.setParity k c q (locKey k c 8 q 0))
    else if x.usable c l q then s
    else s.setUnit (locKey k c l q 0) (fun b => s.dramByte k c l q b)) s

/-- LAYER_RESTART (13 R332, R333): the layer's stripes are written back, and it serves again. -/
def execLayerRestart (cluster layer : Nat) (s : State) : Host.Outcome State Fault Refusal :=
  .next (if 8 < layer ∨ !((s.cluster cluster).bank 0 layer).down then s
  else
    let s1 := (List.range 8).foldl (fun s c =>
      ((s.writeBack cluster c layer).updCluster cluster (fun k => k.updBank c layer (fun b =>
        { b with down := false, lost := if b.st = .healthy then [] else b.lost }))).settleColumn cluster c) s
    s1.reportState 3 (fieldOfCluster cluster) layer)

/-- The data or parity unit that a place of a bank holds: column, layer and unit; a spare unit holds that of a substituted
bank (13 R327). -/
def Cluster.unitAt (x : Cluster) (c l u : Nat) : Option (Nat × Nat × Nat) :=
  if u < stripes then some (c, l, u)
  else x.banks.findSome? (fun e =>
    let b := e.2
    let n := match b.st with | .substituted => stripes | .rebuilding => b.done | _ => 0
    ((List.range n).find? (fun q => spareFrom b.skip 64 b.spare q == some (c, l, u))).map (fun q => (e.1 / 16, e.1 % 16, q)))

/-- PATROL_SCRUB (13 R334, R335; 16 R396): a 64-byte line of a bank is read: a corrected error is written back; a line that
cannot be corrected is poisoned, its bytes read as zero, and it is reported. The parity of its stripe follows (13 R321); a line of
LP is computed again. An error that another read of the line meets is this step, taken just before that read. -/
def execPatrolScrub (cluster col layer line : Nat) (e : EccResult) (s : State) : Host.Outcome State Fault Refusal :=
  .next (match e with
  | .clean => s
  | .corrected => s.updCluster cluster (fun k => k.updBank col layer (fun b => { b with ce := satInc b.ce }))
  | .uncorrectable =>
    let s1 := s.updCluster cluster (fun k => k.updBank col layer (fun b => { b with ue := satInc b.ue }))
    match (s.cluster cluster).unitAt col layer (line / 64) with
    | none => s1.zeroRaw (locKey cluster col layer (line / 64) (64 * (line % 64))) 64
    | some (c, l, q) =>
      let key := locKey cluster c l q (64 * (line % 64)) / 64
      let zeroed := if l = 8 then s1
        else (List.range 64).foldl (fun s i => s.setDramByte cluster c l q (64 * (line % 64) + i) 0) s1
      let s2 := zeroed.updCluster cluster (fun k => { k with linePz := addNat k.linePz key, eccPz := addNat k.eccPz key })
      if l = 8 then s2
      else s2.reportPoison cluster (((s.cluster cluster).paOf cluster c l q).map (· + 64 * (line % 64))) 64)

end Sys2Proof.Machine
end

