-- ==== Sys2Proof/Machine/Thermal.lean ====
section
/-! DEFINITION. Clocks and heat of a field: throttling, the hold, and CLKSET (17 R421 to R423; 01 R7). -/
namespace Sys2Proof.Machine

/-- Fire an interrupt vector of PF0 on both ports (17 Table 1). -/
def State.firePf0 (s : State) (vec : Nat) : State :=
  let on (b : PcieBlk) : PcieBlk := { b with fired := b.fired ++ [(0, vec)] }
  (s.updPcie 0 on).updPcie 1 on

/-- A change of throttle state is reported as THROTTLE, with the threshold in °C (DESIGN CHOICE, log 63: R412 names no unit) and the
thermal vector (17 R412, R422, Table 1). -/
def State.reportThrottle (s : State) (field threshold : Nat) : State := (s.reportState 5 field threshold).firePf0 3

/-- Report each change between two throttle states of a field (17 R412, R422): of the junction, the layers and the hold with the
threshold passed; of the power limit, which is no temperature, with a detail that is a free value (DESIGN CHOICE, log 63). -/
def State.reportChanges (s : State) (field : Nat) (a b : Field) : State :=
  let rep (old new : Bool) (on off : Nat) (s : State) : State :=
    if old = new then s else s.reportThrottle field (if new then on else off)
  let s1 := rep a.jthrot b.jthrot b.jth.toNat (b.jth.toNat - 5) s
  let s2 := rep a.hold b.hold 105 95 (rep a.lthrot b.lthrot b.lth.toNat 95 s1)
  if a.powerThrot = b.powerThrot then s2 else (s2.pushFree 5 field).firePf0 3

/-- Put a code in force as the field's clock (01 R7): a change starts the re-measurement of the bands (10 R278). -/
def State.setCur (s : State) (field : Nat) (code : BitVec 6) : State :=
  if (s.field field).cur = code then s
  else (s.updField field (fun f => { f with cur := code })).staleBands field

/-- Whether the junction is at its throttle threshold (17 Table 6); temperatures are in units of 0.125 °C. -/
def Field.jHot (f : Field) : Bool := decide (8 * f.jth.toNat ≤ f.tj.toNat)

/-- Whether a layer is at its throttle threshold. -/
def Field.lHot (f : Field) : Bool := (List.range 9).any (fun l => decide (8 * f.lth.toNat ≤ (SMap.get 0 f.tl l).toNat))

/-- Whether the junction is 5 K below its threshold and every layer is at 95 °C or below (17 R422). -/
def Field.cool (f : Field) : Bool :=
  decide (f.tj.toNat + 40 ≤ 8 * f.jth.toNat) && (List.range 9).all (fun l => decide ((SMap.get 0 f.tl l).toNat ≤ 760))

/-- Pre-empt every pitch with a cluster in a field (17 R422). -/
def State.preemptField (s : State) (field : Nat) : State :=
  ((s.pitches.filter (fun p => p.2.placed && p.2.rect.fields.contains field)).map (·.1)).foldl State.requestPreempt s

/-- THROTTLE_STEP (17 R422): every 100 µs a field over a threshold, or every field while the rails draw too much
(`power`), is lowered by 4 codes; one at 105 °C with CUR at 0 is held, and its pitches are pre-empted. -/
def execThrottleStep (field : Nat) (power : Bool) (s : State) : Host.Outcome State Fault Refusal :=
  let f := s.field field
  let g := { f with jthrot := f.jthrot || f.jHot, lthrot := f.lthrot || f.lHot, powerThrot := power,
                    hold := f.hold || (f.cur == 0 && decide (840 ≤ f.tj.toNat)) }
  let s1 := s.setField field g
  let s2 := s1.reportChanges field f g
  let s3 := if f.jHot ∨ f.lHot ∨ power then s2.setCur field (BitVec.ofNat 6 (f.cur.toNat - 4)) else s2
  .next (if g.hold ∧ !f.hold then s3.preemptField field else s3)

/-- THROTTLE_RECOVERY (17 R422): every 1 ms a field that is cool, and neither held nor lowered for power, rises by 4 codes
up to CLKSET. -/
def execThrottleRecovery (field : Nat) (s : State) : Host.Outcome State Fault Refusal :=
  let f := s.field field
  .next (if !f.cool ∨ f.hold ∨ f.powerThrot then s
  else
    let g : Field := { f with jthrot := false, lthrot := false }
    ((s.setField field g).reportChanges field f g).setCur field (BitVec.ofNat 6 (Nat.min f.clkset.toNat (f.cur.toNat + 4))))

/-- HOLD_CLEAR (17 R422): TJ has stayed at or below 95 °C for 1 ms of the field's TIME: the hold ends, and the Ticket Booth admits to
the field again. -/
def execHoldClear (field : Nat) (s : State) : Host.Outcome State Fault Refusal :=
  let f := s.field field
  let g : Field := { f with hold := false }
  .next (if f.hold ∧ f.tj.toNat ≤ 760 ∧ f.tjSince + 1000000 ≤ f.time.toNat then
    ((s.setField field g).reportChanges field f g).boothScan
  else s)

/-- Write CLKSET (17 R422, R423): a code above 44 is ignored; a lower one lowers CUR. -/
def State.setClk (s : State) (field code : Nat) : State :=
  if 44 < code then s
  else
    let c := BitVec.ofNat 6 code
    let s1 := s.updField field (fun f => { f with clkset := c })
    if code < (s.field field).cur.toNat then s1.setCur field c else s1

/-- CLKSET_WRITE (17 R408, R422, R423): the owner's write of CLKSET. -/
def execClksetWrite (port field code : Nat) (s : State) : Host.Outcome State Fault Refusal :=
  .next (if s.isOwner port then s.setClk field code else s.deny port)

end Sys2Proof.Machine
end

