-- ==== Sys2Proof/Machine/Boot.lean ====
section
/-! DEFINITION. Boot, the boot journal, recovery mode, verification and attestation, and the loss of power (17 R413 to
R420). -/
namespace Sys2Proof.Machine

/-- Whether a firmware image is accepted (17 R419), given what its verification finds. -/
def firmwareOk (v : FirmwareCheck) (svnMin : Nat) : Bool :=
  v.rsaOk && v.slhOk && v.keysOk && decide (v.arch = 1) && decide (svnMin ≤ v.svn) && v.lenOk

/-- RCVSTAT.RESULT of an image that is not accepted (17 Table 2). Where the checks that fail have no one code, the result is
a free value (DESIGN CHOICE, log 13). -/
def verifyResult (v : FirmwareCheck) (svnMin : Nat) (free : Word) : BitVec 4 :=
  let sig := !v.rsaOk || !v.slhOk
  let svn := decide (v.svn < svnMin)
  let arch := decide (v.arch ≠ 1)
  match v.keysOk, sig, svn, arch, v.lenOk with
  | true, true, false, false, true => if v.rsaOk then 2 else if v.slhOk then 1 else 3
  | true, false, true, false, true => 4
  | true, false, false, true, true => 5
  | true, false, false, false, false => 6
  | _, _, _, _, _ => free.extractLsb' 0 4

/-- The distance of a field from the boot fields (17 R413). -/
def fieldDist (f : Nat) : Nat :=
  let x := fieldX f
  Nat.min (if x ≤ 3 then 3 - x else x - 3) (if x ≤ 4 then 4 - x else x - 4) + fieldY f

/-- The fields at a distance, in ascending order. -/
def fieldsAt (d : Nat) : List Nat := (List.range 64).filter (fun f => fieldDist f == d && f != 3 && f != 4)

/-- The fields that take steps 2 to 63, in order (17 R413). -/
def joinOrder : List Nat := (List.range 11).flatMap fieldsAt

/-- The field of a join step. -/
def stepField (step : Nat) : Nat := joinOrder.getD (step - 2) 0

/-- The step that a field joins in; step 1 for the host-port fields. -/
def fieldStep (f : Nat) : Nat := if f = 3 ∨ f = 4 then 1 else 2 + ((listIdx (· == f) joinOrder).getD 0)

/-- The steps of phase `p` of a boot: steps 0 and 1, then the steps of each distance (17 R413). -/
def phaseSteps (p : Nat) : List Nat := if p = 0 then [0] else if p = 1 then [1] else (fieldsAt (p - 1)).map fieldStep

/-- The CRC-32 register after the low `n` bits of a value, least significant bit first: the reflected polynomial 0xEDB88320 of IEEE
802.3 (PRESUMED, log 61: R415 names a CRC-32 and no polynomial). -/
def crcBits : Nat → Nat → Nat → Nat
  | 0, _, r => r
  | n + 1, v, r => crcBits n (v / 2) (if (r % 2 == 1) != (v % 2 == 1) then Nat.xor (r / 2) 0xEDB88320 else r / 2)

/-- Bits [95:0] of a journal record (17 R415). -/
def JRec.bits (r : JRec) : Nat :=
  r.step % 256 + 256 * (if r.start then 1 else 2) + 1024 * (r.variant % 4) + 4096 * (r.attempt % 256) + 1048576 * (r.result % 16) +
    4294967296 * r.bootnum.toNat

/-- The CRC-32 of bits [95:0] of a record (17 R415). -/
def JRec.sum (r : JRec) : Word := ~~~ BitVec.ofNat 32 (crcBits 96 r.bits 0xFFFFFFFF)

/-- A record as the ROM writes it (17 R415). -/
def JRec.sealed (r : JRec) : JRec := { r with crc := r.sum }

/-- Whether the CRC of a record holds; one whose CRC fails is ignored (17 R415). -/
def JRec.valid (r : JRec) : Bool := r.crc == r.sum

/-- The latest valid record of a step (17 R415, R416). -/
def latestRec (l : List JRec) (step : Nat) : Option JRec := (l.filter (fun r => r.step == step && r.valid)).getLast?

/-- Append a journal record. A full half is replaced by the latest record of each step (17 R415). -/
def journalPut (l : List JRec) (r : JRec) : List JRec :=
  let k := if l.length < 8192 then l else (List.range 64).filterMap (latestRec l)
  k ++ [r]

/-- ATTEMPT of a step: its STARTs since the journal was cleared (17 R415). -/
def attemptsOf (l : List JRec) (step : Nat) : Nat := match latestRec l step with | some r => r.attempt | none => 0

/-- CLKSET of a variant (17 R414). -/
def variantCode (v : Nat) : BitVec 6 := if v = 0 then 32 else 16

/-- The fields of a step (17 Table 5). -/
def State.stepFields (s : State) (step : Nat) : List Nat :=
  if step = 0 then [s.bootField] else if step = 1 then [3, 4] else [stepField step]

/-- Write the START record of a step at a variant, and run the step's fields at it (17 R414, R415). -/
def State.putStart (s : State) (step variant : Nat) : State :=
  let r : JRec := { step := step, start := true, variant := variant, attempt := Nat.min 255 (attemptsOf s.journal step + 1),
                    result := 0, bootnum := s.bootNum, crc := 0 }
  (s.stepFields step).foldl (fun s f => s.updField f (fun x =>
    { x with clkset := variantCode variant, cur := variantCode variant, slowDram := variant == 3 }))
    { s with journal := journalPut s.journal r.sealed }

/-- Write the END record of a step: RESULT 0 OK, 1 FAIL, 2 SKIPPED, 3 NOPATH. -/
def State.putEnd (s : State) (step variant result : Nat) : State :=
  let r : JRec := { step := step, start := false, variant := variant, attempt := attemptsOf s.journal step, result := result,
                    bootnum := s.bootNum, crc := 0 }
  { s with journal := journalPut s.journal r.sealed }

/-- Whether a step runs: its latest record is a START of this boot. -/
def State.stepRuns (s : State) (step : Nat) : Bool :=
  match latestRec s.journal step with | some r => r.start && r.bootnum == s.bootNum | none => false

/-- Fence a field (17 R413; 13 R322). The port of a host-port field goes down with it, and stays down. -/
def State.fence (s : State) (f : Nat) : State :=
  let s1 := s.updField f (fun x => { x with fenced := true, run := false, joined := false })
  if f = 3 ∨ f = 4 then s1.updPcie (f - 3) (fun b => { b with up := false }) else s1

/-- Recovery mode (17 R418): the boot field runs at variant 3 and both ports wait for an image. -/
def State.recover (s : State) : State :=
  let on (b : PcieBlk) : PcieBlk := { b with wait := true, busy := false }
  let s1 := s.updField s.bootField (fun x =>
    { x with recovery := true, lock := true, clkset := variantCode 3, cur := variantCode 3, slowDram := true })
  { (s1.updPcie 0 on).updPcie 1 on with booting := false, booted := false }

/-- The neighbour at the distance before that a field joins through (17 R413): of several that have joined, the lowest (DESIGN CHOICE,
log 60). -/
def State.joinVia (s : State) (f : Nat) : Option Nat :=
  (List.range 64).find? (fun g => (s.field g).joined && fieldDist g + 1 == fieldDist f &&
    ((fieldY g == fieldY f && (fieldX g + 1 == fieldX f || fieldX f + 1 == fieldX g)) ||
     (fieldX g == fieldX f && (fieldY g + 1 == fieldY f || fieldY f + 1 == fieldY g))))

/-- TIME at the join of a field: that of the field joined through, plus half the measured round trip (16 R398). The host-port fields
have no field at a distance before: the boot field keeps its TIME, and the other joins through it (DESIGN CHOICE, log 60). -/
def State.joinTime (s : State) (f rtt : Nat) : Nat :=
  if f = s.bootField then (s.field f).time.toNat else (s.field ((s.joinVia f).getD s.bootField)).time.toNat + rtt / 2

/-- A field joins at a variant, with the TIME that its region controller sets after a round trip (17 R413, R414; 16 R398); its remap
table is read (10 R267). -/
def State.join (s : State) (f variant rtt : Nat) : State :=
  (s.updField f (fun x =>
    { x with run := true, joined := true, fenced := false, lock := true, clkset := variantCode variant, cur := variantCode variant,
             slowDram := variant == 3, time := BitVec.ofNat 64 (s.joinTime f rtt), fwrev := BitVec.ofNat 16 s.fwSvn })).scrubTable f

/-- Begin a join step by its latest record (17 R413, R416). -/
def State.beginJoin (s : State) (step : Nat) : State :=
  let f := stepField step
  let go (v : Nat) : State := if (s.joinVia f).isSome then s.putStart step v else (s.putEnd step v 3).fence f
  match latestRec s.journal step with
  | none => go 0
  | some r =>
    if r.start ∨ r.result = 1 ∨ r.result = 2 then (s.putEnd step r.variant 2).fence f
    else if r.result = 3 then go 0
    else go r.variant

/-- Begin a mandatory step by its latest record (17 R416). -/
def State.beginMandatory (s : State) (step : Nat) : State :=
  match latestRec s.journal step with
  | none => s.putStart step 0
  | some r =>
    if r.start ∨ r.result = 1 then
      if step = 0 ∨ 3 ≤ r.variant then s.recover else s.putStart step (r.variant + 1)
    else s.putStart step r.variant

/-- Begin the phases from `bootCur` on until one has a step that runs; after the last, boot ends (17 R409, R413). -/
def State.advanceBoot (fuel : Nat) (s : State) : State :=
  match fuel with
  | 0 => s
  | fuel + 1 =>
    if !s.booting ∨ (phaseSteps s.bootCur).any s.stepRuns then s
    else if 11 ≤ s.bootCur then { s with booting := false, booted := true, owner := 0, hbage := 0 }
    else
      let s1 := { s with bootCur := s.bootCur + 1 }
      State.advanceBoot fuel (if s1.bootCur = 1 then s1.beginMandatory 1 else (phaseSteps s1.bootCur).foldl State.beginJoin s1)

/-- Where a host pushes an image: the physical base of the boot field's lowest cluster (17 R418). -/
def State.pushBase (s : State) : Nat := 1073741824 * (if s.bootField = 3 then 48 else 64)

/-- The bytes of an image from an offset (17 R419). -/
def imagePart (b : List Byte) (off n : Nat) : List Byte := (b.drop off).take n

/-- The signed message of an image: bytes 0x0000 to 0x01FF followed by the body (17 R419). -/
def signedMessage (b : List Byte) : List Byte := imagePart b 0 0x200 ++ b.drop 0x4300

/-- What verification of an image finds (17 R419), both signatures evaluated in every case; the signature schemes, which the
manual names and does not define, are uninterpreted (log 62). -/
def State.imageCheck (s : State) (b : List Byte) : FirmwareCheck :=
  let w (o n : Nat) : Nat := natOfBytes (imagePart b o n)
  { rsaOk := Config.pssVerify (imagePart b 0x40 384) (signedMessage b) (imagePart b 0x200 384)
    slhOk := Config.slhVerify (imagePart b 0x1C0 48) (signedMessage b) (imagePart b 0x380 16224)
    keysOk := sha384 (imagePart b 0x40 384) == s.keyRsa && sha384 (imagePart b 0x1C0 48) == s.keySlh
    arch := w 8 4, svn := w 12 4, lenOk := decide (0x4300 + w 16 8 = b.length) }

/-- The image that the hosts have pushed, of at most 64 MiB (17 R418). -/
def State.pushed (s : State) : List Byte := s.bytesAt s.pushBase (Nat.min 67108864 (s.pcieBlk s.rcvPort).rcvlen.toNat)

/-- What verification of the pushed image finds: one longer than 64 MiB has no valid length (17 R418). -/
def State.pushedCheck (s : State) : FirmwareCheck :=
  let c := s.imageCheck s.pushed
  { c with lenOk := c.lenOk && decide ((s.pcieBlk s.rcvPort).rcvlen.toNat ≤ 67108864) }

/-- BOOT_START (17 R413, R415, R416): the ROM of F(3,0), or its twin of F(4,0) where its self-test fails, reads the journal,
which it erases first where that was asked for, verifies the image in the flash, and begins step 0. `factory` is what verification finds
of the image that stood there before any was pushed. -/
def execBootStart (rom : RomTest) (factory : FirmwareCheck) (s : State) : Host.Outcome State Fault Refusal :=
  .next (if s.booted ∨ s.booting ∨ (s.field 3).recovery ∨ (s.field 4).recovery then s
  else
    let fw := (s.flash.map s.imageCheck).getD factory
    let ok := (rom.ok3 || rom.ok4) && s.fwOk && firmwareOk fw s.svnMin
    let s1 := { s with bootField := if rom.ok3 then 3 else 4, journal := if s.clearPend then [] else s.journal, clearPend := false,
                       bootNum := s.bootNum + 1, booting := true, bootCur := 0, romPass := ok,
                       fwSvn := if ok then fw.svn else s.fwSvn }
    s1.beginMandatory 0)

/-- A mandatory step fails: the next variant, or recovery mode (17 Table 5). -/
def State.failMandatory (s : State) (step variant : Nat) : State :=
  let s1 := s.putEnd step variant 1
  if step = 0 ∨ 3 ≤ variant then s1.recover else s1.putStart step (variant + 1)

/-- BOOT_STEP (17 R413 to R416): a step that runs ends. Step 1 fails unless a port has trained. -/
def execBootStep (step : Nat) (ok : StepResult) (s : State) : Host.Outcome State Fault Refusal :=
  .next (match latestRec s.journal step with
  | none => s
  | some r =>
    let v := r.variant
    let other := 7 - s.bootField
    if !s.booting ∨ !s.stepRuns step then s
    else
      let s1 := match step, ok with
        | 0, .failed => s.failMandatory 0 v
        | 0, .noPath => s.failMandatory 0 v
        | 0, _ => if s.romPass then s.putEnd 0 v 0 else s.failMandatory 0 v
        | 1, .done t =>
          if (s.pcieBlk 0).up ∨ (s.pcieBlk 1).up then ((s.join s.bootField v t).join other v t).putEnd 1 v 0 else s.failMandatory 1 v
        | 1, .doneOne t =>
          if (s.pcieBlk (s.bootField - 3)).up then ((s.join s.bootField v t).fence other).putEnd 1 v 0 else s.failMandatory 1 v
        | 1, _ => s.failMandatory 1 v
        | n, .done t => (s.join (stepField n) v t).putEnd n v 0
        | n, .doneOne t => (s.join (stepField n) v t).putEnd n v 0
        | n, .noPath => (s.putEnd n v 3).fence (stepField n)
        | n, .failed => (s.putEnd n v 1).fence (stepField n)
      s1.advanceBoot 13)

/-- The module after a reset (17 R418): what the flash, the fuses and the module's screening hold stays. `keep`: power
stays on, and the DRAM wafer and host memory with it. -/
def State.restart (s : State) (keep : Bool) : State :=
  let ff (e : Nat × Field) : Nat × Field :=
    (e.1, { Field.init with excl := e.2.excl, mex := e.2.mex, remap := if keep then e.2.remap else [] })
  let bank (e : Nat × Bank) : Nat × Bank := (e.1, { e.2 with ce := 0, ue := 0, refpress := 0, degraded := 0 })
  let col (e : Nat × Column) : Nat × Column := (e.1, { e.2 with dupdisc := 0 })
  let fk (e : Nat × Cluster) : Nat × Cluster :=
    (e.1, { Cluster.init with desc := e.2.desc, banks := e.2.banks.map bank, cols := e.2.cols.map col, linePz := e.2.linePz, eccPz := e.2.eccPz,
                              unitPz := e.2.unitPz })
  { State.reset with
      fields := s.fields.map ff, clusters := if keep then s.clusters.map fk else [],
      mem := s.mem.filter (fun c => keep || decide (0x8000000000000 ≤ c.1)),
      journal := s.journal, clearPend := s.clearPend, svnMin := s.svnMin, fwSvn := s.fwSvn, fwOk := s.fwOk, flash := s.flash,
      keyRsa := s.keyRsa, keySlh := s.keySlh, secret := s.secret,
      bootNum := s.bootNum, agenda := s.agenda, freeCtr := s.freeCtr }

/-- RCVCMD.GO (17 R418): in recovery mode the first GO starts the verification of the pushed image. -/
def State.rcvGo (s : State) (port : Nat) (jclr : Bool) : State :=
  let on (b : PcieBlk) : PcieBlk := { b with busy := true, wait := false }
  if (s.field s.bootField).recovery ∧ (s.pcieBlk port).wait ∧ port < 2 then
    { (s.updPcie 0 on).updPcie 1 on with rcvPort := port, rcvJclr := jclr }
  else s

/-- RCVCMD_GO (17 R407, R418). -/
def execRcvcmdGo (port : Nat) (jclr : Bool) (s : State) : Host.Outcome State Fault Refusal := .next (s.rcvGo port jclr)

/-- IMAGE_VERIFICATION (17 R418, R419) of the image pushed at the port whose GO won: an accepted image is written to the flash and the module is reset; else RESULT says
what failed, and the ports wait again. -/
def execImageVerification (port : Nat) (s : State) : Host.Outcome State Fault Refusal :=
  .next (if port ≠ s.rcvPort ∨ !(s.pcieBlk port).busy then s
  else
    let c := s.pushedCheck
    if firmwareOk c s.svnMin then
      { s with fwOk := true, fwSvn := c.svn, flash := some s.pushed, journal := if s.rcvJclr then [] else s.journal }.restart true
    else
      let r := s.fresh
      let on (b : PcieBlk) : PcieBlk :=
        { b with busy := false, wait := true, result := verifyResult c s.svnMin (Config.freeWord r.1) }
      (r.2.updPcie 0 on).updPcie 1 on)

/-- The journal after power fails while its newest record is being written: the CRC of that record fails (17 R415; DEDUCED, log 61). -/
def tornJournal (l : List JRec) : List JRec :=
  match l.getLast? with
  | some r => l.dropLast ++ [{ r with crc := ~~~ r.sum }]
  | none => l

/-- POWER_LOSS (17 R415, R418): the module loses power. In the middle of a write of the flash, the image left fails verification while
one is being written, and else the newest journal record is left with a wrong CRC. -/
def execPowerLoss (flashing : Bool) (s : State) : Host.Outcome State Fault Refusal :=
  let image := flashing && (s.pcieBlk s.rcvPort).busy
  .next ({ s with fwOk := s.fwOk && !image, journal := if flashing && !image then tornJournal s.journal else s.journal }.restart false)

/-- The step register of a step (17 R417). -/
def State.stepReg (s : State) (step : Nat) : DWord :=
  let p := 16384 * s.clearPend.toNat
  match latestRec s.journal step with
  | none => BitVec.ofNat 64 p
  | some r => BitVec.ofNat 64 (r.variant % 4 + 4 * r.attempt + 1024 * (if r.start then 4 else r.result) + p)

/-- The SHA-384 of the signed message of the image in the flash (17 R420). -/
def State.messageHash (s : State) : List Byte := (s.flash.map (fun b => sha384 (signedMessage b))).getD Config.factoryHash

/-- An SPDM measurement (17 R420). -/
def State.measurement (s : State) (index : Nat) : List Byte :=
  match index with
  | 1 => Config.romHash
  | 2 => s.messageHash
  | 3 => Config.fuseState s.keyRsa s.keySlh s.svnMin ((List.range 64).map (fun f => (s.field f).excl))
  | 4 => (List.range 64).flatMap (fun i => bytesOfNat 8 (s.stepReg i).toNat)
  | _ => s.cfglog

/-- The seed of the identity key pair of an algorithm, the same at every boot (17 R420). -/
def State.identitySeed (s : State) (slh : Bool) : List Byte := Config.keySeed slh s.secret []

/-- The seed of the alias key pair of an algorithm (17 R420). -/
def State.aliasSeed (s : State) (slh : Bool) : List Byte := Config.keySeed slh s.secret s.messageHash

/-- The certificate of an alias key, which the identity key signs (17 R420). -/
def State.aliasCert (s : State) (slh : Bool) : List Byte :=
  Config.signature slh (s.identitySeed slh) (Config.publicKey slh (s.aliasSeed slh))

/-- PF0's signed answer to a request for a measurement: both alias keys sign the same transcript hash (17 R420). -/
def State.spdmAnswer (s : State) (port index : Nat) : SpdmAnswer :=
  let v := s.measurement index
  let sign (slh : Bool) : List Byte := Config.signature slh (s.aliasSeed slh) (Config.transcript port index v)
  { port := port, index := index, value := v, rsaSig := sign false, slhSig := sign true, rsaCert := s.aliasCert false,
    slhCert := s.aliasCert true }

/-- SPDM_REQUEST (17 R420): PF0 of a port answers a request for a measurement. -/
def execSpdmRequest (port index : Nat) (s : State) : Host.Outcome State Fault Refusal :=
  .next (if port < 2 ∧ 1 ≤ index ∧ index ≤ 5 then { s with spdm := s.spdm ++ [s.spdmAnswer port index] } else s)

end Sys2Proof.Machine
end

