-- ==== Sys2Proof/Machine/IntOps.lean ====
section
/-! DEFINITION. The integer group (07). -/
namespace Sys2Proof.Machine

/-- Fire a Format-D node. -/
def fireD (opc : BitVec 10) (n : Node) (s : State) (body : Ctx → FireRes) : Host.Outcome State Fault Refusal :=
  fire (viewD opc n) s body

/-- The element width of the firing's type. -/
def Ctx.n (c : Ctx) : Nat := intBits c.v.typ

/-- IADD (07 R188). -/
def execIadd (n : Node) (s : State) : Host.Outcome State Fault Refusal :=
  fireD 0x080 n s (fun c => c.mapInt (fun a b => (a + b) % 2 ^ c.n))

/-- ISUB (07 R188). -/
def execIsub (n : Node) (s : State) : Host.Outcome State Fault Refusal :=
  fireD 0x081 n s (fun c => c.mapInt (fun a b => (a + (2 ^ c.n - b)) % 2 ^ c.n))

/-- IADDS (07 R189). -/
def execIadds (n : Node) (s : State) : Host.Outcome State Fault Refusal :=
  fireD 0x082 n s (fun c => c.mapInt (fun a b =>
    lowBits c.n (clampTo c.v.typ (intVal c.v.typ a + intVal c.v.typ b))))

/-- ISUBS (07 R189). -/
def execIsubs (n : Node) (s : State) : Host.Outcome State Fault Refusal :=
  fireD 0x083 n s (fun c => c.mapInt (fun a b =>
    lowBits c.n (clampTo c.v.typ (intVal c.v.typ a - intVal c.v.typ b))))

/-- IMUL (07 R188). -/
def execImul (n : Node) (s : State) : Host.Outcome State Fault Refusal :=
  fireD 0x084 n s (fun c => c.mapInt (fun a b => a * b % 2 ^ c.n))

/-- IMULH (07 R188): floor(a · b / 2^N), signed or unsigned. -/
def execImulh (n : Node) (s : State) : Host.Outcome State Fault Refusal :=
  fireD 0x085 n s (fun c => c.mapInt (fun a b =>
    lowBits c.n ((intVal c.v.typ a * intVal c.v.typ b) / ((2 ^ c.n : Nat) : Int))))

/-- A constant register in every 32-bit lane, as an element (07 R185). -/
def Ctx.kElem (c : Ctx) (m : Nat) : Nat := if is64 c.v.typ then c.k m * 4294967297 else c.k m

/-- IMAD (07 R188). -/
def execImad (n : Node) (s : State) : Host.Outcome State Fault Refusal :=
  fireD 0x086 n s (fun c => c.mapInt (fun a b => (a * b + c.kElem (c.v.bits 6 6)) % 2 ^ c.n))

/-- Quotient and remainder of an element (07 R190, 03 R67). -/
def divRem (t : ETyp) (a b : Nat) : Nat × Nat :=
  let n := intBits t
  if b = 0 then (2 ^ n - 1, a)
  else if isSigned t ∧ a = 2 ^ (n - 1) ∧ b = 2 ^ n - 1 then (a, 0)
  else
    let x := intVal t a
    let y := intVal t b
    (lowBits n (x.tdiv y), lowBits n (x.tmod y))

/-- Whether some computed element divides by zero. -/
def Ctx.anyZeroB (c : Ctx) : Bool := (List.range (elemCount c.v.typ c.wa)).any (fun j => c.bElem j == 0)

/-- IDIV and IREM: DZ at position 0 when an element divides by zero and no operand is poisoned (07 R190). -/
def Ctx.divide (c : Ctx) (g : Nat × Nat → Nat) : FireRes :=
  let s := if c.anyZeroB then c.withFlags c.poison fDZ else c.s
  ({ c with s := s } : Ctx).mapInt (fun a b => g (divRem c.v.typ a b))

/-- IDIV (07 R190). -/
def execIdiv (n : Node) (s : State) : Host.Outcome State Fault Refusal := fireD 0x087 n s (fun c => c.divide Prod.fst)

/-- IREM (07 R190). -/
def execIrem (n : Node) (s : State) : Host.Outcome State Fault Refusal := fireD 0x088 n s (fun c => c.divide Prod.snd)

/-- IMIN (07 R191). -/
def execImin (n : Node) (s : State) : Host.Outcome State Fault Refusal :=
  fireD 0x089 n s (fun c => c.mapInt (fun a b => if intVal c.v.typ b < intVal c.v.typ a then b else a))

/-- IMAX (07 R191). -/
def execImax (n : Node) (s : State) : Host.Outcome State Fault Refusal :=
  fireD 0x08A n s (fun c => c.mapInt (fun a b => if intVal c.v.typ a < intVal c.v.typ b then b else a))

/-- IABS (07 R191). -/
def execIabs (n : Node) (s : State) : Host.Outcome State Fault Refusal :=
  fireD 0x08B n s (fun c => c.mapInt (fun a _ => (toS c.n a).natAbs % 2 ^ c.n))

/-- INEG (07 R191). -/
def execIneg (n : Node) (s : State) : Host.Outcome State Fault Refusal :=
  fireD 0x08C n s (fun c => c.mapInt (fun a _ => (2 ^ c.n - a) % 2 ^ c.n))

/-- A bitwise operation; with TYP 10 only bit 0 of each lane is computed (07 R192). -/
def Ctx.logic (c : Ctx) (g : Nat → Nat → Nat) : FireRes :=
  c.mapInt (fun a b => if c.v.typ = .pred then g (a % 2) (b % 2) % 2 else g a b)

/-- Bitwise complement of an element of the firing's type. -/
def Ctx.inv (c : Ctx) (b : Nat) : Nat := if c.v.typ = .pred then 1 - b % 2 else 2 ^ c.n - 1 - b

/-- AND (07 R192). -/
def execAnd (n : Node) (s : State) : Host.Outcome State Fault Refusal := fireD 0x08D n s (fun c => c.logic (· &&& ·))

/-- OR (07 R192). -/
def execOr (n : Node) (s : State) : Host.Outcome State Fault Refusal := fireD 0x08E n s (fun c => c.logic (· ||| ·))

/-- XOR (07 R192). -/
def execXor (n : Node) (s : State) : Host.Outcome State Fault Refusal := fireD 0x08F n s (fun c => c.logic (· ^^^ ·))

/-- ANDN: a AND NOT b (07 R192). -/
def execAndn (n : Node) (s : State) : Host.Outcome State Fault Refusal :=
  fireD 0x090 n s (fun c => c.logic (fun a b => a &&& c.inv b))

/-- ORN: a OR NOT b (07 R192). -/
def execOrn (n : Node) (s : State) : Host.Outcome State Fault Refusal :=
  fireD 0x091 n s (fun c => c.logic (fun a b => a ||| c.inv b))

/-- The shift count of an element: b as unsigned, or the low lane of b's pair (07 R193). -/
def shiftCount (b : Nat) : Nat := b % 4294967296

/-- SHL (07 R193). -/
def execShl (n : Node) (s : State) : Host.Outcome State Fault Refusal :=
  fireD 0x092 n s (fun c => c.mapInt (fun a b => if shiftCount b < c.n then a * 2 ^ shiftCount b % 2 ^ c.n else 0))

/-- SHR (07 R193). -/
def execShr (n : Node) (s : State) : Host.Outcome State Fault Refusal :=
  fireD 0x093 n s (fun c => c.mapInt (fun a b => if shiftCount b < c.n then a / 2 ^ shiftCount b else 0))

/-- SAR, arithmetic for every type (07 R193). -/
def execSar (n : Node) (s : State) : Host.Outcome State Fault Refusal :=
  fireD 0x094 n s (fun c => c.mapInt (fun a b =>
    if shiftCount b < c.n then lowBits c.n (toS c.n a / ((2 ^ shiftCount b : Nat) : Int))
    else if a < 2 ^ (c.n - 1) then 0 else 2 ^ c.n - 1))

/-- ROL (07 R193). -/
def execRol (n : Node) (s : State) : Host.Outcome State Fault Refusal :=
  fireD 0x095 n s (fun c => c.mapInt (fun a b =>
    let k := shiftCount b % c.n
    a * 2 ^ k % 2 ^ c.n + a / 2 ^ (c.n - k)))

/-- The number of trailing zero bits among `n`. -/
def ctzFrom (n a : Nat) : Nat :=
  match n with
  | 0 => 0
  | n + 1 => if a % 2 = 1 then 0 else 1 + ctzFrom n (a / 2)

/-- The number of one bits among `n`. -/
def popFrom (n a : Nat) : Nat :=
  match n with
  | 0 => 0
  | n + 1 => a % 2 + popFrom n (a / 2)

/-- The low `n` bits in reverse order, after `r`. -/
def revFrom (n a r : Nat) : Nat :=
  match n with
  | 0 => r
  | n + 1 => revFrom n (a / 2) (2 * r + a % 2)

/-- CLZ (07 R194). -/
def execClz (n : Node) (s : State) : Host.Outcome State Fault Refusal :=
  fireD 0x096 n s (fun c => c.mapInt (fun a _ => ctzFrom c.n (revFrom c.n a 0)))

/-- CTZ (07 R194). -/
def execCtz (n : Node) (s : State) : Host.Outcome State Fault Refusal :=
  fireD 0x097 n s (fun c => c.mapInt (fun a _ => ctzFrom c.n a))

/-- POPC (07 R194). -/
def execPopc (n : Node) (s : State) : Host.Outcome State Fault Refusal :=
  fireD 0x098 n s (fun c => c.mapInt (fun a _ => popFrom c.n a))

/-- BREV (07 R194). -/
def execBrev (n : Node) (s : State) : Host.Outcome State Fault Refusal :=
  fireD 0x099 n s (fun c => c.mapInt (fun a _ => revFrom c.n a 0))

/-- BFX (07 R195). -/
def execBfx (n : Node) (s : State) : Host.Outcome State Fault Refusal :=
  fireD 0x09A n s (fun c =>
    let p := c.v.bits 0 6
    let l := c.v.bits 6 7
    c.mapInt (fun a _ =>
      let x := a / 2 ^ p % 2 ^ l
      if isSigned c.v.typ then lowBits c.n (toS l x) else x))

/-- BFI (07 R195). -/
def execBfi (n : Node) (s : State) : Host.Outcome State Fault Refusal :=
  fireD 0x09B n s (fun c =>
    let p := c.v.bits 0 6
    let l := c.v.bits 6 7
    c.mapInt (fun a b => (a % 2 ^ p + b % 2 ^ l * 2 ^ p + a / 2 ^ (p + l) * 2 ^ (p + l)) % 2 ^ c.n))

/-- The relations of ICMP (07 Table 2). -/
def intRel (t : ETyp) (mod a b : Nat) : Bool :=
  match mod with
  | 0 => a == b
  | 1 => a != b
  | 2 => decide (intVal t a < intVal t b)
  | 3 => decide (intVal t a ≤ intVal t b)
  | 4 => decide (intVal t b < intVal t a)
  | 5 => decide (intVal t b ≤ intVal t a)
  | 6 => a &&& b != 0
  | _ => a &&& b == 0

/-- The reduced lane of a comparison: .ANY or .ALL, predicate or mask form (07 Table 2, 08 Table 2). -/
def reducedLane (all mask : Bool) (rs : List Bool) : List Word :=
  let r := if all then rs.all id else rs.any id
  [if r then (if mask then 0xFFFFFFFF else 1) else 0]

/-- ICMP (07 R196). -/
def execIcmp (n : Node) (s : State) : Host.Outcome State Fault Refusal :=
  fireD 0x09C n s (fun c =>
    let imm := c.v.bits 4 28
    let b (j : Nat) : Nat :=
      if c.v.ary = .mono then (if isSigned c.v.typ then lowBits c.n (toS 28 imm) else imm) else c.bElem j
    let rs := (List.range (elemCount c.v.typ c.wa)).map (fun j => intRel c.v.typ c.v.mod.toNat (c.aElem j) (b j))
    let mask := c.v.bits 0 1 == 1
    match c.v.bits 1 2 with
    | 0 =>
      let one : Nat := if mask then 2 ^ c.n - 1 else if is64 c.v.typ then 4294967297 else 1
      c.emitBoth c.s (packElems c.v.typ c.wa (rs.map (fun r => if r then one else 0))) c.poison
    | 1 => c.emitBoth c.s (reducedLane false mask rs) c.poison
    | _ => c.emitBoth c.s (reducedLane true mask rs) c.poison)

/-- SEL (07 R197). A PRED lane is emitted with bits [31:1] zero, as 02 R38 has every PRED result (DEDUCED, log 84). -/
def execSel (n : Node) (s : State) : Host.Outcome State Fault Refusal :=
  fireD 0x09D n s (fun c =>
    let q := c.k (c.v.bits 8 6)
    let pick (i a b : Nat) : Nat :=
      let e := if q / 2 ^ i % 2 = 1 then a else b
      if c.v.typ = .pred then e % 2 else e
    let es := (List.range (elemCount c.v.typ c.wa)).map (fun j =>
      pick (if is64 c.v.typ then 2 * j else j) (c.aElem j) (c.bElem j))
    c.emitBoth c.s (packElems c.v.typ c.wa es) c.poison)

/-- LIT (07 R198). -/
def execLit (n : NodeL) (s : State) : Host.Outcome State Fault Refusal :=
  fire (viewL 0x09E n) s (fun c =>
    let l := c.v.bits 0 53
    if is64 c.v.typ then
      let v := if isSigned c.v.typ then lowBits 64 (toS 53 l) else l
      let w := Nat.max c.wa 2
      c.emitBoth c.s (packElems c.v.typ w (List.replicate (w / 2) v)) c.f.a.poison
    else c.emitBoth c.s (List.replicate (Nat.max c.wa 1) (word l)) c.f.a.poison)

/-- AADR (07 R199). -/
def execAadr (n : NodeL) (s : State) : Host.Outcome State Fault Refusal :=
  fire (viewL 0x09F n) s (fun c =>
    let disp := lowBits 64 (toS 48 (c.v.bits 0 48))
    let sc := c.v.bits 48 3
    c.mapInt (fun a b => (a + b * 2 ^ sc + disp) % 2 ^ 64))

/-- A 32-bit or 64-bit integer type of a code (07 R200). -/
def intTyp (t : Nat) : ETyp := match t with | 0 => .i32 | 1 => .n32 | 2 => .i64 | _ => .n64

/-- CVTI (07 R200). -/
def execCvti (n : Node) (s : State) : Host.Outcome State Fault Refusal :=
  fireD 0x0A0 n s (fun c =>
    let t := intTyp (c.v.bits 0 2)
    let src := unpackLanes (intBits t) c.f.a.lanes
    let sat := c.v.mod == 1
    let conv (x : Nat) : Nat :=
      let v := intVal t x
      lowBits c.n (if sat then clampTo c.v.typ v else v)
    let es := if is64 c.v.typ ∧ ¬ is64 t then (if c.v.bits 2 1 = 1 then src.drop 16 else src.take 16) else src
    let lanes :=
      if is64 c.v.typ ∧ is64 t then packElems c.v.typ c.wa (es.map conv) else packLanes (intBits c.v.typ) (es.map conv)
    c.emitBoth c.s lanes c.f.a.poison)

end Sys2Proof.Machine
end

