-- ==== Sys2Proof/Machine/JetOps.lean ====
section
/-! DEFINITION. The jet group (08 R220 to R226). -/
namespace Sys2Proof.Machine

/-- Set ORDER.D of the firing's colour at the issuing logical core (08 R221). -/
def Ctx.setOrder (c : Ctx) (d : Nat) : State :=
  c.upd (fun x => x.updColour (tagColour c.f.tag) (fun r => { r with order := BitVec.ofNat 3 d }))

/-- JORD (08 R221). -/
def execJord (n : Node) (s : State) : Host.Outcome State Fault Refusal :=
  fire (viewD 0x180 n) s (fun c => c.emitBoth (c.setOrder (c.v.bits 0 3)) c.f.a.lanes c.f.a.poison)

/-- The lanes of jets built from scalars, lane `f` on (08 R223); `seed j` is coefficient 1 of jet `j`. -/
def Ctx.buildJets (c : Ctx) (f : Nat) (seed : Nat → Nat) : List Word :=
  let d := c.order
  let n := Nat.min (32 / (d + 1)) (c.wa - f)
  (List.range n).flatMap (fun j => (padTo 0 (d + 1) ([c.aLane (f + j), seed j].take (d + 1))).map word)

/-- JSEED (08 R223). -/
def execJseed (n : Node) (s : State) : Host.Outcome State Fault Refusal :=
  fire (viewD 0x181 n) s (fun c =>
    let f := c.v.bits 6 5
    let seed (j : Nat) : Nat := if c.v.ary = .mono then oneF else c.bLane (f + j)
    c.emitBoth c.s (c.buildJets f seed) c.poison)

/-- JCONST (08 R223). -/
def execJconst (n : Node) (s : State) : Host.Outcome State Fault Refusal :=
  fire (viewD 0x182 n) s (fun c => c.emitBoth c.s (c.buildJets (c.v.bits 6 5) (fun _ => 0)) c.poison)

/-- k! -/
def fact : Nat → Nat
  | 0 => 1
  | n + 1 => (n + 1) * fact n

/-- JGET (08 R224). -/
def execJget (n : Node) (s : State) : Host.Outcome State Fault Refusal :=
  fire (viewD 0x183 n) s (fun c =>
    let d := c.order
    let k := c.v.bits 6 3
    let rs := (List.range (jetCount c.wa d)).map (fun j =>
      if d < k then ((0, 0) : Fr)
      else
        let x := co (c.aJet d j) k
        if c.v.bits 9 1 = 1 then Fr.at k (f32.mul c.rnd (intF (fact k)) x) else (x, 0))
    c.emitF (rs.map (fun r => word r.1)) (orAll rs))

/-- JPUT (08 R224). -/
def execJput (n : Node) (s : State) : Host.Outcome State Fault Refusal :=
  fire (viewD 0x184 n) s (fun c =>
    let d := c.order
    let k := c.v.bits 6 3
    if d < k then c.emitBoth c.s c.f.a.lanes c.poison
    else
      let rs := (List.range (jetCount c.wa d)).map (fun j =>
        let x := c.bLane j
        if c.v.bits 9 1 = 1 then Fr.at k (f32.div c.rnd x (intF (fact k))) else (x, 0))
      let js := (rs.zipIdx).map (fun e => ((listSet (c.aJet d e.2) k e.1.1, e.1.2) : Jet))
      c.emitF (jetLanes c.wa d js) (jetFlags js))

/-- JDIFF of one jet (08 R225). -/
def jetDiff (m : Rnd) (d : Nat) (a : List Nat) : Jet :=
  let y := (List.range d).foldl (fun y k => Jet.push y (Fr.at k (f32.mul m (intF (k + 1)) (co a (k + 1))))) (([], 0) : Jet)
  Jet.push y (0, 0)

/-- JDIFF (08 R225). -/
def execJdiff (n : Node) (s : State) : Host.Outcome State Fault Refusal :=
  fire (viewD 0x185 n) s (fun c => c.mapJet (fun _ a _ => jetDiff c.rnd c.order a))

/-- JINTG of one jet (08 R225). -/
def jetIntg (d k0 : Nat) (a : List Nat) : Jet :=
  (List.range d).foldl (fun y i => Jet.push y (Fr.at (i + 1) (divk (co a i) (i + 1)))) (([k0], 0) : Jet)

/-- JINTG (08 R225). -/
def execJintg (n : Node) (s : State) : Host.Outcome State Fault Refusal :=
  fire (viewD 0x186 n) s (fun c => c.mapJet (fun _ a b =>
    jetIntg c.order (if c.v.ary = .mono then 0 else co b 0) a))

/-- JTRUNC (08 R225). -/
def execJtrunc (n : Node) (s : State) : Host.Outcome State Fault Refusal :=
  fire (viewD 0x187 n) s (fun c =>
    let d := c.order
    let e := c.v.bits 6 3
    if d ≤ e then c.emitBoth c.s c.f.a.lanes c.poison
    else c.mapJet (fun _ a _ => (padTo 0 (d + 1) (a.take (e + 1)), 0)))

/-- JFLAG (08 R226): JXF, then cleared unless .KEEP. -/
def execJflag (n : Node) (s : State) : Host.Outcome State Fault Refusal :=
  fire (viewD 0x188 n) s (fun c =>
    let j := c.x.jxf
    let s' := if c.v.bits 0 1 = 1 then c.s else c.upd (fun x => { x with jxf := 0 })
    c.emitBoth s' [j.extractLsb' 0 32, (j.extractLsb' 32 8).setWidth 32] c.f.a.poison)

end Sys2Proof.Machine
end

