-- ==== Sys2Proof/Machine/LaneOps.lean ====
section
/-! DEFINITION. The colour and lane group (09 R241, R243, R250 to R252). -/
namespace Sys2Proof.Machine

/-- CTXALLOC (09 R241). -/
def execCtxalloc (n : Node) (s : State) : Host.Outcome State Fault Refusal :=
  fire (viewD 0x040 n) s (fun c =>
    match c.allocate ((0 : BitVec 64) ++ c.f.tag) with
    | none => .park true
    | some (k, s') => .done s' [{ c.outA c.f.a.lanes c.f.a.poison with tag := mkTag k 0 }, c.outB [word k] c.f.a.poison])

/-- CTXFREE (09 R243). -/
def execCtxfree (n : Node) (s : State) : Host.Outcome State Fault Refusal :=
  fire (viewD 0x041 n) s (fun c =>
    let k := c.aLane 0 % 65536
    if c.f.a.poison then .trap .poisonConsumed 0x02
    else if k = 0 then .trap .accessFault 0x21
    else if (SMap.find c.p.colours k).isNone then .trap .accessFault 0x22
    else c.passA (c.s.freeColour c.f.asid c.f.lc k))

/-- PACK (09 Table 5). -/
def execPack (n : Node) (s : State) : Host.Outcome State Fault Refusal :=
  fire (viewD 0x042 n) s (fun c =>
    let sp := if c.v.bits 6 1 = 1 then c.wa else c.v.bits 0 6
    c.emitBoth c.s ((padTo 0 sp c.f.a.lanes ++ c.bTok.lanes).take 32) c.poison)

/-- UNPACK (09 Table 5). -/
def execUnpack (n : Node) (s : State) : Host.Outcome State Fault Refusal :=
  fire (viewD 0x043 n) s (fun c =>
    let sp := c.v.bits 0 6
    .done c.s [c.outA (c.f.a.lanes.take sp) c.f.a.poison, c.outB (c.f.a.lanes.drop sp) c.f.a.poison])

/-- BCAST (09 Table 5). -/
def execBcast (n : Node) (s : State) : Host.Outcome State Fault Refusal :=
  fire (viewD 0x044 n) s (fun c =>
    let w := if c.v.bits 5 6 = 0 then c.regs.width.toNat else c.v.bits 5 6
    c.emitBoth c.s (List.replicate w (tlane c.f.a (c.v.bits 0 5))) c.f.a.poison)

/-- SHUF (09 Table 5). -/
def execShuf (n : Node) (s : State) : Host.Outcome State Fault Refusal :=
  fire (viewD 0x045 n) s (fun c =>
    c.emitBoth c.s (c.bTok.lanes.map (fun i => if i.toNat < 32 then tlane c.f.a i.toNat else 0)) c.poison)

/-- LGET (09 Table 5). -/
def execLget (n : Node) (s : State) : Host.Outcome State Fault Refusal :=
  fire (viewD 0x046 n) s (fun c =>
    let k := if c.v.ary = .dyad then (tlane c.bTok 0).toNat else c.v.bits 0 5
    c.emitBoth c.s [tlane c.f.a k] c.poison)

/-- LPUT (09 Table 5). -/
def execLput (n : Node) (s : State) : Host.Outcome State Fault Refusal :=
  fire (viewD 0x047 n) s (fun c =>
    let k := c.v.bits 6 5
    c.emitBoth c.s (listSet (padTo 0 (Nat.max c.wa (k + 1)) c.f.a.lanes) k (word (c.bLane 0))) c.poison)

/-- The operation of LRED and LSCAN on elements, jets for F32 and one-lane elements for integers (09 R251). -/
def Ctx.laneOp (c : Ctx) (x y : Jet) : Jet :=
  let d := c.order
  let a := co x.1 0
  let b := co y.1 0
  let int (r : Nat) : Jet := ([r], 0)
  let t := c.v.typ
  let r : Jet := match c.v.mod.toNat with
    | 0 => jetAdd .rne false d x.1 y.1
    | 1 => jetPick true false d x.1 y.1
    | 2 => jetPick false false d x.1 y.1
    | 3 => int ((a + b) % 4294967296)
    | 4 => int (if intVal t a < intVal t b then b else a)
    | 5 => int (if intVal t b < intVal t a then b else a)
    | 6 => int (a &&& b)
    | _ => int (a ||| b)
  (r.1, x.2 ||| y.2 ||| r.2)

/-- The elements of a: the jets for F32, the lanes for integers. -/
def Ctx.laneElems (c : Ctx) : List Jet :=
  if c.v.typ = .f32 then (List.range (jetCount c.wa c.order)).map (fun j => (c.aJet c.order j, 0))
  else (List.range c.wa).map (fun i => ([c.aLane i], 0))

/-- The identity of LRED (09 R251). -/
def Ctx.laneIdentity (c : Ctx) : Jet :=
  let sg := isSigned c.v.typ
  let h : Nat := match c.v.mod.toNat with
    | 1 => 0xFF800000
    | 2 => 0x7F800000
    | 4 => if sg then 0x80000000 else 0
    | 5 => if sg then 0x7FFFFFFF else 0xFFFFFFFF
    | 6 => 0xFFFFFFFF
    | _ => 0
  (h :: (if c.v.typ = .f32 then List.replicate c.order 0 else []), 0)

/-- LRED (09 R251): the pair tree of 03 R77. -/
def execLred (n : Node) (s : State) : Host.Outcome State Fault Refusal :=
  fire (viewD 0x048 n) s (fun c =>
    let r := (pairTree c.laneOp 6 c.laneElems).headD c.laneIdentity
    c.emitF (r.1.map word) r.2)

/-- The prefixes of a list under an operation, the flags of each step its own. -/
def scanJets (op : Jet → Jet → Jet) (acc : Jet) : List Jet → List Jet
  | [] => []
  | x :: r =>
    let y := op (acc.1, 0) x
    y :: scanJets op y r

/-- LSCAN (09 R251). -/
def execLscan (n : Node) (s : State) : Host.Outcome State Fault Refusal :=
  fire (viewD 0x049 n) s (fun c =>
    let js := match c.laneElems with
      | [] => []
      | x :: r => x :: scanJets c.laneOp x r
    c.emitF (jetLanes c.wa (if c.v.typ = .f32 then c.order else 0) js) (jetFlags js))

/-- WIDTH (09 R252). -/
def execWidth (n : Node) (s : State) : Host.Outcome State Fault Refusal :=
  fire (viewD 0x04A n) s (fun c =>
    let w := c.v.bits 0 6
    let m := c.x.laneMax.toNat
    let s' := c.upd (fun x =>
      let x := x.updColour (tagColour c.f.tag) (fun r => { r with width := BitVec.ofNat 6 (Nat.min w m) })
      if m < w then { x with clamped := true } else x)
    c.passA s')

end Sys2Proof.Machine
end

