-- ==== Sys2Proof/Machine/Owner.lean ====
section
/-! DEFINITION. Ownership, the region controllers' mailbox, the report ring and the host links (17 R407 to R412; 13 R324,
R335). -/
namespace Sys2Proof.Machine

/-- Whether the owner is lost: its port's link is down, or its last beat is 100,000 µs old (17 R409). -/
def State.ownerLost (s : State) : Bool :=
  s.owner != 0 && (!(s.pcieBlk (s.owner.toNat - 1)).up || decide (100000 ≤ s.hbage.toNat))

/-- Claim ownership (17 R409). -/
def State.claim (s : State) (port : Nat) : State :=
  if 2 ≤ port ∨ s.isOwner port then s
  else if s.owner = 0 ∨ s.ownerLost then { s with owner := BitVec.ofNat 2 (port + 1), hbage := 0 }.firePf0 2
  else s.updPcie port (fun b => { b with claimfail := true })

/-- OWN_CLAIM (17 R407, R409). -/
def execOwnClaim (port : Nat) (s : State) : Host.Outcome State Fault Refusal := .next (s.claim port)

/-- Give up ownership (17 R409). -/
def State.giveUp (s : State) (port : Nat) : State := if s.isOwner port then { s with owner := 0, hbage := 0 } else s

/-- OWN_RELEASE (17 R407, R409). -/
def execOwnRelease (port : Nat) (s : State) : Host.Outcome State Fault Refusal := .next (s.giveUp port)

/-- The owner's beat restarts HBAGE (17 R407, R408). -/
def State.beat (s : State) (port : Nat) : State := if s.isOwner port then { s with hbage := 0 } else s.deny port

/-- HB_BEAT (17 R407, R408). -/
def execHbBeat (port : Nat) (s : State) : Host.Outcome State Fault Refusal := .next (s.beat port)

/-- OWNER_LOST (17 R409): the owner's link goes down, or HBAGE reaches its limit. No register changes: OWNER stays until
a CLAIM is accepted. -/
def execOwnerLost (s : State) : Host.Outcome State Fault Refusal := .next s

/-- LINK_UP_CHANGE (17 R407, R413): a port's link trains or goes down. The port of a fenced field stays down. -/
def execLinkUpChange (port : Nat) (up : Bool) (rate width : Nat) (s : State) : Host.Outcome State Fault Refusal :=
  .next (if 2 ≤ port ∨ (up ∧ (s.field (3 + port)).fenced) then s
  else s.updPcie port (fun b =>
    { b with up := up, rate := BitVec.ofNat 3 rate, width := BitVec.ofNat 4 width,
             retrains := if up ∧ !b.up ∧ s.booted ∧ b.retrains ≠ 0xFF then b.retrains + 1 else b.retrains }))

/-- A write of MBCMD (17 R410): GO starts a command unless one runs. -/
def Field.mbStart (f : Field) (v : DWord) : Field :=
  if f.mbBusy ∨ !v.getLsbD 16 then f else { f with mbOp := v.extractLsb' 0 8, mbSeq := v.extractLsb' 8 8, mbBusy := true }

/-- The command at a field's mailbox ends (17 R410, Table 3). -/
def State.mbEnd (s : State) (field code : Nat) (res : DWord) : State :=
  s.updField field (fun f => { f with mbDone := f.mbSeq, mbCode := BitVec.ofNat 8 code, mbBusy := false, mbRes := res })

/-- Run the command of an OP where it stands at a field's mailbox (17 R411). -/
def State.mailbox (s : State) (field op : Nat) (run : Field → State) : State :=
  let f := s.field field
  if f.mbBusy ∧ f.mbOp.toNat = op then run f else s

/-- Return a region of a cluster to unassigned, and clear the poison of its units (13 R324, R335). -/
def Cluster.releaseRegion (x : Cluster) (g : Nat) : Cluster :=
  let there (q : Nat) : Bool := q / 8 == g
  { x with desc := SMap.put Desc.init x.desc g Desc.init, unitPz := x.unitPz.filter (fun u => !there (u % 4096)),
           linePz := x.linePz.filter (fun l => !(there (l / 64 % 4096) && decide (l / 262144 % 16 < 8))),
           eccPz := x.eccPz.filter (fun l => !(there (l / 64 % 4096) && decide (l / 262144 % 16 < 8))) }

/-- The cluster of an index within a field (10 R261). -/
def clusterAt (field k : Nat) : Nat := 128 * (8 * fieldY field + k / 16) + 16 * fieldX field + k % 16

/-- REGION_RELEASE (17 R411; 13 R324): ARG0 is the cluster's index in the field, ARG1 the region. -/
def execRegionRelease (field : Nat) (s : State) : Host.Outcome State Fault Refusal :=
  .next (s.mailbox field 1 (fun f =>
    if f.mbArg0.toNat < 128 ∧ f.mbArg1.toNat < 496 then
      (s.updCluster (clusterAt field f.mbArg0.toNat) (fun x => x.releaseRegion f.mbArg1.toNat)).mbEnd field 0 f.mbRes
    else s.mbEnd field 1 f.mbRes))

/-- UNIT_CLEAR (17 R411; 13 R335): ARG0 is the address of a 4 KiB unit of the field. -/
def execUnitClear (field : Nat) (s : State) : Host.Outcome State Fault Refusal :=
  .next (s.mailbox field 2 (fun f =>
    match s.resolve f.mbArg0.toNat with
    | .dram k c l q 0 =>
      if fieldOfCluster k = field then
        (s.updCluster k (fun x => { x with unitPz := x.unitPz.filter (· ≠ unitKey c l q) })).mbEnd field 0 f.mbRes
      else s.mbEnd field 1 f.mbRes
    | _ => s.mbEnd field 1 f.mbRes))

/-- PAGE_GRANT (17 R411): ARG0 is the physical address of a list of page addresses, ARG1 its length. -/
def execPageGrant (field : Nat) (s : State) : Host.Outcome State Fault Refusal :=
  .next (s.mailbox field 3 (fun f =>
    let n := f.mbArg1.toNat
    let ps := (List.range n).map (fun i => (s.word64 (f.mbArg0.toNat + 8 * i)).toNat)
    if n = 0 ∨ 65536 < n ∨ !s.present f.mbArg0.toNat ∨ ps.any (fun p => p % 4096 != 0 || decide (0x80000000000 ≤ p) || !s.present p) then
      s.mbEnd field 1 f.mbRes
    else
      let all := (ps.map (· / 4096)).foldl addNat f.pages
      (s.updField field (fun f => { f with pages := all })).mbEnd field 0 (BitVec.ofNat 64 all.length)))

/-- CORE_RETIRE (17 R411; 10 R265; 01 R21): ARG0 names a core of the field, which is retired at the host's request. -/
def execCoreRetire (field : Nat) (s : State) : Host.Outcome State Fault Refusal :=
  .next (s.mailbox field 4 (fun f =>
    let cx := f.mbArg0.toNat % 256
    let cy := f.mbArg0.toNat / 256 % 256
    if fieldOfCore cx cy = field then (s.retireCore cx cy 4).mbEnd field 0 f.mbRes else s.mbEnd field 1 f.mbRes))

/-- JOURNAL_CLEAR (17 R411, R416): the next boot erases the journal. -/
def execJournalClear (field : Nat) (s : State) : Host.Outcome State Fault Refusal :=
  .next (s.mailbox field 5 (fun f =>
    if field = s.bootField then { s with clearPend := true }.mbEnd field 0 f.mbRes else s.mbEnd field 2 f.mbRes))

/-- SVN_COMMIT (17 R411): the fused SVN minimum rises to the running image's SVN. -/
def execSvnCommit (field : Nat) (s : State) : Host.Outcome State Fault Refusal :=
  .next (s.mailbox field 6 (fun f =>
    if field = s.bootField then { s with svnMin := Nat.max s.svnMin f.fwrev.toNat }.mbEnd field 0 f.mbRes
    else s.mbEnd field 2 f.mbRes))

/-- MAILBOX_BAD_COMMAND (17 R411): any other OP completes with CODE 1. -/
def execMailboxBadCommand (field : Nat) (s : State) : Host.Outcome State Fault Refusal :=
  .next (
    let f := s.field field
    if f.mbBusy ∧ (f.mbOp = 0 ∨ 6 < f.mbOp.toNat) then s.mbEnd field 1 f.mbRes else s)

/-- The bytes of a report (17 R412). Bytes 4 to 7 are not stated: they are free values (DESIGN CHOICE, log 13). -/
def Report.bytes (r : Report) (free : Word) : List Byte :=
  bytesOfNat 1 r.kind ++ bytesOfNat 1 r.field ++ bytesOfNat 2 r.detail ++ bytesOfNat 4 free.toNat ++ bytesOfNat 8 r.pa ++
    bytesOfNat 8 r.len ++ bytesOfNat 8 r.time.toNat

/-- REPORT_RING_WRITE (17 R412): the oldest report that waits is written while the ring has room. -/
def execReportRingWrite (s : State) : Host.Outcome State Fault Refusal :=
  .next (match s.reports with
  | [] => s
  | r :: rest =>
    let n := s.rptLog2n.toNat
    if s.rptEn ∧ 4 ≤ n ∧ n ≤ 12 ∧ (s.rptProd - s.rptCons).toNat < 2 ^ n then
      let c := s.fresh
      let at_ := s.rptBase.toNat / 64 % 70368744177664 * 64 + 32 * (s.rptProd.toNat % 2 ^ n)
      ({ c.2.writeRange 2 at_ (r.bytes (Config.freeWord c.1)) false with
          reports := rest, rptProd := s.rptProd + 1 }).firePf0 1
    else s)

end Sys2Proof.Machine
end

