-- ==== Sys2Proof/Machine/Optical.lean ====
section
/-! DEFINITION. The link layer of an optical port: egress translation, mesh flits, stripes, frames, acknowledgement, replay
and credits (18 R424 to R431, R435; 02 R53). -/
namespace Sys2Proof.Machine

/-- The field of an optical port: that of the core to whose router it attaches (18 Table 1). -/
def portField (n : Nat) : Nat := fieldOfCore (portCore n).1 (portCore n).2

/-- Add to a counter that saturates. -/
def satAdd (w : Word) (n : Nat) : Word := BitVec.ofNat 32 (Nat.min 4294967295 (w.toNat + n))

/-- The own TIME of an optical port's field, in ns. -/
def State.portNow (s : State) (n : Nat) : Nat := (s.field (portField n)).time.toNat

/-- The control flit of a frame (18 Table 3). -/
def controlFlit (f : LinkFrame) : Nat :=
  let slot (j : Nat) : Nat := match f.slots.getD j none with | some x => x.vc.toNat + 8 * x.half.toNat + 16 | none => 0
  f.fseq.toNat + 2 ^ 12 * (f.ack.getD 0).toNat + 2 ^ 24 * f.ack.isSome.toNat + 2 ^ 25 * (f.nak.getD 0).toNat + 2 ^ 37 * f.nak.isSome.toNat +
    ((List.range 9).map (fun j => 2 ^ (38 + 5 * j) * slot j)).sum + ((List.range 6).map (fun v => 2 ^ (83 + 4 * v) * (f.cred.getD v 0 % 16))).sum +
    2 ^ 107 * (f.lcmOp.toNat + 16 * f.lcmLane.toNat + 256 * f.lcmWl.toNat + 4096 * f.lcmStripe.toNat)

/-- The frame mark of a lane's frame: the lane number in [9:6], FSEQ[5:0] in [5:0] (18 R428). -/
def frameMark (lane : Nat) (f : LinkFrame) : Nat := 64 * (lane % 16) + f.fseq.toNat % 64

/-- The data bits of a frame (18 R428): the mark, the control flit, then the nine data slots, the first lowest (DESIGN CHOICE, log 16); a
slot that is not in use is zero. -/
def frameBits (lane : Nat) (f : LinkFrame) : BitVec 2570 :=
  BitVec.ofNat 2570 (frameMark lane f + 2 ^ 10 * controlFlit f +
    ((List.range 9).map (fun j => 2 ^ (266 + 256 * j) * (match f.slots.getD j none with | some x => x.bits.toNat | none => 0))).sum)

/-- The frame of its data bits (18 R428, Table 3). No rule gives the mark or a reserved bit an effect on what is received (DESIGN CHOICE,
log 16). -/
def readFrame (b : BitVec 2570) : LinkFrame :=
  let g (lo n : Nat) : Nat := b.toNat / 2 ^ (10 + lo) % 2 ^ n
  { fseq := BitVec.ofNat 12 (g 0 12), ack := if g 24 1 = 1 then some (BitVec.ofNat 12 (g 12 12)) else none,
    nak := if g 37 1 = 1 then some (BitVec.ofNat 12 (g 25 12)) else none,
    slots := (List.range 9).map (fun j => if g (38 + 5 * j + 4) 1 = 1 then
      some { vc := BitVec.ofNat 3 (g (38 + 5 * j) 3), half := g (38 + 5 * j + 3) 1 == 1, bits := BitVec.ofNat 256 (g (256 * (j + 1)) 256) }
      else none),
    cred := (List.range 6).map (fun v => g (83 + 4 * v) 4),
    lcmOp := BitVec.ofNat 4 (g 107 4), lcmLane := BitVec.ofNat 4 (g 111 4), lcmWl := BitVec.ofNat 4 (g 115 4),
    lcmStripe := BitVec.ofNat 12 (g 119 12) }

/-- The mesh flits of a token (01 R10; 02 R53). -/
def tokFlits (t : Token) : List (BitVec 512) :=
  let lanes (ls : List Word) : Nat := ls.foldr (fun w a => w.toNat + 4294967296 * a) 0
  BitVec.ofNat 512 ((tokHeader t).toNat + 2 ^ 128 * lanes (t.lanes.take 12)) ::
    (List.range (flitsOf t.lanes.length - 1)).map (fun i => BitVec.ofNat 512 (lanes ((t.lanes.drop (12 + 16 * i)).take 16)))

/-- The token of its mesh flits (02 R52, R53). -/
def flitsTok (fs : List (BitVec 512)) : Token :=
  let h := (fs.headD 0).toNat
  let b (lo n : Nat) : Nat := h / 2 ^ lo % 2 ^ n
  let lane (i : Nat) : Word :=
    if i < 12 then BitVec.ofNat 32 (h / 2 ^ (128 + 32 * i))
    else BitVec.ofNat 32 ((fs.getD (1 + (i - 12) / 16) 0).toNat / 2 ^ (32 * ((i - 12) % 16)))
  { rsv := b 127 1 == 1, dcore := BitVec.ofNat 17 (b 110 17), dnode := BitVec.ofNat 12 (b 98 12), dport := b 97 1 == 1,
    act := BitVec.ofNat 3 (b 94 3), vc := BitVec.ofNat 3 (b 91 3), tc := BitVec.ofNat 2 (b 89 2), mark := BitVec.ofNat 2 (b 81 2),
    eosl := BitVec.ofNat 4 (b 77 4), poison := b 76 1 == 1, asid := BitVec.ofNat 12 (b 64 12), tag := BitVec.ofNat 64 h,
    lanes := (List.range (b 83 6)).map lane }

/-- MINLANES as it acts (18 Table 7). -/
def OptPort.minl (p : OptPort) : Nat := if p.minlanes = 0 then 1 else Nat.min 14 p.minlanes.toNat

/-- Lanes of a port that meet a test. -/
def OptPort.lanesIn (p : OptPort) (t : LaneSt → Bool) : List Nat := (List.range 14).filter (fun l => t (p.lane l))

/-- Lanes that carry their part of each stripe, ranked (18 R429). -/
def OptPort.members (p : OptPort) : List Nat := p.lanesIn (·.joined)

/-- Credits of a VC. -/
def OptPort.credit (p : OptPort) (vc : Nat) : Nat := SMap.get 0 p.credits vc

/-- The mesh flits that are first on their VC and hold a credit, with their places, oldest first (18 R430). -/
def OptPort.heads (p : OptPort) : List (PortFlit × Nat) :=
  p.egress.zipIdx.filter (fun e => !(p.egress.take e.2).any (fun g => g.vc == e.1.vc) && decide (0 < p.credit e.1.vc))

/-- Of the flits of class TC1 or TC2 that may go, that of the VC next in the round robin. -/
def OptPort.nextMid (p : OptPort) (hs : List (PortFlit × Nat)) : Option (PortFlit × Nat) :=
  (List.range 8).findSome? (fun i => hs.find? (fun e => (e.1.tc == 1 || e.1.tc == 2) && e.1.vc == (p.sched.rr + 1 + i) % 8))

/-- The mesh flit that goes next, the port being one output (18 R430; 06 R147): one of TC0, unless TC0 took 3 of the last 4 turns while
another class waited; else one of TC3 that has waited 15 turns; else of TC1 and TC2 in turn over the VCs; else one of TC3. -/
def OptPort.nextFlit (p : OptPort) : Option Nat :=
  let hs := p.heads
  let first (t : PortFlit × Nat → Bool) : Option (PortFlit × Nat) := hs.find? t
  let tc0 := first (fun e => e.1.tc == 0)
  let yields := decide (3 ≤ p.sched.hist.countP (·)) && hs.any (fun e => e.1.tc != 0)
  ((if yields then none else tc0) <|> first (fun e => e.1.tc == 3 && decide (15 ≤ SMap.get 0 p.sched.wait e.1.vc)) <|> p.nextMid hs <|>
    first (fun e => e.1.tc == 3) <|> tc0).map (·.2)

/-- The arbitration after a mesh flit is granted (06 R147). -/
def OptPort.granted (p : OptPort) (f : PortFlit) : Sched :=
  let hs := p.heads
  let waits (v : Nat) : Bool := v != f.vc && hs.any (fun e => e.1.vc == v && e.1.tc == 3)
  { hist := ((f.tc == 0 && hs.any (fun e => e.1.tc != 0)) :: p.sched.hist).take 4
    rr := if f.tc = 1 ∨ f.tc = 2 then f.vc else p.sched.rr
    wait := (List.range 8).map (fun v => (v, if waits v then SMap.get 0 p.sched.wait v + 1 else 0)) }

/-- Take at most `n` mesh flits for a stripe: those to be resent first, then as R430 gives. -/
def OptPort.takeFlits (n : Nat) (p : OptPort) : List PortFlit × OptPort :=
  match n with
  | 0 => ([], p)
  | n + 1 =>
    match p.again with
    | f :: r =>
      let t := OptPort.takeFlits n { p with again := r }
      (f :: t.1, t.2)
    | [] =>
      match p.nextFlit with
      | none => ([], p)
      | some i =>
        match p.egress[i]? with
        | none => ([], p)
        | some f =>
          let t := OptPort.takeFlits n { p with egress := listDrop p.egress i, credits := SMap.ins p.credits f.vc (p.credit f.vc - 1), sched := p.granted f }
          (f :: t.1, t.2)

/-- The two slots of a mesh flit, H = 0 and then H = 1, with its token's number (18 R429). -/
def PortFlit.slots (f : PortFlit) : List (Nat × LinkSlot) :=
  [(f.id, { vc := BitVec.ofNat 3 f.vc, half := false, bits := f.bits.extractLsb' 0 256 }),
   (f.id, { vc := BitVec.ofNat 3 f.vc, half := true, bits := f.bits.extractLsb' 256 256 })]

/-- The credits that the next control flit returns: four bits each. -/
def OptPort.credOut (p : OptPort) : List Nat := (List.range 6).map (fun v => Nat.min 15 (SMap.get 0 p.freed v))

/-- No credits. -/
def noCred : List Nat := List.replicate 6 0

/-- The frame of lane `l`, of rank `r` among `a`, in a stripe (18 R428, R429). The lane of control messages and credits is
`ctl`. -/
def OptPort.frame (p : OptPort) (a : Nat) (slots : List (Nat × LinkSlot)) (ctl r l : Nat) : LinkFrame :=
  let x := p.lane l
  let m := if l = ctl then p.lcms.head? else none
  { fseq := p.txs, ack := x.ackd, nak := if x.nakDue then x.nak else none,
    slots := (List.range 9).map (fun j => (slots[j * a + r]?).map (·.2)),
    cred := if l = ctl then p.credOut else noCred,
    lcmOp := BitVec.ofNat 4 (m.elim 0 (·.op)), lcmLane := BitVec.ofNat 4 (m.elim 0 (·.lane)),
    lcmWl := BitVec.ofNat 4 (m.elim 0 (·.wl)), lcmStripe := m.elim 0 (·.stripe) }

/-- Whether a port has something to send. -/
def OptPort.wants (p : OptPort) : Bool :=
  !p.lcms.isEmpty || p.ackDue || p.freed.any (fun e => decide (0 < e.2)) || p.members.any (fun l => (p.lane l).nakDue) ||
    (p.st == 2 && (!p.again.isEmpty || p.nextFlit.isSome))

/-- Send one stripe over the joined lanes (18 R429, R431): the port and the frames that leave on lanes that are ACTIVE. -/
def OptPort.stripe (p : OptPort) (ctl : Nat) : OptPort × List (Nat × LinkFrame) :=
  let ls := p.members
  let a := ls.length
  let t := if p.st = 2 then p.takeFlits (9 * a / 2) else ([], p)
  let slots := t.1.flatMap PortFlit.slots
  let fs := ls.zipIdx.map (fun e => (e.1, p.frame a slots ctl e.2 e.1))
  let p1 := fs.foldl (fun q e => q.updLane e.1 (fun x =>
    { x with buf := x.buf ++ [e.2], nakDue := x.nakDue && x.st != 3 })) t.2
  let back := p.credOut
  ({ p1 with txs := p.txs + 10, lcms := p.lcms.drop 1, ackDue := false,
             freed := (List.range 6).map (fun v => (v, SMap.get 0 p.freed v - back.getD v 0)),
             sent := p.sent ++ slots.zipIdx.map (fun e => (ls.getD (e.2 % a) 0, p.txs, e.1.1)) },
   fs.filter (fun e => (p.lane e.1).st == 3))

/-- Put frames into the fibre. -/
def State.transmit (s : State) (n : Nat) (fs : List (Nat × LinkFrame)) : State :=
  { s with outbox := s.outbox ++ fs.map (fun e => (16 * n + e.1, frameBits e.1 e.2)) }

/-- Send what a port can: at most 25 frames of a lane are unacknowledged (18 R431). -/
def State.pump (fuel : Nat) (s : State) (n : Nat) : State :=
  match fuel with
  | 0 => s
  | fuel + 1 =>
    let p := s.port n
    match p.members.find? (fun l => (p.lane l).st == 3) with
    | none => s
    | some ctl =>
      if p.wants ∧ p.members.all (fun l => decide ((p.lane l).buf.length < 25)) then
        let t := p.stripe ctl
        State.pump fuel ((s.updPort n (fun _ => t.1)).transmit n t.2) n
      else s

/-- Send what a port can. -/
def State.flushPort (s : State) (n : Nat) : State :=
  let p := s.port n
  s.pump (p.egress.length + p.again.length + p.lcms.length + 8) n

/-- Count tokens that a port drops. -/
def State.pdrop (s : State) (n k : Nat) : State := s.updPort n (fun p => { p with pdrop := satAdd p.pdrop k })

/-- A token that the port drops before it leaves (18 R427): the event is recorded at the logical core that sent it. -/
def State.dropEgress (s : State) (n : Nat) (fl : Flight) : State :=
  let s1 := s.pdrop n 1
  match fl.org with
  | none => s1
  | some (lc, w) =>
    s1.raiseEvent fl.tok.asid.toNat lc
      { cause := .unconfigured, detail := 0, tag := fl.tok.tag, node := w.toNat % 4096, port := w.getLsbD 12,
        opc := w.extractLsb' 16 10, a := none, b := none }

/-- Queue a token's mesh flits at a port. -/
def OptPort.queue (p : OptPort) (t : Token) : OptPort :=
  let fs := (tokFlits t).map (fun b => ({ id := p.tokNo, vc := t.vc.toNat, tc := t.tc.toNat, bits := b } : PortFlit))
  { p with egress := p.egress ++ fs, tokNo := p.tokNo + 1 }

/-- PORT_EGRESS (18 R427): the token at `k`, the oldest of its source on its channel, enters the port that its port map
entry names; its egress entry translates it, or it is dropped. -/
def execPortEgress (port k : Nat) (s : State) : Host.Outcome State Fault Refusal :=
  .next (match s.flight[k]? with
  | none => s
  | some fl =>
    match fl.dst with
    | .lcore _ _ => s
    | .wafer m =>
      if m / 1024 % 64 ≠ port ∨ !flightFirst s.flight k then s
      else
        let s1 := { s with flight := listDrop s.flight k }
        let p := s.port port
        let e := (s.word64 (p.egPa * 16384 + 16 * (m % 1024))).toNat
        if !p.egEn ∨ e % 2 = 0 ∨ e / 2 % 4096 ≠ fl.tok.asid.toNat ∨ 6 ≤ fl.tok.vc.toNat ∨ p.st ≠ 2 then s1.dropEgress port fl
        else
          let t := { fl.tok with asid := BitVec.ofNat 12 (e / 8192), dcore := BitVec.ofNat 17 (e / 33554432 % 65536) }
          (s1.updPort port (fun p => p.queue t)).flushPort port)

/-- Whether a token's tag names a meeting of its pitch (11 R280). -/
def Meeting.named (m : Meeting) (t : Token) : Bool := m.asid == t.asid.toNat && (t.tag &&& m.w1) == (m.w0 &&& m.w1)

/-- The job of a contribution from another wafer, which brings no job of this one: its source is the port. -/
def remoteJob (n : Nat) (t : Token) : EJob :=
  { (default : EJob) with asid := t.asid.toNat, lc := 65536 + 1024 * n, opc := 0x308, tagOut := t.tag,
                          fire := { (default : Firing) with asid := t.asid.toNat, lc := 65536 + 1024 * n, tag := t.tag, a := t } }

/-- Meeting traffic from the fibre on VC2 reaches the home unit of the logical core that it names (18 R427): a contribution to the
meeting that its tag names; for a ring, the port is noted as the one that carries the member's link. No rule says where such a token
holds its member index, which is a free value (DESIGN CHOICE, log 16). -/
def State.meetIn (s : State) (n : Nat) (t : Token) : Option State :=
  let hf := s.homeUnit t.asid.toNat t.dcore.toNat
  let i := (Config.freeWord s.freeCtr).toNat % 1024
  let s1 := { s with freeCtr := s.freeCtr + 1 }
  if t.vc ≠ 2 then none
  else match (s.field hf).takes t.asid.toNat t.tag, (s.field hf).meet.find? (fun e => e.2.ring && e.2.named t) with
    | some _, _ =>
      let j := remoteJob n t
      let c : Contrib := { member := i, t := t.tag.toNat % 65536, delta := 0, lanes := t.lanes, poison := t.poison,
                           job := { j with prog := s.ahead j hf }, field := hf }
      some { s1 with contribs := s.contribs ++ [c] }
    | none, some (e, m) => some (s1.setMeeting hf e { m with links := m.links.filter (fun l => l.1 != i) ++ [(i, n)] })
    | none, none => none

/-- A token that arrives from the fibre enters the wafer, or is dropped where no pitch of its ASID holds its logical core
(18 R427). -/
def State.deliverPort (s : State) (n : Nat) (t : Token) : State :=
  match s.pitch? t.asid.toNat with
  | some p =>
    if t.dcore.toNat < p.n then
      (s.meetIn n t).getD (s.send (.port n) (.lcore t.asid.toNat t.dcore.toNat) t)
    else s.pdrop n 1
  | none => s.pdrop n 1

/-- A mesh flit consumed (18 R429, R430): its buffer is free again, and a token whose last flit it is goes on. -/
def State.flitIn (s : State) (n vc : Nat) (b : BitVec 512) : State :=
  let p := s.port n
  let mine := (p.flits.filter (fun e => e.1 == vc)).map (·.2) ++ [b]
  let need := flitsOf ((mine.headD 0).toNat / 2 ^ 83 % 64)
  let s1 := s.updPort n (fun p => { p with freed := SMap.ins p.freed vc (SMap.get 0 p.freed vc + 1) })
  if need ≤ mine.length then
    (s1.updPort n (fun p => { p with flits := p.flits.filter (fun e => e.1 != vc) })).deliverPort n (flitsTok mine)
  else s1.updPort n (fun p => { p with flits := p.flits ++ [(vc, b)] })

/-- A data slot consumed (18 R429): H = 0 is the low half of a mesh flit. -/
def State.slotIn (s : State) (n : Nat) (x : LinkSlot) : State :=
  if x.half then
    match (s.port n).half with
    | none => s
    | some lo => (s.updPort n (fun p => { p with half := none })).flitIn n x.vc.toNat (x.bits ++ lo.bits)
  else s.updPort n (fun p => { p with half := some x })

/-- The oldest stripe that a lane has yet to give (18 R429). -/
def LaneSt.oldest (x : LaneSt) : BitVec 12 := match x.rx with | f :: _ => f.fseq | [] => x.rxseq

/-- Consume stripes in stripe order while each lane of the oldest one has given its frame (18 R429). -/
def State.consume (fuel : Nat) (s : State) (n : Nat) : State :=
  match fuel with
  | 0 => s
  | fuel + 1 =>
    let p := s.port n
    let ls := p.members.filter (fun l => (p.lane l).oldest == p.rxc)
    if ls = [] ∨ ls.any (fun l => (p.lane l).rx.isEmpty) then s
    else
      let fs := ls.filterMap (fun l => (p.lane l).rx.head?)
      let slots := (List.range 9).flatMap (fun j => fs.filterMap (fun f => (f.slots.getD j none)))
      let s1 := slots.foldl (fun s x => s.slotIn n x) s
      let took (q : OptPort) (l : Nat) : OptPort := q.updLane l (fun x => { x with rx := x.rx.drop 1, ackd := some p.rxc })
      let s2 := s1.updPort n (fun q =>
        { ls.foldl took q with rxc := p.rxc + 10, ackDue := q.ackDue || !slots.isEmpty })
      State.consume fuel s2 n

/-- An ACK (18 R431): the lane's frames up to it are consumed. -/
def OptPort.acked (p : OptPort) (l : Nat) (q : BitVec 12) : OptPort :=
  match listIdx (fun (f : LinkFrame) => f.fseq == q) (p.lane l).buf with
  | none => p
  | some i =>
    let gone := ((p.lane l).buf.take (i + 1)).map (·.fseq)
    { p.updLane l (fun x => { x with buf := x.buf.drop (i + 1) }) with
        sent := p.sent.filter (fun e => !(e.1 == l && gone.contains e.2.1)) }

/-- A frame as it is sent again (18 R431): the same slots, and control fields that are current. CRED and LCM are what is then due: what the
frame carried before, which the peer may not have had, and what has come up since (DESIGN CHOICE, log 16). -/
def OptPort.frameAgain (p : OptPort) (l : Nat) (f : LinkFrame) : LinkFrame × OptPort :=
  let x := p.lane l
  let add (v : Nat) : Nat := Nat.min (15 - f.cred.getD v 0) (SMap.get 0 p.freed v)
  let m := if f.lcmOp = 0 then p.lcms.head? else none
  let g : LinkFrame :=
    { f with ack := x.ackd, nak := if x.nakDue then x.nak else none, cred := (List.range 6).map (fun v => f.cred.getD v 0 + add v),
             lcmOp := m.elim f.lcmOp (fun c => BitVec.ofNat 4 c.op), lcmLane := m.elim f.lcmLane (fun c => BitVec.ofNat 4 c.lane),
             lcmWl := m.elim f.lcmWl (fun c => BitVec.ofNat 4 c.wl), lcmStripe := m.elim f.lcmStripe (·.stripe) }
  (g, { p.updLane l (fun x => { x with nakDue := false }) with
          freed := (List.range 6).map (fun v => (v, SMap.get 0 p.freed v - add v)), lcms := if m.isSome then p.lcms.drop 1 else p.lcms })

/-- Frames of a lane as they are sent again, in order. -/
def OptPort.framesAgain (p : OptPort) (l : Nat) : List LinkFrame → List LinkFrame × OptPort
  | [] => ([], p)
  | f :: r =>
    let a := p.frameAgain l f
    let b := OptPort.framesAgain a.2 l r
    (a.1 :: b.1, b.2)

/-- Send a lane's frames from its `i`-th unacknowledged one on again; REPLAY counts (18 R431, R434). -/
def State.resend (s : State) (n l i : Nat) : State :=
  let p := s.port n
  let r := p.framesAgain l ((p.lane l).buf.drop i)
  (s.updPort n (fun _ => r.2.updLane l (fun x => { x with buf := x.buf.take i ++ r.1, replay := satInc x.replay }))).transmit n
    (r.1.map (fun f => (l, f)))

/-- A NAK from the peer (18 R431). -/
def State.nakIn (s : State) (n l : Nat) (q : BitVec 12) : State :=
  let x := (s.port n).lane l
  match listIdx (fun (f : LinkFrame) => f.fseq == q) x.buf with
  | none => s
  | some i => if x.st ≠ 3 then s else (s.resend n l i).flushPort n

/-- NAK_REPLAY (18 R431). -/
def execNakReplay (port lane seq : Nat) (s : State) : Host.Outcome State Fault Refusal :=
  .next (if lane < 14 then s.nakIn port lane (BitVec.ofNat 12 seq) else s)

/-- A discarded data slot (18 R435): a token is counted with the first of its slots. -/
def Discard.slot (d : Discard × Nat) (x : LinkSlot) : Discard × Nat :=
  let v := x.vc.toNat
  let r := SMap.get 0 d.1.rem v
  let need := if x.half then 1 else flitsOf (x.bits.toNat / 2 ^ 83 % 64)
  if x.half ∧ d.1.opn then ({ d.1 with opn := false }, d.2)
  else if r = 0 then ({ d.1 with opn := !x.half, rem := SMap.ins d.1.rem v (need - 1) }, d.2 + 1)
  else ({ d.1 with opn := !x.half, rem := SMap.ins d.1.rem v (r - 1) }, d.2)

/-- The data slots in use of some frames of one stripe, in stripe order (18 R429). -/
def stripeSlots (fs : List LinkFrame) : List LinkSlot := (List.range 9).flatMap (fun j => fs.filterMap (fun f => f.slots.getD j none))

/-- The frames held of a stripe, by lane. -/
def Discard.stripe (d : Discard) (q : BitVec 12) : List LinkFrame :=
  (List.range 14).filterMap (fun l => (d.frames.find? (fun e => e.1 == l && e.2.fseq == q)).map (·.2))

/-- Count the stripes whose frames have all been discarded, in stripe order. -/
def Discard.drain : Nat → Discard × Nat → Discard × Nat
  | 0, d => d
  | n + 1, d =>
    let q := d.1.next
    let fs := d.1.stripe q
    if d.1.lanes = [] ∨ fs.length < d.1.lanes.length then d
    else
      let e := (stripeSlots fs).foldl Discard.slot d
      Discard.drain n ({ e.1 with next := q + 10, frames := e.1.frames.filter (fun x => x.2.fseq != q) }, e.2)

/-- A frame that is discarded; one held or counted already is not counted again. -/
def Discard.take (d : Discard) (l : Nat) (f : LinkFrame) : Discard × Nat :=
  if 2048 ≤ (f.fseq - d.next).toNat ∨ d.frames.any (fun e => e.1 == l && e.2.fseq == f.fseq) then (d, 0)
  else Discard.drain 26 ({ d with frames := d.frames ++ [(l, f)] }, 0)

/-- The tokens of the frames still held, of stripes that never were whole: what the slots at hand show (DESIGN CHOICE, log 16). -/
def Discard.rest (d : Discard) : Nat :=
  ((List.range 205).foldl (fun e i => (stripeSlots (e.1.stripe (d.next + BitVec.ofNat 12 (10 * i)))).foldl Discard.slot e) (d, 0)).2

/-- A port that is not UP discards a frame, and counts the tokens that its slots carry (18 R435). -/
def State.discardFrame (s : State) (n l : Nat) (f : LinkFrame) : State :=
  let d := (s.port n).disc.take l f
  (s.updPort n (fun p => { p with disc := d.1 })).pdrop n d.2

/-- A port trains anew, or is UP: the tokens of the frames it still holds as discarded are counted. -/
def State.settle (s : State) (n : Nat) : State :=
  (s.pdrop n (s.port n).disc.rest).updPort n (fun p => { p with disc := Discard.init })

/-- What a port that goes DOWN has received and not consumed (18 R435), and how many tokens that carries. -/
def OptPort.unconsumed (p : OptPort) : Discard × Nat :=
  let vcs := (p.flits.map (·.1)).eraseDups
  let left (v : Nat) : Nat :=
    let mine := p.flits.filter (fun e => e.1 == v)
    flitsOf ((mine.headD (0, 0)).2.toNat / 2 ^ 83 % 64) - mine.length
  let d : Discard := { lanes := p.members, next := p.rxc, rem := vcs.map (fun v => (v, left v)), opn := false,
                       frames := p.members.flatMap (fun l => (p.lane l).rx.map (fun f => (l, f))) }
  Discard.drain 26 (p.half.toList.foldl Discard.slot (d, vcs.length))

/-- Tokens sent and not acknowledged, or waiting. -/
def OptPort.tokens (p : OptPort) : Nat := (p.sent.map (·.2.2) ++ p.egress.map (·.id) ++ p.again.map (·.id)).eraseDups.length

/-- Whether the ring page works: SERVICE mode and RPG.EN are in force (18 R438). -/
def OptPort.service (p : OptPort) : Bool := p.en && p.hmode && p.rpgEn

/-- Write the answer that a port owes its ring page (18 Table 5, R439): LMRESP, and GO is cleared. It waits while an engine owns a line
there (14 R361), and is dropped where the page is not in force. -/
def State.putResp (s : State) (n : Nat) : State :=
  let p := s.port n
  let pa := p.rpgPa * 4096
  match p.resp with
  | none => s
  | some (code, cseq) =>
    let s1 := s.updPort n (fun p => { p with resp := none })
    if !p.service then s1
    else if s.isOwned pa 512 then s
    else
      let req := natOfBytes (s.bytesAt (pa + 0x140) 4)
      (s1.writeRange 2 (pa + 0x148) (bytesOfNat 4 (code + 256 * (cseq % 256))) false).writeRange 2 (pa + 0x140)
        (bytesOfNat 4 (req % 2147483648)) false

/-- Answer a request of the ring page (18 Table 5, R439). -/
def State.lmResp (s : State) (n code cseq : Nat) : State := (s.updPort n (fun p => { p with resp := some (code, cseq) })).putResp n

/-- A move that the ring page asked for ends: the request is answered. -/
def State.answerAsked (s : State) (n l code : Nat) : State :=
  match (s.port n).asked with
  | none => s
  | some (k, cseq) => if k = l then (s.updPort n (fun p => { p with asked := none })).lmResp n code cseq else s

/-- A lane without its frames. -/
def LaneSt.clear (x : LaneSt) : LaneSt :=
  { x with joined := false, buf := [], rx := [], nak := none, nakDue := false, await := false, ackd := none, uncRun := 0, got := [] }

/-- The DEAD notices of a member of a ring whose link has gone down (11 R298, R299): to every other member. -/
def Meeting.deathOf (m : Meeting) (w : Walker) (d : Nat) : List RingCtl :=
  if w.dead.any (fun x => x.1 == d) then [] else ((List.range m.n).filter (· ≠ d)).map (fun i => { w.ctl i d with src := d })

/-- A port reports its link down to the meeting units (18 R435; 11 R298): the members whose link it carries are dead. -/
def State.linkLost (s : State) (n : Nat) : State :=
  let gone (m : Meeting) : List RingCtl :=
    if !m.ring then []
    else match s.walkersOf m with
      | [] => []
      | w :: r =>
        let v := r.foldl (fun b e => if b.isOlder e.2.2.epoch e.2.2.dead.length then e.2.2 else b) w.2.2
        (m.links.filter (fun l => l.2 == n)).flatMap (fun l => m.deathOf v l.1)
  { s with ringDead := s.ringDead ++ s.fields.flatMap (fun f => f.2.meet.flatMap (fun e => gone e.2)) }

/-- A port goes DOWN (18 R435): what it has not delivered is dropped and counted, and its link is reported down. A request of the ring page
whose move has not ended is answered BUSY (DESIGN CHOICE, log 16). -/
def State.goDown (s : State) (n : Nat) : State :=
  let p := s.port n
  let d := p.unconsumed
  let s0 := match p.asked with | some (l, _) => s.answerAsked n l 2 | none => s
  let s1 := s0.pdrop n (p.tokens + d.2)
  (s1.linkLost n).updPort n (fun p =>
    { (List.range 14).foldl (fun q l => q.updLane l LaneSt.clear) p with
        st := 0, downs := if p.downs = 0xFFFF then p.downs else p.downs + 1, linkDown := true, egress := [], again := [],
        sent := [], lcms := [], half := none, flits := [], freed := [], ackDue := false, sched := Sched.init, disc := d.1,
        downAt := s.portNow n })

/-- A port that has lost too many lanes sends DOWN and goes DOWN (18 R435). -/
def State.checkDown (s : State) (n : Nat) : State :=
  let p := s.port n
  if p.st = 2 ∧ (p.lanesIn (fun x => x.st == 3 || x.st == 4)).length < p.minl then
    ((s.updPort n (fun p => { p with lcms := [Lcm.mk 5 0 0 0] ++ p.lcms })).flushPort n).goDown n
  else s

/-- A port becomes UP when MINLANES lanes are ACTIVE (18 R435), with the peer's buffers free (18 R430). -/
def State.checkUp (s : State) (n : Nat) : State :=
  let p := s.port n
  if p.st = 1 ∧ p.minl ≤ (p.lanesIn (fun x => x.st == 3)).length then
    (s.settle n).updPort n (fun p => { p with st := 2, linkDown := false, credits := (List.range 6).map (fun v => (v, 64)) })
  else s

end Sys2Proof.Machine
end

