-- ==== Sys2Proof/Machine/Lanes.lean ====
section
/-! DEFINITION. Lanes of an optical port: their states, failover and retirement, and the frames that arrive (18 R425, R426,
R431, R433 to R435). -/
namespace Sys2Proof.Machine

/-- Whether a site reaches a wavelength (18 R425): 1,304.0 + 0.8·wl nm lies between its cold resonance and 5.0 nm above it;
in units of 0.1 pm, the resonance moves by 8 for each 0.01 °C. -/
def SiteSt.reaches (x : SiteSt) (wl : Nat) : Bool :=
  let r := 10 * x.r60 + 8 * ((x.temp : Int) - 6000)
  decide (r ≤ 8000 * (wl : Int)) && decide (8000 * (wl : Int) ≤ r + 50000)

/-- The code that brings a site's rings to a wavelength (18 R425, R436): 20·code/4,095 mW, each 0.25 nm, so 5.0 nm at 4,095; the code is
rounded down (DEDUCED, log 16: 22 Table 3 has 2,347 for 2,347.58). -/
def SiteSt.codeFor (x : SiteSt) (wl : Nat) : BitVec 12 :=
  let d := (8000 * (wl : Int) - (10 * x.r60 + 8 * ((x.temp : Int) - 6000))).toNat
  BitVec.ofNat 12 (Nat.min 4095 (4095 * d / 50000))

/-- LOCK of a site (18 R437): locked while its monitor reads at least LOCKTH; TIME is noted where lock is lost. -/
def SiteSt.relock (x : SiteSt) (lockth : BitVec 12) (now : Nat) : SiteSt :=
  let on := decide (lockth.toNat ≤ x.mon.toNat)
  { x with lock := on, lostAt := if x.lock && !on then now else x.lostAt }

/-- A monitor reading as its ADC gives it, and the lock it shows (18 R436, R437). -/
def SiteSt.read (x : SiteSt) (lockth : BitVec 12) (now mon : Nat) : SiteSt :=
  SiteSt.relock { x with mon := BitVec.ofNat 12 (Nat.min 4095 mon) } lockth now

/-- Whether a wavelength is free (18 R434). A RETIRED lane uses none. -/
def OptPort.wlFree (p : OptPort) (wl : Nat) : Bool :=
  (p.lanesIn (fun x => x.st != 5 && (x.wl.toNat == wl || (x.st == 4 && x.moveWl.toNat == wl)))).isEmpty

/-- Whether a site is free for a lane (18 R434): no lane uses it, it is not BAD, and no move of another lane is to it. -/
def OptPort.siteFree (p : OptPort) (l n : Nat) : Bool :=
  (List.range 14).all (fun k =>
    let x := p.lane k
    x.st == 5 || (x.site.toNat != n && (k == l || x.st != 4 || x.moveSite.toNat != n))) && !(p.sitest n).bad

/-- The lowest spare site that is free for a lane and reaches a wavelength (18 R434). -/
def OptPort.spareSite (p : OptPort) (l wl : Nat) : Option Nat := [14, 15].find? (fun n => p.siteFree l n && (p.sitest n).reaches wl)

/-- The site on which a lane takes a wavelength: its own where that reaches it and is not BAD, else a spare (18 R434). -/
def OptPort.siteFor (p : OptPort) (l wl : Nat) : Option Nat :=
  let own := (p.lane l).site.toNat
  if (p.sitest own).reaches wl ∧ !(p.sitest own).bad then some own else p.spareSite l wl

/-- The first target of a lane that fails over (18 R434): wavelength and site. -/
def OptPort.target (p : OptPort) (l : Nat) (ring : Bool) : Option (Nat × Nat) :=
  let wl := (p.lane l).wl.toNat
  match (if ring then p.spareSite l wl else none) with
  | some n => some (wl, n)
  | none =>
    match [14, 15].find? p.wlFree with
    | none => none
    | some w => (p.siteFor l w).map (fun n => (w, n))

/-- The site that a lane's move holds is held no more. -/
def OptPort.letGo (p : OptPort) (l : Nat) : OptPort :=
  if (p.lane l).st = 4 then p.updSite (p.lane l).moveSite.toNat (fun y => { y with held := false }) else p

/-- A lane starts a move to a target: the site is held by the failover and tuned to the wavelength (18 R434, R436, Table 5). -/
def OptPort.startMove (p : OptPort) (l wl site : Nat) (await : Bool) : OptPort :=
  ((p.letGo l).updLane l (fun x => { x with st := 4, moveWl := BitVec.ofNat 4 wl, moveSite := BitVec.ofNat 4 site, await := await })).updSite
    site (fun x => { x with held := true, code := x.codeFor wl })

/-- The furthest FSEQ that a joined lane is to receive next: where a lane that joins begins. -/
def OptPort.joinAt (p : OptPort) : BitVec 12 :=
  p.members.foldl (fun a l => if (a - p.rxc).toNat < ((p.lane l).rxseq - p.rxc).toNat then (p.lane l).rxseq else a) p.rxc

/-- A lane is ACTIVE (18 R433): one that returns sends its unacknowledged frames again (R434), another joins. -/
def State.activate (s : State) (n l : Nat) : State :=
  let p := s.port n
  let x := p.lane l
  let s1 := s.updPort n (fun p => p.updLane l (fun x =>
    { x with st := 3, joined := true, rxseq := if x.joined then x.rxseq else p.joinAt }))
  ((if x.joined then s1.resend n l 0 else s1).checkUp n).flushPort n

/-- A move is complete (18 R434); where the ring page asked for it, that is answered (R439). -/
def State.land (s : State) (n l : Nat) : State :=
  let x := (s.port n).lane l
  let s1 := (s.answerAsked n l 1).updPort n (fun p =>
    (p.updLane l (fun x => { x with wl := x.moveWl, site := x.moveSite, await := false,
                                    moves := if x.moves = 0xFFFF then x.moves else x.moves + 1 })).updSite
      x.moveSite.toNat (fun y => { y with held := false }))
  s1.activate n l

/-- A lane is RETIRED (18 R434, R435): the frames held from the oldest stripe not wholly consumed are discarded, RESTRIPE
names that stripe to the peer, and the port may go DOWN. A request of the ring page for its move is answered 6 (DESIGN CHOICE, log 16). -/
def State.retireLane (s : State) (n l : Nat) : State :=
  let away (x : LaneSt) : LaneSt := { x with st := 5, joined := false, await := false, rx := [] }
  let drop (rxc : BitVec 12) (q : OptPort) (k : Nat) : OptPort :=
    q.updLane k (fun x => { x with rx := [], rxseq := rxc, nak := none, nakDue := false, got := [] })
  let s1 := (s.answerAsked n l 6).updPort n (fun p =>
    let q := (p.letGo l).updLane l away
    { q.members.foldl (drop p.rxc) q with lcms := q.lcms ++ [Lcm.mk 4 l 0 p.rxc] })
  (s1.checkDown n).flushPort n

/-- A lane fails over (18 R433, R434). -/
def State.failLane (s : State) (n l : Nat) (ring : Bool) : State :=
  let s1 := if ring then s.updPort n (fun p => p.updSite (p.lane l).site.toNat (fun y => { y with bad := true })) else s
  let p := s1.port n
  match p.target l ring with
  | none => s1.retireLane n l
  | some (wl, site) =>
    let peer := decide (wl ≠ (p.lane l).wl.toNat)
    (s1.updPort n (fun p =>
      let q := p.startMove l wl site peer
      if peer then { q with lcms := q.lcms ++ [Lcm.mk 1 l wl 0] } else q)).flushPort n

/-- LANE_TUNE_DONE (18 R433, R434, R437), with the monitor reading of the site that is tuned: a lane in TUNE whose site locks goes to
TRAIN, and fails over where it has not locked in 50 µs; one in FAILOVER that waits for no answer of the peer is ACTIVE at its target once
that site locks. -/
def execLaneTuneDone (port lane mon : Nat) (s : State) : Host.Outcome State Fault Refusal :=
  let x := (s.port port).lane lane
  let tuned (site : BitVec 4) : State := s.updPort port (fun p => p.updSite site.toNat (fun y => y.read p.lockth (s.portNow port) mon))
  let lock := decide ((s.port port).lockth.toNat ≤ Nat.min 4095 mon)
  .next (if 14 ≤ lane then s
  else if x.st = 1 then
    (if lock then (tuned x.site).updPort port (fun p => p.updLane lane (fun x => { x with st := 2 }))
     else if x.since + 50000 ≤ s.portNow port then (tuned x.site).failLane port lane true
     else tuned x.site)
  else if x.st = 4 ∧ !x.await then (if lock then (tuned x.moveSite).land port lane else tuned x.moveSite)
  else s)

/-- LANE_TRAIN_DONE (18 R433): both ends are deskewed and have agreed on FSEQ. -/
def execLaneTrainDone (port lane : Nat) (s : State) : Host.Outcome State Fault Refusal :=
  .next (if lane < 14 ∧ ((s.port port).lane lane).st = 2 then s.activate port lane else s)

/-- LOW of a line (18 Table 6): below LINEMIN at the module's last update. -/
def Laser.low (x : Laser) (k : Nat) : Bool := x.past.contains (3 + k)

/-- Whether a lane has a BER fault (18 R426, R434): more than BERTH corrected symbols within 100 ms, or its line LOW. -/
def State.berBad (s : State) (n l : Nat) : Bool :=
  let p := s.port n
  let x := p.lane l
  decide (p.berth.toNat < (x.recent.map (·.2)).sum) || (SMap.get Laser.init s.lasers (n / 4)).low x.wl.toNat

/-- BER_FAULT (18 R434). -/
def execBerFault (port lane : Nat) (s : State) : Host.Outcome State Fault Refusal :=
  .next (if lane < 14 ∧ ((s.port port).lane lane).st = 3 ∧ s.berBad port lane then
    (s.updPort port (fun p => p.updLane lane (fun x => { x with recent := [] }))).failLane port lane false
  else s)

/-- The peer's MOVE (18 R434): the port picks its own site and answers MOVEACK; where it has none it answers MOVENAK, and the
lane is RETIRED. Where it crosses a move that the ring page asked for, the peer's move is made, and the request is answered: done where the
wavelength is the one asked for, else busy (DESIGN CHOICE, log 16). -/
def State.moveIn (s : State) (n l wl : Nat) : State :=
  let p := s.port n
  let x := p.lane l
  if 14 ≤ l ∨ !(x.st == 3 || x.st == 4) then s
  else
    let ok := p.wlFree wl || x.wl.toNat == wl || (x.st == 4 && x.moveWl.toNat == wl)
    let s := if x.st == 4 && x.moveWl.toNat == wl then s else s.answerAsked n l 2
    match (if ok then p.siteFor l wl else none) with
    | some site =>
      (s.updPort n (fun p => let q := p.startMove l wl site false; { q with lcms := q.lcms ++ [Lcm.mk 2 l wl 0] })).flushPort n
    | none => ((s.answerAsked n l 2).updPort n (fun p => { p with lcms := p.lcms ++ [Lcm.mk 3 l wl 0] })).retireLane n l

/-- MOVE (18 R434). -/
def execMove (port lane wl : Nat) (s : State) : Host.Outcome State Fault Refusal := .next (s.moveIn port lane wl)

/-- The peer's MOVEACK (18 R434): the lane is ACTIVE at its target once the rings are tuned. -/
def State.moveAck (s : State) (n l : Nat) : State :=
  if l < 14 ∧ ((s.port n).lane l).st = 4 then s.updPort n (fun p => p.updLane l (fun x => { x with await := false })) else s

/-- MOVEACK (18 R434). -/
def execMoveack (port lane : Nat) (s : State) : Host.Outcome State Fault Refusal := .next (s.moveAck port lane)

/-- The peer's MOVENAK (18 R434): the lane is RETIRED; one whose move was asked for stays where it is (R439). -/
def State.moveNak (s : State) (n l : Nat) : State :=
  let p := s.port n
  let x := p.lane l
  if l < 14 ∧ x.st = 4 ∧ x.await then
    (if p.asked.any (fun a => a.1 == l) then
      ((s.answerAsked n l 5).updPort n (fun p =>
        ((p.letGo l).updLane l (fun x => { x with st := 3, await := false })).updSite x.site.toNat (fun y =>
          if x.moveSite = x.site then { y with code := y.codeFor x.wl.toNat } else y))).flushPort n
     else s.retireLane n l)
  else s

/-- MOVENAK (18 R434). -/
def execMovenak (port lane : Nat) (s : State) : Host.Outcome State Fault Refusal := .next (s.moveNak port lane)

/-- The slots in use of the frames from a stripe on, in stripe order (18 R429, R435). -/
def OptPort.slotsFrom (p : OptPort) (stripe : BitVec 12) : List LinkSlot :=
  let at_ (q : BitVec 12) : List LinkFrame := (List.range 14).filterMap (fun l => (p.lane l).buf.find? (fun f => f.fseq == q))
  (List.range ((p.txs - stripe).toNat / 10)).flatMap (fun i =>
    let fs := at_ (stripe + BitVec.ofNat 12 (10 * i))
    (List.range 9).flatMap (fun j => fs.filterMap (fun f => f.slots.getD j none)))

/-- Mesh flits from pairs of slots, with their tokens' numbers. -/
def pairSlots : List LinkSlot → List Nat → List PortFlit
  | a :: b :: r, i :: _ :: ids => { id := i, vc := a.vc.toNat, tc := 0, bits := b.bits ++ a.bits } :: pairSlots r ids
  | _, _ => []

/-- The sender's part of a RESTRIPE (18 R435): the data of the stripes from the one named is sent again, in stripe order, over
the lanes that remain; the credits and messages that the RETIRED lane's frames carried go out again (DESIGN CHOICE, log 16). -/
def State.restripeOut (s : State) (n : Nat) (stripe : BitVec 12) : State :=
  (s.updPort n (fun p =>
    if 250 < (p.txs - stripe).toNat then p
    else
      let late (e : Nat × BitVec 12 × Nat) : Bool := decide ((e.2.1 - stripe).toNat < (p.txs - stripe).toNat)
      let ids := (p.sent.filter late).map (·.2.2)
      let lost := ((List.range 14).filter (fun l => (p.lane l).st == 5)).flatMap (fun l => (p.lane l).buf)
      let owed := (List.range 6).map (fun v => (v, SMap.get 0 p.freed v + (lost.map (fun f => f.cred.getD v 0)).sum))
      let msgs := (lost.filter (fun f => f.lcmOp != 0)).map (fun f => Lcm.mk f.lcmOp.toNat f.lcmLane.toNat f.lcmWl.toNat f.lcmStripe)
      let q := (List.range 14).foldl (fun q l => q.updLane l (fun x => { x with buf := [] })) { p with freed := owed, lcms := msgs ++ p.lcms }
      { q with again := pairSlots (p.slotsFrom stripe) ids ++ p.again, sent := [], txs := stripe })).flushPort n

/-- The peer's RESTRIPE (18 R435): the lane is RETIRED here too, and the stripes that the peer did not consume go again. -/
def State.restripe (s : State) (n l : Nat) (stripe : BitVec 12) : State :=
  let st := ((s.port n).lane l).st
  (if l < 14 ∧ st ≠ 0 ∧ st ≠ 5 then s.retireLane n l else s).restripeOut n stripe

/-- RESTRIPE (18 R435). -/
def execRestripe (port lane stripe : Nat) (s : State) : Host.Outcome State Fault Refusal :=
  .next (s.restripe port lane (BitVec.ofNat 12 stripe))

/-- DOWN (18 R435): the peer's DOWN, or the loss of lanes, takes the port down. -/
def execDown (port : Nat) (s : State) : Host.Outcome State Fault Refusal :=
  .next (if (s.port port).st = 0 then s else s.goDown port)

/-- PORT_RETRAIN (18 R435): after 1 ms a DOWN port trains every lane that is not RETIRED; no failover owns a site then. -/
def execPortRetrain (port : Nat) (s : State) : Host.Outcome State Fault Refusal :=
  let p := s.port port
  let now := s.portNow port
  .next (if p.en ∧ p.st = 0 ∧ p.downAt + 1000000 ≤ now then
    (s.settle port).updPort port (fun p =>
      let q := (p.lanesIn (fun x => x.st != 5)).foldl (fun q l => q.updLane l (fun x => { x with st := 1, rxseq := 0, since := now })) p
      { (List.range 16).foldl (fun q i => q.updSite i (fun x => { x with held := false })) q with st := 1, txs := 0, rxc := 0 })
  else s)

/-- A lane control message of a frame (18 Table 3). -/
def State.lcmIn (s : State) (n : Nat) (f : LinkFrame) : State :=
  let l := f.lcmLane.toNat
  match f.lcmOp.toNat with
  | 1 => s.moveIn n l f.lcmWl.toNat
  | 2 => s.moveAck n l
  | 3 => s.moveNak n l
  | 4 => s.restripe n l f.lcmStripe
  | 5 => if (s.port n).st = 0 then s else s.goDown n
  | _ => s

/-- A frame that cannot be corrected (18 R431, Table 4): it is counted and a NAK asks for it; the sixteenth in a row takes
the lane to TRAIN. -/
def State.badFrame (s : State) (n l : Nat) : State :=
  let s1 := s.updPort n (fun p => p.updLane l (fun x =>
    { x with unc := satInc x.unc, uncRun := if 15 ≤ x.uncRun then 0 else x.uncRun + 1, st := if 15 ≤ x.uncRun then 2 else x.st,
             nak := some x.rxseq, nakDue := true }))
  (s1.checkDown n).flushPort n

/-- What of a frame's CRED and LCM a lane has not had: a frame received again gives what its earlier copies did not (DESIGN CHOICE, log
16). -/
def LaneSt.newCtl (x : LaneSt) (f : LinkFrame) (inTurn : Bool) : List Nat × Bool :=
  match x.got.find? (fun e => e.1 == f.fseq) with
  | some (_, c, m) => ((List.range 6).map (fun v => f.cred.getD v 0 - c.getD v 0), f.lcmOp != 0 && !m)
  | none => if inTurn then (f.cred, f.lcmOp != 0) else ([], false)

/-- The control fields of a frame that its lane does not discard, but its message (18 R428, R430, R431): a port holds 64 buffers of a VC,
and so its peer never more credits. -/
def State.ctlIn (s : State) (n l : Nat) (f : LinkFrame) (inTurn : Bool) : State :=
  let x := (s.port n).lane l
  let c := x.newCtl f inTurn
  let old := (x.got.find? (fun e => e.1 == f.fseq)).elim ([], false) (·.2)
  let mine : BitVec 12 × List Nat × Bool := (f.fseq, (List.range 6).map (fun v => old.1.getD v 0 + c.1.getD v 0), old.2 || c.2)
  let give (p : OptPort) : OptPort :=
    { p with credits := (List.range 6).map (fun v => (v, Nat.min 64 (p.credit v + c.1.getD v 0))) }
  let s1 := s.updPort n (fun p => give ((match f.ack with | some q => p.acked l q | none => p).updLane l (fun x =>
    { x with got := (mine :: x.got.filter (fun e => e.1 != f.fseq)).take 25 })))
  match f.nak with
  | some q => s1.nakIn n l q
  | none => s1

/-- A frame that decodes (18 R429, R431): in its turn it is held to be consumed; of one received before only the control fields count; any
other asks for the frame expected, once, and is discarded. -/
def State.goodFrame (s : State) (n l corr : Nat) (f : LinkFrame) : State :=
  let now := s.portNow n
  let x := (s.port n).lane l
  let inTurn := f.fseq == x.rxseq
  let again := !inTurn && decide ((x.rxseq - f.fseq).toNat ≤ 250)
  let msg := (x.newCtl f inTurn).2
  let seen (x : LaneSt) : LaneSt :=
    let y := { x with uncRun := 0, corr := satAdd x.corr corr,
                      recent := (x.recent.filter (fun e => decide (now ≤ e.1 + 100000000))) ++ (if corr = 0 then [] else [(now, corr)]) }
    if inTurn then { y with rx := x.rx ++ [f], rxseq := x.rxseq + 10, nak := none, nakDue := false }
    else if again then y
    else { y with nak := some (x.nak.getD x.rxseq), nakDue := x.nakDue || x.nak.isNone }
  let s1 := s.updPort n (fun p => p.updLane l seen)
  if inTurn ∨ again then
    let s2 := (s1.ctlIn n l f inTurn).consume 26 n
    (if msg then s2.lcmIn n f else s2).flushPort n
  else s1.flushPort n

/-- FRAME_RECEIVE (18 R428 to R431, R435): a frame of a lane with `corr` corrected symbols, or one that cannot be corrected.
A port that is not UP discards it. -/
def execFrameReceive (port lane corr : Nat) (f : Option (BitVec 2570)) (s : State) : Host.Outcome State Fault Refusal :=
  let p := s.port port
  .next (if 14 ≤ lane then s
  else if p.st ≠ 2 then (match f with | some b => s.discardFrame port lane (readFrame b) | none => s)
  else if (p.lane lane).st ≠ 3 then s
  else match f with
    | none => s.badFrame port lane
    | some b => s.goodFrame port lane corr (readFrame b))

end Sys2Proof.Machine
end

