-- ==== Sys2Proof/Machine/Launch.lean ====
section
/-! DEFINITION. Launch queues, the intake of launches, and the start of a configured pitch (06 R162 to R166; 01 R22, R23;
17 R405, R406). -/
namespace Sys2Proof.Machine

/-- Write LQ_PROD of a queue (06 R162): a value more than 2^N ahead of CONS disables the queue. -/
def LQueue.setProd (l : LQueue) (v : BitVec 16) : LQueue :=
  if 2 ^ l.log2n.toNat < (v - l.cons).toNat then { l with prod := v, en := false } else { l with prod := v }

/-- A host's write of LQ_PROD (06 R162): one to a queue whose producer is the device is ignored and counted. -/
def State.writeProd (s : State) (port q val : Nat) : State :=
  if (s.lqueue q).dev then s.deny port else s.updLQ q (fun l => l.setProd (BitVec.ofNat 16 val))

/-- DOORBELL (17 R406): a write of DB on page `q` of a port by the function that QFN names; any other is ignored. -/
def execDoorbell (port fn q val : Nat) (s : State) : Host.Outcome State Fault Refusal :=
  .next (if port < 2 ∧ q < 16 ∧ (SMap.get 0 (s.pcieBlk port).qfn q).toNat = fn then s.writeProd port (16 * port + q) val else s)

/-- LQ_PROD_WRITE (06 R162, R163; 17 R408): a host writes the queue registers of its own port. -/
def execLqProdWrite (port q val : Nat) (s : State) : Host.Outcome State Fault Refusal :=
  .next (if q / 16 = port ∧ q < 32 then s.writeProd port q val else s)

/-- A little-endian field of a launch record. -/
def recField (r : List Byte) (off n : Nat) : Nat := natOfBytes ((r.drop off).take n)

/-- A launch record (06 Table 8). -/
def Launch.parse (r : List Byte) (queue index age : Nat) : Launch :=
  let sched := recField r 0x10 4
  let shape := recField r 0x0C 4
  { queue := queue, index := index, age := age, prio := sched % 8, bypass := sched / 256 % 256, asid := sched / 65536 % 4096,
    cfg := recField r 0 8, cfgLen := recField r 8 4, w := shape % 256, h := shape / 256 % 256, rot := decide (shape / 65536 % 2 = 1),
    wdog := recField r 0x14 4, compl := recField r 0x18 8, evring := recField r 0x20 8, evcount := recField r 0x28 4,
    bind := (List.range (recField r 0x2C 4 % 32)).map (fun i => BitVec.ofNat 64 (recField r (0x40 + 8 * i) 8)),
    parent := BitVec.ofNat 64 (recField r 0xC0 8) }

/-- Whether EVCOUNT is 0 or a power of two from 16 to 65,536 (06 Table 8). -/
def evCountOk (n : Nat) : Bool := n == 0 || (List.range 13).any (fun i => n == 2 ^ (i + 4))

/-- Whether a record has a reserved bit set, or a field outside its limits (06 R166, Table 8). -/
def recordBad (r : List Byte) (l : Launch) : Bool :=
  decide (recField r 0x0C 4 / 131072 ≠ 0) || decide (l.w = 0) || decide (128 < l.w) || decide (l.h = 0) || decide (64 < l.h) ||
    decide (recField r 0x10 4 / 8 % 32 ≠ 0) || decide (recField r 0x10 4 / 268435456 ≠ 0) || decide (16 < recField r 0x2C 4) ||
    !evCountOk l.evcount || decide (l.compl % 64 ≠ 0) || decide (l.evring % 64 ≠ 0) || (r.drop 0x30).take 16 != List.replicate 16 0 ||
    decide (536870912 ≤ l.parent.toNat) || (r.drop 0xC8).take 56 != List.replicate 56 0

/-- Whether `n` bytes of an address space are mapped (06 R165). -/
def State.vreadable (s : State) (fi asid va n : Nat) : Bool :=
  (List.range ((va % 4096 + n + 4095) / 4096)).all (fun i =>
    match s.translate fi asid (if i = 0 then va else va - va % 4096 + 4096 * i) false true true with
    | .ok _ => true
    | .error _ => false)

/-- Whether a range of a launch's address space passes a test of its pages. -/
def rangeOk (va : Nat) (test : Nat → Bool) : Bool := match launchVa va with | some v => test v | none => false

/-- Whether the function that owns a queue may launch into an address space (17 R406, Table 2). -/
def State.fnAllows (s : State) (q asid : Nat) : Bool :=
  let b := s.pcieBlk (q / 16)
  let f := (SMap.get 0 b.qfn (q % 16)).toNat
  let e := SMap.get (FnEntry.init f) b.fn f
  e.en && decide (e.asidLo.toNat ≤ asid) && decide (asid ≤ e.asidHi.toNat)

/-- Whether a launch would fit on a wafer with no pitch running (06 R166). A held field is held for a time only. -/
def State.everFits (s : State) (l : Launch) (o : GraphObj) : Bool :=
  let ff (e : Nat × Field) : Nat × Field := (e.1, { e.2 with hold := false })
  (({ s with fields := s.fields.map ff }).place (fun _ => true) l o []).isSome

/-- The checks of an intake, in order: the end that it comes to, the report of its rejection, or the graph object to be admitted
(06 R165, R166; 17 R406; 02 R57). COMPL has been found writable. -/
def State.intakeCheck (s : State) (l : Launch) (r : List Byte) (obj : Option GraphObj) : Except (EndRec ⊕ Report57) GraphObj :=
  let bad (d : Diag) : EndRec ⊕ Report57 := .inr { diag := d, kernel := none, index := 0 }
  if !rangeOk l.cfg (fun v => s.vreadable s.bootField l.asid v l.cfgLen) then .error (bad .object)
  else if recordBad r l ∨ (l.evring ≠ 0 ∧ !rangeOk l.evring (fun v => s.vwritable s.bootField l.asid v (64 * l.evcount))) ∨
      !s.fnAllows l.queue l.asid ∨ (s.pitch? l.asid).isSome then .error (bad .reserved)
  else
    match obj with
    | none => .error (bad .object)
    | some o =>
      if 8 * l.w * l.h < o.cores.length then .error (bad .object)
      else if !s.everFits l o then .error (.inl (EndRec.plain 5))
      else match o.diag (8 * l.w * l.h) (fun _ => false) with
        | some d => .error (.inr d)
        | none => .ok o

/-- Whether a queue holds an entry that the Booth can take (06 R162, Table 7). -/
def LQueue.offers (l : LQueue) : Bool := l.en && decide (4 ≤ l.log2n.toNat) && decide (l.log2n.toNat ≤ 12) && l.prod != l.cons

/-- The queue that the Booth takes its next entry from, round-robin over queue number (06 R166). -/
def State.nextQueue (s : State) : Option Nat :=
  ((List.range 32).map (fun i => (s.lastQ + 1 + i) % 32)).find? (fun q => (s.lqueue q).offers)

/-- The waiting-table entry of a launch. -/
def Launch.waitEntry (l : Launch) (o : GraphObj) : Waiting := { launch := l, count := 0, saved := false, obj := some o }

/-- LAUNCH_INTAKE (06 R165, R166): the Booth takes the next entry of queue `q`. `obj` is what the loader reads from the
object's bytes; none where they are no graph object. -/
def execLaunchIntake (q : Nat) (obj : Option GraphObj) (s : State) : Host.Outcome State Fault Refusal :=
  .next (if s.nextQueue ≠ some q ∨ 256 ≤ s.waiting.length ∨ !s.booted ∨ (s.field s.bootField).recovery ∨
      s.isOwned ((s.lqueue q).entry (s.lqueue q).cons.toNat) 256 then s
  else
    let lq := s.lqueue q
    let i := lq.cons.toNat
    let bs := s.bytesAt (lq.entry i) 256
    let s1 := { (s.noteRange (lq.entry i) 256).updLQ q (fun l => { l with cons := l.cons + 1 }) with
      lastQ := q, ageCtr := s.ageCtr + 1 }
    let l := Launch.parse bs q i s.ageCtr
    if !rangeOk l.compl (fun v => s1.vwritable s1.bootField l.asid v 64) then s1.launchBad q i
    else match s1.intakeCheck l bs obj with
      | .error (.inl e) => (s1.reject l e).boothScan
      | .error (.inr d) => (s1.rejectWith l d).boothScan
      | .ok o => State.boothScan { s1 with waiting := s1.waiting ++ [l.waitEntry o] })

/-- Install a meeting of the image at the unit of its owner's field, in the entry that the image names where it is free
(11 R280, R282). -/
def State.installImage (s : State) (asid : Nat) (c : MeetingCfg) : URes State :=
  let m0 := c.meeting asid
  let fi := s.homeUnit asid m0.owner
  let free := (s.field fi).freeEntries
  match (if free.contains c.entry then some c.entry else free.head?) with
  | none => .ok s
  | some e =>
    let m := s.startTimeout fi m0
    (s.setMeeting fi e m).writeMembers fi m

/-- Install the meetings of an image: a member table that meets a page with V = 0, or an owned line, stops it; one
whose table is on a page that cannot be resolved is not installed (11 R284). -/
def State.installImages (s : State) (asid : Nat) (bad : List Nat) : List MeetingCfg → Except (Option Nat) State
  | [] => .ok s
  | c :: r =>
    let drop : Except (Option Nat) State :=
      State.installImages (s.ownerTrap (c.meeting asid) .accessFault 0x41) asid bad r
    match s.installImage asid c with
    | .ok s1 => State.installImages s1 asid bad r
    | .page va => if bad.contains (va / 4096) then drop else .error (some va)
    | .wait => .error none
    | .fault => drop

/-- Write the bindings of a launch to the first bytes of the private window of colour 0 (06 R165; 13 R340). -/
def State.writeBinds (s : State) (asid : Nat) (l : Launch) : URes State :=
  s.unitWrite s.bootField false asid [] 0x1F0000000000000 (l.bind.flatMap (fun b => bytesOfNat 8 b.toNat)) false

/-- The start of a configured pitch (01 R23; 02 R65): its tokens go out in order, on VC0 (06 Table 1), and it runs. -/
def State.startPitch (s : State) (asid : Nat) (p : Pitch) : State :=
  let s1 := p.start.foldl (fun s t => s.send (.rc p.homeField) (.lcore asid t.dcore.toNat) { t with asid := BitVec.ofNat 12 asid, vc := 0 }) s
  s1.updPitch asid (fun p => { p with st := .running, start := [], lastFiring := (s1.field p.homeField).time.toNat })

/-- START_TOKEN_INJECTION (01 R23; 06 R165): the bindings are written, the image's meetings installed, and the initial and
start tokens sent. Bindings that cannot be written are reported. -/
def execStartTokenInjection (asid : Nat) (s : State) : Host.Outcome State Fault Refusal :=
  .next (match s.pitch? asid with
  | none => s
  | some p =>
    if p.st ≠ .loading then s
    else
      let page (va : Nat) : State := s.missAt s.bootField asid (va / 4096) (.meet s.bootField (131072 + asid))
      let go (s1 : State) : State :=
        match s1.installImages asid p.badPages p.image.meetings with
        | .error none => s
        | .error (some va) => page va
        | .ok s2 => s2.startPitch asid p
      let noBinds : State := go (s.launchBad p.launch.queue p.launch.index)
      match s.writeBinds asid p.launch with
      | .ok s1 => go s1
      | .page va => if p.badPages.contains (va / 4096) then noBinds else page va
      | .wait => s
      | .fault => noBinds)

end Sys2Proof.Machine
end

