-- ==== Sys2Proof/Machine/RingPage.lean ====
section
/-! DEFINITION. Heaters and monitors, the ring page, PCTL and the laser modules (18 R426, R433, R436 to R441). -/
namespace Sys2Proof.Machine

/-- LOCK_LOOP (18 R437): every 1 µs the port reads a site's monitor, and in AUTO mode dithers the code by ±1, with readings `lo` below it,
`mid` at it and `hi` above it, and moves it by one toward the larger; `temp` is the site's temperature in units of 0.01 °C. -/
def execLockLoop (port site lo mid hi temp : Nat) (s : State) : Host.Outcome State Fault Refusal :=
  let p := s.port port
  .next (if !p.en ∨ 16 ≤ site then s
  else
    let step (c : BitVec 12) : BitVec 12 :=
      if p.hmode then c else if lo < hi then (if c = 0xFFF then c else c + 1) else if hi < lo then (if c = 0 then c else c - 1) else c
    s.updPort port (fun p => p.updSite site (fun x => { x.read p.lockth (s.portNow port) mid with code := step x.code, temp := temp })))

/-- DACNOW of a site (18 Table 5). -/
def SiteSt.dacNow (x : SiteSt) : Nat :=
  x.code.toNat + 4096 * x.sat.toNat + 8192 * x.lock.toNat + 16384 * x.bad.toNat + 32768 * x.held.toNat

/-- The sample that a port writes (18 Table 5): STIME, MON, DACNOW and LANES at their offsets. -/
def OptPort.sample (p : OptPort) (time : DWord) : List (Nat × List Byte) :=
  [(0x008, bytesOfNat 8 time.toNat),
   (0x040, (List.range 16).flatMap (fun i => bytesOfNat 4 (p.sitest i).mon.toNat)),
   (0x080, (List.range 16).flatMap (fun i => bytesOfNat 4 (p.sitest i).dacNow)),
   (0x0C0, (List.range 14).flatMap (fun l =>
      let x := p.lane l
      bytesOfNat 4 (x.st.toNat + 8 * x.wl.toNat + 128 * x.site.toNat)))]

/-- RING_PAGE_SAMPLE (18 R438): the monitors are read, with the sites' temperatures; the sample is written, and then SSEQ as a
release. A line that an engine owns holds the write (14 R361). -/
def execRingPageSample (port : Nat) (mon temp : List Nat) (s : State) : Host.Outcome State Fault Refusal :=
  let p := s.port port
  let pa := p.rpgPa * 4096
  .next (if !p.service ∨ s.isOwned pa 256 then s
  else
    let read (p : OptPort) (i : Nat) : OptPort :=
      p.updSite i (fun x => { x.read p.lockth (s.portNow port) (mon.getD i 0) with temp := temp.getD i x.temp })
    let q := (List.range 16).foldl read p
    let s1 := s.updPort port (fun _ => q)
    let s2 := (q.sample (s.field (portField port)).time).foldl (fun s e => s.writeRange 3 (pa + e.1) e.2 false) s1
    s2.writeRange 2 pa (bytesOfNat 8 ((s2.word64 pa).toNat + 1)) false)

/-- Apply DACSET to a site (18 R439): clamped, and not while a failover holds the site. -/
def OptPort.applyDac (p : OptPort) (i : Nat) (v : Int) : OptPort :=
  if (p.sitest i).held then p
  else
    let out := decide (v < 0) || decide (4095 < v)
    let c := if v < 0 then 0 else if 4095 < v then 4095 else v.toNat
    { p.updSite i (fun x => { x with code := BitVec.ofNat 12 c, sat := out }) with satcnt := if out then satInc p.satcnt else p.satcnt }

/-- LMREQ (18 R439): the code of LMRESP that answers it at once, or none where it starts a move. -/
def OptPort.lmCode (p : OptPort) (l site wl : Nat) : Option Nat :=
  let x := p.lane l
  if 14 ≤ l ∨ x.st = 0 ∨ x.st = 5 then some 6
  else if x.st ≠ 3 then some 2
  else if !p.siteFree l site ∨ !(p.sitest site).reaches wl then some 3
  else if x.wl.toNat ≠ wl ∧ !p.wlFree wl then some 4
  else none

/-- Apply a request (18 R434, R439): the lane moves, and waits for the peer where the wavelength is not its own; LMRESP follows when the move
ends. -/
def State.applyLm (s : State) (n req cseq : Nat) : State :=
  let p := s.port n
  let l := req % 16
  let site := req / 16 % 16
  let wl := req / 256 % 16
  match p.lmCode l site wl with
  | some code => s.lmResp n code cseq
  | none =>
    let peer := decide ((p.lane l).wl.toNat ≠ wl)
    (s.updPort n (fun p =>
      let q := p.startMove l wl site peer
      { q with lcms := if peer then q.lcms ++ [Lcm.mk 1 l wl 0] else q.lcms, asked := some (l, cseq) })).flushPort n

/-- The port reads its ring page (18 R438, R439): CSEQ is read with acquire. The first value is the baseline; where it differs from the
value read last, DACSET and LMREQ are applied, and LMRESP written. A line that an engine owns holds the read (14 R361). -/
def State.poll (s : State) (port : Nat) : State :=
  let p := s.port port
  let pa := p.rpgPa * 4096
  if !p.service ∨ s.isOwned pa 512 then s
  else
    let c := s.word64 (pa + 0x180)
    let s1 := (s.putResp port).updPort port (fun p => { p with cseq := some c })
    if p.cseq = none ∨ p.cseq = some c then s1
    else
      let dac (i : Nat) : Int := (BitVec.ofNat 32 (natOfBytes (s.bytesAt (pa + 0x100 + 4 * i) 4))).toInt
      let s2 := s1.updPort port (fun p => (List.range 16).foldl (fun p i => p.applyDac i (dac i)) p)
      let req := natOfBytes (s.bytesAt (pa + 0x140) 4)
      if req / 2147483648 % 2 = 1 then s2.applyLm port req c.toNat
      else s2.writeRange 2 (pa + 0x148) (bytesOfNat 4 (256 * (c.toNat % 256))) false

/-- RING_PAGE_POLL (18 R438, R439). -/
def execRingPagePoll (port : Nat) (s : State) : Host.Outcome State Fault Refusal := .next (s.poll port)

/-- RING_FAULT (18 R433, R434, R439): a site that has lost lock for 1 µs, or in SERVICE mode for HOLDOFF µs: the ACTIVE lane that it
carries fails over. A request of the same microsecond for that lane goes first, and the fault is then cleared. -/
def execRingFault (port site : Nat) (s : State) : Host.Outcome State Fault Refusal :=
  let p := s.port port
  let x := p.sitest site
  let off := if p.hmode then 1000 * p.holdoff.toNat else 1000
  .next (if x.lock ∨ s.portNow port < x.lostAt + off then s
  else
    let s1 := s.poll port
    match (s1.port port).lanesIn (fun y => y.site.toNat == site && y.st == 3) with
    | [] => s1
    | l :: _ => s1.failLane port l true)

/-- A port whose ring page is not in force reads CSEQ anew when it is (18 R438). -/
def OptPort.rebase (p : OptPort) : OptPort := if p.service then p else { p with cseq := none, resp := none }

/-- Write PCTL (18 R433, R437, Table 7): HMODE changes only while EN is 0; EN passing to 1 tunes every lane and clears BAD,
EN := 0 sets every lane OFF. -/
def State.pctl (s : State) (n : Nat) (v : DWord) : State :=
  let p := s.port n
  let en := v.getLsbD 0
  let s0 := s.updPort n (fun p =>
    OptPort.rebase { p with minlanes := v.extractLsb' 8 4, hmode := if p.en then p.hmode else v.getLsbD 1, en := en })
  let lanes (st : BitVec 3) (q : OptPort) : OptPort :=
    (List.range 14).foldl (fun q l => q.updLane l (fun x => { x.clear with st := st, rxseq := 0, since := s.portNow n })) q
  if en ∧ !p.en then
    (s0.settle n).updPort n (fun p =>
      { (List.range 16).foldl (fun q i => q.updSite i (fun x => { x with bad := false, held := false })) (lanes 1 p) with
          st := 1, txs := 0, rxc := 0 })
  else if !en ∧ p.en then (if p.st = 0 then s0 else s0.goDown n).updPort n (lanes 0)
  else (s0.checkDown n).checkUp n

/-- Whether a writer may write the blocks of ports and lasers, or of a field: a region controller, or the owner through PF0
(17 R408; 18 R441). -/
def State.mayManage (s : State) (src : Writer) : Bool :=
  match src with | .firmware => true | .host port _ => s.isOwner port

/-- A write that R408 ignores and counts. -/
def State.denyWriter (s : State) (src : Writer) : State := match src with | .firmware => s | .host port _ => s.deny port

/-- PCTL_WRITE (18 R433, R441). -/
def execPctlWrite (src : Writer) (port : Nat) (val : DWord) (s : State) : Host.Outcome State Fault Refusal :=
  .next (if s.mayManage src then s.pctl port val else s.denyWriter src)

/-- BIAS.DRIFT (18 Table 6). -/
def Laser.drift (x : Laser) : Int := (x.biasNow - x.biasBol).toInt

/-- What stands beyond its limit in a laser module: 0 the drift, 1 the margin, 2 the temperature, 3 + k line k (18 Table 6). -/
def Laser.beyond (x : Laser) : List Nat :=
  let drift := decide ((x.driftmax.toNat : Int) < (if x.drift < 0 then -x.drift else x.drift))
  (if drift then [0] else []) ++ (if x.margin.toInt < x.marginmin.toInt then [1] else []) ++ (if x.tempmax.toNat < x.temp.toNat then [2] else []) ++
    ((List.range 16).filter (fun k => decide ((SMap.get 0 x.linePwr k).toNat < x.linemin.toNat))).map (3 + ·)

/-- The limit of an alarm, as ALMTH holds it. -/
def Laser.limit (x : Laser) (a : Nat) : Nat :=
  match a with | 0 => x.driftmax.toNat | 1 => x.marginmin.toNat | 2 => x.tempmax.toNat | _ => x.linemin.toNat

/-- The band of HOURS for a temperature in units of 0.125 °C (18 R440); 55 and 70 °C lie in the lower band (DESIGN CHOICE, log 16). -/
def hourBand (temp : Nat) : Nat := if temp < 320 then 0 else if temp ≤ 440 then 1 else if temp ≤ 560 then 2 else 3

/-- A second of module temperature: HOURS counts each whole hour in its band (18 R440). -/
def Laser.second (x : Laser) : Laser :=
  let b := hourBand x.temp.toNat
  let n := SMap.get 0 x.secs b + 1
  if n < 3600 then { x with secs := SMap.ins x.secs b n }
  else { x with secs := SMap.ins x.secs b 0, hours := SMap.ins x.hours b (satInc (SMap.get 0 x.hours b)) }

/-- A laser module's registers after a reading (18 R440). -/
def Laser.read (x : Laser) (r : LaserReading) : Laser :=
  Laser.second { x with biasNow := BitVec.ofNat 16 r.bias, margin := r.margin, temp := r.temp,
                        linePwr := (List.range 16).map (fun k => (k, BitVec.ofNat 16 (r.linePwr.getD k 0))) }

/-- LASER_UPDATE (18 R426, R440): every 1 s the module updates its registers; what has passed its limit since the last update sets its
alarm, and a line that falls below LINEMIN moves the lanes that use it. The report's detail is the limit passed (DESIGN CHOICE, log 63). -/
def execLaserUpdate (m : Nat) (r : LaserReading) (s : State) : Host.Outcome State Fault Refusal :=
  .next (if 16 ≤ m then s
  else
    let x := SMap.get Laser.init s.lasers m
    let y := x.read r
    let new := y.beyond.filter (fun a => !x.past.contains a)
    let z : Laser := { y with past := y.beyond, biasAlm := y.biasAlm || new.contains 0, marginAlm := y.marginAlm || new.contains 1,
                              tempAlm := y.tempAlm || new.contains 2, lineAlm := y.lineAlm || new.any (3 ≤ ·) }
    let s1 := { s with lasers := SMap.ins s.lasers m z }
    let s2 := new.foldl (fun s a => (s.reportState 5 (portField (4 * m)) (y.limit a)).firePf0 3) s1
    let moved (s : State) (n : Nat) : State :=
      (List.range 14).foldl (fun s l =>
        let v := (s.port n).lane l
        if v.st = 3 ∧ new.contains (3 + v.wl.toNat) then s.failLane n l false else s) s
    [4 * m, 4 * m + 1, 4 * m + 2, 4 * m + 3].foldl moved s2)

end Sys2Proof.Machine
end

