-- ==== Sys2Proof/Machine/Regs.lean ====
section
/-! DEFINITION. The supervisor register blocks, read and written, and the requests of hosts to their BARs (04 R112 to R114;
06 R163; 10 R261 to R265, R277; 11 R279 to R283; 13 R323, R336, R337, R347; 16 R399; 17 R405 to R410, R417, R423; 18 R440,
R441). -/
namespace Sys2Proof.Machine

/-- A 64-bit value. -/
def dword (n : Nat) : DWord := BitVec.ofNat 64 n

/-- A field at a bit. -/
def bitAt (v lo : Nat) : Nat := v * 2 ^ lo

/-- RCCTL (17 Table 3). The report registers act only in the boot field. -/
def State.readRcctl (s : State) (fi off : Nat) : DWord :=
  let f := s.field fi
  let boot := fi == s.bootField
  let here (v : DWord) : DWord := if boot then v else 0
  match off with
  | 0x000 => dword (f.run.toNat + bitAt f.joined.toNat 1 + bitAt f.fenced.toNat 2 + bitAt (boot && (s.booting || s.booted || f.recovery)).toNat 3 +
      bitAt f.recovery.toNat 4 + bitAt f.fwrev.toNat 16)
  | 0x010 => f.mbArg0
  | 0x018 => f.mbArg1
  | 0x020 => f.mbArg2
  | 0x028 => f.mbArg3
  | 0x030 => dword (f.mbDone.toNat + bitAt f.mbCode.toNat 8 + bitAt f.mbBusy.toNat 16)
  | 0x038 => f.mbRes
  | 0x040 => here s.rptBase
  | 0x048 => here (dword (s.rptLog2n.toNat + bitAt s.rptEn.toNat 4))
  | 0x050 => here (dword (s.rptProd.toNat + bitAt s.rptLost.toNat 32))
  | 0x058 => here (dword s.rptCons.toNat)
  | _ => 0

/-- A bit map over the numbers of a list, 64 to a word. -/
def bitsOf (l : List Nat) (j : Nat) : DWord := dword (bitmap 64 (fun i => l.contains (64 * j + i)))

/-- MAP (10 Table 4). -/
def Field.readMap (f : Field) (off : Nat) : DWord :=
  if off < 0x080 then bitsOf f.excl (off / 8)
  else if off < 0x090 then bitsOf f.mex ((off - 0x080) / 8)
  else if off < 0x0A0 then bitsOf f.quar ((off - 0x090) / 8)
  else if off = 0x0A0 then dword f.fenced.toNat
  else if 0x400 ≤ off ∧ off < 0x800 then SMap.get 0 f.pitch ((off - 0x400) / 8)
  else if 0x800 ≤ off ∧ off < 0x1000 then SMap.get 0 f.ovr ((off - 0x800) / 8)
  else 0

/-- TIME (16 Table 2). -/
def Field.readTime (f : Field) (own off : Nat) : DWord :=
  if off = 0 then f.time
  else if 0x200 ≤ off ∧ off < 0x600 then
    let i := (off - 0x200) / 16
    let o := SMap.get Offs.init f.offs i
    if off % 16 = 8 then o.tmeas
    else if i = own then dword (2 ^ 60)
    else dword (o.offset.toNat + bitAt o.uncm.toNat 48 + bitAt o.valid.toNat 60)
  else 0

/-- Word `j` of a collective rule entry. -/
def Meeting.ruleWord (m : Meeting) (j : Nat) : DWord :=
  match j with | 0 => m.w0 | 1 => m.w1 | 2 => m.w2 | 3 => m.w3 | 4 => m.w4 | _ => m.w5

/-- Word `j` of a weight table (11 R283). -/
def WTab.word (t : WTab) (j : Nat) : DWord :=
  if j < 4 then dword ((t.w.getD (2 * j) 0).toNat + bitAt (t.w.getD (2 * j + 1) 0).toNat 32)
  else dword (t.valid.toNat + bitAt t.asid 1 + bitAt t.idx 13)

/-- MEET (11 Table 1). -/
def Field.readMeet (f : Field) (off : Nat) : DWord :=
  if off < 0x3000 then (match SMap.find f.meet (off / 0x30) with | some m => m.ruleWord (off % 0x30 / 8) | none => 0)
  else if off < 0x3500 then (SMap.get WTab.init f.wtab ((off - 0x3000) / 0x28)).word ((off - 0x3000) % 0x28 / 8)
  else if 0x3800 ≤ off then (match SMap.find f.meet ((off - 0x3800) / 8) with | some m => m.state | none => 0)
  else 0

/-- WALK (13 Table 8). -/
def Field.readWalk (f : Field) (off : Nat) : DWord :=
  match off with
  | 0x000 => dword (f.rootEn.toNat + bitAt f.rootPa 12)
  | 0x010 => dword (bitAt f.invAddr 12)
  | 0x018 => dword f.invLen
  | 0x020 => dword (f.issued.toNat + bitAt f.doneInv.toNat 16 + bitAt (f.issued != f.doneInv).toNat 32 + bitAt f.overrun.toNat 33)
  | 0x028 => dword (f.walks.length + bitAt (Nat.min 64 f.wqueue.length) 5 + bitAt (f.walks.any (·.fault.isSome)).toNat 12)
  | _ => 0

/-- Whether a layer is shut down in some cluster of a field (17 Table 7). -/
def State.layerDown (s : State) (fi l : Nat) : Bool :=
  s.clusters.any (fun k => fieldOfCluster k.1 == fi && (List.range 8).any (fun c => (k.2.bank c l).down))

/-- THERM (17 Table 7). -/
def State.readTherm (s : State) (fi off : Nat) : DWord :=
  let f := s.field fi
  if off = 0 then dword f.tj.toNat
  else if off < 0x050 then dword (SMap.get 0 f.tl ((off - 8) / 8)).toNat
  else if off = 0x100 then
    dword (f.jthrot.toNat + bitAt f.lthrot.toNat 1 + bitAt (bitmap 9 (s.layerDown fi)) 2 + bitAt f.hold.toNat 11)
  else if off = 0x108 then dword (f.jth.toNat + bitAt f.lth.toNat 8)
  else 0

/-- A 64-bit register from lanes. -/
def dwordOf (l : List Word) : DWord := dword ((l.getD 0 0).toNat + bitAt (l.getD 1 0).toNat 32)

/-- The core of an index within a field. -/
def coreOf (fi i : Nat) : Nat × Nat := (32 * fieldX fi + i % 32, 32 * fieldY fi + i / 32)

/-- What a CORE slot or the KAWIN window shows (04 R113): the half of a core that is selected, or the one that it hosts where it does
not host that half (DESIGN CHOICE, log 93). -/
def State.shown (s : State) (c : Nat × Nat) (half : Bool) : Option (Nat × Nat × Pitch × LCore) :=
  match s.hosted c.1 c.2 half with | some y => some y | none => s.hosted c.1 c.2 (!half)

/-- What a CORE slot or the KAWIN window reads: where no logical core stands, what the last pitch left (06 R170). -/
def State.seen (s : State) (c : Nat × Nat) (half : Bool) : Option (Nat × Nat × Pitch × LCore) :=
  match s.shown c half with
  | some y => some y
  | none => (s.lastAt (coreId c.1 c.2) half).map (fun e => (e.asid, e.lc, default, e.core))

/-- A register of a core that has hosted no logical core: at its reset value (04 R104, R106), and ME_STAT that of its cluster. -/
def State.csrReset (s : State) (c : Nat × Nat) (r : Nat) : DWord :=
  if r = 0x06 then 9 else if r = 0x09 then 32
  else if r = 0x18 then dword (meStat (s.cluster (clusterOfCore c.1 c.2))) else 0

/-- CORE (04 R113): slot and register. -/
def State.readCore (s : State) (fi off : Nat) : DWord :=
  let i := off / 256
  let r := off % 256 / 8
  let other := (s.field fi).halfsel.contains i
  if off % 256 = 0xF8 then dword other.toNat
  else if !csrOk r false then 0
  else match s.seen (coreOf fi i) other with
    | none => s.csrReset (coreOf fi i) r
    | some (asid, lc, p, y) =>
      let f : Firing := { (default : Firing) with asid := asid, lc := lc }
      dwordOf (csrValue s 0 f p y ((y.cached 0).getD default) r)

/-- The core and the half that KASEL selects. -/
def Field.kaCore (f : Field) (fi : Nat) : (Nat × Nat) × Bool :=
  let k := f.kasel.toNat
  ((32 * fieldX fi + k % 32, 32 * fieldY fi + k / 32 % 32), k / 1024 == 1)

/-- KAWIN (04 R113). -/
def State.readKawin (s : State) (fi off : Nat) : DWord :=
  let f := s.field fi
  if off = 0 then dword f.kasel.toNat
  else match s.seen (f.kaCore fi).1 (f.kaCore fi).2 with
    | none => 0
    | some (_, _, _, x) =>
      if 0x100 ≤ off ∧ off < 0x200 then
        let j := (off - 0x100) / 8
        dwordOf [x.kreg (2 * j), x.kreg (2 * j + 1)]
      else if 0x800 ≤ off ∧ off < 0x1000 then
        let v := (x.acc ((off - 0x800) / 128)).val
        let j := off % 128 / 8
        dwordOf [SMap.get 0 v (2 * j), SMap.get 0 v (2 * j + 1)]
      else 0

/-- A register of a CORE slot that firmware writes (04 R113, Table 4): what it shows of the logical core becomes `v`; CORE_STAT and
the names in CORE_ROLE are what the hardware makes of its state. R113 does not say that the access codes bind firmware: a field that
is read-only or W1C to a program takes the value written (DESIGN CHOICE, log 98). -/
def LCore.csrPut (x : LCore) (i : Nat) (v : DWord) : LCore :=
  let w : Word := v.extractLsb' 0 32
  let regs (g : ColourRegs → ColourRegs) : LCore := x.updRegs none 0 g
  match i with
  | 0x00 => { x with role := match w.toNat % 4 with | 0 => .ag | 1 => .cp | 2 => .rd | _ => x.role }
  | 0x02 => { x with trap := { x.trap with cause := w.extractLsb' 0 5, valid := w.getLsbD 8, overrun := w.getLsbD 9, detail := w.extractLsb' 16 16 } }
  | 0x03 => { x with trap := { x.trap with tag := v } }
  | 0x04 => { x with trap := { x.trap with node := w.extractLsb' 0 12, port := w.getLsbD 12, opc := w.extractLsb' 16 10 } }
  | 0x05 => { x with waveBase := w &&& 0x3FFFFFFF }
  | 0x06 => { x with raCtl := w.extractLsb' 0 5 }
  | 0x07 => { x with ovfBase := v }
  | 0x08 => { x with ovfSize := w.extractLsb' 0 9, enlarged := w.getLsbD 9 }
  | 0x09 => { x with maxw := w.extractLsb' 0 6, clamped := w.getLsbD 6 }
  | 0x10 => regs (fun r => { r with order := w.extractLsb' 0 3 })
  | 0x11 => regs (fun r => { r with width := w.extractLsb' 0 6 })
  | 0x12 => regs (fun r => { r with frame := w.extractLsb' 0 14 })
  | 0x13 => regs (fun r => { r with shape := w.extractLsb' 0 6 })
  | 0x14 => regs (fun r => { r with limit := w.extractLsb' 0 16, live := w.extractLsb' 16 16 })
  | _ => x

/-- ME_STAT that firmware writes (04 Table 9): its flags and LASTJOB take the value written (DESIGN CHOICE, log 98); the other bits
are what the engine holds. -/
def Cluster.statPut (k : Cluster) (v : DWord) : Cluster := { k with flags := v.extractLsb' 9 5, lastJob := v.extractLsb' 16 16 }

/-- A register of the KAWIN window that firmware writes (04 R113). -/
def LCore.kawinPut (x : LCore) (off : Nat) (v : DWord) : LCore :=
  let lo : Word := v.extractLsb' 0 32
  let hi : Word := v.extractLsb' 32 32
  if 0x100 ≤ off ∧ off < 0x200 then
    let j := (off - 0x100) / 8
    { x with k := SMap.put 0 (SMap.put 0 x.k (2 * j) lo) (2 * j + 1) hi }
  else if 0x800 ≤ off ∧ off < 0x1000 then
    let j := off % 128 / 8
    x.updAcc ((off - 0x800) / 128) (fun a => { a with val := SMap.put 0 (SMap.put 0 a.val (2 * j) lo) (2 * j + 1) hi })
  else x

/-- Whether firmware may write a register of a cluster that no logical core of a slot shows: a pitch that holds it is loaded, restored
or rebound (04 R113). -/
def State.clusterOpen (s : State) (k : Nat) : Bool :=
  s.pitches.any (fun p => p.2.placed && p.2.rect.clusters.contains k &&
    (p.2.st == .loading || p.2.st == .restoring || p.2.lcores.any (fun x => x.2.blocked)))

/-- A write by region controller firmware to a CORE slot or the KAWIN window (04 R113): during a configuration swap, a rebind or a
restore, and at no other time. -/
def State.writeShown (s : State) (fi off : Nat) (v : DWord) : State :=
  let f := s.field fi
  if 0x10000 ≤ off ∧ off < 0x50000 ∧ off % 256 ≠ 0xF8 then
    let i := (off - 0x10000) / 256
    match s.shown (coreOf fi i) (f.halfsel.contains i) with
    | some (asid, lc, _, x) =>
      if !s.tileOpen asid lc then s
      else if off % 256 / 8 = 0x18 then s.updCluster x.cluster (fun k => k.statPut v)
      else s.updLC asid lc (fun x => x.csrPut (off % 256 / 8) v)
    | none =>
      let k := clusterOfCore (coreOf fi i).1 (coreOf fi i).2
      if off % 256 / 8 = 0x18 ∧ s.clusterOpen k then s.updCluster k (fun c => c.statPut v) else s
  else if 0x60000 < off ∧ off < 0x61000 then
    match s.shown (f.kaCore fi).1 (f.kaCore fi).2 with
    | some (asid, lc, _, _) => if s.tileOpen asid lc then s.updLC asid lc (fun x => x.kawinPut (off - 0x60000) v) else s
    | none => s
  else s

/-- CLUSTER (04 Table 10), 256 bytes for each cluster: ME_STAT. The manual gives no offset of it, and no map of the queues and the
copy unit's status: it stands first, and the rest reads zero (04 R112; DESIGN CHOICE, log 94). -/
def State.readCluster (s : State) (fi off : Nat) : DWord :=
  let i := off / 256
  if off % 256 = 0 then dword (meStat (s.cluster (128 * (8 * fieldY fi + i / 16) + 16 * fieldX fi + i % 16))) else 0

/-- A read of a field block (04 Table 10). -/
def State.readField (s : State) (fi off : Nat) : DWord :=
  let f := s.field fi
  if off < 0x1000 then s.readRcctl fi off
  else if off < 0x2000 then
    (if off = 0x1000 then dword f.clkset.toNat
     else if off = 0x1008 then dword (f.cur.toNat + bitAt f.lock.toNat 6 + bitAt (decide (f.cur.toNat < f.clkset.toNat)).toNat 7) else 0)
  else if off < 0x3000 then f.readTime fi (off - 0x2000)
  else if off < 0x4000 then f.readMap (off - 0x3000)
  else if off < 0x6000 then ((f.remapAt ((off - 0x4000) / 32)).words.getD (off % 32 / 8) 0)
  else if off < 0x7000 then (if off < 0x6200 then (SMap.get Band.init f.band ((off - 0x6000) / 8)).word else 0)
  else if off < 0xB000 then f.readMeet (off - 0x7000)
  else if off < 0xC000 then f.readWalk (off - 0xB000)
  else if off < 0xD000 then s.readTherm fi (off - 0xC000)
  else if 0x10000 ≤ off ∧ off < 0x50000 then s.readCore fi (off - 0x10000)
  else if 0x50000 ≤ off ∧ off < 0x58000 then s.readCluster fi (off - 0x50000)
  else if 0x60000 ≤ off ∧ off < 0x61000 then s.readKawin fi (off - 0x60000)
  else 0

/-- DEV_ID (04 R114). -/
def State.devId (s : State) : DWord :=
  dword (0x00B1 + bitAt 0x0A64 16 + bitAt 1 32 + bitAt ((List.range 64).filter (fun f => (s.field f).joined)).length 40)

/-- An entry WAIT(k) (06 Table 7). -/
def Waiting.word (w : Waiting) : DWord :=
  dword (w.launch.queue + bitAt (w.launch.index % 65536) 5 + bitAt w.launch.prio 21 + bitAt (Nat.min 255 w.count) 24 + bitAt 1 32 +
    bitAt w.blocking.toNat 33 + bitAt w.saved.toNat 34 + bitAt w.launch.asid 35)

/-- BOOTH_STAT (06 Table 7). Clusters are counted once their field has joined, so that FREE is 0 after reset. -/
def State.boothStat (s : State) : DWord :=
  let free := ((List.range 8192).filter (fun k => (s.field (fieldOfCluster k)).joined && s.admissible k && s.clusterFree (fun _ => false) k)).length
  dword (free + bitAt s.waiting.length 14 + bitAt (s.waiting.any Waiting.blocking).toNat 23 + bitAt s.boothPre.isSome.toNat 24)

/-- ADMIT (06 R163). -/
def State.readAdmit (s : State) (off : Nat) : DWord :=
  if off < 0x400 then
    let l := s.lqueue (off / 0x20)
    match off % 0x20 with
    | 0x00 => l.base
    | 0x08 => dword (l.log2n.toNat + bitAt l.en.toNat 4 + bitAt l.dev.toNat 5)
    | 0x10 => dword l.prod.toNat
    | _ => dword l.cons.toNat
  else if off = 0x400 then s.boothStat
  else if 0x800 ≤ off ∧ off < 0x1000 then (match s.waiting[(off - 0x800) / 8]? with | some w => w.word | none => 0)
  else 0

/-- FN[f] (17 Table 2). -/
def FnEntry.word (e : FnEntry) : DWord := dword (e.en.toNat + bitAt e.asidLo.toNat 1 + bitAt e.asidHi.toNat 13 + bitAt e.vfbase.toNat 25)

/-- PCIEA and PCIEB (17 Table 2). -/
def State.readPcie (s : State) (port off : Nat) : DWord :=
  let b := s.pcieBlk port
  match off with
  | 0x000 => dword (s.owner.toNat + bitAt (s.isOwner port).toNat 2 + bitAt b.claimfail.toNat 5)
  | 0x010 => dword s.hbage.toNat
  | 0x018 => dword (b.up.toNat + bitAt b.rate.toNat 1 + bitAt b.width.toNat 4 + bitAt b.retrains.toNat 8)
  | 0x020 => dword b.denied.toNat
  | 0x088 => dword b.rcvlen.toNat
  | 0x090 => dword (b.wait.toNat + bitAt b.busy.toNat 1 + bitAt b.result.toNat 4)
  | _ =>
    if 0x100 ≤ off ∧ off < 0x180 then dword (SMap.get 0 b.qfn ((off - 0x100) / 8)).toNat
    else if 0x200 ≤ off ∧ off < 0x400 then
      let f := (off - 0x200) / 8
      (SMap.get (FnEntry.init f) b.fn f).word
    else 0

/-- OPTPORT (18 Table 7). -/
def State.readPort (s : State) (n off : Nat) : DWord :=
  let p := s.port n
  let uses (t : LaneSt → Bool) : Nat := (!(p.lanesIn (fun x => x.st != 5 && t x)).isEmpty).toNat
  match off with
  | 0x000 => dword (p.en.toNat + bitAt p.hmode.toNat 1 + bitAt p.minlanes.toNat 8)
  | 0x008 => dword (p.st.toNat + bitAt (p.lanesIn (fun x => x.st == 3)).length 2 + bitAt (uses (fun x => x.site == 14)) 6 +
      bitAt (uses (fun x => x.site == 15)) 7 + bitAt (uses (fun x => x.wl == 14)) 8 + bitAt (uses (fun x => x.wl == 15)) 9 + bitAt p.downs.toNat 16)
  | 0x010 => dword (p.rpgEn.toNat + bitAt p.rpgPa 12)
  | 0x018 => dword (p.sper.toNat + bitAt p.holdoff.toNat 16)
  | 0x020 => dword (p.egEn.toNat + bitAt p.egPa 14)
  | 0x028 => dword (p.lockth.toNat + bitAt p.berth.toNat 16)
  | 0x030 => dword p.pdrop.toNat
  | 0x038 => dword p.satcnt.toNat
  | _ =>
    if 0x080 ≤ off ∧ off < 0x0F0 then
      let x := p.lane ((off - 0x080) / 8)
      dword (x.wl.toNat + bitAt x.site.toNat 4 + bitAt x.st.toNat 8)
    else if 0x100 ≤ off ∧ off < 0x180 then
      let x := p.sitest ((off - 0x100) / 8)
      dword (x.code.toNat + bitAt x.mon.toNat 16 + bitAt x.lock.toNat 28 + bitAt x.bad.toNat 29)
    else if 0x200 ≤ off ∧ off < 0x3C0 then
      let x := p.lane ((off - 0x200) / 0x20)
      (match off % 0x20 with
       | 0x00 => dword x.corr.toNat
       | 0x08 => dword x.unc.toNat
       | 0x10 => dword x.replay.toNat
       | _ => dword x.moves.toNat)
    else 0

/-- LASER (18 Table 6). -/
def Laser.reg (x : Laser) (off : Nat) : DWord :=
  match off with
  | 0x00 => dword (x.biasAlm.toNat + bitAt x.lineAlm.toNat 1 + bitAt x.marginAlm.toNat 2 + bitAt x.tempAlm.toNat 3)
  | 0x08 => dword (x.biasNow.toNat + bitAt x.biasBol.toNat 16 + bitAt (x.biasNow - x.biasBol).toNat 32)
  | 0x10 => dword x.margin.toNat
  | 0x38 => dword x.temp.toNat
  | 0xC0 => dword (x.driftmax.toNat + bitAt x.linemin.toNat 16 + bitAt x.marginmin.toNat 32 + bitAt x.tempmax.toNat 48)
  | _ =>
    if 0x18 ≤ off ∧ off < 0x38 then dword (SMap.get 0 x.hours ((off - 0x18) / 8)).toNat
    else if 0x40 ≤ off ∧ off < 0xC0 then
      let k := (off - 0x40) / 8
      dword ((SMap.get 0 x.linePwr k).toNat + bitAt (x.low k).toNat 16)
    else 0

/-- A read of the wafer block (04 Table 10). No file gives an offset or a layout of IDENT's fuse status and attestation, and they read
zero (04 R112; DESIGN CHOICE, log 98). -/
def State.readWafer (s : State) (off : Nat) : DWord :=
  if off < 0x1000 then (if off = 0 then s.devId else 0)
  else if off < 0x2000 then s.readAdmit (off - 0x1000)
  else if off < 0x3000 then s.readPcie 0 (off - 0x2000)
  else if off < 0x4000 then s.readPcie 1 (off - 0x3000)
  else if off < 0x5000 then
    (if off = 0x4000 then dword s.bootNum.toNat
     else if 0x4100 ≤ off ∧ off < 0x4300 then s.stepReg ((off - 0x4100) / 8) else 0)
  else if 0x10000 ≤ off ∧ off < 0x20000 then s.readPort ((off - 0x10000) / 0x400) (off % 0x400)
  else if 0x20000 ≤ off ∧ off < 0x21000 then (SMap.get Laser.init s.lasers ((off - 0x20000) / 256)).reg (off % 256)
  else 0

/-- Whether an offset of a field block lies within one of its blocks (04 Table 10). -/
def fieldMapped (off : Nat) : Bool := decide (off < 0xD000) || (decide (0x10000 ≤ off) && decide (off < 0x58000)) ||
  (decide (0x60000 ≤ off) && decide (off < 0x61000))

/-- Whether an offset of the wafer block lies within one of its blocks. -/
def waferMapped (off : Nat) : Bool := decide (off < 0x5000) || (decide (0x10000 ≤ off) && decide (off < 0x21000))

/-- A write of a register that the region controllers' firmware alone writes (10 R262): pitch entries and overrides. -/
def Field.firmwareWrite (f : Field) (off : Nat) (v : DWord) : Field :=
  if 0x3400 ≤ off ∧ off < 0x3800 then { f with pitch := SMap.put 0 f.pitch ((off - 0x3400) / 8) (v &&& 0x7FFFFFFFFFFFF) }
  else if 0x3800 ≤ off ∧ off < 0x4000 then { f with ovr := SMap.put 0 f.ovr ((off - 0x3800) / 8) (v &&& 0xFFFFFFFFFFFF) }
  else f

/-- A write of a field register that the owner and the firmware write (17 Tables 3 and 7; 13 Table 8; 04 R113). -/
def Field.write (f : Field) (off : Nat) (v : DWord) : Field :=
  let cap (t : BitVec 8) : BitVec 8 := if 100 < t.toNat then 100 else t
  match off with
  | 0x0008 => f.mbStart v
  | 0x0010 => { f with mbArg0 := v }
  | 0x0018 => { f with mbArg1 := v }
  | 0x0020 => { f with mbArg2 := v }
  | 0x0028 => { f with mbArg3 := v }
  | 0xB000 => { f with rootEn := v.getLsbD 0, rootPa := v.toNat / 4096 % 1099511627776 }
  | 0xB008 =>
    if !v.getLsbD 14 ∨ v.toNat % 4 = 3 then f
    else f.queueInval { kind := v.toNat % 4, asid := if v.toNat % 4 = 0 then 0 else v.toNat / 4 % 4096,
                        vpn := if v.toNat % 4 = 2 then f.invAddr else 0,
                        pages := if v.toNat % 4 = 2 then (if f.invLen = 0 then 1 else f.invLen) else 0 }
  | 0xB010 => { f with invAddr := v.toNat / 4096 % 35184372088832 }
  | 0xB018 => { f with invLen := v.toNat % 4294967296 }
  | 0xB020 => { f with overrun := f.overrun && !v.getLsbD 33 }
  | 0xC108 => { f with jth := cap (v.extractLsb' 0 8), lth := cap (v.extractLsb' 8 8) }
  | 0x60000 => { f with kasel := v.extractLsb' 0 11 }
  | _ =>
    if 0x10000 ≤ off ∧ off < 0x50000 ∧ off % 256 = 0xF8 then
      let i := (off - 0x10000) / 256
      { f with halfsel := if v.getLsbD 0 then addNat f.halfsel i else f.halfsel.filter (· ≠ i) }
    else f

/-- A write of a field block by one who may manage the device (04 R113; 17 R410, R422). -/
def State.writeField (s : State) (src : Writer) (fi off : Nat) (v : DWord) : State :=
  if off = 0x1000 then s.setClk fi (v.toNat % 64)
  else if 0x0040 ≤ off ∧ off < 0x0060 then
    (if fi ≠ s.bootField then s
     else match off with
       | 0x0040 => { s with rptBase := v &&& 0xFFFFFFFFFFFC0 }
       | 0x0048 => { s with rptLog2n := v.extractLsb' 0 4, rptEn := v.getLsbD 4 }
       | 0x0058 => { s with rptCons := v.extractLsb' 0 16 }
       | _ => s)
  else match src with
    | .firmware => (s.updField fi (fun f => (f.write off v).firmwareWrite off v)).writeShown fi off v
    | .host _ _ => s.updField fi (fun f => f.write off v)

/-- A write of LQ_CFG (06 R162, Table 7): DEV changes only while EN is 0. -/
def LQueue.setCfg (l : LQueue) (v : DWord) : LQueue :=
  { l with log2n := v.extractLsb' 0 4, en := v.getLsbD 4, dev := if l.en then l.dev else v.getLsbD 5 }

/-- A host's write of ADMIT (06 R163, R173, R179; 17 R408). -/
def State.writeAdmit (s : State) (port off : Nat) (v : DWord) : State :=
  if off < 0x400 then
    let q := off / 0x20
    if q / 16 ≠ port then s
    else match off % 0x20 with
      | 0x00 => s.updLQ q (fun l => { l with base := v &&& 0xFFFFFFFFFF000 })
      | 0x08 => s.updLQ q (fun l => l.setCfg v)
      | 0x10 => s.writeProd port q (v.toNat % 65536)
      | _ => s
  else if off = 0x408 then
    let q := v.toNat % 32
    if q / 16 = port ∨ s.isOwner port then (if v.getLsbD 21 then s.cancel q (v.toNat / 32 % 65536) else s) else s.deny port
  else if off = 0x410 then
    (if s.isOwner port then (if v.getLsbD 12 then s.requestPreempt (v.toNat % 4096) else s) else s.deny port)
  else s

/-- A write of OWN (17 Table 2, R409). -/
def State.writeOwn (s : State) (port : Nat) (v : DWord) : State :=
  let s1 := if v.getLsbD 5 then s.updPcie port (fun b => { b with claimfail := false }) else s
  let s2 := if v.getLsbD 3 then s1.claim port else s1
  if v.getLsbD 4 then s2.giveUp port else s2

/-- A write of the writer's own PCIE block (17 R407, Table 2). -/
def State.writePcie (s : State) (port off : Nat) (v : DWord) : State :=
  match off with
  | 0x000 => s.writeOwn port v
  | 0x008 => if v.getLsbD 0 then s.beat port else if s.isOwner port then s else s.deny port
  | 0x080 => if v.getLsbD 0 then s.rcvGo port (v.getLsbD 1) else s
  | 0x088 => s.updPcie port (fun b => { b with rcvlen := v.extractLsb' 0 32 })
  | _ =>
    if 0x100 ≤ off ∧ off < 0x180 then
      s.updPcie port (fun b => { b with qfn := SMap.put 0 b.qfn ((off - 0x100) / 8) (v.extractLsb' 0 6) })
    else if 0x200 ≤ off ∧ off < 0x400 then
      let e : FnEntry := { en := v.getLsbD 0, asidLo := v.extractLsb' 1 12, asidHi := v.extractLsb' 13 12, vfbase := v.extractLsb' 25 22 }
      s.updPcie port (fun b => { b with fn := SMap.ins b.fn ((off - 0x200) / 8) e })
    else s

/-- A write of an OPTPORT block (18 Table 7). -/
def State.writePort (s : State) (n off : Nat) (v : DWord) : State :=
  match off with
  | 0x000 => s.pctl n v
  | 0x010 => s.updPort n (fun p => OptPort.rebase { p with rpgEn := v.getLsbD 0, rpgPa := v.toNat / 4096 % 1099511627776 })
  | 0x018 => s.updPort n (fun p => { p with sper := v.extractLsb' 0 16, holdoff := v.extractLsb' 16 16 })
  | 0x020 => s.updPort n (fun p => { p with egEn := v.getLsbD 0, egPa := v.toNat / 16384 % 274877906944 })
  | 0x028 => s.updPort n (fun p =>
      let th := v.extractLsb' 0 12
      (List.range 16).foldl (fun q i => q.updSite i (fun x => x.relock th (s.portNow n))) { p with lockth := th, berth := v.extractLsb' 16 12 })
  | _ => s

/-- A write of a LASER block (18 Table 6). -/
def Laser.write (x : Laser) (off : Nat) (v : DWord) : Laser :=
  match off with
  | 0x00 => { x with biasAlm := x.biasAlm && !v.getLsbD 0, lineAlm := x.lineAlm && !v.getLsbD 1,
                     marginAlm := x.marginAlm && !v.getLsbD 2, tempAlm := x.tempAlm && !v.getLsbD 3 }
  | 0xC0 => { x with driftmax := v.extractLsb' 0 16, linemin := v.extractLsb' 16 16, marginmin := v.extractLsb' 32 16,
                     tempmax := v.extractLsb' 48 12 }
  | _ => x

/-- A write of the wafer block (17 R407, R408; 18 R441). -/
def State.writeWafer (s : State) (src : Writer) (off : Nat) (v : DWord) : State :=
  if 0x10000 ≤ off ∧ off < 0x20000 then
    (if s.mayManage src then s.writePort ((off - 0x10000) / 0x400) (off % 0x400) v else s.denyWriter src)
  else if 0x20000 ≤ off ∧ off < 0x21000 then
    (if s.mayManage src then
      let m := (off - 0x20000) / 256
      { s with lasers := SMap.ins s.lasers m ((SMap.get Laser.init s.lasers m).write (off % 256) v) }
     else s.denyWriter src)
  else if off < 0x1000 ∨ (0x4000 ≤ off ∧ off < 0x5000) then (if s.mayManage src then s else s.denyWriter src)
  else match src with
    | .firmware => s
    | .host port _ =>
      if off < 0x2000 then s.writeAdmit port (off - 0x1000) v
      else if off < 0x4000 then (if (off - 0x2000) / 0x1000 = port then s.writePcie port (off % 0x1000) v else s)
      else s

/-- A write of a supervisor register at a physical address (04 R112; 17 R408). -/
def State.writeReg (s : State) (src : Writer) (pa : Nat) (v : DWord) : State :=
  if pa % 8 ≠ 0 then s
  else match s.resolve pa with
    | .fieldBlk fi off => if s.mayManage src then s.writeField src fi off v else s.denyWriter src
    | .waferBlk off => s.writeWafer src off v
    | _ => s

/-- REGISTER_WRITE (04 R112; 17 R407, R408): a 64-bit write of a supervisor register by a region controller, or by PF0 of a
port through BAR0. -/
def execRegisterWrite (src : Writer) (pa : Nat) (val : DWord) (s : State) : Host.Outcome State Fault Refusal :=
  .next (match src with
  | .firmware => s.writeReg .firmware pa val
  | .host port fn => if port < 2 ∧ fn = 0 then s.writeReg src pa val else s)

/-- A read of a register block at a physical address, or none where it maps no block (17 R405). -/
def State.readReg (s : State) (pa : Nat) : Option DWord :=
  match s.resolve pa with
  | .fieldBlk fi off => if fieldMapped off then some (s.readField fi off) else none
  | .waferBlk off => if waferMapped off then some (s.readWafer off) else none
  | _ => none

/-- An interleave descriptor as supervisor reads see it (13 Table 2): LH follows the banks. -/
def Cluster.viewDesc (x : Cluster) (g : Nat) : DWord :=
  let d := x.descAt g
  let cols := (List.range d.div.toNat).map (fun j => d.colmap.toNat / 8 ^ j % 8)
  let ill (l : Nat) : Bool := cols.any (fun c => let b := x.bank c l; b.st == .degraded || b.st == .rebuilding || b.down)
  dword (d.div.toNat + bitAt d.colmap.toNat 4 + bitAt (bitmap 9 ill) 28 + bitAt d.frozen.toNat 37)

/-- One byte of the physical map, as a host reads it (13 R323, R336, R337). -/
def State.hostByte (s : State) (pa : Nat) : Byte :=
  match s.resolve pa with
  | .dram k c l q b => s.dramByte k c l q b
  | .view k g => BitVec.ofNat 8 ((((s.cluster k).viewDesc g).toNat) / 2 ^ (8 * (pa % 8)))
  | .tile core off => s.tileByte core off
  | _ => 0

/-- Whether a host request reaches what an address names: DRAM, the descriptor view, tiles, and registers in 64 aligned bits
(04 R112; 13 Table 5; 17 R405). -/
def State.hostReaches (s : State) (pa len : Nat) : Bool :=
  match (s.assign pa).resolve pa with
  | .dram .. => true
  | .view .. => true
  | .tile .. => true
  | .fieldBlk _ off => pa % 8 == 0 && len == 8 && fieldMapped off
  | .waferBlk off => pa % 8 == 0 && len == 8 && waferMapped off
  | _ => false

/-- Whether a writer is a virtual function. -/
def isVf (src : Writer) : Bool := match src with | .host _ fn => fn != 0 | .firmware => false

/-- A host's write of bytes at a physical address, through the BAR given: the PCIE blocks take writes of PF0 through BAR0 alone
(17 R407). -/
def State.hostWrite (s : State) (src : Writer) (bar pa : Nat) (bs : List Byte) : State :=
  match s.resolve pa with
  | .fieldBlk _ _ => s.writeReg src pa (dword (natOfBytes bs))
  | .waferBlk off =>
    if 0x2000 ≤ off ∧ off < 0x4000 ∧ (bar ≠ 0 ∨ isVf src) then s
    else s.writeReg src pa (dword (natOfBytes bs))
  | .view _ _ => s
  | _ => s.writeRange ((pa % 64 + bs.length + 63) / 64) pa bs false

/-- Complete a host's request (17 R405). -/
def State.hostDone (s : State) (port : Nat) (ok : Bool) (data : List Byte) : State := s.updPcie port (fun b => { b with cpl := some (ok, data) })

/-- A host's request at a physical address: a first access assigns its region, absent parts of it too (13 R322, R324). A line
that an engine owns holds it (14 R361). -/
def State.hostAccess (s : State) (r : HostReq) (pa : Nat) : State :=
  let s := s.assign pa
  if r.len = 0 ∨ !s.hostReaches pa r.len ∨ !s.hostReaches (pa + r.len - 1 - (pa + r.len - 1) % 8) 8 then s.hostDone r.port false []
  else if s.isOwned pa r.len then s
  else match r.data with
    | some bs => (s.hostWrite (.host r.port r.fn) r.bar pa (bs.take r.len)).hostDone r.port true []
    | none =>
      match s.readReg pa with
      | some v => s.hostDone r.port true (bytesOfNat 8 v.toNat)
      | none =>
        let s1 := (List.range ((pa % 64 + r.len + 63) / 64)).foldl (fun s i => s.readNote (pa - pa % 64 + 64 * i)) s
        ({ s1 with freeCtr := s1.freeCtr + 1 }).hostDone r.port true ((List.range r.len).map (fun i => s1.hostByte (pa + i)))

/-- BAR0 of PF0 (17 Table 1): the field blocks, and the wafer block at 0x400_0000. -/
def bar0 (off : Nat) : Nat := if off < 0x4000000 then 0x200000000000 + off else 0x200040000000 + (off - 0x4000000)

/-- A request to the queue pages (17 R406): DB is WO, CONS RO; a page answers only the function that QFN names. -/
def State.queuePage (s : State) (r : HostReq) : State :=
  let q := r.off / 4096
  let mine := (SMap.get 0 (s.pcieBlk r.port).qfn q).toNat == r.fn
  if 16 ≤ q ∨ 16 ≤ r.off % 4096 then s.hostDone r.port false []
  else match r.data with
    | some bs =>
      (if mine ∧ r.off % 4096 = 0 ∧ 2 ≤ r.len then s.writeProd r.port (16 * r.port + q) (natOfBytes (bs.take 2)) else s).hostDone r.port true []
    | none =>
      let v := if mine then (s.lqueue (16 * r.port + q)).cons.toNat * 2 ^ 64 else 0
      s.hostDone r.port true ((bytesOfNat 16 v).drop (r.off % 4096) |>.take r.len)

/-- BAR0 of a virtual function (17 Table 1): read-only copies of DEV_ID at offset 0 and of its FN entry at offset 8, and zero elsewhere
(DESIGN CHOICE, log 99: the offsets are not stated). -/
def State.vfBar0 (s : State) (r : HostReq) : State :=
  if 4096 < r.off + r.len then s.hostDone r.port false []
  else
    let b := bytesOfNat 8 s.devId.toNat ++ bytesOfNat 8 (SMap.get (FnEntry.init r.fn) (s.pcieBlk r.port).fn r.fn).word.toNat
    s.hostDone r.port true (if r.data.isSome then [] else (List.range r.len).map (fun i => b.getD (r.off + i) 0))

/-- A host's write of NumVFs, at offset 0x10 of PF0's SR-IOV capability, which `bar` 7 stands for: it enables VF1 to VF(v), of 63
(17 Table 1; PRESUMED, log 99: the capability is PCI Express's). Another request of configuration space is not served. -/
def State.configSpace (s : State) (r : HostReq) : State :=
  match r.data with
  | some bs =>
    if r.fn = 0 ∧ r.off = 16 then
      (s.updPcie r.port (fun b => { b with numVfs := Nat.min 63 (natOfBytes (bs.take 2)) })).hostDone r.port true []
    else s.hostDone r.port false []
  | none => s.hostDone r.port false []

/-- HOST_MEMORY_REQUEST (17 R405, R406, Table 1; 14 R368): a host's read or write of a BAR is performed and completed; one that
maps nothing, reaches a reserved range, or names a virtual function that NumVFs does not enable, completes as Unsupported Request. -/
def execHostMemoryRequest (r : HostReq) (s : State) : Host.Outcome State Fault Refusal :=
  .next (if 2 ≤ r.port ∨ 64 ≤ r.fn ∨ !(s.pcieBlk r.port).up then s
  else if (s.pcieBlk r.port).numVfs < r.fn then s.hostDone r.port false []
  else match r.bar with
    | 0 => if r.fn = 0 then (if r.off < 0x4100000 then s.hostAccess r (bar0 r.off) else s.hostDone r.port false []) else s.vfBar0 r
    | 2 => s.queuePage r
    | 4 =>
      if r.fn = 0 then (if r.off + r.len ≤ 35184372088832 then s.hostAccess r r.off else s.hostDone r.port false [])
      else if r.off + r.len ≤ 68719476736 then
        s.hostAccess r ((SMap.get (FnEntry.init r.fn) (s.pcieBlk r.port).fn r.fn).vfbase.toNat * 1073741824 + r.off)
      else s.hostDone r.port false []
    | 7 => s.configSpace r
    | _ => s.hostDone r.port false [])

end Sys2Proof.Machine
end

