-- ==== Sys2Proof/Machine/Dispatch.lean ====
section
/-! DEFINITION. The dispatch: one arm per constructor of Instr. -/
namespace Sys2Proof.Machine

/-- What an instruction does. -/
def exec (i : Instr) (s : State) : Host.Outcome State Fault Refusal :=
  match i with
  | .pass n => Sys2Proof.Machine.execPass n s
  | .steer n => Sys2Proof.Machine.execSteer n s
  | .merge n => Sys2Proof.Machine.execMerge n s
  | .mergec n => Sys2Proof.Machine.execMergec n s
  | .gate n => Sys2Proof.Machine.execGate n s
  | .sync n => Sys2Proof.Machine.execSync n s
  | .lenter n => Sys2Proof.Machine.execLenter n s
  | .lnext n => Sys2Proof.Machine.execLnext n s
  | .lexit n => Sys2Proof.Machine.execLexit n s
  | .lbound n => Sys2Proof.Machine.execLbound n s
  | .ldone n => Sys2Proof.Machine.execLdone n s
  | .call n => Sys2Proof.Machine.execCall n s
  | .ret n => Sys2Proof.Machine.execRet n s
  | .cfree n => Sys2Proof.Machine.execCfree n s
  | .tagget n => Sys2Proof.Machine.execTagget n s
  | .tagset n => Sys2Proof.Machine.execTagset n s
  | .eos n => Sys2Proof.Machine.execEos n s
  | .sink n => Sys2Proof.Machine.execSink n s
  | .purge n => Sys2Proof.Machine.execPurge n s
  | .trap n => Sys2Proof.Machine.execTrap n s
  | .brk n => Sys2Proof.Machine.execBrk n s
  | .event n => Sys2Proof.Machine.execEvent n s
  | .launch n e1 e2 => Sys2Proof.Machine.execLaunch n e1 e2 s
  | .ctxalloc n => Sys2Proof.Machine.execCtxalloc n s
  | .ctxfree n => Sys2Proof.Machine.execCtxfree n s
  | .pack n => Sys2Proof.Machine.execPack n s
  | .unpack n => Sys2Proof.Machine.execUnpack n s
  | .bcast n => Sys2Proof.Machine.execBcast n s
  | .shuf n => Sys2Proof.Machine.execShuf n s
  | .lget n => Sys2Proof.Machine.execLget n s
  | .lput n => Sys2Proof.Machine.execLput n s
  | .lred n => Sys2Proof.Machine.execLred n s
  | .lscan n => Sys2Proof.Machine.execLscan n s
  | .width n => Sys2Proof.Machine.execWidth n s
  | .iadd n => Sys2Proof.Machine.execIadd n s
  | .isub n => Sys2Proof.Machine.execIsub n s
  | .iadds n => Sys2Proof.Machine.execIadds n s
  | .isubs n => Sys2Proof.Machine.execIsubs n s
  | .imul n => Sys2Proof.Machine.execImul n s
  | .imulh n => Sys2Proof.Machine.execImulh n s
  | .imad n => Sys2Proof.Machine.execImad n s
  | .idiv n => Sys2Proof.Machine.execIdiv n s
  | .irem n => Sys2Proof.Machine.execIrem n s
  | .imin n => Sys2Proof.Machine.execImin n s
  | .imax n => Sys2Proof.Machine.execImax n s
  | .iabs n => Sys2Proof.Machine.execIabs n s
  | .ineg n => Sys2Proof.Machine.execIneg n s
  | .and n => Sys2Proof.Machine.execAnd n s
  | .or n => Sys2Proof.Machine.execOr n s
  | .xor n => Sys2Proof.Machine.execXor n s
  | .andn n => Sys2Proof.Machine.execAndn n s
  | .orn n => Sys2Proof.Machine.execOrn n s
  | .shl n => Sys2Proof.Machine.execShl n s
  | .shr n => Sys2Proof.Machine.execShr n s
  | .sar n => Sys2Proof.Machine.execSar n s
  | .rol n => Sys2Proof.Machine.execRol n s
  | .clz n => Sys2Proof.Machine.execClz n s
  | .ctz n => Sys2Proof.Machine.execCtz n s
  | .popc n => Sys2Proof.Machine.execPopc n s
  | .brev n => Sys2Proof.Machine.execBrev n s
  | .bfx n => Sys2Proof.Machine.execBfx n s
  | .bfi n => Sys2Proof.Machine.execBfi n s
  | .icmp n => Sys2Proof.Machine.execIcmp n s
  | .sel n => Sys2Proof.Machine.execSel n s
  | .lit n => Sys2Proof.Machine.execLit n s
  | .aadr n => Sys2Proof.Machine.execAadr n s
  | .cvti n => Sys2Proof.Machine.execCvti n s
  | .fadd n => Sys2Proof.Machine.execFadd n s
  | .fsub n => Sys2Proof.Machine.execFsub n s
  | .fmul n => Sys2Proof.Machine.execFmul n s
  | .fdiv n => Sys2Proof.Machine.execFdiv n s
  | .fma n => Sys2Proof.Machine.execFma n s
  | .fms n => Sys2Proof.Machine.execFms n s
  | .fnma n => Sys2Proof.Machine.execFnma n s
  | .fmin n => Sys2Proof.Machine.execFmin n s
  | .fmax n => Sys2Proof.Machine.execFmax n s
  | .fminn n => Sys2Proof.Machine.execFminn n s
  | .fmaxn n => Sys2Proof.Machine.execFmaxn n s
  | .fabs n => Sys2Proof.Machine.execFabs n s
  | .fneg n => Sys2Proof.Machine.execFneg n s
  | .fcpsgn n => Sys2Proof.Machine.execFcpsgn n s
  | .fcmp n => Sys2Proof.Machine.execFcmp n s
  | .fclass n => Sys2Proof.Machine.execFclass n s
  | .fsqrt n => Sys2Proof.Machine.execFsqrt n s
  | .frsq n => Sys2Proof.Machine.execFrsq n s
  | .frcp n => Sys2Proof.Machine.execFrcp n s
  | .fexp n => Sys2Proof.Machine.execFexp n s
  | .fexp2 n => Sys2Proof.Machine.execFexp2 n s
  | .flog n => Sys2Proof.Machine.execFlog n s
  | .flog2 n => Sys2Proof.Machine.execFlog2 n s
  | .fsin n => Sys2Proof.Machine.execFsin n s
  | .fcos n => Sys2Proof.Machine.execFcos n s
  | .fsincos n => Sys2Proof.Machine.execFsincos n s
  | .ftanh n => Sys2Proof.Machine.execFtanh n s
  | .fsigm n => Sys2Proof.Machine.execFsigm n s
  | .ferf n => Sys2Proof.Machine.execFerf n s
  | .frnd n => Sys2Proof.Machine.execFrnd n s
  | .fscale n => Sys2Proof.Machine.execFscale n s
  | .fcvt n => Sys2Proof.Machine.execFcvt n s
  | .fquant n => Sys2Proof.Machine.execFquant n s
  | .fdeq n => Sys2Proof.Machine.execFdeq n s
  | .jord n => Sys2Proof.Machine.execJord n s
  | .jseed n => Sys2Proof.Machine.execJseed n s
  | .jconst n => Sys2Proof.Machine.execJconst n s
  | .jget n => Sys2Proof.Machine.execJget n s
  | .jput n => Sys2Proof.Machine.execJput n s
  | .jdiff n => Sys2Proof.Machine.execJdiff n s
  | .jintg n => Sys2Proof.Machine.execJintg n s
  | .jtrunc n => Sys2Proof.Machine.execJtrunc n s
  | .jflag n => Sys2Proof.Machine.execJflag n s
  | .accinit n => Sys2Proof.Machine.execAccinit n s
  | .accadd n => Sys2Proof.Machine.execAccadd n s
  | .accmax n => Sys2Proof.Machine.execAccmax n s
  | .accmin n => Sys2Proof.Machine.execAccmin n s
  | .accrd n => Sys2Proof.Machine.execAccrd n s
  | .krd n => Sys2Proof.Machine.execKrd n s
  | .kwr n => Sys2Proof.Machine.execKwr n s
  | .csrrd n => Sys2Proof.Machine.execCsrrd n s
  | .csrwr n => Sys2Proof.Machine.execCsrwr n s
  | .wload n => Sys2Proof.Machine.execWload n s
  | .wloadx n => Sys2Proof.Machine.execWloadx n s
  | .wswap n => Sys2Proof.Machine.execWswap n s
  | .mma n e1 => Sys2Proof.Machine.execMma n e1 s
  | .mmaj n e1 => Sys2Proof.Machine.execMmaj n e1 s
  | .mmax n e1 e2 => Sys2Proof.Machine.execMmax n e1 e2 s
  | .apzero n => Sys2Proof.Machine.execApzero n s
  | .apmv n => Sys2Proof.Machine.execApmv n s
  | .appeek n => Sys2Proof.Machine.execAppeek n s
  | .jobpoll n => Sys2Proof.Machine.execJobpoll n s
  | .jobwait n => Sys2Proof.Machine.execJobwait n s
  | .ld n => Sys2Proof.Machine.execLd n s
  | .st n => Sys2Proof.Machine.execSt n s
  | .ldg n => Sys2Proof.Machine.execLdg n s
  | .sts n => Sys2Proof.Machine.execSts n s
  | .strm n e1 => Sys2Proof.Machine.execStrm n e1 s
  | .strmst n e1 => Sys2Proof.Machine.execStrmst n e1 s
  | .pref n => Sys2Proof.Machine.execPref n s
  | .tld n => Sys2Proof.Machine.execTld n s
  | .tst n => Sys2Proof.Machine.execTst n s
  | .aadd n => Sys2Proof.Machine.execAadd n s
  | .afadd n => Sys2Proof.Machine.execAfadd n s
  | .amin n => Sys2Proof.Machine.execAmin n s
  | .amax n => Sys2Proof.Machine.execAmax n s
  | .aand n => Sys2Proof.Machine.execAand n s
  | .aor n => Sys2Proof.Machine.execAor n s
  | .axor n => Sys2Proof.Machine.execAxor n s
  | .axchg n => Sys2Proof.Machine.execAxchg n s
  | .acas n => Sys2Proof.Machine.execAcas n s
  | .aincb n => Sys2Proof.Machine.execAincb n s
  | .fence n => Sys2Proof.Machine.execFence n s
  | .cpy n e1 => Sys2Proof.Machine.execCpy n e1 s
  | .cpyd n e1 => Sys2Proof.Machine.execCpyd n e1 s
  | .cpye n e1 => Sys2Proof.Machine.execCpye n e1 s
  | .mcast n e1 e2 => Sys2Proof.Machine.execMcast n e1 e2 s
  | .gath n e1 => Sys2Proof.Machine.execGath n e1 s
  | .scat n e1 => Sys2Proof.Machine.execScat n e1 s
  | .tfill n => Sys2Proof.Machine.execTfill n s
  | .tevict n => Sys2Proof.Machine.execTevict n s
  | .tinv n => Sys2Proof.Machine.execTinv n s
  | .lookup n => Sys2Proof.Machine.execLookup n s
  | .tstate n => Sys2Proof.Machine.execTstate n s
  | .tset n => Sys2Proof.Machine.execTset n s
  | .rtrd n => Sys2Proof.Machine.execRtrd n s
  | .rtwr n => Sys2Proof.Machine.execRtwr n s
  | .maprd n => Sys2Proof.Machine.execMaprd n s
  | .bandrd n => Sys2Proof.Machine.execBandrd n s
  | .qopen n e1 e2 => Sys2Proof.Machine.execQopen n e1 e2 s
  | .qcontrib n => Sys2Proof.Machine.execQcontrib n s
  | .qclose n => Sys2Proof.Machine.execQclose n s
  | .qstat n => Sys2Proof.Machine.execQstat n s
  | .qlag n => Sys2Proof.Machine.execQlag n s
  | .qwset n => Sys2Proof.Machine.execQwset n s
  | .cwalk n e1 => Sys2Proof.Machine.execCwalk n e1 s
  | .time n => Sys2Proof.Machine.execTime n s
  | .toffs n => Sys2Proof.Machine.execToffs n s
  | .cntrd n => Sys2Proof.Machine.execCntrd n s
  | .cntwr n => Sys2Proof.Machine.execCntwr n s
  | .ext v => Sys2Proof.Machine.execExt v s
  | .tokenArrival k => Sys2Proof.Machine.execTokenArrival k s
  | .stickyOverflowScan asid lc => Sys2Proof.Machine.execStickyOverflowScan asid lc s
  | .matchRefill asid lc => Sys2Proof.Machine.execMatchRefill asid lc s
  | .channelOverflowSpill asid lc vc => Sys2Proof.Machine.execChannelOverflowSpill asid lc vc s
  | .channelOverflowReplay asid lc vc => Sys2Proof.Machine.execChannelOverflowReplay asid lc vc s
  | .readyQueueEntry core => Sys2Proof.Machine.execReadyQueueEntry core s
  | .colourRefill asid lc colour => Sys2Proof.Machine.execColourRefill asid lc colour s
  | .starvationTimeout asid lc k => Sys2Proof.Machine.execStarvationTimeout asid lc k s
  | .colourReturn asid colour => Sys2Proof.Machine.execColourReturn asid colour s
  | .trapTokenReceipt k => Sys2Proof.Machine.execTrapTokenReceipt k s
  | .engineCommandEnqueue k => Sys2Proof.Machine.execEngineCommandEnqueue k s
  | .engineJobGrant cluster eng => Sys2Proof.Machine.execEngineJobGrant cluster eng s
  | .matrixJobStart cluster => Sys2Proof.Machine.execMatrixJobStart cluster s
  | .mmajPlaneRetire cluster => Sys2Proof.Machine.execMmajPlaneRetire cluster s
  | .matrixJobRetire cluster k => Sys2Proof.Machine.execMatrixJobRetire cluster k s
  | .appeekResponse cluster => Sys2Proof.Machine.execAppeekResponse cluster s
  | .copyJobStart cluster k => Sys2Proof.Machine.execCopyJobStart cluster k s
  | .copyTileClaim cluster k => Sys2Proof.Machine.execCopyTileClaim cluster k s
  | .engineLineOwnership cluster k => Sys2Proof.Machine.execEngineLineOwnership cluster k s
  | .copyJobRetire cluster k => Sys2Proof.Machine.execCopyJobRetire cluster k s
  | .multicastDelivery k => Sys2Proof.Machine.execMulticastDelivery k s
  | .chainOrderEntry asid lc k => Sys2Proof.Machine.execChainOrderEntry asid lc k s
  | .memoryAccessRelease asid lc k => Sys2Proof.Machine.execMemoryAccessRelease asid lc k s
  | .homeAccess k => Sys2Proof.Machine.execHomeAccess k s
  | .memoryReply asid lc k => Sys2Proof.Machine.execMemoryReply asid lc k s
  | .writeResend k => Sys2Proof.Machine.execWriteResend k s
  | .writeResendExpiry k => Sys2Proof.Machine.execWriteResendExpiry k s
  | .streamComplete asid lc k => Sys2Proof.Machine.execStreamComplete asid lc k s
  | .speculativeFillComplete asid lc k => Sys2Proof.Machine.execSpeculativeFillComplete asid lc k s
  | .tlbMissWalk field asid vpn who => Sys2Proof.Machine.execTlbMissWalk field asid vpn who s
  | .walkComplete field k => Sys2Proof.Machine.execWalkComplete field k s
  | .pageFaultResolution field k leaf => Sys2Proof.Machine.execPageFaultResolution field k leaf s
  | .backingPageTimeout field k => Sys2Proof.Machine.execBackingPageTimeout field k s
  | .invalidateAll field => Sys2Proof.Machine.execInvalidateAll field s
  | .invalidateAsid field asid => Sys2Proof.Machine.execInvalidateAsid field asid s
  | .invalidateRange field asid => Sys2Proof.Machine.execInvalidateRange field asid s
  | .invalidationComplete field => Sys2Proof.Machine.execInvalidationComplete field s
  | .refreshOperation cluster col layer forced => Sys2Proof.Machine.execRefreshOperation cluster col layer forced s
  | .bankSensorRead cluster col layer temp => Sys2Proof.Machine.execBankSensorRead cluster col layer temp s
  | .patrolScrub cluster col layer line e => Sys2Proof.Machine.execPatrolScrub cluster col layer line e s
  | .bankLoss cluster col layer spare => Sys2Proof.Machine.execBankLoss cluster col layer spare s
  | .rebuildStripe cluster col layer => Sys2Proof.Machine.execRebuildStripe cluster col layer s
  | .verticalBusFailure cluster col own => Sys2Proof.Machine.execVerticalBusFailure cluster col own s
  | .columnLoss cluster col => Sys2Proof.Machine.execColumnLoss cluster col s
  | .layerShutdown cluster layer => Sys2Proof.Machine.execLayerShutdown cluster layer s
  | .layerRestart cluster layer => Sys2Proof.Machine.execLayerRestart cluster layer s
  | .linkCrcFailure cx cy dir => Sys2Proof.Machine.execLinkCrcFailure cx cy dir s
  | .residueCheckFailure unit => Sys2Proof.Machine.execResidueCheckFailure unit s
  | .coreRetirement cx cy cause => Sys2Proof.Machine.execCoreRetirement cx cy cause s
  | .rebindComplete asid lc => Sys2Proof.Machine.execRebindComplete asid lc s
  | .remapScrub field e reads => Sys2Proof.Machine.execRemapScrub field e reads s
  | .remapRebuildComplete field e w => Sys2Proof.Machine.execRemapRebuildComplete field e w s
  | .remapEntryWrite field e w => Sys2Proof.Machine.execRemapEntryWrite field e w s
  | .bandMeasurement field f rtt0 rtt1 => Sys2Proof.Machine.execBandMeasurement field f rtt0 rtt1 s
  | .offsetMeasurement field f t1 t2 t3 => Sys2Proof.Machine.execOffsetMeasurement field f t1 t2 t3 s
  | .doorbell port fn q val => Sys2Proof.Machine.execDoorbell port fn q val s
  | .lqProdWrite port q val => Sys2Proof.Machine.execLqProdWrite port q val s
  | .launchIntake q obj => Sys2Proof.Machine.execLaunchIntake q obj s
  | .startTokenInjection asid => Sys2Proof.Machine.execStartTokenInjection asid s
  | .pitchCompletion asid => Sys2Proof.Machine.execPitchCompletion asid s
  | .cancel port queue index => Sys2Proof.Machine.execCancel port queue index s
  | .preempt port asid => Sys2Proof.Machine.execPreempt port asid s
  | .watchdog asid => Sys2Proof.Machine.execWatchdog asid s
  | .preemptionHalt asid => Sys2Proof.Machine.execPreemptionHalt asid s
  | .preemptionSave asid => Sys2Proof.Machine.execPreemptionSave asid s
  | .pitchRestore asid => Sys2Proof.Machine.execPitchRestore asid s
  | .meetingCommandDequeue field k => Sys2Proof.Machine.execMeetingCommandDequeue field k s
  | .contributionArrival field k => Sys2Proof.Machine.execContributionArrival field k s
  | .roundTimeout field e => Sys2Proof.Machine.execRoundTimeout field e s
  | .ringChunkArrival k => Sys2Proof.Machine.execRingChunkArrival k s
  | .ringCreditArrival k => Sys2Proof.Machine.execRingCreditArrival k s
  | .ringTimeout field k => Sys2Proof.Machine.execRingTimeout field k s
  | .deadNotice k => Sys2Proof.Machine.execDeadNotice k s
  | .completionIndex k => Sys2Proof.Machine.execCompletionIndex k s
  | .ownClaim port => Sys2Proof.Machine.execOwnClaim port s
  | .ownRelease port => Sys2Proof.Machine.execOwnRelease port s
  | .hbBeat port => Sys2Proof.Machine.execHbBeat port s
  | .ownerLost => Sys2Proof.Machine.execOwnerLost s
  | .regionRelease field => Sys2Proof.Machine.execRegionRelease field s
  | .unitClear field => Sys2Proof.Machine.execUnitClear field s
  | .pageGrant field => Sys2Proof.Machine.execPageGrant field s
  | .coreRetire field => Sys2Proof.Machine.execCoreRetire field s
  | .journalClear field => Sys2Proof.Machine.execJournalClear field s
  | .svnCommit field => Sys2Proof.Machine.execSvnCommit field s
  | .mailboxBadCommand field => Sys2Proof.Machine.execMailboxBadCommand field s
  | .reportRingWrite => Sys2Proof.Machine.execReportRingWrite s
  | .bootStart rom fw => Sys2Proof.Machine.execBootStart rom fw s
  | .bootStep step ok => Sys2Proof.Machine.execBootStep step ok s
  | .rcvcmdGo port jclr => Sys2Proof.Machine.execRcvcmdGo port jclr s
  | .imageVerification port => Sys2Proof.Machine.execImageVerification port s
  | .spdmRequest port index => Sys2Proof.Machine.execSpdmRequest port index s
  | .hostMemoryRequest r => Sys2Proof.Machine.execHostMemoryRequest r s
  | .throttleStep field power => Sys2Proof.Machine.execThrottleStep field power s
  | .throttleRecovery field => Sys2Proof.Machine.execThrottleRecovery field s
  | .holdClear field => Sys2Proof.Machine.execHoldClear field s
  | .clksetWrite port field code => Sys2Proof.Machine.execClksetWrite port field code s
  | .registerWrite src pa val => Sys2Proof.Machine.execRegisterWrite src pa val s
  | .portEgress port k => Sys2Proof.Machine.execPortEgress port k s
  | .frameReceive port lane corr f => Sys2Proof.Machine.execFrameReceive port lane corr f s
  | .nakReplay port lane seq => Sys2Proof.Machine.execNakReplay port lane seq s
  | .laneTuneDone port lane mon => Sys2Proof.Machine.execLaneTuneDone port lane mon s
  | .laneTrainDone port lane => Sys2Proof.Machine.execLaneTrainDone port lane s
  | .ringFault port site => Sys2Proof.Machine.execRingFault port site s
  | .berFault port lane => Sys2Proof.Machine.execBerFault port lane s
  | .move port lane wl => Sys2Proof.Machine.execMove port lane wl s
  | .moveack port lane => Sys2Proof.Machine.execMoveack port lane s
  | .movenak port lane => Sys2Proof.Machine.execMovenak port lane s
  | .restripe port lane stripe => Sys2Proof.Machine.execRestripe port lane stripe s
  | .down port => Sys2Proof.Machine.execDown port s
  | .portRetrain port => Sys2Proof.Machine.execPortRetrain port s
  | .lockLoop port site lo mid hi temp => Sys2Proof.Machine.execLockLoop port site lo mid hi temp s
  | .ringPageSample port mon temp => Sys2Proof.Machine.execRingPageSample port mon temp s
  | .ringPagePoll port => Sys2Proof.Machine.execRingPagePoll port s
  | .pctlWrite src port val => Sys2Proof.Machine.execPctlWrite src port val s
  | .laserUpdate m r => Sys2Proof.Machine.execLaserUpdate m r s
  | .mappingUnitRequest k => Sys2Proof.Machine.execMappingUnitRequest k s
  | .linkUpChange port up rate width => Sys2Proof.Machine.execLinkUpChange port up rate width s
  | .hostPortCompletion k ok => Sys2Proof.Machine.execHostPortCompletion k ok s
  | .powerLoss flashing => Sys2Proof.Machine.execPowerLoss flashing s

end Sys2Proof.Machine
end

