-- ==== Sys2Proof/WellFormed.lean ====
section
/-! DEFINITION. Well-formed instructions: the node records that the loader accepts, apart from what depends on the
kernel and the graph object (02 Table 11, codes 0x02 to 0x09 and 0x0C). -/
namespace Sys2Proof
open Sys2Proof.Machine

/-- Whether an instruction is well-formed: a node record that no check of Table 11 rejects, or a step of the device. -/
def WellFormed (i : Instr) : Bool :=
  match view i with
  | none => true
  | some v => v.opc == 0x3FF || (checkNode v).isNone

/-- Whether an instruction stands in a node record. -/
def isNode (i : Instr) : Bool := (view i).isSome

end Sys2Proof
end

