-- ==== Sys2Proof/Machine/Run.lean ====
section
/-! DEFINITION. What the device does in one step: issue from a ready queue (01 R24, R25; 06 R157), a step of the device,
the passage of time; what it does when the agenda is empty; and how a record is placed for the next step to run. -/
namespace Sys2Proof.Machine

/-- The record at a node index; an index beyond the node store has none, which reads as unset (02 R42, R44). -/
def LCore.recAt (x : LCore) (i : Nat) : Rec := if i < 4096 then x.node i else recUnset

/-- Whether a record that a firing of node `i` reads holds an uncorrectable error (02 R42, R58). -/
def LCore.eccBad (x : LCore) (i : Nat) : Bool :=
  let exts := match opSpec (recOpc (x.recAt i)).toNat with | some sp => sp.exts | none => 0
  (List.range (exts + 1)).any (fun k => x.nodeUe.contains (i + k))

/-- Whether the extension records that a head at node `i` needs lie within its kernel's node request (02 R57 E_EXT). -/
def LCore.extsFit (x : LCore) (i : Nat) : Bool :=
  match opSpec (recOpc (x.recAt i)).toNat with
  | some sp => sp.exts == 0 || decide (i + sp.exts < Nat.min 4096 x.reqNodes)
  | none => true

/-- FETCH: the instruction at a node index, from its record and the two after it; an error that their ECC detects and cannot
correct comes first, whatever they hold (02 R42, R58). -/
def LCore.fetch (x : LCore) (i : Nat) : Except Diag Instr :=
  if x.eccBad i then .error .uncorrectable
  else if x.extsFit i then decode (x.recAt i) (x.recAt (i + 1)) (x.recAt (i + 2))
  else .error .ext

/-- Whether the firings of a logical core may issue: its pitch runs and no rebind stops it (06 R180, 10 R270). -/
def State.mayIssue (s : State) (f : Firing) : Bool :=
  match s.pitch? f.asid, s.lc? f.asid f.lc with
  | some p, some x => p.st == .running && !x.blocked
  | _, _ => false

/-- The state with a firing taken from the `k`-th place of a ready queue to the issue stage; an allocation that its retry gave
it (06 R158) stands again where its own operation finds it first. -/
def State.take (s : State) (core k : Nat) (f : Firing) : State :=
  { (s.setReady core (listDrop (s.readyQ core) k)).giveBack f with cur := some { f with grant := .none, waits := false } }

/-- Issue the `k`-th firing of a ready queue: its instruction is executed, or its record's diagnostic traps (02 R58).
`none`: a condition of 06 Table 5 holds it, or it may not issue. -/
def State.issueAt (s : State) (core k : Nat) : Option (Host.Outcome State Fault Refusal) :=
  match (s.readyQ core)[k]? with
  | none => none
  | some f =>
    if s.mayIssue f then
      match s.lc? f.asid f.lc with
      | none => none
      | some x =>
        match x.fetch f.node with
        | .error d => some (.next ((s.take core k f).firingTraps f (x.opcAt f.node) .illegalNode d.code))
        | .ok i =>
          match exec i (s.take core k f) with
          | .next t => if t.cur.isSome then none else some (.next t)
          | o => some o
    else none

/-- The flits of tokens held in a core's injection queue for a logical core that a rebind blocks (10 R270). -/
def State.heldFlits (s : State) (core : Nat) : Nat :=
  (s.flight.map (fun g =>
    match g.src, g.dst with
    | .lcore a l, .lcore a' l' =>
      match s.lc? a l, s.lc? a' l' with
      | some x, some y => if g.mesh ∧ x.core = core ∧ y.blocked then flitsOf g.tok.lanes.length else 0
      | _, _ => 0
    | _, _ => 0)).sum

/-- Whether held tokens fill the injection queue of a core, which then issues no firing (10 R270). -/
def State.injectionFull (s : State) (core : Nat) : Bool :=
  0 < s.heldFlits core && Config.injDepth ≤ s.heldFlits core

/-- Note the firings of a ready queue that wait for a tile (01 R25). -/
def State.noteWaits (s : State) (core : Nat) : State :=
  s.setReady core ((s.readyQ core).map (fun f =>
    match s.lc? f.asid f.lc with | some x => { f with waits := f.waits || tileHeld x f } | none => f))

/-- Whether the firing at place `k` has waited for a tile and stands behind another that has: those issue in the order of the
queue (01 R25). -/
def behindWaiter (q : List Firing) (k : Nat) : Bool :=
  match q[k]? with | some f => f.waits && (q.take k).any (·.waits) | none => false

/-- Issue the oldest firing of a ready queue that no condition holds, among the places listed (06 R157; 01 R25). -/
def State.issueFrom (s : State) (core : Nat) : List Nat → Host.Outcome State Fault Refusal
  | [] => .next s
  | k :: r => match (if behindWaiter (s.readyQ core) k then none else s.issueAt core k) with
    | some o => o
    | none => State.issueFrom s core r

/-- A physical core issues its oldest issuable firing (06 R157); none while held tokens fill its injection queue (10 R270). -/
def State.issue (s : State) (core : Nat) : Host.Outcome State Fault Refusal :=
  if s.injectionFull core then .next s
  else (s.noteWaits core).issueFrom core (List.range (s.readyQ core).length)

/-- Ticks of a field's time reference (16 R398); HBAGE counts the whole µs of the boot field's TIME while there is an
owner (17 R407). A pitch with a job or a token outstanding begins its watchdog interval anew (06 R178). -/
def State.elapse (s : State) (field ticks : Nat) : State :=
  let t := (s.field field).time.toNat
  let busy (e : Nat × Pitch) : Bool := e.2.homeField == field && e.2.st == .running && s.busyPitch e.1
  let s0 := s.updField field (fun f => { f with time := BitVec.ofNat 64 (t + ticks) })
  let s1 := (s.pitches.filter busy).foldl (fun a e =>
    a.updPitch e.1 (fun p => { p with lastFiring := (a.field field).time.toNat })) s0
  if field = s.bootField ∧ (s.owner = 1 ∨ s.owner = 2) then
    { s1 with hbage := BitVec.ofNat 32 (Nat.min (s.hbage.toNat + ((t + ticks) / 1000 - t / 1000)) 4294967295) }
  else s1

/-- The hottest junction of a field reads a new temperature, in units of 0.125 °C (17 R423); TIME is noted where it falls to 95 °C or
below, which a hold waits for (17 R422). -/
def State.junction (s : State) (field temp : Nat) : State :=
  s.updField field (fun f =>
    let t : BitVec 12 := BitVec.ofNat 12 temp
    { f with tj := t, tjSince := if 760 < f.tj.toNat ∧ t.toNat ≤ 760 then f.time.toNat else f.tjSince })

/-- A clock cycle of a logical core of a running pitch (16 R403 codes 0x01, 0x03, 0x05, 0x06). -/
def State.cycle (s : State) (asid lc : Nat) (busy held : Bool) : State :=
  if s.running asid then
    s.updLC asid lc (fun x =>
      let full := decide (64 ≤ (s.readyQ x.core).length)
      (((x.perfEvent 0x01 1).perfEvent 0x03 busy.toNat).perfEvent 0x05 full.toNat).perfEvent 0x06 held.toNat)
  else s

/-- An error of an SRAM (13 R334; 02 R58): a corrected one is counted; an uncorrectable one is counted, and poisons the line of a
tile, whose unreadable bytes read zero (13 R335), marks a node record, or in control state makes the blamed firing trap with
ILLEGAL_NODE, whose DETAIL is not stated there (DESIGN CHOICE, log 13), or ends the pitch with WATCHDOG where none can be blamed. A
saved pitch holds no SRAM (16 R397). -/
def State.sramError (s : State) (asid lc : Nat) (e : SramErr) : State :=
  match s.lc? asid lc with
  | none => s
  | some x =>
    if (s.pitch? asid).any (fun p => p.st == .saved) then s
    else
    let t := s.updLC asid lc (fun x => x.count (fun c => { c with sramUe := satInc c.sramUe }))
    match e with
    | .corrected => s.updLC asid lc (fun x => x.count (fun c => { c with sramCe := satInc c.sramCe }))
    | .tile n w =>
      if x.tileCount ≤ n ∨ 4096 ≤ w then s
      else t.updLC asid lc (fun x => x.updTile n (fun k => { k with
        poison := addNat k.poison (w / 8)
        bytes := (List.range 8).foldl (fun m i => SMap.put 0 m (8 * w + i) 0) k.bytes }))
    | .node n => if 4096 ≤ n then s else t.updLC asid lc (fun x => { x with nodeUe := addNat x.nodeUe n })
    | .control none => if s.running asid then (let r := t.endFree .watchdog; r.2.endLaunch asid r.1) else s
    | .control (some k) =>
      match (s.readyQ x.core)[k]? with
      | none => s
      | some f =>
        if f.asid = asid ∧ f.lc = lc ∧ s.running asid then
          let r := t.fresh
          (r.2.setReady x.core (listDrop (s.readyQ x.core) k)).firingTraps f (x.opcAt f.node) .illegalNode
            ((Config.freeWord r.1).toNat % 65536)
        else s

/-- Perform an action. A node record's instruction is issued, never an event of its own. -/
def perform (a : Action) (s : State) : Host.Outcome State Fault Refusal :=
  match a with
  | .issue core => s.issue core
  | .event i => if isNode i then .next s else exec i s
  | .elapse field ticks => .next (s.elapse field ticks)
  | .cycle asid lc busy held => .next (s.cycle asid lc busy held)
  | .sram asid lc e => .next (s.sramError asid lc e)
  | .junction field temp => .next (s.junction field temp)

/-- Events of a device, one for each index below `n`. -/
def eachBelow (n : Nat) (g : Nat → Instr) : List Action := (List.range n).map (fun k => .event (g k))

/-- What a logical core can do of itself: refill, release, translate, reply and move streams. -/
def LCore.idleActions (asid lc : Nat) (x : LCore) : List Action :=
  [.event (.matchRefill asid lc), .event (.stickyOverflowScan asid lc)]
    ++ eachBelow 8 (.channelOverflowReplay asid lc)
    ++ (x.mem.zipIdx).flatMap (fun e =>
      [.event (.chainOrderEntry asid lc e.2), .event (.memoryAccessRelease asid lc e.2), .event (.streamComplete asid lc e.2),
       .event (.speculativeFillComplete asid lc e.2), .event (.memoryReply asid lc e.2)]
        ++ e.1.parts.map (fun p => .event (.tlbMissWalk x.field asid (p.va / 4096) (.access asid lc e.1.id))))
    ++ [.event (.rebindComplete asid lc)]

/-- What the engines of a cluster can do of themselves. -/
def Cluster.idleActions (k : Nat) (c : Cluster) : List Action :=
  [.event (.engineJobGrant k 0), .event (.engineJobGrant k 1), .event (.matrixJobStart k), .event (.mmajPlaneRetire k),
   .event (.appeekResponse k)]
    ++ eachBelow c.mq.length (.matrixJobRetire k)
    ++ (List.range c.cpq.length).flatMap (fun j =>
      [.event (.copyJobStart k j), .event (.copyTileClaim k j), .event (.engineLineOwnership k j), .event (.copyJobRetire k j)])

/-- What the units of a field can do of themselves. -/
def Field.idleActions (n : Nat) (f : Field) : List Action :=
  eachBelow f.walks.length (.walkComplete n) ++ [.event (.invalidationComplete n), .event (.meetingCommandDequeue n 0)]
    ++ (f.walkers.map (fun w => .event (.ringTimeout n w.1))) ++ (f.meet.map (fun e => .event (.roundTimeout n e.1)))

/-- What the Booth and the region controllers can do for a pitch of themselves. -/
def pitchActions (asid : Nat) : List Action :=
  [.event (.startTokenInjection asid), .event (.pitchCompletion asid), .event (.preemptionHalt asid), .event (.preemptionSave asid),
   .event (.pitchRestore asid), .event (.watchdog asid)]

/-- What the device can do of itself, with nothing from outside it, in a fixed order (DESIGN CHOICE, log 1). -/
def State.idleActions (s : State) : List Action :=
  s.ready.map (fun e => .issue e.1) ++ s.held.map (fun e => .event (.readyQueueEntry e.1))
    ++ eachBelow s.flight.length .tokenArrival ++ eachBelow s.traps.length .trapTokenReceipt
    ++ eachBelow s.cmds.length .engineCommandEnqueue ++ eachBelow s.reqs.length .homeAccess
    ++ eachBelow s.reqs.length .multicastDelivery ++ eachBelow s.mapReqs.length .mappingUnitRequest
    ++ s.pitches.flatMap (fun e => pitchActions e.1 ++ e.2.lcores.flatMap (fun x => x.2.idleActions e.1 x.1))
    ++ s.clusters.flatMap (fun e => e.2.idleActions e.1) ++ s.fields.flatMap (fun e => e.2.idleActions e.1)
    ++ s.mfwd.zipIdx.map (fun e => .event (.meetingCommandDequeue e.1.1 (e.2 + 1)))
    ++ s.contribs.zipIdx.map (fun e => .event (.contributionArrival e.1.field e.2))
    ++ eachBelow s.ring.length .ringChunkArrival ++ eachBelow s.ringCredit.length .ringCreditArrival
    ++ eachBelow s.ringDead.length .deadNotice ++ eachBelow s.ringQ.length .completionIndex
    ++ [.event .reportRingWrite]

/-- Perform the first action of a list that changes the state; nothing where none does. -/
def State.firstChange (s : State) : List Action → Host.Outcome State Fault Refusal
  | [] => .next s
  | a :: r => match perform a s with
    | .next t => if t = s then State.firstChange s r else .next t
    | o => o

/-- ONE STEP: the first action of the agenda, or where the agenda is empty, what the device does of itself (DESIGN CHOICE, log 1). -/
def runStep (s : State) : Host.Outcome State Fault Refusal :=
  match s.agenda with
  | a :: r => perform a { s with agenda := r }
  | [] => s.firstChange s.idleActions

/-- The role that may fire a record (01 R15). -/
def roleFor (opc : Nat) : Role := if opc / 64 = 8 then .cp else if 9 ≤ opc / 64 ∧ opc / 64 < 12 then .ag else .rd

/-- The graph object of one logical core that holds the records of `w` at node 0, with every tile ready and one colour of
one 16-bit iteration field. -/
def wordObj (w : Nat) : GraphObj :=
  let r (i : Nat) : Rec := BitVec.ofNat 96 (w / 2 ^ (96 * i))
  { scatter := false, salt := 0, shapes := [(0, 16)],
    colours := [(0, { order := 0, width := 1, frame := 0, shape := 0, limit := 0xFFFF, live := 0 })], trap := none,
    cores := [{ lcore := 0, kernel := 0, role := roleFor (recOpc (r 0)).toNat, control := true, reqNodes := 4096, reqMatch := none,
                reqRoutes := 1024, reqConsts := 64, reqAccs := 16, reqTiles := 24, bigtop := 16,
                nodes := (List.range 3).map (fun i => (i, recImage (r i))), consts := [], accs := [],
                tiles := (List.range 24).map (fun i => (i, { role := .ab, init := some [] })), routes := [],
                waveBase := 0, raCtl := 9, maxw := 32 }],
    tokens := [], meetings := [] }

/-- The launch that places it. -/
def wordLaunch : Launch :=
  { queue := 0, index := 0, age := 0, prio := 0, bypass := 0, asid := 1, cfg := 0, cfgLen := 0, w := 1, h := 1, rot := false,
    wdog := 0, compl := 0, evring := 0, evcount := 0, bind := [], parent := 0 }

/-- An operand token: one element of any type. -/
def wordToken (port : Bool) : Token :=
  { rsv := false, dcore := 0, dnode := 0, dport := port, act := 0, vc := 0, tc := 0, mark := 0, eosl := 0, poison := false,
    asid := 1, tag := 0, lanes := [0, 0] }

/-- The firing of node 0. -/
def wordFiring : Firing :=
  { asid := 1, lc := 0, node := 0, port := false, tag := 0, a := wordToken false, b := some (wordToken true) }

/-- Place a word's records as the pitch of ASID 1 on cluster 0, running, with a firing of node 0 first in its core's ready
queue, and make that issue the next action: what a launch, its loading and the arrival of two tokens come to (DESIGN CHOICE, log 2). -/
def State.withWord (s : State) (w : Nat) : State :=
  let p := mkPitch wordLaunch (wordObj w) { kx0 := 0, ky0 := 0, w := 1, h := 1, scatter := false, salt := 0 } false [] 0 0
  let s1 := s.setPitch 1 { p with st := .running }
  match s1.lc? 1 0 with
  | none => s1
  | some x => { s1.setReady x.core (wordFiring :: s.readyQ x.core) with agenda := .issue x.core :: s.agenda }

end Sys2Proof.Machine
end

