-- ==== Sys2Proof/Machine/Mirror.lean ====
section
/-! DEFINITION. The tables of a pitch that stand in its supervisor backing (13 R339): the trap record (06 R176), the spill ring and
the overflows, the wait ring, the control block and the summary filter of each Big Top region (06 R156, R181; 10 R259; 16 R397), the save
areas (06 R182), the colour copy areas and the pitch colour table (04 R109). State
holds each once, as a table; a step that changes one writes its image to the backing. Where the manual gives a table's place and
contents and no order of its entries, they stand oldest first from the table's start (DESIGN CHOICE, log 95). -/
namespace Sys2Proof.Machine

/-- The miss of a device agent that waits for nothing: the image is written when its page comes. -/
def imageMiss (fi : Nat) : Miss := .meet fi 1048576

/-- Write one page's piece of an image; a page that is not mapped is asked for (13 R339, R344). -/
def State.imagePiece (s : State) (fi asid va : Nat) (bs : List Byte) : State :=
  match s.translate fi asid va true false true with
  | .ok (pa, _, t) =>
    if s.isOwned pa bs.length then s.missAt fi asid (va / 4096) (imageMiss fi) else t.writeRange 65 pa bs false
  | .error none => s.missAt fi asid (va / 4096) (imageMiss fi)
  | .error (some _) => s

/-- Write an image at an address of an address space's supervisor half, page by page. -/
def State.putImage (s : State) (fi asid : Nat) (w : Nat × List Byte) : State :=
  (pagePieces (w.2.length / 4096 + 2) w.1 w.2.length).foldl (fun s p =>
    s.imagePiece fi asid p.1 ((w.2.drop (p.1 - w.1)).take p.2)) s

/-- An operand in the trap record: its header and 32 lanes, zero beyond its width (06 R176). -/
def operandImage (t : Option Token) : List Byte :=
  match t with
  | some t => bytesOfNat 16 (tokHeader t).toNat ++ bytesOfLanes (padTo 0 32 t.lanes)
  | none => List.replicate 144 0

/-- The 288 bytes of the trap record (06 R176). -/
def TrapRec.image (r : TrapRec) : List Byte := operandImage r.a ++ operandImage r.b

/-- The code of an entry's kind (10 Table 2). -/
def MKind.code (k : MKind) : Nat :=
  match k with
  | .waiting => 0
  | .sticky => 1
  | .scale => 2
  | .deferred => 3
  | .mergec => 4
  | .lbound => 5

/-- Whether an entry holds no token (10 R259). -/
def MKind.isSeq (k : MKind) : Bool := k == .mergec || k == .lbound

/-- The flit images of an entry's tokens, those of port a first (10 R259). -/
def MEntry.flits (e : MEntry) : List Byte :=
  if e.kind.isSeq then [] else flitImages e.tok ++ (match e.tok2 with | some t => flitImages t | none => [])

/-- The bit of the summary filter that a matching key has (06 R156). -/
def MEntry.hash (e : MEntry) : Nat := Config.keyHash e.node e.tok.tag % 32768

/-- The overflow descriptor of an entry whose chain goes on at an offset (10 Table 3). -/
def MEntry.descriptor (e : MEntry) (link : Nat) : List Byte :=
  let fa := if e.kind.isSeq then 0 else flitsOf e.tok.lanes.length
  let fb := match e.tok2 with | some t => flitsOf t.lanes.length | none => 0
  bytesOfNat 8 (e.kind.code + 8 * fa + 32 * fb + 4294967296 * e.seq) ++ bytesOfNat 8 link
    ++ bytesOfNat 2 (if e.kind.isSeq then e.count else 0) ++ List.replicate 46 0

/-- Entries of an overflow or a save area with the offsets of their descriptors, the first at `off`. -/
def entryPlaces (off : Nat) : List MEntry → List (Nat × MEntry)
  | [] => []
  | e :: r => (off, e) :: entryPlaces (off + 64 * e.ovfSize) r

/-- The descriptors and flits of a list of entries, each descriptor linked to the next one of its hash (10 R259). -/
def entryImages : List (Nat × MEntry) → List Byte
  | [] => []
  | (_, e) :: r =>
    let link := match r.find? (fun q => q.2.hash == e.hash) with | some q => q.1 | none => 0
    e.descriptor link ++ e.flits ++ entryImages r

/-- The summary filter: a bit for each key that stands in the match overflow (06 R156). -/
def filterImage (l : List MEntry) : List Byte :=
  let hs := l.map MEntry.hash
  (List.range 4096).map (fun b =>
    BitVec.ofNat 8 ((List.range 8).foldl (fun a k => a + (if hs.contains (8 * b + k) then 2 ^ k else 0)) 0))

/-- A firing: its node, tag and operands. -/
def Firing.image (f : Firing) : List Byte :=
  bytesOfNat 8 f.node ++ bytesOfNat 8 f.tag.toNat ++ operandImage (some f.a) ++ operandImage f.b

/-- The wait ring: 256 bytes for each parked firing (06 R156, R158). -/
def waitImage (l : List Parked) : List Byte :=
  l.flatMap (fun q => (List.range 256).map (Config.parkedByte q.f.image))

/-- The packet of a multicast line in a spill ring (15 R394). -/
def McLine.image (l : McLine) : List Byte :=
  bytesOfNat 16 (Config.packetHeader l.tile l.off).toNat ++ l.data ++ List.replicate 48 0

/-- Head and tail of the match overflow, the channel overflow, the wait ring and the spill ring, in entries (06 R156). -/
def LCore.ringWords (x : LCore) : List Nat := [0, x.ovfUsed, 0, x.chanFlits, 0, x.waitRing.length, 0, x.ringFlits]

/-- The counters of a logical core as its control block holds them while its pitch is saved (16 R397). -/
def Counters.image (c : Counters) : List Byte :=
  [c.raCancel, c.mspill, c.mrefill, c.cspill, c.ucdrop, c.sramCe, c.sramUe, 0].flatMap (fun w => bytesOfNat 8 w.toNat)
    ++ (SMap.getN 0 c.perf 0 8).flatMap (fun w => bytesOfNat 8 w.toNat)
    ++ (SMap.getN 0 c.perfSel 0 8).flatMap (fun w => bytesOfNat 8 w.toNat)
    ++ (c.sink.flatMap (fun e => bytesOfNat 2 e.1 ++ bytesOfNat 2 e.2.toNat)).take 1536

/-- An accumulator with all the state of 04 Table 3. -/
def Acc.image (a : Acc) : List Byte :=
  bytesOfLanes (SMap.getN 0 a.val 0 32 ++ SMap.getN 0 a.part 0 128) ++
    bytesOfLanes [if a.opn then 1 else 0, a.cnt, a.len, word a.typ.toNat]

/-- The registers of a logical core that 06 Table 12 lists. -/
def LCore.regImage (x : LCore) : List Byte :=
  let t := x.trap
  bytesOfLanes (SMap.getN 0 x.k 0 64) ++ bytesOfNat 8 x.jxf.toNat ++ bytesOfNat 8 (trapCauseWord t) ++ bytesOfNat 8 t.tag.toNat ++
    bytesOfNat 8 (trapNode t.node.toNat t.port t.opc).toNat ++ bytesOfNat 8 x.waveBase.toNat ++ bytesOfNat 8 x.raCtl.toNat ++
    bytesOfNat 8 (x.maxw.toNat + (if x.clamped then 64 else 0)) ++ bytesOfNat 8 (x.ovfSize.toNat + (if x.enlarged then 512 else 0))

/-- A tile's table entry, poisoned lines and frame presence bits (06 Table 12). -/
def Tile.entryImage (t : Tile) : List Byte :=
  let bits (l : List Nat) : Nat := l.foldl (fun a i => a ||| 2 ^ i) 0
  bytesOfNat 8 t.entry.toNat ++ bytesOfNat 32 (bits t.poison) ++ bytesOfNat 256 (bits t.present)

/-- The progress of a firing in the wave buffer: its chain, own wave, parts done and what its stream has resolved to. -/
def MemAcc.image (m : MemAcc) : List Byte :=
  bytesOfNat 8 m.chain ++ bytesOfNat 8 m.own ++ bytesOfNat 8 (m.parts.filter (fun p => p.stage == 4)).length ++ bytesOfNat 8 m.aux

/-- An open chain instance with its next wave number (06 Table 12). -/
def ChainInst.image (i : ChainInst) : List Byte :=
  bytesOfNat 8 i.chain ++ bytesOfNat 8 i.colour ++ bytesOfNat 8 i.stack ++ bytesOfNat 8 (match i.last with | some e => 1 + e.2 | none => 0)

/-- The save area of a logical core (06 R182, Table 12), by offset. -/
def LCore.saveImages (x : LCore) : List (Nat × List Byte) :=
  [(0, entryImages (entryPlaces 0 x.ms)), (0x20000, x.savedReady.flatMap (fun e => bytesOfNat 8 e.1 ++ e.2.image)), (0x34000, x.regImage),
   (0x34200, x.routes.flatMap (fun e => bytesOfNat 8 e.1 ++ bytesOfNat 8 e.2.toNat)),
   (0x36400, (List.range 16).flatMap (fun i => Acc.image (SMap.get Acc.init x.accs i))),
   (0x39400, (List.range 24).flatMap (fun i => (x.tile i).entryImage)),
   (0x3C000, x.insts.flatMap ChainInst.image ++ x.mem.flatMap MemAcc.image)] ++
    x.tiles.map (fun t => (0x40000 + 32768 * t.1, if t.2.role = .cb then [] else t.2.read 0 32768))

/-- The registers of a colour as an entry of a copy area holds them; zero where none is valid (04 R109). -/
def colourImage (r : Option ColourRegs) : List Byte :=
  bytesOfNat 16 (match r with
    | some r => r.order.toNat + 8 * r.width.toNat + 512 * r.shape.toNat + 32768 * r.frame.toNat + 536870912 * r.limit.toNat
        + 35184372088832 * r.live.toNat + 9223372036854775808
    | none => 0)

/-- The allocation image of a colour: its registers, then its continuation (04 R109, 09 R242); where R109 gives no layout, that of a
copy area (DESIGN CHOICE, log 95). -/
def allocImage (c : Option ColourAlloc) : List Byte :=
  match c with
  | some c => colourImage (some c.regs) ++ bytesOfNat 16 c.cont.toNat ++ List.replicate 32 0
  | none => List.replicate 64 0

/-- The keys whose entries differ between two tables. -/
def changedKeys {α : Type} [DecidableEq α] (old new : SMap α) : List Nat :=
  ((old.map (·.1)) ++ (new.map (·.1))).filter (fun k => SMap.find old k ≠ SMap.find new k)

/-- An image where it has changed, or where every image is due. -/
def dueImage {α : Type} [DecidableEq α] (all : Bool) (old new : α) (va : Nat) (f : α → List Byte) : List (Nat × List Byte) :=
  if all ∨ old ≠ new then [(va, f new)] else []

/-- The images of a logical core that a step changed (06 Table 4; 13 Table 6); `all`: every one it holds. -/
def LCore.images (all : Bool) (lc : Nat) (old new : LCore) : List (Nat × List Byte) :=
  let base := new.ovfBase.toNat % 144115188075855872
  let area := 0x130000000000000 + 1048576 * lc
  let ring (x : LCore) : List Token × List McLine := (x.spill, x.spillLines.filter (·.ring))
  let chan (x : LCore) : Nat × List Token × List McLine := (x.ovfCap, x.chanOvf, x.spillLines.filter (fun l => !l.ring))
  dueImage all old.trapRec new.trapRec (base + 0x1800) TrapRec.image
    ++ dueImage all (old.ovf.map MEntry.hash) (new.ovf.map MEntry.hash) base (fun _ => filterImage new.ovf)
    ++ dueImage all old.ringWords new.ringWords (base + 0x1000) (fun l => l.flatMap (bytesOfNat 8))
    ++ dueImage all old.waitRing new.waitRing (base + 0x2000) waitImage
    ++ dueImage all (ring old) (ring new) (base + 0x40000) (fun l => l.1.flatMap flitImages ++ l.2.flatMap McLine.image)
    ++ dueImage all old.ovf new.ovf (base + 0x80000) (fun l => entryImages (entryPlaces 0x80000 l))
    ++ dueImage all (chan old) (chan new) (base + 0x80000 + 64 * new.ovfCap)
        (fun l => l.2.1.flatMap flitImages ++ l.2.2.flatMap McLine.image)
    ++ (if all then new.copyArea.map (·.1) else changedKeys old.copyArea new.copyArea).map (fun c =>
        (area + 16 * c, colourImage (SMap.find new.copyArea c)))

/-- The images of a logical core that a save writes: its save area (06 R182), and its counters in the control block of its Big Top
region (16 R397). -/
def LCore.savedImages (lc : Nat) (x : LCore) : List (Nat × List Byte) :=
  (x.ovfBase.toNat % 144115188075855872 + 0x1040, x.cnt.image)
    :: x.saveImages.map (fun w => (0x110000000000000 + 1048576 * lc + w.1, w.2))

/-- The images of a pitch's colour table that a step changed; `all`: every one it holds. -/
def Pitch.images (all : Bool) (old : SMap ColourAlloc) (new : Pitch) : List (Nat × List Byte) :=
  (if all then new.colours.map (·.1) else changedKeys old new.colours).map (fun c =>
    (0x120000000000000 + 64 * c, allocImage (SMap.find new.colours c)))

/-- The pages of a pitch's supervisor backing that a page fault has mapped. -/
def State.backed (s : State) (asid : Nat) : List (Nat × Nat) := s.backing.filter (fun b => b.1 == asid)

/-- Write the images of a pitch that a step changed: all of them when a page of its backing has come (13 R339). -/
def State.mirrorPitch (old : State) (s : State) (asid : Nat) (p : Pitch) : State :=
  let all := s.backed asid ≠ old.backed asid
  let was := old.pitch? asid
  let s1 := (p.images all (match was with | some q => q.colours | none => [])).foldl (fun s w => s.putImage p.homeField asid w) s
  p.lcores.foldl (fun s e =>
    match was.bind (fun q => SMap.find q.lcores e.1) with
    | some x =>
      let saves := p.st == .saved && (all || was.any (fun q => q.st != .saved))
      (LCore.images all e.1 x e.2 ++ (if saves then e.2.savedImages e.1 else [])).foldl (fun s w => s.putImage e.2.field asid w) s
    | none => s) s1

/-- The state with the images that a step from `old` changed. -/
def State.mirror (old new : State) : State :=
  new.pitches.foldl (fun s e => old.mirrorPitch s e.1 e.2) new

end Sys2Proof.Machine
end

