-- ==== Sys2Proof/Machine/Step.lean ====
section
/-! DEFINITION. The step function, and the placing of an instruction for the next step to run. -/
namespace Sys2Proof.Machine

/-- One step of the device: the first action of its agenda, else what it does of itself, with the images of the tables that stand
in a pitch's backing (13 R339). -/
def step (s : State) : Host.Outcome State Fault Refusal :=
  match runStep s with
  | .next t => .next (s.mirror t)
  | o => o

/-- The state whose next step runs the instruction whose records are the bits of `w`: bits [95:0] are the head record. -/
def State.withFetchWord (s : State) (_nbits w : Nat) : State := s.withWord w

end Sys2Proof.Machine
end

