-- ==== Sys2Proof/Safety.lean ====
section
/-! DEFINITION. The terms of the claims: the canonical form of memory, the good states, and a firing at issue. -/
namespace Sys2Proof.Machine

/-- Memory in canonical form: locations strictly rising, and no byte listed that reads as an unlisted one (DESIGN CHOICE, log 3). -/
def Memory.wf (m : List Host.Cell) : Bool := SMap.wf 0 m

/-- Whether a field number names one of the two host-port fields, F(3,0) or F(4,0) (17 R404). -/
def hostField (f : Nat) : Bool := f == 3 || f == 4

/-- What every step keeps: memory is canonical, and the boot field is a host-port field. -/
def State.good (s : State) : Prop := Memory.wf s.mem = true ∧ hostField s.bootField = true

/-- A FIRING AT ISSUE that nothing stops: `f` stands at issue in logical core `x` of pitch `p`; its record `v` passes the
checks of 02 R58 (its ^set fits a shape of the pitch, 02 R39) and 01 R15; its colour is allocated (09 R244) and cached with registers
`regs` (04 R109);
its tag operation answers state `t` and tag `tag` (09 R229); and it is no end-of-stream firing (09 R231). -/
structure Issues (v : NV) (s : State) (f : Firing) (p : Pitch) (x : LCore) (regs : ColourRegs) (t : State) (tag : DWord) :
    Prop where
  cur : s.cur = some f
  pitch : s.pitch? f.asid = some p
  lcore : s.lc? f.asid f.lc = some x
  fields : checkFields v = none
  setFits : p.setFits v = true
  kernel : checkKernel x.reqConsts x.reqAccs x.reqRoutes v = none
  role : roleOk x.role v.opc.toNat = true
  live : (SMap.find p.colours (tagColour f.tag)).isNone = false
  cached : x.cached (tagColour f.tag) = some regs
  tagop : s.tagOp f.asid f.lc p (f.laneMax x) regs v.tgo (v.bits 16 16) f.tag = .ok t tag
  noEos : eosFires v f = false

/-- The context of a firing at issue. -/
def issueCtx (v : NV) (f : Firing) (p : Pitch) (x : LCore) (regs : ColourRegs) (t : State) (tag : DWord) : Ctx :=
  { s := t, f := f, p := p, x := x, v := v, regs := regs, ws := p.widths regs.shape.toNat, tag := tag }

/-- The state after a firing that emits `outs` and has changed the state to `t` (01 R14): its tokens go by the route entries of
`s`, in which it issued (10 R260). -/
def State.fired (s t : State) (v : NV) (f : Firing) (outs : List Out) : State :=
  (t.emitAll (s.routesOf f.asid f.lc) f v.opc outs).endFiring f

/-- WHERE AN INSTRUCTION COMPLETES: every firing of `i`, whose record has view `v`, that nothing stops and on whose context
`ok` holds makes `st` of the state, emits `outs` in order, and ends. -/
def Completes (i : Instr) (v : NV) (ok : Ctx → Prop) (st : Ctx → State) (outs : Ctx → List Out) : Prop :=
  ∀ s f p x regs t tag, Issues v s f p x regs t tag → ok (issueCtx v f p x regs t tag) →
    exec i s = .next (s.fired (st (issueCtx v f p x regs t tag)) v f (outs (issueCtx v f p x regs t tag)))

/-- Where an instruction traps: a firing that nothing else stops, on whose context `ok` holds, has no effect of its own and
its trap is taken (01 R14). -/
def Traps (i : Instr) (v : NV) (ok : Ctx → Prop) (cause : Cause) (detail : Nat) : Prop :=
  ∀ s f p x regs t tag, Issues v s f p x regs t tag → ok (issueCtx v f p x regs t tag) →
    exec i s = .next (s.firingTraps f v.opc cause detail)

/-- Where a condition holds a firing in the ready queue (06 Table 5): the state is unchanged. -/
def Holds (i : Instr) (v : NV) (ok : Ctx → Prop) : Prop :=
  ∀ s f p x regs t tag, Issues v s f p x regs t tag → ok (issueCtx v f p x regs t tag) → exec i s = .next s

/-- Where a firing waits in the wait ring, for a colour or for an iteration instance (06 R158). -/
def Parks (i : Instr) (v : NV) (ok : Ctx → Prop) (colour : Bool) : Prop :=
  ∀ s f p x regs t tag, Issues v s f p x regs t tag → ok (issueCtx v f p x regs t tag) →
    exec i s = .next (s.parkFiring f colour)

/-- The same condition on every context. -/
def always (_ : Ctx) : Prop := True

/-- A lane of operand a. -/
def Ctx.aw (c : Ctx) (i : Nat) : Word := tlane c.f.a i

/-- A lane of operand b, in the form that ARY names (02 Table 2). -/
def Ctx.bw (c : Ctx) (i : Nat) : Word := BitVec.ofNat 32 (c.bLane i)

/-- A 64-bit element of operand a: the lane pair (2j, 2j+1) (07 R185). -/
def Ctx.ad (c : Ctx) (j : Nat) : DWord := c.aw (2 * j + 1) ++ c.aw (2 * j)

/-- A 64-bit element of operand b. -/
def Ctx.bd (c : Ctx) (j : Nat) : DWord := c.bw (2 * j + 1) ++ c.bw (2 * j)

/-- The lane pair of a 64-bit element. -/
def pairOf (d : DWord) : List Word := [d.extractLsb' 0 32, d.extractLsb' 32 32]

/-- THE RESULT LANES OF THE INTEGER GROUP (07 R185): at a's width, element by element; with TYP 2 or 3 an element is a lane
pair, and an odd last lane is zero. -/
def Ctx.each (c : Ctx) (g : (n : Nat) → BitVec n → BitVec n → BitVec n) : List Word :=
  let w := c.f.a.lanes.length
  if is64 c.v.typ then
    (List.range (w / 2)).flatMap (fun j => pairOf (g 64 (c.ad j) (c.bd j))) ++ List.replicate (w % 2) 0
  else (List.range w).map (fun i => g 32 (c.aw i) (c.bw i))

/-- Whether a firing's type is signed. -/
def Ctx.signed (c : Ctx) : Bool := isSigned c.v.typ

/-- An exact value clamped to `n` bits, signed or unsigned (03 R67). -/
def clampBits (n : Nat) (signed : Bool) (v : Int) : BitVec n :=
  if signed then BitVec.ofInt n (max (-(2 ^ (n - 1) : Int)) (min (2 ^ (n - 1) - 1 : Int) v))
  else BitVec.ofInt n (max 0 (min (2 ^ n - 1 : Int) v))

/-- The value of `n` bits, signed or unsigned. -/
def valOf (signed : Bool) {n : Nat} (b : BitVec n) : Int := if signed then b.toInt else (b.toNat : Int)

/-- Whether some element of operand b, within a's width, is zero. -/
def Ctx.zeroDivisor (c : Ctx) : Bool :=
  if is64 c.v.typ then (List.range (c.f.a.lanes.length / 2)).any (fun j => c.bd j == 0)
  else (List.range c.f.a.lanes.length).any (fun i => c.bw i == 0)

/-- The state of a firing with flags ORed into JXF of its core. -/
def Ctx.raise (c : Ctx) (flags : BitVec 40) : State := c.upd (fun x => { x with jxf := x.jxf ||| flags })

/-- A firing whose lanes go to both destinations, with the poison of its operands (07 R185, R186). -/
def CompletesEach (i : Instr) (opc : BitVec 10) (n : Node) (g : Ctx → (w : Nat) → BitVec w → BitVec w → BitVec w) : Prop :=
  Completes i (viewD opc n) always (·.s) (fun c => c.both (c.each (g c)) c.poison)

/-- The state of a floating firing: its flags are ORed into JXF unless an operand is poisoned (08 R203). -/
def Ctx.flagged (c : Ctx) (poison : Bool) (g : Nat) : State := if poison = true ∨ g = 0 then c.s else c.raise (BitVec.ofNat 40 g)

/-- THE RESULT OF THE FLOATING GROUP (08 R202; 03 R80): with TYP 4, whole jets at the order of the firing's colour, lanes beyond
the last whole jet +0; with TYP 5 and 6, the two elements of each lane; and the flags of all of them. -/
def Ctx.floats (c : Ctx) (jf : Nat → List Nat → List Nat → Jet) (ef : Nat → Nat → Fmt → Nat → Nat → Fr) : List Word × Nat :=
  let w := c.f.a.lanes.length
  let d := c.regs.order.toNat
  if c.v.typ = .f32 then
    let js := (List.range (w / (d + 1))).map (fun j => jf j (c.aJet d j) (c.bJet d j))
    (js.flatMap (fun y => (List.range (d + 1)).map (fun k => BitVec.ofNat 32 (co y.1 k))) ++ List.replicate (w % (d + 1)) 0,
     js.foldl (fun g y => g ||| y.2) 0)
  else
    let half (i h : Nat) : Fr :=
      ef i h (fmtOf c.v.typ) ((c.aw i).extractLsb' (16 * h) 16).toNat ((c.bw i).extractLsb' (16 * h) 16).toNat
    ((List.range w).map (fun i => BitVec.ofNat 16 (half i 1).1 ++ BitVec.ofNat 16 (half i 0).1),
     (List.range w).foldl (fun g i => g ||| (half i 0).2 ||| (half i 1).2) 0)

/-- A floating firing whose lanes go to both destinations, with its flags and the poison of its operands. -/
def CompletesF (i : Instr) (opc : BitVec 10) (n : Node) (jf : Ctx → Nat → List Nat → List Nat → Jet)
    (ef : Ctx → Nat → Nat → Fmt → Nat → Nat → Fr) : Prop :=
  Completes i (viewD opc n) always (fun c => c.flagged c.poison (c.floats (jf c) (ef c)).2)
    (fun c => c.both (c.floats (jf c) (ef c)).1 c.poison)

/-- Operand a's token for both destinations, under another tag (09 R237, R246). -/
def Ctx.aTagged (c : Ctx) (tag : DWord) : List Out := (c.both c.f.a.lanes c.f.a.poison).map (fun o => { o with tag := tag })

/-- Operand a's token for both destinations (09 R228). -/
def Ctx.aBoth (c : Ctx) : List Out := c.both c.f.a.lanes c.f.a.poison

/-- The values of the fields of a firing's iteration stack, innermost first (09 R229). -/
def Ctx.stack (c : Ctx) : List Nat := stackFields c.ws (tagStack c.f.tag)

/-- A firing's tag with the values of its fields replaced. -/
def Ctx.tagWith (c : Ctx) (vs : List Nat) : DWord := mkTag (tagColour c.f.tag) (fieldsStack c.ws vs)

/-- Whether values fit the fields of a firing's shape. -/
def Ctx.fits (c : Ctx) (vs : List Nat) : Bool := (List.range c.ws.length).all (fun j => decide (vs.getD j 0 < 2 ^ c.ws.getD j 0))

/-- The chain member of a memory firing: its wave literal read field by field (02 R40; 14 R350), the parts that it touches,
nothing of it done, and numbered after every member of its core (14 R352); its replies go by the route entries that stand now (10 R260), and the stores that its tokens carry happen before it
(14 R358). -/
def Ctx.access (c : Ctx) (n : Node) (kind : AccKind) (parts : List Part) : MemAcc :=
  { id := c.p.nextMem c.x.core, fire := c.f, opc := c.v.opc, kind := kind, typ := n.typ, chain := (n.lit.extractLsb' 24 4).toNat,
    own := (n.lit.extractLsb' 8 8).toNat, pred := (n.lit.extractLsb' 0 8).toNat, succ := (n.lit.extractLsb' 16 8).toNat,
    acq := n.lit.getLsbD 28, rel := n.lit.getLsbD 29, scope := n.mod.toNat, tagOut := c.tag, dstA := n.dstA, dstB := n.dstB,
    actA := n.actA, actB := n.actB, rtA := c.x.destEntry n.dstA, rtB := c.x.destEntry n.dstB, parts := parts, order := [],
    strm := none, ra := .none, was := .ready, hb := c.f.hb, aux := 0,
    entered := false, released := false, bound := false, replied := false }

/-- The open chain instance of a member (14 R350). -/
def Ctx.instance? (c : Ctx) (n : Node) : Option ChainInst :=
  c.x.insts.find? (fun i => i.chain == (n.lit.extractLsb' 24 4).toNat && i.colour == tagColour c.f.tag &&
    i.stack == tagStack c.f.tag)

/-- Whether a member's chain is enabled (04 R103). -/
def Ctx.chainOpen (c : Ctx) (n : Node) : Bool := c.x.waveBase.getLsbD (n.lit.extractLsb' 24 4).toNat

/-- Whether a member's own number has entered its open instance (14 R351). -/
def Ctx.ownTwice (c : Ctx) (n : Node) : Bool :=
  match c.instance? n with | some i => i.owns.contains (n.lit.extractLsb' 8 8).toNat | none => false

/-- Whether a member is the next of its instance to enter chain order (14 R351). -/
def Ctx.isNext (c : Ctx) (n : Node) : Bool :=
  let own := (n.lit.extractLsb' 8 8).toNat
  match (c.instance? n).bind (·.last) with
  | none => own == (c.x.waveBase.extractLsb' 16 8).toNat
  | some (o, sc) => sc != 0xFE && (if sc = 0xFF then (n.lit.extractLsb' 0 8).toNat == o else own == sc)

/-- Whether a member finds its instance open or a place in the window, and a place in the wave buffer (04 R103; 14 R352). -/
def Ctx.hasPlace (c : Ctx) (n : Node) : Bool :=
  ((c.instance? n).isSome || decide (c.x.insts.length < (c.x.waveBase.extractLsb' 24 6).toNat)) &&
    (decide ((c.x.mem.filter (fun m => !m.entered)).length < 256) || c.isNext n)

/-- Whether a member enters the wave buffer. -/
def Ctx.admits (c : Ctx) (n : Node) : Bool := c.chainOpen n && !c.ownTwice n && c.hasPlace n

/-- The wave buffer with a member, and with its instance open. -/
def Ctx.withMember (c : Ctx) (n : Node) (m : MemAcc) (tile : LCore → LCore) : State :=
  let i : ChainInst := { chain := m.chain, colour := tagColour c.f.tag, stack := tagStack c.f.tag, last := none, owns := [], hb := [], hbAcq := [] }
  c.upd (fun x => tile { x with
    insts := if (c.instance? n).isSome then x.insts else x.insts ++ [i]
    mem := x.mem ++ [m]
    memId := m.id + 1 })

/-- WHERE A MEMORY ACCESS STANDS IN THE WAVE BUFFER (04 R103; 14 R350 to R352; 13 R338, R340): on a firing where `ok` holds, it
stands there with its parts when it finds a place, it waits when it finds none, and it traps by the first failing pointer, by a
chain that is not enabled, or by an own number that has entered. -/
def Accesses (i : Instr) (v : NV) (n : Node) (kind : AccKind) (ok : Ctx → Prop) (parts : Ctx → Except Nat (List Part)) : Prop :=
  let good (c : Ctx) : Prop := ok c ∧ (parts c).isOk = true
  Completes i v (fun c => good c ∧ c.admits n = true)
    (fun c => c.withMember n (c.access n kind (match parts c with | .ok ps => ps | .error _ => [])) id) (fun _ => []) ∧
  Holds i v (fun c => good c ∧ c.chainOpen n = true ∧ c.ownTwice n = false ∧ c.hasPlace n = false) ∧
  Traps i v (fun c => good c ∧ c.chainOpen n = false) .accessFault 0x01 ∧
  Traps i v (fun c => good c ∧ c.chainOpen n = true ∧ c.ownTwice n = true) .accessFault 0x5B ∧
  ∀ d, Traps i v (fun c => ok c ∧ parts c = .error d) .accessFault d

/-- Whether the firing at a place of a core's ready queue does not issue now: its pitch does not run or its core is being
rebound, or a condition of 06 Table 5 holds it (06 R157). -/
def State.HeldAt (s : State) (core k : Nat) : Prop :=
  ∀ f, (s.readyQ core)[k]? = some f → s.mayIssue f = false ∨
    ∃ x i t, s.lc? f.asid f.lc = some x ∧ x.fetch f.node = .ok i ∧ exec i (s.take core k f) = .next t ∧ t.cur.isSome = true

/-- A launch without an event ring (06 R172). -/
def Pitch.ringless (p : Pitch) : Prop := p.launch.evring = 0 ∨ p.launch.evcount = 0

/-- Whether the events of a launch cannot reach the tile window of a logical core: it has no event ring, or the window takes no
writes (13 R337). -/
def State.windowShut (s : State) (asid a l : Nat) : Prop :=
  (∀ p, s.pitch? asid = some p → p.ringless) ∨ s.tileOpen a l = false

/-- The places where a write of `n` bytes from a physical address may change what is stored: the bytes themselves, and their stripes'
parity (13 R326). -/
def State.placesOf (s : State) (pa n : Nat) : List Nat :=
  (List.range n).flatMap (fun i => match s.resolve (pa + i) with
    | .dram k c l q b => [(s.cluster k).unitLoc k c l q + b, (s.cluster k).unitLoc k c 8 q + b]
    | .host a => [a]
    | _ => [])

/-- WHERE THE NEXT EVENT OF A LAUNCH IS STORED: the places of the slot that State.evWrite writes, at the address that the walk of
the slot's page gives, and of the leaf whose A and D that walk sets (06 R172; 13 R346). -/
def State.eventPlaces (s : State) (asid lc : Nat) : List Nat :=
  match s.pitch? asid with
  | none => []
  | some p =>
    let fi := s.evField asid lc
    let leaf : List Nat := match s.walk fi asid (p.evAddr / 4096) with
      | .leaf at_ _ _ _ => (s.walkNote fi asid (p.evAddr / 4096)).placesOf at_ 8
      | _ => []
    match s.translate fi asid p.evAddr true false true with
    | .ok (pa, _, s1) => leaf ++ ((s1.assign pa).assign (pa + 63)).placesOf pa 64
    | .error _ => []

/-- Two logical cores that differ in nothing that a firing's tokens and its end leave alone: all but the counters, the trap
registers and record, the order of the colour cache, and the accumulators (01 R14). -/
def LCore.likeOf (x y : LCore) : Prop :=
  y = { x with cnt := y.cnt, trap := y.trap, trapRec := y.trapRec, cache := y.cache, accs := y.accs }

end Sys2Proof.Machine
end

