-- ==== Sys2Proof/Certificates/Slice0/Obligations.lean ====
section
/-! DEFINITION. The statements for the provers. -/
open Sys2Proof Sys2Proof.Machine

/-- RESET IS A GOOD STATE (17 R413): its memory is in canonical form, and its boot field is a host-port field. The canonical form of
memory and what an unlisted byte reads as (log 3), and which host-port field boots first at reset (log 5), are the model's
choices. -/
def Obligations.ResetGood : Prop := State.good State.reset

/-- INTEGER ARITHMETIC (07 R188 to R191): sums, products, quotients, minimum, maximum, absolute value and negation, element by
element, in 32-bit or 64-bit arithmetic, to both destinations. -/
def Obligations.IntegerArithmetic : Prop := ∀ n : Node,
  (CompletesEach (.iadd n) 0x080 n (fun _ _ a b => a + b) ∧
   CompletesEach (.isub n) 0x081 n (fun _ _ a b => a - b) ∧
   CompletesEach (.imul n) 0x084 n (fun _ _ a b => a * b) ∧
   CompletesEach (.imulh n) 0x085 n (fun c w a b => BitVec.ofInt w (valOf c.signed a * valOf c.signed b / 2 ^ w)) ∧
   Completes (.imad n) (viewD 0x086 n) always (·.s) (fun c =>
     let k := c.x.kreg (c.v.bits 6 6)
     c.both (if is64 c.v.typ then c.each (fun w a b => a * b + ((k ++ k : DWord).setWidth w))
       else c.each (fun w a b => a * b + k.setWidth w)) c.poison) ∧
   CompletesEach (.iadds n) 0x082 n (fun c w a b => clampBits w c.signed (valOf c.signed a + valOf c.signed b)) ∧
   CompletesEach (.isubs n) 0x083 n (fun c w a b => clampBits w c.signed (valOf c.signed a - valOf c.signed b))) ∧
  (Completes (.idiv n) (viewD 0x087 n) always (fun c => if c.zeroDivisor && !c.poison then c.raise 2 else c.s) (fun c =>
     c.both (c.each (fun w a b => if b = 0 then BitVec.allOnes w else if c.signed then a.sdiv b else a.udiv b)) c.poison) ∧
   Completes (.irem n) (viewD 0x088 n) always (fun c => if c.zeroDivisor && !c.poison then c.raise 2 else c.s) (fun c =>
     c.both (c.each (fun _ a b => if b = 0 then a else if c.signed then a.srem b else a.umod b)) c.poison) ∧
   CompletesEach (.imin n) 0x089 n (fun c _ a b => if valOf c.signed b < valOf c.signed a then b else a) ∧
   CompletesEach (.imax n) 0x08A n (fun c _ a b => if valOf c.signed a < valOf c.signed b then b else a) ∧
   CompletesEach (.iabs n) 0x08B n (fun _ _ a _ => a.abs) ∧
   CompletesEach (.ineg n) 0x08C n (fun _ _ a _ => -a))

/-- LOGIC, SHIFTS, COUNTS, REVERSAL AND BIT FIELDS (07 R192 to R195): with TYP 10 only bit 0 of a lane is computed by the logic
group. -/
def Obligations.BitOperations : Prop := ∀ n : Node,
  (let bit (c : Ctx) (w : Nat) (r : BitVec w) : BitVec w := if c.v.typ = .pred then r &&& 1#w else r
   let count (w : Nat) (b : BitVec w) : Nat := (b.setWidth 32).toNat
   CompletesEach (.and n) 0x08D n (fun c w a b => bit c w (a &&& b)) ∧
   CompletesEach (.or n) 0x08E n (fun c w a b => bit c w (a ||| b)) ∧
   CompletesEach (.xor n) 0x08F n (fun c w a b => bit c w (a ^^^ b)) ∧
   CompletesEach (.andn n) 0x090 n (fun c w a b => bit c w (a &&& ~~~b)) ∧
   CompletesEach (.orn n) 0x091 n (fun c w a b => bit c w (a ||| ~~~b)) ∧
   CompletesEach (.shl n) 0x092 n (fun _ w a b => a <<< count w b) ∧
   CompletesEach (.shr n) 0x093 n (fun _ w a b => a >>> count w b) ∧
   CompletesEach (.sar n) 0x094 n (fun _ w a b => a.sshiftRight (count w b)) ∧
   CompletesEach (.rol n) 0x095 n (fun _ w a b => a.rotateLeft (count w b))) ∧
  (CompletesEach (.clz n) 0x096 n (fun _ _ a _ => a.clz) ∧
   CompletesEach (.ctz n) 0x097 n (fun _ _ a _ => a.ctz) ∧
   CompletesEach (.popc n) 0x098 n (fun _ _ a _ => a.cpop) ∧
   CompletesEach (.brev n) 0x099 n (fun _ _ a _ => a.reverse) ∧
   CompletesEach (.bfx n) 0x09A n (fun c w a _ =>
     let field := a.extractLsb' (c.v.bits 0 6) (c.v.bits 6 7)
     if c.signed then field.signExtend w else field.setWidth w) ∧
   CompletesEach (.bfi n) 0x09B n (fun c w a b =>
     let mask : BitVec w := (BitVec.allOnes (c.v.bits 6 7)).setWidth w <<< c.v.bits 0 6
     (a &&& ~~~mask) ||| ((b <<< c.v.bits 0 6) &&& mask)))

/-- COMPARISON AND SELECTION (07 R196, R197; 02 R38): ICMP's relation and its three result shapes, and SEL's choice lane by lane or
pair by pair; with TYP 10 bits [31:1] of its lanes are emitted as zero.
Where the rules leave a point open, it states the model's reading (log 84). -/
def Obligations.CompareAndSelect : Prop := ∀ n : Node,
  let imm (w : Nat) (c : Ctx) : BitVec w :=
    if c.signed then (n.lit.extractLsb' 4 28).signExtend w else (n.lit.extractLsb' 4 28).setWidth w
  let rel (c : Ctx) (w : Nat) (a b0 : BitVec w) : Bool :=
    let b := if n.ary = .mono then imm w c else b0
    match n.mod.toNat with
    | 0 => a == b | 1 => a != b
    | 2 => decide (valOf c.signed a < valOf c.signed b) | 3 => decide (valOf c.signed a ≤ valOf c.signed b)
    | 4 => decide (valOf c.signed b < valOf c.signed a) | 5 => decide (valOf c.signed b ≤ valOf c.signed a)
    | 6 => a &&& b != 0 | _ => a &&& b == 0
  let rels (c : Ctx) : List Bool :=
    if is64 n.typ then (List.range (c.f.a.lanes.length / 2)).map (fun j => rel c 64 (c.ad j) (c.bd j))
    else (List.range c.f.a.lanes.length).map (fun i => rel c 32 (c.aw i) (c.bw i))
  let true1 : Word := if n.lit.getLsbD 0 then 0xFFFFFFFF else 1
  let shape : Nat := (n.lit.extractLsb' 1 2).toNat
  Completes (.icmp n) (viewD 0x09C n) (fun _ => shape = 0) (·.s) (fun c => c.both (c.each (fun w a b =>
    if rel c w a b then (if n.lit.getLsbD 0 then BitVec.allOnes w else if w = 64 then BitVec.ofNat w 0x100000001 else 1#w)
    else 0)) c.poison) ∧
  Completes (.icmp n) (viewD 0x09C n) (fun _ => shape = 1) (·.s) (fun c =>
    c.both [if (rels c).any id then true1 else 0] c.poison) ∧
  Completes (.icmp n) (viewD 0x09C n) (fun _ => shape = 2) (·.s) (fun c =>
    c.both [if (rels c).all id then true1 else 0] c.poison) ∧
  Completes (.sel n) (viewD 0x09D n) always (·.s) (fun c =>
    let w := c.f.a.lanes.length
    let q := c.x.kreg (n.lit.extractLsb' 8 6).toNat
    c.both ((List.range w).map (fun i =>
      if is64 n.typ ∧ i + 1 = w ∧ w % 2 = 1 then 0
      else
        let taken := if q.getLsbD (if is64 n.typ then 2 * (i / 2) else i) then c.aw i else c.bw i
        if n.typ = .pred then taken &&& 1 else taken)) c.poison)

/-- LITERALS, ADDRESSES AND CONVERSION BETWEEN INTEGER TYPES (07 R198 to R200): every element of LIT holds the literal, at a width of
at least one element; AADR adds a scaled index and a displacement; CVTI converts each element. -/
def Obligations.LiteralsAddressesConversion : Prop :=
  (∀ n : NodeL,
   Completes (.lit n) (viewL 0x09E n) always (·.s) (fun c =>
     let w := c.f.a.lanes.length
     let value : DWord := if c.signed then n.lit.signExtend 64 else n.lit.setWidth 64
     c.both (if is64 n.typ then
         (List.range (max w 2 / 2)).flatMap (fun _ => pairOf value) ++ List.replicate (max w 2 % 2) 0
       else List.replicate (max w 1) (n.lit.setWidth 32)) c.f.a.poison) ∧
   Completes (.aadr n) (viewL 0x09F n) always (·.s) (fun c => c.both (c.each (fun w a b =>
     a + (b <<< (n.lit.extractLsb' 48 3).toNat) + (n.lit.extractLsb' 0 48).signExtend w)) c.poison)) ∧
  (∀ n : Node,
   Completes (.cvti n) (viewD 0x0A0 n) always (·.s) (fun c =>
     let w := c.f.a.lanes.length
     let from64 := n.lit.getLsbD 1
     let fromSigned := !n.lit.getLsbD 0
     let vals : List Int :=
       if from64 then (List.range (w / 2)).map (fun j => valOf fromSigned (c.ad j))
       else (List.range w).map (fun i => valOf fromSigned (c.aw i))
     let taken := if is64 n.typ ∧ !from64 then (if n.lit.getLsbD 2 then vals.drop 16 else vals.take 16) else vals
     let conv (k : Nat) (v : Int) : BitVec k := if n.mod = 1 then clampBits k c.signed v else BitVec.ofInt k v
     c.both (if is64 n.typ then
         taken.flatMap (fun v => pairOf (conv 64 v)) ++ (if from64 then List.replicate (w % 2) 0 else [])
       else taken.map (conv 32)) c.f.a.poison))

/-- FLOATING ARITHMETIC (08 R204, R205; 03 R83, R84): one rounding of the exact result for each element of BF16 and F16, and the
jet rules for F32, at every order; the flags; both destinations. -/
def Obligations.FloatArithmetic : Prop := ∀ n : Node,
  let m : Rnd := rndOf n.mod.toNat
  let d (c : Ctx) : Nat := c.regs.order.toNat
  let addend (c : Ctx) (lane : Nat) : Word :=
    if n.lit.getLsbD 12 then SMap.get 0 (c.x.acc (n.lit.extractLsb' 6 4).toNat).val lane else c.x.kreg (n.lit.extractLsb' 6 6).toNat
  let jetC (c : Ctx) (j : Nat) : List Nat := (addend c (j * (d c + 1))).toNat :: List.replicate (d c) 0
  let halfC (c : Ctx) (i h : Nat) : Nat := ((addend c i).extractLsb' (16 * h) 16).toNat
  CompletesF (.fadd n) 0x100 n (fun c _ => jetAdd m false (d c)) (fun _ _ _ f => f.add m) ∧
  CompletesF (.fsub n) 0x101 n (fun c _ => jetAdd m true (d c)) (fun _ _ _ f => f.sub m) ∧
  CompletesF (.fmul n) 0x102 n (fun c _ => jetMul m (d c)) (fun _ _ _ f => f.mul m) ∧
  CompletesF (.fdiv n) 0x103 n (fun c _ => jetDiv m (d c)) (fun _ _ _ f => f.div m) ∧
  CompletesF (.fma n) 0x104 n (fun c j a b => jetFma m (d c) a b (jetC c j))
    (fun c i h f x y => f.fmaN m (f.dec x) (f.dec y) (f.dec (halfC c i h))) ∧
  CompletesF (.fms n) 0x105 n (fun c j a b => jetFma m (d c) a b ((jetC c j).map flipF))
    (fun c i h f x y => f.fmaN m (f.dec x) (f.dec y) (f.dec (halfC c i h)).negate) ∧
  CompletesF (.fnma n) 0x106 n (fun c j a b => jetFma m (d c) (a.map flipF) b (jetC c j))
    (fun c i h f x y => f.fmaN m (f.dec x).negate (f.dec y) (f.dec (halfC c i h)))

/-- FLOATING SELECTION AND SIGNS (08 R206, R207; 03 Table 7): the whole jet, or the element, that the rule selects; the sign bit
cleared, inverted or copied. -/
def Obligations.FloatSelectionAndSigns : Prop := ∀ n : Node,
  let d (c : Ctx) : Nat := c.regs.order.toNat
  CompletesF (.fmin n) 0x107 n (fun c _ => jetPick false false (d c)) (fun _ _ _ f => f.minmax false false) ∧
  CompletesF (.fmax n) 0x108 n (fun c _ => jetPick true false (d c)) (fun _ _ _ f => f.minmax true false) ∧
  CompletesF (.fminn n) 0x109 n (fun c _ => jetPick false true (d c)) (fun _ _ _ f => f.minmax false true) ∧
  CompletesF (.fmaxn n) 0x10A n (fun c _ => jetPick true true (d c)) (fun _ _ _ f => f.minmax true true) ∧
  CompletesF (.fabs n) 0x10B n (fun c _ a _ => jetSign (f32.isNeg (co a 0)) (d c) a) (fun _ _ _ f x _ => f.withSign false x) ∧
  CompletesF (.fneg n) 0x10C n (fun c _ a _ => jetSign true (d c) a) (fun _ _ _ f x _ => f.withSign (!f.isNeg x) x) ∧
  CompletesF (.fcpsgn n) 0x10D n
    (fun c _ a b =>
      let y := jetSign (f32.isNeg (co a 0) != f32.isNeg (co b 0)) (d c) a
      (y.1, y.2 ||| (f32.dec (co b 0)).inv))
    (fun _ _ _ f x y => ((f.withSign (f.isNeg y) x).1, (f.withSign (f.isNeg y) x).2 ||| (f.dec y).inv)) ∧
  CompletesF (.fclass n) 0x10F n (fun c _ a _ => (List.replicate (d c + 1) (f32.cls (co a 0)), 0)) (fun _ _ _ f x _ => (f.cls x, 0))

/-- THE FUNCTIONS OF F32 AND THEIR SERIES (08 R212; 03 R84 to R87), rounding to integers and scaling (08 R208, R209; 03 Table 7);
FSINCOS sends the sine to DSTA and the cosine to DSTB. -/
def Obligations.FloatFunctions : Prop := ∀ n : Node,
  let m : Rnd := rndOf n.mod.toNat
  let d (c : Ctx) : Nat := c.regs.order.toNat
  let ok (_ : Ctx) : Prop := n.typ = .f32
  let F (i : Instr) (opc : BitVec 10) (jf : Ctx → List Nat → List Nat → Jet) : Prop :=
    Completes i (viewD opc n) ok (fun c => c.flagged c.poison (c.floats (fun _ => jf c) (fun _ _ _ _ _ => (0, 0))).2)
      (fun c => c.both (c.floats (fun _ => jf c) (fun _ _ _ _ _ => (0, 0))).1 c.poison)
  F (.fsqrt n) 0x110 (fun c a _ => jetSqrt m (d c) a) ∧
  F (.frsq n) 0x111 (fun c a _ => jetRsqrt m (d c) a) ∧
  F (.frcp n) 0x112 (fun c a _ => jetRcp m (d c) a) ∧
  F (.fexp n) 0x113 (fun c a _ => jetExp m false (d c) a) ∧
  F (.fexp2 n) 0x114 (fun c a _ => jetExp m true (d c) a) ∧
  F (.flog n) 0x115 (fun c a _ => jetLog m (d c) a) ∧
  F (.flog2 n) 0x116 (fun c a _ => jetLog2 m (d c) a) ∧
  F (.fsin n) 0x117 (fun c a _ => ((jetSinCos m true false (d c) a).1, (jetSinCos m true false (d c) a).2.2)) ∧
  F (.fcos n) 0x118 (fun c a _ => ((jetSinCos m false true (d c) a).2.1, (jetSinCos m false true (d c) a).2.2)) ∧
  Completes (.fsincos n) (viewD 0x119 n) ok
    (fun c => c.flagged c.poison (c.floats (fun _ a _ => ([], (jetSinCos m true true (d c) a).2.2)) (fun _ _ _ _ _ => (0, 0))).2)
    (fun c =>
      let sc (a : List Nat) := jetSinCos m true true (d c) a
      [c.outA (c.floats (fun _ a _ => ((sc a).1, 0)) (fun _ _ _ _ _ => (0, 0))).1 c.poison,
       c.outB (c.floats (fun _ a _ => ((sc a).2.1, 0)) (fun _ _ _ _ _ => (0, 0))).1 c.poison]) ∧
  F (.ftanh n) 0x11A (fun c a _ => jetTanh m false (d c) a) ∧
  F (.fsigm n) 0x11B (fun c a _ => jetTanh m true (d c) a) ∧
  F (.ferf n) 0x11C (fun c a _ => jetErf m (d c) a) ∧
  F (.frnd n) 0x11D (fun c a _ => jetRnd m (d c) a) ∧
  F (.fscale n) 0x11E (fun c a b => jetScale m (BitVec.ofNat 32 (co b 0)).toInt (d c) a)

/-- FLOATING COMPARISON (08 R210): the relation and its three shapes, with INV alone; under ARY 0 the immediate is a BF16 value. -/
def Obligations.FloatComparison : Prop := ∀ n : Node,
  let imm : Nat := (n.lit.extractLsb' 16 16).toNat
  let d (c : Ctx) : Nat := c.regs.order.toNat
  let right (f : Fmt) (y : Nat) : Nat := if n.ary = .mono then (if f = f32 then imm * 65536 else imm) else y
  let rel (f : Fmt) (x y : Nat) : Bool := f.rel n.mod.toNat x (right f y)
  let inv (f : Fmt) (x y : Nat) : Nat := f.relInv (n.lit.getLsbD 3) x (right f y)
  let lane : Nat := if n.lit.getLsbD 0 then 0xFFFFFFFF else 1
  let half : Nat := if n.lit.getLsbD 0 then 0xFFFF else 1
  let shape : Nat := (n.lit.extractLsb' 1 2).toNat
  let all (c : Ctx) : List Bool :=
    if n.typ = .f32 then (List.range (c.f.a.lanes.length / (d c + 1))).map (fun j =>
      rel f32 (c.aw (j * (d c + 1))).toNat (c.bw (j * (d c + 1))).toNat)
    else (List.range c.f.a.lanes.length).flatMap (fun i => [0, 1].map (fun h =>
      rel (fmtOf n.typ) ((c.aw i).extractLsb' (16 * h) 16).toNat ((c.bw i).extractLsb' (16 * h) 16).toNat))
  let each (c : Ctx) : List Word × Nat := c.floats
    (fun _ a b => (List.replicate (d c + 1) (if rel f32 (co a 0) (co b 0) then lane else 0), inv f32 (co a 0) (co b 0)))
    (fun _ _ f x y => (if rel f x y then half else 0, inv f x y))
  Completes (.fcmp n) (viewD 0x10E n) (fun _ => shape = 0) (fun c => c.flagged c.poison (each c).2)
    (fun c => c.both (each c).1 c.poison) ∧
  Completes (.fcmp n) (viewD 0x10E n) (fun _ => shape = 1) (fun c => c.flagged c.poison (each c).2)
    (fun c => c.both [if (all c).any id then BitVec.ofNat 32 lane else 0] c.poison) ∧
  Completes (.fcmp n) (viewD 0x10E n) (fun _ => shape = 2) (fun c => c.flagged c.poison (each c).2)
    (fun c => c.both [if (all c).all id then BitVec.ofNat 32 lane else 0] c.poison)

/-- CONVERSION AND BLOCK QUANTISATION (08 R215 to R219): FCVT's part of the source elements, packed in the destination's layout;
FQUANT's element token and scale token, and its relay form; FDEQ's 32 lanes. -/
def Obligations.FloatConversion : Prop := ∀ n : Node,
  let m : Rnd := rndOf (n.mod.toNat % 4)
  let scaleOut (c : Ctx) (lanes : List Word) : Out :=
    { c.outB lanes c.f.a.poison with code := if n.dstB = .scale then (n.lit.extractLsb' 16 10).toNat else 0 }
  let q (c : Ctx) := quantBlock n.typ m (n.mod.getLsbD 2) ((List.range 32).map (fun i => (c.aw i).toNat))
  Completes (.fcvt n) (viewD 0x11F n) always
    (fun c =>
      let es := unpackLanes (typBits (typOf (n.lit.extractLsb' 0 4).toNat)) c.f.a.lanes
      let part := (es.drop ((n.lit.extractLsb' 4 3).toNat * (1024 / typBits n.typ))).take (1024 / typBits n.typ)
      c.flagged c.poison ((part.map (cvtElem (typOf (n.lit.extractLsb' 0 4).toNat) n.typ m (n.mod.getLsbD 2))).foldl
        (fun g r => g ||| r.2) 0))
    (fun c =>
      let es := unpackLanes (typBits (typOf (n.lit.extractLsb' 0 4).toNat)) c.f.a.lanes
      let part := (es.drop ((n.lit.extractLsb' 4 3).toNat * (1024 / typBits n.typ))).take (1024 / typBits n.typ)
      c.both (packLanes (typBits n.typ)
        (part.map (fun x => (cvtElem (typOf (n.lit.extractLsb' 0 4).toNat) n.typ m (n.mod.getLsbD 2) x).1))) c.poison) ∧
  Completes (.fquant n) (viewD 0x120 n) (fun _ => n.lit.getLsbD 0 = false) (fun c => c.flagged c.f.a.poison (q c).2.2)
    (fun c => [c.outA (packLanes (typBits n.typ) (q c).2.1) c.f.a.poison, scaleOut c [0xFFFFFF00 + BitVec.ofNat 32 (q c).1]]) ∧
  Completes (.fquant n) (viewD 0x120 n) (fun _ => n.lit.getLsbD 0 = true) (·.s) (fun c => [scaleOut c c.f.a.lanes]) ∧
  (let poison (c : Ctx) : Bool := c.f.a.poison || c.bTok.poison
   let sbyte : Nat := (n.lit.extractLsb' 0 7).toNat
   let x (c : Ctx) : Nat :=
     if sbyte < 4 * c.bTok.lanes.length then ((tlane c.bTok (sbyte / 4)).extractLsb' (8 * (sbyte % 4)) 8).toNat else 255
   let r (c : Ctx) (i : Nat) : Fr :=
     if x c = 255 then (f32.nan, 0)
     else match (fmtOf n.typ).dec ((unpackLanes (typBits n.typ) c.f.a.lanes).getD (32 * (n.lit.extractLsb' 7 3).toNat + i) 0) with
       | .fin neg a e => f32.enc (rndOf n.mod.toNat) false neg a (e + (x c : Int) - 127)
       | .inf neg => (f32.signed neg f32.inf, 0)
       | .nan sig => (f32.nan, if sig then fINV else 0)
   Completes (.fdeq n) (viewD 0x121 n) always
     (fun c => c.flagged (poison c) ((List.range 32).foldl (fun g i => g ||| (r c i).2) 0))
     (fun c => c.both ((List.range 32).map (fun i => BitVec.ofNat 32 (r c i).1)) (poison c)))

/-- THE JET GROUP (08 R221 to R226): the order of a colour, the building of jets from scalars, reading and replacing a
coefficient, the derivative and the integral of a series, truncation, and the flags register. -/
def Obligations.JetInstructions : Prop := ∀ n : Node,
  let d (c : Ctx) : Nat := c.regs.order.toNat
  let w (c : Ctx) : Nat := c.f.a.lanes.length
  let k : Nat := (n.lit.extractLsb' 6 3).toNat
  let from5 : Nat := (n.lit.extractLsb' 6 5).toNat
  let scaled : Bool := n.lit.getLsbD 9
  let factorial : Nat := intF (fact k)
  let none2 (_ _ : Nat) (_ : Fmt) (_ _ : Nat) : Fr := (0, 0)
  let jets (c : Ctx) : List Nat := List.range (w c / (d c + 1))
  let built (c : Ctx) (second : Nat → Word) : List Word :=
    (List.range (min (32 / (d c + 1)) (w c - from5))).flatMap (fun j => (List.range (d c + 1)).map (fun i =>
      if i = 0 then c.aw (from5 + j) else if i = 1 then second j else 0))
  let cell (c : Ctx) (j : Nat) : Nat := (c.aw (j * (d c + 1) + k)).toNat
  Completes (.jord n) (viewD 0x180 n) always
    (fun c => c.upd (fun x => x.updColour (tagColour c.f.tag) (fun r => { r with order := n.lit.extractLsb' 0 3 })))
    (fun c => c.both c.f.a.lanes c.f.a.poison) ∧
  Completes (.jseed n) (viewD 0x181 n) always (·.s) (fun c =>
    c.both (built c (fun j => if n.ary = .mono then 0x3F800000 else c.bw (from5 + j))) c.poison) ∧
  Completes (.jconst n) (viewD 0x182 n) always (·.s) (fun c => c.both (built c (fun _ => 0)) c.poison) ∧
  Completes (.jget n) (viewD 0x183 n) always
    (fun c => c.flagged c.poison (if scaled ∧ k ≤ d c then
      (jets c).foldl (fun g j => g ||| atPos k (f32.mul (rndOf n.mod.toNat) factorial (cell c j)).2) 0 else 0))
    (fun c => c.both ((jets c).map (fun j => if d c < k then 0
      else if scaled then BitVec.ofNat 32 (f32.mul (rndOf n.mod.toNat) factorial (cell c j)).1 else c.aw (j * (d c + 1) + k))) c.poison) ∧
  Completes (.jput n) (viewD 0x184 n) (fun c => d c < k) (·.s) (fun c => c.both c.f.a.lanes c.poison) ∧
  Completes (.jput n) (viewD 0x184 n) (fun c => k ≤ d c)
    (fun c => c.flagged c.poison (if scaled then
      (jets c).foldl (fun g j => g ||| atPos k (f32.div (rndOf n.mod.toNat) (c.bw j).toNat factorial).2) 0 else 0))
    (fun c => c.both ((jets c).flatMap (fun j => (List.range (d c + 1)).map (fun i =>
        if i ≠ k then c.aw (j * (d c + 1) + i)
        else if scaled then BitVec.ofNat 32 (f32.div (rndOf n.mod.toNat) (c.bw j).toNat factorial).1 else c.bw j))
      ++ List.replicate (w c % (d c + 1)) 0) c.poison) ∧
  Completes (.jdiff n) (viewD 0x185 n) (fun _ => n.typ = .f32)
    (fun c => c.flagged c.poison (c.floats (fun _ a _ => jetDiff (rndOf n.mod.toNat) (d c) a) none2).2)
    (fun c => c.both (c.floats (fun _ a _ => jetDiff (rndOf n.mod.toNat) (d c) a) none2).1 c.poison) ∧
  Completes (.jintg n) (viewD 0x186 n) (fun _ => n.typ = .f32)
    (fun c => c.flagged c.poison (c.floats (fun _ a b => jetIntg (d c) (if n.ary = .mono then 0 else co b 0) a) none2).2)
    (fun c => c.both (c.floats (fun _ a b => jetIntg (d c) (if n.ary = .mono then 0 else co b 0) a) none2).1 c.poison) ∧
  Completes (.jtrunc n) (viewD 0x187 n) (fun c => d c ≤ k) (·.s) (fun c => c.both c.f.a.lanes c.poison) ∧
  Completes (.jtrunc n) (viewD 0x187 n) (fun c => k < d c ∧ n.typ = .f32) (·.s) (fun c =>
    c.both ((jets c).flatMap (fun j => (List.range (d c + 1)).map (fun i => if i ≤ k then c.aw (j * (d c + 1) + i) else 0))
      ++ List.replicate (w c % (d c + 1)) 0) c.poison) ∧
  Completes (.jflag n) (viewD 0x188 n) always
    (fun c => if n.lit.getLsbD 0 then c.s else c.upd (fun x => { x with jxf := 0 }))
    (fun c => c.both [c.x.jxf.extractLsb' 0 32, (c.x.jxf.extractLsb' 32 8).setWidth 32] c.f.a.poison)

/-- STEERING (09 R233, R234): PASS, MERGE and MERGEC emit a; STEER takes the path of its predicate and resolves the run-ahead
streams that it governs; GATE emits or consumes a; SYNC emits a and b. A poisoned predicate traps, and STEER then resolves those
streams as not taken.
Where the rules leave a point open, it states the model's reading (log 15). -/
def Obligations.Steering : Prop := ∀ n : Node,
  let predicate (c : Ctx) : Token := if n.ary = .dyad then c.bTok else c.f.a
  let p (c : Ctx) : Bool := (tlane (predicate c) 0).getLsbD 0 != n.lit.getLsbD 0
  let b0 (c : Ctx) : Bool := (tlane c.bTok 0).getLsbD 0 != n.lit.getLsbD 0
  Completes (.pass n) (viewD 0x000 n) always (·.s) (·.aBoth) ∧
  Completes (.steer n) (viewD 0x001 n) (fun c => (predicate c).poison = false)
    (fun c => c.s.resolveRa c.f.asid c.f.lc c.f.node c.f.tag (some (p c)))
    (fun c => [if p c then c.outA c.f.a.lanes c.f.a.poison else c.outB c.f.a.lanes c.f.a.poison]) ∧
  (∀ s f q x regs t tag, Issues (viewD 0x001 n) s f q x regs t tag → (predicate (issueCtx (viewD 0x001 n) f q x regs t tag)).poison = true →
    exec (.steer n) s = .next ((s.resolveRa f.asid f.lc f.node f.tag none).firingTraps f 0x001 .poisonConsumed 0x01)) ∧
  Completes (.merge n) (viewD 0x002 n) always (·.s) (·.aBoth) ∧
  Completes (.mergec n) (viewD 0x003 n) always (·.s) (·.aBoth) ∧
  Completes (.gate n) (viewD 0x004 n) (fun c => n.ary = .dyad ∧ c.bTok.poison = false) (·.s)
    (fun c => if b0 c then c.aBoth else []) ∧
  Traps (.gate n) (viewD 0x004 n) (fun c => n.ary = .dyad ∧ c.bTok.poison = true) .poisonConsumed 0x01 ∧
  Completes (.sync n) (viewD 0x005 n) always (·.s)
    (fun c => [c.outA c.f.a.lanes c.f.a.poison, c.outB c.bTok.lanes c.bTok.poison])

/-- LOOPS (09 R236 to R238): LENTER and LNEXT create an iteration instance and change the tag, or wait for one, or trap; LEXIT
and LDONE retire one; LBOUND emits a. -/
def Obligations.Loops : Prop := ∀ n : Node,
  let free (c : Ctx) : Prop := c.regs.limit = 0 ∨ c.regs.live ≠ c.regs.limit
  let live (c : Ctx) (g : BitVec 16 → BitVec 16) : State :=
    c.upd (fun x => x.updColour (tagColour c.f.tag) (fun r => { r with live := g r.live }))
  let retired (c : Ctx) : State :=
    (live c (fun l => if l = 0 then 0 else l - 1)).retryTags c.f.asid c.f.lc (tagColour c.f.tag)
  let start : Nat := (n.lit.extractLsb' 0 16).toNat
  let pushed (c : Ctx) : List Nat := start :: c.stack.dropLast
  let enters (c : Ctx) : Prop := c.ws ≠ [] ∧ c.stack.getLastD 0 = 0 ∧ c.fits (pushed c)
  let steps (c : Ctx) : Prop := c.ws ≠ [] ∧ c.stack.headD 0 + 1 < 2 ^ c.ws.headD 0
  let popped (c : Ctx) : List Nat := c.stack.drop 1 ++ [0]
  Completes (.lenter n) (viewD 0x006 n) (fun c => free c ∧ enters c) (fun c => live c (· + 1)) (fun c => c.aTagged (c.tagWith (pushed c))) ∧
  Parks (.lenter n) (viewD 0x006 n) (fun c => ¬ free c ∧ enters c) false ∧
  Traps (.lenter n) (viewD 0x006 n) (fun c => c.ws ≠ [] ∧ c.stack.getLastD 0 ≠ 0) .tagWrap 0x02 ∧
  Traps (.lenter n) (viewD 0x006 n) (fun c => c.ws ≠ [] ∧ c.stack.getLastD 0 = 0 ∧ ¬ c.fits (0 :: c.stack.dropLast)) .tagWrap 0x03 ∧
  Traps (.lenter n) (viewD 0x006 n) (fun c => c.ws ≠ [] ∧ c.stack.getLastD 0 = 0 ∧ c.fits (0 :: c.stack.dropLast) ∧
    2 ^ c.ws.headD 0 ≤ start) .tagWrap 0x04 ∧
  Completes (.lnext n) (viewD 0x007 n) (fun c => free c ∧ steps c) (fun c => live c (· + 1))
    (fun c => c.aTagged (c.tagWith ((c.stack.headD 0 + 1) :: c.stack.drop 1))) ∧
  Parks (.lnext n) (viewD 0x007 n) (fun c => ¬ free c ∧ steps c) false ∧
  Traps (.lnext n) (viewD 0x007 n) (fun c => c.ws ≠ [] ∧ c.stack.headD 0 + 1 = 2 ^ c.ws.headD 0) .tagWrap 0x01 ∧
  Completes (.lexit n) (viewD 0x008 n) (fun c => c.ws ≠ [] ∧ c.fits (popped c)) retired (fun c => c.aTagged (c.tagWith (popped c))) ∧
  Traps (.lexit n) (viewD 0x008 n) (fun c => c.ws ≠ [] ∧ ¬ c.fits (popped c)) .tagWrap 0x03 ∧
  Completes (.lbound n) (viewD 0x009 n) always (·.s) (·.aBoth) ∧
  Completes (.ldone n) (viewD 0x00A n) always retired (·.aBoth)

/-- COLOURS (09 R241 to R243; 02 R47): CALL and CTXALLOC take a colour and emit a under its tag, or wait for one; RET sends a to the
continuation, on the mesh unless that is its own core, and frees its colour; CFREE and CTXFREE free one; freeing colour 0, an unallocated colour, or returning nowhere,
traps.
Where the rules leave a point open, it states the model's reading (log 36). -/
def Obligations.ColourInstructions : Prop := ∀ n : Node,
  let called (c : Ctx) := c.allocate (contOfCall c.f.lc c.x c.p c.v c.f.tag)
  let plain (c : Ctx) := c.allocate ((0 : BitVec 64) ++ c.f.tag)
  let after (c : Ctx) (r : Option (Nat × State)) : State := match r with | some (_, u) => u | none => c.s
  let taken (r : Option (Nat × State)) : Nat := match r with | some (k, _) => k | none => 0
  let colour (c : Ctx) : Nat := tagColour c.f.tag
  let k (c : Ctx) : BitVec 128 := c.p.contOf (colour c)
  let core (c : Ctx) : Nat := ((k c).extractLsb' 64 17).toNat
  let back (c : Ctx) : Token :=
    { c.f.a with rsv := false, dcore := (k c).extractLsb' 64 17, dnode := (k c).extractLsb' 81 12, dport := (k c).getLsbD 93,
                 vc := (k c).extractLsb' 94 3, tc := (k c).extractLsb' 97 2, act := (k c).extractLsb' 99 3,
                 tag := (k c).extractLsb' 0 64, asid := BitVec.ofNat 12 c.f.asid, mark := 0, eosl := 0,
                 hb := c.s.liveHb c.f.hb }
  let named (c : Ctx) : Nat := (tlane c.f.a 0).toNat % 65536
  Completes (.call n) (viewD 0x00B n) (fun c => (called c).isSome) (fun c => after c (called c))
    (fun c => [{ c.outA c.f.a.lanes c.f.a.poison with tag := mkTag (taken (called c)) 0 }]) ∧
  Parks (.call n) (viewD 0x00B n) (fun c => (called c).isNone) true ∧
  Completes (.ret n) (viewD 0x00C n) (fun c => colour c ≠ 0 ∧ (k c).getLsbD 102 = true)
    (fun c =>
      let here : Src := .lcore c.f.asid c.f.lc
      let dest : Dst := coreDst c.f.asid (core c)
      (if dest = .lcore c.f.asid c.f.lc then c.s.sendOff here dest (back c)
       else (c.upd (fun x => x.handed (back c))).sendAs (some (c.f.lc, trapNode c.f.node c.f.port 0x00C)) here dest (back c)).freeColour
        c.f.asid c.f.lc (colour c)) (fun _ => []) ∧
  Traps (.ret n) (viewD 0x00C n) (fun c => colour c = 0) .accessFault 0x21 ∧
  Traps (.ret n) (viewD 0x00C n) (fun c => colour c ≠ 0 ∧ (k c).getLsbD 102 = false) .accessFault 0x24 ∧
  Completes (.cfree n) (viewD 0x00D n) (fun c => colour c ≠ 0) (fun c => c.s.freeColour c.f.asid c.f.lc (colour c)) (·.aBoth) ∧
  Traps (.cfree n) (viewD 0x00D n) (fun c => colour c = 0) .accessFault 0x21 ∧
  Completes (.ctxalloc n) (viewD 0x040 n) (fun c => (plain c).isSome) (fun c => after c (plain c))
    (fun c => [{ c.outA c.f.a.lanes c.f.a.poison with tag := mkTag (taken (plain c)) 0 },
      c.outB [BitVec.ofNat 32 (taken (plain c))] c.f.a.poison]) ∧
  Parks (.ctxalloc n) (viewD 0x040 n) (fun c => (plain c).isNone) true ∧
  Completes (.ctxfree n) (viewD 0x041 n) (fun c => c.f.a.poison = false ∧ named c ≠ 0 ∧ (SMap.find c.p.colours (named c)).isSome)
    (fun c => c.s.freeColour c.f.asid c.f.lc (named c)) (·.aBoth) ∧
  Traps (.ctxfree n) (viewD 0x041 n) (fun c => c.f.a.poison = true) .poisonConsumed 0x02 ∧
  Traps (.ctxfree n) (viewD 0x041 n) (fun c => c.f.a.poison = false ∧ named c = 0) .accessFault 0x21 ∧
  Traps (.ctxfree n) (viewD 0x041 n) (fun c => c.f.a.poison = false ∧ named c ≠ 0 ∧ (SMap.find c.p.colours (named c)).isNone)
    .accessFault 0x22

/-- TAGS AND END OF STREAM (09 R232, R245 to R247): TAGGET reads the tag, TAGSET replaces it within its colour's shape or traps;
EOS emits width-0 EOS tokens; SINK counts EOS tokens of its level and reports once; PURGE removes entries and emits a.
Where the rules leave a point open, it states the model's reading (log 35). -/
def Obligations.TagsAndEndOfStream : Prop := ∀ (n : Node) (l : NodeL),
  let t (c : Ctx) : DWord := c.f.tag
  let named (c : Ctx) : DWord := if l.ary = .dyad then tlane c.bTok 1 ++ tlane c.bTok 0
    else mkTag (l.lit.extractLsb' 20 16).toNat (tagStack (t c))
  let byTag (c : Ctx) : Prop := (l.ary = .dyad ∧ c.bTok.poison = false) ∨ (l.ary = .mono ∧ l.lit.getLsbD 19 = true)
  let byField : Prop := l.ary = .mono ∧ l.lit.getLsbD 19 = false
  let shapeOf (c : Ctx) : Option ColourRegs := c.s.colourRegs c.f.asid c.f.lc (tagColour (named c))
  let pitch (c : Ctx) : Option Pitch := c.s.pitch? c.f.asid
  let within (c : Ctx) : Bool := match pitch c, shapeOf c with
    | some p, some r => decide (tagStack (named c) < 2 ^ shapeBits (p.widths r.shape.toNat))
    | _, _ => false
  let beyond (c : Ctx) : Bool := match pitch c, shapeOf c with
    | some p, some r => decide (2 ^ shapeBits (p.widths r.shape.toNat) ≤ tagStack (named c))
    | _, _ => false
  let f : Nat := (l.lit.extractLsb' 0 3).toNat
  let v : Nat := (l.lit.extractLsb' 3 16).toNat
  let level : BitVec 4 := n.lit.extractLsb' 0 4
  let many : Nat := (n.lit.extractLsb' 8 16).toNat
  let counted (c : Ctx) : Prop := isEos c.f.a = true ∧ c.f.a.eosl = level
  let before (c : Ctx) : Nat := (SMap.get 0 c.x.cnt.sink c.f.node).toNat
  let bumped (c : Ctx) : State := c.upd (fun x => { x with cnt := { x.cnt with
    sink := SMap.ins x.cnt.sink c.f.node (BitVec.ofNat 16 (min (before c + 1) 65535)) } })
  let reports (c : Ctx) : Prop := before c + 1 = many ∧ (c.f.lc, c.f.node) ∉ c.p.sinksDone
  Completes (.tagget n) (viewD 0x00E n) always (·.s) (fun c => c.both
    (if n.lit.getLsbD 0 then [BitVec.ofNat 32 (c.stack.getD (n.lit.extractLsb' 1 3).toNat 0)]
     else if n.lit.getLsbD 4 then [BitVec.ofNat 32 (tagColour (t c))]
     else [(t c).extractLsb' 0 32, (t c).extractLsb' 32 32]) c.f.a.poison) ∧
  Completes (.tagset l) (viewL 0x00F l) (fun c => byTag c ∧ within c = true) (·.s) (fun c => c.aTagged (named c)) ∧
  Traps (.tagset l) (viewL 0x00F l) (fun c => byTag c ∧ beyond c = true) .tagWrap 0x06 ∧
  Traps (.tagset l) (viewL 0x00F l) (fun c => byTag c ∧ (shapeOf c).isNone = true) .accessFault 0x22 ∧
  Traps (.tagset l) (viewL 0x00F l) (fun c => l.ary = .dyad ∧ c.bTok.poison = true) .poisonConsumed 0x02 ∧
  Completes (.tagset l) (viewL 0x00F l) (fun c => byField ∧ f < c.ws.length ∧ v < 2 ^ c.ws.getD f 0) (·.s)
    (fun c => c.aTagged (c.tagWith (c.stack.set f v))) ∧
  Traps (.tagset l) (viewL 0x00F l) (fun c => byField ∧ c.ws.length ≤ f) .tagWrap 0x05 ∧
  Traps (.tagset l) (viewL 0x00F l) (fun c => byField ∧ f < c.ws.length ∧ 2 ^ c.ws.getD f 0 ≤ v) .tagWrap 0x04 ∧
  Completes (.eos n) (viewD 0x010 n) always (·.s)
    (fun c => (c.both [] false).map (fun o => { o with eos := some level })) ∧
  Completes (.sink n) (viewD 0x011 n) (fun c => ¬ counted c) (·.s) (fun _ => []) ∧
  Completes (.sink n) (viewD 0x011 n) (fun c => counted c ∧ ¬ reports c) bumped (fun _ => []) ∧
  Completes (.sink n) (viewD 0x011 n) (fun c => counted c ∧ reports c)
    (fun c => (bumped c).updPitch c.f.asid (fun p => { p with sinksDone := p.sinksDone ++ [(c.f.lc, c.f.node)] }))
    (fun c => c.both [BitVec.ofNat 32 many] false) ∧
  Completes (.purge n) (viewD 0x012 n) always
    (fun c => c.upd (fun x => x.purge c.ws (n.lit.extractLsb' 0 12).toNat (n.lit.getLsbD 13 || !n.lit.getLsbD 12)
      (n.lit.getLsbD 13 || n.lit.getLsbD 12) (t c)))
    (fun c => if isEos c.f.a then (c.aBoth).map (fun o => { o with eos := some c.f.a.eosl }) else c.aBoth)

/-- TRAPS, BREAKPOINTS AND EVENTS (09 R248; 06 R177): TRAP sends a to the trap sink and completes; BRK traps, or under ARY 1 with a
clear predicate emits a; EVENT sends a to the event sink and a copy to DSTB. -/
def Obligations.TrapsBreaksEvents : Prop := ∀ n : Node,
  let stops (c : Ctx) : Prop := n.ary = .mono ∨ (n.ary = .dyad ∧ c.bTok.poison = false ∧ (tlane c.bTok 0).getLsbD 0 = true)
  Completes (.trap n) (viewD 0x013 n) always (·.s) (fun c => [c.outA c.f.a.lanes c.f.a.poison]) ∧
  Completes (.brk n) (viewD 0x014 n) (fun c => n.ary = .dyad ∧ c.bTok.poison = false ∧ (tlane c.bTok 0).getLsbD 0 = false)
    (·.s) (·.aBoth) ∧
  Traps (.brk n) (viewD 0x014 n) stops .brk (n.lit.extractLsb' 0 16).toNat ∧
  Traps (.brk n) (viewD 0x014 n) (fun c => n.ary = .dyad ∧ c.bTok.poison = true) .poisonConsumed 0x01 ∧
  Completes (.event n) (viewD 0x015 n) always (·.s) (·.aBoth)

/-- LANE MOVES AND WIDTH (09 R250, R252): PACK joins two payloads, UNPACK cuts one, BCAST repeats a lane, SHUF and LGET take lanes by
index, LPUT replaces one, and WIDTH grants a width, clamped to MAXW. -/
def Obligations.LaneMoves : Prop := ∀ n : Node,
  let w (c : Ctx) : Nat := c.f.a.lanes.length
  let wb (c : Ctx) : Nat := c.bTok.lanes.length
  let six (lo : Nat) : Nat := (n.lit.extractLsb' lo 6).toNat
  let five (lo : Nat) : Nat := (n.lit.extractLsb' lo 5).toNat
  let at0 (c : Ctx) : Nat := if n.lit.getLsbD 6 then w c else six 0
  let maxw (c : Ctx) : Nat := if c.x.maxw = 0 ∨ 32 < c.x.maxw.toNat then 32 else c.x.maxw.toNat
  Completes (.pack n) (viewD 0x042 n) always (·.s) (fun c => c.both
    ((List.range (min (at0 c + wb c) 32)).map (fun i => if i < at0 c then c.aw i else tlane c.bTok (i - at0 c))) c.poison) ∧
  Completes (.unpack n) (viewD 0x043 n) always (·.s) (fun c =>
    [c.outA ((List.range (min (six 0) (w c))).map c.aw) c.f.a.poison,
     c.outB ((List.range (w c - six 0)).map (fun i => c.aw (six 0 + i))) c.f.a.poison]) ∧
  Completes (.bcast n) (viewD 0x044 n) always (·.s) (fun c => c.both
    (List.replicate (if six 5 = 0 then c.regs.width.toNat else six 5) (c.aw (five 0))) c.f.a.poison) ∧
  Completes (.shuf n) (viewD 0x045 n) always (·.s) (fun c => c.both ((List.range (wb c)).map (fun i =>
    if (tlane c.bTok i).toNat < 32 then c.aw (tlane c.bTok i).toNat else 0)) c.poison) ∧
  Completes (.lget n) (viewD 0x046 n) always (·.s) (fun c => c.both
    [c.aw (if n.ary = .dyad then (tlane c.bTok 0).toNat else five 0)] c.poison) ∧
  Completes (.lput n) (viewD 0x047 n) always (·.s) (fun c => c.both
    ((List.range (max (w c) (five 6 + 1))).map (fun i => if i = five 6 then c.bw 0 else c.aw i)) c.poison) ∧
  Completes (.width n) (viewD 0x04A n) always
    (fun c => c.upd (fun x =>
      { x.updColour (tagColour c.f.tag) (fun r => { r with width := BitVec.ofNat 6 (min (six 0) (maxw c)) }) with
        clamped := x.clamped || decide (maxw c < six 0) }))
    (·.aBoth)

/-- REDUCTION AND SCAN OF LANES (09 R251): for I32 and N32 the fold of the lanes from the identity, and its prefixes; for F32 the
pair tree of whole jets (03 R77), and the prefixes in ascending order. -/
def Obligations.LaneReductions : Prop := ∀ n : Node,
  let m : Nat := n.mod.toNat
  let ints (_ : Ctx) : Prop := (n.typ = .i32 ∨ n.typ = .n32) ∧ 3 ≤ m
  let jets (_ : Ctx) : Prop := n.typ = .f32 ∧ m ≤ 2
  let op (c : Ctx) (x y : Word) : Word := match m with
    | 3 => x + y
    | 4 => if valOf c.signed x < valOf c.signed y then y else x
    | 5 => if valOf c.signed y < valOf c.signed x then y else x
    | 6 => x &&& y
    | _ => x ||| y
  let unit (c : Ctx) : Word := match m with
    | 4 => if c.signed then 0x80000000 else 0
    | 5 => if c.signed then 0x7FFFFFFF else 0xFFFFFFFF
    | 6 => 0xFFFFFFFF
    | _ => 0
  let d (c : Ctx) : Nat := c.regs.order.toNat
  let els (c : Ctx) : List Jet := (List.range (c.f.a.lanes.length / (d c + 1))).map (fun j => (c.aJet (d c) j, 0))
  let opF (c : Ctx) (x y : Jet) : Jet :=
    let r := match m with
      | 0 => jetAdd .rne false (d c) x.1 y.1
      | 1 => jetPick true false (d c) x.1 y.1
      | _ => jetPick false false (d c) x.1 y.1
    (r.1, x.2 ||| y.2 ||| r.2)
  let unitF : Nat := match m with | 0 => 0 | 1 => 0xFF800000 | _ => 0x7F800000
  let red (c : Ctx) : Jet := (pairTree (opF c) 6 (els c)).headD (unitF :: List.replicate (d c) 0, 0)
  let scan (c : Ctx) : List Jet := match els c with | [] => [] | x :: r => x :: scanJets (opF c) x r
  Completes (.lred n) (viewD 0x048 n) ints (·.s) (fun c => c.both [c.f.a.lanes.foldl (op c) (unit c)] c.poison) ∧
  Completes (.lred n) (viewD 0x048 n) jets (fun c => c.flagged c.poison (red c).2)
    (fun c => c.both ((red c).1.map (BitVec.ofNat 32)) c.poison) ∧
  Completes (.lscan n) (viewD 0x049 n) ints (·.s) (fun c => c.both ((List.range c.f.a.lanes.length).map (fun i =>
    (c.f.a.lanes.take (i + 1)).foldl (op c) (unit c))) c.poison) ∧
  Completes (.lscan n) (viewD 0x049 n) jets (fun c => c.flagged c.poison ((scan c).foldl (fun g y => g ||| y.2) 0))
    (fun c => c.both ((scan c).flatMap (fun y => (List.range (d c + 1)).map (fun k => BitVec.ofNat 32 (co y.1 k)))
      ++ List.replicate (c.f.a.lanes.length % (d c + 1)) 0) c.poison)

/-- ACCUMULATORS (05 R116, R117, R119, R120; 03 R79): ACCINIT opens a dimension; ACCADD adds into one of four partials and its
closing firing rebuilds and emits the sum; ACCMAX and ACCMIN select; ACCRD reads. An open accumulator, another type and a poisoned
operand trap. That the closing firing emits VAL beyond its last whole jet is the model's choice (log 85). -/
def Obligations.Accumulators : Prop := ∀ n : Node,
  let an : Nat := (n.lit.extractLsb' 0 4).toNat
  let acc (c : Ctx) : Acc := c.x.acc an
  let w (c : Ctx) : Nat := c.f.a.lanes.length
  let d (c : Ctx) : Nat := c.regs.order.toNat
  let len : Word := (n.lit.extractLsb' 8 24).setWidth 32
  let init : Word :=
    if n.mod = 1 then (if n.typ = .f32 then 0xFF800000 else if n.typ = .i32 then 0x80000000 else 0)
    else if n.mod = 2 then (if n.typ = .f32 then 0x7F800000 else if n.typ = .i32 then 0x7FFFFFFF else 0xFFFFFFFF)
    else 0
  let loaded (c : Ctx) : SMap Word :=
    if n.mod = 3 then (List.range (w c)).foldl (fun m i => SMap.ins m i (c.aw i)) (acc c).val
    else (List.range 32).map (fun i => (i, init))
  let typed (c : Ctx) : Prop := (acc c).typ.toNat = typCode n.typ
  let after (c : Ctx) (acc' : Acc) (flags : Nat) : State :=
    (c.upd (fun x => { x.updAcc an (fun _ => acc') with jxf := x.jxf ||| BitVec.ofNat 40 flags })).releaseAll c.f.asid c.f.lc
  let next (c : Ctx) : BitVec 32 := (acc c).cnt + 1
  let closes (c : Ctx) : Prop := next c = (acc c).len
  let add (c : Ctx) (i x y : Nat) : Fr :=
    if n.typ = .f32 then
      let r := f32.add (rndOf n.mod.toNat) x y
      (r.1, atPos (i % (d c + 1)) r.2)
    else ((x + y) % 2 ^ 32, 0)
  let lanes (c : Ctx) : Nat := if n.typ = .f32 then w c / (d c + 1) * (d c + 1) else w c
  let p (c : Ctx) : Nat := 32 * ((acc c).cnt.toNat % 4)
  let summand (c : Ctx) (i : Nat) : Fr := add c i (SMap.get 0 (acc c).part (p c + i)).toNat (c.aw i).toNat
  let part (c : Ctx) : SMap Word :=
    (List.range (lanes c)).foldl (fun m i => SMap.ins m (p c + i) (BitVec.ofNat 32 (summand c i).1)) (acc c).part
  let gPart (c : Ctx) : Nat := (List.range (lanes c)).foldl (fun g i => g ||| (summand c i).2) 0
  let quarter (c : Ctx) (k i : Nat) : Nat := (SMap.get 0 (part c) (32 * k + i)).toNat
  let low (c : Ctx) (i : Nat) : Fr := add c i (quarter c 0 i) (quarter c 1 i)
  let high (c : Ctx) (i : Nat) : Fr := add c i (quarter c 2 i) (quarter c 3 i)
  let total (c : Ctx) (i : Nat) : Fr := add c i (low c i).1 (high c i).1
  let gTotal (c : Ctx) : Nat := (List.range 32).foldl (fun g i => g ||| ((low c i).2 ||| (high c i).2 ||| (total c i).2)) 0
  let sums (c : Ctx) : SMap Word := (List.range 32).map (fun i => (i, BitVec.ofNat 32 (total c i).1))
  let old (c : Ctx) (i : Nat) : Word := SMap.get 0 (acc c).val i
  let better (isMax : Bool) (x y : Word) : Word :=
    let v (z : Word) : Int := valOf (isSigned n.typ) z
    if isMax then (if v x < v y then y else x) else (if v y < v x then y else x)
  let jet (isMax : Bool) (c : Ctx) (j : Nat) : Jet := jetPick isMax (n.mod = 1) (d c)
    ((List.range (d c + 1)).map (fun k => (old c (j * (d c + 1) + k)).toNat)) (c.aJet (d c) j)
  let picked (isMax : Bool) (c : Ctx) : List Word :=
    if n.typ = .f32 then
      (List.range (w c / (d c + 1))).flatMap (fun j => (List.range (d c + 1)).map (fun k => BitVec.ofNat 32 (co (jet isMax c j).1 k)))
    else (List.range (w c)).map (fun i => better isMax (old c i) (c.aw i))
  let val (isMax : Bool) (c : Ctx) : SMap Word := (picked isMax c).zipIdx.foldl (fun m e => SMap.ins m e.2 e.1) (acc c).val
  let gPick (isMax : Bool) (c : Ctx) : Nat :=
    if n.typ = .f32 then (List.range (w c / (d c + 1))).foldl (fun g j => g ||| (jet isMax c j).2) 0 else 0
  let read (c : Ctx) (m : SMap Word) : List Out := c.both ((List.range (w c)).map (SMap.get 0 m)) false
  Completes (.accinit n) (viewD 0x1C0 n) (fun c => c.poison = false ∧ (acc c).opn = false)
    (fun c => (c.upd (fun x => x.updAcc an (fun _ =>
      { val := loaded c, part := [], opn := true, cnt := 0, len := len, typ := BitVec.ofNat 4 (typCode n.typ) }))).releaseAll c.f.asid c.f.lc) (·.aBoth) ∧
  Traps (.accinit n) (viewD 0x1C0 n) (fun c => c.poison = false ∧ (acc c).opn = true) .accessFault 0x11 ∧
  Traps (.accinit n) (viewD 0x1C0 n) (fun c => c.poison = true) .poisonConsumed 0 ∧
  Completes (.accadd n) (viewD 0x1C1 n) (fun c => c.poison = false ∧ typed c ∧ ¬ closes c)
    (fun c => after c { acc c with part := part c, cnt := next c } (gPart c)) (fun _ => []) ∧
  Completes (.accadd n) (viewD 0x1C1 n) (fun c => c.poison = false ∧ typed c ∧ closes c)
    (fun c => after c { acc c with part := part c, cnt := next c, opn := false, val := sums c } (gPart c ||| gTotal c))
    (fun c => read c (sums c)) ∧
  Traps (.accadd n) (viewD 0x1C1 n) (fun c => c.poison = false ∧ ¬ typed c) .accessFault 0x12 ∧
  Completes (.accmax n) (viewD 0x1C2 n) (fun c => c.poison = false ∧ typed c ∧ ¬ closes c)
    (fun c => after c { acc c with val := val true c, cnt := next c } (gPick true c)) (fun _ => []) ∧
  Completes (.accmax n) (viewD 0x1C2 n) (fun c => c.poison = false ∧ typed c ∧ closes c)
    (fun c => after c { acc c with val := val true c, cnt := next c, opn := false } (gPick true c))
    (fun c => read c (val true c)) ∧
  Completes (.accmin n) (viewD 0x1C3 n) (fun c => c.poison = false ∧ typed c ∧ ¬ closes c)
    (fun c => after c { acc c with val := val false c, cnt := next c } (gPick false c)) (fun _ => []) ∧
  Completes (.accmin n) (viewD 0x1C3 n) (fun c => c.poison = false ∧ typed c ∧ closes c)
    (fun c => after c { acc c with val := val false c, cnt := next c, opn := false } (gPick false c))
    (fun c => read c (val false c)) ∧
  Completes (.accrd n) (viewD 0x1C4 n) (fun c => c.poison = false) (·.s) (fun c =>
    c.both ((List.range (n.lit.extractLsb' 4 6).toNat).map (old c)) false)

/-- CONSTANTS AND STATUS REGISTERS (05 R122 to R124; 04 R98 to R107): KRD and KWR read and write K within the request; CSRRD
gives the register that its index names, and CSRWR sets its writable fields and clears its write-one-to-clear bits.
Where the rules leave a point open, it states the model's reading (log 36). -/
def Obligations.ConstantsAndRegisters : Prop := ∀ n : Node,
  let clean (c : Ctx) : Prop := c.poison = false
  let at0 : Nat := (n.lit.extractLsb' 0 6).toNat
  let idx : Nat := (n.lit.extractLsb' 0 8).toNat
  let w (c : Ctx) : Nat := c.f.a.lanes.length
  let pair (q : DWord) : List Word := [q.extractLsb' 0 32, q.extractLsb' 32 32]
  let bit (b : Bool) (k : Nat) : Word := if b then 1#32 <<< k else 0
  let role (c : Ctx) : Word := match c.x.role with | .ag => 0 | .cp => 1 | .rd => 2
  let csr (c : Ctx) : List Word := match idx with
    | 0x00 => [role c ||| bit c.x.host.doubled 2 ||| bit c.x.host.half 3 |||
        ((BitVec.ofNat 32 c.f.lc).extractLsb' 0 16).setWidth 32 <<< 4 ||| ((BitVec.ofNat 32 c.f.asid).extractLsb' 0 12).setWidth 32 <<< 20]
    | 0x01 => [BitVec.ofNat 32 (coreStat c.s 1 c.p c.x)]
    | 0x02 => [c.x.trap.cause.setWidth 32 ||| bit c.x.trap.valid 8 ||| bit c.x.trap.overrun 9 ||| (c.x.trap.detail.setWidth 32 <<< 16)]
    | 0x03 => pair c.x.trap.tag
    | 0x04 => [trapNode c.x.trap.node.toNat c.x.trap.port c.x.trap.opc]
    | 0x05 => [if c.x.role = .ag then c.x.waveBase else 0]
    | 0x06 => [c.x.raCtl.setWidth 32]
    | 0x07 => pair c.x.ovfBase
    | 0x08 => [c.x.ovfSize.setWidth 32 ||| bit c.x.enlarged 9]
    | 0x09 => [c.x.maxw.setWidth 32 ||| bit c.x.clamped 6]
    | 0x10 => [c.regs.order.setWidth 32]
    | 0x11 => [c.regs.width.setWidth 32]
    | 0x12 => [c.regs.frame.setWidth 32]
    | 0x13 => [c.regs.shape.setWidth 32]
    | 0x14 => [c.regs.limit.setWidth 32 ||| (c.regs.live.setWidth 32 <<< 16)]
    | _ => [BitVec.ofNat 32 (meStat (c.s.cluster c.x.cluster))]
  let v (c : Ctx) : Word := if n.mod = 1 then (n.lit.extractLsb' 8 24).setWidth 32 else c.aw 0
  let written (c : Ctx) : State :=
    if idx = 0x02 then c.upd (fun x => { x with trap :=
      { x.trap with valid := x.trap.valid && !(v c).getLsbD 8, overrun := x.trap.overrun && !(v c).getLsbD 9 } })
    else if idx = 0x06 ∧ c.x.role = .ag then c.upd (fun x => { x with raCtl := (v c).extractLsb' 0 5 })
    else if idx = 0x09 then c.upd (fun x => { x with maxw := (v c).extractLsb' 0 6, clamped := x.clamped && !(v c).getLsbD 6 })
    else if idx = 0x18 ∧ c.x.role = .cp then
      c.s.updCluster c.x.cluster (fun k => { k with flags := k.flags &&& ~~~((v c).extractLsb' 9 5) })
    else c.s
  Completes (.krd n) (viewD 0x1C5 n) clean (·.s) (fun c =>
    c.both ((List.range (n.lit.extractLsb' 6 6).toNat).map (fun i => c.x.kreg (at0 + i))) false) ∧
  Completes (.kwr n) (viewD 0x1C6 n) (fun c => clean c ∧ (w c = 0 ∨ at0 + w c ≤ c.x.reqConsts))
    (fun c => c.upd (fun x => { x with k := (List.range (w c)).foldl (fun m i => SMap.ins m (at0 + i) (c.aw i)) x.k })) (·.aBoth) ∧
  Traps (.kwr n) (viewD 0x1C6 n) (fun c => clean c ∧ w c ≠ 0 ∧ c.x.reqConsts < at0 + w c) .accessFault 0x13 ∧
  Traps (.kwr n) (viewD 0x1C6 n) (fun c => ¬ clean c) .poisonConsumed 0 ∧
  Completes (.csrrd n) (viewD 0x1C7 n) clean (·.s) (fun c => c.both (csr c) false) ∧
  Completes (.csrwr n) (viewD 0x1C8 n) clean written (·.aBoth)

/-- MATRIX COMMANDS AT ISSUE (05 R116, R126, R127, R135, R136, R140): a command whose tile is an AB tile in the state it needs, and
for which there is room, leaves for its cluster's engine; the tile that its job will read drains, the tile that it will write
fills; an MMAX consumes its scale entry. Otherwise it waits; another tile, an MMAJ beyond its planes and a poisoned token trap.
Where the rules leave a point open, it states the model's reading (log 18 and 19). -/
def Obligations.MatrixCommands : Prop := ∀ (n : Node) (e1 e2 : BitVec 86),
  let clean (c : Ctx) : Prop := c.poison = false
  let jobs (c : Ctx) : List EJob := (c.s.cluster c.x.cluster).mq
  let room (c : Ctx) : Prop := c.s.outstanding .matrix c.x.cluster c.f.asid c.f.lc (jobs c) < 8 ∧
    c.s.queued .matrix c.x.cluster (jobs c) < 32
  let src : Nat := (n.lit.extractLsb' 0 5).toNat
  let dst : Nat := (n.lit.extractLsb' 16 5).toNat
  let tok : Bool := n.mod.getLsbD 2
  let ab (c : Ctx) (t : Nat) : Prop := t < c.x.tileCount ∧ (c.x.tile t).role = .ab
  let ready (c : Ctx) (t : Nat) : Prop := (c.x.tile t).state = .ready
  let free (c : Ctx) (t : Nat) : Prop := (c.x.tile t).state = .empty ∨ (c.x.tile t).state = .ready
  let holds (t : Nat) (st : TileState) (x : LCore) : LCore := x.updTile t (fun u => { u with state := st, job := 0, eng := 0 })
  let sent (c : Ctx) (j : EJob) (hold : LCore → LCore) : State :=
    let t := c.upd (fun x => (hold x).perfEvent 0x0B 1)
    { t with cmds := t.cmds ++ [{ eng := .matrix, vc := 1, tc := 1, unit := c.x.cluster, job := j }] }
  let reads (c : Ctx) : Prop := clean c ∧ ab c src ∧ ready c src ∧ room c
  let waits (c : Ctx) : Prop := clean c ∧ ab c src ∧ ¬ (ready c src ∧ room c)
  let other (c : Ctx) : Prop := clean c ∧ ¬ ab c src
  let rows : Nat := (n.lit.extractLsb' 13 8).toNat + 1
  let order (c : Ctx) : Nat := c.regs.order.toNat
  let fits (c : Ctx) : Prop := (n.lit.extractLsb' 5 8).toNat + (order c + 1) * rows ≤ 256 ∧
    (e1.extractLsb' 0 15).toNat + order c * (e1.extractLsb' 31 15).toNat + (rows - 1) * (e1.extractLsb' 15 15).toNat + 384 ≤ 32768
  let scale (c : Ctx) : Option (MEntry × LCore) :=
    c.x.takeFrom (fun e => e.kind == .scale && e.node == c.f.node && e.tok.tag == c.f.tag)
  let scaleTok (c : Ctx) : Token := match scale c with | some (e, _) => e.tok | none => c.f.a
  let taken (c : Ctx) : Ctx := match scale c with | some (_, x) => { c with s := c.upd (fun _ => x) } | none => c
  Completes (.wload n) (viewD 0x200 n) reads (fun c => sent c (c.job n 0 0 []) (holds src .draining)) (fun _ => []) ∧
  Completes (.wloadx n) (viewD 0x201 n) reads (fun c => sent c (c.job n 0 0 []) (holds src .draining)) (fun _ => []) ∧
  Completes (.mma n e1) (viewX 0x203 n e1 0) reads (fun c => sent c (c.job n e1 0 []) (holds src .draining)) (fun _ => []) ∧
  Holds (.mma n e1) (viewX 0x203 n e1 0) waits ∧
  Traps (.mma n e1) (viewX 0x203 n e1 0) other .accessFault 0x14 ∧
  Traps (.mma n e1) (viewX 0x203 n e1 0) (fun c => ¬ clean c) .poisonConsumed 0 ∧
  Completes (.mmaj n e1) (viewX 0x204 n e1 0) (fun c => reads c ∧ fits c) (fun c => sent c (c.job n e1 0 []) (holds src .draining))
    (fun _ => []) ∧
  Traps (.mmaj n e1) (viewX 0x204 n e1 0) (fun c => clean c ∧ ab c src ∧ ¬ fits c) .jobFault 0x03 ∧
  Completes (.mmax n e1 e2) (viewX 0x205 n e1 e2)
    (fun c => (scale c).isSome = true ∧ (scaleTok c).poison = false ∧ reads (taken c))
    (fun c => sent (taken c) (c.job n e1 e2 (scaleTok c).lanes) (holds src .draining)) (fun _ => []) ∧
  Holds (.mmax n e1 e2) (viewX 0x205 n e1 e2) (fun c => (scale c).isNone = true ∧ clean c ∧ ab c src) ∧
  Traps (.mmax n e1 e2) (viewX 0x205 n e1 e2) (fun c => (scale c).isSome = true ∧ (scaleTok c).poison = true) .poisonConsumed 0 ∧
  Completes (.wswap n) (viewD 0x202 n) (fun c => clean c ∧ room c) (fun c => sent c (c.job n 0 0 []) id) (fun _ => []) ∧
  Completes (.apzero n) (viewD 0x206 n) (fun c => clean c ∧ room c) (fun c => sent c (c.job n 0 0 []) id) (fun _ => []) ∧
  Completes (.apmv n) (viewD 0x207 n) (fun c => clean c ∧ tok = true ∧ room c) (fun c => sent c (c.job n 0 0 []) id) (fun _ => []) ∧
  Completes (.apmv n) (viewD 0x207 n) (fun c => clean c ∧ tok = false ∧ ab c dst ∧ free c dst ∧ room c)
    (fun c => sent c (c.job n 0 0 []) (holds dst .filling)) (fun _ => []) ∧
  Holds (.apmv n) (viewD 0x207 n) (fun c => clean c ∧ tok = false ∧ ab c dst ∧ ¬ (free c dst ∧ room c)) ∧
  Completes (.appeek n) (viewD 0x208 n) clean (fun c => sent c (c.job n 0 0 []) id) (fun _ => [])

/-- JOBPOLL AND JOBWAIT (05 R141): a job is retired when its id is not among the outstanding jobs of its engine. -/
def Obligations.JobQuestions : Prop := ∀ n : Node,
  let id (c : Ctx) : BitVec 16 := (c.aw 0).extractLsb' 0 16
  let eng (c : Ctx) : Nat := ((c.aw 0).extractLsb' 16 2).toNat
  let lc (c : Ctx) : Nat := ((c.aw 1).extractLsb' 0 17).toNat
  let asked (c : Ctx) : Option LCore := c.s.lc? c.f.asid (lc c)
  let names (c : Ctx) : Prop := c.poison = false ∧ eng c ≠ 3 ∧ lc c < c.p.n ∧ (asked c).isSome = true
  let out (c : Ctx) (l : List EJob) : Bool :=
    l.any (fun j => decide (j.id = id c ∧ j.opc ≠ 0x208 ∧ j.opc ≠ 0x30A ∧ j.opc ≠ 0x30B))
  let retired (c : Ctx) : Bool := match asked c with
    | none => false
    | some x => if eng c = 0 then !out c (c.s.cluster x.cluster).mq
      else if eng c = 1 then !out c (c.s.cluster x.cluster).cpq
      else !out c (c.s.field x.field).mq && !out c (c.s.field x.field).mOut
  Completes (.jobpoll n) (viewD 0x209 n) names (·.s) (fun c => c.both [if retired c then 1 else 0] false) ∧
  Completes (.jobwait n) (viewD 0x20A n) (fun c => names c ∧ retired c = true) (·.s) (·.aBoth) ∧
  Holds (.jobwait n) (viewD 0x20A n) (fun c => names c ∧ retired c = false) ∧
  Traps (.jobpoll n) (viewD 0x209 n) (fun c => c.poison = false ∧ (eng c = 3 ∨ c.p.n ≤ lc c)) .accessFault 0x15 ∧
  Traps (.jobwait n) (viewD 0x20A n) (fun c => c.poison = false ∧ (eng c = 3 ∨ c.p.n ≤ lc c)) .accessFault 0x15

/-- LOADS AND STORES AT ISSUE (15 R374, R376, R377): the pointer of a, or one pointer an element; the bytes that a store writes,
poisoned with b; and their place in chain order. A poisoned address and a misaligned one trap. PREF raises no fault: with a pointer
that fails or a poisoned one it touches nothing, and one whose chain is not enabled or whose own number has entered takes no
place in chain order and prefetches nothing; it waits only where it finds no place.
Where the rules leave a point open, it states the model's reading (log 22, 24, 25, 32 and 83). -/
def Obligations.LoadsAndStores : Prop := ∀ n : Node,
  let align : Nat := if is64 n.typ then 8 else 4
  let at0 (c : Ctx) : Nat := (c.aw 1 ++ c.aw 0 : DWord).toNat
  let many (c : Ctx) : Nat := min (c.f.a.lanes.length / 2) 16
  let at_ (c : Ctx) (j : Nat) : Nat := (c.aw (2 * j + 1) ++ c.aw (2 * j) : DWord).toNat
  let bytes (ls : List Word) : List Byte := ls.flatMap (fun w => (List.range 4).map (fun k => w.extractLsb' (8 * k) 8))
  let one (c : Ctx) : Prop := c.f.a.poison = false ∧ at0 c % align = 0
  let all (c : Ctx) : Prop := c.f.a.poison = false ∧ ∀ j < many c, at_ c j % align = 0
  let elements (c : Ctx) : List (Nat × Nat) := (List.range (many c)).map (fun j => (at_ c j, align))
  let touched (c : Ctx) : List Part :=
    if c.f.a.poison then []
    else match partsOf (tagColour c.f.tag) false [(at0 c, 1)] [] with | .ok ps => ps | .error _ => []
  Accesses (.ld n) (viewD 0x240 n) n .load one (fun c =>
    partsOf (tagColour c.f.tag) false (piecesOf (at0 c) (4 * c.regs.width.toNat)) []) ∧
  Accesses (.st n) (viewD 0x241 n) n .store one (fun c =>
    partsOf (tagColour c.f.tag) c.bTok.poison (piecesOf (at0 c) (4 * c.bTok.lanes.length)) (bytes c.bTok.lanes)) ∧
  Accesses (.ldg n) (viewD 0x242 n) n .load all (fun c => partsOf (tagColour c.f.tag) false (elements c) []) ∧
  Accesses (.sts n) (viewD 0x243 n) n .store all (fun c => partsOf (tagColour c.f.tag) c.bTok.poison (elements c)
    (bytes ((List.range (many c * align / 4)).map (tlane c.bTok)))) ∧
  Completes (.pref n) (viewD 0x246 n) (fun c => c.admits n = true)
    (fun c => c.withMember n (c.access n .pref (touched c)) id) (fun _ => []) ∧
  Completes (.pref n) (viewD 0x246 n) (fun c => c.chainOpen n = false ∨ c.ownTwice n = true)
    (fun c => c.upd (fun x =>
      { x with mem := x.mem ++ [{ c.access n .pref [] with entered := true }], memId := (c.access n .pref []).id + 1 }))
    (fun _ => []) ∧
  Holds (.pref n) (viewD 0x246 n) (fun c => c.chainOpen n = true ∧ c.ownTwice n = false ∧ c.hasPlace n = false) ∧
  Traps (.ld n) (viewD 0x240 n) (fun c => c.f.a.poison = true) .poisonConsumed 0x04 ∧
  Traps (.st n) (viewD 0x241 n) (fun c => c.f.a.poison = false ∧ at0 c % align ≠ 0) .align 0 ∧
  Traps (.ldg n) (viewD 0x242 n) (fun c => c.f.a.poison = false ∧ ¬ ∀ j < many c, at_ c j % align = 0) .align 0 ∧
  Traps (.sts n) (viewD 0x243 n) (fun c => c.f.a.poison = true) .poisonConsumed 0x04

/-- ATOMICS AND FENCES AT ISSUE (15 R382, R384): an atomic carries four lanes of b to its element; a poisoned b, a poisoned or
misaligned address trap before it enters chain order; a FENCE takes its chain position.
Where the rules leave a point open, it states the model's reading (log 22, 24 and 25). -/
def Obligations.AtomicsAndFences : Prop := ∀ n : Node,
  let align : Nat := if is64 n.typ then 8 else 4
  let at0 (c : Ctx) : Nat := (c.aw 1 ++ c.aw 0 : DWord).toNat
  let ok (c : Ctx) : Prop := c.f.a.poison = false ∧ c.bTok.poison = false ∧ at0 c % align = 0
  let bytes (c : Ctx) : List Byte := (List.range 4).flatMap (fun i => (List.range 4).map (fun k => (tlane c.bTok i).extractLsb' (8 * k) 8))
  let parts (c : Ctx) : Except Nat (List Part) :=
    match partsOf (tagColour c.f.tag) false [(at0 c, align)] [] with
    | .ok ps => .ok (ps.map (fun p => { p with data := bytes c }))
    | .error d => .error d
  Accesses (.aadd n) (viewD 0x280 n) n .atomic ok parts ∧
  Accesses (.afadd n) (viewD 0x281 n) n .atomic ok parts ∧
  Accesses (.amin n) (viewD 0x282 n) n .atomic ok parts ∧
  Accesses (.amax n) (viewD 0x283 n) n .atomic ok parts ∧
  Accesses (.aand n) (viewD 0x284 n) n .atomic ok parts ∧
  Accesses (.aor n) (viewD 0x285 n) n .atomic ok parts ∧
  Accesses (.axor n) (viewD 0x286 n) n .atomic ok parts ∧
  Accesses (.axchg n) (viewD 0x287 n) n .atomic ok parts ∧
  Accesses (.acas n) (viewD 0x288 n) n .atomic ok parts ∧
  Accesses (.aincb n) (viewD 0x289 n) n .atomic ok parts ∧
  Accesses (.fence n) (viewD 0x28A n) n .fence always (fun _ => .ok []) ∧
  Traps (.aadd n) (viewD 0x280 n) (fun c => c.f.a.poison = false ∧ c.bTok.poison = true) .poisonConsumed 0x05 ∧
  Traps (.acas n) (viewD 0x288 n) (fun c => c.f.a.poison = false ∧ c.bTok.poison = false ∧ at0 c % align ≠ 0) .align 0

/-- STREAMS AT ISSUE (15 R378 to R380; 04 R104): a stream stands in the wave buffer with the fields of its extension record and
sets the state of its tile; a run-ahead stream within MAXSPEC makes its tile FILLING-speculative and one beyond it leaves its
tile; both send the token of DSTB at once. A misaligned address or stride, a tile that is no AB tile and a failing pointer trap; the
failing pointer of a run-ahead stream is held by its line (01 R32).
Where the rules leave a point open, it states the model's reading (log 18, 24, 25 and 26). -/
def Obligations.Streams : Prop := ∀ (n : Node) (e1 : BitVec 86),
  let at0 (c : Ctx) : Nat := (c.aw 1 ++ c.aw 0 : DWord).toNat
  let rows : StreamP :=
    { tile := (e1.extractLsb' 0 5).toNat, toff := (e1.extractLsb' 5 15).toNat, roww := (e1.extractLsb' 20 11).toNat,
      rows := (e1.extractLsb' 31 9).toNat + 1, stride := (e1.extractLsb' 40 24).toInt, token := e1.getLsbD 64,
      eosl := (e1.extractLsb' 65 4).toNat, eosen := e1.getLsbD 69, snode := (e1.extractLsb' 70 12).toNat, spath := e1.getLsbD 82 }
  let t (c : Ctx) : Tile := c.x.tile rows.tile
  let ra : Bool := n.lit.getLsbD 30
  let ab (c : Ctx) : Prop := rows.tile < c.x.tileCount ∧ (t c).role = .ab
  let sound (c : Ctx) : Prop := c.f.a.poison = false ∧ at0 c % 4 = 0
  let even : Prop := rows.stride % 4 = 0
  let lines (c : Ctx) : List (Nat × Nat) := (rows.linePieces (at0 c)).map (fun e => e.2.2)
  let ahead : Bool := ra && !rows.token
  let pieces (kind : AccKind) (c : Ctx) : Except Nat (List Part) :=
    if kind = .strm ∧ ahead = true then .ok (raParts (tagColour c.f.tag) (lines c)) else partsOf (tagColour c.f.tag) false (lines c) []
  let good (kind : AccKind) (c : Ctx) : Prop := sound c ∧ even ∧ (pieces kind c).isOk = true
  let free (c : Ctx) : Prop := (t c).state = .empty ∨ (t c).state = .ready
  let spare (c : Ctx) : Prop := c.x.raCtl.getLsbD 0 = true ∧
    (c.x.tiles.filter (fun e => e.2.state == .spec)).length < min 8 (c.x.raCtl.extractLsb' 1 4).toNat
  let placed (c : Ctx) (kind : AccKind) (r : RaState) (aux : Nat) (st : Option TileState) : State :=
    c.withMember n { c.access n kind (match pieces kind c with | .ok ps => ps | .error _ => []) with
        strm := some rows, ra := r, was := (t c).state, aux := aux } (fun x => match st with
      | none => x
      | some st => x.updTile rows.tile (fun u => { u with state := st, done := u.done && decide (st ≠ .spec) }))
  let early (c : Ctx) : List Out := [c.outB [] false]
  let strm (ok : Ctx → Prop) (st : Ctx → State) (outs : Ctx → List Out) : Prop :=
    Completes (.strm n e1) (viewX 0x244 n e1 0) (fun c => good .strm c ∧ c.admits n = true ∧ ok c) st outs
  strm (fun _ => rows.token = true) (fun c => placed c .strm .none 0 none) (fun _ => []) ∧
  strm (fun c => rows.token = false ∧ ab c ∧ ra = false ∧ free c) (fun c => placed c .strm .none 0 (some .filling)) (fun _ => []) ∧
  strm (fun c => rows.token = false ∧ ab c ∧ ra = true ∧ (t c).state = .empty ∧ spare c)
    (fun c => placed c .strm .ahead 0 (some .spec)) early ∧
  strm (fun c => rows.token = false ∧ ab c ∧ ra = true ∧ (t c).state = .empty ∧ ¬ spare c)
    (fun c => placed c .strm .wait 2 none) early ∧
  Holds (.strm n e1) (viewX 0x244 n e1 0) (fun c => good .strm c ∧ rows.token = false ∧ ab c ∧
    ¬ (if ra then (t c).state = .empty else free c)) ∧
  Completes (.strmst n e1) (viewX 0x245 n e1 0) (fun c => good .strmst c ∧ c.admits n = true ∧ ab c ∧ (t c).state = .ready ∧ rows.token = false)
    (fun c => placed c .strmst .none 0 (some .draining)) (fun _ => []) ∧
  Holds (.strmst n e1) (viewX 0x245 n e1 0) (fun c => good .strmst c ∧ ab c ∧ (t c).state ≠ .ready) ∧
  Traps (.strm n e1) (viewX 0x244 n e1 0) (fun c => c.f.a.poison = false ∧ at0 c % 4 ≠ 0) .align 0 ∧
  Traps (.strm n e1) (viewX 0x244 n e1 0) (fun c => sound c ∧ ¬ even) .align 1 ∧
  Traps (.strm n e1) (viewX 0x244 n e1 0) (fun c => sound c ∧ even ∧ rows.token = false ∧ ¬ ab c) .accessFault 0x60 ∧
  (∀ d, Traps (.strm n e1) (viewX 0x244 n e1 0) (fun c => sound c ∧ even ∧ (rows.token = true ∨ ab c) ∧ pieces .strm c = .error d)
    .accessFault d) ∧
  Traps (.strmst n e1) (viewX 0x245 n e1 0) (fun c => c.f.a.poison = true) .poisonConsumed 0x04

/-- TILE LOADS AND STORES (15 R381; 13 R319): TLD reads and TST writes the bytes of a READY AB or CB tile at issue; a tile that is
not READY and a CB line with P set hold the firing; an offset that is misaligned or beyond the tile, and a tile that does not
exist, trap. With a TF tile TST pushes the image of a and TLD pops the oldest, and either waits for room or for an image; an offset of
TST's b traps there as elsewhere.
Where the rules leave a point open, it states the model's reading (log 18 and 33). -/
def Obligations.TileAccesses : Prop := ∀ n : Node,
  let num : Nat := (n.lit.extractLsb' 0 5).toNat
  let t (c : Ctx) : Tile := c.x.tile num
  let base : Nat := (n.lit.extractLsb' 5 15).toNat
  let w : Nat := (n.lit.extractLsb' 20 6).toNat
  let idx : Bool := n.lit.getLsbD 26
  let offL (c : Ctx) : Nat := base + (if idx then (c.aw 0).toNat else 0)
  let offS (c : Ctx) : Nat := base + (if n.ary = .dyad then (tlane c.bTok 0).toNat else 0)
  let size (c : Ctx) : Nat := 4 * c.f.a.lanes.length
  let clean (c : Ctx) : Prop := ¬ (idx = true ∧ c.f.a.poison = true)
  let cleanS (c : Ctx) : Prop := ¬ (n.ary = .dyad ∧ c.bTok.poison = true)
  let within (off k : Nat) : Prop := off % 4 = 0 ∧ off + k ≤ 32768
  let linear (c : Ctx) : Prop := (t c).role ≠ .tf
  let exists_ (c : Ctx) : Prop := num < c.x.tileCount
  let ready (c : Ctx) : Prop := (t c).state = .ready
  let pending (c : Ctx) (off k : Nat) : Prop := (t c).role = .cb ∧ (cbLines off k).any (fun l => ((t c).cbLine l).p) = true
  let byte (c : Ctx) (i : Nat) : Byte := SMap.get 0 (t c).bytes i
  let word (c : Ctx) (i : Nat) : Word := byte c (i + 3) ++ byte c (i + 2) ++ byte c (i + 1) ++ byte c i
  let bytes (ls : List Word) : List Byte := ls.flatMap (fun w => (List.range 4).map (fun k => w.extractLsb' (8 * k) 8))
  let ring (c : Ctx) : Prop := (t c).role = .tf ∧ base = 0
  let fitsS (c : Ctx) : Prop := exists_ c ∧ within (offS c) 4
  let popped (c : Ctx) : List Word × Bool × Tile := (t c).pop.getD ([], false, t c)
  let write (c : Ctx) (u : Tile) : State := c.upd (fun x => x.updTile num (fun _ => u))
  Completes (.tld n) (viewD 0x247 n)
    (fun c => linear c ∧ clean c ∧ exists_ c ∧ within (offL c) (4 * w) ∧ ready c ∧ ¬ pending c (offL c) (4 * w)) (·.s)
    (fun c => c.both ((List.range w).map (fun i => word c (offL c + 4 * i))) ((t c).poisonIn (offL c) (4 * w))) ∧
  Completes (.tst n) (viewD 0x248 n)
    (fun c => linear c ∧ cleanS c ∧ exists_ c ∧ within (offS c) (size c) ∧ ready c ∧ ¬ pending c (offS c) (size c))
    (fun c => write c (((t c).store (offS c) (bytes c.f.a.lanes) c.f.a.poison).cbDirty (offS c) (size c))) (·.aBoth) ∧
  Holds (.tld n) (viewD 0x247 n)
    (fun c => linear c ∧ clean c ∧ exists_ c ∧ within (offL c) (4 * w) ∧ (¬ ready c ∨ pending c (offL c) (4 * w))) ∧
  Holds (.tst n) (viewD 0x248 n)
    (fun c => linear c ∧ cleanS c ∧ exists_ c ∧ within (offS c) (size c) ∧ (¬ ready c ∨ pending c (offS c) (size c))) ∧
  Traps (.tld n) (viewD 0x247 n) (fun c => linear c ∧ clean c ∧ ¬ exists_ c) .accessFault 0x60 ∧
  Traps (.tst n) (viewD 0x248 n) (fun c => linear c ∧ cleanS c ∧ exists_ c ∧ offS c % 4 ≠ 0) .align 0 ∧
  Traps (.tld n) (viewD 0x247 n) (fun c => linear c ∧ clean c ∧ exists_ c ∧ offL c % 4 = 0 ∧ 32768 < offL c + 4 * w)
    .accessFault 0x61 ∧
  Traps (.tst n) (viewD 0x248 n) (fun c => linear c ∧ ¬ cleanS c) .poisonConsumed 0x04 ∧
  Completes (.tld n) (viewD 0x247 n) (fun c => ring c ∧ w = 32 ∧ idx = false ∧ ready c ∧ (t c).pop.isSome = true)
    (fun c => write c (popped c).2.2) (fun c => c.both (popped c).1 (popped c).2.1) ∧
  Holds (.tld n) (viewD 0x247 n) (fun c => ring c ∧ w = 32 ∧ idx = false ∧ (t c).ctl 4 = 0) ∧
  Completes (.tst n) (viewD 0x248 n) (fun c => ring c ∧ cleanS c ∧ fitsS c ∧ ready c ∧ ((t c).push c.f.a).isSome = true)
    (fun c => write c (((t c).push c.f.a).getD (t c))) (·.aBoth) ∧
  Holds (.tst n) (viewD 0x248 n) (fun c => ring c ∧ cleanS c ∧ fitsS c ∧ (t c).ctl 4 + flitsOf c.f.a.lanes.length > 511) ∧
  Traps (.tst n) (viewD 0x248 n) (fun c => ring c ∧ ¬ cleanS c) .poisonConsumed 0x04 ∧
  Traps (.tst n) (viewD 0x248 n) (fun c => ring c ∧ cleanS c ∧ exists_ c ∧ offS c % 4 ≠ 0) .align 0 ∧
  Traps (.tst n) (viewD 0x248 n) (fun c => ring c ∧ cleanS c ∧ exists_ c ∧ offS c % 4 = 0 ∧ 32768 < offS c + 4) .accessFault 0x61

/-- COPY COMMANDS AT ISSUE (15 R374, R385 to R390, R393; 05 R126): a command whose pointers, tiles and destination cores pass, and for
which there is room, leaves for its cluster's copy unit and holds the tiles of its own core; otherwise it waits, or traps.
Where the rules leave a point open, it states the model's reading (log 18 and 31). -/
def Obligations.CopyCommands : Prop := ∀ (n : Node) (e1 e2 : BitVec 86),
  let jobs (c : Ctx) : List EJob := (c.s.cluster c.x.cluster).cpq
  let room (c : Ctx) : Prop := c.s.outstanding .copy c.x.cluster c.f.asid c.f.lc (jobs c) < 8 ∧
    c.s.queued .copy c.x.cluster (jobs c) < 32
  let fromTile : Bool := decide (n.lit.extractLsb' 0 2 = 1)
  let toTile : Bool := decide (n.lit.extractLsb' 2 2 = 1)
  let src : Nat := (n.lit.extractLsb' 7 5).toNat
  let dst : Nat := (e1.extractLsb' 17 5).toNat
  let first : Nat := (e1.extractLsb' 0 17).toNat
  let dests (many : Bool) : List Nat := if toTile = false then []
    else if many then ((List.range 32).filter e2.getLsbD).map (first + ·) else [first]
  let at_ (c : Ctx) (k : Nat) : Nat := (c.aw (k + 1) ++ c.aw k : DWord).toNat
  let passes (c : Ctx) (k al : Nat) : Prop := at_ c k % al = 0 ∧ (checkPtr (tagColour c.f.tag) (at_ c k)).isOk = true
  let sides (c : Ctx) (many : Bool) : Prop :=
    (fromTile = true → (n.lit.extractLsb' 12 15).toNat % 64 = 0 ∧ src < c.x.tileCount ∧ (c.x.tile src).role = .ab ∧
      (c.x.tile src).state = .ready) ∧
    (toTile = true → (e1.extractLsb' 22 15).toNat % 64 = 0) ∧
    (∀ l ∈ dests many, l < c.p.n) ∧
    (c.f.lc ∈ dests many → (c.x.tile dst).state = .empty ∨ (c.x.tile dst).state = .ready) ∧ room c
  let lines : Prop := (e1.extractLsb' 37 21).toNat % 64 = 0
  let rows : Prop := (e1.extractLsb' 58 13).toNat % 64 = 0
  let ok (c : Ctx) (many : Bool) (pointers : Prop) : Prop := c.f.a.poison = false ∧ lines ∧ pointers ∧ sides c many
  let from_ (c : Ctx) (al : Nat) : Prop := fromTile = false → passes c 0 al
  let to_ (c : Ctx) : Prop := toTile = false → passes c 2 64
  let third (c : Ctx) : Prop := at_ c 4 ≠ 0 → passes c 4 64
  let holds (k : Nat) (st : TileState) (x : LCore) : LCore := x.updTile k (fun u => { u with state := st, job := 0, eng := 1 })
  let sent (c : Ctx) (j : EJob) (many : Bool) : State :=
    let own := decide (c.f.lc ∈ dests many)
    let t := c.upd (fun x =>
      let y := if fromTile then holds src .draining x else x
      (if own then holds dst .filling y else y).perfEvent 0x0B 1)
    { t with cmds := t.cmds ++ [{ eng := .copy, vc := 1, tc := 1, unit := c.x.cluster, job := { j with claims := if own then [c.f.lc] else [] } }] }
  Completes (.cpy n e1) (viewX 0x2C0 n e1 0) (fun c => ok c false (from_ c 64 ∧ to_ c))
    (fun c => sent c (c.job n e1 0 []) false) (fun _ => []) ∧
  Completes (.cpyd n e1) (viewX 0x2C1 n e1 0) (fun c => ok c false (from_ c 2 ∧ to_ c ∧ third c))
    (fun c => sent c (c.job n e1 0 []) false) (fun _ => []) ∧
  Completes (.cpye n e1) (viewX 0x2C2 n e1 0) (fun c => ok c false (from_ c 64 ∧ to_ c ∧ third c))
    (fun c => sent c (c.job n e1 0 []) false) (fun _ => []) ∧
  Completes (.mcast n e1 e2) (viewX 0x2C3 n e1 e2) (fun c => ok c true (from_ c 64 ∧ to_ c))
    (fun c => sent c (c.job n e1 e2 []) true) (fun _ => []) ∧
  Completes (.gath n e1) (viewX 0x2C4 n e1 0) (fun c => ok c false (rows ∧ from_ c 8 ∧ to_ c))
    (fun c => sent c (c.job n e1 0 []) false) (fun _ => []) ∧
  Completes (.scat n e1) (viewX 0x2C5 n e1 0) (fun c => ok c false (rows ∧ from_ c 64 ∧ passes c 4 8))
    (fun c => sent c (c.job n e1 0 []) false) (fun _ => []) ∧
  Holds (.cpy n e1) (viewX 0x2C0 n e1 0) (fun c => c.f.a.poison = false ∧ lines ∧ fromTile = false ∧ toTile = false ∧
    passes c 0 64 ∧ passes c 2 64 ∧ ¬ room c) ∧
  Traps (.cpy n e1) (viewX 0x2C0 n e1 0) (fun c => fromTile = false ∧ c.f.a.poison = true) .poisonConsumed 0x04 ∧
  Traps (.cpy n e1) (viewX 0x2C0 n e1 0) (fun c => fromTile = false ∧ c.f.a.poison = false ∧ at_ c 0 % 64 ≠ 0) .align 0 ∧
  Traps (.cpy n e1) (viewX 0x2C0 n e1 0) (fun c => fromTile = false ∧ toTile = false ∧ c.f.a.poison = false ∧ at_ c 0 % 64 = 0 ∧
    at_ c 2 % 64 = 0 ∧ ¬ lines) .align 1 ∧
  Traps (.gath n e1) (viewX 0x2C4 n e1 0) (fun c => c.f.a.poison = false ∧ lines ∧ rows ∧ fromTile = false ∧ passes c 0 8 ∧ toTile = true ∧
    (e1.extractLsb' 22 15).toNat % 64 = 0 ∧ c.p.n ≤ first) .accessFault 0x64

/-- CACHE-BANK COMMANDS AT ISSUE (15 R393): TFILL, TEVICT and TINV name a CB tile and a slot of it, and leave for the copy unit.
Where the rules leave a point open, it states the model's reading (log 18). -/
def Obligations.CacheBankCommands : Prop := ∀ n : Node,
  let jobs (c : Ctx) : List EJob := (c.s.cluster c.x.cluster).cpq
  let room (c : Ctx) : Prop := c.s.outstanding .copy c.x.cluster c.f.asid c.f.lc (jobs c) < 8 ∧
    c.s.queued .copy c.x.cluster (jobs c) < 32
  let num : Nat := (n.lit.extractLsb' 0 5).toNat
  let idx : Bool := n.lit.getLsbD 11
  let cb (c : Ctx) : Prop := num < c.x.tileCount ∧ (c.x.tile num).role = .cb
  let slot (c : Ctx) : Prop := idx = true → c.f.a.poison = false ∧ (c.aw 2).toNat ≤ 63
  let at0 (c : Ctx) : Nat := (c.aw 1 ++ c.aw 0 : DWord).toNat
  let line (c : Ctx) : Prop := c.f.a.poison = false ∧ at0 c % 512 = 0 ∧ (checkPtr (tagColour c.f.tag) (at0 c)).isOk = true
  let sent (c : Ctx) : State :=
    let t := c.upd (fun x => x.perfEvent 0x0B 1)
    { t with cmds := c.s.cmds ++ [{ eng := .copy, vc := 1, tc := 1, unit := c.x.cluster, job := c.job n 0 0 [] }] }
  Completes (.tfill n) (viewD 0x2C6 n) (fun c => cb c ∧ slot c ∧ line c ∧ room c) sent (fun _ => []) ∧
  Completes (.tevict n) (viewD 0x2C7 n) (fun c => cb c ∧ slot c ∧ room c) sent (fun _ => []) ∧
  Completes (.tinv n) (viewD 0x2C8 n) (fun c => cb c ∧ slot c ∧ room c) sent (fun _ => []) ∧
  Holds (.tinv n) (viewD 0x2C8 n) (fun c => cb c ∧ slot c ∧ ¬ room c) ∧
  Traps (.tevict n) (viewD 0x2C7 n) (fun c => idx = false ∧ ¬ cb c) .accessFault 0x60 ∧
  Traps (.tinv n) (viewD 0x2C8 n) (fun c => idx = true ∧ c.f.a.poison = false ∧ cb c ∧ 63 < (c.aw 2).toNat) .accessFault 0x62 ∧
  Traps (.tfill n) (viewD 0x2C6 n) (fun c => cb c ∧ slot c ∧ c.f.a.poison = false ∧ at0 c % 512 ≠ 0) .align 0 ∧
  Traps (.tfill n) (viewD 0x2C6 n) (fun c => c.f.a.poison = true) .poisonConsumed 0x04

/-- TILE, ROUTE AND BAND TABLES (12 R302 to R305, R307): LOOKUP compares addresses with the tag table of a READY CB tile, TSTATE
reads tile-table entries, TSET empties or fills a tile, RTRD and RTWR read and replace a route entry, BANDRD reads a band.
Where the rules leave a point open, it states the model's reading (log 18 and 40). -/
def Obligations.TablesAndRoutes : Prop := ∀ n : Node,
  let num : Nat := (n.lit.extractLsb' 0 5).toNat
  let t (c : Ctx) : Tile := c.x.tile num
  let exists_ (c : Ctx) : Prop := num < c.x.tileCount
  let five : Bool := n.lit.getLsbD 5
  let sum (t : Tile) : Word :=
    (BitVec.ofNat 3 t.state.code).setWidth 32 ||| (BitVec.ofNat 2 (tileRoleCode t.role)).setWidth 32 <<< 3 |||
      (BitVec.ofBool t.done).setWidth 32 <<< 5 ||| (BitVec.ofBool t.inited).setWidth 32 <<< 6 ||| t.job.setWidth 32 <<< 7 |||
      t.eng.setWidth 32 <<< 23
  let at_ (c : Ctx) (j : Nat) : DWord := c.aw (2 * j + 1) ++ c.aw (2 * j)
  let slots : List Nat := List.range 64
  let hit (c : Ctx) (a : DWord) : Option Nat :=
    slots.find? (fun i => (((t c).cbLine i).v || ((t c).cbLine i).p) && ((t c).cbLine i).tag == a.extractLsb' 9 48)
  let lane (c : Ctx) (a : DWord) : Word := match hit c a with
    | some i => BitVec.ofNat 32 (i + 128 + (if ((t c).cbLine i).p then 256 else 0) + (if ((t c).cbLine i).d then 512 else 0))
    | none => BitVec.ofNat 32 (t c).cbVictim
  let index (c : Ctx) : Nat := if n.ary = .dyad then (tlane c.bTok 0).toNat else (n.lit.extractLsb' 0 10).toNat
  let named (c : Ctx) : Prop := ¬ (n.ary = .dyad ∧ c.bTok.poison = true)
  let routed (c : Ctx) : Prop := named c ∧ index c < 1024 ∧ index c < c.x.reqRoutes
  let entry : Ctx → DWord := fun c => c.aw 1 ++ c.aw 0
  let pair (d : DWord) : List Word := [d.extractLsb' 0 32, d.extractLsb' 32 32]
  let r (c : Ctx) : RouteV := routeV (entry c)
  let sound (c : Ctx) : Prop := (r c).rsv = 0 ∧ (r c).act ≠ 7 ∧ ((r c).valid = true → (r c).vc ≠ 7 ∧ (r c).act ≠ 5 ∧
    (65536 ≤ (r c).core ∨ (r c).core < c.p.n))
  let writes (c : Ctx) : Prop := c.x.control = true ∧ c.f.a.poison = false ∧ routed c
  let band (c : Ctx) : Band :=
    SMap.get Band.init (c.s.field c.x.field).band ((if n.ary = .dyad then (tlane c.bTok 0).toNat else (n.lit.extractLsb' 0 6).toNat) % 64)
  let bandWord (b : Band) : DWord := b.band0.setWidth 64 ||| b.band1.setWidth 64 <<< 4 ||| (BitVec.ofBool b.valid).setWidth 64 <<< 8 |||
    (BitVec.ofBool b.stale).setWidth 64 <<< 9 ||| b.gen.setWidth 64 <<< 16
  Completes (.lookup n) (viewD 0x300 n)
    (fun c => c.f.a.poison = false ∧ exists_ c ∧ (t c).state = .ready ∧ (t c).role = .cb)
    (fun c => c.upd (fun x => x.updTile num (fun u =>
      ((List.range (c.f.a.lanes.length / 2)).map (fun j => (at_ c j).toNat)).foldl Tile.noteHit u)))
    (fun c => c.both ((List.range (c.f.a.lanes.length / 2)).map (fun j => lane c (at_ c j))) false) ∧
  Holds (.lookup n) (viewD 0x300 n) (fun c => c.f.a.poison = false ∧ exists_ c ∧ (t c).state ≠ .ready) ∧
  Traps (.lookup n) (viewD 0x300 n) (fun c => c.f.a.poison = false ∧ exists_ c ∧ (t c).state = .ready ∧ (t c).role ≠ .cb)
    .accessFault 0x32 ∧
  Completes (.tstate n) (viewD 0x301 n) (fun _ => five = false) (·.s) (fun c => c.both [sum (t c)] c.f.a.poison) ∧
  Completes (.tstate n) (viewD 0x301 n) (fun _ => five = true) (·.s) (fun c =>
    c.both ((List.range c.x.tileCount).map (fun i => sum (c.x.tile i))) c.f.a.poison) ∧
  Completes (.tset n) (viewD 0x302 n) (fun c => exists_ c ∧ ((t c).state = .empty ∨ (t c).state = .ready))
    (fun c => c.upd (fun x => x.updTile num (fun u => { u with state := if five then .ready else .empty })))
    (·.aBoth) ∧
  Traps (.tset n) (viewD 0x302 n) (fun c => (t c).state = .filling ∨ (t c).state = .spec ∨ (t c).state = .draining)
    .accessFault 0x31 ∧
  Completes (.rtrd n) (viewD 0x303 n) routed (·.s) (fun c => c.both (pair (c.x.route (index c))) c.f.a.poison) ∧
  Traps (.rtrd n) (viewD 0x303 n) (fun c => named c ∧ (1024 ≤ index c ∨ c.x.reqRoutes ≤ index c)) .accessFault 0x33 ∧
  Traps (.rtrd n) (viewD 0x303 n) (fun c => ¬ named c) .poisonConsumed 0x03 ∧
  Completes (.rtwr n) (viewD 0x304 n) (fun c => writes c ∧ sound c)
    (fun c => c.upd (fun x => { x with routes := SMap.put 0 x.routes (index c) (entry c) }))
    (fun c => c.both (pair (c.x.route (index c))) false) ∧
  Traps (.rtwr n) (viewD 0x304 n) (fun c => writes c ∧ ¬ sound c) .accessFault 0x34 ∧
  Traps (.rtwr n) (viewD 0x304 n) (fun c => c.x.control = false) .roleViolation 0 ∧
  Completes (.bandrd n) (viewD 0x306 n) named (·.s) (fun c => c.both (pair (bandWord (band c))) c.f.a.poison)

/-- MAPRD (12 R306): the firing hands its request to the mapping unit of the field concerned.
Where the rules leave a point open, it states the model's reading (log 40). -/
def Obligations.MappingRequests : Prop := ∀ n : Node,
  let named (c : Ctx) : Prop := ¬ (n.ary = .dyad ∧ c.bTok.poison = true)
  let form : Nat := (n.lit.extractLsb' 30 2).toNat
  let arg (c : Ctx) : Word := if n.ary = .dyad then tlane c.bTok 0 else n.lit
  let lc (c : Ctx) : Nat := ((arg c).extractLsb' 0 17).toNat
  let field (c : Ctx) : Nat := ((arg c).extractLsb' 0 6).toNat
  let asks (c : Ctx) (field what arg : Nat) : State :=
    { c.s with mapReqs := c.s.mapReqs ++
      [(field, { asid := c.f.asid, lc := c.f.lc, fire := c.f, what := what, arg := arg, n := n, tagOut := c.tag,
                 rtA := c.x.destEntry n.dstA, rtB := c.x.destEntry n.dstB })] }
  Completes (.maprd n) (viewD 0x305 n) (fun c => named c ∧ form = 0 ∧ lc c < c.p.n)
    (fun c => asks c (c.p.posField (lc c)) 0 (lc c)) (fun _ => []) ∧
  Completes (.maprd n) (viewD 0x305 n) (fun c => named c ∧ form = 1)
    (fun c => asks c (field c) 1 ((arg c).extractLsb' 6 5).toNat) (fun _ => []) ∧
  Completes (.maprd n) (viewD 0x305 n) (fun c => named c ∧ form = 2)
    (fun c => asks c (field c) 2 ((arg c).extractLsb' 6 8).toNat) (fun _ => []) ∧
  Traps (.maprd n) (viewD 0x305 n) (fun c => named c ∧ form = 0 ∧ c.p.n ≤ lc c) .accessFault 0x35 ∧
  Traps (.maprd n) (viewD 0x305 n) (fun c => ¬ named c) .poisonConsumed 0x03

/-- MEETING COMMANDS AT ISSUE (12 R308, R310 to R314): a command leaves for the local unit of its field with the member word
that names its owner, when its core has fewer than 4 meeting jobs and the unit has room; otherwise it waits. A member word with
reserved bits, or whose owner is not below n, and a poisoned control operand trap.
Where the rules leave a point open, it states the model's reading (log 76). -/
def Obligations.MeetingCommands : Prop := ∀ (n : Node) (e1 e2 : BitVec 86),
  let unit (c : Ctx) : Field := c.s.field c.x.field
  let room (c : Ctx) : Prop :=
    c.s.outstanding .meet c.x.field c.f.asid c.f.lc ((unit c).mq ++ (unit c).mOut) < 4 ∧
    c.s.queued .meet c.x.field ((unit c).mq ++ (unit c).mOut.filter (fun j => j.opc != 0x308)) < 64
  let sent (c : Ctx) (e1 e2 : BitVec 86) (w : Word) : State :=
    let t := c.upd (fun x => x.perfEvent 0x0B 1)
    { t with cmds := t.cmds ++ [{ eng := .meet, vc := 2, tc := 1, unit := c.x.field, job := { c.job n e1 e2 [w] with aux := c.x.field } }] }
  let own (c : Ctx) : Word := (BitVec.ofNat 17 c.f.lc).setWidth 32 <<< 10
  let sound (c : Ctx) (w : Word) : Prop := w.extractLsb' 27 5 = 0 ∧ ¬ ((w.extractLsb' 10 17).toNat < 65536 ∧ c.p.n ≤ (w.extractLsb' 10 17).toNat)
  let k (c : Ctx) : Word := c.x.kreg (n.lit.extractLsb' 0 6).toNat
  let member (c : Ctx) : Word := if n.ary = .dyad then tlane c.bTok 0 else if n.ary = .const then k c else n.lit
  let named (c : Ctx) : Prop := ¬ (n.ary = .dyad ∧ c.bTok.poison = true)
  let owner (c : Ctx) : Word := if n.ary = .const then k c else own c
  let ruled (c : Ctx) : Prop := n.ary = .const → sound c (k c)
  let clean (c : Ctx) : Prop := c.f.a.poison = false
  let lcOk (c : Ctx) : Prop := c.f.lc < 131072
  let walked : Word := ((e1.extractLsb' 0 17).setWidth 32) <<< 10
  Completes (.qopen n e1 e2) (viewX 0x307 n e1 e2) (fun c => clean c ∧ lcOk c ∧ room c) (fun c => sent c e1 e2 (own c)) (fun _ => []) ∧
  Completes (.qcontrib n) (viewD 0x308 n) (fun c => named c ∧ sound c (member c) ∧ room c) (fun c => sent c 0 0 (member c)) (fun _ => []) ∧
  Completes (.qclose n) (viewD 0x309 n) (fun c => ruled c ∧ lcOk c ∧ room c) (fun c => sent c 0 0 (owner c)) (fun _ => []) ∧
  Completes (.qstat n) (viewD 0x30A n) (fun c => ruled c ∧ lcOk c ∧ room c) (fun c => sent c 0 0 (owner c)) (fun _ => []) ∧
  Completes (.qlag n) (viewD 0x30B n) (fun c => ruled c ∧ lcOk c ∧ room c) (fun c => sent c 0 0 (owner c)) (fun _ => []) ∧
  Completes (.qwset n) (viewD 0x30C n) (fun c => clean c ∧ room c) (fun c => sent c 0 0 0) (fun _ => []) ∧
  Completes (.cwalk n e1) (viewX 0x30D n e1 0) (fun c => clean c ∧ room c) (fun c => sent c e1 0 walked) (fun _ => []) ∧
  Holds (.qopen n e1 e2) (viewX 0x307 n e1 e2) (fun c => clean c ∧ ¬ room c) ∧
  Holds (.qcontrib n) (viewD 0x308 n) (fun c => named c ∧ sound c (member c) ∧ ¬ room c) ∧
  Traps (.qcontrib n) (viewD 0x308 n) (fun c => named c ∧ ¬ sound c (member c)) .accessFault 0x36 ∧
  Traps (.qcontrib n) (viewD 0x308 n) (fun c => ¬ named c) .poisonConsumed 0x03 ∧
  Traps (.qclose n) (viewD 0x309 n) (fun c => n.ary = .const ∧ ¬ sound c (k c)) .accessFault 0x36 ∧
  Traps (.qwset n) (viewD 0x30C n) (fun c => ¬ clean c) .poisonConsumed 0x03

/-- TIME AND COUNTERS (16 R400 to R402): TIME reads the field's time, TOFFS an offset with its uncertainty at the issue time, CNTRD
a counter, and CNTWR writes a PERF or PERFSEL register. -/
def Obligations.TimeAndCounters : Prop := ∀ n : Node,
  let now (c : Ctx) : DWord := (c.s.field c.x.field).time
  let named (c : Ctx) : Prop := ¬ (n.ary = .dyad ∧ c.bTok.poison = true)
  let pair (d : DWord) : List Word := [d.extractLsb' 0 32, d.extractLsb' 32 32]
  let f (c : Ctx) : Nat := ((if n.ary = .dyad then tlane c.bTok 0 else n.lit).extractLsb' 0 6).toNat
  let o (c : Ctx) : Offs := SMap.get Offs.init (c.s.field c.x.field).offs (f c)
  let unc (c : Ctx) : Nat := min 4095 ((o c).uncm.toNat + ((now c).toNat - (o c).tmeas.toNat + 9999) / 10000)
  let offset (c : Ctx) : List Word :=
    if f c = c.x.field then [0, 0, 0x1000]
    else if (c.s.field (f c)).joined then
      pair ((o c).offset.signExtend 64) ++ [BitVec.ofNat 32 (unc c) ||| (if (o c).valid then 0x1000 else 0)]
    else [0, 0, 0]
  let idx : Nat := (n.lit.extractLsb' 0 8).toNat
  let sub (c : Ctx) : Nat := (if n.ary = .dyad then (tlane c.bTok 0).extractLsb' 0 12 else n.lit.extractLsb' 8 12).toNat
  let inRange (c : Ctx) : Prop :=
    if idx ≤ 0x16 then sub c = 0 else if idx = 0x18 then True else if idx = 0x19 then sub c ≤ 2 else if idx = 0x24 then sub c ≤ 7
    else sub c < 128 ∧ sub c % 16 ≤ 8
  let bank (c : Ctx) : Bank := (c.s.cluster c.x.cluster).bank (sub c / 16) (sub c % 16)
  let value (c : Ctx) : DWord :=
    let k := c.x.cnt
    if idx < 8 then SMap.get 0 k.perf idx
    else if idx < 16 then (SMap.get 0 k.perfSel (idx - 8)).setWidth 64
    else match idx with
      | 0x10 => k.raCancel.setWidth 64 | 0x11 => k.mspill.setWidth 64 | 0x12 => k.mrefill.setWidth 64 | 0x13 => k.cspill.setWidth 64
      | 0x14 => k.ucdrop.setWidth 64 | 0x15 => k.sramCe.setWidth 64 | 0x16 => k.sramUe.setWidth 64
      | 0x18 => if (c.x.node (sub c)).extractLsb' 86 10 = 0x011 then (SMap.get 0 k.sink (sub c)).setWidth 64 else 0
      | 0x19 => if sub c = 0 then (c.s.cluster c.x.cluster).nextJob.setWidth 64
          else if sub c = 1 then (c.s.cluster c.x.cluster).cpNext.setWidth 64 else (c.s.field c.x.field).mNext.setWidth 64
      | 0x20 => (bank c).ce.setWidth 64 | 0x21 => (bank c).ue.setWidth 64
      | 0x22 => (bank c).refpress.setWidth 64 | 0x23 => (bank c).degraded.setWidth 64
      | 0x24 => ((c.s.cluster c.x.cluster).col (sub c)).dupdisc.setWidth 64
      | _ => 0
  let v (c : Ctx) : DWord := c.aw 1 ++ c.aw 0
  let written (c : Ctx) (x : LCore) : LCore :=
    if idx < 8 then { x with cnt := { x.cnt with perf := SMap.put 0 x.cnt.perf idx (v c) } }
    else if idx < 16 then { x with cnt := { x.cnt with perfSel := SMap.put 0 x.cnt.perfSel (idx - 8) ((v c).extractLsb' 0 9) } }
    else x
  Completes (.time n) (viewD 0x340 n) always (·.s) (fun c => c.both (pair (now c)) c.f.a.poison) ∧
  Completes (.toffs n) (viewD 0x341 n) named (·.s) (fun c => c.both (offset c) c.f.a.poison) ∧
  Traps (.toffs n) (viewD 0x341 n) (fun c => ¬ named c) .poisonConsumed 0x06 ∧
  Completes (.cntrd n) (viewD 0x342 n) (fun c => named c ∧ inRange c) (·.s) (fun c => c.both (pair (value c)) c.f.a.poison) ∧
  Traps (.cntrd n) (viewD 0x342 n) (fun c => named c ∧ ¬ inRange c) .accessFault 0x71 ∧
  Completes (.cntwr n) (viewD 0x343 n) (fun c => c.f.a.poison = false) (fun c => c.upd (written c)) (·.aBoth) ∧
  Traps (.cntwr n) (viewD 0x343 n) (fun c => c.f.a.poison = true) .poisonConsumed 0x06

/-- LAUNCH AND EXT (09 R249; 14 R352; 02 R43, R58): LAUNCH's record read stands in the wave buffer; elsewhere than on an AG core a goes
to DSTA at once, and on an AG core, where LAUNCH has no effect before it enters chain order, not before; a firing that holds an
extension record is illegal.
Where the rules leave a point open, it states the model's reading (log 24, 29 and 86). -/
def Obligations.LaunchAndExt : Prop := ∀ (n : Node) (e1 e2 : BitVec 86),
  let byA : Bool := n.lit.getLsbD 5
  let wave : Node := { n with lit := e1.extractLsb' 0 32 }
  let at_ (c : Ctx) : Nat := if byA then (c.aw 1 ++ c.aw 0 : DWord).toNat else (e2.extractLsb' 0 57).toNat
  let ok (c : Ctx) : Prop := ¬ (byA = true ∧ c.f.a.poison = true)
  let parts (c : Ctx) : Except Nat (List Part) := partsOf (tagColour c.f.tag) false (piecesOf (at_ c) 256) []
  let member (c : Ctx) : MemAcc :=
    { c.access wave .launch (match parts c with | .ok ps => ps | .error _ => []) with
      scope := 3, rel := true, aux := (n.lit.extractLsb' 0 5).toNat }
  Completes (.launch n e1 e2) (viewX 0x016 n e1 e2)
    (fun c => ok c ∧ (parts c).isOk = true ∧ c.x.role = .ag ∧ c.admits wave = true)
    (fun c => c.withMember wave (member c) id) (fun _ => []) ∧
  Completes (.launch n e1 e2) (viewX 0x016 n e1 e2)
    (fun c => ok c ∧ (parts c).isOk = true ∧ c.x.role ≠ .ag ∧ e1 = 0)
    (fun c => c.upd (fun x => { x with mem := x.mem ++ [{ member c with entered := true }], memId := (member c).id + 1 }))
    (fun c => [c.outA c.f.a.lanes c.f.a.poison]) ∧
  Traps (.launch n e1 e2) (viewX 0x016 n e1 e2) (fun c => ¬ ok c) .poisonConsumed 0x02 ∧
  Traps (.launch n e1 e2) (viewX 0x016 n e1 e2) (fun c => ok c ∧ (parts c).isOk = false) .accessFault 0x23 ∧
  ∀ (s : State) (f : Firing), s.cur = some f → exec (.ext e1) s = .next (s.firingTraps f 0x3FF .illegalNode 0x03)

/-- TOKENS AT THEIR CORE (06 R150 to R154; 01 R16, R25; 10 R255, R257): of a running pitch, the oldest token of its source and
channel leaves the mesh for the input path, or is discarded and counted; spilled entries and held-back tokens return; a held
match enters a ready queue that has room.
Where the rules leave a point open, it states the model's reading (log 1 and 46). -/
def Obligations.TokensAtCores : Prop :=
  ∀ (s : State) (asid lc : Nat) (p : Pitch) (x : LCore), s.pitch? asid = some p → s.lc? asid lc = some x → p.st = .running →
    x.blocked = false →
  (∀ k fl, s.flight[k]? = some fl → fl.dst = .lcore asid lc → flightFirst s.flight k = true →
    (∀ g ∈ s.waitingAt asid lc (tokChan fl.tok), g = fl) → (∀ u ∈ x.chanOvf, tokChan u ≠ tokChan fl.tok) →
    let here : State := s.updLC asid lc (fun x => if fl.ni = none ∧ fl.mesh = true then x.perfEvent 0x08 1 else x)
    let gone : State := { here with flight := listDrop s.flight k }
    (∀ y, gone.lc? asid lc = some y → y.discards asid fl.tok = true → exec (.tokenArrival k) s =
      .next (gone.ucDrop asid lc fl.tok.tag fl.tok.dnode.toNat fl.tok.dport (y.opcAt fl.tok.dnode.toNat))) ∧
    (∀ y u, gone.lc? asid lc = some y → y.discards asid fl.tok = false → fl.tok.vc ≠ 6 → fl.tok.vc ≠ 7 →
      gone.enterPath asid lc fl.tok = .done u → exec (.tokenArrival k) s = .next u)) ∧
  (∀ e u, (x.ms ++ x.ovf).find? (fun e => e.kind == .sticky && (x.ms ++ x.ovf).any (fun w => w.kind == .waiting &&
      w.node == e.node && w.port != e.port && tagColour w.tok.tag == tagColour e.tok.tag)) = some e →
    s.stickyMatches (x.ms ++ x.ovf).length asid lc e.tok false = .done u → exec (.stickyOverflowScan asid lc) s = .next u) ∧
  (∀ e r, x.ovf = e :: r → x.msUsed + 256 ≤ x.reqMatch → ∃ t y, exec (.matchRefill asid lc) s = .next t ∧
    t.lc? asid lc = some y ∧ y.ovf = r ∧ y.ms.Perm (e :: x.ms)) ∧
  (∀ vc g, vc < 8 → s.waitingAt asid lc vc = [g] → x.chanFlits + flitsOf g.tok.lanes.length ≤ x.chanCap →
    ∃ t y, exec (.channelOverflowSpill asid lc vc) s = .next t ∧ t.flight = s.flight.erase g ∧ t.lc? asid lc = some y ∧
      y.chanOvf = x.chanOvf ++ [g.tok]) ∧
  (∀ vc w y u, x.chanOvf.find? (fun w => tokChan w == vc) = some w →
    let back : State := s.updLC asid lc (fun x => { x with chanOvf := x.chanOvf.erase w })
    back.lc? asid lc = some y → y.discards asid w = false → w.vc ≠ 6 → w.vc ≠ 7 → back.enterPath asid lc w = .done u →
      exec (.channelOverflowReplay asid lc vc) s = .next u) ∧
  (∀ core f r, s.heldQ core = f :: r → (s.readyQ core).length < 64 → ∃ t, exec (.readyQueueEntry core) s = .next t ∧
    t.readyQ core = s.readyQ core ++ [f] ∧ t.held = SMap.put [] s.held core r ∧ ∀ other, other ≠ core → t.readyQ other = s.readyQ other)

/-- THE INPUT PATH (02 R43; 06 R151; 10 R257): a token that names an extension record traps; a PASS token at a node without an order
of its own completes a match alone; an ASSOC token completes a match with the oldest entry of its node and tag on the other port,
and waits when there is none and room for it.
Where the rules leave a point open, it states the model's reading (log 14 and 74). -/
def Obligations.InputPath : Prop :=
  ∀ (s : State) (asid lc : Nat) (p : Pitch) (x : LCore) (t : Token), s.pitch? asid = some p → s.lc? asid lc = some x →
    let n : Nat := t.dnode.toNat
    let r : Rec := x.node n
    let opc : BitVec 10 := r.extractLsb' 86 10
    let ary : BitVec 2 := r.extractLsb' 80 2
    let plain : Prop := opc ≠ 0x3FF ∧ opc ≠ 0x121 ∧ opc ≠ 0x002 ∧ opc ≠ 0x003 ∧ opc ≠ 0x009 ∧ opc ≠ 0x1C1 ∧ opc ≠ 0x1C2 ∧ opc ≠ 0x1C3
    let alone : Firing := { asid := asid, lc := lc, node := n, port := t.dport, tag := t.tag, a := t, b := none }
    let both (o : Token) : Firing :=
      { asid := asid, lc := lc, node := n, port := t.dport, tag := t.tag, a := if t.dport then o else t,
        b := some (if t.dport then t else o) }
    let partner (e : MEntry) : Bool := e.kind == .waiting && e.node == n && e.port != t.dport && e.tok.tag == t.tag
    let sticky (e : MEntry) : Bool := e.kind == .sticky && e.node == n && e.port != t.dport && tagColour e.tok.tag == tagColour t.tag
    (opc = 0x3FF → s.enterPath asid lc t = .done (s.takeTrap asid lc
      { cause := .illegalNode, detail := 0x03, tag := t.tag, node := n, port := t.dport, opc := 0x3FF, a := some t, b := none })) ∧
    (plain → t.act = 0 → (ary ≠ 1 ∨ t.dport = false) → s.enterPath asid lc t = .done (s.enterReady alone)) ∧
    (plain → t.act = 0 → ary = 1 → t.dport = true → s.enterPath asid lc t =
      .done (s.enterReady (both { t with lanes := [], poison := false, mark := 0, eosl := 0, hb := [] }))) ∧
    (plain → t.act = 1 → ary < 2 → ∀ e y, x.takeFrom partner = some (e, y) →
      s.enterPath asid lc t = .done ((s.updLC asid lc (fun _ => y)).enterReady (both e.tok))) ∧
    (plain → t.act = 1 → ary < 2 → x.takeFrom partner = none → (x.ms ++ x.ovf).any sticky = false →
      ∀ y, x.place { kind := .waiting, node := n, port := t.dport, tok := t, tok2 := none, count := 0, seq := 0 } = some y →
        s.enterPath asid lc t = .done (s.updLC asid lc (fun _ => y)))

/-- COLOURS AND TRAPS OF A PITCH (04 R109; 06 R159, R174; 09 R239, R244): a waiting firing's colour is refilled from the copy area,
else from the allocation image; a starved request traps; a freed value returns to the pool; a trap token at the region controller
ends its launch unless the controller can act on its cause.
Where the rules leave a point open, it states the model's reading (log 1, 41 and 52). -/
def Obligations.ColoursAndTraps : Prop :=
  ∀ (s : State) (asid : Nat) (p : Pitch), s.pitch? asid = some p →
  (∀ lc x c a, s.lc? asid lc = some x → SMap.find p.colours c = some a → x.cached c = none →
    (s.readyQ x.core).any (fun f => f.asid == asid && f.lc == lc && tagColour f.tag == c) = true → x.cache.length < 256 →
    ∃ t y, exec (.colourRefill asid lc c) s = .next t ∧ t.lc? asid lc = some y ∧
      y.cached c = some ((SMap.find x.copyArea c).getD a.regs)) ∧
  (∀ lc x k q, s.lc? asid lc = some x → p.st = .running → x.waitRing[k]? = some q →
    let cause : Cause := if q.colour then .colourStarved else .tagStarved
    (∀ t ∈ s.traps, ¬ (t.asid = asid ∧ t.lc = lc ∧ t.cause = cause)) →
    exec (.starvationTimeout asid lc k) s = .next (s.takeTrap asid lc
      { cause := cause, detail := 0, tag := q.f.tag, node := q.f.node, port := q.f.port,
        opc := x.opcAt q.f.node, a := some q.f.a, b := q.f.b, hb := q.f.hb })) ∧
  (∀ c, c ∈ p.freed → ∃ u : State, exec (.colourReturn asid c) s = .next (u.retryColours asid) ∧
    ∃ q, u = s.setPitch asid q ∧ q.freed = p.freed.erase c ∧ q.colours = p.colours ∧
      ∀ lc y, SMap.find q.lcores lc = some y → y.cached c = none) ∧
  (∀ k t, s.traps[k]? = some t → t.asid = asid →
    (∀ u ∈ s.traps.take k, ¬ (u.asid = asid ∧ u.lc = t.lc ∧ u.handler = t.handler)) → t.handler = false →
    (s.lc? asid t.lc).isSome = true →
    let ends : Prop := exec (.trapTokenReceipt k) s = .next (s.endLaunch asid (EndRec.trap t))
    (t.cause = .accessFault ∨ t.cause = .illegalNode ∨ t.cause = .jobFault ∨ t.cause = .poisonConsumed → ends) ∧
    (t.cause = .tagStarved ∨ t.cause = .colourStarved → p.reserveUsed = true → ends) ∧
    (t.cause = .tagStarved → p.reserveUsed = false → p.st = .running →
      exec (.trapTokenReceipt k) s = .next ({ s with traps := listDrop s.traps k }.grantTags asid (tagColour t.tag))) ∧
    (t.cause = .colourStarved → p.reserveUsed = false → p.st = .running →
      exec (.trapTokenReceipt k) s = .next ({ s with traps := listDrop s.traps k }.grantColours asid)))

/-- JOBS OF THE MATRIX ENGINE (05 R127 to R130, R135, R140; 06 R160, R161; 04 R110): an enqueued command takes the next job id and
sends it; the head of highest class is granted; a granted job starts beside the jobs it may run with, or faults by the first failing
check; a retired job makes its effects, flags, count and LASTJOB visible together and releases its tiles; an MMAJ shows plane by
plane, stops after the plane that a halt finds it in, and retires with its last plane.
Where the rules leave a point open, it states the model's reading (log 1 and 21). -/
def Obligations.MatrixJobs : Prop :=
  ∀ (s : State) (ci : Nat),
  let K : Cluster := s.cluster ci
  let running (asid : Nat) : Prop := ∃ p, s.pitch? asid = some p ∧ p.st = .running
  (∀ k c, s.cmds[k]? = some c → (∀ d ∈ s.cmds.take k, ¬ (d.eng = c.eng ∧ d.job.asid = c.job.asid ∧ d.job.lc = c.job.lc)) →
    c.eng = .matrix → c.unit = ci →
    let rest : State := { s with cmds := listDrop s.cmds k }
    let j : EJob := { c.job with id := K.nextJob }
    (c.job.opc ≠ 0x208 → exec (.engineCommandEnqueue k) s = .next
      (((rest.updCluster ci (fun x => { x with nextJob := x.nextJob + 1, mq := x.mq ++ [j] })).updLC j.asid j.lc
        (fun x => x.holdTiles j.view j.lc j.id)).jobToken .matrix ci j false
          [j.id.setWidth 32, BitVec.ofNat 32 j.lc] false)) ∧
    (c.job.opc = 0x208 → exec (.engineCommandEnqueue k) s = .next
      (rest.updCluster ci (fun x => { x with peeks := x.peeks ++ [c.job] })))) ∧
  (∀ g j, pickHead K.mq K.mLast = some g → K.mq[g]? = some j → (∀ u ∈ K.mq, u.granted = true → u.started = true) → running j.asid →
    exec (.engineJobGrant ci 0) s = .next ((s.setCluster ci { K with mq := grantAt K.mq g, mLast := j.lc }).updLC j.asid j.lc
      (fun x => x.holdTiles j.view j.lc j.id))) ∧
  (∀ j, K.mq.find? (fun j => j.granted && !j.started) = some j → mayStart j.opc.toNat K.mq = true → running j.asid →
    (startFault j.view K.wa = none → exec (.matrixJobStart ci) s = .next (s.updCluster ci (fun x => { x with
      mq := x.mq.map (fun u => if u.id = j.id then { j with started := true } else u)
      wsload := x.wsload || j.opc == 0x200 || j.opc == 0x201
      sca := if j.opc = 0x205 then SMap.putAll 0x7F [] 0 (padTo 0xFF 24 (bytesOfLanes j.scale)) else x.sca }))) ∧
    (∀ d, startFault j.view K.wa = some d → exec (.matrixJobStart ci) s = .next
      ((s.takeTrap j.asid j.lc (j.trapInfo .jobFault d)).endMatrixJob ci j (some d)))) ∧
  (∀ j x, K.mq.find? (fun j => j.started && j.opc == 0x204 && decide (j.prog ≤ j.order)) = some j → s.lc? j.asid j.lc = some x →
    let r := mmaPlane j.view (x.tile (j.view.bits 0 5)) j.prog K
    let plane (stop : Bool) : EJob := { j with prog := j.prog + 1, flags := j.flags ||| r.2, stopped := stop }
    let shown (stop : Bool) : State := s.setCluster ci { r.1 with
      mq := setJob K.mq (plane stop)
      retired := K.retired + 1
      flags := K.flags ||| r.2 }
    (j.stopped = true → exec (.mmajPlaneRetire ci) s = .next s) ∧
    (∀ stop, j.stopped = false → (stop = false ↔ running j.asid) →
      (j.prog < j.order → exec (.mmajPlaneRetire ci) s = .next (shown stop)) ∧
      (j.prog = j.order → exec (.mmajPlaneRetire ci) s = .next ((shown stop).endMatrixJob ci (plane stop) none)))) ∧
  (∀ i j x, K.mq[i]? = some j → s.lc? j.asid j.lc = some x → j.started = true → j.opc ≠ 0x204 →
    let t : Tile := x.tile (j.view.bits 0 5)
    let ends (k : Cluster) (g : BitVec 5) : Prop := exec (.matrixJobRetire ci i) s =
      .next ((s.setCluster ci k).endMatrixJob ci { j with flags := j.flags ||| g } none)
    (j.opc = 0x200 → ends (K.loadWs t (1024 * j.view.bits 5 5) (j.view.bits 10 3) false) 0) ∧
    (j.opc = 0x201 → ends (K.loadWs t (1024 * j.view.bits 5 5) (j.view.bits 10 3) true) 0) ∧
    (j.opc = 0x202 → ends K.swapWs 0) ∧
    (j.opc = 0x203 ∨ j.opc = 0x205 → ends (mmaPlane j.view t 0 K).1 (mmaPlane j.view t 0 K).2) ∧
    (j.opc = 0x206 → ends (K.zeroAp (j.view.bits 0 8) (j.view.bits 8 8 + 1)) 0) ∧
    (j.opc = 0x207 → exec (.matrixJobRetire ci i) s = .next ((s.apMove ci j).endMatrixJob ci j none))) ∧
  (∀ j r, K.peeks = j :: r → exec (.appeekResponse ci) s = .next
    (((s.setCluster ci { K with peeks := r }).jobToken .matrix ci j false (SMap.getN 0 K.ap (32 * j.view.bits 0 8) 32)
      (K.apPz.contains (j.view.bits 0 8))).jobToken .matrix ci j true [K.retired, K.lastJob.setWidth 32] false))

/-- THE PLANES AND ACCUMULATORS OF THE MATRIX ENGINE (05 R132, R134, R135, R138; 03 R77): a loaded plane is valid and holds the
bytes of the tile; a swap exchanges the planes and clears the scales of a plain format; APZERO clears its rows alone; an MMA row is
the pair tree of the products, added to AP or replacing it, and no other row changes.
Where the rules leave a point open, it states the model's reading (log 20). -/
def Obligations.MatrixPlanes : Prop :=
  (∀ (k : Cluster) (t : Tile) (off fmt : Nat), fmt < 8 → let r := k.loadWs t off fmt false
    r.ws.valid = true ∧ r.ws.fmt.toNat = fmt ∧ r.wa = k.wa ∧ r.scw = k.scw ∧ r.ap = k.ap ∧
      ∀ i, i < 12288 → SMap.get 0 r.ws.bytes i = SMap.get 0 t.bytes (off + i)) ∧
  (∀ k : Cluster, k.swapWs.wa = k.ws ∧ k.swapWs.ws = k.wa ∧ k.swapWs.ap = k.ap ∧
    (k.ws.fmt.toNat ≤ 2 → k.swapWs.scw = [] ∧ k.swapWs.scwPz = false) ∧ (2 < k.ws.fmt.toNat → k.swapWs.scw = k.scw)) ∧
  (∀ (k : Cluster) (row n : Nat), SMap.wf 0 k.ap = true → let r := k.zeroAp row n
    (∀ i, 32 * row ≤ i → i < 32 * (row + n) → SMap.get 0 r.ap i = 0) ∧
    (∀ i, ¬ (32 * row ≤ i ∧ i < 32 * (row + n)) → SMap.get 0 r.ap i = SMap.get 0 k.ap i) ∧
    r.wa = k.wa ∧ r.ws = k.ws ∧ ∀ q, q ∈ r.apPz ↔ q ∈ k.apPz ∧ ¬ (row ≤ q ∧ q < row + n)) ∧
  (∀ (v : NV) (t : Tile) (k : Cluster) (g : BitVec 5) (r : Nat), v.opc = 0x203 → SMap.wf 0 k.ap = true →
    let cols := (List.range 32).map (fun c => (c, k.waCol c))
    let row := v.bits 5 8 + r
    let xs := meElems (v.bits 21 2) ((List.range 384).map (fun i => SMap.get 0 t.bytes (v.x1 0 15 + r * v.x1 15 15 + i)))
    let root (c : Nat) : Nat := (pairSum (List.zipWith prodN xs (k.waCol c))).1
    let out := (mmaRow v t 0 cols (k, g) r).1
    (∀ c, c < 32 → SMap.get 0 out.ap (32 * row + c) = BitVec.ofNat 32 (if v.x1 30 1 = 1 then root c
      else (f32.add .rne (SMap.get 0 k.ap (32 * row + c)).toNat (root c)).1)) ∧
    (∀ i, ¬ (32 * row ≤ i ∧ i < 32 * row + 32) → SMap.get 0 out.ap i = SMap.get 0 k.ap i) ∧ out.wa = k.wa ∧ out.ws = k.ws)

/-- JOBS OF THE COPY UNIT (15 R386, R388, R390, R393; 14 R361): a granted copy job starts, or faults on a destination tile that is no
AB tile; it claims each destination tile once EMPTY or READY; it takes its destination lines when no engine holds one; it completes
when it has moved everything; a multicast line is written into the tile of every destination core.
Where the rules leave a point open, it states the model's reading (log 1, 31 and 34). -/
def Obligations.CopyJobs : Prop :=
  ∀ (s : State) (ci k : Nat) (j : EJob) (x : LCore) (p : Pitch), (s.cluster ci).cpq[k]? = some j → s.lc? j.asid j.lc = some x →
    s.pitch? j.asid = some p → p.st = .running →
  let tile : Nat := (j.e1.extractLsb' 17 5).toNat
  let copies : Prop := 0x2C0 ≤ j.opc.toNat ∧ j.opc.toNat ≤ 0x2C5
  let ab (l : Nat) : Bool := match s.lc? j.asid l with | some y => y.tileIs tile .ab | none => false
  (copies → j.granted = true → j.started = false → (∃ l ∈ copyDests j.view, ab l = false) →
    exec (.copyJobStart ci k) s = .next (s.failCopy ci j .jobFault 0x67)) ∧
  (copies → j.granted = true → j.started = false → (∀ l ∈ copyDests j.view, ab l = true) → j.srcTile = false →
    j.lc ∉ copyDests j.view →
    exec (.copyJobStart ci k) s = .next ((s.fresh.2.updLC j.asid j.lc (fun x => x)).setCopy ci
      { j with started := true, pass := if j.opc = 0x2C0 then s.fresh.1 else 0 })) ∧
  (j.opc = 0x2C8 → j.granted = true → j.started = false → ((x.tile (j.view.bits 0 5)).cbLine j.slot).p = true →
    exec (.copyJobStart ci k) s = .next (s.failCopy ci j .jobFault 0x65)) ∧
  (copies → j.started = true → ∀ l y, (copyDests j.view).find? (fun l => !j.claims.contains l) = some l → s.lc? j.asid l = some y →
    (y.tile tile).state = .empty ∨ (y.tile tile).state = .ready →
    exec (.copyTileClaim ci k) s = .next ((s.updLC j.asid l (fun y => y.updTile tile (fun t =>
      { t with state := .filling, job := j.id, eng := 1 }))).setCopy ci { j with claims := j.claims ++ [l] })) ∧
  (j.opc = 0x2C0 → j.started = true → j.owns = [] → j.dstTile = false → j.prog < j.len → ∀ ls u,
    let at_ := (tlane64 j.fire.a 2) + j.prog
    let n := min (4096 - at_ % 4096) (j.len - j.prog) / 64
    s.ownPage ci j at_ n = .ok (u, ls) →
    exec (.engineLineOwnership ci k) s = .next (({ u with owned := u.owned ++ ls.map (fun l => (l, j.key ci)) }).setCopy ci
      { j with owns := ls })) ∧
  (j.started = true → j.moved = true → (j.opc ≠ 0x2C1 ∧ j.opc ≠ 0x2C2 ∨ tlane64 j.fire.a 4 = 0) →
    exec (.copyJobRetire ci k) s = .next (s.endCopy ci j none)) ∧
  (∀ i r, s.reqs[i]? = some r → r.kind = .mcast → r.atHost = true → r.chain = ci →
    (∀ q ∈ listDrop s.reqs i, q.kind = .mcast → q.atHost = true → q.read ≠ r.read) →
    (s.cluster ci).cpq.find? (fun u => u.id.toNat == r.id) = some j → j.prog + 64 < j.len → j.claims = [j.lc] →
    exec (.multicastDelivery i) s = .next (({ s with reqs := listDrop s.reqs i }.updLC j.asid j.lc (fun x =>
      x.updTile tile (fun t => t.store ((j.e1.extractLsb' 22 15).toNat + 64 * r.part) r.data r.poison))).setCopy ci
        { j with prog := j.prog + 64 }))

/-- THE WAVE BUFFER (14 R348, R351, R353, R357; 15 R373, R379; 10 R272): a member enters chain order when its instance names it next,
traps with no effect where its own number has entered, and waits otherwise; it is released when every earlier member of its instance
lets it, and a release when what happens before it is performed; a released store moves part by part into its store queue and on to
the cluster's write queue, a released stream part by part to its homes; replies go when the value is bound and every earlier reply
has gone.
Where the rules leave a point open, it states the model's reading (log 1, 22, 23, 24, 25, 26, 34, 83 and 86). -/
def Obligations.WaveBuffer : Prop :=
  ∀ (s : State) (asid lc k : Nat) (x : LCore) (m : MemAcc), s.lc? asid lc = some x → x.mem[k]? = some m →
  (∀ i, x.insts.find? (fun i => i.isOf m) = some i → m.entered = false → m.ra ≠ .wait → s.running asid = true →
    let next : Prop := (i.last = none ∧ m.own = x.waveFirst) ∨
      ∃ o sc, i.last = some (o, sc) ∧ sc ≠ 0xFE ∧ if sc = 0xFF then m.pred = o else m.own = sc
    (m.own ∈ i.owns → m.kind ≠ .pref → exec (.chainOrderEntry asid lc k) s = .next
      ((s.updLC asid lc (fun x => (x.undoTile m).dropMem m.id)).takeTrap asid lc (m.trapInfo .accessFault 0x5B))) ∧
    (m.own ∉ i.owns → ¬ next → exec (.chainOrderEntry asid lc k) s = .next s) ∧
    let before := (x.mem.filter (fun e => e.entered && e.sameInst m)).map (·.id)
    let stays := hbJoin m.hb (if m.isStore || m.rel || m.kind == .fence then i.hb else i.hbAcq)
    let reads := if m.isLoad then x.mem.filter (fun e => e.entered && e.sameInst m && e.isStore && e.mayOverlap m) else []
    let hb := reads.foldl (fun l e => hbJoin (hbJoin l e.hb) [(asid, lc, e.id)]) stays
    (m.own ∉ i.owns → next → ∃ is' : List ChainInst,
      let t : State := s.updLC asid lc (fun _ => (LCore.gcMem
        { LCore.updMem x m.id (fun m => { m with entered := true, order := before, hb := hb }) with insts := is' }).perfEvent 0x0C 1)
      (m.kind ≠ .launch → exec (.chainOrderEntry asid lc k) s = .next t) ∧
      (m.kind = .launch → exec (.chainOrderEntry asid lc k) s =
        .next (t.memToken asid lc m false none m.fire.a.lanes m.fire.a.poison m.tagOut)) ∧
      (m.succ = 0xFE → is' = x.insts.filter (fun i => !i.isOf m)) ∧
      (m.succ ≠ 0xFE → ∃ i' : ChainInst, i'.last = some (m.own, m.succ) ∧ i'.owns = m.own :: i.owns ∧
        is' = x.insts.map (fun i => if i.isOf m then i' else i)))) ∧
  (∀ e : MemAcc, m.rel = false →
    (m.kind = .load → (e.lets m = true ↔ (e.acq = true → e.bound = true) ∧ (e.kind = .fence → e.bound = true) ∧
      (e.isStore = true → e.isSent = true ∨ e.mayOverlap m = false))) ∧
    (m.kind = .store → (e.lets m = true ↔ (e.acq = true → e.bound = true) ∧ (e.kind = .fence → e.bound = true) ∧
      (e.isLoad = true → e.bound = true) ∧ (e.isStore = true → e.isSent = true)))) ∧
  (m.entered = true → m.ra ≠ .cancel → m.ra ≠ .halted → s.active asid = true →
    let rel (t : State) : Prop := exec (.memoryAccessRelease asid lc k) s = .next t
    let done (f : MemAcc → MemAcc) (t : State) : State := t.updMem asid lc m.id f
    (m.released = false →
      ((∃ e ∈ x.mem, m.order.contains e.id = true ∧ e.lets m = false) → rel s) ∧
      (m.rel = true → s.hbDone asid lc x m.scope m.hb = false → rel s) ∧
      ((∀ e ∈ x.mem, m.order.contains e.id = true → e.lets m = true) → (m.rel = true → s.hbDone asid lc x m.scope m.hb = true) →
        (m.kind = .fence → rel (done (fun m => { m with released := true, bound := true }) s)) ∧
        (m.kind = .strmst → rel (done (fun m => { m with released := true }) s)) ∧
        (m.kind = .load → ∀ ps ts, s.xlParts asid x false m.parts = .ok (ps, ts) →
          rel ((done (fun m => { m with released := true, parts := ps }) (s.useTlb asid lc x ts)).sendParts asid lc m .read ps)) ∧
        (m.kind = .store → ∀ ps ts, s.xlParts asid x true m.parts = .ok (ps, ts) →
          rel (done (fun m => { m with released := true, parts := ps }) (s.useTlb asid lc x ts))) ∧
        (m.kind = .atomic → ∀ ps ts, s.xlParts asid x true m.parts = .ok (ps, ts) →
          ((∀ p ∈ ps, s.homeRoom x (s.homeOf p.pa) = true) →
            rel ((done (fun m => { m with released := true, parts := ps }) (s.useTlb asid lc x ts)).sendParts asid lc m .atomic ps)) ∧
          ((∃ p ∈ ps, s.homeRoom x (s.homeOf p.pa) = false) → rel s)) ∧
        (m.kind = .load ∨ m.kind = .store ∨ m.kind = .atomic → ∀ d, s.xlParts asid x (m.kind != .load) m.parts = .error (some d) →
          rel ((s.noteFaults asid lc x (m.kind != .load) m.parts).endMem asid lc m .accessFault d)))) ∧
    (m.released = true → ∀ p i, m.parts.zipIdx.find? (fun e => e.1.stage == 0) = some (p, i) →
      let queue (q : Part) (t : State) : State := (t.updLC asid lc (fun x => { x with sq := x.sq ++ [(m.id, i)] })).updPart asid lc m.id i
        (fun _ => { q with stage := 1 })
      (m.kind = .store → m.strm = none → s.homeRoom x (s.homeOf p.pa) = true → rel (queue p s)) ∧
      (∀ t e pa u, m.kind = .strmst → m.strm = some t → (t.linePieces (tlane64 m.fire.a 0))[i]? = some e →
        s.lookup asid x p.va true = .ok pa u → s.homeRoom x (s.homeOf pa) = true →
        let off := t.toff + 4 * t.roww * e.1 + e.2.1
        let q : Part := { p with pa := pa, data := (x.tile t.tile).read off p.len, poison := (x.tile t.tile).poisonIn off p.len }
        rel (((queue q s).useTlb asid lc x [u]).updLC asid lc (fun x =>
          if i + 1 = m.parts.length then x.setTile t.tile .ready else x))) ∧
      let meets (t : State) (d : Nat) : Prop :=
        (m.ra = .ahead ∨ m.ra = .commit ∧ m.aux = 1 →
          rel (t.updPart asid lc m.id i (fun p => { p with data := List.replicate p.len 0, poison := true, stage := 4,
                                                           fault := some (.accessFault, d) }))) ∧
        (¬ (m.ra = .ahead ∨ m.ra = .commit ∧ m.aux = 1) → rel (t.failStream asid lc m i d))
      (m.kind = .strm → ∀ f, p.fault = some f → meets s f.2) ∧
      (m.kind = .strm → p.fault = none → s.lookup asid x p.va false = .miss → rel s) ∧
      (m.kind = .strm → p.fault = none → ∀ d, s.lookup asid x p.va false = .fault d → meets (s.noteFault asid lc x p.va) d) ∧
      (m.kind = .strm → p.fault = none → ∀ pa u, s.lookup asid x p.va false = .ok pa u →
        let q : Part := { p with pa := pa, poison := u.pz, stage := 2 }
        rel (((s.useTlb asid lc x [u]).updPart asid lc m.id i (fun _ => q)).sendReq asid lc x m i q .read))) ∧
    (m.released = true → (∀ p ∈ m.parts, p.stage ≠ 0) → m.kind = .store ∨ m.kind = .strmst → ∀ i p r, x.sq = (m.id, i) :: r →
      m.parts[i]? = some p →
      (s.drainWaits m = true → rel s) ∧
      (s.drainWaits m = false → rel (((s.sendReq asid lc x m i p .write).updLC asid lc (fun x => { x with sq := r })).updPart
        asid lc m.id i (fun p => { p with stage := 2 }))))) ∧
  (x.mem.find? (fun e => e.id == m.id) = some m → s.active asid = true → m.entered = true → m.bound = true →
    m.replied = false → m.ra ≠ .cancel →
    ((∀ e ∈ x.mem, m.order.contains e.id = true → e.replied = true ∨ e.wantsReply = false ∨ e.ra = .cancel) →
      exec (.memoryReply asid lc k) s =
        .next ((s.sendReplies asid lc m).updMem asid lc m.id (fun m => { m with replied := true }))) ∧
    ((∃ e ∈ x.mem, m.order.contains e.id = true ∧ e.replied = false ∧ e.wantsReply = true ∧ e.ra ≠ .cancel) →
      exec (.memoryReply asid lc k) s = .next s)) ∧
  (∀ t, m.kind = .strm → m.strm = some t → s.active asid = true → m.released = true → (∀ p ∈ m.parts, p.stage = 4) →
    (m.bound = false → m.ra = .none ∨ m.ra = .commit →
      let fin (u : State) (ps : List Part) : Prop := exec (.streamComplete asid lc k) s = .next
        (((u.learnAcq asid lc x m).updMem asid lc m.id (fun m => { m with bound := true, parts := ps })).reply asid lc m.id)
      (t.token = false → m.aux ≠ 3 → fin (s.fillStream asid lc m t) []) ∧ (t.token = false → m.aux = 3 → fin s []) ∧
      (t.token = true → fin s (m.rowParts t))) ∧
    (m.ra = .ahead → exec (.speculativeFillComplete asid lc k) s = .next (s.updLC asid lc (fun x =>
      x.updTile t.tile (fun tl => { tl with done := true })))))

/-- MEMORY AT ITS HOMES (14 R348, R355, R357, R360, R361, R367; 15 R382, R383, R391): the values of the atomics; a load at CORE or CLUSTER scope
reads the newest of its queues and the home, one at a wider scope reads the home once its cluster holds no write to it, and both
wait for the writes that happen before them; a store is
performed once and its duplicates are counted; an owned line makes an access wait; a resend keeps its number, and after 100 µs
the access faults; a host port completes what stands at it; a
multicast line joins a pending read of its line, or is read.
Where the rules leave a point open, it states the model's reading (log 1, 27, 28, 31 and 86). -/
def Obligations.Homes : Prop :=
  (∀ o v y : BitVec 32,
    let a (opc : BitVec 10) (t : ETyp) : Option Nat := atomicNew opc t o.toNat v.toNat y.toNat
    a 0x280 .i32 = some (o + v).toNat ∧ a 0x281 .f32 = some (f32.add .rne o.toNat v.toNat).1 ∧
    a 0x282 .i32 = some (if v.slt o then v else o).toNat ∧ a 0x282 .n32 = some (if v.ult o then v else o).toNat ∧
    a 0x283 .i32 = some (if o.slt v then v else o).toNat ∧ a 0x283 .n32 = some (if o.ult v then v else o).toNat ∧
    a 0x284 .n32 = some (o &&& v).toNat ∧ a 0x285 .n32 = some (o ||| v).toNat ∧ a 0x286 .n32 = some (o ^^^ v).toNat ∧
    a 0x287 .n32 = some v.toNat ∧ a 0x288 .n32 = (if o = v then some y.toNat else none) ∧
    a 0x289 .n32 = some (if v.ule o then 0 else (o + 1).toNat)) ∧
  ∀ (s : State) (k : Nat) (r : HReq), s.reqs[k]? = some r →
    let rest : State := { s with reqs := listDrop s.reqs k }
    let owned : Bool := s.isOwned r.pa r.len
    let home (t : State) : Prop := exec (.homeAccess k) s = .next t
    (r.atHost = false → owned = true → s.isDup r = false → home s) ∧
    (∀ x m, s.reqMem r = some (x, m) → r.atHost = false → owned = false → r.kind = .read →
      let waits : Bool := s.loadWaits r || (decide (2 ≤ r.scope) && s.pending x.cluster r.pa r.len) ||
        s.hbWaits r.asid r.lc x r.scope m.hb r.pa r.len
      let u := rest.readNote r.pa
      (waits = true → home s) ∧
      (waits = false → isHostPa r.pa = true → home (s.toHost k)) ∧
      (waits = false → isHostPa r.pa = false → 2 ≤ r.scope → home (u.bindPart r x m (u.bytesAt r.pa r.len) (u.poisonIn r.pa r.len))) ∧
      (waits = false → isHostPa r.pa = false → r.scope < 2 →
        let v := u.readThrough r.asid r.lc x r.pa r.len
        let seen := (u.seenPends r.asid r.lc x).filter (fun w => overlaps w.pa w.data.length r.pa r.len)
        home ((u.learn r.asid r.lc m false (seen.map (·.id))).bindPart r x m v.1 v.2))) ∧
    (r.atHost = false → r.kind = .write ∨ r.kind = .atomic → s.isDup r = true → home ((rest.noteFloor r).countDup r)) ∧
    (r.atHost = false → owned = false → r.kind = .write → s.isDup r = false →
      let waits : Bool := s.writeWaits k r || s.hbHolds (s.reqHb r) r.pa
      let u := (rest.writeLine r.pa r.data r.poison).markDone r
      (waits = true → home s) ∧
      (waits = false → isHostPa r.pa = false → home (u.finishPart r r.data r.poison 4)) ∧
      (waits = false → isHostPa r.pa = true →
        home ({ u with reqs := u.reqs ++ [{ r with atHost := true }] }.finishPart r r.data r.poison 3))) ∧
    (∀ x m, s.reqMem r = some (x, m) → r.atHost = false → owned = false → r.kind = .atomic → s.isDup r = false →
      let waits : Bool := s.pending x.cluster r.pa r.len || s.loadWaits r || s.hbHolds m.hb r.pa
      (waits = true → home s) ∧
      (waits = false → isHostPa r.pa = false → home ((rest.markDone r).doAtomic r x m)) ∧
      (waits = false → isHostPa r.pa = true → r.opc = 0x280 ∨ r.opc = 0x287 ∨ r.opc = 0x288 → home ((s.toHost k).markDone r)) ∧
      (waits = false → isHostPa r.pa = true → r.opc ≠ 0x280 ∧ r.opc ≠ 0x287 ∧ r.opc ≠ 0x288 →
        home (rest.endMem r.asid r.lc m .accessFault 0x63))) ∧
    (∀ j, s.mcastJob r = some j → r.atHost = false → owned = false → r.kind = .mcast →
      let waits : Bool := s.pending r.chain r.pa r.len || s.hbHolds j.fire.hb r.pa
      (waits = true → home s) ∧
      (∀ q, waits = false → s.mergesWith r = some q →
        let r' := { r with data := q.data, linePz := q.linePz, poison := r.poison || q.linePz, atHost := true, read := q.read }
        home { s with reqs := listSet s.reqs k r' }) ∧
      (waits = false → s.mergesWith r = none →
        let u := s.readNote r.pa
        let pz := u.poisonIn r.pa r.len
        let r' := { r with data := u.bytesAt r.pa r.len, linePz := pz, poison := r.poison || pz, atHost := true, read := u.freeCtr }
        home { u with freeCtr := u.freeCtr + 1, reqs := listSet u.reqs k r' })) ∧
    (r.kind = .write ∨ r.kind = .atomic → r.atHost = false → s.isDup r = false →
      (s.srcTime r < r.sent + 100000 →
        let floor := (s.unacked r.asid r.lc r.chain (s.homeOf r.pa)).foldl (fun f q => if seqBelow q.seq f then q.seq else f) r.seq
        let copy := { r with floor := floor }
        exec (.writeResend k) s = .next { s with reqs := s.reqs.take (k + 1) ++ [copy] ++ s.reqs.drop (k + 1) }) ∧
      (∀ x m, r.sent + 100000 ≤ s.srcTime r → s.lc? r.asid r.lc = some x → x.mem.find? (fun m => m.id == r.id) = some m →
        let others := s.reqs.filter (fun q => !(q.asid == r.asid && q.lc == r.lc && q.id == r.id))
        exec (.writeResendExpiry k) s = .next (({ s with reqs := others } : State).endMem r.asid r.lc m .accessFault 0x5A))) ∧
    (r.atHost = true →
      (∀ x m, s.reqMem r = some (x, m) →
        (r.kind = .read → exec (.hostPortCompletion k true) s = .next (rest.readHome r x m)) ∧
        (r.kind = .atomic → exec (.hostPortCompletion k true) s = .next (rest.doAtomic r x m)) ∧
        (r.kind = .atomic → exec (.hostPortCompletion k false) s = .next (rest.endMem r.asid r.lc m .accessFault 0x63))) ∧
      (r.kind = .write → exec (.hostPortCompletion k true) s = .next (rest.finishPart r r.data r.poison 4)))

/-- TRANSLATION (13 R341, R344 to R347; 10 R276; 17 R411): a miss joins the walk of its page, starts one while fewer than 16 are in
flight, or queues; a leaf fills the caches and sets A, and D for a write; V = 0 waits for the region controller; a fault
reaches every waiter; at most 8 invalidations are queued, and a completed one leaves no entry that it names.
Where the rules leave a point open, it states the model's reading (log 1 and 30). -/
def Obligations.Translation : Prop :=
  (∀ (f : Field) (asid vpn : Nat) (who : Miss), let g := f.miss asid vpn who
    (∀ w ∈ f.walks, w.asid = asid → w.vpn = vpn → g.walks.length = f.walks.length ∧ g.wqueue = f.wqueue) ∧
    ((∀ w ∈ f.walks, ¬ (w.asid = asid ∧ w.vpn = vpn)) → (asid, vpn, who) ∉ f.wqueue →
      (f.walks.length < 16 → g = { f with walks := f.walks ++ [{ asid := asid, vpn := vpn, who := [who], fault := none }] }) ∧
      (16 ≤ f.walks.length → f.wqueue.length < 64 → g = { f with wqueue := f.wqueue ++ [(asid, vpn, who)] }))) ∧
  ∀ (s : State) (fi : Nat), let f := s.field fi
    (∀ asid lc id x m vpn, s.lc? asid lc = some x → x.mem.find? (fun m => m.id == id) = some m → x.field = fi →
      s.active asid = true → m.entered = true → (∃ p ∈ m.toWalk, p.va / 4096 = vpn ∧ s.lookup asid x p.va m.writes = .miss) →
      exec (.tlbMissWalk fi asid vpn (.access asid lc id)) s =
        .next (s.updField fi (fun f => f.miss asid vpn (.access asid lc id)))) ∧
    (∀ k w, f.walks[k]? = some w →
      let drop (t : State) : State := t.dropWalk fi k
      let u := s.walkNote fi w.asid w.vpn
      let change (g : Walk → Walk) (t : State) : State :=
        t.updField fi (fun f => { f with walks := f.walks.mapIdx (fun j w => if j = k then g w else w) })
      let again : State → State := change (fun w => { w with fault := none })
      let fails (cause : Cause) (d : Nat) (t : State) : State :=
        drop (w.who.foldl (fun s a => (s.countMiss a).failMiss w.vpn cause d a) t)
      let write : Bool := match w.who with | a :: _ => s.missWrites a | [] => false
      (w.fault = none → s.walkOwned fi w.asid w.vpn = true → exec (.walkComplete fi k) s = .next s) ∧
      (w.fault = none → s.walkOwned fi w.asid w.vpn = false → (∀ a ∈ w.who, s.rcOwned a = false) →
        (∀ at_ e level upper, s.walk fi w.asid w.vpn = .leaf at_ e level upper →
          let pa := ppnOf e * 4096 + (w.vpn * 4096) % (4096 * 512 ^ level)
          let setD := write && (leafFault s e pa true true true).isNone
          let e' : DWord := e ||| (if setD then 0x30 else 0x10)
          exec (.walkComplete fi k) s = .next (drop (w.who.foldl (fun s a => s.fillMiss fi (tlbOf w.asid w.vpn level e') a)
            ((u.setAD at_ e setD).updField fi (fun f => { f with pwc := pwcFill f.pwc w.asid w.vpn upper }))))) ∧
        (∀ at_ asid lc id x m, s.walk fi w.asid w.vpn = .absent at_ →
          w.who.find? (fun a => !s.missQuiet a) = some (.access asid lc id) →
          s.missMem (.access asid lc id) = some (x, m) →
          exec (.walkComplete fi k) s = .next ((change (fun w => { w with fault := some at_, since := (u.field fi).time.toNat }) u).sendTrap asid lc
            (m.trapInfo .pageFault 0) false none)) ∧
        (∀ at_, s.walk fi w.asid w.vpn = .absent at_ → (∀ a ∈ w.who, s.missQuiet a = true) →
          exec (.walkComplete fi k) s = .next (fails .pageFault 0 u)) ∧
        (∀ d, s.walk fi w.asid w.vpn = .fault d →
          exec (.walkComplete fi k) s = .next (fails .accessFault d u))) ∧
      (∀ at_ leaf, w.fault = some at_ → s.isOwned at_ 8 = true → exec (.pageFaultResolution fi k leaf) s = .next s) ∧
      (∀ at_, w.fault = some at_ → s.isOwned at_ 8 = false →
        exec (.pageFaultResolution fi k none) s = .next (fails .accessFault 0x59 s) ∧
        (∀ e, w.vpn < 17592186044416 → exec (.pageFaultResolution fi k (some e)) s =
          .next (again ((s.assign at_).setBytes at_ (bytesOfNat 8 e.toNat)))) ∧
        (∀ e, 17592186044416 ≤ w.vpn → e.getLsbD 3 = true → ppnOf e ∈ f.pages →
          let clean := (s.writeRange 64 (ppnOf e * 4096) (List.replicate 4096 0) false).updField fi
            (fun f => { f with pages := f.pages.filter (· ≠ ppnOf e) })
          let noted := { clean with backing := (w.asid, w.vpn) :: s.backing.filter (· ≠ (w.asid, w.vpn)) }
          exec (.pageFaultResolution fi k (some e)) s = .next (again
            (((noted.poolLow fi).assign at_).setBytes at_ (bytesOfNat 8 e.toNat)))) ∧
        (17592186044416 ≤ w.vpn → f.pages = [] →
          (w.since + 10000000 ≤ f.time.toNat → exec (.backingPageTimeout fi k) s = .next (fails .accessFault 0x59 s)) ∧
          (f.time.toNat < w.since + 10000000 → exec (.backingPageTimeout fi k) s = .next s)))) ∧
    (∀ asid, let queues (e : Instr) (i : Inval) : Prop :=
        (f.invq.length < 8 → exec e s = .next (s.updField fi (fun f => { f with invq := f.invq ++ [i], issued := f.issued + 1 }))) ∧
        (8 ≤ f.invq.length → exec e s = .next (s.updField fi (fun f => { f with overrun := true })))
      queues (.invalidateAll fi) { kind := 0, asid := 0, vpn := 0, pages := 0 } ∧
      queues (.invalidateAsid fi asid) { kind := 1, asid := asid, vpn := 0, pages := 0 } ∧
      queues (.invalidateRange fi asid)
        { kind := 2, asid := asid, vpn := f.invAddr, pages := if f.invLen = 0 then 1 else f.invLen }) ∧
    (∀ i r, f.invq = i :: r → (s.invalPending i = true → exec (.invalidationComplete fi) s = .next s) ∧
      (s.invalPending i = false → ∃ t, exec (.invalidationComplete fi) s = .next t ∧
        (t.field fi).invq = r ∧ (t.field fi).doneInv = f.doneInv + 1 ∧ t.mem = s.mem ∧ t.cur = s.cur ∧ t.flight = s.flight ∧
        (∀ k e, e ∈ (t.cluster k).tlb ↔ e ∈ (s.cluster k).tlb ∧ i.hits e = false) ∧
        (∀ g e, e ∈ (t.field g).pwc ↔ e ∈ (s.field g).pwc ∧ i.hitsUpper e = false) ∧
        t.pitches = s.pitches ∧
        (∀ c l, (c, l) ∈ t.tlbs ↔ l ≠ [] ∧ ∃ l', (c, l') ∈ s.tlbs ∧ l = l'.filter (fun e => !i.hits e))))

/-- A STRIPE OF DRAM (13 R321, R326): while every bank of its column works or one data bank alone is degraded, and the LP unit holds
the exclusive OR of the data units, a unit reads as its own bank's bytes or as their reconstruction; a byte written reads back,
every other byte of the stripe reads as before, and the LP unit holds the exclusive OR still. -/
def Obligations.Stripes : Prop :=
  ∀ (s : State) (k c q b : Nat) (bad : Option Nat), b < 4096 → q < 3968 → Memory.wf s.mem = true →
    (∀ m, m < 9 → ((s.cluster k).bank c m).lost = [] ∧ ((s.cluster k).bank c m).down = false ∧
      ((s.cluster k).bank c m).st = if bad = some m then .degraded else .healthy) →
    bad ≠ some 8 → ((s.cluster k).col c).lpServes = [] →
    let held (t : State) (m : Nat) : Byte := t.raw (locKey k c m q b)
    let others (t : State) (l : Nat) : Byte := (List.range 9).foldl (fun a m => if m = l then a else a ^^^ held t m) 0
    (∀ l, l < 8 → s.dramByte k c l q b = if bad = some l then others s l else held s l) ∧
    (∀ l v, l < 8 → let t := s.setDramByte k c l q b v
      t.dramByte k c l q b = v ∧ t.clusters = s.clusters ∧ Memory.wf t.mem = true ∧
      (bad = none → (List.range 9).foldl (fun a m => a ^^^ held s m) 0 = 0 →
        (List.range 9).foldl (fun a m => a ^^^ held t m) 0 = 0) ∧
      (∀ m, m < 8 → m ≠ l → t.dramByte k c m q b = s.dramByte k c m q b) ∧
      (∀ a, a ≠ locKey k c l q b → a ≠ locKey k c 8 q b → t.raw a = s.raw a))

/-- THE DRAM WAFER'S OWN STEPS (13 R325, R327, R329 to R334; 16 R396): refresh and its period, the patrol scrub, lost banks, columns and
layers, rebuild.
Where the rules leave a point open, it states the model's reading (log 1, 6, 58 and 59). -/
def Obligations.DramSteps : Prop :=
  (∀ t, refreshPeriod t = if t ≤ 520 then 288 else if t ≤ 840 then 18 * 2 ^ ((105 - (t + 7) / 8) / 10) else 12) ∧
  ∀ (s : State) (k c l : Nat),
    let x := s.cluster k
    let b := x.bank c l
    let f := fieldOfCluster k
    (∀ forced, exec (.refreshOperation k c l forced) s = .next (s.updCluster k (fun x => x.updBank c l (fun b =>
      { b with group := (b.group + 1) % 1024, refpress := if forced then satInc b.refpress else b.refpress })))) ∧
    (∀ temp, (s.field f).slowDram = false → ∃ t, exec (.bankSensorRead k c l temp) s = .next t ∧
      t.cluster k = x.updBank c l (fun b => { b with temp := temp, period := refreshPeriod temp }) ∧
      t.field f = { s.field f with tl := SMap.put 0 (s.field f).tl l (BitVec.ofNat 12 (t.layerTemp f l)) } ∧ t.mem = s.mem) ∧
    (∀ line, exec (.patrolScrub k c l line .clean) s = .next s ∧
      exec (.patrolScrub k c l line .corrected) s =
        .next (s.updCluster k (fun x => x.updBank c l (fun b => { b with ce := satInc b.ce }))) ∧
      (let counted := s.updCluster k (fun x => x.updBank c l (fun b => { b with ue := satInc b.ue }))
       let bad (t : State) : Prop := exec (.patrolScrub k c l line .uncorrectable) s = .next t
       (x.unitAt c l (line / 64) = none → bad (counted.zeroRaw (locKey k c l (line / 64) (64 * (line % 64))) 64)) ∧
       ∀ c' l' q, x.unitAt c l (line / 64) = some (c', l', q) →
         let key := locKey k c' l' q (64 * (line % 64)) / 64
         let mark (t : State) : State := t.updCluster k (fun x => { x with linePz := addNat x.linePz key, eccPz := addNat x.eccPz key })
         (l' < 8 → bad ((mark ((List.range 64).foldl (fun t i => t.setDramByte k c' l' q (64 * (line % 64) + i) 0) counted)).reportPoison k
           ((x.paOf k c' l' q).map (· + 64 * (line % 64))) 64)) ∧
         (l' = 8 → bad (mark counted)))) ∧
    (c < 8 → l ≤ 8 →
      (∀ spare, b.st = .healthy → exec (.bankLoss k c l spare) s = .next
        (((((List.range 3968).foldl (fun s q => s.loseStripe k c l q) s).updCluster k (fun x =>
          x.updBank c l (fun b => { b with st := .degraded, spare := spare, done := 0 }))).noteBank k c l).reportState 2 f 0)) ∧
      (b.st = .rebuilding → exec (.rebuildStripe k c l) s = .next (s.rebuildOne k c l)) ∧
      (b.st = .degraded → 2 ≤ x.substitutes → exec (.rebuildStripe k c l) s = .next s) ∧
      (b.st = .degraded → x.substitutes < 2 → exec (.rebuildStripe k c l) s = .next
        (((s.updCluster k (fun x => x.updBank c l (fun b =>
          { b with st := .rebuilding, skip := x.lostBanks, done := 0 }))).reportState 2 f 1).rebuildOne k c l)) ∧
      (∃ t, exec (.columnLoss k c) s = .next t ∧ ((t.cluster k).col c).lost = true ∧ (t.cluster k).desc = x.desc ∧
        ((x.col c).lost = false → ∀ g i j, g < 496 → i < 64 → (x.descAt g).frozen = true → j < (x.descAt g).div.toNat →
          (x.descAt g).colmap.toNat / 8 ^ j % 8 = c →
          (t.cluster k).unitPz.contains (unitKey c ((64 * g + i) % 8) ((64 * g + i) / 8)) = true)) ∧
      ((x.col c).busPartner = true → (x.col (c ^^^ 1)).busOwn = true → exec (.verticalBusFailure k c true) s =
        .next (s.updCluster k (fun x =>
          (x.updCol c (fun y => { y with busOwn := false })).updCol (c ^^^ 1) (fun y => { y with busPartner := false })))) ∧
      ((x.col c).busPartner = false → (x.col (c ^^^ 1)).busOwn = true → ∃ t, exec (.verticalBusFailure k c true) s = .next t ∧
        ((t.cluster k).col c).lost = true)) ∧
    (l ≤ 8 → (∃ t, exec (.layerShutdown k l) s = .next t ∧ ((x.bank 0 l).down = true ∨ (∀ c, c < 8 → (x.bank c l).temp < 880) → t = s) ∧
        ((x.bank 0 l).down = false → (∃ c, c < 8 ∧ 880 ≤ (x.bank c l).temp) → ∀ c, c < 8 → ((t.cluster k).bank c l).down = true)) ∧
      (∃ t, exec (.layerRestart k l) s = .next t ∧ ((x.bank 0 l).down = false → t = s) ∧
        ((x.bank 0 l).down = true → ∀ c, c < 8 → ((t.cluster k).bank c l).down = false)))

/-- RETIREMENTS, THE REMAP TABLE AND MEASUREMENTS (01 R8, R21; 10 R265 to R270, R277, R278; 13 R334; 16 R400): a retired core is
entered in its field's table; a logical core moves once its old host's work is done; a scrubbed entry is repaired by majority or
its clusters are quarantined; a DETOUR is installed, with the cores retired whose traffic it cannot route (all that it serves where the
channel dependencies have a cycle), and removed; a link that has
failed three times running goes behind one; a band and an offset are measured as their formulas say.
Where the rules leave a point open, it states the model's reading (log 56, 57 and 78). -/
def Obligations.Repairs : Prop :=
  (∀ s cx cy cause, 1 ≤ cause → cause ≤ 4 → cx < 256 → cy < 256 →
    let f := fieldOfCore cx cy
    (s.deadCore cx cy = true → exec (.coreRetirement cx cy cause) s = .next s) ∧
    (∀ e, s.deadCore cx cy = false → (s.field f).freeRemap = some e → ∃ t, exec (.coreRetirement cx cy cause) s = .next t ∧
      ((t.field f).remapAt e).w1 = BitVec.ofNat 64 (cx + 256 * cy + 65536 * cause) ∧ ((t.field f).remapAt e).kind = 0 ∧
      ((t.field f).remapAt e).w0.getLsbD 2 = true ∧ ((t.field f).remapAt e).w0.getLsbD 3 = true ∧
      ((t.field f).remapAt e).installed = ((t.field f).remapAt e).words)) ∧
  (∀ (s : State) (cx cy dir : Nat),
    let link := 4 * coreInField cx cy + dir % 4
    let run := SMap.get 0 (s.field (fieldOfCore cx cy)).linkBad link
    let now := if run = 3 then 3 else if 4 ≤ dir then 1 else run + 1
    let u := s.updField (fieldOfCore cx cy) (fun f => { f with linkBad := SMap.ins f.linkBad link now })
    let r := linkTo cx cy dir
    let w := Detour.words { router := r, way := wayRound r }
    (run ≠ 2 ∨ now ≠ 3 → exec (.linkCrcFailure cx cy dir) s = .next u) ∧
    (∀ e, run = 2 → now = 3 → r.1 < 256 → r.2 < 256 → r ≠ (cx, cy) → (∀ d ∈ u.detours, d.router ≠ r) →
      (u.field (fieldOfCore r.1 r.2)).freeRemap = some e →
      exec (.linkCrcFailure cx cy dir) s = .next (u.installDetour (fieldOfCore r.1 r.2) e w.1 w.2))) ∧
  (∀ (s : State) (cx cy k : Nat),
    exec (.residueCheckFailure (.core cx cy false)) s = .next s ∧ exec (.residueCheckFailure (.engine k false)) s = .next s ∧
    exec (.residueCheckFailure (.core cx cy true)) s = exec (.coreRetirement cx cy 3) s ∧
    (k < 8192 → exec (.residueCheckFailure (.engine k true)) s = .next
      ((((s.updField (fieldOfCluster k) (fun f => { f with mex := addNat f.mex (clusterInField k) })).pitches.filter
        (fun p => p.2.placed && p.2.rect.has k)).map (·.1)).foldl State.requestPreempt
          (s.updField (fieldOfCluster k) (fun f => { f with mex := addNat f.mex (clusterInField k) }))))) ∧
  (∀ (s : State) (asid lc : Nat) (p : Pitch) (x : LCore) (h : HostRef), s.pitch? asid = some p → s.lc? asid lc = some x →
    x.rebindTo = some h → p.st = .running →
    (s.coreQuiet asid lc x = false → exec (.rebindComplete asid lc) s = .next s) ∧
    (∀ u, s.coreQuiet asid lc x = true → s.settleCopies.evictAll asid p.badPages (p.dirtyLines.filter (fun l => l.1 == lc)) = .ok u →
      exec (.rebindComplete asid lc) s = .next (u.moveCore asid lc p x h))) ∧
  (∀ (s : State) (fi e : Nat) (reads : CopyReads), e < 256 → let r := (s.field fi).remapAt e
    let x := r.reads reads
    (∀ w, copyMajority x = some w →
      let w0 := withCopies (w.getD 0 0) (copyRepaired w x.a) (copyRepaired w x.b) (copyRepaired w x.c) (r.w0.getLsbD 10)
      let new := mkRemap w0 (w.getD 1 0) (w.getD 2 0) (w.getD 3 0)
      exec (.remapScrub fi e reads) s = .next (s.setRemap fi e (if w0.getLsbD 3 then new else { new with installed := r.installed }))) ∧
    (copyMajority x = none → (∀ p ∈ s.pitches, ¬ (p.2.placed = true ∧ ∃ k ∈ p.2.rect.clusters, k ∈ r.clusters)) →
      let w0 := withCopies r.w0 x.a.state.toNat x.b.state.toNat x.c.state.toNat true
      exec (.remapScrub fi e reads) s = .next ((s.setRemap fi e
        { r with w0 := w0, copies := [x.a.words, x.b.words, x.c.words] }).quarantine r.clusters))) ∧
  (∀ (s : State) (fi e : Nat) (w : List DWord), e < 256 →
    let r := (s.field fi).remapAt e
    let w0 := w.getD 0 0
    let d := detourOf (w.getD 1 0) (w.getD 2 0)
    let ds := d :: s.detours
    let done (t : State) : Prop := exec (.remapEntryWrite fi e w) s = .next t
    let free (t : State) : Prop := ((t.field fi).remapAt e).w0.getLsbD 2 = false
    let gone (t : State) (stuck : Router → Bool) : State := (t.liveCores.filter stuck).foldl (fun t c => t.retireCore c.1 c.2 2) t
    let put (t : State) : State := (t.writeRemap fi (some e) 1 (w.getD 1 0) (w.getD 2 0) 0).staleBands fi
    (r.w0.getLsbD 10 = false → exec (.remapRebuildComplete fi e w) s = .next s) ∧
    (r.w0.getLsbD 10 = true → w0.getLsbD 2 = true → s.waiting = [] → ∃ t, exec (.remapRebuildComplete fi e w) s = .next t ∧
      (t.field fi).remapAt e = mkRemap (remapWord (w0.toNat % 4) (r.gen + 1)) (w.getD 1 0) (w.getD 2 0) (w.getD 3 0)) ∧
    (w0.getLsbD 2 = true → w0.toNat % 4 = 1 → r.w0.getLsbD 2 = false → 1 ≤ (w.getD 1 0).toNat / 65536 % 8 →
      (w.getD 1 0).toNat / 65536 % 8 ≤ 4 →
      let t := gone s (d.stuck (ds.map (·.router)) s.endpoints)
      let u := if detoursFree ds t.endpoints then t else gone t (d.hasPath t.endpoints)
      done (if free u ∧ detoursOk ds u.endpoints = true then put u else u)) ∧
    (w0.getLsbD 2 = false → r.w0.getLsbD 2 = true → r.kind = 1 →
      (s.detourIdle (detourOf r.w1 r.w2) = true →
        exec (.remapEntryWrite fi e w) s = .next ((s.setRemap fi e r.cleared).staleBands fi)) ∧
      (s.detourIdle (detourOf r.w1 r.w2) = false → exec (.remapEntryWrite fi e w) s = .next s))) ∧
  (∀ (s : State) (fi g rtt0 rtt1 : Nat), fi < 64 → g < 64 → (s.field fi).joined = true → (s.field g).joined = true →
    let band (rtt : Nat) : BitVec 4 := BitVec.ofNat 4 (min 15 ((rtt + 1) / 2 / 25))
    let new (old : Band) : Band := { band0 := band rtt0, band1 := band rtt1, valid := true, stale := false, gen := old.gen + 1 }
    exec (.bandMeasurement fi g rtt0 rtt1) s = .next (s.updField fi (fun fd =>
      { fd with band := SMap.ins fd.band g (new (SMap.get Band.init fd.band g)) }))) ∧
  (∀ (s : State) (fi g t1 t2 t3 : Nat), fi ≠ g → g < 64 → (s.field fi).joined = true → (s.field g).joined = true → t1 ≤ t3 →
    (s.field fi).time.toNat = t3 → t2 ≤ (s.field g).time.toNat →
    (s.field g).time.toNat ≤ t2 + (t3 - t1) + (t3 - t1 + 9999) / 10000 →
    let offset : Int := (t2 : Int) - ((t1 + t3) / 2 : Nat)
    let uncm := min 4095 ((t3 - t1 + 1) / 2 + 1)
    let new : Offs := { offset := BitVec.ofInt 48 offset, uncm := BitVec.ofNat 12 uncm, valid := true, tmeas := BitVec.ofNat 64 t3 }
    exec (.offsetMeasurement fi g t1 t2 t3) s = .next (s.updField fi (fun fd => { fd with offs := SMap.ins fd.offs g new })))

/-- LAUNCH QUEUES, INTAKE AND THE END OF A LAUNCH (06 R162, R166, R170, R173, R178, R179; 01 R23; 17 R406): only the function that a
page belongs to rings its doorbell; a PROD more than 2^N ahead of CONS disables the queue; an intake takes the next entry and
rejects or admits it; a pitch starts once its bindings are written and its meetings installed; it ends when every SINK has
reported and nothing is outstanding, by a cancel, or by its watchdog.
Where the rules leave a point open, it states the model's reading (log 1, 42, 43 and 55). -/
def Obligations.Launches : Prop :=
  (∀ (l : LQueue) (v : BitVec 16), (l.setProd v).prod = v ∧ (l.setProd v).cons = l.cons ∧
    (l.setProd v).en = (l.en && decide ((v - l.cons).toNat ≤ 2 ^ l.log2n.toNat))) ∧
  (∀ (s : State) (port fn q val : Nat), port < 2 → q < 16 →
    let mine : Prop := (SMap.get 0 (s.pcieBlk port).qfn q).toNat = fn
    (¬ mine → exec (.doorbell port fn q val) s = .next s) ∧
    (mine → (s.lqueue (16 * port + q)).dev = false →
      exec (.doorbell port fn q val) s = .next (s.updLQ (16 * port + q) (fun l => l.setProd (BitVec.ofNat 16 val)))) ∧
    (mine → (s.lqueue (16 * port + q)).dev = true →
      exec (.doorbell port fn q val) s = .next (s.updPcie port (fun b => { b with denied := satInc b.denied }))) ∧
    ((s.lqueue (16 * port + q)).dev = false →
      exec (.lqProdWrite port (16 * port + q) val) s =
        .next (s.updLQ (16 * port + q) (fun l => l.setProd (BitVec.ofNat 16 val))))) ∧
  (∀ (s : State) (q : Nat) (obj : Option GraphObj), s.nextQueue = some q → s.waiting.length < 256 → s.booted = true →
    (s.field s.bootField).recovery = false →
    let i := (s.lqueue q).cons.toNat
    let bs := s.bytesAt ((s.lqueue q).entry i) 256
    let l := Launch.parse bs q i s.ageCtr
    let u : State := { (s.noteRange ((s.lqueue q).entry i) 256).updLQ q (fun l => { l with cons := l.cons + 1 }) with
      lastQ := q, ageCtr := s.ageCtr + 1 }
    (s.isOwned ((s.lqueue q).entry i) 256 = true → exec (.launchIntake q obj) s = .next s) ∧
    (s.isOwned ((s.lqueue q).entry i) 256 = false → (rangeOk l.compl (fun v => u.vwritable u.bootField l.asid v 64) = false →
      exec (.launchIntake q obj) s = .next (u.launchBad q i)) ∧
     (rangeOk l.compl (fun v => u.vwritable u.bootField l.asid v 64) = true →
      (∀ e, u.intakeCheck l bs obj = .error (.inl e) → exec (.launchIntake q obj) s = .next (u.reject l e).boothScan) ∧
      (∀ d, u.intakeCheck l bs obj = .error (.inr d) → exec (.launchIntake q obj) s = .next (u.rejectWith l d).boothScan) ∧
      (∀ o, u.intakeCheck l bs obj = .ok o → exec (.launchIntake q obj) s = .next
        (State.boothScan { u with waiting := u.waiting ++ [{ launch := l, count := 0, saved := false, obj := some o }] }))))) ∧
  (∀ (s : State) (asid : Nat) (p : Pitch), s.pitch? asid = some p →
    (∀ u v, p.st = .loading → s.writeBinds asid p.launch = .ok u → u.installImages asid p.badPages p.image.meetings = .ok v →
      exec (.startTokenInjection asid) s = .next (v.startPitch asid p)) ∧
    (p.st = .running → p.sunk = true → s.jobsOut asid = false → s.writesOut asid p = false →
      exec (.pitchCompletion asid) s = .next (s.endLaunch asid (EndRec.plain 1))) ∧
    (p.sunk = false ∨ s.jobsOut asid = true ∨ s.writesOut asid p = true → exec (.pitchCompletion asid) s = .next s) ∧
    (let due : Prop := p.lastFiring + 1000 * p.launch.wdog ≤ (s.field p.homeField).time.toNat ∧ s.jobsOut asid = false ∧
        ∀ g ∈ s.flight, g.mesh = true → g.tok.asid.toNat ≠ asid
     (p.st = .running → p.launch.wdog ≠ 0 → due →
       exec (.watchdog asid) s = .next ((s.endFree .watchdog).2.endLaunch asid (s.endFree .watchdog).1) ∧
       (s.endFree .watchdog).1.status = 2 ∧ (s.endFree .watchdog).1.cause = causeWord .watchdog 0) ∧
     (p.launch.wdog = 0 ∨ ¬ due → exec (.watchdog asid) s = .next s))) ∧
  (∀ (s : State) (port queue index : Nat), queue / 16 = port ∨ s.isOwner port = true →
    let is (l : Launch) : Prop := l.queue = queue ∧ l.index = index
    (∀ w, s.waiting.find? (fun w => !w.saved && (w.launch.queue == queue && w.launch.index == index)) = some w →
      exec (.cancel port queue index) s = .next (((s.unwait w.launch.age).reject w.launch (EndRec.plain 4)).boothScan)) ∧
    ((∀ w ∈ s.waiting, w.saved = false → ¬ is w.launch) → (∀ p ∈ s.pitches, ¬ is p.2.launch) →
      exec (.cancel port queue index) s = .next s) ∧
    ((∀ w ∈ s.waiting, w.saved = false → ¬ is w.launch) → ∀ p,
      s.pitches.find? (fun p => p.2.launch.queue == queue && p.2.launch.index == index) = some p →
      exec (.cancel port queue index) s = .next (s.endLaunch p.1 (EndRec.plain 4))))

/-- PRE-EMPTION AND RESTORE (06 R167, R179 to R183): only the owner requests; a request for a halting or saved pitch is merged, one that
follows the last SINK is dropped; at the halt no run-ahead stream is issued any more and arrived tokens go to the spill
rings; the save follows once the pitch rests; a restored pitch takes its engines' state back, replays, and runs. Placement takes
the lowest row, then the lowest column.
Where the rules leave a point open, it states the model's reading (log 1, 53 and 54). -/
def Obligations.Preemption : Prop :=
  (∀ (s : State) (gone : Nat → Bool) (o : GraphObj) (ms : List Meeting) (w h : Nat) (r : Rect), w ≤ 128 → h ≤ 64 →
    s.lowestRect gone o ms w h = some r → s.rectFits gone o ms r = true ∧ r.w = w ∧ r.h = h ∧
      ∀ x y, x + w ≤ 128 → y + h ≤ 64 → s.rectFits gone o ms { r with kx0 := x, ky0 := y } = true →
        r.ky0 < y ∨ (r.ky0 = y ∧ r.kx0 ≤ x)) ∧
  (∀ (s : State) (port asid : Nat),
    (s.isOwner port = false → exec (.preempt port asid) s = .next (s.updPcie port (fun b => { b with denied := satInc b.denied }))) ∧
    (∀ p, s.isOwner port = true → s.pitch? asid = some p →
      (p.st = .halting ∨ p.st = .saved ∨ asid ∈ s.preemptReq → exec (.preempt port asid) s = .next s) ∧
      (p.st = .running → asid ∉ s.preemptReq →
        exec (.preempt port asid) s = .next { s with preemptReq := s.preemptReq ++ [asid] }))) ∧
  (∀ (s : State) (asid : Nat) (p : Pitch), s.pitch? asid = some p →
    (asid ∈ s.preemptReq → p.st = .running → (∀ e ∈ p.lcores, e.2.blocked = false) →
      (p.sunk = true → exec (.preemptionHalt asid) s = .next { s with preemptReq := s.preemptReq.filter (· ≠ asid) }) ∧
      (p.sunk = false →
        let q : Pitch := { p.mapLC (fun _ x => x.halt) with st := PState.halting }
        let ff (e : Nat × Field) : Nat × Field := (e.1, e.2.freeze s.bootTime.toNat asid)
        exec (.preemptionHalt asid) s = .next (q.lcores.foldl (fun s e => s.spillArrived asid e.1 (s.arrived asid e.1))
          (State.dropHalted { s.setPitch asid q with fields := s.fields.map ff } asid)))) ∧
    (asid ∉ s.preemptReq → exec (.preemptionHalt asid) s = .next s) ∧
    (p.st = .halting → s.atRest asid p = false → exec (.preemptionSave asid) s = .next s) ∧
    (∀ u, p.st = .halting → s.atRest asid p = true → s.settleCopies.evictAll asid p.badPages p.dirtyLines = .ok u →
      exec (.preemptionSave asid) s = .next (u.savePitch asid p)) ∧
    (∀ u, p.st = .restoring →
      let s1 := p.savedWt.foldl (fun s t => s.putTable asid t) ((s.placeMeetJobs p).setPitch asid
        { p with savedWalk := [], savedMq := [], savedMOut := [], savedWt := [] })
      s1.thawAll (s1.frozenOf asid) = .ok u →
      let back := (p.rect.clusters.zipIdx).foldl (fun s e => s.updCluster e.1 (fun old =>
        old.restore (SMap.get Cluster.init p.savedClusters e.2))) u
      let last := back.replay asid (p.lcores.map (·.1))
      exec (.pitchRestore asid) s = .next (last.updPitch asid (fun q =>
        { q with st := .running, savedClusters := [], lastFiring := (last.field q.homeField).time.toNat - q.lastFiring }))))

/-- ROUNDS (11 R286, R288, R293; 12 R308): a contribution is classified as on time, ahead, late or stale, and a duplicate or one of no
member is discarded; one for a frozen meeting is held; the terms of a result are combined in order; an expired timeout
counts misses and raises QUORUM_UNREACHABLE once; the oldest command of a unit is taken.
Where the rules leave a point open, it states the model's reading (log 1, 16, 37, 38, 39 and 40). -/
def Obligations.Rounds : Prop :=
  (∀ (s : State) (fuel fi e : Nat) (first : Bool) (c : Contrib) (m : Meeting), s.meeting? fi e = some m →
    let t := c.t % m.span
    let u := (t + m.span - m.roundMod) % m.span
    let d := (m.roundMod + m.span - t) % m.span
    let takes (r : URes State) : Prop := s.contribute (fuel + 1) fi e first c = r
    let counted : State := s.setMeeting fi e { m with dup := min 255 (m.dup + 1) }
    (m.n ≤ c.member → takes (.ok (counted.discard m first c 0x43))) ∧
    (c.member < m.n → u = 0 → (m.member c.member).on = true → takes (.ok (counted.discard m first c 0x4C))) ∧
    (c.member < m.n → u = 0 → (m.member c.member).on = false → ∀ s1, s.hold fi m first c m.round.toNat = .ok s1 →
      let m1 := m.updMember c.member (fun x => { x with on := true, miss := 0, absent := false, last := m.round.toNat })
      let m2 := { m1 with oncnt := m.oncnt + 1, onTime := m.onTime ++ [{ c with t := t, delta := 0 }] }
      ∀ s2, (s1.setMeeting fi e m2).writeMember fi m2 c.member = .ok s2 →
        (m.oncnt + 1 ≠ m.k → takes (.ok s2)) ∧
        (m.oncnt + 1 = m.k → ∀ s3 m3, s2.closeRound fi e m2 false = .ok s3 → s3.meeting? fi e = some m3 →
          (∀ a ∈ m3.ahead, a.t % m3.span ≠ m3.roundMod) → takes (.ok (s3.setMeeting fi e m3)))) ∧
    (c.member < m.n → 1 ≤ u → u ≤ m.aheadN →
      ((∃ a ∈ m.ahead, a.member = c.member ∧ a.t = t) → takes (.ok (counted.discard m first c 0x4C))) ∧
      ((∀ a ∈ m.ahead, ¬ (a.member = c.member ∧ a.t = t)) → ∀ s1, s.hold fi m first c (m.round.toNat + u) = .ok s1 →
        takes (.ok (s1.setMeeting fi e { m with ahead := m.ahead ++ [{ c with t := t }] })))) ∧
    (c.member < m.n → m.aheadN < u → d ≤ m.lag →
      ((∃ a ∈ m.late, a.member = c.member) → takes (.ok (counted.discard m first c 0x4C))) ∧
      ((∀ a ∈ m.late, a.member ≠ c.member) → ∀ s1, s.hold fi m first c (m.round.toNat + 4294967296 - d) = .ok s1 →
        takes (.ok (s1.setMeeting fi e { m with late := m.late ++ [{ c with t := t, delta := d }], latecnt := m.latecnt + 1 })))) ∧
    (c.member < m.n → m.aheadN < u → m.lag < d →
      let m1 := m.updMember c.member (fun x => { x with lag := min 65535 (x.lag + 1) })
      ∀ s1, (s.setMeeting fi e m1).writeMember fi m1 c.member = .ok s1 → takes (.ok (s1.discard m first c 0x4D)))) ∧
  (∀ (op v w x : Nat), combineElem op [] = (meetIdent op, 0) ∧ combineElem op [(none, v)] = (v, 0) ∧
    combineElem 4 [(none, v), (none, w), (none, x)] = (((v + w) % 4294967296 + x) % 4294967296, 0) ∧
    combineElem 0 [(none, v), (none, w)] = f32.add .rne v w) ∧
  (∀ (s : State) (fi k : Nat) (c : Contrib), s.contribs[k]? = some c → c.field = fi → c.job.prog = 0 →
    let rest : State := ({ s with contribs := listDrop s.contribs k } : State).moveUp c.job fi
    ((s.field fi).takes c.job.asid c.job.tagOut = none → exec (.contributionArrival fi k) s = .next (rest.endMeet c.job (some 0x42))) ∧
    (∀ e m, (s.field fi).takes c.job.asid c.job.tagOut = some (e, m) →
      (m.frozen = true → exec (.contributionArrival fi k) s = .next (rest.setMeeting fi e { m with waiting := m.waiting ++ [c] })) ∧
      (∀ t, m.frozen = false → rest.contribute (m.held.length + 2) fi e true c = .ok t →
        exec (.contributionArrival fi k) s = .next t))) ∧
  (∀ (s : State) (fi e : Nat) (m : Meeting), s.meeting? fi e = some m →
    (m.frozen = true ∨ m.timeout = 0 ∨ (s.field fi).time.toNat < m.deadline → exec (.roundTimeout fi e) s = .next s) ∧
    (m.ring = false → m.frozen = false → m.timeout ≠ 0 → m.deadline ≤ (s.field fi).time.toNat →
      let p := s.missAll m
      let few := ((List.range m.n).filter (fun i => !(p.2.member i).absent)).length < m.k ∧ m.unreach = false
      let ends (s1 : State) (unreach : Bool) : Prop := ∀ t, let m1 := s1.startTimeout fi { p.2 with unreach := unreach }
        (s1.setMeeting fi e m1).writeMembers fi m1 = .ok t → exec (.roundTimeout fi e) s = .next t
      (few → ends (p.1.quorumEvent m .quorumUnreachable m.mnum (some m.tag)) true) ∧ (¬ few → ends p.1 m.unreach))) ∧
  (∀ (s : State) (fi : Nat) (j : EJob), (s.field fi).mq.find? (fun j => s.walks j.asid) = some j →
    let home := s.homeOfJob j
    let out : State := s.updField fi (fun f => { f with mq := removeJob f.mq j, mOut := f.mOut ++ [j] })
    let sent := { j with prog := s.ahead j home }
    let becomes (t : State) : Prop := exec (.meetingCommandDequeue fi 0) s = .next t
    (j.opc = 0x307 → becomes (s.openMeeting fi j)) ∧ (j.opc = 0x30C → becomes (s.setWeights fi j)) ∧
    (home = 64 → j.opc ≠ 0x307 → j.opc ≠ 0x30C → j.opc ≠ 0x30D → becomes (out.leaveWafer fi j)) ∧
    (home = 64 → j.opc = 0x30D → becomes (s.walkOff fi j)) ∧
    (home ≠ 64 → j.opc = 0x30D → becomes (s.startWalk fi j)) ∧
    (home ≠ 64 → j.opc = 0x308 →
      let c : Contrib := { member := (j.scale.getD 0 0).toNat % 1024, t := j.tagOut.toNat % 65536, delta := 0,
                           lanes := j.fire.a.lanes, poison := j.fire.a.poison, job := sent, field := home }
      becomes { out with contribs := s.contribs ++ [c] }) ∧
    (home ≠ 64 → j.opc = 0x309 ∨ j.opc = 0x30A ∨ j.opc = 0x30B →
      (home = fi → ∀ t, s.homeCommand fi j = .ok t → becomes t) ∧ (home ≠ fi → becomes { out with mfwd := s.mfwd ++ [(home, sent)] }))) ∧
  (∀ (s : State) (fi k home : Nat) (j : EJob), s.mfwd[k]? = some (home, j) → home = fi → j.prog = 0 → s.walks j.asid = true →
    ∀ t, (({ s with mfwd := listDrop s.mfwd k } : State).moveUp j home).homeCommand fi j = .ok t →
      exec (.meetingCommandDequeue fi (k + 1)) s = .next t) ∧
  (∀ (s : State) (k fi : Nat) (r : MapReq) (p : Pitch), s.mapReqs[k]? = some (fi, r) → s.pitch? r.asid = some p →
    let send (t : State) (d : Dest) (a : Act) (rt : DWord) : State := t.deliver (.rc fi) 0 (fun _ => rt) r.fire 0x305
      { dest := d, act := a, eos := none, poison := r.fire.a.poison, lanes := s.mapLanes fi p r, tag := r.tagOut, code := 0,
        hb := t.liveHb r.fire.hb }
    exec (.mappingUnitRequest k) s = .next (send (send { s with mapReqs := listDrop s.mapReqs k } r.n.dstA r.n.actA r.rtA)
      r.n.dstB r.n.actB r.rtB))

/-- RINGS (11 R296 to R300): a chunk or a credit of an earlier epoch, or sent before a death that its receiver knows of, is
discarded, and one that is ahead of its receiver waits; a chunk is consumed in order, and a credit returns; a walker whose predecessor
is silent for the timeout sends the DEAD notices; a walker that finds itself dead completes with 0x44; a fifth death or a live
set below k stops the ring; the next epoch opens at the least completion index.
Where the rules leave a point open, it states the model's reading (log 1 and 39). -/
def Obligations.Rings : Prop :=
  (∀ (s : State) (k hf he fi wi : Nat) (x : RingMsg) (m : Meeting) (w : Walker), s.ring[k]? = some x →
    s.findMeeting x.asid x.mnum x.owner = some (hf, he, m) → s.walkerOf m x.dst = some (fi, wi, w) → w.frozen = false →
    s.walks x.asid = true → RingMsg.first s.ring k = true →
    let rest : State := { s with ring := listDrop s.ring k }
    (x.epoch < w.epoch → exec (.ringChunkArrival k) s = .next rest) ∧
    (w.epoch < x.epoch → exec (.ringChunkArrival k) s = .next s) ∧
    (x.epoch = w.epoch → w.stopped = true ∨ w.dead.length < x.dead → exec (.ringChunkArrival k) s = .next s) ∧
    (x.epoch = w.epoch → w.stopped = false → x.dead < w.dead.length → exec (.ringChunkArrival k) s = .next rest) ∧
    (x.epoch = w.epoch → w.stopped = false → x.dead = w.dead.length → ∀ t u, rest.takeChunk fi wi m w x = .ok t →
      t.ringCheck hf he = .ok u → exec (.ringChunkArrival k) s = .next u)) ∧
  (∀ (s : State) (k hf he fi wi : Nat) (x : RingCtl) (m : Meeting) (w : Walker), s.ringCredit[k]? = some x →
    s.findMeeting x.asid x.mnum x.owner = some (hf, he, m) → s.walkerOf m x.dst = some (fi, wi, w) → w.frozen = false →
    s.walks x.asid = true →
    let rest : State := { s with ringCredit := listDrop s.ringCredit k }
    (x.epoch < w.epoch ∨ (x.epoch = w.epoch ∧ x.dead < w.dead.length) → exec (.ringCreditArrival k) s = .next rest) ∧
    (w.epoch < x.epoch ∨ (x.epoch = w.epoch ∧ w.dead.length < x.dead) → exec (.ringCreditArrival k) s = .next s) ∧
    (x.epoch = w.epoch → x.dead = w.dead.length → ∀ t,
      ((rest.setWalker fi wi { w with credits := w.credits + 1 }).sendOut 8 fi wi m.n).startChunks (m.count + 1) fi wi m = .ok t →
      exec (.ringCreditArrival k) s = .next t)) ∧
  (∀ (s : State) (fi k hf he : Nat) (w : Walker) (m : Meeting), SMap.find (s.field fi).walkers k = some w →
    s.findMeeting w.asid w.mnum w.owner = some (hf, he, m) →
    let live := w.survivors m.n
    let due : Prop := w.frozen = false ∧ s.walks w.asid = true ∧ m.timeout ≠ 0 ∧ 1 < live.length ∧
      w.completed.length < m.count ∧ w.waitSince + m.timeout ≤ (s.field fi).time.toNat
    let dead := ringPrev live w.member
    let notices := ((List.range m.n).filter (· ≠ w.member)).map (fun i => w.ctl i dead)
    (¬ due → exec (.ringTimeout fi k) s = .next s) ∧
    (∀ t, due → ({ s with ringDead := s.ringDead ++ notices } : State).learnDeath fi k hf he m w dead w.epoch = .ok t →
      exec (.ringTimeout fi k) s = .next t)) ∧
  (∀ (s : State) (k hf he fi wi : Nat) (x : RingCtl) (m : Meeting) (w : Walker), s.ringDead[k]? = some x →
    s.findMeeting x.asid x.mnum x.owner = some (hf, he, m) → s.walkerOf m x.dst = some (fi, wi, w) → w.frozen = false →
    s.walks x.asid = true →
    let rest : State := { s with ringDead := listDrop s.ringDead k }
    let known : Prop := ∃ e, (x.arg, e) ∈ w.dead
    (x.arg = w.member → w.job.stopped = false → ∀ t, ((rest.endMeet w.job (some 0x44)).updField fi (fun f =>
      { f with walkers := SMap.del f.walkers wi })).ringCheck hf he = .ok t → exec (.deadNotice k) s = .next t) ∧
    (x.arg ≠ w.member → known ∨ x.epoch + 1 < w.epoch → exec (.deadNotice k) s = .next rest) ∧
    (x.arg ≠ w.member → ¬ known → w.epoch < x.epoch → exec (.deadNotice k) s = .next s) ∧
    (x.arg ≠ w.member → ¬ known → x.epoch ≤ w.epoch → w.epoch ≤ x.epoch + 1 → ∀ t,
      rest.learnDeath fi wi hf he m w x.arg x.epoch = .ok t → exec (.deadNotice k) s = .next t)) ∧
  (∀ (s : State) (k hf he fi wi : Nat) (x : RingCtl) (m : Meeting) (w : Walker), s.ringQ[k]? = some x →
    s.findMeeting x.asid x.mnum x.owner = some (hf, he, m) → s.walkerOf m x.dst = some (fi, wi, w) → w.frozen = false →
    s.walks x.asid = true →
    (∀ y ∈ s.ringDead, y.isOf m = true → y.src = x.src → y.dst = x.dst → x.epoch < y.epoch) →
    let rest : State := { s with ringQ := listDrop s.ringQ k }
    (x.epoch < w.epoch → exec (.completionIndex k) s = .next rest) ∧
    (w.epoch < x.epoch → exec (.completionIndex k) s = .next s) ∧
    (x.epoch = w.epoch → w.stopped = true → ∀ t,
      rest.openEpoch fi wi hf he m { w with qs := w.qs ++ [(x.src, x.arg)] } = .ok t → exec (.completionIndex k) s = .next t)) ∧
  (∀ (s : State) (fi wi hf he : Nat) (m : Meeting) (w : Walker) (d e : Nat),
    4 ≤ w.dead.length ∨ m.n < m.k + (w.dead.length + 1) →
      s.learnDeath fi wi hf he m w d e = .ok (s.ringStop hf he m (w.dead ++ [(d, min e w.epoch + 1)]))) ∧
  (∀ (s : State) (fi wi hf he : Nat) (m : Meeting) (w : Walker), w.stopped = true →
    let sv := w.survivors m.n
    ((∃ i ∈ sv, ∀ q, (i, q) ∉ w.qs) → s.openEpoch fi wi hf he m w = .ok (s.setWalker fi wi w)) ∧
    ((∀ i ∈ sv, ∃ q, (i, q) ∈ w.qs) →
      let b := (w.qs.filter (fun q => sv.contains q.1)).foldl (fun a q => min a q.2) m.count
      let w1 := { w with epoch := w.epoch + 1, bs := w.bs ++ [b], completed := w.completed.filter (· < b), started := b,
                         credits := 4, stopped := false, qs := [], waitSince := (s.field fi).time.toNat, out := [],
                         prevDone := w.completed, prevQs := w.qs }
      s.openEpoch fi wi hf he m w = (((s.setWalker fi wi w1).setMeeting hf he
        { m with oncnt := sv.length, latecnt := w1.epoch }).startChunks (m.count + 1) fi wi m).bind (fun t => t.ringCheck hf he)))

/-- OWNERSHIP, THE MAILBOX AND THE REPORTS (17 R405 to R412; 13 R324): a claim is accepted when no host owns the device or the owner is
lost; the owner alone releases and beats; a command of a mailbox ends with its code; a report is written while the ring has
room; a host's request that maps nothing, or names a virtual function that NumVFs does not enable, completes as Unsupported Request.
Where the rules leave a point open, it states the model's reading (log 47, 64, 65, 66, 67 and 99). -/
def Obligations.OwnersAndMailbox : Prop :=
  (∀ (s : State) (port : Nat), port < 2 →
    let lost : Prop := s.owner ≠ 0 ∧ ((s.pcieBlk (s.owner.toNat - 1)).up = false ∨ 100000 ≤ s.hbage.toNat)
    let mine : Prop := s.owner.toNat = port + 1
    (mine → exec (.ownClaim port) s = .next s) ∧
    (¬ mine → s.owner = 0 ∨ lost →
      exec (.ownClaim port) s = .next (({ s with owner := BitVec.ofNat 2 (port + 1), hbage := 0 } : State).firePf0 2)) ∧
    (¬ mine → s.owner ≠ 0 → ¬ lost → exec (.ownClaim port) s = .next (s.updPcie port (fun b => { b with claimfail := true }))) ∧
    (mine → exec (.ownRelease port) s = .next { s with owner := 0, hbage := 0 }) ∧
    (¬ mine → exec (.ownRelease port) s = .next s) ∧
    (mine → exec (.hbBeat port) s = .next { s with hbage := 0 }) ∧
    (¬ mine → exec (.hbBeat port) s = .next (s.updPcie port (fun b => { b with denied := satInc b.denied }))) ∧
    exec .ownerLost s = .next s) ∧
  (∀ (s : State) (fi : Nat), let f := s.field fi
    let ends (t : State) (code : Nat) (res : DWord) : State :=
      t.updField fi (fun g => { g with mbDone := g.mbSeq, mbCode := BitVec.ofNat 8 code, mbBusy := false, mbRes := res })
    let fails (e : Instr) (code : Nat) : Prop := exec e s = .next (ends s code f.mbRes)
    f.mbBusy = true →
    (f.mbOp = 1 → let good : Prop := f.mbArg0.toNat < 128 ∧ f.mbArg1.toNat < 496
      (good → exec (.regionRelease fi) s = .next (ends (s.updCluster (clusterAt fi f.mbArg0.toNat)
        (fun x => x.releaseRegion f.mbArg1.toNat)) 0 f.mbRes)) ∧ (¬ good → fails (.regionRelease fi) 1)) ∧
    (f.mbOp = 2 → (∀ k c l q, s.resolve f.mbArg0.toNat = .dram k c l q 0 → fieldOfCluster k = fi →
        exec (.unitClear fi) s = .next (ends (s.updCluster k (fun x =>
          { x with unitPz := x.unitPz.filter (· ≠ unitKey c l q) })) 0 f.mbRes)) ∧
      ((∀ k c l q, s.resolve f.mbArg0.toNat = .dram k c l q 0 → fieldOfCluster k ≠ fi) → fails (.unitClear fi) 1)) ∧
    (f.mbOp = 3 → let n := f.mbArg1.toNat
      let ps := (List.range n).map (fun i => (s.word64 (f.mbArg0.toNat + 8 * i)).toNat)
      let good : Prop := 0 < n ∧ n ≤ 65536 ∧ s.present f.mbArg0.toNat = true ∧
        ∀ p ∈ ps, p % 4096 = 0 ∧ p < 0x80000000000 ∧ s.present p = true
      let all := (ps.map (· / 4096)).foldl addNat f.pages
      (good → exec (.pageGrant fi) s = .next (ends (s.updField fi (fun g => { g with pages := all })) 0 (BitVec.ofNat 64 all.length))) ∧
      (¬ good → fails (.pageGrant fi) 1)) ∧
    (f.mbOp = 4 → let cx := f.mbArg0.toNat % 256
      let cy := f.mbArg0.toNat / 256 % 256
      (fieldOfCore cx cy = fi → exec (.coreRetire fi) s = .next (ends (s.retireCore cx cy 4) 0 f.mbRes)) ∧
      (fieldOfCore cx cy ≠ fi → fails (.coreRetire fi) 1)) ∧
    (f.mbOp = 5 → (fi = s.bootField → exec (.journalClear fi) s = .next (ends { s with clearPend := true } 0 f.mbRes)) ∧
      (fi ≠ s.bootField → fails (.journalClear fi) 2)) ∧
    (f.mbOp = 6 → (fi = s.bootField →
        exec (.svnCommit fi) s = .next (ends { s with svnMin := max s.svnMin f.fwrev.toNat } 0 f.mbRes)) ∧
      (fi ≠ s.bootField → fails (.svnCommit fi) 2)) ∧
    (f.mbOp = 0 ∨ 6 < f.mbOp.toNat → fails (.mailboxBadCommand fi) 1)) ∧
  (∀ (k : Cluster) (g : Nat), let r := k.releaseRegion g
    (SMap.wf Desc.init k.desc = true → (r.descAt g) = Desc.init ∧ ∀ h, h ≠ g → r.descAt h = k.descAt h) ∧
    (∀ c l u, l < 16 → u < 3968 → u / 8 = g → r.unitPz.contains (unitKey c l u) = false) ∧
    ∀ c l u, l < 16 → u < 3968 → u / 8 ≠ g → r.unitPz.contains (unitKey c l u) = k.unitPz.contains (unitKey c l u)) ∧
  (∀ (s : State) (r : Report) (rest : List Report), s.reports = r :: rest →
    let n := s.rptLog2n.toNat
    let room : Prop := s.rptEn = true ∧ 4 ≤ n ∧ n ≤ 12 ∧ (s.rptProd - s.rptCons).toNat < 2 ^ n
    let at_ := s.rptBase.toNat / 64 % 70368744177664 * 64 + 32 * (s.rptProd.toNat % 2 ^ n)
    (room → exec .reportRingWrite s = .next
      (({ s.fresh.2.writeRange 2 at_ (r.bytes (Config.freeWord s.fresh.1)) false with reports := rest, rptProd := s.rptProd + 1
        }).firePf0 1)) ∧
    (¬ room → exec .reportRingWrite s = .next s)) ∧
  (∀ (s : State) (port rate width : Nat), port < 2 → let b := s.pcieBlk port
    exec (.linkUpChange port false rate width) s = .next (s.updPcie port (fun b =>
      { b with up := false, rate := BitVec.ofNat 3 rate, width := BitVec.ofNat 4 width })) ∧
    ((s.field (3 + port)).fenced = true → exec (.linkUpChange port true rate width) s = .next s) ∧
    ((s.field (3 + port)).fenced = false →
      let again := if b.up = false ∧ s.booted = true ∧ b.retrains ≠ 0xFF then b.retrains + 1 else b.retrains
      exec (.linkUpChange port true rate width) s = .next (s.updPcie port (fun b =>
        { b with up := true, rate := BitVec.ofNat 3 rate, width := BitVec.ofNat 4 width, retrains := again })))) ∧
  (∀ (s : State) (r : HostReq), r.port < 2 → r.fn < 64 → (s.pcieBlk r.port).up = true →
    let done (ok : Bool) (data : List Byte) (t : State) : State := t.updPcie r.port (fun b => { b with cpl := some (ok, data) })
    let access (pa : Nat) : Prop := exec (.hostMemoryRequest r) s = .next (s.hostAccess r pa)
    let unsupported : Prop := exec (.hostMemoryRequest r) s = .next (done false [] s)
    ((s.pcieBlk r.port).numVfs < r.fn → unsupported) ∧ (r.fn ≤ (s.pcieBlk r.port).numVfs →
    (r.bar = 0 → r.fn = 0 → r.off < 0x4000000 → access (0x200000000000 + r.off)) ∧
    (r.bar = 0 → r.fn = 0 → 0x4000000 ≤ r.off → r.off < 0x4100000 → access (0x200040000000 + (r.off - 0x4000000))) ∧
    (r.bar = 0 → r.fn = 0 → 0x4100000 ≤ r.off → unsupported) ∧
    (r.bar = 4 → r.fn = 0 → r.off + r.len ≤ 2 ^ 45 → access r.off) ∧
    (r.bar = 4 → r.fn = 0 → 2 ^ 45 < r.off + r.len → unsupported) ∧
    (r.bar = 4 → r.fn ≠ 0 → r.off + r.len ≤ 2 ^ 36 →
      access ((SMap.get (FnEntry.init r.fn) (s.pcieBlk r.port).fn r.fn).vfbase.toNat * 2 ^ 30 + r.off)) ∧
    (r.bar = 4 → r.fn ≠ 0 → 2 ^ 36 < r.off + r.len → unsupported) ∧
    (r.bar = 2 → exec (.hostMemoryRequest r) s = .next (s.queuePage r)) ∧
    (∀ bs q, r.bar = 2 → r.data = some bs → r.off = 4096 * q → q < 16 → 2 ≤ r.len →
      (SMap.get 0 (s.pcieBlk r.port).qfn q).toNat = r.fn → exec (.hostMemoryRequest r) s =
        .next (done true [] (s.writeProd r.port (16 * r.port + q) (natOfBytes (bs.take 2))))) ∧
    (r.bar = 0 → r.fn ≠ 0 → r.data = none → r.len = 8 →
      (r.off = 0 → exec (.hostMemoryRequest r) s = .next (done true (bytesOfNat 8 s.devId.toNat) s)) ∧
      (r.off = 8 → exec (.hostMemoryRequest r) s = .next (done true
        (bytesOfNat 8 (SMap.get (FnEntry.init r.fn) (s.pcieBlk r.port).fn r.fn).word.toNat) s))) ∧
    (∀ bs, r.bar = 7 → r.fn = 0 → r.off = 16 → r.data = some bs → exec (.hostMemoryRequest r) s = .next (done true []
      (s.updPcie r.port (fun b => { b with numVfs := min 63 (natOfBytes (bs.take 2)) })))))) ∧
  (∀ (s : State) (port fn pa : Nat) (v : DWord), port < 2 →
    (fn ≠ 0 → exec (.registerWrite (.host port fn) pa v) s = .next s) ∧
    exec (.registerWrite .firmware pa v) s = .next (s.writeReg .firmware pa v) ∧
    exec (.registerWrite (.host port 0) pa v) s = .next (s.writeReg (.host port 0) pa v) ∧
    (∀ fi off, pa % 8 = 0 → s.resolve pa = .fieldBlk fi off → s.owner.toNat ≠ port + 1 →
      exec (.registerWrite (.host port 0) pa v) s = .next (s.updPcie port (fun b => { b with denied := satInc b.denied }))))

/-- BOOT, VERIFICATION, POWER AND HEAT (17 R413 to R423): a step begins as its latest record says; a boot step ends with its END
record; the first GO of recovery mode starts a verification, which takes an image only when every check passes; a field over its
threshold is lowered by 4 codes, one that is cool rises by 4 up to CLKSET, one at 105 °C with CUR 0 is held until it has stood at or
below 95 °C for 1 ms.
Where the rules leave a point open, it states the model's reading (log 60, 61, 62 and 63). -/
def Obligations.BootAndHeat : Prop :=
  (∀ (v : FirmwareCheck) (m : Nat), firmwareOk v m = true ↔ v.rsaOk = true ∧ v.slhOk = true ∧ v.keysOk = true ∧ v.arch = 1 ∧
    m ≤ v.svn ∧ v.lenOk = true) ∧
  (∀ (s : State) (rom : RomTest) (factory : FirmwareCheck),
    (s.booted = true ∨ s.booting = true ∨ (s.field 3).recovery = true ∨ (s.field 4).recovery = true →
      exec (.bootStart rom factory) s = .next s) ∧
    (s.booted = false → s.booting = false → (s.field 3).recovery = false → (s.field 4).recovery = false →
      let fw : FirmwareCheck := match s.flash with | some image => s.imageCheck image | none => factory
      let ok := (rom.ok3 || rom.ok4) && s.fwOk && firmwareOk fw s.svnMin
      let t : State := { s with bootField := if rom.ok3 then 3 else 4, journal := if s.clearPend then [] else s.journal,
                                clearPend := false, bootNum := s.bootNum + 1, booting := true, bootCur := 0, romPass := ok,
                                fwSvn := if ok then fw.svn else s.fwSvn }
      exec (.bootStart rom factory) s = .next (t.beginMandatory 0))) ∧
  (∀ (s : State) (step : Nat),
    (latestRec s.journal step = none → s.beginMandatory step = s.putStart step 0) ∧
    (∀ r, latestRec s.journal step = some r → r.start = true ∨ r.result = 1 →
      (step = 0 ∨ 3 ≤ r.variant → s.beginMandatory step = s.recover) ∧
      (step ≠ 0 → r.variant < 3 → s.beginMandatory step = s.putStart step (r.variant + 1))) ∧
    (∀ r, latestRec s.journal step = some r → r.start = false → r.result ≠ 1 → s.beginMandatory step = s.putStart step r.variant) ∧
    (∀ r, latestRec s.journal step = some r → r.start = true ∨ r.result = 1 ∨ r.result = 2 →
      s.beginJoin step = (s.putEnd step r.variant 2).fence (stepField step))) ∧
  (∀ (s : State) (step t : Nat) (r : JRec), latestRec s.journal step = some r → s.booting = true → s.stepRuns step = true →
    let v := r.variant
    let goes (e : StepResult) (u : State) : Prop := exec (.bootStep step e) s = .next (u.advanceBoot 13)
    (step = 0 → s.romPass = true → goes (.done t) (s.putEnd 0 v 0)) ∧
    (step = 0 → goes .failed (s.failMandatory 0 v)) ∧
    (step = 1 → let up (port : Nat) : Prop := (s.pcieBlk port).up = true
      let own := s.bootField - 3
      (up 0 ∨ up 1 → goes (.done t) (((s.join s.bootField v t).join (7 - s.bootField) v t).putEnd 1 v 0)) ∧
      (¬ up 0 → ¬ up 1 → goes (.done t) (s.failMandatory 1 v)) ∧
      (up own → goes (.doneOne t) (((s.join s.bootField v t).fence (7 - s.bootField)).putEnd 1 v 0)) ∧
      (¬ up own → goes (.doneOne t) (s.failMandatory 1 v)) ∧ goes .failed (s.failMandatory 1 v)) ∧
    (2 ≤ step → goes (.done t) ((s.join (stepField step) v t).putEnd step v 0) ∧
      goes .failed ((s.putEnd step v 1).fence (stepField step)) ∧
      goes .noPath ((s.putEnd step v 3).fence (stepField step)))) ∧
  (∀ (s : State) (step : Nat) (e : StepResult), s.booting = false ∨ s.stepRuns step = false → exec (.bootStep step e) s = .next s) ∧
  (∀ (s : State) (port : Nat) (j : Bool), port < 2 →
    let waits : Prop := (s.field s.bootField).recovery = true ∧ (s.pcieBlk port).wait = true
    let on (b : PcieBlk) : PcieBlk := { b with busy := true, wait := false }
    (waits → exec (.rcvcmdGo port j) s = .next { (s.updPcie 0 on).updPcie 1 on with rcvPort := port, rcvJclr := j }) ∧
    (¬ waits → exec (.rcvcmdGo port j) s = .next s)) ∧
  (∀ (s : State) (port : Nat), port ≠ s.rcvPort ∨ (s.pcieBlk port).busy = false → exec (.imageVerification port) s = .next s) ∧
  (∀ (s : State), (s.pcieBlk s.rcvPort).busy = true →
    let c := s.pushedCheck
    let taken : State := { s with fwOk := true, fwSvn := c.svn, flash := some s.pushed, journal := if s.rcvJclr then [] else s.journal }
    let on (b : PcieBlk) : PcieBlk :=
      { b with busy := false, wait := true, result := verifyResult c s.svnMin (Config.freeWord s.fresh.1) }
    exec (.imageVerification s.rcvPort) s = .next
      (if firmwareOk c s.svnMin then taken.restart true else (s.fresh.2.updPcie 0 on).updPcie 1 on)) ∧
  (∀ (c : FirmwareCheck) (m : Nat) (w : Word), c.keysOk = true → c.lenOk = true → c.arch = 1 →
    (m ≤ c.svn → c.rsaOk = false → c.slhOk = true → verifyResult c m w = 1) ∧
    (m ≤ c.svn → c.rsaOk = true → c.slhOk = false → verifyResult c m w = 2) ∧
    (m ≤ c.svn → c.rsaOk = false → c.slhOk = false → verifyResult c m w = 3) ∧
    (c.svn < m → c.rsaOk = true → c.slhOk = true → verifyResult c m w = 4)) ∧
  (∀ (s : State) (port i : Nat), port < 2 → 1 ≤ i → i ≤ 5 →
    ∃ a : SpdmAnswer, exec (.spdmRequest port i) s = .next { s with spdm := s.spdm ++ [a] } ∧ a.port = port ∧ a.index = i ∧
      a.value = s.measurement i) ∧
  (∀ (s : State) (flashing : Bool), let image := (s.pcieBlk s.rcvPort).busy
    ∃ t, exec (.powerLoss flashing) s = .next t ∧ t.svnMin = s.svnMin ∧ t.flash = s.flash ∧ t.pitches = [] ∧ t.booted = false ∧
      (flashing = false ∨ image = true → t.journal = s.journal) ∧
      (flashing = true → image = false → t.fwOk = s.fwOk ∧ t.journal = tornJournal s.journal ∧
        ∀ r, s.journal.getLast? = some r → ∃ u, t.journal = s.journal.dropLast ++ [u] ∧ u.valid = false) ∧
      (flashing = true → image = true → t.fwOk = false)) ∧
  (∀ (s : State) (fi : Nat) (power : Bool), let f := s.field fi
    (f.jHot = true ∨ f.lHot = true ∨ power = true → f.hold = true ∨ f.cur ≠ 0 ∨ f.tj.toNat < 840 →
      ∃ t, exec (.throttleStep fi power) s = .next t ∧ (t.field fi).cur = BitVec.ofNat 6 (f.cur.toNat - 4) ∧
        (t.field fi).hold = f.hold) ∧
    (f.jHot = false → f.lHot = false → power = false → f.hold = true ∨ f.cur ≠ 0 ∨ f.tj.toNat < 840 →
      ∃ t, exec (.throttleStep fi power) s = .next t ∧ (t.field fi).cur = f.cur) ∧
    (f.hold = false → f.cur = 0 → 840 ≤ f.tj.toNat → ∃ t, exec (.throttleStep fi power) s = .next t ∧ (t.field fi).hold = true) ∧
    (f.cool = true → f.hold = false → f.powerThrot = false → ∃ t, exec (.throttleRecovery fi) s = .next t ∧
      (t.field fi).cur = BitVec.ofNat 6 (min f.clkset.toNat (f.cur.toNat + 4)) ∧ (t.field fi).jthrot = false ∧
      (t.field fi).lthrot = false) ∧
    (f.cool = false ∨ f.hold = true ∨ f.powerThrot = true → exec (.throttleRecovery fi) s = .next s) ∧
    (f.hold = true → f.tj.toNat ≤ 760 → f.tjSince + 1000000 ≤ f.time.toNat →
      exec (.holdClear fi) s = .next (((s.setField fi { f with hold := false }).reportThrottle fi 95).boothScan)) ∧
    (f.hold = false ∨ 760 < f.tj.toNat ∨ f.time.toNat < f.tjSince + 1000000 → exec (.holdClear fi) s = .next s)) ∧
  (∀ (s : State) (port fi code : Nat),
    (s.isOwner port = true → 44 < code → exec (.clksetWrite port fi code) s = .next s) ∧
    (s.isOwner port = true → code ≤ 44 → ∃ t, exec (.clksetWrite port fi code) s = .next t ∧
      (t.field fi).clkset = BitVec.ofNat 6 code ∧
      (t.field fi).cur = if code < (s.field fi).cur.toNat then BitVec.ofNat 6 code else (s.field fi).cur) ∧
    (s.isOwner port = false → exec (.clksetWrite port fi code) s =
      .next (s.updPcie port (fun b => { b with denied := satInc b.denied }))))

/-- THE LANES OF A PORT (18 R425, R433 to R435): a lane tunes, trains and is ACTIVE; one that loses its ring or its line moves to the
first target, whose site is tuned to the wavelength, or is RETIRED where there is none; the peer's MOVE, MOVEACK, MOVENAK, RESTRIPE and DOWN; a DOWN port retrains every
lane that is not RETIRED.
Where the rules leave a point open, it states the model's reading (log 9, 69 and 72). -/
def Obligations.OpticalLanes : Prop :=
  (∀ (p : OptPort) (l : Nat), let wl := (p.lane l).wl.toNat
    (∀ n, p.spareSite l wl = some n → p.target l true = some (wl, n)) ∧
    ([14, 15].find? p.wlFree = none → p.target l false = none ∧ (p.spareSite l wl = none → p.target l true = none)) ∧
    (∀ w n, [14, 15].find? p.wlFree = some w → p.siteFor l w = some n →
      p.target l false = some (w, n) ∧ (p.spareSite l wl = none → p.target l true = some (w, n)))) ∧
  (∀ (s : State) (n l : Nat) (ring : Bool),
    let s1 := if ring then s.updPort n (fun p => p.updSite (p.lane l).site.toNat (fun y => { y with bad := true })) else s
    let p := s1.port n
    (p.target l ring = none → s.failLane n l ring = s1.retireLane n l) ∧
    (∀ site, p.target l ring = some ((p.lane l).wl.toNat, site) →
      s.failLane n l ring = (s1.updPort n (fun q => q.startMove l (p.lane l).wl.toNat site false)).flushPort n) ∧
    (∀ wl site, p.target l ring = some (wl, site) → wl ≠ (p.lane l).wl.toNat →
      s.failLane n l ring = (s1.updPort n (fun p => let q := p.startMove l wl site true
        { q with lcms := q.lcms ++ [Lcm.mk 1 l wl 0] })).flushPort n)) ∧
  (∀ (s : State) (n l : Nat), l < 14 → let x := (s.port n).lane l
    (∀ mon, let locks : Prop := (s.port n).lockth.toNat ≤ min 4095 mon
      let late : Prop := x.since + 50000 ≤ s.portNow n
      let tuned (site : BitVec 4) : State := s.updPort n (fun p => p.updSite site.toNat (fun y => y.read p.lockth (s.portNow n) mon))
      let done (t : State) : Prop := exec (.laneTuneDone n l mon) s = .next t
      (x.st = 1 → (locks → done ((tuned x.site).updPort n (fun p => p.updLane l (fun x => { x with st := 2 })))) ∧
        (¬ locks → late → done ((tuned x.site).failLane n l true)) ∧ (¬ locks → ¬ late → done (tuned x.site))) ∧
      (x.st = 4 → x.await = false → (locks → done ((tuned x.moveSite).land n l)) ∧ (¬ locks → done (tuned x.moveSite))) ∧
      (x.st ≠ 1 → x.st ≠ 4 ∨ x.await = true → done s)) ∧
    (x.st = 2 → exec (.laneTrainDone n l) s = .next (s.activate n l)) ∧
    (x.st ≠ 2 → exec (.laneTrainDone n l) s = .next s) ∧
    (x.st = 3 → s.berBad n l = true →
      exec (.berFault n l) s = .next ((s.updPort n (fun p => p.updLane l (fun x => { x with recent := [] }))).failLane n l false)) ∧
    (x.st ≠ 3 ∨ s.berBad n l = false → exec (.berFault n l) s = .next s) ∧
    (x.st = 4 → exec (.moveack n l) s = .next (s.updPort n (fun p => p.updLane l (fun x => { x with await := false })))) ∧
    (x.st ≠ 4 → exec (.moveack n l) s = .next s) ∧
    (x.st = 4 → x.await = true → (∀ c, (s.port n).asked ≠ some (l, c)) → exec (.movenak n l) s = .next (s.retireLane n l)) ∧
    (x.st = 4 → x.await = true → ∀ c, (s.port n).asked = some (l, c) →
      exec (.movenak n l) s = .next ((((s.updPort n (fun p => { p with asked := none })).lmResp n 5 c).updPort n (fun p =>
        ((p.letGo l).updLane l (fun x => { x with st := 3, await := false })).updSite x.site.toNat (fun y =>
          if x.moveSite = x.site then { y with code := y.codeFor x.wl.toNat } else y))).flushPort n)) ∧
    (x.st ≠ 4 ∨ x.await = false → exec (.movenak n l) s = .next s) ∧
    (∀ wl site, x.st = 3 → (s.port n).asked = none → (s.port n).wlFree wl = true ∨ x.wl.toNat = wl → (s.port n).siteFor l wl = some site →
      exec (.move n l wl) s = .next ((s.updPort n (fun p => let q := p.startMove l wl site false
        { q with lcms := q.lcms ++ [Lcm.mk 2 l wl 0] })).flushPort n)) ∧
    (∀ wl, x.st = 3 → (s.port n).asked = none → (s.port n).siteFor l wl = none ∨ (s.port n).wlFree wl = false ∧ x.wl.toNat ≠ wl →
      exec (.move n l wl) s = .next ((s.updPort n (fun p => { p with lcms := p.lcms ++ [Lcm.mk 3 l wl 0] })).retireLane n l)) ∧
    (∀ q, x.st ≠ 0 → x.st ≠ 5 →
      exec (.restripe n l q) s = .next ((s.retireLane n l).restripeOut n (BitVec.ofNat 12 q))) ∧
    (∀ q, x.st = 0 ∨ x.st = 5 → exec (.restripe n l q) s = .next (s.restripeOut n (BitVec.ofNat 12 q)))) ∧
  (∀ (s : State) (n site : Nat),
    let y := (s.port n).sitest site
    let due : Prop := y.lock = false ∧ y.lostAt + (if (s.port n).hmode then 1000 * (s.port n).holdoff.toNat else 1000) ≤ s.portNow n
    let t := s.poll n
    let at_ := (t.port n).lanesIn (fun x => x.site.toNat == site && x.st == 3)
    (¬ due → exec (.ringFault n site) s = .next s) ∧
    (due → at_ = [] → exec (.ringFault n site) s = .next t) ∧
    (∀ l r, due → at_ = l :: r → exec (.ringFault n site) s = .next (t.failLane n l true))) ∧
  (∀ (s : State) (n : Nat),
    ((s.port n).st = 0 → exec (.down n) s = .next s) ∧ ((s.port n).st ≠ 0 → exec (.down n) s = .next (s.goDown n)) ∧
    (let q := (s.goDown n).port n
     q.st = 0 ∧ q.linkDown = true ∧ q.egress = [] ∧ ∀ l, l < 14 →
       (q.lane l).buf = [] ∧ (q.lane l).joined = false ∧ (q.lane l).st = ((s.port n).lane l).st) ∧
    ((s.port n).en = false ∨ (s.port n).st ≠ 0 ∨ s.portNow n < (s.port n).downAt + 1000000 → exec (.portRetrain n) s = .next s) ∧
    ((s.port n).en = true → (s.port n).st = 0 → (s.port n).downAt + 1000000 ≤ s.portNow n → ∃ t, exec (.portRetrain n) s = .next t ∧ (t.port n).st = 1 ∧
      (t.port n).txs = 0 ∧ (t.port n).rxc = 0 ∧ ∀ l, l < 14 → (t.port n).lane l =
        if ((s.port n).lane l).st = 5 then (s.port n).lane l else { (s.port n).lane l with st := 1, rxseq := 0, since := s.portNow n }))

/-- FRAMES, RING PAGES AND LASERS (18 R427, R429 to R431, R433, R437 to R440): a token leaves by its egress entry or is dropped; an arriving
frame is held in its turn, discarded or asked for again, and an uncorrectable one is counted; the lock loop steps toward the
larger reading; the ring page is written and read as its sequence numbers say; a laser's alarm is set when a value has passed its
limit since the update before.
Where the rules leave a point open, it states the model's reading (log 1, 68, 70, 71 and 73). -/
def Obligations.OpticalLinks : Prop :=
  (∀ (s : State) (n k m : Nat) (fl : Flight), s.flight[k]? = some fl → fl.dst = .wafer m → m / 1024 % 64 = n →
    flightFirst s.flight k = true →
    let p := s.port n
    let e := (s.word64 (p.egPa * 16384 + 16 * (m % 1024))).toNat
    let rest : State := { s with flight := listDrop s.flight k }
    let good : Prop := p.egEn = true ∧ e % 2 = 1 ∧ e / 2 % 4096 = fl.tok.asid.toNat ∧ fl.tok.vc.toNat < 6 ∧ p.st = 2
    (good → exec (.portEgress n k) s = .next ((rest.updPort n (fun p => p.queue
      { fl.tok with asid := BitVec.ofNat 12 (e / 8192), dcore := BitVec.ofNat 17 (e / 33554432 % 65536) })).flushPort n)) ∧
    (¬ good → exec (.portEgress n k) s = .next (rest.dropEgress n fl))) ∧
  (∀ t : Token, t.lanes.length ≤ 44 → flitsTok (tokFlits t) = t ∧ (tokFlits t).length = flitsOf t.lanes.length) ∧
  (∀ (s : State) (n l corr : Nat), l < 14 → let x := (s.port n).lane l
    (∀ f, (s.port n).st ≠ 2 → exec (.frameReceive n l corr (some f)) s = .next (s.discardFrame n l (readFrame f))) ∧
    ((s.port n).st ≠ 2 → exec (.frameReceive n l corr none) s = .next s) ∧
    (∀ f, (s.port n).st = 2 → x.st ≠ 3 → exec (.frameReceive n l corr f) s = .next s) ∧
    ((s.port n).st = 2 → x.st = 3 → exec (.frameReceive n l corr none) s = .next (s.badFrame n l)) ∧
    (∀ f, (s.port n).st = 2 → x.st = 3 → exec (.frameReceive n l corr (some f)) s =
      .next (s.goodFrame n l corr (readFrame f))) ∧
    (∀ q : Nat, listIdx (fun (f : LinkFrame) => f.fseq == BitVec.ofNat 12 q) x.buf = none →
      exec (.nakReplay n l q) s = .next s) ∧
    (∀ (i q : Nat), listIdx (fun (f : LinkFrame) => f.fseq == BitVec.ofNat 12 q) x.buf = some i → x.st = 3 →
      exec (.nakReplay n l q) s = .next ((s.resend n l i).flushPort n))) ∧
  (∀ (s : State) (src : Writer) (n : Nat) (v : DWord),
    (s.mayManage src = true → exec (.pctlWrite src n v) s = .next (s.pctl n v)) ∧
    (∀ port fn, src = .host port fn → s.isOwner port = false →
      exec (.pctlWrite src n v) s = .next (s.updPcie port (fun b => { b with denied := satInc b.denied }))) ∧
    ((s.port n).en = false → v.getLsbD 0 = true → ∀ l, l < 14 → (((s.pctl n v).port n).lane l).st = 1 ∧
      ((s.pctl n v).port n).hmode = v.getLsbD 1) ∧
    ((s.port n).en = true → v.getLsbD 0 = false → ∀ l, l < 14 → (((s.pctl n v).port n).lane l).st = 0 ∧
      ((s.pctl n v).port n).hmode = (s.port n).hmode)) ∧
  (∀ (s : State) (n site lo mid hi temp : Nat), site < 16 → let p := s.port n
    (p.en = false → exec (.lockLoop n site lo mid hi temp) s = .next s) ∧
    (p.en = true → let c := (p.sitest site).code
      let next : BitVec 12 := if p.hmode then c else if lo < hi then (if c = 0xFFF then c else c + 1)
        else if hi < lo then (if c = 0 then c else c - 1) else c
      let reading := BitVec.ofNat 12 (min 4095 mid)
      let on := decide (p.lockth.toNat ≤ reading.toNat)
      exec (.lockLoop n site lo mid hi temp) s = .next (s.updPort n (fun p => p.updSite site (fun x =>
        { x with mon := reading, lock := on, lostAt := if x.lock && !on then s.portNow n else x.lostAt, code := next, temp := temp }))))) ∧
  (∀ (s : State) (n : Nat), let p := s.port n
    let pa := p.rpgPa * 4096
    (p.service = false → exec (.ringPagePoll n) s = .next s ∧ ∀ mon temp, exec (.ringPageSample n mon temp) s = .next s) ∧
    (p.service = true → s.isOwned pa 256 = false → ∀ mon temp,
      let q := (List.range 16).foldl (fun (p : OptPort) i => p.updSite i (fun x =>
        { x.read p.lockth (s.portNow n) (mon.getD i 0) with temp := temp.getD i x.temp })) p
      let s2 := (q.sample (s.field (portField n)).time).foldl (fun s e => s.writeRange 3 (pa + e.1) e.2 false) (s.updPort n (fun _ => q))
      exec (.ringPageSample n mon temp) s = .next (s2.writeRange 2 pa (bytesOfNat 8 ((s2.word64 pa).toNat + 1)) false)) ∧
    (p.service = true → s.isOwned pa 512 = false → p.resp = none → let c := s.word64 (pa + 0x180)
      let read := s.updPort n (fun p => { p with cseq := some c })
      (p.cseq = none ∨ p.cseq = some c → exec (.ringPagePoll n) s = .next read) ∧
      (p.cseq ≠ none → p.cseq ≠ some c →
        let dac (i : Nat) : Int := (BitVec.ofNat 32 (natOfBytes (s.bytesAt (pa + 0x100 + 4 * i) 4))).toInt
        let set := read.updPort n (fun p => (List.range 16).foldl (fun p i => p.applyDac i (dac i)) p)
        let req := natOfBytes (s.bytesAt (pa + 0x140) 4)
        (req / 2147483648 % 2 = 1 → exec (.ringPagePoll n) s = .next (set.applyLm n req c.toNat)) ∧
        (req / 2147483648 % 2 = 0 → exec (.ringPagePoll n) s =
          .next (set.writeRange 2 (pa + 0x148) (bytesOfNat 4 (256 * (c.toNat % 256))) false))))) ∧
  (∀ (p : OptPort) (i : Nat) (v : Int),
    ((p.sitest i).held = true → p.applyDac i v = p) ∧
    ((p.sitest i).held = false → let q := p.applyDac i v
      (q.sitest i).code = BitVec.ofInt 12 (max 0 (min 4095 v)) ∧ ((q.sitest i).sat = true ↔ v < 0 ∨ 4095 < v) ∧
      q.satcnt = if v < 0 ∨ 4095 < v then satInc p.satcnt else p.satcnt)) ∧
  (∀ (s : State) (m : Nat) (r : LaserReading), m < 16 → let x := SMap.get Laser.init s.lasers m
    (∀ n l, n / 4 = m → l < 14 → ((s.port n).lane l).st ≠ 3) → ∃ t, exec (.laserUpdate m r) s = .next t ∧
      let y := SMap.get Laser.init t.lasers m
      y.biasNow = BitVec.ofNat 16 r.bias ∧ y.margin = r.margin ∧ y.temp = r.temp ∧
      (y.biasAlm = true ↔ x.biasAlm = true ∨ 0 ∉ x.past ∧ x.driftmax.toNat < (BitVec.ofNat 16 r.bias - x.biasBol).toInt.natAbs) ∧
      (y.tempAlm = true ↔ x.tempAlm = true ∨ 2 ∉ x.past ∧ x.tempmax.toNat < r.temp.toNat) ∧
      (y.marginAlm = true ↔ x.marginAlm = true ∨ 1 ∉ x.past ∧ r.margin.toInt < x.marginmin.toInt) ∧
      (y.lineAlm = true ↔ x.lineAlm = true ∨ ∃ k, k < 16 ∧ 3 + k ∉ x.past ∧
        (BitVec.ofNat 16 (r.linePwr.getD k 0)).toNat < x.linemin.toNat) ∧
      ∀ a, a ∈ y.past ↔ a ∈ y.beyond)

/-- EVERY STEP KEEPS A GOOD STATE (17 R413): whatever the agenda holds, a step from a good state to a next state leaves memory in
canonical form and the boot field a host-port field. The canonical form of memory (log 3) and the boot field at reset (log 5) are
the model's choices. -/
def Obligations.StepKeepsGood : Prop := ∀ s t : State, s.good → step s = .next t → t.good

/-- DECODE AND ENCODE AGREE (02 R36 to R45): every well-formed instruction of a node record, with every operand at every value
that the encoding admits, is the instruction that its own records decode to. -/
def Obligations.RoundTrip : Prop := ∀ i : Instr, isNode i = true → WellFormed i = true → decodeList (encode i) = .ok i

/-- A STEP RUNS THE DECODED INSTRUCTION (06 R157; 01 R25; 02 R58; 10 R270; 16 R398): the issue action of a core executes the
instruction that the records at the firing's node decode to, for the oldest firing of its ready queue that no condition holds
(firings that wait for tiles keep their order), or takes the trap of the record's diagnostic; it changes nothing but the note of
who waits when every firing is held, and nothing at all while held tokens fill the core's injection queue. A device action
executes its own instruction. The passage of time adds to a field's TIME, and a reading of its sensor sets TJ, and notes TIME where
TJ falls to 95 °C or below (17 R422). An error of an SRAM of a pitch that is not saved is counted, and poisons a tile line, which
reads zero, or marks a node record (13 R334, R335). Every step then writes the images of the tables that it changed
(`State.mirror`, 13 R339). Where the rules leave a point open (that an agenda orders these actions, when an SRAM error is found, which
waiting firings keep their order, the depth of the injection queue, the sensors, where images stand), it states the model's reading
(log 1, 8, 49, 50, 60 and 95). -/
def Obligations.StepRuns : Prop :=
  (∀ (s : State) (core : Nat) (r : List Action), s.agenda = .issue core :: r →
    let s0 : State := { s with agenda := r }
    let s1 := s0.noteWaits core
    let stays (j : Nat) : Prop := behindWaiter (s1.readyQ core) j = true ∨ s1.HeldAt core j
    (s0.injectionFull core = true → step s = .next (s.mirror s0)) ∧
    (s0.injectionFull core = false →
      (∀ k f x, (s1.readyQ core)[k]? = some f → s1.mayIssue f = true → s1.lc? f.asid f.lc = some x →
        behindWaiter (s1.readyQ core) k = false → (∀ j, j < k → stays j) →
        (∀ i t, x.fetch f.node = .ok i → exec i (s1.take core k f) = .next t → t.cur = none →
          step s = .next (s.mirror t)) ∧
        (∀ d, x.fetch f.node = .error d →
          step s = .next (s.mirror ((s1.take core k f).firingTraps f
            (if f.node ∈ x.nodeUe then 0x3FF else recOpc (x.node f.node)) .illegalNode d.code)))) ∧
      ((∀ j, j < (s1.readyQ core).length → stays j) → step s = .next (s.mirror s1)))) ∧
  (∀ (x : LCore) (n : Nat), n + 2 < 4096 → let sp := opSpec (recOpc (x.node n)).toNat
    (x.nodeUe = [] → (∀ p, sp = some p → p.exts = 0 ∨ n + p.exts < x.reqNodes) →
      x.fetch n = decode (x.node n) (x.node (n + 1)) (x.node (n + 2))) ∧
    (∀ p, sp = some p → x.nodeUe = [] → p.exts ≠ 0 → x.reqNodes ≤ n + p.exts → x.fetch n = .error .ext) ∧
    (∀ p k, sp = some p → k ≤ p.exts → n + k ∈ x.nodeUe → x.fetch n = .error .uncorrectable) ∧
    (n ∈ x.nodeUe → x.fetch n = .error .uncorrectable)) ∧
  (∀ (s : State) (i : Instr) (r : List Action), s.agenda = .event i :: r → isNode i = false →
    let s0 : State := { s with agenda := r }
    (∀ t, exec i s0 = .next t → step s = .next (s.mirror t)) ∧
    (∀ e, exec i s0 = .fault e → step s = .fault e) ∧ (∀ e, exec i s0 = .refused e → step s = .refused e)) ∧
  (∀ (s : State) (n ticks : Nat) (r : List Action), s.agenda = .elapse n ticks :: r →
    ∃ t, step s = .next (s.mirror t) ∧
    (t.field n).time = (s.field n).time + BitVec.ofNat 64 ticks ∧ t.mem = s.mem ∧ t.clusters = s.clusters ∧
    ((∀ e, e ∈ s.pitches → s.busyPitch e.1 = false) → t.pitches = s.pitches) ∧ ∀ m, m ≠ n → t.field m = s.field m) ∧
  (∀ (s : State) (n v : Nat) (r : List Action), s.agenda = .junction n v :: r →
    ∃ t, step s = .next (s.mirror t) ∧
    (let falls : Prop := 760 < (s.field n).tj.toNat ∧ v % 4096 ≤ 760
     t.field n = { s.field n with tj := BitVec.ofNat 12 v, tjSince := if falls then (s.field n).time.toNat else (s.field n).tjSince }) ∧
    t.pitches = s.pitches ∧ t.mem = s.mem ∧ ∀ m, m ≠ n → t.field m = s.field m) ∧
  (∀ (s : State) (asid lc : Nat) (e : SramErr) (r : List Action) (x : LCore), s.agenda = .sram asid lc e :: r →
    s.lc? asid lc = some x → (∀ p, s.pitch? asid = some p → p.st ≠ .saved) → ∃ t, step s = .next (s.mirror t) ∧
    (e = .corrected → t.lc? asid lc = some { x with cnt := { x.cnt with sramCe := satInc x.cnt.sramCe } }) ∧
    (∀ n w, e = .tile n w → n < x.tileCount → w < 4096 →
      ∃ y, t.lc? asid lc = some y ∧ y.cnt.sramUe = satInc x.cnt.sramUe ∧ w / 8 ∈ (y.tile n).poison ∧
        (SMap.wf 0 (x.tile n).bytes = true → ∀ a, SMap.get 0 (y.tile n).bytes a =
          if a / 8 = w then 0 else SMap.get 0 (x.tile n).bytes a)) ∧
    (∀ n, e = .node n → n < 4096 →
      ∃ y, t.lc? asid lc = some y ∧ y.cnt.sramUe = satInc x.cnt.sramUe ∧ n ∈ y.nodeUe))

/-- WORDS DECODE TO THE INSTRUCTIONS THEY STAND FOR: the records of the manual's worked examples (02 R58; 05 R137; 07; 08; 09; 12;
15; 16; 19; 21 to 24), each with the fields that its line names; and an unset record is an extension record of zeros (02 R44). -/
def Obligations.WordsDecode : Prop :=
  let d (t : ETyp) (a : Ary) (g : Tgo) (m : BitVec 3) (da db : Dest) (aa ab : Act) (l : Word) : Node :=
    { typ := t, ary := a, tgo := g, mod := m, dstA := da, dstB := db, actA := aa, actB := ab, lit := l }
  (decodeList [0x40922600184000C900000007]).toOption = some (.fmul (d .f32 .const .inc 1 (.route 12) (.node 1 true) .assoc .assoc 7)) ∧
  (decodeList [0x41110A000E000000000010C0]).toOption = some (.fma (d .f32 .dyad .keep 2 (.route 7) .none .pass .pass 0x10C0)) ∧
  (decodeList [0x02C40200064004C142000602]).toOption =
    some (.call (d .n32 .mono .keep 0 (.route 3) (.node 9 true) .pass .assoc 0x42000602)) ∧
  (decodeList [0x2788010006FFFFCFFFFFFFFE]).toOption =
    some (.lit { typ := .i64, ary := .mono, tgo := .keep, mod := 0, dstA := .node 3 false, actA := .assoc, lit := 0x1FFFFFFFFFFFFE }) ∧
  (decodeList [0x80C10700204002810007E004, 0xFFC000000000000000C00000]).toOption = some (.mma
    (d .i32 .dyad .keep 1 .mx (.node 5 false) .pass .assoc 0x7E004) 0xC00000) ∧
  (decodeList [0x810103002040020100002001, 0xFFC000000000018040C00000]).toOption =
    some (.mmaj (d .i32 .dyad .keep 0 .mx (.node 4 false) .pass .assoc 0x2001) 0x18040C00000) ∧
  (decodeList [0x90100D001400000812040302]).toOption =
    some (.ld (d .f32 .mono .keep 3 (.node 10 false) .none .assoc .pass 0x12040302)) ∧
  (decodeList [0x91040E000000000000FE00FF, 0xFFC000230001007F82000000]).toOption =
    some (.strm (d .n32 .mono .keep 3 (.route 0) .none .pass .pass 0xFE00FF) 0x230001007F82000000) ∧
  (decodeList [0xFC0000000000000000000000]).toOption = none ∧
  (decodeList [0x024401000840008000000004]).toOption =
    some (.lbound (d .n32 .mono .keep 0 (.node 4 false) (.node 1 false) .pass .pass 4)) ∧
  (decodeList [0x274101002C400FC100000200]).toOption =
    some (.sel (d .i32 .dyad .keep 0 (.node 22 false) (.node 31 true) .pass .assoc 0x200)) ∧
  (decodeList [0xC20603002440030100000002]).toOption =
    some (.qcontrib (d .n32 .const .keep 0 .mt (.node 6 false) .pass .assoc 2)) ∧
  (decodeList [0xC1C403002440030100140700, 0xFFC19013FFFFFFFFFFFFFFF0, 0xFFC000000000000000000000]).toOption =
    some (.qopen (d .n32 .mono .keep 0 .mt (.node 6 false) .pass .assoc 0x140700) 0x19013FFFFFFFFFFFFFFF0 0) ∧
  (decodeList [0xD0440100090000080000002B]).toOption =
    some (.toffs (d .n32 .mono .keep 0 (.node 4 true) .none .assoc .pass 0x2B)) ∧
  (decodeList []).toOption = some (.ext 0)

/-- WHAT EVERY FIRING IS CHECKED FOR, AND ITS TAG OPERATION: an illegal field, a ^set that fits no shape of the pitch among them
in the order of the diagnostics (02 R39, R58), a kernel request that the record exceeds,
a role that may not issue the opcode (01 R15), a colour that is not allocated (09 R244) or not cached (04 R109, 09 R228), the
outcomes of the tag operation (09 R229, R231), a new colour that receives fewer lanes than asked (04 R106), and end of stream (09 R231), for every instruction
of a node record.
Where the rules leave a point open, it states the model's reading (log 15 and 35). -/
def Obligations.FiringsAndTags : Prop :=
  (∀ (i : Instr) (v : NV), view i = some v → v.opc ≠ 0x3FF → ∀ (s : State) (f : Firing) (p : Pitch) (x : LCore),
    s.cur = some f → s.pitch? f.asid = some p → s.lc? f.asid f.lc = some x →
    (∀ d, checkFields v = some d → (p.setFits v = true ∨ d.code ≤ Diag.tgo.code) →
      exec i s = .next (s.firingTraps f v.opc .illegalNode d.code)) ∧
    (p.setFits v = false → (∀ d, checkFields v = some d → Diag.tgo.code < d.code) →
      exec i s = .next (s.firingTraps f v.opc .illegalNode Diag.tgo.code)) ∧
    (checkFields v = none → p.setFits v = true →
      (∀ d, checkKernel x.reqConsts x.reqAccs x.reqRoutes v = some d →
        exec i s = .next (s.firingTraps f v.opc .illegalNode d.code)) ∧
      (checkKernel x.reqConsts x.reqAccs x.reqRoutes v = none →
        (roleOk x.role v.opc.toNat = false → exec i s = .next (s.firingTraps f v.opc .roleViolation 0)) ∧
        (roleOk x.role v.opc.toNat = true →
          (x.cached (tagColour f.tag) = none → (SMap.find p.colours (tagColour f.tag)).isSome = true → exec i s = .next s) ∧
          (SMap.find p.colours (tagColour f.tag) = none → exec i s = .next (s.firingTraps f v.opc .accessFault 0x22)) ∧
          ∀ regs, (SMap.find p.colours (tagColour f.tag)).isSome = true → x.cached (tagColour f.tag) = some regs →
            let tgo : Tgo := if eosFires v f = true ∧ v.tgo = .new then .keep else v.tgo
            let op : TagRes := s.tagOp f.asid f.lc p (f.laneMax x) regs tgo (v.bits 16 16) f.tag
            (∀ d, op = .wrap d →
              exec i s = .next (s.firingTraps f v.opc .tagWrap d)) ∧
            (op = .park → exec i s = .next (s.parkFiring f true)) ∧
            (∀ t tag, op = .ok t tag → eosFires v f = true → v.opc ≠ 0x00C →
              exec i s = .next (s.fired t v f (eosOuts v f tag))))))) ∧
  (∀ (s : State) (asid lc : Nat) (p : Pitch) (maxw : BitVec 6) (regs : ColourRegs) (setN : Nat) (tag : DWord),
    let op (t : Tgo) : TagRes := s.tagOp asid lc p maxw regs t setN tag
    let ws := p.widths regs.shape.toNat
    let vs := stackFields ws (tagStack tag)
    let ret (us : List Nat) : TagRes := .ok s (mkTag (tagColour tag) (fieldsStack ws us))
    let bad (us : List Nat) : Prop := ∃ j, j < ws.length ∧ 2 ^ ws.getD j 0 ≤ us.getD j 0
    op .keep = .ok s tag ∧
    (∀ w wr u ur, ws = w :: wr → vs = u :: ur →
      (u = 2 ^ w - 1 → op .inc = .wrap 1) ∧ (u ≠ 2 ^ w - 1 → op .inc = ret ((u + 1) :: ur)) ∧
      op .zero = ret (0 :: ur) ∧ (setN < 2 ^ w → op .set = ret (setN :: ur)) ∧ (2 ^ w ≤ setN → op .set = .wrap 4)) ∧
    (vs.getLastD 0 ≠ 0 → op .push = .wrap 2) ∧
    (vs.getLastD 0 = 0 → (bad (0 :: vs.dropLast) → op .push = .wrap 3) ∧
      (¬ bad (0 :: vs.dropLast) → op .push = ret (0 :: vs.dropLast))) ∧
    (bad (vs.drop 1 ++ [0]) → op .pop = .wrap 3) ∧ (¬ bad (vs.drop 1 ++ [0]) → op .pop = ret (vs.drop 1 ++ [0])) ∧
    (∀ a, SMap.find p.colours (tagColour tag) = some a → op .cont = .ok s (a.cont.extractLsb' 0 64)) ∧
    let given : ColourRegs := { regs with live := 0, width := if maxw.toNat < regs.width.toNat then maxw else regs.width }
    (∀ c t, s.allocColour asid lc given ((0 : BitVec 64) ++ tag) = some (c, t) →
      (regs.width.toNat ≤ maxw.toNat → op .new = .ok t (mkTag c 0)) ∧
      (maxw.toNat < regs.width.toNat →
        op .new = .ok (t.updLC asid lc (fun x => { x with clamped := true })) (mkTag c 0))) ∧
    (s.allocColour asid lc given ((0 : BitVec 64) ++ tag) = none → op .new = .park))

/-- WHAT A FIRING EMITS, AND WHAT A TRAP LEAVES: where a token goes for each destination of a record (02 R45 to R51; 05 R121;
06 R177); and the registers and record that the first trap writes, the overrun of a later one (04 R101), and the token that is
sent for it (06 R174), with the VC and TC of Table 7. OVERRUN outlasts VALID where VALID alone was cleared (log 82); route entries
are those that stood at issue (10 R260), and a token carries the stores that happen before it (log 86). -/
def Obligations.EmissionAndTraps : Prop :=
  (∀ (s : State) (route : Nat → DWord) (f : Firing) (opc : BitVec 10) (o : Out) (x : LCore) (p : Pitch),
    s.lc? f.asid f.lc = some x → s.pitch? f.asid = some p →
    let tok (core : Nat) (node : Nat) (port : Bool) (act vc : BitVec 3) (tc : BitVec 2) : Token :=
      { rsv := false, dcore := BitVec.ofNat 17 core, dnode := BitVec.ofNat 12 node, dport := port, act := act, vc := vc, tc := tc,
        mark := if o.eos.isSome then 1 else 0, eosl := o.eos.getD 0, poison := o.poison, asid := BitVec.ofNat 12 f.asid,
        tag := o.tag, lanes := o.lanes, hb := s.liveHb f.hb }
    let me : Src := .lcore f.asid f.lc
    (o.dest = .none → s.emit route f opc o = s) ∧
    (∀ n port, o.dest = .node n port → s.emit route f opc o = { s with flight := s.flight ++
      [{ src := me, dst := .lcore f.asid f.lc, tok := tok f.lc n.toNat port (actCode o.act) 0 1, ni := none, org := none,
         mesh := false }] }) ∧
    (∀ e, o.dest = .route e → let r := route e.toNat
      let core := (r.extractLsb' 0 17).toNat
      (r.getLsbD 38 = true → (65536 ≤ core ∨ core < p.n) →
        let act : BitVec 3 := if r.extractLsb' 35 3 = 6 then actCode o.act else r.extractLsb' 35 3
        let t := tok core (r.extractLsb' 17 12).toNat (r.getLsbD 29) act (r.extractLsb' 30 3) (r.extractLsb' 33 2)
        let dst : Dst := if 65536 ≤ core then .wafer (core % 65536) else .lcore f.asid core
        (s.emit route f opc o).flight = s.flight ++
          [{ src := me, dst := dst, tok := t, ni := none, org := some (f.lc, trapNode f.node f.port opc) }]) ∧
      (r.getLsbD 38 = false ∨ (core < 65536 ∧ p.n ≤ core) →
        s.emit route f opc o = s.ucDrop f.asid f.lc f.tag f.node f.port opc ∧ (s.emit route f opc o).flight = s.flight)) ∧
    (∀ n, o.dest = .acc n → o.eos = none → s.emit route f opc o = s.updLC f.asid f.lc (fun x => x.updAcc n.toNat (fun a =>
      { a with val := (o.lanes.zipIdx).foldl (fun m e => SMap.ins m e.2 e.1) a.val }))) ∧
    (o.dest = .event → o.eos = none → s.emit route f opc o = s.raiseEvent f.asid f.lc
      { cause := .event, detail := o.code, tag := f.tag, node := f.node, port := f.port, opc := opc, a := none, b := none,
        pay := o.lanes.take 8 }) ∧
    (o.dest = .trap → let u := s.emit route f opc o
      let t : TrapInfo := { cause := .trap, detail := o.code, tag := f.tag, node := f.node, port := f.port, opc := opc,
                            a := some f.a, b := f.b, hb := s.liveHb f.hb }
      let handler : Bool := match p.trap with | some h => decide (h ≠ (f.lc, f.node)) | none => false
      let token : TrapTok :=
        { asid := f.asid, lc := f.lc, vc := 7, tc := 0, handler := handler, cause := .trap, detail := BitVec.ofNat 16 o.code,
          node := f.node, port := f.port, opc := opc, tag := f.tag, lanes := o.lanes,
          hb := (s.recordTrap f.asid f.lc t).liveHb t.hb }
      u.lc? f.asid f.lc = (s.recordTrap f.asid f.lc t).lc? f.asid f.lc ∧ u.flight = s.flight ∧ u.traps = s.traps ++ [token])) ∧
  (∀ (s : State) (asid lc : Nat) (t : TrapInfo) (x : LCore) (p : Pitch), s.lc? asid lc = some x → s.pitch? asid = some p →
    let u := s.takeTrap asid lc t
    let handler : Bool := match p.trap with | some h => !t.cause.toRegion && decide (h ≠ (lc, t.node)) | none => false
    let held : Bool := !x.trap.valid && t.cause != .pageFault
    let lanes : List Word :=
      [BitVec.ofNat 16 t.detail ++ (t.cause.code.setWidth 16), trapNode t.node t.port t.opc, t.tag.extractLsb' 0 32,
       t.tag.extractLsb' 32 32, BitVec.ofNat 32 (lc % 131072),
       BitVec.ofNat 32 (t.a.elim 0 (·.lanes.length) + 64 * t.b.elim 0 (·.lanes.length) + 4096 * held.toNat)]
    let token : TrapTok :=
      { asid := asid, lc := lc, vc := 7, tc := 0, handler := handler, cause := t.cause, detail := BitVec.ofNat 16 t.detail,
        node := t.node, port := t.port, opc := t.opc, tag := t.tag, lanes := lanes,
        hb := (if t.cause = .pageFault then s else s.recordTrap asid lc t).liveHb t.hb }
    u.traps = s.traps ++ [token] ∧
    (t.cause = .pageFault → u.lc? asid lc = some x) ∧
    let regs : TrapRegs :=
      { cause := t.cause.code, valid := true, overrun := x.trap.overrun, detail := BitVec.ofNat 16 t.detail, tag := t.tag,
        node := BitVec.ofNat 12 t.node, port := t.port, opc := t.opc }
    (t.cause ≠ .pageFault → x.trap.valid = false →
      u.lc? asid lc = some { x with trap := regs, trapRec := { a := t.a, b := t.b } }) ∧
    (t.cause ≠ .pageFault → x.trap.valid = true → u.lc? asid lc = some { x with trap := { x.trap with overrun := true } }) ∧
    u.mem = s.mem ∧ u.clusters = s.clusters ∧ u.fields = s.fields ∧ u.flight = s.flight)

/-- THE FRAME OF EVERY INSTRUCTION OF A NODE RECORD (01 R14): when its firing gives a next state, every other pitch is as it was
(an event ring that lies in a tile window which a swap or a rebind has opened, 13 R337, may write that window), and the device's
launch, boot, port and owner state; memory is as it was but for the events of a launch with an event ring (06 R172): a record's
stores are made by the wave buffer's own steps. And what a firing's tokens and its end leave alone: every byte of memory outside the
slots that its events take, each at the state in which its token goes, and the leaves of their pages, whose A and D are set (13
R346); every other logical core, and of its own core all but the counters, the trap registers and record, the order of the colour
cache, and the accumulators. -/
def Obligations.NodeFrame : Prop :=
  (∀ (i : Instr) (s t : State) (f : Firing), isNode i = true → s.cur = some f → exec i s = .next t →
    (∀ a, a ≠ f.asid → (∀ l, s.windowShut f.asid a l) → t.pitch? a = s.pitch? a) ∧
    t.lq = s.lq ∧ t.waiting = s.waiting ∧ t.owner = s.owner ∧ t.bootField = s.bootField ∧ t.journal = s.journal ∧
    t.ports = s.ports ∧ t.lasers = s.lasers ∧ t.ring = s.ring ∧ t.contribs = s.contribs ∧ t.agenda = s.agenda ∧
    ((∀ p, s.pitch? f.asid = some p → p.ringless) → t.mem = s.mem) ∧
    (t.mem = s.mem ∨ ∃ v u outs, view i = some v ∧ t = s.fired u v f outs ∧ u.mem = s.mem ∧ u.fields = s.fields ∧
      ∀ p, s.pitch? f.asid = some p → ∃ q, u.pitch? f.asid = some q ∧ q.launch = p.launch ∧ q.evWritten = p.evWritten)) ∧
  (∀ (s t : State) (v : NV) (f : Firing) (outs : List Out) (x : LCore), t.lc? f.asid f.lc = some x →
    let u := s.fired t v f outs
    let before (j : Nat) : State := t.emitAll (s.routesOf f.asid f.lc) f v.opc (outs.take j)
    (∀ loc, (∀ j, j < outs.length → loc ∉ (before j).eventPlaces f.asid f.lc) → u.raw loc = t.raw loc) ∧
    (t.windowShut f.asid f.asid f.lc →
      ∃ y, u.lc? f.asid f.lc = some y ∧ x.likeOf y ∧ ((∀ o, o ∈ outs → ∀ n, o.dest ≠ .acc n) → y.accs = x.accs)) ∧
    (∀ a l, (a, l) ≠ (f.asid, f.lc) → t.windowShut f.asid a l → u.lc? a l = t.lc? a l) ∧
    u.ready = t.ready ∧ u.held = t.held ∧ u.cur = none ∧ u.reqs = t.reqs ∧ u.cmds = t.cmds)
end

