-- ==== Sys2Proof/Laws/Fire.lean ====
section
/-! SUPPORT. What a firing at issue comes to. -/
namespace Sys2Proof.Machine
open Sys2Proof

/-- A firing that nothing stops runs its own operation on its context. -/
theorem fire_issues {v : NV} {s : State} {f : Firing} {p : Pitch} {x : LCore} {regs : ColourRegs} {t : State} {tag : DWord}
    (h : Issues v s f p x regs t tag) (body : Ctx → FireRes) :
    fire v s body = .next (s.finish f v.opc (body (issueCtx v f p x regs t tag))) := by
  have d : p.fieldDiag v = none := by simp [Pitch.fieldDiag, h.fields, h.setFits]
  simp [fire, State.fireRes, h.cur, h.pitch, h.lcore, d, h.kernel, h.role, h.live, h.cached, h.noEos, h.tagop, issueCtx]

/-- An operation that is done emits its tokens and ends the firing. -/
theorem fire_done {v : NV} {s : State} {f : Firing} {p : Pitch} {x : LCore} {regs : ColourRegs} {t : State} {tag : DWord}
    (h : Issues v s f p x regs t tag) (body : Ctx → FireRes) {u : State} {outs : List Out}
    (b : body (issueCtx v f p x regs t tag) = .done u outs) : fire v s body = .next (s.fired u v f outs) := by
  rw [fire_issues h, b]; rfl

/-- An operation that traps leaves the state before it, and takes the trap. -/
theorem fire_trap {v : NV} {s : State} {f : Firing} {p : Pitch} {x : LCore} {regs : ColourRegs} {t : State} {tag : DWord}
    (h : Issues v s f p x regs t tag) (body : Ctx → FireRes) {cause : Cause} {detail : Nat}
    (b : body (issueCtx v f p x regs t tag) = .trap cause detail) :
    fire v s body = .next (s.firingTraps f v.opc cause detail) := by
  rw [fire_issues h, b]; rfl

end Sys2Proof.Machine
end

