-- ==== Sys2Proof/Laws/SMap.lean ====
section
/-! SUPPORT. Laws of sparse maps: reading after writing, and the canonical form that every operation keeps. -/
namespace Sys2Proof.Machine
variable {α : Type}

@[simp] theorem SMap.get_ins_self (d : α) (m : SMap α) (k : Nat) (v : α) : SMap.get d (SMap.ins m k v) k = v := by
  induction m with
  | nil => simp [SMap.ins, SMap.get]
  | cons e r ih => obtain ⟨a, w⟩ := e; simp only [SMap.ins]; grind [SMap.get]

theorem SMap.get_ins_ne (d : α) (m : SMap α) (k j : Nat) (v : α) (h : j ≠ k) :
    SMap.get d (SMap.ins m k v) j = SMap.get d m j := by
  induction m with
  | nil => grind [SMap.ins, SMap.get]
  | cons e r ih => obtain ⟨a, w⟩ := e; simp only [SMap.ins]; grind [SMap.get]

@[simp] theorem SMap.find_ins_self (m : SMap α) (k : Nat) (v : α) : SMap.find (SMap.ins m k v) k = some v := by
  induction m with
  | nil => simp [SMap.ins, SMap.find]
  | cons e r ih => obtain ⟨a, w⟩ := e; simp only [SMap.ins]; grind [SMap.find]

theorem SMap.find_ins_ne (m : SMap α) (k j : Nat) (v : α) (h : j ≠ k) : SMap.find (SMap.ins m k v) j = SMap.find m j := by
  induction m with
  | nil => grind [SMap.ins, SMap.find]
  | cons e r ih => obtain ⟨a, w⟩ := e; simp only [SMap.ins]; grind [SMap.find]

theorem SMap.above_ins (m : SMap α) (b k : Nat) (v : α) (h : b < k) (hm : SMap.above b m = true) :
    SMap.above b (SMap.ins m k v) = true := by
  induction m generalizing b with
  | nil => simp [SMap.ins, SMap.above, h]
  | cons e r ih => obtain ⟨a, w⟩ := e; simp only [SMap.ins]; grind [SMap.above]

theorem SMap.above_mono (m : SMap α) (b c : Nat) (h : b ≤ c) (hm : SMap.above c m = true) : SMap.above b m = true := by
  cases m with
  | nil => rfl
  | cons e r => obtain ⟨a, w⟩ := e; simp only [SMap.above, Bool.and_eq_true, decide_eq_true_eq] at *; exact ⟨by omega, hm.2⟩

theorem SMap.above_del (m : SMap α) (b k : Nat) (hm : SMap.above b m = true) : SMap.above b (SMap.del m k) = true := by
  induction m generalizing b with
  | nil => rfl
  | cons e r ih =>
    obtain ⟨a, w⟩ := e
    simp only [SMap.above, Bool.and_eq_true, decide_eq_true_eq] at hm
    simp only [SMap.del]
    split
    · exact SMap.above_mono r b a (by omega) hm.2
    · simp only [SMap.above, Bool.and_eq_true, decide_eq_true_eq]; exact ⟨hm.1, ih a hm.2⟩

theorem SMap.above_filter (m : SMap α) (b : Nat) (p : Nat × α → Bool) (hm : SMap.above b m = true) :
    SMap.above b (m.filter p) = true := by
  induction m generalizing b with
  | nil => rfl
  | cons e r ih =>
    obtain ⟨a, w⟩ := e
    simp only [SMap.above, Bool.and_eq_true, decide_eq_true_eq] at hm
    simp only [List.filter]
    split
    · simp only [SMap.above, Bool.and_eq_true, decide_eq_true_eq]; exact ⟨hm.1, ih a hm.2⟩
    · exact SMap.above_mono _ b a (by omega) (ih a hm.2)

theorem SMap.rising_tail (e : Nat × α) (r : SMap α) (h : SMap.rising (e :: r) = true) : SMap.rising r = true := by
  obtain ⟨a, w⟩ := e
  cases r with
  | nil => rfl
  | cons y t => obtain ⟨b, u⟩ := y; simp only [SMap.rising, SMap.above, Bool.and_eq_true] at *; exact h.2

theorem SMap.rising_del (m : SMap α) (k : Nat) (h : SMap.rising m = true) : SMap.rising (SMap.del m k) = true := by
  cases m with
  | nil => rfl
  | cons x r =>
    obtain ⟨a, w⟩ := x
    simp only [SMap.del]
    split
    · exact SMap.rising_tail _ _ h
    · exact SMap.above_del r a k h

theorem SMap.rising_ins (m : SMap α) (k : Nat) (v : α) (h : SMap.rising m = true) : SMap.rising (SMap.ins m k v) = true := by
  cases m with
  | nil => rfl
  | cons x r =>
    obtain ⟨a, w⟩ := x
    simp only [SMap.ins]
    split
    · simp only [SMap.rising, SMap.above, Bool.and_eq_true, decide_eq_true_eq]; exact ⟨by assumption, h⟩
    · split
      · rename_i g; subst g; exact h
      · exact SMap.above_ins r a k v (by omega) h

theorem SMap.rising_filter (m : SMap α) (p : Nat × α → Bool) (h : SMap.rising m = true) : SMap.rising (m.filter p) = true := by
  induction m with
  | nil => rfl
  | cons x r ih =>
    obtain ⟨a, w⟩ := x
    simp only [List.filter]
    split
    · exact SMap.above_filter r a p h
    · exact ih (SMap.rising_tail _ _ h)

theorem SMap.get_below (v : α) (m : SMap α) (b : Nat) (h : SMap.above b m = true) (j : Nat) (hj : j ≤ b) :
    SMap.get v m j = v := by
  induction m generalizing b with
  | nil => rfl
  | cons e r ih =>
    obtain ⟨a, w⟩ := e
    simp only [SMap.above, Bool.and_eq_true, decide_eq_true_eq] at h
    simp only [SMap.get]
    rw [if_neg (by omega)]
    exact ih a h.2 (by omega)

theorem SMap.get_del_self (v : α) (m : SMap α) (k : Nat) (h : SMap.rising m = true) : SMap.get v (SMap.del m k) k = v := by
  induction m with
  | nil => rfl
  | cons e r ih =>
    obtain ⟨a, w⟩ := e
    simp only [SMap.del]
    split
    · rename_i ha; subst ha; exact SMap.get_below v r a h a (Nat.le_refl _)
    · rename_i ha
      simp only [SMap.get]
      rw [if_neg ha]
      exact ih (SMap.rising_tail _ _ h)

theorem SMap.get_del_ne (d : α) (m : SMap α) (k j : Nat) (h : j ≠ k) : SMap.get d (SMap.del m k) j = SMap.get d m j := by
  induction m with
  | nil => rfl
  | cons e r ih => obtain ⟨a, w⟩ := e; simp only [SMap.del]; grind [SMap.get]

theorem SMap.mem_ins (m : SMap α) (k : Nat) (v : α) (e : Nat × α) (h : e ∈ SMap.ins m k v) : e = (k, v) ∨ e ∈ m := by
  induction m with
  | nil => simpa [SMap.ins] using h
  | cons x r ih => obtain ⟨a, w⟩ := x; simp only [SMap.ins] at h; grind

theorem SMap.mem_del (m : SMap α) (k : Nat) (e : Nat × α) (h : e ∈ SMap.del m k) : e ∈ m := by
  induction m with
  | nil => simpa [SMap.del] using h
  | cons x r ih => obtain ⟨a, w⟩ := x; simp only [SMap.del] at h; grind

variable [DecidableEq α]

/-- Writing keeps the canonical form. -/
theorem SMap.wf_put (d : α) (m : SMap α) (k : Nat) (v : α) (h : SMap.wf d m = true) : SMap.wf d (SMap.put d m k v) = true := by
  simp only [SMap.wf, Bool.and_eq_true, List.all_eq_true, decide_eq_true_eq] at *
  unfold SMap.put
  split
  · exact ⟨SMap.rising_del m k h.1, fun e he => h.2 e (SMap.mem_del m k e he)⟩
  · rename_i hv
    exact ⟨SMap.rising_ins m k v h.1, fun e he => (SMap.mem_ins m k v e he).elim (fun g => by subst g; exact hv) (h.2 e)⟩

/-- Removing entries keeps the canonical form. -/
theorem SMap.wf_filter (d : α) (m : SMap α) (p : Nat × α → Bool) (h : SMap.wf d m = true) : SMap.wf d (m.filter p) = true := by
  simp only [SMap.wf, Bool.and_eq_true, List.all_eq_true, decide_eq_true_eq] at *
  exact ⟨SMap.rising_filter m p h.1, fun e he => h.2 e (List.mem_filter.mp he).1⟩

/-- Reading after writing in a map in canonical form. -/
theorem SMap.get_put_self (d : α) (m : SMap α) (k : Nat) (v : α) (h : SMap.wf d m = true) :
    SMap.get d (SMap.put d m k v) k = v := by
  simp only [SMap.wf, Bool.and_eq_true] at h
  unfold SMap.put
  split
  · rename_i hv; subst hv; exact SMap.get_del_self v m k h.1
  · exact SMap.get_ins_self d m k v

/-- Writing leaves every other key alone. -/
theorem SMap.get_put_ne (d : α) (m : SMap α) (k j : Nat) (v : α) (h : j ≠ k) :
    SMap.get d (SMap.put d m k v) j = SMap.get d m j := by
  unfold SMap.put
  split
  · exact SMap.get_del_ne d m k j h
  · exact SMap.get_ins_ne d m k j v h

end Sys2Proof.Machine
end

