-- ==== Sys2Proof/Laws/Keeps.lean ====
section
/-! SUPPORT. What every operation keeps: the boot field, and the canonical form of memory. -/
namespace Sys2Proof.Machine

/-- A state keeps another's host-port boot field, and the canonical form of its memory. -/
def State.Keeps (s t : State) : Prop :=
  (hostField s.bootField = true → hostField t.bootField = true) ∧ (Memory.wf s.mem = true → Memory.wf t.mem = true)

theorem State.Keeps.refl (s : State) : State.Keeps s s := ⟨id, id⟩

theorem State.Keeps.trans {s t u : State} (h : State.Keeps s t) (g : State.Keeps t u) : State.Keeps s u :=
  ⟨fun w => g.1 (h.1 w), fun w => g.2 (h.2 w)⟩

/-- A state that changes neither memory nor the boot field. -/
theorem State.Keeps.same {s t : State} (hb : t.bootField = s.bootField) (hm : t.mem = s.mem) : State.Keeps s t :=
  ⟨fun w => by rw [hb]; exact w, fun w => by rw [hm]; exact w⟩

theorem State.Keeps.foldl {α : Type} (g : State → α → State) (hg : ∀ s a, State.Keeps s (g s a)) (l : List α) (s : State) :
    State.Keeps s (l.foldl g s) := by
  induction l generalizing s with
  | nil => exact .refl s
  | cons a r ih => exact (hg s a).trans (ih (g s a))

/-- A good state stays good. -/
theorem State.Keeps.good {s t : State} (h : State.Keeps s t) (hs : s.good) : t.good :=
  ⟨h.2 hs.1, h.1 hs.2⟩

/-- What a firing's outcome keeps. -/
def FireRes.Keeps (s : State) : FireRes → Prop
  | .done t _ => State.Keeps s t
  | .trap _ _ => True
  | .trapWith t _ _ => State.Keeps s t
  | .hold => True
  | .park _ => True

/-- What an arrival keeps. -/
def Arrive.Keeps (s : State) : Arrive → Prop
  | .done t => State.Keeps s t
  | .wait => True
  | .full _ => True

theorem FireRes.Keeps.trans {s t : State} {r : FireRes} (h : State.Keeps s t) (g : FireRes.Keeps t r) : FireRes.Keeps s r := by
  cases r <;> first | trivial | exact State.Keeps.trans h g

theorem Arrive.Keeps.trans {s t : State} {r : Arrive} (h : State.Keeps s t) (g : Arrive.Keeps t r) : Arrive.Keeps s r := by
  cases r <;> first | trivial | exact State.Keeps.trans h g

/-- What an outcome keeps. -/
def Outcome.Keeps (s : State) (o : Host.Outcome State Fault Refusal) : Prop := ∀ t, o = .next t → State.Keeps s t

theorem Outcome.Keeps.trans {s t : State} {o : Host.Outcome State Fault Refusal} (h : State.Keeps s t) (g : Outcome.Keeps t o) :
    Outcome.Keeps s o := fun u hu => h.trans (g u hu)

theorem Outcome.Keeps.next {s t : State} (h : State.Keeps s t) : Outcome.Keeps s (.next t) := fun u hu => by
  cases hu; exact h

end Sys2Proof.Machine
end

