-- ==== Sys2Proof/Laws/KeepsAccess.lean ====
section
/-! SUPPORT. What these operations keep of a state (`State.Keeps`): memory access, translation, matching and firing. -/
namespace Sys2Proof.Machine
open Sys2Proof
set_option Elab.async false

theorem State.setPitch_keeps (s : State) (asid : Nat) (p : Pitch) :
    State.Keeps s (State.setPitch s asid p) := by
  unfold State.setPitch; grind -ring -linarith -lia [State.Keeps]

theorem State.updPitch_keeps (s : State) (asid : Nat) (f : Pitch → Pitch) :
    State.Keeps s (State.updPitch s asid f) := by
  unfold State.updPitch; grind -ring -linarith -lia [State.Keeps, State.setPitch_keeps]

theorem State.updLC_keeps (s : State) (asid lc : Nat) (f : LCore → LCore) :
    State.Keeps s (State.updLC s asid lc f) := by
  unfold State.updLC; grind -ring -linarith -lia [State.Keeps, State.setPitch_keeps]

theorem State.setCluster_keeps (s : State) (k : Nat) (c : Cluster) :
    State.Keeps s (State.setCluster s k c) := by
  unfold State.setCluster; grind -ring -linarith -lia [State.Keeps]

theorem State.updCluster_keeps (s : State) (k : Nat) (f : Cluster → Cluster) :
    State.Keeps s (State.updCluster s k f) := by
  unfold State.updCluster; grind -ring -linarith -lia [State.Keeps, State.setCluster_keeps]

theorem State.setField_keeps (s : State) (i : Nat) (f : Field) :
    State.Keeps s (State.setField s i f) := by
  unfold State.setField; grind -ring -linarith -lia [State.Keeps]

theorem State.updField_keeps (s : State) (i : Nat) (g : Field → Field) :
    State.Keeps s (State.updField s i g) := by
  unfold State.updField; grind -ring -linarith -lia [State.Keeps, State.setField_keeps]

theorem State.setReady_keeps (s : State) (core : Nat) (q : List Firing) :
    State.Keeps s (State.setReady s core q) := by
  unfold State.setReady; grind -ring -linarith -lia [State.Keeps]

theorem State.updPort_keeps (s : State) (n : Nat) (f : OptPort → OptPort) :
    State.Keeps s (State.updPort s n f) := by
  unfold State.updPort; grind -ring -linarith -lia [State.Keeps]

theorem State.updPcie_keeps (s : State) (p : Nat) (f : PcieBlk → PcieBlk) :
    State.Keeps s (State.updPcie s p f) := by
  unfold State.updPcie; grind -ring -linarith -lia [State.Keeps]

theorem State.updLQ_keeps (s : State) (q : Nat) (f : LQueue → LQueue) :
    State.Keeps s (State.updLQ s q f) := by
  unfold State.updLQ; grind -ring -linarith -lia [State.Keeps]

theorem State.fresh_keeps (s : State) :
    State.Keeps s (State.fresh s).2 := by
  unfold State.fresh; grind -ring -linarith -lia [State.Keeps]

theorem State.assign_keeps (s : State) (pa : Nat) :
    State.Keeps s (State.assign s pa) := by
  unfold State.assign; grind -ring -linarith -lia [State.Keeps, State.updCluster_keeps]

theorem State.setRaw_keeps (s : State) (loc : Nat) (v : Byte) :
    State.Keeps s (State.setRaw s loc v) := by
  exact ⟨id, fun h => SMap.wf_put 0 s.mem loc v h⟩

theorem State.setDramByte_keeps (s : State) (k c l q b : Nat) (v : Byte) :
    State.Keeps s (State.setDramByte s k c l q b v) := by
  unfold State.setDramByte; grind -ring -linarith -lia [State.Keeps, State.setRaw_keeps]

theorem State.countDegraded_keeps (s : State) (k c l q : Nat) :
    State.Keeps s (State.countDegraded s k c l q) := by
  unfold State.countDegraded; grind -ring -linarith -lia [State.Keeps, State.updCluster_keeps]

theorem State.writeTile_keeps (s : State) (core off : Nat) (v : Byte) :
    State.Keeps s (State.writeTile s core off v) := by
  unfold State.writeTile; grind -ring -linarith -lia [State.Keeps, State.updLC_keeps]

theorem State.setByte_keeps (s : State) (pa : Nat) (v : Byte) :
    State.Keeps s (State.setByte s pa v) := by
  unfold State.setByte; grind -ring -linarith -lia [State.Keeps, State.setDramByte_keeps, State.setRaw_keeps, State.writeTile_keeps]

theorem State.setBytes_keeps (s : State) (pa : Nat) (vs : List Byte) :
    State.Keeps s (State.setBytes s pa vs) := by
  fun_induction State.setBytes s pa vs <;> grind -ring -linarith -lia [State.Keeps, State.setByte_keeps]

theorem State.pushReport_keeps (s : State) (kind field detail pa len : Nat) :
    State.Keeps s (State.pushReport s kind field detail pa len) := by
  unfold State.pushReport; grind -ring -linarith -lia [State.Keeps]

theorem State.reportPoison_keeps (s : State) (k : Nat) (pa : Option Nat) (len : Nat) :
    State.Keeps s (State.reportPoison s k pa len) := by
  unfold State.reportPoison; grind -ring -linarith -lia [State.Keeps, State.fresh_keeps, State.pushReport_keeps]

theorem State.markLine_keeps (s : State) (pa : Nat) (poison clean : Bool) :
    State.Keeps s (State.markLine s pa poison clean) := by
  unfold State.markLine; grind -ring -linarith -lia [State.Keeps, State.reportPoison_keeps, State.updCluster_keeps, State.updLC_keeps]

theorem State.noteAccess_keeps (s : State) (pa : Nat) :
    State.Keeps s (State.noteAccess s pa) := by
  unfold State.noteAccess; grind -ring -linarith -lia [State.Keeps, State.countDegraded_keeps]

theorem State.writeLine_keeps (s : State) (pa : Nat) (vs : List Byte) (poison : Bool) :
    State.Keeps s (State.writeLine s pa vs poison) := by
  unfold State.writeLine; grind -ring -linarith -lia [State.Keeps, State.assign_keeps, State.markLine_keeps, State.noteAccess_keeps, State.setBytes_keeps]

theorem State.readNote_keeps (s : State) (pa : Nat) :
    State.Keeps s (State.readNote s pa) := by
  unfold State.readNote; grind -ring -linarith -lia [State.Keeps, State.assign_keeps, State.noteAccess_keeps]

theorem State.noteRange_keeps (s : State) (pa n : Nat) :
    State.Keeps s (State.noteRange s pa n) := by
  unfold State.noteRange
  repeat' first
    | split
    | dsimp only
    | unfold Option.getD
    | grind -ring -linarith -lia [State.Keeps, State.readNote_keeps]
    | refine State.Keeps.trans ?_ (State.readNote_keeps ..)
    | (refine State.Keeps.trans ?_ (State.Keeps.foldl _ (fun s a => ?_) _ _) <;> try dsimp only)

theorem State.writeRange_keeps (s : State) (fuel pa : Nat) (vs : List Byte) (poison : Bool) :
    State.Keeps s (State.writeRange s fuel pa vs poison) := by
  fun_induction State.writeRange s fuel pa vs poison <;> grind -ring -linarith -lia [State.Keeps, State.writeLine_keeps]

theorem State.walkNote_keeps (s : State) (fi asid vpn : Nat) :
    State.Keeps s (State.walkNote s fi asid vpn) := by
  unfold State.walkNote
  repeat' first
    | split
    | dsimp only
    | unfold Option.getD
    | grind -ring -linarith -lia [State.Keeps, State.assign_keeps]
    | refine State.Keeps.trans ?_ (State.assign_keeps ..)
    | (refine State.Keeps.trans ?_ (State.Keeps.foldl _ (fun s a => ?_) _ _) <;> try dsimp only)

theorem State.setAD_keeps (s : State) (at_ : Nat) (e : DWord) (write : Bool) :
    State.Keeps s (State.setAD s at_ e write) := by
  unfold State.setAD; grind -ring -linarith -lia [State.Keeps, State.setBytes_keeps]

theorem State.missAt_keeps (s : State) (fi asid vpn : Nat) (who : Miss) :
    State.Keeps s (State.missAt s fi asid vpn who) := by
  unfold State.missAt; grind -ring -linarith -lia [State.Keeps, State.updField_keeps]

theorem State.translate_keeps (s : State) (fi asid va : Nat) (write window super : Bool) :
    ∀ a b t, State.translate s fi asid va write window super = .ok (a, b, t) → State.Keeps s t := by
  unfold State.translate; grind -ring -linarith -lia [State.Keeps, State.assign_keeps, State.setAD_keeps, State.walkNote_keeps]

theorem State.vread_keeps (s : State) (fi asid va n : Nat) (super : Bool) :
    ∀ a b t, State.vread s fi asid va n super = some (a, b, t) → State.Keeps s t := by
  unfold State.vread
  generalize List.range _ = l
  suffices h : ∀ (o : Option (List Byte × Bool × State)), (∀ a b t, o = some (a, b, t) → State.Keeps s t) →
      ∀ a b t, l.foldl _ o = some (a, b, t) → State.Keeps s t by
    exact h _ (fun a b t e => by cases e; exact .refl s)
  induction l with
  | nil => intro o h; exact h
  | cons x r ih =>
    intro o h
    rw [List.foldl_cons]
    apply ih
    intro a b t e
    match o, h, e with
    | none, _, e => simp at e
    | some (bs, pz, u), h, e =>
      simp only at e
      split at e
      · simp at e
      · rename_i q; injection e with e; injection e with e1 e2; injection e2 with e2 e3; subst e3
        exact ((h _ _ _ rfl).trans (State.translate_keeps _ _ _ _ _ _ _ _ _ _ q)).trans (State.noteRange_keeps ..)

theorem State.recordEvent_keeps (s : State) (asid lc : Nat) (t : TrapInfo) :
    State.Keeps s (State.recordEvent s asid lc t) := by
  unfold State.recordEvent; grind -ring -linarith -lia [State.Keeps, State.updLC_keeps]

theorem State.recordTrap_keeps (s : State) (asid lc : Nat) (t : TrapInfo) :
    State.Keeps s (State.recordTrap s asid lc t) := by
  unfold State.recordTrap; grind -ring -linarith -lia [State.Keeps, State.updLC_keeps]

theorem State.sendTrap_keeps (s : State) (asid lc : Nat) (t : TrapInfo) (held : Bool) (payload : Option (List Word)) :
    State.Keeps s (State.sendTrap s asid lc t held payload) := by
  unfold State.sendTrap; grind -ring -linarith -lia [State.Keeps]

theorem State.takeTrap_keeps (s : State) (asid lc : Nat) (t : TrapInfo) :
    State.Keeps s (State.takeTrap s asid lc t) := by
  unfold State.takeTrap; grind -ring -linarith -lia [State.Keeps, State.recordTrap_keeps, State.sendTrap_keeps]

theorem State.pushFree_keeps (s : State) (kind field : Nat) :
    State.Keeps s (State.pushFree s kind field) := by
  unfold State.pushFree; grind -ring -linarith -lia [State.Keeps, State.pushReport_keeps]

theorem State.reportState_keeps (s : State) (kind f detail : Nat) :
    State.Keeps s (State.reportState s kind f detail) := by
  unfold State.reportState; grind -ring -linarith -lia [State.Keeps, State.pushReport_keeps]

theorem State.poolLow_keeps (s : State) (field : Nat) :
    State.Keeps s (State.poolLow s field) := by
  unfold State.poolLow; grind -ring -linarith -lia [State.Keeps, State.pushFree_keeps]

theorem State.launchBad_keeps (s : State) (q index : Nat) :
    State.Keeps s (State.launchBad s q index) := by
  unfold State.launchBad; grind -ring -linarith -lia [State.Keeps, State.pushReport_keeps]

theorem State.rcWrite_keeps (s : State) (w : RcWrite) :
    State.Keeps s (State.rcWrite s w) := by
  unfold State.rcWrite; grind -ring -linarith -lia [State.Keeps, State.launchBad_keeps, State.missAt_keeps, → State.translate_keeps, State.updPcie_keeps, State.writeRange_keeps]

theorem State.evWrite_keeps (s : State) (n fi asid : Nat) (p : Pitch) (bs : List Byte) :
    State.Keeps s (State.evWrite s n fi asid p bs) := by
  unfold State.evWrite; grind -ring -linarith -lia [State.Keeps, State.rcWrite_keeps, State.updPitch_keeps]

theorem State.ringAppend_keeps (s : State) (asid lc : Nat) (t : TrapInfo) :
    State.Keeps s (State.ringAppend s asid lc t) := by
  unfold State.ringAppend; grind -ring -linarith -lia [State.Keeps, State.evWrite_keeps, State.fresh_keeps, State.setPitch_keeps]

theorem State.raiseEvent_keeps (s : State) (asid lc : Nat) (t : TrapInfo) :
    State.Keeps s (State.raiseEvent s asid lc t) := by
  unfold State.raiseEvent; grind -ring -linarith -lia [State.Keeps, State.recordEvent_keeps, State.ringAppend_keeps]

theorem State.ucDrop_keeps (s : State) (asid lc : Nat) (tag : DWord) (node : Nat) (port : Bool) (opc : BitVec 10) :
    State.Keeps s (State.ucDrop s asid lc tag node port opc) := by
  unfold State.ucDrop; grind -ring -linarith -lia [State.Keeps, State.raiseEvent_keeps, State.updLC_keeps]

theorem State.sendAs_keeps (s : State) (org : Option (Nat × Word)) (src : Src) (dst : Dst) (t : Token) :
    State.Keeps s (State.sendAs s org src dst t) := by
  unfold State.sendAs; grind -ring -linarith -lia [State.Keeps]

theorem State.send_keeps (s : State) (src : Src) (dst : Dst) (t : Token) :
    State.Keeps s (State.send s src dst t) := by
  unfold State.send; grind -ring -linarith -lia [State.Keeps, State.sendAs_keeps]

theorem State.sendOff_keeps (s : State) (src : Src) (dst : Dst) (t : Token) :
    State.Keeps s (State.sendOff s src dst t) := by
  unfold State.sendOff; grind -ring -linarith -lia [State.Keeps]

theorem State.sendTo_keeps (s : State) (src : Src) (asid lc : Nat) (vc : BitVec 3) (d : Dest) (rt : DWord) (flip : Bool) (node : Nat) (port : Bool) (opc : BitVec 10) (ftag : DWord) (o : Out) :
    State.Keeps s (State.sendTo s src asid lc vc d rt flip node port opc ftag o) := by
  unfold State.sendTo; grind -ring -linarith -lia [State.Keeps, State.send_keeps, State.sendAs_keeps, State.sendOff_keeps, State.ucDrop_keeps, State.updLC_keeps]

theorem State.sendScale_keeps (s : State) (f : Firing) (opc : BitVec 10) (rt : DWord) (o : Out) :
    State.Keeps s (State.sendScale s f opc rt o) := by
  unfold State.sendScale; grind -ring -linarith -lia [State.Keeps, State.sendOff_keeps, State.ucDrop_keeps]

theorem State.deliver_keeps (s : State) (src : Src) (vc : BitVec 3) (route : Nat → DWord) (f : Firing) (opc : BitVec 10) (o : Out) :
    State.Keeps s (State.deliver s src vc route f opc o) := by
  unfold State.deliver; grind -ring -linarith -lia [State.Keeps, State.raiseEvent_keeps, State.recordTrap_keeps, State.sendScale_keeps, State.sendTo_keeps, State.sendTrap_keeps, State.updLC_keeps]

theorem State.emit_keeps (s : State) (route : Nat → DWord) (f : Firing) (opc : BitVec 10) (o : Out) :
    State.Keeps s (State.emit s route f opc o) := by
  unfold State.emit; grind -ring -linarith -lia [State.Keeps, State.deliver_keeps]

theorem State.emitAll_keeps (s : State) (route : Nat → DWord) (f : Firing) (opc : BitVec 10) (outs : List Out) :
    State.Keeps s (State.emitAll s route f opc outs) := by
  exact State.Keeps.foldl _ (fun s o => State.emit_keeps s route f opc o) outs s

theorem State.allocColour_keeps (s : State) (asid lc : Nat) (regs : ColourRegs) (cont : BitVec 128) :
    ∀ a t, State.allocColour s asid lc regs cont = some (a, t) → State.Keeps s t := by
  unfold State.allocColour; grind -ring -linarith -lia [State.Keeps, State.updLC_keeps, State.updPitch_keeps]

theorem State.noteClamp_keeps (s : State) (asid lc : Nat) (clamp : Bool) :
    State.Keeps s (State.noteClamp s asid lc clamp) := by
  unfold State.noteClamp; grind -ring -linarith -lia [State.Keeps, State.updLC_keeps]

theorem State.tagOp_keeps (s : State) (asid lc : Nat) (p : Pitch) (maxw : BitVec 6) (regs : ColourRegs) (tgo : Tgo) (setN : Nat) (tag : DWord) :
    ∀ t g, State.tagOp s asid lc p maxw regs tgo setN tag = .ok t g → State.Keeps s t := by
  unfold State.tagOp; grind -ring -linarith -lia [State.Keeps, → State.allocColour_keeps, State.noteClamp_keeps]

theorem State.queueReady_keeps (s : State) (f : Firing) :
    State.Keeps s (State.queueReady s f) := by
  unfold State.queueReady; grind -ring -linarith -lia [State.Keeps, State.setReady_keeps]

theorem State.enterReady_keeps (s : State) (f : Firing) :
    State.Keeps s (State.enterReady s f) := by
  unfold State.enterReady; grind -ring -linarith -lia [State.Keeps, State.queueReady_keeps, State.updLC_keeps]

theorem State.releaseDeferred_keeps (s : State) (fuel asid lc : Nat) :
    State.Keeps s (State.releaseDeferred s fuel asid lc) := by
  fun_induction State.releaseDeferred s fuel asid lc <;> grind -ring -linarith -lia [State.Keeps, State.enterReady_keeps, State.queueReady_keeps, State.updLC_keeps]

theorem State.releaseAll_keeps (s : State) (asid lc : Nat) :
    State.Keeps s (State.releaseAll s asid lc) := by
  unfold State.releaseAll; grind -ring -linarith -lia [State.Keeps, State.releaseDeferred_keeps]

theorem State.complete_keeps (s : State) (f : Firing) :
    Arrive.Keeps s (State.complete s f) := by
  unfold State.complete; grind -ring -linarith -lia [State.Keeps, Arrive.Keeps, Arrive.Keeps.trans, State.enterReady_keeps, State.releaseAll_keeps, State.updLC_keeps]

theorem State.placeTok_keeps (s : State) (asid lc : Nat) (x : LCore) (kind : MKind) (t : Token) :
    Arrive.Keeps s (State.placeTok s asid lc x kind t) := by
  unfold State.placeTok; grind -ring -linarith -lia [State.Keeps, Arrive.Keeps, Arrive.Keeps.trans, State.updLC_keeps]

theorem State.assoc_keeps (s : State) (asid lc : Nat) (x : LCore) (t : Token) :
    Arrive.Keeps s (State.assoc s asid lc x t) := by
  unfold State.assoc; grind -ring -linarith -lia [State.Keeps, Arrive.Keeps, Arrive.Keeps.trans, State.complete_keeps, State.placeTok_keeps, State.updLC_keeps]

theorem State.stickyMatches_keeps (s : State) (fuel asid lc : Nat) (t : Token) (inStore : Bool) :
    Arrive.Keeps s (State.stickyMatches s fuel asid lc t inStore) := by
  fun_induction State.stickyMatches s fuel asid lc t inStore <;> grind -ring -linarith -lia [State.Keeps, Arrive.Keeps, Arrive.Keeps.trans, State.complete_keeps, State.updLC_keeps]

theorem State.sticky_keeps (s : State) (asid lc : Nat) (x : LCore) (t : Token) :
    Arrive.Keeps s (State.sticky s asid lc x t) := by
  unfold State.sticky; grind -ring -linarith -lia [State.Keeps, Arrive.Keeps, Arrive.Keeps.trans, State.complete_keeps, State.placeTok_keeps, State.stickyMatches_keeps]

theorem State.frame_keeps (s : State) (asid lc : Nat) (x : LCore) (t : Token) :
    Arrive.Keeps s (State.frame s asid lc x t) := by
  unfold State.frame; grind -ring -linarith -lia [State.Keeps, Arrive.Keeps, Arrive.Keeps.trans, State.complete_keeps, State.takeTrap_keeps, State.updLC_keeps]

theorem State.lboundB_keeps (s : State) (asid lc : Nat) (x : LCore) (t : Token) :
    Arrive.Keeps s (State.lboundB s asid lc x t) := by
  unfold State.lboundB; grind -ring -linarith -lia [State.Keeps, Arrive.Keeps, Arrive.Keeps.trans, State.releaseAll_keeps, State.updLC_keeps]

theorem State.fdeq_keeps (s : State) (asid lc : Nat) (x : LCore) (t : Token) :
    Arrive.Keeps s (State.fdeq s asid lc x t) := by
  unfold State.fdeq; grind -ring -linarith -lia [State.Keeps, Arrive.Keeps, Arrive.Keeps.trans, State.complete_keeps, State.placeTok_keeps, State.updLC_keeps]

theorem State.enterPath_keeps (s : State) (asid lc : Nat) (t : Token) :
    Arrive.Keeps s (State.enterPath s asid lc t) := by
  unfold State.enterPath
  repeat' first
    | split
    | dsimp only
    | unfold Option.getD
    | grind -ring -linarith -lia [State.Keeps, Arrive.Keeps, Arrive.Keeps.trans, State.assoc_keeps, State.complete_keeps, State.fdeq_keeps, State.frame_keeps, State.lboundB_keeps, State.placeTok_keeps, State.sticky_keeps, State.takeTrap_keeps, State.updLC_keeps]

theorem Ctx.upd_keeps (c : Ctx) (g : LCore → LCore) :
    State.Keeps c.s (Ctx.upd c g) := by
  unfold Ctx.upd; grind -ring -linarith -lia [State.Keeps, State.updLC_keeps]

theorem State.sendCont_keeps (s : State) (f : Firing) (opc : BitVec 10) (c : Dst × Token) :
    State.Keeps s (State.sendCont s f opc c) := by
  unfold State.sendCont; grind -ring -linarith -lia [State.Keeps, State.sendAs_keeps, State.sendOff_keeps, State.updLC_keeps]

theorem State.endFiring_keeps (s : State) (f : Firing) :
    State.Keeps s (State.endFiring s f) := by
  unfold State.endFiring; grind -ring -linarith -lia [State.Keeps, State.updLC_keeps, State.updPitch_keeps]

theorem State.firingTraps_keeps (s : State) (f : Firing) (opc : BitVec 10) (cause : Cause) (detail : Nat) :
    State.Keeps s (State.firingTraps s f opc cause detail) := by
  unfold State.firingTraps; grind -ring -linarith -lia [State.Keeps, State.takeTrap_keeps]

theorem State.parkFiring_keeps (s : State) (f : Firing) (colour : Bool) :
    State.Keeps s (State.parkFiring s f colour) := by
  unfold State.parkFiring; grind -ring -linarith -lia [State.Keeps, State.updLC_keeps]

theorem State.finish_keeps (s : State) (f : Firing) (opc : BitVec 10) (r : FireRes) (h : FireRes.Keeps s r) :
    State.Keeps s (State.finish s f opc r) := by
  cases r with
  | done t outs => exact State.Keeps.trans h ((State.emitAll_keeps t _ f opc outs).trans (State.endFiring_keeps _ f))
  | trap c d => exact State.firingTraps_keeps s f opc c d
  | trapWith t c d => exact State.Keeps.trans h (State.firingTraps_keeps t f opc c d)
  | hold => exact .refl s
  | park c => exact State.parkFiring_keeps s f c

theorem State.eosFire_keeps (s : State) (f : Firing) (p : Pitch) (v : NV) (tag : DWord) :
    FireRes.Keeps s (State.eosFire s f p v tag) := by
  unfold State.eosFire; grind -ring -linarith -lia [State.Keeps, FireRes.Keeps, FireRes.Keeps.trans, State.sendCont_keeps]

theorem State.fireRes_keeps (s : State) (f : Firing) (p : Pitch) (x : LCore) (v : NV) (body : Ctx → FireRes)
    (hb : ∀ c : Ctx, State.Keeps s c.s → FireRes.Keeps s (body c)) : FireRes.Keeps s (State.fireRes s f p x v body) := by
  unfold State.fireRes
  split <;> try trivial
  split <;> try trivial
  split <;> try trivial
  split <;> try trivial
  split <;> try trivial
  dsimp only
  split <;> try trivial
  rename_i h
  have ht := State.tagOp_keeps _ _ _ _ _ _ _ _ _ _ _ h
  split
  · exact FireRes.Keeps.trans ht (State.eosFire_keeps _ f p v _)
  · exact hb _ ht

theorem fire_keeps_from (v : NV) (s : State) (body : Ctx → FireRes)
    (hb : ∀ c : Ctx, State.Keeps s c.s → FireRes.Keeps s (body c)) : Outcome.Keeps s (fire v s body) := by
  unfold fire
  split
  · intro t h; simp at h
  · split
    · exact .next (State.finish_keeps _ _ _ _ (State.fireRes_keeps _ _ _ _ _ _ hb))
    · intro t h; simp at h

theorem fire_keeps (v : NV) (s : State) (body : Ctx → FireRes) (hb : ∀ c : Ctx, FireRes.Keeps c.s (body c)) :
    Outcome.Keeps s (fire v s body) :=
  fire_keeps_from v s body (fun c h => FireRes.Keeps.trans h (hb c))

theorem Ctx.emitBoth_keeps (c : Ctx) (s : State) (lanes : List Word) (poison : Bool) :
    FireRes.Keeps s (Ctx.emitBoth c s lanes poison) := State.Keeps.refl s

theorem Ctx.mapInt_keeps (c : Ctx) (g : Nat → Nat → Nat) :
    FireRes.Keeps c.s (Ctx.mapInt c g) := by
  unfold Ctx.mapInt; grind -ring -linarith -lia [State.Keeps, FireRes.Keeps, FireRes.Keeps.trans, Ctx.emitBoth_keeps]

theorem Ctx.withFlags_keeps (c : Ctx) (poison : Bool) (g : Nat) :
    State.Keeps c.s (Ctx.withFlags c poison g) := by
  unfold Ctx.withFlags; grind -ring -linarith -lia [State.Keeps, Ctx.upd_keeps]

theorem State.jobToken_keeps (s : State) (e : Eng) (unit : Nat) (j : EJob) (flip : Bool) (lanes : List Word) (poison : Bool) :
    State.Keeps s (State.jobToken s e unit j flip lanes poison) := by
  unfold State.jobToken; grind -ring -linarith -lia [State.Keeps, Outcome.Keeps, Outcome.Keeps.trans, State.sendTo_keeps, fire_keeps]

theorem State.jobIdToken_keeps (s : State) (e : Eng) (unit : Nat) (j : EJob) :
    State.Keeps s (State.jobIdToken s e unit j) := by
  unfold State.jobIdToken; grind -ring -linarith -lia [State.Keeps, State.jobToken_keeps]

theorem State.completionToken_keeps (s : State) (e : Eng) (unit : Nat) (j : EJob) (fault : Option Nat) :
    State.Keeps s (State.completionToken s e unit j fault) := by
  unfold State.completionToken; grind -ring -linarith -lia [State.Keeps, State.jobToken_keeps]

end Sys2Proof.Machine
end

