-- ==== Sys2Proof/Laws/KeepsNodes.lean ====
section
/-! SUPPORT. What these operations keep of a state (`State.Keeps`): the node instructions of the core, the tables, the wave and the matrix engine. -/
namespace Sys2Proof.Machine
open Sys2Proof
set_option Elab.async false

theorem Ctx.emitF_keeps (c : Ctx) (lanes : List Word) (g : Nat) :
    FireRes.Keeps c.s (Ctx.emitF c lanes g) := by
  unfold Ctx.emitF; grind -ring -linarith -lia [State.Keeps, FireRes.Keeps, FireRes.Keeps.trans, Ctx.emitBoth_keeps, Ctx.withFlags_keeps]

theorem Ctx.mapJet_keeps (c : Ctx) (g : Nat → List Nat → List Nat → Jet) :
    FireRes.Keeps c.s (Ctx.mapJet c g) := by
  unfold Ctx.mapJet; grind -ring -linarith -lia [State.Keeps, FireRes.Keeps, FireRes.Keeps.trans, Ctx.emitF_keeps]

theorem Ctx.mapHalf_keeps (c : Ctx) (g : Nat → Nat → Nat → Nat → Fr) :
    FireRes.Keeps c.s (Ctx.mapHalf c g) := by
  unfold Ctx.mapHalf; grind -ring -linarith -lia [State.Keeps, FireRes.Keeps, FireRes.Keeps.trans, Ctx.emitF_keeps]

theorem Ctx.mapFloat_keeps (c : Ctx) (jf : List Nat → List Nat → Jet) (ef : Fmt → Nat → Nat → Fr) :
    FireRes.Keeps c.s (Ctx.mapFloat c jf ef) := by
  unfold Ctx.mapFloat; grind -ring -linarith -lia [State.Keeps, FireRes.Keeps, FireRes.Keeps.trans, Ctx.mapHalf_keeps, Ctx.mapJet_keeps]

theorem execFadd_keeps (n : Node) (s : State) :
    Outcome.Keeps s (execFadd n s) := by
  unfold execFadd; grind -ring -linarith -lia [State.Keeps, FireRes.Keeps, FireRes.Keeps.trans, Outcome.Keeps, Outcome.Keeps.trans, Ctx.mapFloat_keeps, fire_keeps]

theorem execFsub_keeps (n : Node) (s : State) :
    Outcome.Keeps s (execFsub n s) := by
  unfold execFsub; grind -ring -linarith -lia [State.Keeps, FireRes.Keeps, FireRes.Keeps.trans, Outcome.Keeps, Outcome.Keeps.trans, Ctx.mapFloat_keeps, fire_keeps]

theorem execFmul_keeps (n : Node) (s : State) :
    Outcome.Keeps s (execFmul n s) := by
  unfold execFmul; grind -ring -linarith -lia [State.Keeps, FireRes.Keeps, FireRes.Keeps.trans, Outcome.Keeps, Outcome.Keeps.trans, Ctx.mapFloat_keeps, fire_keeps]

theorem execFdiv_keeps (n : Node) (s : State) :
    Outcome.Keeps s (execFdiv n s) := by
  unfold execFdiv; grind -ring -linarith -lia [State.Keeps, FireRes.Keeps, FireRes.Keeps.trans, Outcome.Keeps, Outcome.Keeps.trans, Ctx.mapFloat_keeps, fire_keeps]

theorem Ctx.fused_keeps (c : Ctx) (negA negC : Bool) :
    FireRes.Keeps c.s (Ctx.fused c negA negC) := by
  unfold Ctx.fused; grind -ring -linarith -lia [State.Keeps, FireRes.Keeps, FireRes.Keeps.trans, Ctx.mapHalf_keeps, Ctx.mapJet_keeps]

theorem execFma_keeps (n : Node) (s : State) :
    Outcome.Keeps s (execFma n s) := by
  unfold execFma; grind -ring -linarith -lia [State.Keeps, FireRes.Keeps, FireRes.Keeps.trans, Outcome.Keeps, Outcome.Keeps.trans, Ctx.fused_keeps, fire_keeps]

theorem execFms_keeps (n : Node) (s : State) :
    Outcome.Keeps s (execFms n s) := by
  unfold execFms; grind -ring -linarith -lia [State.Keeps, FireRes.Keeps, FireRes.Keeps.trans, Outcome.Keeps, Outcome.Keeps.trans, Ctx.fused_keeps, fire_keeps]

theorem execFnma_keeps (n : Node) (s : State) :
    Outcome.Keeps s (execFnma n s) := by
  unfold execFnma; grind -ring -linarith -lia [State.Keeps, FireRes.Keeps, FireRes.Keeps.trans, Outcome.Keeps, Outcome.Keeps.trans, Ctx.fused_keeps, fire_keeps]

theorem execFmin_keeps (n : Node) (s : State) :
    Outcome.Keeps s (execFmin n s) := by
  unfold execFmin; grind -ring -linarith -lia [State.Keeps, FireRes.Keeps, FireRes.Keeps.trans, Outcome.Keeps, Outcome.Keeps.trans, Ctx.mapFloat_keeps, fire_keeps]

theorem execFmax_keeps (n : Node) (s : State) :
    Outcome.Keeps s (execFmax n s) := by
  unfold execFmax; grind -ring -linarith -lia [State.Keeps, FireRes.Keeps, FireRes.Keeps.trans, Outcome.Keeps, Outcome.Keeps.trans, Ctx.mapFloat_keeps, fire_keeps]

theorem execFminn_keeps (n : Node) (s : State) :
    Outcome.Keeps s (execFminn n s) := by
  unfold execFminn; grind -ring -linarith -lia [State.Keeps, FireRes.Keeps, FireRes.Keeps.trans, Outcome.Keeps, Outcome.Keeps.trans, Ctx.mapFloat_keeps, fire_keeps]

theorem execFmaxn_keeps (n : Node) (s : State) :
    Outcome.Keeps s (execFmaxn n s) := by
  unfold execFmaxn; grind -ring -linarith -lia [State.Keeps, FireRes.Keeps, FireRes.Keeps.trans, Outcome.Keeps, Outcome.Keeps.trans, Ctx.mapFloat_keeps, fire_keeps]

theorem execFabs_keeps (n : Node) (s : State) :
    Outcome.Keeps s (execFabs n s) := by
  unfold execFabs; grind -ring -linarith -lia [State.Keeps, FireRes.Keeps, FireRes.Keeps.trans, Outcome.Keeps, Outcome.Keeps.trans, Ctx.mapFloat_keeps, fire_keeps]

theorem execFneg_keeps (n : Node) (s : State) :
    Outcome.Keeps s (execFneg n s) := by
  unfold execFneg; grind -ring -linarith -lia [State.Keeps, FireRes.Keeps, FireRes.Keeps.trans, Outcome.Keeps, Outcome.Keeps.trans, Ctx.mapFloat_keeps, fire_keeps]

theorem execFcpsgn_keeps (n : Node) (s : State) :
    Outcome.Keeps s (execFcpsgn n s) := by
  unfold execFcpsgn; grind -ring -linarith -lia [State.Keeps, FireRes.Keeps, FireRes.Keeps.trans, Outcome.Keeps, Outcome.Keeps.trans, Ctx.mapFloat_keeps, fire_keeps]

theorem execFcmp_keeps (n : Node) (s : State) :
    Outcome.Keeps s (execFcmp n s) := by
  unfold execFcmp; grind -ring -linarith -lia [State.Keeps, FireRes.Keeps, FireRes.Keeps.trans, Outcome.Keeps, Outcome.Keeps.trans, Ctx.emitF_keeps, fire_keeps]

theorem execFclass_keeps (n : Node) (s : State) :
    Outcome.Keeps s (execFclass n s) := by
  unfold execFclass; grind -ring -linarith -lia [State.Keeps, FireRes.Keeps, FireRes.Keeps.trans, Outcome.Keeps, Outcome.Keeps.trans, Ctx.mapFloat_keeps, fire_keeps]

theorem execFsqrt_keeps (n : Node) (s : State) :
    Outcome.Keeps s (execFsqrt n s) := by
  unfold execFsqrt; grind -ring -linarith -lia [State.Keeps, FireRes.Keeps, FireRes.Keeps.trans, Outcome.Keeps, Outcome.Keeps.trans, Ctx.mapJet_keeps, fire_keeps]

theorem execFrsq_keeps (n : Node) (s : State) :
    Outcome.Keeps s (execFrsq n s) := by
  unfold execFrsq; grind -ring -linarith -lia [State.Keeps, FireRes.Keeps, FireRes.Keeps.trans, Outcome.Keeps, Outcome.Keeps.trans, Ctx.mapJet_keeps, fire_keeps]

theorem execFrcp_keeps (n : Node) (s : State) :
    Outcome.Keeps s (execFrcp n s) := by
  unfold execFrcp; grind -ring -linarith -lia [State.Keeps, FireRes.Keeps, FireRes.Keeps.trans, Outcome.Keeps, Outcome.Keeps.trans, Ctx.mapJet_keeps, fire_keeps]

theorem execFexp_keeps (n : Node) (s : State) :
    Outcome.Keeps s (execFexp n s) := by
  unfold execFexp; grind -ring -linarith -lia [State.Keeps, FireRes.Keeps, FireRes.Keeps.trans, Outcome.Keeps, Outcome.Keeps.trans, Ctx.mapJet_keeps, fire_keeps]

theorem execFexp2_keeps (n : Node) (s : State) :
    Outcome.Keeps s (execFexp2 n s) := by
  unfold execFexp2; grind -ring -linarith -lia [State.Keeps, FireRes.Keeps, FireRes.Keeps.trans, Outcome.Keeps, Outcome.Keeps.trans, Ctx.mapJet_keeps, fire_keeps]

theorem execFlog_keeps (n : Node) (s : State) :
    Outcome.Keeps s (execFlog n s) := by
  unfold execFlog; grind -ring -linarith -lia [State.Keeps, FireRes.Keeps, FireRes.Keeps.trans, Outcome.Keeps, Outcome.Keeps.trans, Ctx.mapJet_keeps, fire_keeps]

theorem execFlog2_keeps (n : Node) (s : State) :
    Outcome.Keeps s (execFlog2 n s) := by
  unfold execFlog2; grind -ring -linarith -lia [State.Keeps, FireRes.Keeps, FireRes.Keeps.trans, Outcome.Keeps, Outcome.Keeps.trans, Ctx.mapJet_keeps, fire_keeps]

theorem execFsin_keeps (n : Node) (s : State) :
    Outcome.Keeps s (execFsin n s) := by
  unfold execFsin; grind -ring -linarith -lia [State.Keeps, FireRes.Keeps, FireRes.Keeps.trans, Outcome.Keeps, Outcome.Keeps.trans, Ctx.mapJet_keeps, fire_keeps]

theorem execFcos_keeps (n : Node) (s : State) :
    Outcome.Keeps s (execFcos n s) := by
  unfold execFcos; grind -ring -linarith -lia [State.Keeps, FireRes.Keeps, FireRes.Keeps.trans, Outcome.Keeps, Outcome.Keeps.trans, Ctx.mapJet_keeps, fire_keeps]

theorem execFsincos_keeps (n : Node) (s : State) :
    Outcome.Keeps s (execFsincos n s) := by
  unfold execFsincos; exact fire_keeps _ _ _ (fun c => Ctx.withFlags_keeps _ _ _)

theorem execFtanh_keeps (n : Node) (s : State) :
    Outcome.Keeps s (execFtanh n s) := by
  unfold execFtanh; grind -ring -linarith -lia [State.Keeps, FireRes.Keeps, FireRes.Keeps.trans, Outcome.Keeps, Outcome.Keeps.trans, Ctx.mapJet_keeps, fire_keeps]

theorem execFsigm_keeps (n : Node) (s : State) :
    Outcome.Keeps s (execFsigm n s) := by
  unfold execFsigm; grind -ring -linarith -lia [State.Keeps, FireRes.Keeps, FireRes.Keeps.trans, Outcome.Keeps, Outcome.Keeps.trans, Ctx.mapJet_keeps, fire_keeps]

theorem execFerf_keeps (n : Node) (s : State) :
    Outcome.Keeps s (execFerf n s) := by
  unfold execFerf; grind -ring -linarith -lia [State.Keeps, FireRes.Keeps, FireRes.Keeps.trans, Outcome.Keeps, Outcome.Keeps.trans, Ctx.mapJet_keeps, fire_keeps]

theorem execFrnd_keeps (n : Node) (s : State) :
    Outcome.Keeps s (execFrnd n s) := by
  unfold execFrnd; grind -ring -linarith -lia [State.Keeps, FireRes.Keeps, FireRes.Keeps.trans, Outcome.Keeps, Outcome.Keeps.trans, Ctx.mapJet_keeps, fire_keeps]

theorem execFscale_keeps (n : Node) (s : State) :
    Outcome.Keeps s (execFscale n s) := by
  unfold execFscale; grind -ring -linarith -lia [State.Keeps, FireRes.Keeps, FireRes.Keeps.trans, Outcome.Keeps, Outcome.Keeps.trans, Ctx.mapJet_keeps, fire_keeps]

theorem execFcvt_keeps (n : Node) (s : State) :
    Outcome.Keeps s (execFcvt n s) := by
  unfold execFcvt; grind -ring -linarith -lia [State.Keeps, FireRes.Keeps, FireRes.Keeps.trans, Outcome.Keeps, Outcome.Keeps.trans, Ctx.emitF_keeps, fire_keeps]

theorem execFquant_keeps (n : Node) (s : State) :
    Outcome.Keeps s (execFquant n s) := by
  unfold execFquant
  apply fire_keeps; intro c; dsimp only
  split
  · exact State.Keeps.refl _
  · exact Ctx.withFlags_keeps _ _ _

theorem execFdeq_keeps (n : Node) (s : State) :
    Outcome.Keeps s (execFdeq n s) := by
  unfold execFdeq; grind -ring -linarith -lia [State.Keeps, FireRes.Keeps, FireRes.Keeps.trans, Outcome.Keeps, Outcome.Keeps.trans, Ctx.emitBoth_keeps, Ctx.withFlags_keeps, fire_keeps]

theorem State.requeue_keeps (s : State) (f : Firing) :
    State.Keeps s (State.requeue s f) := by
  unfold State.requeue; grind -ring -linarith -lia [State.Keeps, State.setReady_keeps]

theorem State.updRegs_keeps (s : State) (asid lc c : Nat) (g : ColourRegs → ColourRegs) :
    State.Keeps s (State.updRegs s asid lc c g) := by
  unfold State.updRegs; grind -ring -linarith -lia [State.Keeps, State.updLC_keeps]

theorem State.retryWith_keeps (s : State) (asid lc : Nat) (p : Parked → Bool) (gs : List Grant) :
    State.Keeps s (State.retryWith s asid lc p gs) := by
  unfold State.retryWith
  repeat' first
    | split
    | dsimp only
    | unfold Option.getD
    | grind -ring -linarith -lia [State.Keeps, State.requeue_keeps, State.updLC_keeps]
    | refine State.Keeps.trans ?_ (State.requeue_keeps ..)
    | refine State.Keeps.trans ?_ (State.updLC_keeps ..)
    | (refine State.Keeps.trans ?_ (State.Keeps.foldl _ (fun s a => ?_) _ _) <;> try dsimp only)

theorem State.retryTags_keeps (s : State) (asid lc colour : Nat) :
    State.Keeps s (State.retryTags s asid lc colour) := by
  unfold State.retryTags; grind -ring -linarith -lia [State.Keeps, State.retryWith_keeps, State.updRegs_keeps]

theorem State.retryColours_keeps (s : State) (asid : Nat) :
    State.Keeps s (State.retryColours s asid) := by
  unfold State.retryColours
  repeat' first
    | split
    | dsimp only
    | unfold Option.getD
    | grind -ring -linarith -lia [State.Keeps, State.retryWith_keeps, State.updLC_keeps, State.updPitch_keeps]
    | refine State.Keeps.trans ?_ (State.retryWith_keeps ..)
    | refine State.Keeps.trans ?_ (State.updLC_keeps ..)
    | refine State.Keeps.trans ?_ (State.updPitch_keeps ..)
    | (refine State.Keeps.trans ?_ (State.Keeps.foldl _ (fun s a => ?_) _ _) <;> try dsimp only)

theorem State.giveBack_keeps (s : State) (f : Firing) :
    State.Keeps s (State.giveBack s f) := by
  unfold State.giveBack; grind -ring -linarith -lia [State.Keeps, State.updLC_keeps, State.updRegs_keeps]

theorem State.freeColour_keeps (s : State) (asid lc c : Nat) :
    State.Keeps s (State.freeColour s asid lc c) := by
  unfold State.freeColour; grind -ring -linarith -lia [State.Keeps, State.updLC_keeps, State.updPitch_keeps]

theorem Ctx.setLive_keeps (c : Ctx) (g : BitVec 16 → BitVec 16) :
    State.Keeps c.s (Ctx.setLive c g) := by
  unfold Ctx.setLive; grind -ring -linarith -lia [State.Keeps, Ctx.upd_keeps]

theorem Ctx.createInst_keeps (c : Ctx) :
    State.Keeps c.s (Ctx.createInst c) := by
  unfold Ctx.createInst; grind -ring -linarith -lia [State.Keeps, Ctx.setLive_keeps]

theorem Ctx.retireInst_keeps (c : Ctx) :
    State.Keeps c.s (Ctx.retireInst c) := by
  unfold Ctx.retireInst; grind -ring -linarith -lia [State.Keeps, Ctx.setLive_keeps, State.retryTags_keeps]

theorem State.fillStream_keeps (s : State) (asid lc : Nat) (m : MemAcc) (t : StreamP) :
    State.Keeps s (State.fillStream s asid lc m t) := by
  unfold State.fillStream
  repeat' first
    | split
    | dsimp only
    | unfold Option.getD
    | grind -ring -linarith -lia [State.Keeps, State.takeTrap_keeps, State.updLC_keeps]
    | refine State.Keeps.trans ?_ (State.takeTrap_keeps ..)
    | refine State.Keeps.trans ?_ (State.updLC_keeps ..)
    | (refine State.Keeps.trans ?_ (State.Keeps.foldl _ (fun s a => ?_) _ _) <;> try dsimp only)

theorem State.commitStream_keeps (s : State) (asid lc : Nat) (m : MemAcc) (t : StreamP) :
    State.Keeps s (State.commitStream s asid lc m t) := by
  unfold State.commitStream; grind -ring -linarith -lia [State.Keeps, State.fillStream_keeps, State.updLC_keeps]

theorem State.resolveStream_keeps (s : State) (asid lc : Nat) (m : MemAcc) (t : StreamP) (commit : Bool) :
    State.Keeps s (State.resolveStream s asid lc m t commit) := by
  unfold State.resolveStream; grind -ring -linarith -lia [State.Keeps, Ctx.upd_keeps, State.commitStream_keeps, State.updLC_keeps]

theorem State.resolveRa_keeps (s : State) (asid lc node : Nat) (tag : DWord) (taken : Option Bool) :
    State.Keeps s (State.resolveRa s asid lc node tag taken) := by
  unfold State.resolveRa
  repeat' first
    | split
    | dsimp only
    | unfold Option.getD
    | grind -ring -linarith -lia [State.Keeps, Outcome.Keeps, Outcome.Keeps.trans, State.resolveStream_keeps, fire_keeps]
    | refine State.Keeps.trans ?_ (State.resolveStream_keeps ..)
    | (refine State.Keeps.trans ?_ (State.Keeps.foldl _ (fun s a => ?_) _ _) <;> try dsimp only)

theorem Ctx.passA_keeps (c : Ctx) (s : State) :
    FireRes.Keeps s (Ctx.passA c s) := by
  unfold Ctx.passA
  repeat' first
    | split
    | dsimp only
    | unfold Option.getD
    | grind -ring -linarith -lia [State.Keeps, FireRes.Keeps, FireRes.Keeps.trans, Ctx.emitBoth_keeps]

theorem execPass_keeps (n : Node) (s : State) :
    Outcome.Keeps s (execPass n s) := by
  unfold execPass; grind -ring -linarith -lia [State.Keeps, FireRes.Keeps, FireRes.Keeps.trans, Outcome.Keeps, Outcome.Keeps.trans, Ctx.passA_keeps, fire_keeps]

theorem execSteer_keeps (n : Node) (s : State) :
    Outcome.Keeps s (execSteer n s) := by
  unfold execSteer
  apply fire_keeps_from; intro c hc; (try dsimp only)
  (repeat' split) <;> try trivial
  repeat' first
    | split
    | dsimp only
    | unfold Option.getD
    | grind -ring -linarith -lia [State.Keeps, FireRes.Keeps, FireRes.Keeps.trans, Outcome.Keeps, Outcome.Keeps.trans, State.resolveRa_keeps, fire_keeps]

theorem execMerge_keeps (n : Node) (s : State) :
    Outcome.Keeps s (execMerge n s) := by
  unfold execMerge; grind -ring -linarith -lia [State.Keeps, FireRes.Keeps, FireRes.Keeps.trans, Outcome.Keeps, Outcome.Keeps.trans, Ctx.passA_keeps, fire_keeps]

theorem execMergec_keeps (n : Node) (s : State) :
    Outcome.Keeps s (execMergec n s) := by
  unfold execMergec; grind -ring -linarith -lia [State.Keeps, FireRes.Keeps, FireRes.Keeps.trans, Outcome.Keeps, Outcome.Keeps.trans, Ctx.passA_keeps, fire_keeps]

theorem execGate_keeps (n : Node) (s : State) :
    Outcome.Keeps s (execGate n s) := by
  unfold execGate; grind -ring -linarith -lia [State.Keeps, FireRes.Keeps, FireRes.Keeps.trans, Outcome.Keeps, Outcome.Keeps.trans, Ctx.passA_keeps, fire_keeps]

theorem execSync_keeps (n : Node) (s : State) :
    Outcome.Keeps s (execSync n s) := by
  unfold execSync
  apply fire_keeps_from; intro c hc; (try dsimp only)
  (repeat' split) <;> try trivial
  repeat' first
    | split
    | dsimp only
    | unfold Option.getD
    | grind -ring -linarith -lia [State.Keeps, FireRes.Keeps, FireRes.Keeps.trans, Outcome.Keeps, Outcome.Keeps.trans, fire_keeps]
    | (refine State.Keeps.trans ?_ (State.Keeps.foldl _ (fun s a => ?_) _ _) <;> try dsimp only)

theorem Ctx.passTag_keeps (c : Ctx) (s : State) (tag : DWord) :
    FireRes.Keeps s (Ctx.passTag c s tag) := by
  unfold Ctx.passTag
  repeat' first
    | split
    | dsimp only
    | unfold Option.getD
    | grind -ring -linarith -lia [State.Keeps, FireRes.Keeps, FireRes.Keeps.trans, Ctx.passA_keeps]

theorem Ctx.enterLoop_keeps (c : Ctx) (f : List Nat → List Nat → Except Nat (List Nat)) :
    FireRes.Keeps c.s (Ctx.enterLoop c f) := by
  unfold Ctx.enterLoop; grind -ring -linarith -lia [State.Keeps, FireRes.Keeps, FireRes.Keeps.trans, Ctx.createInst_keeps, Ctx.passTag_keeps]

theorem execLenter_keeps (n : Node) (s : State) :
    Outcome.Keeps s (execLenter n s) := by
  unfold execLenter; grind -ring -linarith -lia [State.Keeps, FireRes.Keeps, FireRes.Keeps.trans, Outcome.Keeps, Outcome.Keeps.trans, Ctx.enterLoop_keeps, fire_keeps]

theorem execLnext_keeps (n : Node) (s : State) :
    Outcome.Keeps s (execLnext n s) := by
  unfold execLnext; grind -ring -linarith -lia [State.Keeps, FireRes.Keeps, FireRes.Keeps.trans, Outcome.Keeps, Outcome.Keeps.trans, Ctx.enterLoop_keeps, fire_keeps]

theorem execLexit_keeps (n : Node) (s : State) :
    Outcome.Keeps s (execLexit n s) := by
  unfold execLexit; grind -ring -linarith -lia [State.Keeps, FireRes.Keeps, FireRes.Keeps.trans, Outcome.Keeps, Outcome.Keeps.trans, Ctx.passTag_keeps, Ctx.retireInst_keeps, fire_keeps]

theorem execLbound_keeps (n : Node) (s : State) :
    Outcome.Keeps s (execLbound n s) := by
  unfold execLbound; grind -ring -linarith -lia [State.Keeps, FireRes.Keeps, FireRes.Keeps.trans, Outcome.Keeps, Outcome.Keeps.trans, Ctx.passA_keeps, fire_keeps]

theorem execLdone_keeps (n : Node) (s : State) :
    Outcome.Keeps s (execLdone n s) := by
  unfold execLdone; grind -ring -linarith -lia [State.Keeps, FireRes.Keeps, FireRes.Keeps.trans, Outcome.Keeps, Outcome.Keeps.trans, Ctx.passA_keeps, Ctx.retireInst_keeps, fire_keeps]

theorem Ctx.allocate_keeps (c : Ctx) (cont : BitVec 128) :
    ∀ a t, Ctx.allocate c cont = some (a, t) → State.Keeps c.s t := by
  unfold Ctx.allocate; grind -ring -linarith -lia [State.Keeps, Ctx.upd_keeps, → State.allocColour_keeps]

theorem execCall_keeps (n : Node) (s : State) :
    Outcome.Keeps s (execCall n s) := by
  unfold execCall
  apply fire_keeps_from; intro c hc; (try dsimp only)
  (repeat' split) <;> try trivial
  repeat' first
    | split
    | dsimp only
    | unfold Option.getD
    | grind -ring -linarith -lia [State.Keeps, FireRes.Keeps, FireRes.Keeps.trans, Outcome.Keeps, Outcome.Keeps.trans, → Ctx.allocate_keeps, fire_keeps]

theorem execRet_keeps (n : Node) (s : State) :
    Outcome.Keeps s (execRet n s) := by
  unfold execRet
  apply fire_keeps_from; intro c hc; (try dsimp only)
  (repeat' split) <;> try trivial
  repeat' first
    | split
    | dsimp only
    | unfold Option.getD
    | grind -ring -linarith -lia [State.Keeps, FireRes.Keeps, FireRes.Keeps.trans, Outcome.Keeps, Outcome.Keeps.trans, State.freeColour_keeps, State.sendCont_keeps, fire_keeps]

theorem execCfree_keeps (n : Node) (s : State) :
    Outcome.Keeps s (execCfree n s) := by
  unfold execCfree; grind -ring -linarith -lia [State.Keeps, FireRes.Keeps, FireRes.Keeps.trans, Outcome.Keeps, Outcome.Keeps.trans, Ctx.passA_keeps, State.freeColour_keeps, fire_keeps]

theorem execTagget_keeps (n : Node) (s : State) :
    Outcome.Keeps s (execTagget n s) := by
  unfold execTagget; grind -ring -linarith -lia [State.Keeps, FireRes.Keeps, FireRes.Keeps.trans, Outcome.Keeps, Outcome.Keeps.trans, Ctx.emitBoth_keeps, fire_keeps]

theorem execTagset_keeps (n : NodeL) (s : State) :
    Outcome.Keeps s (execTagset n s) := by
  unfold execTagset; grind -ring -linarith -lia [State.Keeps, FireRes.Keeps, FireRes.Keeps.trans, Outcome.Keeps, Outcome.Keeps.trans, Ctx.passTag_keeps, State.send_keeps, fire_keeps]

theorem execEos_keeps (n : Node) (s : State) :
    Outcome.Keeps s (execEos n s) := by
  unfold execEos
  apply fire_keeps_from; intro c hc; (try dsimp only)
  (repeat' split) <;> try trivial
  repeat' first
    | split
    | dsimp only
    | unfold Option.getD
    | grind -ring -linarith -lia [State.Keeps, FireRes.Keeps, FireRes.Keeps.trans, Outcome.Keeps, Outcome.Keeps.trans, fire_keeps]
    | (refine State.Keeps.trans ?_ (State.Keeps.foldl _ (fun s a => ?_) _ _) <;> try dsimp only)

theorem execSink_keeps (n : Node) (s : State) :
    Outcome.Keeps s (execSink n s) := by
  unfold execSink; grind -ring -linarith -lia [State.Keeps, FireRes.Keeps, FireRes.Keeps.trans, Outcome.Keeps, Outcome.Keeps.trans, Ctx.emitBoth_keeps, Ctx.upd_keeps, State.updPitch_keeps, fire_keeps]

theorem execPurge_keeps (n : Node) (s : State) :
    Outcome.Keeps s (execPurge n s) := by
  unfold execPurge
  apply fire_keeps_from; intro c hc; (try dsimp only)
  (repeat' split) <;> try trivial
  repeat' first
    | split
    | dsimp only
    | unfold Option.getD
    | grind -ring -linarith -lia [State.Keeps, FireRes.Keeps, FireRes.Keeps.trans, Outcome.Keeps, Outcome.Keeps.trans, Ctx.upd_keeps, fire_keeps]

theorem execTrap_keeps (n : Node) (s : State) :
    Outcome.Keeps s (execTrap n s) := by
  unfold execTrap
  apply fire_keeps_from; intro c hc; (try dsimp only)
  (repeat' split) <;> try trivial
  repeat' first
    | split
    | dsimp only
    | unfold Option.getD
    | grind -ring -linarith -lia [State.Keeps, FireRes.Keeps, FireRes.Keeps.trans, Outcome.Keeps, Outcome.Keeps.trans, fire_keeps]
    | (refine State.Keeps.trans ?_ (State.Keeps.foldl _ (fun s a => ?_) _ _) <;> try dsimp only)

theorem execBrk_keeps (n : Node) (s : State) :
    Outcome.Keeps s (execBrk n s) := by
  unfold execBrk; grind -ring -linarith -lia [State.Keeps, FireRes.Keeps, FireRes.Keeps.trans, Outcome.Keeps, Outcome.Keeps.trans, Ctx.passA_keeps, fire_keeps]

theorem execEvent_keeps (n : Node) (s : State) :
    Outcome.Keeps s (execEvent n s) := by
  unfold execEvent; grind -ring -linarith -lia [State.Keeps, FireRes.Keeps, FireRes.Keeps.trans, Outcome.Keeps, Outcome.Keeps.trans, Ctx.passA_keeps, fire_keeps]

theorem Ctx.clean_keeps (c : Ctx) (k : FireRes) (s : State) (h : FireRes.Keeps s k) : FireRes.Keeps s (Ctx.clean c k) := by
  unfold Ctx.clean; split <;> first | trivial | exact h

theorem execAccinit_keeps (n : Node) (s : State) :
    Outcome.Keeps s (execAccinit n s) := by
  unfold execAccinit; grind -ring -linarith -lia [State.Keeps, FireRes.Keeps, FireRes.Keeps.trans, Outcome.Keeps, Outcome.Keeps.trans, Ctx.clean_keeps, Ctx.passA_keeps, Ctx.upd_keeps, State.releaseAll_keeps, fire_keeps]

theorem Ctx.accFinish_keeps (c : Ctx) (acc : Acc) (flags : Nat) (close : Acc → Acc × Nat) :
    FireRes.Keeps c.s (Ctx.accFinish c acc flags close) := by
  unfold Ctx.accFinish; grind -ring -linarith -lia [State.Keeps, FireRes.Keeps, FireRes.Keeps.trans, Ctx.emitBoth_keeps, Ctx.upd_keeps, State.releaseAll_keeps]

theorem Ctx.accCheck_keeps (c : Ctx) (k : Acc → FireRes) (s : State) (h : ∀ a, FireRes.Keeps s (k a)) :
    FireRes.Keeps s (Ctx.accCheck c k) := by
  unfold Ctx.accCheck
  dsimp only
  (repeat' split) <;> first | trivial | exact h _ | exact Ctx.clean_keeps _ _ _ trivial | exact Ctx.clean_keeps _ _ _ (h _)

theorem execAccadd_keeps (n : Node) (s : State) :
    Outcome.Keeps s (execAccadd n s) := by
  unfold execAccadd; grind -ring -linarith -lia [State.Keeps, FireRes.Keeps, FireRes.Keeps.trans, Outcome.Keeps, Outcome.Keeps.trans, Ctx.accCheck_keeps, Ctx.accFinish_keeps, fire_keeps]

theorem execAccmax_keeps (n : Node) (s : State) :
    Outcome.Keeps s (execAccmax n s) := by
  unfold execAccmax; grind -ring -linarith -lia [State.Keeps, FireRes.Keeps, FireRes.Keeps.trans, Outcome.Keeps, Outcome.Keeps.trans, Ctx.accCheck_keeps, Ctx.accFinish_keeps, fire_keeps]

theorem execAccmin_keeps (n : Node) (s : State) :
    Outcome.Keeps s (execAccmin n s) := by
  unfold execAccmin; grind -ring -linarith -lia [State.Keeps, FireRes.Keeps, FireRes.Keeps.trans, Outcome.Keeps, Outcome.Keeps.trans, Ctx.accCheck_keeps, Ctx.accFinish_keeps, fire_keeps]

theorem execAccrd_keeps (n : Node) (s : State) :
    Outcome.Keeps s (execAccrd n s) := by
  unfold execAccrd; grind -ring -linarith -lia [State.Keeps, FireRes.Keeps, FireRes.Keeps.trans, Outcome.Keeps, Outcome.Keeps.trans, Ctx.clean_keeps, Ctx.emitBoth_keeps, fire_keeps]

theorem execKrd_keeps (n : Node) (s : State) :
    Outcome.Keeps s (execKrd n s) := by
  unfold execKrd; grind -ring -linarith -lia [State.Keeps, FireRes.Keeps, FireRes.Keeps.trans, Outcome.Keeps, Outcome.Keeps.trans, Ctx.clean_keeps, Ctx.emitBoth_keeps, fire_keeps]

theorem execKwr_keeps (n : Node) (s : State) :
    Outcome.Keeps s (execKwr n s) := by
  unfold execKwr; grind -ring -linarith -lia [State.Keeps, FireRes.Keeps, FireRes.Keeps.trans, Outcome.Keeps, Outcome.Keeps.trans, Ctx.clean_keeps, Ctx.passA_keeps, Ctx.upd_keeps, fire_keeps]

theorem execCsrrd_keeps (n : Node) (s : State) :
    Outcome.Keeps s (execCsrrd n s) := by
  unfold execCsrrd; grind -ring -linarith -lia [State.Keeps, FireRes.Keeps, FireRes.Keeps.trans, Outcome.Keeps, Outcome.Keeps.trans, Ctx.clean_keeps, Ctx.emitBoth_keeps, fire_keeps]

theorem Ctx.csrWrite_keeps (c : Ctx) (i : Nat) (v : Word) :
    State.Keeps c.s (Ctx.csrWrite c i v) := by
  unfold Ctx.csrWrite; grind -ring -linarith -lia [State.Keeps, Ctx.upd_keeps, State.updCluster_keeps]

theorem execCsrwr_keeps (n : Node) (s : State) :
    Outcome.Keeps s (execCsrwr n s) := by
  unfold execCsrwr; grind -ring -linarith -lia [State.Keeps, FireRes.Keeps, FireRes.Keeps.trans, Outcome.Keeps, Outcome.Keeps.trans, Ctx.clean_keeps, Ctx.csrWrite_keeps, Ctx.passA_keeps, fire_keeps]

theorem State.apMove_keeps (s : State) (ci : Nat) (j : EJob) :
    State.Keeps s (State.apMove s ci j) := by
  unfold State.apMove
  repeat' first
    | split
    | dsimp only
    | unfold Option.getD
    | grind -ring -linarith -lia [State.Keeps, Outcome.Keeps, Outcome.Keeps.trans, State.sendTo_keeps, State.updLC_keeps, fire_keeps]
    | refine State.Keeps.trans ?_ (State.sendTo_keeps ..)
    | refine State.Keeps.trans ?_ (State.updLC_keeps ..)
    | (refine State.Keeps.trans ?_ (State.Keeps.foldl _ (fun s a => ?_) _ _) <;> try dsimp only)

theorem State.endMatrixJob_keeps (s : State) (ci : Nat) (j : EJob) (fault : Option Nat) :
    State.Keeps s (State.endMatrixJob s ci j fault) := by
  unfold State.endMatrixJob; grind -ring -linarith -lia [State.Keeps, State.completionToken_keeps, State.updCluster_keeps, State.updLC_keeps]

theorem execMatrixJobStart_keeps (cluster : Nat) (s : State) :
    Outcome.Keeps s (execMatrixJobStart cluster s) := by
  unfold execMatrixJobStart; grind -ring -linarith -lia [State.Keeps, FireRes.Keeps, FireRes.Keeps.trans, Outcome.Keeps, Outcome.Keeps.trans, State.endMatrixJob_keeps, State.takeTrap_keeps, State.updCluster_keeps]

theorem execMmajPlaneRetire_keeps (cluster : Nat) (s : State) :
    Outcome.Keeps s (execMmajPlaneRetire cluster s) := by
  unfold execMmajPlaneRetire; grind -ring -linarith -lia [State.Keeps, FireRes.Keeps, FireRes.Keeps.trans, Outcome.Keeps, Outcome.Keeps.trans, State.endMatrixJob_keeps, State.setCluster_keeps]

theorem State.matrixEffect_keeps (s : State) (ci : Nat) (j : EJob) (x : LCore) :
    State.Keeps s (State.matrixEffect s ci j x).1 := by
  unfold State.matrixEffect; grind -ring -linarith -lia [State.Keeps, State.apMove_keeps, State.setCluster_keeps]

theorem execMatrixJobRetire_keeps (cluster i : Nat) (s : State) :
    Outcome.Keeps s (execMatrixJobRetire cluster i s) := by
  unfold execMatrixJobRetire; grind -ring -linarith -lia [State.Keeps, FireRes.Keeps, FireRes.Keeps.trans, Outcome.Keeps, Outcome.Keeps.trans, State.endMatrixJob_keeps, State.matrixEffect_keeps]

theorem execAppeekResponse_keeps (cluster : Nat) (s : State) :
    Outcome.Keeps s (execAppeekResponse cluster s) := by
  unfold execAppeekResponse; grind -ring -linarith -lia [State.Keeps, FireRes.Keeps, FireRes.Keeps.trans, Outcome.Keeps, Outcome.Keeps.trans, State.jobToken_keeps, State.setCluster_keeps]

theorem execJobpoll_keeps (n : Node) (s : State) :
    Outcome.Keeps s (execJobpoll n s) := by
  unfold execJobpoll; grind -ring -linarith -lia [State.Keeps, FireRes.Keeps, FireRes.Keeps.trans, Outcome.Keeps, Outcome.Keeps.trans, Ctx.clean_keeps, Ctx.emitBoth_keeps, fire_keeps]

theorem execJobwait_keeps (n : Node) (s : State) :
    Outcome.Keeps s (execJobwait n s) := by
  unfold execJobwait; grind -ring -linarith -lia [State.Keeps, FireRes.Keeps, FireRes.Keeps.trans, Outcome.Keeps, Outcome.Keeps.trans, Ctx.clean_keeps, Ctx.passA_keeps, fire_keeps]

theorem Ctx.sendCmd_keeps (c : Ctx) (s : State) (j : EJob) :
    FireRes.Keeps s (Ctx.sendCmd c s j) := by
  unfold Ctx.sendCmd; grind -ring -linarith -lia [State.Keeps, FireRes.Keeps, FireRes.Keeps.trans, State.updLC_keeps]

theorem Ctx.matrixCmd_keeps (c : Ctx) (n : Node) (e1 e2 : BitVec 86) (k : (List Word → FireRes) → FireRes) (s : State)
    (hs : State.Keeps s c.s) (hk : ∀ go : List Word → FireRes, (∀ l, FireRes.Keeps s (go l)) → FireRes.Keeps s (k go)) :
    FireRes.Keeps s (Ctx.matrixCmd c n e1 e2 k) := by
  unfold Ctx.matrixCmd
  apply Ctx.clean_keeps
  split
  · apply hk
    intro l
    split
    · exact FireRes.Keeps.trans hs (Ctx.sendCmd_keeps _ _ _)
    · trivial
  · trivial

theorem Ctx.plainCmd_keeps (c : Ctx) (n : Node) (e1 e2 : BitVec 86) :
    FireRes.Keeps c.s (Ctx.plainCmd c n e1 e2) := by
  exact Ctx.matrixCmd_keeps _ _ _ _ _ _ (State.Keeps.refl _) (fun _ h => h _)

theorem execWload_keeps (n : Node) (s : State) :
    Outcome.Keeps s (execWload n s) := by
  unfold execWload; grind -ring -linarith -lia [State.Keeps, FireRes.Keeps, FireRes.Keeps.trans, Outcome.Keeps, Outcome.Keeps.trans, Ctx.plainCmd_keeps, fire_keeps]

theorem execWloadx_keeps (n : Node) (s : State) :
    Outcome.Keeps s (execWloadx n s) := by
  unfold execWloadx; grind -ring -linarith -lia [State.Keeps, FireRes.Keeps, FireRes.Keeps.trans, Outcome.Keeps, Outcome.Keeps.trans, Ctx.plainCmd_keeps, fire_keeps]

theorem execWswap_keeps (n : Node) (s : State) :
    Outcome.Keeps s (execWswap n s) := by
  unfold execWswap; grind -ring -linarith -lia [State.Keeps, FireRes.Keeps, FireRes.Keeps.trans, Outcome.Keeps, Outcome.Keeps.trans, Ctx.plainCmd_keeps, fire_keeps]

theorem execMma_keeps (n : Node) (e1 : BitVec 86) (s : State) :
    Outcome.Keeps s (execMma n e1 s) := by
  unfold execMma; grind -ring -linarith -lia [State.Keeps, FireRes.Keeps, FireRes.Keeps.trans, Outcome.Keeps, Outcome.Keeps.trans, Ctx.plainCmd_keeps, fire_keeps]

theorem execMmaj_keeps (n : Node) (e1 : BitVec 86) (s : State) :
    Outcome.Keeps s (execMmaj n e1 s) := by
  unfold execMmaj
  apply fire_keeps_from; intro c hc
  apply Ctx.matrixCmd_keeps _ _ _ _ _ _ hc
  intro go h
  (repeat' split) <;> first | trivial | exact h _

theorem execMmax_keeps (n : Node) (e1 e2 : BitVec 86) (s : State) :
    Outcome.Keeps s (execMmax n e1 e2 s) := by
  unfold execMmax
  apply fire_keeps_from; intro c hc
  dsimp only
  split
  · exact Ctx.matrixCmd_keeps _ _ _ _ _ _ hc (fun _ _ => trivial)
  · split
    · trivial
    · exact Ctx.matrixCmd_keeps _ _ _ _ _ _ (hc.trans (State.updLC_keeps _ _ _ _)) (fun _ h => h _)

theorem execApzero_keeps (n : Node) (s : State) :
    Outcome.Keeps s (execApzero n s) := by
  unfold execApzero; grind -ring -linarith -lia [State.Keeps, FireRes.Keeps, FireRes.Keeps.trans, Outcome.Keeps, Outcome.Keeps.trans, Ctx.plainCmd_keeps, fire_keeps]

theorem execApmv_keeps (n : Node) (s : State) :
    Outcome.Keeps s (execApmv n s) := by
  unfold execApmv; grind -ring -linarith -lia [State.Keeps, FireRes.Keeps, FireRes.Keeps.trans, Outcome.Keeps, Outcome.Keeps.trans, Ctx.plainCmd_keeps, fire_keeps]

theorem execAppeek_keeps (n : Node) (s : State) :
    Outcome.Keeps s (execAppeek n s) := by
  unfold execAppeek; grind -ring -linarith -lia [State.Keeps, FireRes.Keeps, FireRes.Keeps.trans, Outcome.Keeps, Outcome.Keeps.trans, Ctx.clean_keeps, Ctx.sendCmd_keeps, fire_keeps]

theorem execEngineCommandEnqueue_keeps (k : Nat) (s : State) :
    Outcome.Keeps s (execEngineCommandEnqueue k s) := by
  unfold execEngineCommandEnqueue; grind -ring -linarith -lia [State.Keeps, FireRes.Keeps, FireRes.Keeps.trans, Outcome.Keeps, Outcome.Keeps.trans, State.jobIdToken_keeps, State.updCluster_keeps, State.updField_keeps, State.updLC_keeps]

theorem execEngineJobGrant_keeps (cluster eng : Nat) (s : State) :
    Outcome.Keeps s (execEngineJobGrant cluster eng s) := by
  unfold execEngineJobGrant; grind -ring -linarith -lia [State.Keeps, FireRes.Keeps, FireRes.Keeps.trans, Outcome.Keeps, Outcome.Keeps.trans, State.setCluster_keeps, State.updLC_keeps]

theorem Ctx.submit_keeps (c : Ctx) (m : MemAcc) (outs : List Out) (tile : LCore → LCore) :
    FireRes.Keeps c.s (Ctx.submit c m outs tile) := by
  unfold Ctx.submit; grind -ring -linarith -lia [State.Keeps, FireRes.Keeps, FireRes.Keeps.trans, Ctx.upd_keeps]

theorem controlOk_keeps (t : Token) (k : FireRes) (s : State) (h : FireRes.Keeps s k) : FireRes.Keeps s (controlOk t k) := by
  unfold controlOk; split <;> first | trivial | exact h

theorem Ctx.submitParts_keeps (c : Ctx) (m : MemAcc) (ps : Except Nat (List Part)) :
    FireRes.Keeps c.s (Ctx.submitParts c m ps) := by
  unfold Ctx.submitParts; grind -ring -linarith -lia [State.Keeps, FireRes.Keeps, FireRes.Keeps.trans, Ctx.submit_keeps]

theorem Ctx.linear_keeps (c : Ctx) (m : MemAcc) (n : Nat) (data : List Byte) (poison : Bool) :
    FireRes.Keeps c.s (Ctx.linear c m n data poison) := by
  unfold Ctx.linear; grind -ring -linarith -lia [State.Keeps, FireRes.Keeps, FireRes.Keeps.trans, Ctx.submitParts_keeps, controlOk_keeps]

theorem Ctx.scattered_keeps (c : Ctx) (m : MemAcc) (data : List Byte) (poison : Bool) :
    FireRes.Keeps c.s (Ctx.scattered c m data poison) := by
  unfold Ctx.scattered; grind -ring -linarith -lia [State.Keeps, FireRes.Keeps, FireRes.Keeps.trans, Ctx.submitParts_keeps, controlOk_keeps]

theorem execLd_keeps (n : Node) (s : State) :
    Outcome.Keeps s (execLd n s) := by
  unfold execLd; grind -ring -linarith -lia [State.Keeps, FireRes.Keeps, FireRes.Keeps.trans, Outcome.Keeps, Outcome.Keeps.trans, Ctx.linear_keeps, fire_keeps]

theorem execSt_keeps (n : Node) (s : State) :
    Outcome.Keeps s (execSt n s) := by
  unfold execSt; grind -ring -linarith -lia [State.Keeps, FireRes.Keeps, FireRes.Keeps.trans, Outcome.Keeps, Outcome.Keeps.trans, Ctx.linear_keeps, fire_keeps]

theorem execLdg_keeps (n : Node) (s : State) :
    Outcome.Keeps s (execLdg n s) := by
  unfold execLdg; grind -ring -linarith -lia [State.Keeps, FireRes.Keeps, FireRes.Keeps.trans, Outcome.Keeps, Outcome.Keeps.trans, Ctx.scattered_keeps, fire_keeps]

theorem execSts_keeps (n : Node) (s : State) :
    Outcome.Keeps s (execSts n s) := by
  unfold execSts; grind -ring -linarith -lia [State.Keeps, FireRes.Keeps, FireRes.Keeps.trans, Outcome.Keeps, Outcome.Keeps.trans, Ctx.scattered_keeps, fire_keeps]

theorem Ctx.submitPref_keeps (c : Ctx) (m : MemAcc) :
    FireRes.Keeps c.s (Ctx.submitPref c m) := by
  unfold Ctx.submitPref; grind -ring -linarith -lia [State.Keeps, FireRes.Keeps, FireRes.Keeps.trans, Ctx.upd_keeps]

theorem execPref_keeps (n : Node) (s : State) :
    Outcome.Keeps s (execPref n s) := by
  unfold execPref; grind -ring -linarith -lia [State.Keeps, FireRes.Keeps, FireRes.Keeps.trans, Outcome.Keeps, Outcome.Keeps.trans, Ctx.submitPref_keeps, fire_keeps]

theorem execFence_keeps (n : Node) (s : State) :
    Outcome.Keeps s (execFence n s) := by
  unfold execFence; grind -ring -linarith -lia [State.Keeps, FireRes.Keeps, FireRes.Keeps.trans, Outcome.Keeps, Outcome.Keeps.trans, Ctx.submit_keeps, fire_keeps]

theorem Ctx.atomic_keeps (c : Ctx) :
    FireRes.Keeps c.s (Ctx.atomic c) := by
  unfold Ctx.atomic; grind -ring -linarith -lia [State.Keeps, FireRes.Keeps, FireRes.Keeps.trans, Ctx.submitParts_keeps]

theorem execAadd_keeps (n : Node) (s : State) :
    Outcome.Keeps s (execAadd n s) := by
  unfold execAadd; grind -ring -linarith -lia [State.Keeps, FireRes.Keeps, FireRes.Keeps.trans, Outcome.Keeps, Outcome.Keeps.trans, Ctx.atomic_keeps, fire_keeps]

theorem execAfadd_keeps (n : Node) (s : State) :
    Outcome.Keeps s (execAfadd n s) := by
  unfold execAfadd; grind -ring -linarith -lia [State.Keeps, FireRes.Keeps, FireRes.Keeps.trans, Outcome.Keeps, Outcome.Keeps.trans, Ctx.atomic_keeps, fire_keeps]

theorem execAmin_keeps (n : Node) (s : State) :
    Outcome.Keeps s (execAmin n s) := by
  unfold execAmin; grind -ring -linarith -lia [State.Keeps, FireRes.Keeps, FireRes.Keeps.trans, Outcome.Keeps, Outcome.Keeps.trans, Ctx.atomic_keeps, fire_keeps]

theorem execAmax_keeps (n : Node) (s : State) :
    Outcome.Keeps s (execAmax n s) := by
  unfold execAmax; grind -ring -linarith -lia [State.Keeps, FireRes.Keeps, FireRes.Keeps.trans, Outcome.Keeps, Outcome.Keeps.trans, Ctx.atomic_keeps, fire_keeps]

theorem execAand_keeps (n : Node) (s : State) :
    Outcome.Keeps s (execAand n s) := by
  unfold execAand; grind -ring -linarith -lia [State.Keeps, FireRes.Keeps, FireRes.Keeps.trans, Outcome.Keeps, Outcome.Keeps.trans, Ctx.atomic_keeps, fire_keeps]

theorem execAor_keeps (n : Node) (s : State) :
    Outcome.Keeps s (execAor n s) := by
  unfold execAor; grind -ring -linarith -lia [State.Keeps, FireRes.Keeps, FireRes.Keeps.trans, Outcome.Keeps, Outcome.Keeps.trans, Ctx.atomic_keeps, fire_keeps]

theorem execAxor_keeps (n : Node) (s : State) :
    Outcome.Keeps s (execAxor n s) := by
  unfold execAxor; grind -ring -linarith -lia [State.Keeps, FireRes.Keeps, FireRes.Keeps.trans, Outcome.Keeps, Outcome.Keeps.trans, Ctx.atomic_keeps, fire_keeps]

theorem execAxchg_keeps (n : Node) (s : State) :
    Outcome.Keeps s (execAxchg n s) := by
  unfold execAxchg; grind -ring -linarith -lia [State.Keeps, FireRes.Keeps, FireRes.Keeps.trans, Outcome.Keeps, Outcome.Keeps.trans, Ctx.atomic_keeps, fire_keeps]

theorem execAcas_keeps (n : Node) (s : State) :
    Outcome.Keeps s (execAcas n s) := by
  unfold execAcas; grind -ring -linarith -lia [State.Keeps, FireRes.Keeps, FireRes.Keeps.trans, Outcome.Keeps, Outcome.Keeps.trans, Ctx.atomic_keeps, fire_keeps]

theorem execAincb_keeps (n : Node) (s : State) :
    Outcome.Keeps s (execAincb n s) := by
  unfold execAincb; grind -ring -linarith -lia [State.Keeps, FireRes.Keeps, FireRes.Keeps.trans, Outcome.Keeps, Outcome.Keeps.trans, Ctx.atomic_keeps, fire_keeps]

theorem Ctx.stream_keeps (c : Ctx) (kind : AccKind) :
    FireRes.Keeps c.s (Ctx.stream c kind) := by
  unfold Ctx.stream
  repeat' first
    | split
    | dsimp only
    | unfold Option.getD
    | grind -ring -linarith -lia [State.Keeps, FireRes.Keeps, FireRes.Keeps.trans, Ctx.submit_keeps, controlOk_keeps]

theorem execStrm_keeps (n : Node) (e1 : BitVec 86) (s : State) :
    Outcome.Keeps s (execStrm n e1 s) := by
  unfold execStrm; grind -ring -linarith -lia [State.Keeps, FireRes.Keeps, FireRes.Keeps.trans, Outcome.Keeps, Outcome.Keeps.trans, Ctx.stream_keeps, fire_keeps]

theorem execStrmst_keeps (n : Node) (e1 : BitVec 86) (s : State) :
    Outcome.Keeps s (execStrmst n e1 s) := by
  unfold execStrmst; grind -ring -linarith -lia [State.Keeps, FireRes.Keeps, FireRes.Keeps.trans, Outcome.Keeps, Outcome.Keeps.trans, Ctx.stream_keeps, fire_keeps]

theorem State.useEntry_keeps (s : State) (asid lc : Nat) (x : LCore) (t : TlbEntry) :
    State.Keeps s (State.useEntry s asid lc x t) := by
  unfold State.useEntry; grind -ring -linarith -lia [State.Keeps, State.updCluster_keeps, State.updLC_keeps]

theorem State.useTlb_keeps (s : State) (asid lc : Nat) (x : LCore) (ts : List TlbEntry) :
    State.Keeps s (State.useTlb s asid lc x ts) := by
  unfold State.useTlb
  repeat' first
    | split
    | dsimp only
    | unfold Option.getD
    | grind -ring -linarith -lia [State.Keeps, State.useEntry_keeps]
    | refine State.Keeps.trans ?_ (State.useEntry_keeps ..)
    | (refine State.Keeps.trans ?_ (State.Keeps.foldl _ (fun s a => ?_) _ _) <;> try dsimp only)

theorem State.noteFault_keeps (s : State) (asid lc : Nat) (x : LCore) (va : Nat) :
    State.Keeps s (State.noteFault s asid lc x va) := by
  unfold State.noteFault; grind -ring -linarith -lia [State.Keeps, State.assign_keeps, State.updLC_keeps]

theorem State.noteFaults_keeps (s : State) (asid lc : Nat) (x : LCore) (write : Bool) (e0 : List Part) :
    State.Keeps s (State.noteFaults s asid lc x write e0) := by
  fun_induction State.noteFaults s asid lc x write e0 <;> grind -ring -linarith -lia [State.Keeps, State.noteFault_keeps, State.useEntry_keeps]

theorem State.xlEngine_keeps (s : State) (k asid va : Nat) (write win : Bool) :
    ∀ a b t, State.xlEngine s k asid va write win = .ok (a, b, t) → State.Keeps s t := by
  unfold State.xlEngine; grind -ring -linarith -lia [State.Keeps, State.assign_keeps, → State.translate_keeps, State.updCluster_keeps]

theorem State.noteEngine_keeps (s : State) (k asid va : Nat) :
    State.Keeps s (State.noteEngine s k asid va) := by
  unfold State.noteEngine; grind -ring -linarith -lia [State.Keeps, State.assign_keeps]

theorem State.learn_keeps (s : State) (asid lc : Nat) (m : MemAcc) (all : Bool) (ids : List StoreId) :
    State.Keeps s (State.learn s asid lc m all ids) := by
  unfold State.learn; grind -ring -linarith -lia [State.Keeps, FireRes.Keeps, FireRes.Keeps.trans, Ctx.atomic_keeps, State.updLC_keeps]

theorem State.learnAcq_keeps (s : State) (asid lc : Nat) (x : LCore) (m : MemAcc) :
    State.Keeps s (State.learnAcq s asid lc x m) := by
  unfold State.learnAcq; grind -ring -linarith -lia [State.Keeps, State.learn_keeps]

end Sys2Proof.Machine
end

