-- ==== Sys2Proof/Laws/KeepsRing.lean ====
section
/-! SUPPORT. What these operations keep of a state (`State.Keeps`): the meeting units, the chain, the ring and the home of a line. -/
namespace Sys2Proof.Machine
open Sys2Proof
set_option Elab.async false

theorem URes.bind_ok {α β : Type} {r : URes α} {g : α → URes β} {b : β} (h : r.bind g = .ok b) :
    ∃ a, r = .ok a ∧ g a = .ok b := by
  cases r <;> simp_all [URes.bind]

theorem State.unitXl_keeps (s : State) (fi : Nat) (edge : Bool) (asid va : Nat) (write : Bool) :
    ∀ a b t, State.unitXl s fi edge asid va write = .ok (a, b, t) → State.Keeps s t := by
  unfold State.unitXl; grind -ring -linarith -lia [State.Keeps, → State.translate_keeps, → State.xlEngine_keeps]

theorem State.unitReadL_keeps (s : State) (fi : Nat) (edge : Bool) (asid : Nat) (hb : List StoreId) (e0 : List (Nat × Nat)) :
    ∀ t a0 a1, State.unitReadL s fi edge asid hb e0 = .ok (t, a0, a1) → State.Keeps s t := by
  fun_induction State.unitReadL s fi edge asid hb e0 <;> grind -ring -linarith -lia [State.Keeps, State.noteRange_keeps, → State.unitXl_keeps]

theorem State.unitRead_keeps (s : State) (fi : Nat) (edge : Bool) (asid : Nat) (hb : List StoreId) (va n : Nat) :
    ∀ t a0 a1, State.unitRead s fi edge asid hb va n = .ok (t, a0, a1) → State.Keeps s t := by
  unfold State.unitRead; grind -ring -linarith -lia [State.Keeps, → State.unitReadL_keeps]

theorem State.unitWriteL_keeps (s : State) (fi : Nat) (edge : Bool) (asid : Nat) (hb : List StoreId) (poison : Bool) (e0 : List (Nat × Nat)) (e1 : List Byte) :
    ∀ t, State.unitWriteL s fi edge asid hb poison e0 e1 = .ok t → State.Keeps s t := by
  fun_induction State.unitWriteL s fi edge asid hb poison e0 e1 <;> grind -ring -linarith -lia [State.Keeps, → State.unitXl_keeps, State.writeRange_keeps]

theorem State.unitWrite_keeps (s : State) (fi : Nat) (edge : Bool) (asid : Nat) (hb : List StoreId) (va : Nat) (bs : List Byte) (poison : Bool) :
    ∀ t, State.unitWrite s fi edge asid hb va bs poison = .ok t → State.Keeps s t := by
  unfold State.unitWrite; grind -ring -linarith -lia [State.Keeps, → State.unitWriteL_keeps]

theorem State.setMeeting_keeps (s : State) (fi e : Nat) (m : Meeting) :
    State.Keeps s (State.setMeeting s fi e m) := by
  unfold State.setMeeting; grind -ring -linarith -lia [State.Keeps, State.updField_keeps]

theorem State.delMeeting_keeps (s : State) (fi e : Nat) :
    State.Keeps s (State.delMeeting s fi e) := by
  unfold State.delMeeting; grind -ring -linarith -lia [State.Keeps, State.updField_keeps]

theorem State.quorumEvent_keeps (s : State) (m : Meeting) (cause : Cause) (detail : Nat) (tag : Option DWord) :
    State.Keeps s (State.quorumEvent s m cause detail tag) := by
  unfold State.quorumEvent; grind -ring -linarith -lia [State.Keeps, State.raiseEvent_keeps]

theorem State.coreTrap_keeps (s : State) (asid lc : Nat) (cause : Cause) (detail : Nat) :
    State.Keeps s (State.coreTrap s asid lc cause detail) := by
  unfold State.coreTrap; grind -ring -linarith -lia [State.Keeps, State.takeTrap_keeps]

theorem State.ownerTrap_keeps (s : State) (m : Meeting) (cause : Cause) (detail : Nat) :
    State.Keeps s (State.ownerTrap s m cause detail) := by
  unfold State.ownerTrap; grind -ring -linarith -lia [State.Keeps, State.coreTrap_keeps]

theorem State.dropMeet_keeps (s : State) (j : EJob) :
    State.Keeps s (State.dropMeet s j) := by
  unfold State.dropMeet; grind -ring -linarith -lia [State.Keeps, State.updField_keeps]

theorem State.endMeet_keeps (s : State) (j : EJob) (fault : Option Nat) :
    State.Keeps s (State.endMeet s j fault) := by
  unfold State.endMeet; grind -ring -linarith -lia [State.Keeps, State.completionToken_keeps, State.dropMeet_keeps]

theorem State.failMeet_keeps (s : State) (j : EJob) (detail : Nat) :
    State.Keeps s (State.failMeet s j detail) := by
  unfold State.failMeet; grind -ring -linarith -lia [State.Keeps, State.endMeet_keeps, State.takeTrap_keeps]

theorem State.removeMeeting_keeps (s : State) (fi e : Nat) (m : Meeting) (detail : Nat) :
    State.Keeps s (State.removeMeeting s fi e m detail) := by
  unfold State.removeMeeting
  repeat' first
    | split
    | dsimp only
    | unfold Option.getD
    | grind -ring -linarith -lia [State.Keeps, State.delMeeting_keeps, State.endMeet_keeps, State.updField_keeps]
    | refine State.Keeps.trans ?_ (State.delMeeting_keeps ..)
    | refine State.Keeps.trans ?_ (State.endMeet_keeps ..)
    | refine State.Keeps.trans ?_ (State.updField_keeps ..)
    | (refine State.Keeps.trans ?_ (State.Keeps.foldl _ (fun s a => ?_) _ _) <;> try dsimp only)

theorem State.meetFault_keeps (s : State) (fi e : Nat) :
    State.Keeps s (State.meetFault s fi e) := by
  unfold State.meetFault; grind -ring -linarith -lia [State.Keeps, State.ownerTrap_keeps, State.removeMeeting_keeps]

theorem State.unitStep_keeps (s : State) (fi asid e : Nat) (r : URes State) (h : ∀ t, r = .ok t → State.Keeps s t) :
    State.Keeps s (State.unitStep s fi asid e r) := by
  unfold State.unitStep
  split
  · exact h _ rfl
  · exact State.missAt_keeps ..
  · exact .refl s
  · exact State.meetFault_keeps ..

theorem State.readTerms_keeps (s : State) (fi : Nat) (m : Meeting) (e0 : List Contrib) :
    ∀ t a0 a1, State.readTerms s fi m e0 = .ok (t, a0, a1) → State.Keeps s t := by
  induction e0 generalizing s with
  | nil => intro t a0 a1 h; simp only [State.readTerms] at h; injection h with h; injection h with h1 h2; subst h1; exact .refl _
  | cons d r ih =>
    intro t a0 a1 h
    have rest : ∀ (u : State) v p, (u.readTerms fi m r).bind (fun q => URes.ok (q.1, v :: q.2.1, p || q.2.2)) = .ok (t, a0, a1) →
        State.Keeps u t := by
      intro u v p h
      obtain ⟨q, hq, h⟩ := URes.bind_ok h
      injection h with h; injection h with h1 h2; subst h1
      exact ih u _ _ _ hq
    simp only [State.readTerms] at h
    (repeat' split at h) <;> first
      | exact rest _ _ _ h
      | (simp at h; done)
      | (obtain ⟨q, hq, h⟩ := URes.bind_ok h
         exact (State.unitRead_keeps _ _ _ _ _ _ _ _ _ _ hq).trans (rest _ _ _ h))

theorem State.meetToken_keeps (s : State) (fi : Nat) (m : Meeting) (hb : List StoreId) (flip : Bool) (lanes : List Word) (poison : Bool) :
    State.Keeps s (State.meetToken s fi m hb flip lanes poison) := by
  unfold State.meetToken; grind -ring -linarith -lia [State.Keeps, State.quorumEvent_keeps, State.sendAs_keeps, State.updLC_keeps]

theorem State.missMember_keeps (s : State) (m : Meeting) (i : Nat) :
    State.Keeps s (State.missMember s m i).1 := by
  unfold State.missMember; grind -ring -linarith -lia [State.Keeps, State.quorumEvent_keeps]

theorem State.missAll_keeps (s : State) (m : Meeting) :
    State.Keeps s (State.missAll s m).1 := by
  unfold State.missAll
  suffices h : ∀ (l : List Nat) (p : State × Meeting), State.Keeps s p.1 → State.Keeps s (l.foldl (fun (p : State × Meeting) i =>
      if (m.member i).on then p else p.1.missMember p.2 i) p).1 from h _ _ (.refl s)
  intro l
  induction l with
  | nil => intro p h; exact h
  | cons i r ih =>
    intro p h
    apply ih
    dsimp only
    split
    · exact h
    · exact h.trans (State.missMember_keeps _ _ _)

theorem State.writeMembers_keeps (s : State) (fi : Nat) (m : Meeting) :
    ∀ t, State.writeMembers s fi m = .ok t → State.Keeps s t := by
  unfold State.writeMembers; grind -ring -linarith -lia [State.Keeps, → State.unitWrite_keeps]

theorem State.writeMember_keeps (s : State) (fi : Nat) (m : Meeting) (i : Nat) :
    ∀ t, State.writeMember s fi m i = .ok t → State.Keeps s t := by
  unfold State.writeMember; grind -ring -linarith -lia [State.Keeps, → State.unitWrite_keeps]

theorem State.writeResult_keeps (s : State) (fi : Nat) (m : Meeting) (hb : List StoreId) (y : List Nat) (pz : Bool) :
    ∀ t a0, State.writeResult s fi m hb y pz = .ok (t, a0) → State.Keeps s t := by
  unfold State.writeResult
  intro t a0 h
  split at h
  · obtain ⟨q, hq, h⟩ := URes.bind_ok h
    split at h
    · simp at h
    · obtain ⟨s', hs, h⟩ := URes.bind_ok h
      injection h with h; injection h with h1 h2; subst h1
      exact (State.unitRead_keeps _ _ _ _ _ _ _ _ _ _ hq).trans (State.unitWrite_keeps _ _ _ _ _ _ _ _ _ hs)
  · injection h with h; injection h with h1 h2; subst h1; exact .refl s

theorem State.closeRound_keeps (s : State) (fi e : Nat) (m : Meeting) (forced : Bool) :
    ∀ t, State.closeRound s fi e m forced = .ok t → State.Keeps s t := by
  unfold State.closeRound
  intro t h
  obtain ⟨q, hq, h⟩ := URes.bind_ok h
  obtain ⟨s1, h1, h⟩ := URes.bind_ok h
  obtain ⟨r, hr, h⟩ := URes.bind_ok h
  refine (State.readTerms_keeps _ _ _ _ _ _ _ hq).trans ((State.unitWrite_keeps _ _ _ _ _ _ _ _ _ h1).trans
    ((State.writeResult_keeps _ _ _ _ _ _ _ _ hr).trans (State.Keeps.trans ?_ (State.writeMembers_keeps _ _ _ _ h))))
  refine State.Keeps.trans ?_ (State.setMeeting_keeps _ _ _ _)
  refine State.Keeps.trans ?_ (State.missAll_keeps _ _)
  split
  · exact ((State.meetToken_keeps ..).trans (State.meetToken_keeps ..)).trans (State.Keeps.foldl _ (fun s c => State.endMeet_keeps s _ _) _ _)
  · exact (State.meetToken_keeps ..).trans (State.meetToken_keeps ..)

theorem State.discard_keeps (s : State) (m : Meeting) (first : Bool) (c : Contrib) (detail : Nat) :
    State.Keeps s (State.discard s m first c detail) := by
  unfold State.discard; grind -ring -linarith -lia [State.Keeps, State.endMeet_keeps]

theorem State.hold_keeps (s : State) (fi : Nat) (m : Meeting) (first : Bool) (c : Contrib) (round : Nat) :
    ∀ t, State.hold s fi m first c round = .ok t → State.Keeps s t := by
  unfold State.hold
  intro t h
  obtain ⟨q, hq, h⟩ := URes.bind_ok h
  injection h with h
  subst h
  refine (State.unitWrite_keeps _ _ _ _ _ _ _ _ _ hq).trans ?_
  split
  · exact .refl _
  · exact State.endMeet_keeps _ _ _

theorem ures_foldl {g : State → Contrib → URes State} (hg : ∀ s c t, g s c = .ok t → State.Keeps s t) (l : List Contrib) (s : State)
    (r : URes State) (hr : ∀ t, r = .ok t → State.Keeps s t) (t : State)
    (h : l.foldl (fun r c => r.bind (fun s => g s c)) r = .ok t) : State.Keeps s t := by
  induction l generalizing r with
  | nil => exact hr t h
  | cons c l ih =>
    refine ih _ ?_ h
    intro u hu
    obtain ⟨v, hv, hu⟩ := URes.bind_ok hu
    exact (hr v hv).trans (hg v c u hu)

theorem State.contribute_keeps (fuel : Nat) (s : State) (fi e : Nat) (first : Bool) (c : Contrib) :
    ∀ t, State.contribute fuel s fi e first c = .ok t → State.Keeps s t := by
  induction fuel generalizing s first c with
  | zero => intro t h; simp only [State.contribute] at h; injection h with h; subst h; exact .refl _
  | succ n ih =>
    intro t h
    have ok : ∀ {u v : State}, URes.ok u = .ok v → u = v := fun h => by injection h
    have dd : ∀ u m d, State.Keeps s u → State.Keeps s (u.discard m first c d) :=
      fun u m d h => h.trans (State.discard_keeps u m first c d)
    have sm : ∀ u m, State.Keeps s u → State.Keeps s (u.setMeeting fi e m) := fun u m h => h.trans (State.setMeeting_keeps u fi e m)
    simp only [State.contribute] at h
    split at h
    · cases ok h; exact .refl _
    · split at h
      · cases ok h; exact dd _ _ _ (sm _ _ (.refl s))
      · split at h
        · split at h
          · cases ok h; exact dd _ _ _ (sm _ _ (.refl s))
          · obtain ⟨s2, h2, h⟩ := URes.bind_ok h
            obtain ⟨s1, h1, h2⟩ := URes.bind_ok h2
            have k1 := State.hold_keeps _ _ _ _ _ _ _ h1
            have k2 := (sm _ _ k1).trans (State.writeMember_keeps _ _ _ _ _ h2)
            split at h
            · obtain ⟨s3, h3, h⟩ := URes.bind_ok h
              have k3 := k2.trans (State.closeRound_keeps _ _ _ _ _ _ h3)
              split at h
              · cases ok h; exact k3
              · exact ures_foldl (fun s c t => ih s false c t) _ s _ (fun t ht => by cases ok ht; exact sm _ _ k3) t h
            · cases ok h; exact k2
        · split at h
          · split at h
            · cases ok h; exact dd _ _ _ (sm _ _ (.refl s))
            · obtain ⟨s1, h1, h⟩ := URes.bind_ok h
              cases ok h
              exact sm _ _ (State.hold_keeps _ _ _ _ _ _ _ h1)
          · split at h
            · split at h
              · cases ok h; exact dd _ _ _ (sm _ _ (.refl s))
              · obtain ⟨s1, h1, h⟩ := URes.bind_ok h
                have k1 := State.hold_keeps _ _ _ _ _ _ _ h1
                first
                  | (cases ok h; exact sm _ _ k1)
            · obtain ⟨s1, h1, h⟩ := URes.bind_ok h
              cases ok h
              exact dd _ _ _ ((sm _ _ (.refl s)).trans (State.writeMember_keeps _ _ _ _ _ h1))

theorem State.forceClose_keeps (s : State) (fi e : Nat) (m : Meeting) :
    ∀ t, State.forceClose s fi e m = .ok t → State.Keeps s t := by
  unfold State.forceClose
  intro t h
  obtain ⟨s1, h1, h⟩ := URes.bind_ok h
  have k1 := State.closeRound_keeps _ _ _ _ _ _ h1
  split at h
  · injection h with h; subst h; exact k1
  · refine ures_foldl (fun s c t => State.contribute_keeps _ s fi e false c t) _ s _ (fun t ht => ?_) t h
    injection ht with ht; subst ht
    exact k1.trans (State.setMeeting_keeps _ _ _ _)

theorem State.takeCores_keeps (s : State) (p : Pitch) :
    State.Keeps s (State.takeCores s p) := by
  unfold State.takeCores; grind -ring -linarith -lia [State.Keeps]

theorem State.mapPitch_keeps (s : State) (asid : Nat) (p : Pitch) :
    State.Keeps s (State.mapPitch s asid p) := by
  unfold State.mapPitch
  repeat' first
    | split
    | dsimp only
    | unfold Option.getD
    | grind -ring -linarith -lia [State.Keeps, State.takeCores_keeps, State.updField_keeps]
    | refine State.Keeps.trans ?_ (State.takeCores_keeps ..)
    | refine State.Keeps.trans ?_ (State.updField_keeps ..)
    | (refine State.Keeps.trans ?_ (State.Keeps.foldl _ (fun s a => ?_) _ _) <;> try dsimp only)

theorem State.unmapPitch_keeps (s : State) (asid : Nat) :
    State.Keeps s (State.unmapPitch s asid) := by
  unfold State.unmapPitch; grind -ring -linarith -lia [State.Keeps]

theorem State.setWalker_keeps (s : State) (fi wi : Nat) (w : Walker) :
    State.Keeps s (State.setWalker s fi wi w) := by
  unfold State.setWalker; grind -ring -linarith -lia [State.Keeps, State.updField_keeps]

theorem State.sendChunk_keeps (s : State) (fi wi : Nat) (w : Walker) (n chunk : Nat) (bcast : Bool) (hops : Nat) (data : List Byte) (poison : Bool) :
    State.Keeps s (State.sendChunk s fi wi w n chunk bcast hops data poison) := by
  unfold State.sendChunk; grind -ring -linarith -lia [State.Keeps, State.setWalker_keeps]

theorem State.finishChunk_keeps (s : State) (fi wi : Nat) (w : Walker) (count chunk : Nat) (data : List Byte) (poison : Bool) :
    ∀ t, State.finishChunk s fi wi w count chunk data poison = .ok t → State.Keeps s t := by
  unfold State.finishChunk
  intro t h
  obtain ⟨s1, h1, h⟩ := URes.bind_ok h
  have k := State.unitWrite_keeps _ _ _ _ _ _ _ _ _ h1
  dsimp only at h
  split at h
  · injection h with h; subst h
    exact (k.trans (State.endMeet_keeps _ _ _)).trans (State.setWalker_keeps _ _ _ _)
  · injection h with h; subst h
    exact k.trans (State.setWalker_keeps _ _ _ _)

theorem State.sendOut_keeps (fuel : Nat) (s : State) (fi wi n : Nat) :
    State.Keeps s (State.sendOut fuel s fi wi n) := by
  fun_induction State.sendOut fuel s fi wi n <;> grind -ring -linarith -lia [State.Keeps, State.sendChunk_keeps]

theorem State.startChunks_keeps (fuel : Nat) (s : State) (fi wi : Nat) (m : Meeting) :
    ∀ t, State.startChunks fuel s fi wi m = .ok t → State.Keeps s t := by
  induction fuel generalizing s with
  | zero => intro t h; simp only [State.startChunks] at h; injection h with h; subst h; exact .refl _
  | succ n ih =>
    intro t h
    simp only [State.startChunks] at h
    split at h
    · injection h with h; subst h; exact .refl _
    · split at h
      · injection h with h; subst h; exact .refl _
      · obtain ⟨q, hq, h⟩ := URes.bind_ok h
        have k := State.unitRead_keeps _ _ _ _ _ _ _ _ _ _ hq
        split at h
        · obtain ⟨s1, h1, h⟩ := URes.bind_ok h
          exact (k.trans (State.finishChunk_keeps _ _ _ _ _ _ _ _ _ h1)).trans (ih _ _ h)
        · exact (k.trans (State.sendChunk_keeps _ _ _ _ _ _ _ _ _ _)).trans (ih _ _ h)

theorem State.clearRing_keeps (s : State) (m : Meeting) :
    State.Keeps s (State.clearRing s m) := by
  unfold State.clearRing; grind -ring -linarith -lia [State.Keeps]

theorem State.endWalkers_keeps (s : State) (m : Meeting) (dead : List (Nat × Nat)) (code : Nat) :
    State.Keeps s (State.endWalkers s m dead code) := by
  unfold State.endWalkers
  repeat' first
    | split
    | dsimp only
    | unfold Option.getD
    | grind -ring -linarith -lia [State.Keeps, State.endMeet_keeps]
    | refine State.Keeps.trans ?_ (State.endMeet_keeps ..)
    | (refine State.Keeps.trans ?_ (State.Keeps.foldl _ (fun s a => ?_) _ _) <;> try dsimp only)

theorem State.ringCheck_keeps (s : State) (fi e : Nat) :
    ∀ t, State.ringCheck s fi e = .ok t → State.Keeps s t := by
  unfold State.ringCheck
  intro t h
  split at h
  · injection h with h; subst h; exact .refl _
  · dsimp only at h
    split at h
    · injection h with h; subst h; exact .refl _
    · split at h
      · obtain ⟨s1, h1, h⟩ := URes.bind_ok h
        injection h with h; subst h
        refine (State.unitWrite_keeps _ _ _ _ _ _ _ _ _ h1).trans ?_
        refine State.Keeps.trans ?_ (State.setMeeting_keeps _ _ _ _)
        refine State.Keeps.trans ?_ (State.clearRing_keeps _ _)
        refine State.Keeps.trans ?_ (State.endWalkers_keeps ..)
        exact (State.meetToken_keeps ..).trans (State.meetToken_keeps ..)
      · injection h with h; subst h; exact .refl _

theorem State.ringStop_keeps (s : State) (fi e : Nat) (m : Meeting) (dead : List (Nat × Nat)) :
    State.Keeps s (State.ringStop s fi e m dead) := by
  unfold State.ringStop
  repeat' first
    | split
    | dsimp only
    | unfold Option.getD
    | grind -ring -linarith -lia [State.Keeps, State.clearRing_keeps, State.endWalkers_keeps, State.quorumEvent_keeps, State.setMeeting_keeps]

theorem State.openEpoch_keeps (s : State) (fi wi hf he : Nat) (m : Meeting) (w : Walker) :
    ∀ t, State.openEpoch s fi wi hf he m w = .ok t → State.Keeps s t := by
  unfold State.openEpoch
  intro t h
  dsimp only at h
  split at h
  · obtain ⟨s2, h2, h⟩ := URes.bind_ok h
    refine State.Keeps.trans ?_ ((State.startChunks_keeps _ _ _ _ _ _ h2).trans (State.ringCheck_keeps _ _ _ _ h))
    exact (State.setWalker_keeps _ _ _ _).trans (State.setMeeting_keeps _ _ _ _)
  · injection h with h; subst h
    exact State.setWalker_keeps _ _ _ _

theorem State.learnDeath_keeps (s : State) (fi wi hf he : Nat) (m : Meeting) (w : Walker) (d e : Nat) :
    ∀ t, State.learnDeath s fi wi hf he m w d e = .ok t → State.Keeps s t := by
  unfold State.learnDeath; grind -ring -linarith -lia [State.Keeps, → State.openEpoch_keeps, State.ringStop_keeps]

theorem State.returnCredit_keeps (s : State) (c : RingCtl) :
    State.Keeps s (State.returnCredit s c) := by
  unfold State.returnCredit; grind -ring -linarith -lia [State.Keeps]

theorem State.passChunk_keeps (s : State) (fi wi : Nat) (m : Meeting) (chunk : Nat) (bcast : Bool) (hops : Nat) (data : List Byte) (pz : Bool) :
    State.Keeps s (State.passChunk s fi wi m chunk bcast hops data pz) := by
  unfold State.passChunk; grind -ring -linarith -lia [State.Keeps, State.sendOut_keeps, State.setWalker_keeps]

theorem State.takeChunk_keeps (s : State) (fi wi : Nat) (m : Meeting) (w : Walker) (x : RingMsg) :
    ∀ t, State.takeChunk s fi wi m w x = .ok t → State.Keeps s t := by
  unfold State.takeChunk
  intro t h
  dsimp only at h
  have pass := State.passChunk_keeps
  have ret := State.returnCredit_keeps
  split at h
  · obtain ⟨s1, h1, h⟩ := URes.bind_ok h
    have k := State.finishChunk_keeps _ _ _ _ _ _ _ _ _ h1
    injection h with h; subst h
    refine (k.trans ?_).trans (ret _ _)
    split
    · exact .refl _
    · exact pass ..
  · obtain ⟨q, hq, h⟩ := URes.bind_ok h
    have k0 := State.unitRead_keeps _ _ _ _ _ _ _ _ _ _ hq
    split at h
    · obtain ⟨s1, h1, h⟩ := URes.bind_ok h
      have k := State.finishChunk_keeps _ _ _ _ _ _ _ _ _ h1
      injection h with h; subst h
      refine ((k0.trans k).trans ?_).trans (ret _ _)
      split
      · exact pass ..
      · exact .refl _
    · injection h with h; subst h
      exact ((k0.trans (State.setWalker_keeps ..)).trans (pass ..)).trans (ret _ _)

theorem execRingChunkArrival_keeps (k : Nat) (s : State) :
    Outcome.Keeps s (execRingChunkArrival k s) := by
  unfold execRingChunkArrival
  apply Outcome.Keeps.next
  split
  · exact .refl _
  · split
    · exact .same rfl rfl
    · split
      · exact .refl _
      · have k0 : State.Keeps s { s with ring := listDrop s.ring k } := .same rfl rfl
        dsimp only
        generalize { s with ring := listDrop s.ring k } = s1 at k0
        (repeat' split) <;> first
          | exact .refl _
          | exact k0
          | exact State.missAt_keeps ..
          | exact State.meetFault_keeps ..
          | (rename_i h3
             obtain ⟨s2, h2, h3⟩ := URes.bind_ok h3
             exact (k0.trans (State.takeChunk_keeps _ _ _ _ _ _ _ h2)).trans (State.ringCheck_keeps _ _ _ _ h3))

theorem execRingCreditArrival_keeps (k : Nat) (s : State) :
    Outcome.Keeps s (execRingCreditArrival k s) := by
  unfold execRingCreditArrival
  apply Outcome.Keeps.next
  repeat' first
    | split
    | dsimp only
    | unfold Option.getD
    | grind -ring -linarith -lia [State.Keeps, FireRes.Keeps, FireRes.Keeps.trans, Outcome.Keeps, Outcome.Keeps.trans, State.meetFault_keeps, State.missAt_keeps, State.sendOut_keeps, State.setWalker_keeps, → State.startChunks_keeps]

theorem execRingTimeout_keeps (field k : Nat) (s : State) :
    Outcome.Keeps s (execRingTimeout field k s) := by
  unfold execRingTimeout; grind -ring -linarith -lia [State.Keeps, FireRes.Keeps, FireRes.Keeps.trans, Outcome.Keeps, Outcome.Keeps.trans, → State.learnDeath_keeps, State.unitStep_keeps]

theorem execDeadNotice_keeps (k : Nat) (s : State) :
    Outcome.Keeps s (execDeadNotice k s) := by
  unfold execDeadNotice
  apply Outcome.Keeps.next
  repeat' first
    | split
    | dsimp only
    | unfold Option.getD
    | grind -ring -linarith -lia [State.Keeps, FireRes.Keeps, FireRes.Keeps.trans, Outcome.Keeps, Outcome.Keeps.trans, State.endMeet_keeps, → State.learnDeath_keeps, → State.ringCheck_keeps, State.unitStep_keeps, State.updField_keeps]

theorem execCompletionIndex_keeps (k : Nat) (s : State) :
    Outcome.Keeps s (execCompletionIndex k s) := by
  unfold execCompletionIndex
  apply Outcome.Keeps.next
  repeat' first
    | split
    | dsimp only
    | unfold Option.getD
    | grind -ring -linarith -lia [State.Keeps, FireRes.Keeps, FireRes.Keeps.trans, Outcome.Keeps, Outcome.Keeps.trans, → State.openEpoch_keeps, State.unitStep_keeps]

theorem State.updMem_keeps (s : State) (asid lc id : Nat) (g : MemAcc → MemAcc) :
    State.Keeps s (State.updMem s asid lc id g) := by
  unfold State.updMem; grind -ring -linarith -lia [State.Keeps, State.updLC_keeps]

theorem State.endMem_keeps (s : State) (asid lc : Nat) (m : MemAcc) (cause : Cause) (detail : Nat) :
    State.Keeps s (State.endMem s asid lc m cause detail) := by
  unfold State.endMem; grind -ring -linarith -lia [State.Keeps, State.takeTrap_keeps, State.updLC_keeps]

theorem State.memToken_keeps (s : State) (asid lc : Nat) (m : MemAcc) (b : Bool) (eos : Option (BitVec 4)) (lanes : List Word) (poison : Bool) (tag : DWord) :
    State.Keeps s (State.memToken s asid lc m b eos lanes poison tag) := by
  unfold State.memToken; grind -ring -linarith -lia [State.Keeps, Outcome.Keeps, Outcome.Keeps.trans, State.deliver_keeps, fire_keeps]

theorem State.launchOut_keeps (s : State) (asid lc : Nat) (m : MemAcc) :
    State.Keeps s (State.launchOut s asid lc m) := by
  unfold State.launchOut; grind -ring -linarith -lia [State.Keeps, Outcome.Keeps, Outcome.Keeps.trans, State.memToken_keeps, fire_keeps]

theorem execChainOrderEntry_keeps (asid lc k : Nat) (s : State) :
    Outcome.Keeps s (execChainOrderEntry asid lc k s) := by
  unfold execChainOrderEntry; grind -ring -linarith -lia [State.Keeps, FireRes.Keeps, FireRes.Keeps.trans, Outcome.Keeps, Outcome.Keeps.trans, State.launchOut_keeps, State.takeTrap_keeps, State.updLC_keeps, State.updMem_keeps]

theorem State.sendReq_keeps (s : State) (asid lc : Nat) (x : LCore) (m : MemAcc) (i : Nat) (p : Part) (kind : ReqKind) :
    State.Keeps s (State.sendReq s asid lc x m i p kind) := by
  unfold State.sendReq; grind -ring -linarith -lia [State.Keeps, FireRes.Keeps, FireRes.Keeps.trans, Ctx.atomic_keeps, State.updLC_keeps]

theorem State.sendParts_keeps (s : State) (asid lc : Nat) (m : MemAcc) (kind : ReqKind) (ps : List Part) :
    State.Keeps s (State.sendParts s asid lc m kind ps) := by
  unfold State.sendParts
  repeat' first
    | split
    | dsimp only
    | unfold Option.getD
    | grind -ring -linarith -lia [State.Keeps, State.sendReq_keeps]
    | refine State.Keeps.trans ?_ (State.sendReq_keeps ..)
    | (refine State.Keeps.trans ?_ (State.Keeps.foldl _ (fun s a => ?_) _ _) <;> try dsimp only)

theorem State.appendLaunch_keeps (s : State) (q : Nat) (rec : List Byte) :
    State.Keeps s (State.appendLaunch s q rec).2 := by
  unfold State.appendLaunch; grind -ring -linarith -lia [State.Keeps, State.updLQ_keeps, State.writeRange_keeps]

theorem State.performLaunch_keeps (s : State) (asid lc : Nat) (x : LCore) (m : MemAcc) :
    State.Keeps s (State.performLaunch s asid lc x m) := by
  unfold State.performLaunch
  repeat' first
    | split
    | dsimp only
    | unfold Option.getD
    | grind -ring -linarith -lia [State.Keeps, State.appendLaunch_keeps, State.endMem_keeps, State.noteFaults_keeps, State.readNote_keeps, State.updMem_keeps, State.useTlb_keeps]
    | refine State.Keeps.trans ?_ (State.appendLaunch_keeps ..)
    | refine State.Keeps.trans ?_ (State.endMem_keeps ..)
    | refine State.Keeps.trans ?_ (State.noteFaults_keeps ..)
    | refine State.Keeps.trans ?_ (State.readNote_keeps ..)
    | refine State.Keeps.trans ?_ (State.updMem_keeps ..)
    | refine State.Keeps.trans ?_ (State.useTlb_keeps ..)
    | (refine State.Keeps.trans ?_ (State.Keeps.foldl _ (fun s a => ?_) _ _) <;> try dsimp only)

theorem State.release_keeps (s : State) (asid lc : Nat) (x : LCore) (m : MemAcc) :
    State.Keeps s (State.release s asid lc x m) := by
  unfold State.release; grind -ring -linarith -lia [State.Keeps, FireRes.Keeps, FireRes.Keeps.trans, Ctx.atomic_keeps, State.endMem_keeps, State.noteFault_keeps, State.noteFaults_keeps, State.performLaunch_keeps, State.sendParts_keeps, State.updLC_keeps, State.updMem_keeps, State.useTlb_keeps]

theorem State.failStream_keeps (s : State) (asid lc : Nat) (m : MemAcc) (i : Nat) (detail : Nat) :
    State.Keeps s (State.failStream s asid lc m i detail) := by
  unfold State.failStream; grind -ring -linarith -lia [State.Keeps, State.takeTrap_keeps, State.updLC_keeps, State.updMem_keeps]

theorem State.updPart_keeps (s : State) (asid lc id i : Nat) (g : Part → Part) :
    State.Keeps s (State.updPart s asid lc id i g) := by
  unfold State.updPart; grind -ring -linarith -lia [State.Keeps, State.updMem_keeps]

theorem State.pushPart_keeps (s : State) (asid lc : Nat) (x : LCore) (m : MemAcc) (i : Nat) (p : Part) :
    ∀ t, State.pushPart s asid lc x m i p = some t → State.Keeps s t := by
  unfold State.pushPart; grind -ring -linarith -lia [State.Keeps, Outcome.Keeps, Outcome.Keeps.trans, State.failStream_keeps, State.noteFault_keeps, State.updLC_keeps, State.updPart_keeps, State.useTlb_keeps, fire_keeps]

theorem State.drainSq_keeps (s : State) (asid lc : Nat) (x : LCore) (m : MemAcc) :
    State.Keeps s (State.drainSq s asid lc x m) := by
  unfold State.drainSq; grind -ring -linarith -lia [State.Keeps, State.sendReq_keeps, State.updLC_keeps, State.updPart_keeps]

theorem State.fetchPart_keeps (s : State) (asid lc : Nat) (x : LCore) (m : MemAcc) (i : Nat) (p : Part) :
    State.Keeps s (State.fetchPart s asid lc x m i p) := by
  unfold State.fetchPart; grind -ring -linarith -lia [State.Keeps, State.failStream_keeps, State.noteFault_keeps, State.sendReq_keeps, State.updPart_keeps, State.useTlb_keeps]

theorem execMemoryAccessRelease_keeps (asid lc k : Nat) (s : State) :
    Outcome.Keeps s (execMemoryAccessRelease asid lc k s) := by
  unfold execMemoryAccessRelease
  apply Outcome.Keeps.next
  repeat' first
    | split
    | dsimp only
    | unfold Option.getD
    | grind -ring -linarith -lia [State.Keeps, FireRes.Keeps, FireRes.Keeps.trans, Outcome.Keeps, Outcome.Keeps.trans, State.drainSq_keeps, State.fetchPart_keeps, → State.pushPart_keeps, State.release_keeps]

theorem State.sendReplies_keeps (s : State) (asid lc : Nat) (m : MemAcc) :
    State.Keeps s (State.sendReplies s asid lc m) := by
  unfold State.sendReplies
  repeat' first
    | split
    | dsimp only
    | unfold Option.getD
    | grind -ring -linarith -lia [State.Keeps, State.memToken_keeps]
    | refine State.Keeps.trans ?_ (State.memToken_keeps ..)
    | (refine State.Keeps.trans ?_ (State.Keeps.foldl _ (fun s a => ?_) _ _) <;> try dsimp only)

theorem State.reply_keeps (s : State) (asid lc id : Nat) :
    State.Keeps s (State.reply s asid lc id) := by
  unfold State.reply; grind -ring -linarith -lia [State.Keeps, State.sendReplies_keeps, State.updMem_keeps]

theorem execMemoryReply_keeps (asid lc k : Nat) (s : State) :
    Outcome.Keeps s (execMemoryReply asid lc k s) := by
  unfold execMemoryReply; grind -ring -linarith -lia [State.Keeps, FireRes.Keeps, FireRes.Keeps.trans, Outcome.Keeps, Outcome.Keeps.trans, State.reply_keeps]

theorem execLaunch_keeps (n : Node) (e1 e2 : BitVec 86) (s : State) :
    Outcome.Keeps s (execLaunch n e1 e2 s) := by
  unfold execLaunch; grind -ring -linarith -lia [State.Keeps, FireRes.Keeps, FireRes.Keeps.trans, Outcome.Keeps, Outcome.Keeps.trans, Ctx.submit_keeps, Ctx.upd_keeps, fire_keeps]

theorem State.markDone_keeps (s : State) (r : HReq) :
    State.Keeps s (State.markDone s r) := by
  unfold State.markDone; grind -ring -linarith -lia [State.Keeps]

theorem State.countDup_keeps (s : State) (r : HReq) :
    State.Keeps s (State.countDup s r) := by
  unfold State.countDup; grind -ring -linarith -lia [State.Keeps, State.updCluster_keeps]

theorem State.noteFloor_keeps (s : State) (r : HReq) :
    State.Keeps s (State.noteFloor s r) := by
  unfold State.noteFloor; grind -ring -linarith -lia [State.Keeps]

theorem State.finishPart_keeps (s : State) (r : HReq) (data : List Byte) (poison : Bool) (stage : Nat) :
    State.Keeps s (State.finishPart s r data poison stage) := by
  unfold State.finishPart; grind -ring -linarith -lia [State.Keeps, State.updMem_keeps]

theorem State.bindPart_keeps (s : State) (r : HReq) (x : LCore) (m : MemAcc) (data : List Byte) (poison : Bool) :
    State.Keeps s (State.bindPart s r x m data poison) := by
  unfold State.bindPart; grind -ring -linarith -lia [State.Keeps, State.finishPart_keeps, State.learnAcq_keeps]

theorem State.doAtomic_keeps (s : State) (r : HReq) (x : LCore) (m : MemAcc) :
    State.Keeps s (State.doAtomic s r x m) := by
  unfold State.doAtomic; grind -ring -linarith -lia [State.Keeps, State.bindPart_keeps, State.markLine_keeps, State.readNote_keeps, State.setBytes_keeps]

theorem State.toHost_keeps (s : State) (k : Nat) :
    State.Keeps s (State.toHost s k) := by
  unfold State.toHost; grind -ring -linarith -lia [State.Keeps]

theorem State.readHome_keeps (s : State) (r : HReq) (x : LCore) (m : MemAcc) :
    State.Keeps s (State.readHome s r x m) := by
  unfold State.readHome; grind -ring -linarith -lia [State.Keeps, State.bindPart_keeps, State.learn_keeps, State.readNote_keeps]

theorem State.homeRead_keeps (s : State) (k : Nat) (r : HReq) :
    State.Keeps s (State.homeRead s k r) := by
  unfold State.homeRead; grind -ring -linarith -lia [State.Keeps, State.readHome_keeps, State.toHost_keeps]

theorem State.homeWrite_keeps (s : State) (k : Nat) (r : HReq) :
    State.Keeps s (State.homeWrite s k r) := by
  unfold State.homeWrite; grind -ring -linarith -lia [State.Keeps, State.countDup_keeps, State.finishPart_keeps, State.markDone_keeps, State.noteFloor_keeps, State.writeLine_keeps]

theorem State.homeAtomic_keeps (s : State) (k : Nat) (r : HReq) :
    State.Keeps s (State.homeAtomic s k r) := by
  unfold State.homeAtomic; grind -ring -linarith -lia [State.Keeps, State.countDup_keeps, State.doAtomic_keeps, State.endMem_keeps, State.markDone_keeps, State.noteFloor_keeps, State.toHost_keeps]

theorem State.homeMcast_keeps (s : State) (k : Nat) (r : HReq) :
    State.Keeps s (State.homeMcast s k r) := by
  unfold State.homeMcast; grind -ring -linarith -lia [State.Keeps, Outcome.Keeps, Outcome.Keeps.trans, State.readNote_keeps, fire_keeps]

theorem execHomeAccess_keeps (k : Nat) (s : State) :
    Outcome.Keeps s (execHomeAccess k s) := by
  unfold execHomeAccess; grind -ring -linarith -lia [State.Keeps, FireRes.Keeps, FireRes.Keeps.trans, Outcome.Keeps, Outcome.Keeps.trans, Ctx.atomic_keeps, State.homeAtomic_keeps, State.homeMcast_keeps, State.homeRead_keeps, State.homeWrite_keeps]

theorem execHostPortCompletion_keeps (k : Nat) (ok : Bool) (s : State) :
    Outcome.Keeps s (execHostPortCompletion k ok s) := by
  unfold execHostPortCompletion
  apply Outcome.Keeps.next
  repeat' first
    | split
    | dsimp only
    | unfold Option.getD
    | grind -ring -linarith -lia [State.Keeps, FireRes.Keeps, FireRes.Keeps.trans, Outcome.Keeps, Outcome.Keeps.trans, Ctx.atomic_keeps, State.bindPart_keeps, State.doAtomic_keeps, State.endMem_keeps, State.finishPart_keeps, State.readHome_keeps]

theorem execWriteResend_keeps (k : Nat) (s : State) :
    Outcome.Keeps s (execWriteResend k s) := by
  unfold execWriteResend; grind -ring -linarith -lia [State.Keeps, FireRes.Keeps, FireRes.Keeps.trans, Outcome.Keeps, Outcome.Keeps.trans, Ctx.atomic_keeps]

theorem execWriteResendExpiry_keeps (k : Nat) (s : State) :
    Outcome.Keeps s (execWriteResendExpiry k s) := by
  unfold execWriteResendExpiry; grind -ring -linarith -lia [State.Keeps, FireRes.Keeps, FireRes.Keeps.trans, Outcome.Keeps, Outcome.Keeps.trans, Ctx.atomic_keeps, State.endMem_keeps]

theorem execStreamComplete_keeps (asid lc k : Nat) (s : State) :
    Outcome.Keeps s (execStreamComplete asid lc k s) := by
  unfold execStreamComplete
  apply Outcome.Keeps.next
  repeat' first
    | split
    | dsimp only
    | unfold Option.getD
    | grind -ring -linarith -lia [State.Keeps, FireRes.Keeps, FireRes.Keeps.trans, Outcome.Keeps, Outcome.Keeps.trans, State.fillStream_keeps, State.learnAcq_keeps, State.reply_keeps, State.updMem_keeps]

theorem execSpeculativeFillComplete_keeps (asid lc k : Nat) (s : State) :
    Outcome.Keeps s (execSpeculativeFillComplete asid lc k s) := by
  unfold execSpeculativeFillComplete
  apply Outcome.Keeps.next
  repeat' first
    | split
    | dsimp only
    | unfold Option.getD
    | grind -ring -linarith -lia [State.Keeps, FireRes.Keeps, FireRes.Keeps.trans, Outcome.Keeps, Outcome.Keeps.trans, State.updLC_keeps]

theorem State.endCopy_keeps (s : State) (cluster : Nat) (j : EJob) (fault : Option Nat) :
    State.Keeps s (State.endCopy s cluster j fault) := by
  unfold State.endCopy
  repeat' first
    | split
    | dsimp only
    | unfold Option.getD
    | grind -ring -linarith -lia [State.Keeps, State.completionToken_keeps, State.updCluster_keeps, State.updLC_keeps]
    | refine State.Keeps.trans ?_ (State.completionToken_keeps ..)
    | refine State.Keeps.trans ?_ (State.updCluster_keeps ..)
    | refine State.Keeps.trans ?_ (State.updLC_keeps ..)
    | (refine State.Keeps.trans ?_ (State.Keeps.foldl _ (fun s a => ?_) _ _) <;> try dsimp only)

theorem State.failCopy_keeps (s : State) (cluster : Nat) (j : EJob) (cause : Cause) (detail : Nat) :
    State.Keeps s (State.failCopy s cluster j cause detail) := by
  unfold State.failCopy; grind -ring -linarith -lia [State.Keeps, State.endCopy_keeps, State.takeTrap_keeps]

theorem State.failNext_keeps (s : State) (asid lc : Nat) (m : MemAcc) (detail : Nat) :
    State.Keeps s (State.failNext s asid lc m detail) := by
  unfold State.failNext; grind -ring -linarith -lia [State.Keeps, State.failStream_keeps]

theorem State.countMiss_keeps (s : State) (w : Miss) :
    State.Keeps s (State.countMiss s w) := by
  unfold State.countMiss; grind -ring -linarith -lia [State.Keeps, State.updLC_keeps]

theorem State.failMiss_keeps (s : State) (vpn : Nat) (cause : Cause) (detail : Nat) (w : Miss) :
    State.Keeps s (State.failMiss s vpn cause detail w) := by
  unfold State.failMiss; grind -ring -linarith -lia [State.Keeps, State.endMeet_keeps, State.endMem_keeps, State.failCopy_keeps, State.failNext_keeps, → State.hold_keeps, State.launchBad_keeps, State.meetFault_keeps, State.takeTrap_keeps, State.updMem_keeps, State.updPitch_keeps]

theorem State.fillMiss_keeps (s : State) (fi : Nat) (t : TlbEntry) (w : Miss) :
    State.Keeps s (State.fillMiss s fi t w) := by
  unfold State.fillMiss; grind -ring -linarith -lia [State.Keeps, State.rcWrite_keeps, State.updCluster_keeps, State.updLC_keeps]

theorem execTlbMissWalk_keeps (field asid vpn : Nat) (who : Miss) (s : State) :
    Outcome.Keeps s (execTlbMissWalk field asid vpn who s) := by
  unfold execTlbMissWalk; grind -ring -linarith -lia [State.Keeps, FireRes.Keeps, FireRes.Keeps.trans, Outcome.Keeps, Outcome.Keeps.trans, State.missAt_keeps]

theorem State.dropWalk_keeps (s : State) (fi k : Nat) :
    State.Keeps s (State.dropWalk s fi k) := by
  unfold State.dropWalk; grind -ring -linarith -lia [State.Keeps, State.updField_keeps]

theorem State.pitchFault_keeps (s : State) (asid vpn : Nat) :
    State.Keeps s (State.pitchFault s asid vpn) := by
  unfold State.pitchFault; grind -ring -linarith -lia [State.Keeps, State.coreTrap_keeps, State.ownerTrap_keeps]

theorem execWalkComplete_keeps (field k : Nat) (s : State) :
    Outcome.Keeps s (execWalkComplete field k s) := by
  unfold execWalkComplete
  apply Outcome.Keeps.next
  repeat' first
    | split
    | dsimp only
    | unfold Option.getD
    | grind -ring -linarith -lia [State.Keeps, FireRes.Keeps, FireRes.Keeps.trans, Outcome.Keeps, Outcome.Keeps.trans, State.countMiss_keeps, State.dropWalk_keeps, State.failMiss_keeps, State.fillMiss_keeps, State.ownerTrap_keeps, State.pitchFault_keeps, State.sendTrap_keeps, State.setAD_keeps, State.updField_keeps, State.walkNote_keeps]
    | refine State.Keeps.trans ?_ (State.countMiss_keeps ..)
    | refine State.Keeps.trans ?_ (State.dropWalk_keeps ..)
    | refine State.Keeps.trans ?_ (State.failMiss_keeps ..)
    | refine State.Keeps.trans ?_ (State.fillMiss_keeps ..)
    | refine State.Keeps.trans ?_ (State.ownerTrap_keeps ..)
    | refine State.Keeps.trans ?_ (State.pitchFault_keeps ..)
    | refine State.Keeps.trans ?_ (State.sendTrap_keeps ..)
    | refine State.Keeps.trans ?_ (State.setAD_keeps ..)
    | refine State.Keeps.trans ?_ (State.updField_keeps ..)
    | refine State.Keeps.trans ?_ (State.walkNote_keeps ..)
    | (refine State.Keeps.trans ?_ (State.Keeps.foldl _ (fun s a => ?_) _ _) <;> try dsimp only)

theorem execPageFaultResolution_keeps (field k : Nat) (leaf : Option DWord) (s : State) :
    Outcome.Keeps s (execPageFaultResolution field k leaf s) := by
  unfold execPageFaultResolution
  apply Outcome.Keeps.next
  repeat' first
    | split
    | dsimp only
    | unfold Option.getD
    | grind -ring -linarith -lia [State.Keeps, FireRes.Keeps, FireRes.Keeps.trans, Outcome.Keeps, Outcome.Keeps.trans, State.assign_keeps, State.countMiss_keeps, State.dropWalk_keeps, State.failMiss_keeps, State.poolLow_keeps, State.setBytes_keeps, State.updField_keeps, State.writeRange_keeps]
    | refine State.Keeps.trans ?_ (State.assign_keeps ..)
    | refine State.Keeps.trans ?_ (State.countMiss_keeps ..)
    | refine State.Keeps.trans ?_ (State.dropWalk_keeps ..)
    | refine State.Keeps.trans ?_ (State.failMiss_keeps ..)
    | refine State.Keeps.trans ?_ (State.poolLow_keeps ..)
    | refine State.Keeps.trans ?_ (State.setBytes_keeps ..)
    | refine State.Keeps.trans ?_ (State.updField_keeps ..)
    | refine State.Keeps.trans ?_ (State.writeRange_keeps ..)
    | (refine State.Keeps.trans ?_ (State.Keeps.foldl _ (fun s a => ?_) _ _) <;> try dsimp only)

theorem execBackingPageTimeout_keeps (field k : Nat) (s : State) :
    Outcome.Keeps s (execBackingPageTimeout field k s) := by
  unfold execBackingPageTimeout
  apply Outcome.Keeps.next
  repeat' first
    | split
    | dsimp only
    | unfold Option.getD
    | grind -ring -linarith -lia [State.Keeps, FireRes.Keeps, FireRes.Keeps.trans, Outcome.Keeps, Outcome.Keeps.trans, State.countMiss_keeps, State.dropWalk_keeps, State.failMiss_keeps]
    | refine State.Keeps.trans ?_ (State.countMiss_keeps ..)
    | refine State.Keeps.trans ?_ (State.dropWalk_keeps ..)
    | refine State.Keeps.trans ?_ (State.failMiss_keeps ..)
    | (refine State.Keeps.trans ?_ (State.Keeps.foldl _ (fun s a => ?_) _ _) <;> try dsimp only)

theorem execInvalidateAll_keeps (field : Nat) (s : State) :
    Outcome.Keeps s (execInvalidateAll field s) := by
  unfold execInvalidateAll; grind -ring -linarith -lia [State.Keeps, FireRes.Keeps, FireRes.Keeps.trans, Outcome.Keeps, Outcome.Keeps.trans, State.updField_keeps]

theorem execInvalidateAsid_keeps (field asid : Nat) (s : State) :
    Outcome.Keeps s (execInvalidateAsid field asid s) := by
  unfold execInvalidateAsid; grind -ring -linarith -lia [State.Keeps, FireRes.Keeps, FireRes.Keeps.trans, Outcome.Keeps, Outcome.Keeps.trans, State.updField_keeps]

theorem execInvalidateRange_keeps (field asid : Nat) (s : State) :
    Outcome.Keeps s (execInvalidateRange field asid s) := by
  unfold execInvalidateRange; grind -ring -linarith -lia [State.Keeps, FireRes.Keeps, FireRes.Keeps.trans, Outcome.Keeps, Outcome.Keeps.trans, State.updField_keeps]

theorem execInvalidationComplete_keeps (field : Nat) (s : State) :
    Outcome.Keeps s (execInvalidationComplete field s) := by
  unfold execInvalidationComplete; grind -ring -linarith -lia [State.Keeps, FireRes.Keeps, FireRes.Keeps.trans, Outcome.Keeps, Outcome.Keeps.trans, State.updField_keeps]

end Sys2Proof.Machine
end

