-- ==== Sys2Proof/Laws/KeepsTiles.lean ====
section
/-! SUPPORT. What these operations keep of a state (`State.Keeps`): tiles, copies, tables, counters and meeting commands. -/
namespace Sys2Proof.Machine
open Sys2Proof
set_option Elab.async false

theorem Ctx.tileAcc_keeps (c : Ctx) (add : Option Token) (n : Nat) (k : Tile → Nat → FireRes) (s : State)
    (hk : ∀ t o, FireRes.Keeps s (k t o)) : FireRes.Keeps s (Ctx.tileAcc c add n k) := by
  unfold Ctx.tileAcc
  dsimp only
  (repeat' split) <;> first | trivial | exact hk _ _

theorem execTld_keeps (n : Node) (s : State) :
    Outcome.Keeps s (execTld n s) := by
  unfold execTld; grind -ring -linarith -lia [State.Keeps, FireRes.Keeps, FireRes.Keeps.trans, Outcome.Keeps, Outcome.Keeps.trans, Ctx.emitBoth_keeps, Ctx.tileAcc_keeps, Ctx.upd_keeps, → State.hold_keeps, fire_keeps]

theorem execTst_keeps (n : Node) (s : State) :
    Outcome.Keeps s (execTst n s) := by
  unfold execTst; grind -ring -linarith -lia [State.Keeps, FireRes.Keeps, FireRes.Keeps.trans, Outcome.Keeps, Outcome.Keeps.trans, Ctx.passA_keeps, Ctx.tileAcc_keeps, Ctx.upd_keeps, → State.hold_keeps, fire_keeps]

theorem Ctx.copyCmd_keeps (c : Ctx) (n : Node) (e1 e2 : BitVec 86) :
    FireRes.Keeps c.s (Ctx.copyCmd c n e1 e2) := by
  unfold Ctx.copyCmd
  extract_lets third ps needsA own src
  repeat' split
  all_goals first
    | exact trivial
    | grind -ring -linarith -lia [State.Keeps, FireRes.Keeps, FireRes.Keeps.trans, Ctx.upd_keeps, → State.hold_keeps]

theorem execCpy_keeps (n : Node) (e1 : BitVec 86) (s : State) :
    Outcome.Keeps s (execCpy n e1 s) := by
  unfold execCpy; grind -ring -linarith -lia [State.Keeps, FireRes.Keeps, FireRes.Keeps.trans, Outcome.Keeps, Outcome.Keeps.trans, Ctx.copyCmd_keeps, fire_keeps]

theorem execCpyd_keeps (n : Node) (e1 : BitVec 86) (s : State) :
    Outcome.Keeps s (execCpyd n e1 s) := by
  unfold execCpyd; grind -ring -linarith -lia [State.Keeps, FireRes.Keeps, FireRes.Keeps.trans, Outcome.Keeps, Outcome.Keeps.trans, Ctx.copyCmd_keeps, fire_keeps]

theorem execCpye_keeps (n : Node) (e1 : BitVec 86) (s : State) :
    Outcome.Keeps s (execCpye n e1 s) := by
  unfold execCpye; grind -ring -linarith -lia [State.Keeps, FireRes.Keeps, FireRes.Keeps.trans, Outcome.Keeps, Outcome.Keeps.trans, Ctx.copyCmd_keeps, fire_keeps]

theorem execMcast_keeps (n : Node) (e1 e2 : BitVec 86) (s : State) :
    Outcome.Keeps s (execMcast n e1 e2 s) := by
  unfold execMcast; grind -ring -linarith -lia [State.Keeps, FireRes.Keeps, FireRes.Keeps.trans, Outcome.Keeps, Outcome.Keeps.trans, Ctx.copyCmd_keeps, fire_keeps]

theorem execGath_keeps (n : Node) (e1 : BitVec 86) (s : State) :
    Outcome.Keeps s (execGath n e1 s) := by
  unfold execGath; grind -ring -linarith -lia [State.Keeps, FireRes.Keeps, FireRes.Keeps.trans, Outcome.Keeps, Outcome.Keeps.trans, Ctx.copyCmd_keeps, fire_keeps]

theorem execScat_keeps (n : Node) (e1 : BitVec 86) (s : State) :
    Outcome.Keeps s (execScat n e1 s) := by
  unfold execScat; grind -ring -linarith -lia [State.Keeps, FireRes.Keeps, FireRes.Keeps.trans, Outcome.Keeps, Outcome.Keeps.trans, Ctx.copyCmd_keeps, fire_keeps]

theorem Ctx.cbCmd_keeps (c : Ctx) (n : Node) :
    FireRes.Keeps c.s (Ctx.cbCmd c n) := by
  unfold Ctx.cbCmd; grind -ring -linarith -lia [State.Keeps, FireRes.Keeps, FireRes.Keeps.trans, Ctx.upd_keeps, → State.hold_keeps]

theorem execTfill_keeps (n : Node) (s : State) :
    Outcome.Keeps s (execTfill n s) := by
  unfold execTfill; grind -ring -linarith -lia [State.Keeps, FireRes.Keeps, FireRes.Keeps.trans, Outcome.Keeps, Outcome.Keeps.trans, Ctx.cbCmd_keeps, fire_keeps]

theorem execTevict_keeps (n : Node) (s : State) :
    Outcome.Keeps s (execTevict n s) := by
  unfold execTevict; grind -ring -linarith -lia [State.Keeps, FireRes.Keeps, FireRes.Keeps.trans, Outcome.Keeps, Outcome.Keeps.trans, Ctx.cbCmd_keeps, fire_keeps]

theorem execTinv_keeps (n : Node) (s : State) :
    Outcome.Keeps s (execTinv n s) := by
  unfold execTinv; grind -ring -linarith -lia [State.Keeps, FireRes.Keeps, FireRes.Keeps.trans, Outcome.Keeps, Outcome.Keeps.trans, Ctx.cbCmd_keeps, fire_keeps]

theorem State.setCopy_keeps (s : State) (cluster : Nat) (j : EJob) :
    State.Keeps s (State.setCopy s cluster j) := by
  unfold State.setCopy; grind -ring -linarith -lia [State.Keeps, State.updCluster_keeps]

theorem State.jobPieces_keeps (s : State) (cluster : Nat) (j : EJob) (e0 : List (Nat × Nat)) :
    ∀ t a b, State.jobPieces s cluster j e0 = .ok t a b → State.Keeps s t := by
  fun_induction State.jobPieces s cluster j e0 <;> grind -ring -linarith -lia [State.Keeps, Outcome.Keeps, Outcome.Keeps.trans, State.readNote_keeps, → State.xlEngine_keeps, fire_keeps]

theorem State.jobRead_keeps (s : State) (cluster : Nat) (j : EJob) (p n : Nat) :
    ∀ t a b, State.jobRead s cluster j p n = .ok t a b → State.Keeps s t := by
  unfold State.jobRead; intros; (repeat' (split at *)) <;> grind -ring -linarith -lia [State.Keeps, → State.jobPieces_keeps]

theorem State.indexEntry_keeps (s : State) (cluster : Nat) (j : EJob) (row : Nat) :
    ∀ t a0, State.indexEntry s cluster j row = .ok (t, a0) → State.Keeps s t := by
  unfold State.indexEntry; grind -ring -linarith -lia [State.Keeps, → State.jobRead_keeps]

theorem State.indexEntry_error (s : State) (cluster : Nat) (j : EJob) (row : Nat) (e : Rd) (t : State) (a : List Byte) (b : Bool)
    (h : s.indexEntry cluster j row = .error e) : e ≠ .ok t a b := by
  unfold State.indexEntry at h
  (repeat' split at h) <;> grind

theorem State.jobSource_keeps (s : State) (cluster : Nat) (j : EJob) (off n : Nat) :
    ∀ t a b, State.jobSource s cluster j off n = .ok t a b → State.Keeps s t := by
  unfold State.jobSource
  intro t a b h
  split at h
  · split at h
    · simp at h
    · injection h with h; subst h; exact .refl _
  · split at h
    · split at h
      · rename_i he; exact (State.indexEntry_keeps _ _ _ _ _ _ he).trans (State.jobRead_keeps _ _ _ _ _ _ _ _ h)
      · rename_i e he; exact absurd h (State.indexEntry_error _ _ _ _ _ _ _ _ he)
    · exact State.jobRead_keeps _ _ _ _ _ _ _ _ h

theorem State.jobDest_keeps (s : State) (cluster : Nat) (j : EJob) (off : Nat) :
    ∀ t a0, State.jobDest s cluster j off = .ok (t, a0) → State.Keeps s t := by
  unfold State.jobDest; grind -ring -linarith -lia [State.Keeps, → State.indexEntry_keeps]

theorem State.decodeBlock_keeps (s : State) (cluster : Nat) (j : EJob) :
    ∀ t a0 a1 a2, State.decodeBlock s cluster j = .ok (t, a0, a1, a2) → State.Keeps s t := by
  unfold State.decodeBlock
  intro t a0 a1 a2 h
  dsimp only at h
  split at h
  · injection h with h; injection h with h1 h2; subst h1; exact .refl _
  · split at h
    · rename_i r1
      have k1 := State.jobRead_keeps _ _ _ _ _ _ _ _ r1
      split at h
      · injection h with h; injection h with h1 h2; subst h1; exact k1.trans (State.raiseEvent_keeps ..)
      · split at h
        · rename_i r2
          have k2 := k1.trans (State.jobRead_keeps _ _ _ _ _ _ _ _ r2)
          split at h
          · injection h with h; injection h with h1 h2; subst h1; exact k2.trans (State.raiseEvent_keeps ..)
          · injection h with h; injection h with h1 h2; subst h1; exact k2
        · simp at h
    · simp at h

theorem State.jobLine_keeps (s : State) (cluster : Nat) (j : EJob) :
    ∀ t a0 a1 a2, State.jobLine s cluster j = .ok (t, a0, a1, a2) → State.Keeps s t := by
  unfold State.jobLine; intros; (repeat' (split at *)) <;> grind -ring -linarith -lia [State.Keeps, → State.decodeBlock_keeps, → State.jobSource_keeps]

theorem State.jobStop_keeps (s : State) (cluster : Nat) (j : EJob) (r : Rd) :
    State.Keeps s (State.jobStop s cluster j r) := by
  unfold State.jobStop; grind -ring -linarith -lia [State.Keeps, State.failCopy_keeps, State.missAt_keeps, State.noteEngine_keeps, State.setCopy_keeps]

theorem State.writeOwned_keeps (s : State) (cluster : Nat) (fuel : Nat) (j : EJob) :
    State.Keeps s (State.writeOwned s cluster fuel j) := by
  fun_induction State.writeOwned s cluster fuel j <;> grind -ring -linarith -lia [State.Keeps, → State.jobLine_keeps, State.jobStop_keeps, State.setCopy_keeps, State.writeLine_keeps]

theorem State.writeBuf_keeps (s : State) (j : EJob) (base : Nat) :
    State.Keeps s (State.writeBuf s j base) := by
  unfold State.writeBuf
  repeat' first
    | split
    | dsimp only
    | unfold Option.getD
    | grind -ring -linarith -lia [State.Keeps, State.writeLine_keeps]
    | refine State.Keeps.trans ?_ (State.writeLine_keeps ..)
    | (refine State.Keeps.trans ?_ (State.Keeps.foldl _ (fun s a => ?_) _ _) <;> try dsimp only)

theorem State.ownPage_keeps (s : State) (cluster : Nat) (j : EJob) (p n : Nat) :
    ∀ t a0, State.ownPage s cluster j p n = .ok (t, a0) → State.Keeps s t := by
  unfold State.ownPage; grind -ring -linarith -lia [State.Keeps, Outcome.Keeps, Outcome.Keeps.trans, → State.xlEngine_keeps, fire_keeps]

theorem State.takeLines_keeps (s : State) (cluster : Nat) (j : EJob) (p n : Nat) :
    State.Keeps s (State.takeLines s cluster j p n) := by
  unfold State.takeLines; grind -ring -linarith -lia [State.Keeps, State.jobStop_keeps, → State.ownPage_keeps, State.setCopy_keeps]

theorem State.encodeMore_keeps (s : State) (cluster : Nat) (fuel need : Nat) (j : EJob) :
    ∀ t a0, State.encodeMore s cluster fuel need j = .ok (t, a0) → State.Keeps s t := by
  fun_induction State.encodeMore s cluster fuel need j <;> grind -ring -linarith -lia [State.Keeps, → State.jobSource_keeps]

theorem State.tileMoved_keeps (s : State) (cluster : Nat) (j : EJob) :
    State.Keeps s (State.tileMoved s cluster j) := by
  unfold State.tileMoved
  repeat' first
    | split
    | dsimp only
    | unfold Option.getD
    | grind -ring -linarith -lia [State.Keeps, State.setCopy_keeps, State.updLC_keeps]
    | refine State.Keeps.trans ?_ (State.setCopy_keeps ..)
    | refine State.Keeps.trans ?_ (State.updLC_keeps ..)
    | (refine State.Keeps.trans ?_ (State.Keeps.foldl _ (fun s a => ?_) _ _) <;> try dsimp only)

theorem State.moveTile_keeps (s : State) (cluster : Nat) (fuel : Nat) (j : EJob) :
    State.Keeps s (State.moveTile s cluster fuel j) := by
  induction fuel generalizing s j with
  | zero => exact State.tileMoved_keeps ..
  | succ n ih =>
    simp only [State.moveTile]
    split
    · exact State.tileMoved_keeps ..
    · split
      · exact State.jobStop_keeps ..
      · rename_i h
        exact ((State.jobLine_keeps _ _ _ _ _ _ _ h).trans (State.Keeps.foldl _ (fun s lc => State.updLC_keeps ..) _ _)).trans (ih _ _)

theorem State.startCb_keeps (s : State) (cluster : Nat) (j : EJob) (x : LCore) :
    State.Keeps s (State.startCb s cluster j x) := by
  unfold State.startCb; grind -ring -linarith -lia [State.Keeps, Ctx.upd_keeps, State.failCopy_keeps, State.setCopy_keeps, State.updLC_keeps]

theorem State.moveCb_keeps (s : State) (cluster : Nat) (j : EJob) :
    State.Keeps s (State.moveCb s cluster j) := by
  unfold State.moveCb
  repeat' first
    | split
    | dsimp only
    | unfold Option.getD
    | grind -ring -linarith -lia [State.Keeps, → State.jobRead_keeps, State.jobStop_keeps, State.setCopy_keeps, State.takeLines_keeps, State.updLC_keeps, State.writeBuf_keeps]
    | refine State.Keeps.trans ?_ (State.jobStop_keeps ..)
    | refine State.Keeps.trans ?_ (State.setCopy_keeps ..)
    | refine State.Keeps.trans ?_ (State.takeLines_keeps ..)
    | refine State.Keeps.trans ?_ (State.updLC_keeps ..)
    | refine State.Keeps.trans ?_ (State.writeBuf_keeps ..)
    | (refine State.Keeps.trans ?_ (State.Keeps.foldl _ (fun s a => ?_) _ _) <;> try dsimp only)

theorem execCopyJobStart_keeps (cluster k : Nat) (s : State) :
    Outcome.Keeps s (execCopyJobStart cluster k s) := by
  unfold execCopyJobStart; grind -ring -linarith -lia [State.Keeps, FireRes.Keeps, FireRes.Keeps.trans, Outcome.Keeps, Outcome.Keeps.trans, State.failCopy_keeps, State.fresh_keeps, State.setCopy_keeps, State.startCb_keeps, State.updLC_keeps]

theorem State.mcastPage_keeps (s : State) (cluster : Nat) (j : EJob) :
    State.Keeps s (State.mcastPage s cluster j) := by
  unfold State.mcastPage; grind -ring -linarith -lia [State.Keeps, State.failCopy_keeps, State.jobStop_keeps, State.setCopy_keeps, → State.xlEngine_keeps]

theorem execCopyTileClaim_keeps (cluster k : Nat) (s : State) :
    Outcome.Keeps s (execCopyTileClaim cluster k s) := by
  unfold execCopyTileClaim; grind -ring -linarith -lia [State.Keeps, FireRes.Keeps, FireRes.Keeps.trans, Outcome.Keeps, Outcome.Keeps.trans, State.mcastPage_keeps, State.setCopy_keeps, State.updLC_keeps]

theorem State.moveMem_keeps (s : State) (cluster : Nat) (j : EJob) :
    State.Keeps s (State.moveMem s cluster j) := by
  unfold State.moveMem; grind -ring -linarith -lia [State.Keeps, → State.encodeMore_keeps, → State.jobDest_keeps, State.jobStop_keeps, State.setCopy_keeps, State.takeLines_keeps, State.writeBuf_keeps, State.writeOwned_keeps]

theorem execEngineLineOwnership_keeps (cluster k : Nat) (s : State) :
    Outcome.Keeps s (execEngineLineOwnership cluster k s) := by
  unfold execEngineLineOwnership; grind -ring -linarith -lia [State.Keeps, FireRes.Keeps, FireRes.Keeps.trans, Outcome.Keeps, Outcome.Keeps.trans, State.moveCb_keeps, State.moveMem_keeps, State.moveTile_keeps]

theorem execCopyJobRetire_keeps (cluster k : Nat) (s : State) :
    Outcome.Keeps s (execCopyJobRetire cluster k s) := by
  unfold execCopyJobRetire; grind -ring -linarith -lia [State.Keeps, FireRes.Keeps, FireRes.Keeps.trans, Outcome.Keeps, Outcome.Keeps.trans, State.endCopy_keeps, State.jobStop_keeps, → State.ownPage_keeps, State.writeLine_keeps]

theorem execMulticastDelivery_keeps (k : Nat) (s : State) :
    Outcome.Keeps s (execMulticastDelivery k s) := by
  unfold execMulticastDelivery
  apply Outcome.Keeps.next
  repeat' first
    | split
    | dsimp only
    | unfold Option.getD
    | grind -ring -linarith -lia [State.Keeps, FireRes.Keeps, FireRes.Keeps.trans, Outcome.Keeps, Outcome.Keeps.trans, State.setCopy_keeps, State.updLC_keeps]
    | refine State.Keeps.trans ?_ (State.setCopy_keeps ..)
    | refine State.Keeps.trans ?_ (State.updLC_keeps ..)
    | (refine State.Keeps.trans ?_ (State.Keeps.foldl _ (fun s a => ?_) _ _) <;> try dsimp only)

theorem Ctx.control_keeps (c : Ctx) (lit : Nat) (k : Nat → FireRes) (s : State) (hk : ∀ i, FireRes.Keeps s (k i)) :
    FireRes.Keeps s (Ctx.control c lit k) := by
  unfold Ctx.control
  (repeat' split) <;> first | trivial | exact hk _

theorem execLookup_keeps (n : Node) (s : State) :
    Outcome.Keeps s (execLookup n s) := by
  unfold execLookup; grind -ring -linarith -lia [State.Keeps, FireRes.Keeps, FireRes.Keeps.trans, Outcome.Keeps, Outcome.Keeps.trans, Ctx.emitBoth_keeps, Ctx.upd_keeps, → State.hold_keeps, fire_keeps]

theorem execTstate_keeps (n : Node) (s : State) :
    Outcome.Keeps s (execTstate n s) := by
  unfold execTstate; grind -ring -linarith -lia [State.Keeps, FireRes.Keeps, FireRes.Keeps.trans, Outcome.Keeps, Outcome.Keeps.trans, Ctx.emitBoth_keeps, fire_keeps]

theorem execTset_keeps (n : Node) (s : State) :
    Outcome.Keeps s (execTset n s) := by
  unfold execTset; grind -ring -linarith -lia [State.Keeps, FireRes.Keeps, FireRes.Keeps.trans, Outcome.Keeps, Outcome.Keeps.trans, Ctx.emitBoth_keeps, Ctx.upd_keeps, fire_keeps]

theorem Ctx.routeIdx_keeps (c : Ctx) (k : Nat → FireRes) (s : State) (hk : ∀ i, FireRes.Keeps s (k i)) :
    FireRes.Keeps s (Ctx.routeIdx c k) := by
  unfold Ctx.routeIdx
  apply Ctx.control_keeps
  intro i
  split <;> first | trivial | exact hk _

theorem execRtrd_keeps (n : Node) (s : State) :
    Outcome.Keeps s (execRtrd n s) := by
  unfold execRtrd; grind -ring -linarith -lia [State.Keeps, FireRes.Keeps, FireRes.Keeps.trans, Outcome.Keeps, Outcome.Keeps.trans, Ctx.emitBoth_keeps, Ctx.routeIdx_keeps, fire_keeps]

theorem execRtwr_keeps (n : Node) (s : State) :
    Outcome.Keeps s (execRtwr n s) := by
  unfold execRtwr; grind -ring -linarith -lia [State.Keeps, FireRes.Keeps, FireRes.Keeps.trans, Outcome.Keeps, Outcome.Keeps.trans, Ctx.control_keeps, Ctx.emitBoth_keeps, Ctx.routeIdx_keeps, Ctx.upd_keeps, fire_keeps]

theorem execMaprd_keeps (n : Node) (s : State) :
    Outcome.Keeps s (execMaprd n s) := by
  unfold execMaprd; grind -ring -linarith -lia [State.Keeps, FireRes.Keeps, FireRes.Keeps.trans, Outcome.Keeps, Outcome.Keeps.trans, Ctx.control_keeps, fire_keeps]

theorem execMappingUnitRequest_keeps (k : Nat) (s : State) :
    Outcome.Keeps s (execMappingUnitRequest k s) := by
  unfold execMappingUnitRequest; grind -ring -linarith -lia [State.Keeps, FireRes.Keeps, FireRes.Keeps.trans, Outcome.Keeps, Outcome.Keeps.trans, State.deliver_keeps, State.send_keeps, fire_keeps]

theorem execBandrd_keeps (n : Node) (s : State) :
    Outcome.Keeps s (execBandrd n s) := by
  unfold execBandrd; grind -ring -linarith -lia [State.Keeps, FireRes.Keeps, FireRes.Keeps.trans, Outcome.Keeps, Outcome.Keeps.trans, Ctx.control_keeps, Ctx.emitBoth_keeps, fire_keeps]

theorem Ctx.counterOp_keeps (c : Ctx) (lit : Nat) (k : Nat → FireRes) (s : State) (hk : ∀ i, FireRes.Keeps s (k i)) :
    FireRes.Keeps s (Ctx.counterOp c lit k) := by
  unfold Ctx.counterOp
  (repeat' split) <;> first | trivial | exact hk _

theorem execTime_keeps (n : Node) (s : State) :
    Outcome.Keeps s (execTime n s) := by
  unfold execTime; grind -ring -linarith -lia [State.Keeps, FireRes.Keeps, FireRes.Keeps.trans, Outcome.Keeps, Outcome.Keeps.trans, Ctx.emitBoth_keeps, fire_keeps]

theorem execToffs_keeps (n : Node) (s : State) :
    Outcome.Keeps s (execToffs n s) := by
  unfold execToffs; grind -ring -linarith -lia [State.Keeps, FireRes.Keeps, FireRes.Keeps.trans, Outcome.Keeps, Outcome.Keeps.trans, Ctx.counterOp_keeps, Ctx.emitBoth_keeps, fire_keeps]

theorem execCntrd_keeps (n : Node) (s : State) :
    Outcome.Keeps s (execCntrd n s) := by
  unfold execCntrd; grind -ring -linarith -lia [State.Keeps, FireRes.Keeps, FireRes.Keeps.trans, Outcome.Keeps, Outcome.Keeps.trans, Ctx.counterOp_keeps, Ctx.emitBoth_keeps, fire_keeps]

theorem execCntwr_keeps (n : Node) (s : State) :
    Outcome.Keeps s (execCntwr n s) := by
  unfold execCntwr; grind -ring -linarith -lia [State.Keeps, FireRes.Keeps, FireRes.Keeps.trans, Outcome.Keeps, Outcome.Keeps.trans, Ctx.emitBoth_keeps, Ctx.upd_keeps, fire_keeps]

theorem execExt_keeps (_v : BitVec 86) (s : State) :
    Outcome.Keeps s (execExt _v s) := by
  unfold execExt; grind -ring -linarith -lia [State.Keeps, FireRes.Keeps, FireRes.Keeps.trans, Outcome.Keeps, Outcome.Keeps.trans, State.firingTraps_keeps]

theorem Ctx.meetCmd_keeps (c : Ctx) (n : Node) (e1 e2 : BitVec 86) (w : Word) :
    FireRes.Keeps c.s (Ctx.meetCmd c n e1 e2 w) := by
  unfold Ctx.meetCmd; grind -ring -linarith -lia [State.Keeps, FireRes.Keeps, FireRes.Keeps.trans, Ctx.upd_keeps, → State.hold_keeps]

theorem Ctx.memberWord_keeps (c : Ctx) (w : Nat) (k : Word → FireRes) (s : State) (hk : ∀ x, FireRes.Keeps s (k x)) :
    FireRes.Keeps s (Ctx.memberWord c w k) := by
  unfold Ctx.memberWord; dsimp only; (repeat' split) <;> first | trivial | exact hk _

theorem Ctx.ownerWord_keeps (c : Ctx) (k : Word → FireRes) (s : State) (hk : ∀ x, FireRes.Keeps s (k x)) :
    FireRes.Keeps s (Ctx.ownerWord c k) := by
  unfold Ctx.ownerWord; (repeat' split) <;> first | trivial | exact hk _ | exact Ctx.memberWord_keeps _ _ _ _ hk

theorem execQopen_keeps (n : Node) (e1 e2 : BitVec 86) (s : State) :
    Outcome.Keeps s (execQopen n e1 e2 s) := by
  unfold execQopen; grind -ring -linarith -lia [State.Keeps, FireRes.Keeps, FireRes.Keeps.trans, Outcome.Keeps, Outcome.Keeps.trans, Ctx.meetCmd_keeps, fire_keeps]

theorem execQcontrib_keeps (n : Node) (s : State) :
    Outcome.Keeps s (execQcontrib n s) := by
  unfold execQcontrib
  apply fire_keeps_from; intro c hc; (try dsimp only)
  (repeat' split) <;> try trivial
  repeat' first
    | split
    | dsimp only
    | unfold Option.getD
    | grind -ring -linarith -lia [State.Keeps, FireRes.Keeps, FireRes.Keeps.trans, Outcome.Keeps, Outcome.Keeps.trans, Ctx.meetCmd_keeps, Ctx.memberWord_keeps, fire_keeps]

theorem execQclose_keeps (n : Node) (s : State) :
    Outcome.Keeps s (execQclose n s) := by
  unfold execQclose
  apply fire_keeps_from; intro c hc; (try dsimp only)
  (repeat' split) <;> try trivial
  repeat' first
    | split
    | dsimp only
    | unfold Option.getD
    | grind -ring -linarith -lia [State.Keeps, FireRes.Keeps, FireRes.Keeps.trans, Outcome.Keeps, Outcome.Keeps.trans, Ctx.meetCmd_keeps, Ctx.ownerWord_keeps, fire_keeps]

theorem execQstat_keeps (n : Node) (s : State) :
    Outcome.Keeps s (execQstat n s) := by
  unfold execQstat
  apply fire_keeps_from; intro c hc; (try dsimp only)
  (repeat' split) <;> try trivial
  repeat' first
    | split
    | dsimp only
    | unfold Option.getD
    | grind -ring -linarith -lia [State.Keeps, FireRes.Keeps, FireRes.Keeps.trans, Outcome.Keeps, Outcome.Keeps.trans, Ctx.meetCmd_keeps, Ctx.ownerWord_keeps, fire_keeps]

theorem execQlag_keeps (n : Node) (s : State) :
    Outcome.Keeps s (execQlag n s) := by
  unfold execQlag
  apply fire_keeps_from; intro c hc; (try dsimp only)
  (repeat' split) <;> try trivial
  repeat' first
    | split
    | dsimp only
    | unfold Option.getD
    | grind -ring -linarith -lia [State.Keeps, FireRes.Keeps, FireRes.Keeps.trans, Outcome.Keeps, Outcome.Keeps.trans, Ctx.meetCmd_keeps, Ctx.ownerWord_keeps, fire_keeps]

theorem execQwset_keeps (n : Node) (s : State) :
    Outcome.Keeps s (execQwset n s) := by
  unfold execQwset; grind -ring -linarith -lia [State.Keeps, FireRes.Keeps, FireRes.Keeps.trans, Outcome.Keeps, Outcome.Keeps.trans, Ctx.meetCmd_keeps, fire_keeps]

theorem execCwalk_keeps (n : Node) (e1 : BitVec 86) (s : State) :
    Outcome.Keeps s (execCwalk n e1 s) := by
  unfold execCwalk; grind -ring -linarith -lia [State.Keeps, FireRes.Keeps, FireRes.Keeps.trans, Outcome.Keeps, Outcome.Keeps.trans, Ctx.meetCmd_keeps, fire_keeps]

theorem State.choose_keeps (s : State) (l : List Nat) :
    ∀ a t, State.choose s l = some (a, t) → State.Keeps s t := by
  unfold State.choose; grind -ring -linarith -lia [State.Keeps]

theorem State.openMeeting_keeps (s : State) (fi : Nat) (j : EJob) :
    State.Keeps s (State.openMeeting s fi j) := by
  unfold State.openMeeting; grind -ring -linarith -lia [State.Keeps, Outcome.Keeps, Outcome.Keeps.trans, → State.choose_keeps, State.dropMeet_keeps, State.endMeet_keeps, State.failMeet_keeps, State.missAt_keeps, State.setMeeting_keeps, State.takeTrap_keeps, → State.writeMembers_keeps, fire_keeps]

theorem State.setWeights_keeps (s : State) (fi : Nat) (j : EJob) :
    State.Keeps s (State.setWeights s fi j) := by
  unfold State.setWeights; grind -ring -linarith -lia [State.Keeps, Outcome.Keeps, Outcome.Keeps.trans, Ctx.upd_keeps, → State.choose_keeps, State.endMeet_keeps, State.failMeet_keeps, State.updField_keeps, State.updPitch_keeps, fire_keeps]

theorem State.startWalk_keeps (s : State) (fi : Nat) (j : EJob) :
    State.Keeps s (State.startWalk s fi j) := by
  unfold State.startWalk
  repeat' first
    | split
    | dsimp only
    | unfold Option.getD
    | grind -ring -linarith -lia [State.Keeps, Outcome.Keeps, Outcome.Keeps.trans, State.endMeet_keeps, State.failMeet_keeps, State.meetFault_keeps, State.missAt_keeps, State.setMeeting_keeps, State.setWalker_keeps, → State.startChunks_keeps, State.updField_keeps, fire_keeps]

theorem URes.faultTo_keeps (s : State) (r : URes State) (u : State) (hr : ∀ t, r = .ok t → State.Keeps s t) (hu : State.Keeps s u) :
    ∀ t, URes.faultTo r u = .ok t → State.Keeps s t := by
  unfold URes.faultTo
  intro t h
  split at h
  · injection h with h; subst h; exact hu
  · exact hr t h

theorem State.homeCommand_keeps (s : State) (fi : Nat) (j : EJob) :
    ∀ t, State.homeCommand s fi j = .ok t → State.Keeps s t := by
  unfold State.homeCommand
  intro t h
  dsimp only at h
  have ans (l : List Word) : State.Keeps s ((s.dropMeet j).jobToken .meet j.aux j false l false) :=
    (State.dropMeet_keeps ..).trans (State.jobToken_keeps ..)
  split at h
  · split at h <;> (injection h with h; subst h; exact ans _)
  · split at h
    · split at h
      · injection h with h; subst h; exact ans _
      · split at h
        · injection h with h; subst h; exact ans _
        · split at h
          · exact URes.faultTo_keeps s _ _
              (fun u hu => ((ans _).trans (State.setMeeting_keeps ..)).trans (State.writeMember_keeps _ _ _ _ _ hu))
              ((ans _).trans (State.meetFault_keeps ..)) t h
          · injection h with h; subst h; exact ans _
    · split at h
      · injection h with h; subst h; exact State.failMeet_keeps ..
      · split at h
        · injection h with h; subst h; exact (State.removeMeeting_keeps ..).trans (State.endMeet_keeps ..)
        · split at h
          · injection h with h; subst h; exact State.failMeet_keeps ..
          · refine URes.faultTo_keeps s _ _ (fun u hu => ?_) ((State.meetFault_keeps ..).trans (State.endMeet_keeps ..)) t h
            obtain ⟨q, hq, hu⟩ := URes.bind_ok hu
            injection hu with hu; subst hu
            exact (State.forceClose_keeps _ _ _ _ _ hq).trans (State.endMeet_keeps ..)

theorem State.homeStep_keeps (s : State) (fi : Nat) (j : EJob) (taken : State) (ht : State.Keeps s taken) :
    State.Keeps s (State.homeStep s fi j taken) := by
  unfold State.homeStep
  split
  · rename_i h; exact ht.trans (State.homeCommand_keeps _ _ _ _ h)
  · exact State.missAt_keeps ..
  · exact .refl _

theorem State.moveUp_keeps (s : State) (j : EJob) (home : Nat) :
    State.Keeps s (State.moveUp s j home) := by
  unfold State.moveUp; grind -ring -linarith -lia [State.Keeps]

theorem State.leaveWafer_keeps (s : State) (fi : Nat) (j : EJob) :
    State.Keeps s (State.leaveWafer s fi j) := by
  unfold State.leaveWafer; grind -ring -linarith -lia [State.Keeps, Outcome.Keeps, Outcome.Keeps.trans, State.sendAs_keeps, fire_keeps]

theorem State.walkOff_keeps (s : State) (fi : Nat) (j : EJob) :
    State.Keeps s (State.walkOff s fi j) := by
  unfold State.walkOff; grind -ring -linarith -lia [State.Keeps, Outcome.Keeps, Outcome.Keeps.trans, State.failMeet_keeps, State.leaveWafer_keeps, State.setWalker_keeps, State.updField_keeps, fire_keeps]

theorem State.localCommand_keeps (s : State) (fi : Nat) (j : EJob) :
    State.Keeps s (State.localCommand s fi j) := by
  unfold State.localCommand; grind -ring -linarith -lia [State.Keeps, Outcome.Keeps, Outcome.Keeps.trans, State.homeStep_keeps, State.leaveWafer_keeps, State.openMeeting_keeps, State.setWeights_keeps, State.startWalk_keeps, State.updField_keeps, State.walkOff_keeps, fire_keeps]

theorem execMeetingCommandDequeue_keeps (field k : Nat) (s : State) :
    Outcome.Keeps s (execMeetingCommandDequeue field k s) := by
  unfold execMeetingCommandDequeue; grind -ring -linarith -lia [State.Keeps, FireRes.Keeps, FireRes.Keeps.trans, Outcome.Keeps, Outcome.Keeps.trans, State.homeStep_keeps, State.localCommand_keeps, State.moveUp_keeps]

theorem execContributionArrival_keeps (field k : Nat) (s : State) :
    Outcome.Keeps s (execContributionArrival field k s) := by
  unfold execContributionArrival; grind -ring -linarith -lia [State.Keeps, FireRes.Keeps, FireRes.Keeps.trans, Outcome.Keeps, Outcome.Keeps.trans, → State.contribute_keeps, State.endMeet_keeps, State.meetFault_keeps, State.missAt_keeps, State.moveUp_keeps, State.setMeeting_keeps]

theorem execRoundTimeout_keeps (field e : Nat) (s : State) :
    Outcome.Keeps s (execRoundTimeout field e s) := by
  unfold execRoundTimeout; grind -ring -linarith -lia [State.Keeps, FireRes.Keeps, FireRes.Keeps.trans, Outcome.Keeps, Outcome.Keeps.trans, State.missAll_keeps, State.quorumEvent_keeps, State.setMeeting_keeps, State.unitStep_keeps, → State.writeMembers_keeps]

end Sys2Proof.Machine
end

