-- ==== Sys2Proof/Laws/KeepsPitch.lean ====
section
/-! SUPPORT. What these operations keep of a state (`State.Keeps`): pitches: admission, preemption, regions and retirement. -/
namespace Sys2Proof.Machine
open Sys2Proof
set_option Elab.async false

theorem State.writeCompletion_keeps (s : State) (l : Launch) (e : EndRec) (tAdmit : DWord) (preempts evw evd : Nat) :
    State.Keeps s (State.writeCompletion s l e tAdmit preempts evw evd) := by
  unfold State.writeCompletion; grind -ring -linarith -lia [State.Keeps, State.fresh_keeps, State.launchBad_keeps, State.rcWrite_keeps]

theorem State.reject_keeps (s : State) (l : Launch) (e : EndRec) :
    State.Keeps s (State.reject s l e) := by
  unfold State.reject; grind -ring -linarith -lia [State.Keeps, State.writeCompletion_keeps]

theorem State.rejectWith_keeps (s : State) (l : Launch) (r : Report57) :
    State.Keeps s (State.rejectWith s l r) := by
  unfold State.rejectWith; grind -ring -linarith -lia [State.Keeps, State.reject_keeps]

theorem State.logConfig_keeps (s : State) (l : Launch) :
    State.Keeps s (State.logConfig s l) := by
  unfold State.logConfig; grind -ring -linarith -lia [State.Keeps, → State.vread_keeps]

theorem State.admitNew_keeps (s : State) (l : Launch) (o : GraphObj) (r : Rect) (rot : Bool) :
    State.Keeps s (State.admitNew s l o r rot) := by
  unfold State.admitNew
  extract_lets p s1
  have h1 : State.Keeps s s1 := State.Keeps.trans (State.logConfig_keeps ..) (State.Keeps.foldl _ (fun s k => State.updCluster_keeps ..) _ _)
  refine h1.trans (State.Keeps.trans ?_ (State.mapPitch_keeps ..))
  exact (State.setPitch_keeps s1 l.asid p).trans (State.Keeps.same rfl rfl)

theorem State.installMeeting_keeps (s : State) (r : Rect) (m : Meeting) :
    State.Keeps s (State.installMeeting s r m) := by
  unfold State.installMeeting; grind -ring -linarith -lia [State.Keeps, State.setMeeting_keeps]

theorem State.admitSaved_keeps (s : State) (asid : Nat) (r : Rect) (rot : Bool) :
    State.Keeps s (State.admitSaved s asid r rot) := by
  unfold State.admitSaved
  repeat' first
    | split
    | dsimp only
    | unfold Option.getD
    | grind -ring -linarith -lia [State.Keeps, State.installMeeting_keeps, State.mapPitch_keeps, State.setPitch_keeps]
    | refine State.Keeps.trans ?_ (State.installMeeting_keeps ..)
    | refine State.Keeps.trans ?_ (State.mapPitch_keeps ..)
    | refine State.Keeps.trans ?_ (State.setPitch_keeps ..)
    | (refine State.Keeps.trans ?_ (State.Keeps.foldl _ (fun s a => ?_) _ _) <;> try dsimp only)

theorem State.unwait_keeps (s : State) (age : Nat) :
    State.Keeps s (State.unwait s age) := by
  unfold State.unwait; grind -ring -linarith -lia [State.Keeps]

theorem State.admitLaunch_keeps (s : State) (w : Waiting) (r : Rect) (rot : Bool) :
    State.Keeps s (State.admitLaunch s w r rot) := by
  unfold State.admitLaunch; grind -ring -linarith -lia [State.Keeps, State.admitNew_keeps, State.admitSaved_keeps, State.unwait_keeps]

theorem State.bumpAll_keeps (s : State) (ws : List Waiting) :
    State.Keeps s (State.bumpAll s ws) := by
  unfold State.bumpAll; grind -ring -linarith -lia [State.Keeps]

theorem State.scanFrom_keeps (s : State) (skipped : List Waiting) (e0 : List Waiting) :
    State.Keeps s (State.scanFrom s skipped e0) := by
  fun_induction State.scanFrom s skipped e0 <;> grind -ring -linarith -lia [State.Keeps, State.admitLaunch_keeps, State.bumpAll_keeps, State.rejectWith_keeps, State.unwait_keeps]

theorem State.boothPreempt_keeps (s : State) :
    State.Keeps s (State.boothPreempt s) := by
  unfold State.boothPreempt; grind -ring -linarith -lia [State.Keeps]

theorem State.endRoom_keeps (s : State) :
    State.Keeps s (State.endRoom s) := by
  unfold State.endRoom; grind -ring -linarith -lia [State.Keeps]

theorem State.boothScan_keeps (s : State) :
    State.Keeps s (State.boothScan s) := by
  unfold State.boothScan; grind -ring -linarith -lia [State.Keeps, State.boothPreempt_keeps, State.endRoom_keeps, State.scanFrom_keeps]

theorem State.markArrived_keeps (s : State) (k asid lc : Nat) :
    State.Keeps s (State.markArrived s k asid lc) := by
  unfold State.markArrived; grind -ring -linarith -lia [State.Keeps]

theorem State.admitTok_keeps (s : State) (asid lc : Nat) (t : Token) :
    Arrive.Keeps s (State.admitTok s asid lc t) := by
  unfold State.admitTok; grind -ring -linarith -lia [State.Keeps, Arrive.Keeps, Arrive.Keeps.trans, State.enterPath_keeps, State.ucDrop_keeps]

theorem State.raiseOverflow_keeps (s : State) (asid lc : Nat) (cause : Cause) (t : Token) :
    State.Keeps s (State.raiseOverflow s asid lc cause t) := by
  unfold State.raiseOverflow; grind -ring -linarith -lia [State.Keeps, State.takeTrap_keeps]

theorem State.arrive_keeps (s : State) (k asid lc : Nat) (fl : Flight) (x : LCore) :
    State.Keeps s (State.arrive s k asid lc fl x) := by
  unfold State.arrive; grind -ring -linarith -lia [State.Keeps, Arrive.Keeps, Arrive.Keeps.trans, State.admitTok_keeps, State.markArrived_keeps, State.raiseOverflow_keeps, State.updLC_keeps]

theorem execTokenArrival_keeps (k : Nat) (s : State) :
    Outcome.Keeps s (execTokenArrival k s) := by
  unfold execTokenArrival
  apply Outcome.Keeps.next
  repeat' first
    | split
    | dsimp only
    | unfold Option.getD
    | grind -ring -linarith -lia [State.Keeps, FireRes.Keeps, FireRes.Keeps.trans, Outcome.Keeps, Outcome.Keeps.trans, State.arrive_keeps, State.updLC_keeps]

theorem execStickyOverflowScan_keeps (asid lc : Nat) (s : State) :
    Outcome.Keeps s (execStickyOverflowScan asid lc s) := by
  unfold execStickyOverflowScan; grind -ring -linarith -lia [State.Keeps, FireRes.Keeps, FireRes.Keeps.trans, Arrive.Keeps, Arrive.Keeps.trans, Outcome.Keeps, Outcome.Keeps.trans, State.raiseOverflow_keeps, State.sticky_keeps, State.stickyMatches_keeps]

theorem execMatchRefill_keeps (asid lc : Nat) (s : State) :
    Outcome.Keeps s (execMatchRefill asid lc s) := by
  unfold execMatchRefill; grind -ring -linarith -lia [State.Keeps, FireRes.Keeps, FireRes.Keeps.trans, Outcome.Keeps, Outcome.Keeps.trans, State.updLC_keeps]

theorem State.spillWaiting_keeps (s : State) (asid lc : Nat) (e0 : List Flight) :
    State.Keeps s (State.spillWaiting s asid lc e0) := by
  fun_induction State.spillWaiting s asid lc e0 <;> grind -ring -linarith -lia [State.Keeps, State.raiseOverflow_keeps, State.updLC_keeps]

theorem execChannelOverflowSpill_keeps (asid lc vc : Nat) (s : State) :
    Outcome.Keeps s (execChannelOverflowSpill asid lc vc s) := by
  unfold execChannelOverflowSpill; grind -ring -linarith -lia [State.Keeps, FireRes.Keeps, FireRes.Keeps.trans, Outcome.Keeps, Outcome.Keeps.trans, State.spillWaiting_keeps]

theorem execChannelOverflowReplay_keeps (asid lc vc : Nat) (s : State) :
    Outcome.Keeps s (execChannelOverflowReplay asid lc vc s) := by
  unfold execChannelOverflowReplay; grind -ring -linarith -lia [State.Keeps, FireRes.Keeps, FireRes.Keeps.trans, Arrive.Keeps, Arrive.Keeps.trans, Outcome.Keeps, Outcome.Keeps.trans, State.admitTok_keeps, State.raiseOverflow_keeps, State.updLC_keeps]

theorem execReadyQueueEntry_keeps (core : Nat) (s : State) :
    Outcome.Keeps s (execReadyQueueEntry core s) := by
  unfold execReadyQueueEntry; grind -ring -linarith -lia [State.Keeps, FireRes.Keeps, FireRes.Keeps.trans, Outcome.Keeps, Outcome.Keeps.trans, State.setReady_keeps]

theorem execColourRefill_keeps (asid lc colour : Nat) (s : State) :
    Outcome.Keeps s (execColourRefill asid lc colour s) := by
  unfold execColourRefill; grind -ring -linarith -lia [State.Keeps, FireRes.Keeps, FireRes.Keeps.trans, Outcome.Keeps, Outcome.Keeps.trans, State.updLC_keeps]

theorem execStarvationTimeout_keeps (asid lc k : Nat) (s : State) :
    Outcome.Keeps s (execStarvationTimeout asid lc k s) := by
  unfold execStarvationTimeout; grind -ring -linarith -lia [State.Keeps, FireRes.Keeps, FireRes.Keeps.trans, Outcome.Keeps, Outcome.Keeps.trans, State.takeTrap_keeps]

theorem execColourReturn_keeps (asid colour : Nat) (s : State) :
    Outcome.Keeps s (execColourReturn asid colour s) := by
  unfold execColourReturn; grind -ring -linarith -lia [State.Keeps, FireRes.Keeps, FireRes.Keeps.trans, Outcome.Keeps, Outcome.Keeps.trans, State.retryColours_keeps, State.setPitch_keeps]

theorem State.grantColours_keeps (s : State) (asid : Nat) :
    State.Keeps s (State.grantColours s asid) := by
  unfold State.grantColours; grind -ring -linarith -lia [State.Keeps, State.retryColours_keeps, State.updPitch_keeps]

theorem State.grantTags_keeps (s : State) (asid colour : Nat) :
    State.Keeps s (State.grantTags s asid colour) := by
  unfold State.grantTags
  extract_lets core s1
  have h : State.Keeps s s1 := State.updPitch_keeps s asid _
  split
  · exact h
  · exact h.trans (State.Keeps.foldl _ (fun s a => State.retryTags_keeps s _ _ _) _ _)

theorem State.endFree_keeps (s : State) (c : Cause) :
    State.Keeps s (State.endFree s c).2 := by
  unfold State.endFree; grind -ring -linarith -lia [State.Keeps]

theorem State.settleCopies_keeps (s : State) :
    State.Keeps s (State.settleCopies s) := by
  unfold State.settleCopies
  repeat' first
    | split
    | dsimp only
    | unfold Option.getD
    | grind -ring -linarith -lia [State.Keeps, State.moveCb_keeps, State.moveMem_keeps]
    | refine State.Keeps.trans ?_ (State.moveCb_keeps ..)
    | refine State.Keeps.trans ?_ (State.moveMem_keeps ..)
    | (refine State.Keeps.trans ?_ (State.Keeps.foldl _ (fun s a => ?_) _ _) <;> try dsimp only)

theorem State.performReqs_keeps (s : State) (asid : Nat) :
    State.Keeps s (State.performReqs s asid) := by
  unfold State.performReqs
  repeat' first
    | split
    | dsimp only
    | unfold Option.getD
    | grind -ring -linarith -lia [State.Keeps, FireRes.Keeps, FireRes.Keeps.trans, Ctx.atomic_keeps, State.doAtomic_keeps, State.markDone_keeps, State.writeLine_keeps]
    | refine State.Keeps.trans ?_ (State.doAtomic_keeps ..)
    | refine State.Keeps.trans ?_ (State.markDone_keeps ..)
    | refine State.Keeps.trans ?_ (State.writeLine_keeps ..)
    | (refine State.Keeps.trans ?_ (State.Keeps.foldl _ (fun s a => ?_) _ _) <;> try dsimp only)

theorem State.performStores_keeps (s : State) (asid : Nat) (p : Pitch) :
    State.Keeps s (State.performStores s asid p) := by
  unfold State.performStores
  repeat' first
    | split
    | dsimp only
    | unfold Option.getD
    | grind -ring -linarith -lia [State.Keeps, State.writeLine_keeps]
    | refine State.Keeps.trans ?_ (State.writeLine_keeps ..)
    | (refine State.Keeps.trans ?_ (State.Keeps.foldl _ (fun s a => ?_) _ _) <;> try dsimp only)

theorem State.sendHeld_keeps (s : State) (asid lc : Nat) (m : MemAcc) (e : Nat × Part) :
    State.Keeps s (State.sendHeld s asid lc m e) := by
  unfold State.sendHeld; grind -ring -linarith -lia [State.Keeps, FireRes.Keeps, FireRes.Keeps.trans, Outcome.Keeps, Outcome.Keeps.trans, Ctx.atomic_keeps, State.sendReq_keeps, → State.translate_keeps, fire_keeps]

theorem State.sendWrites_keeps (s : State) (asid : Nat) (p : Pitch) :
    State.Keeps s (State.sendWrites s asid p) := by
  unfold State.sendWrites
  repeat' first
    | split
    | dsimp only
    | unfold Option.getD
    | grind -ring -linarith -lia [State.Keeps, State.sendHeld_keeps]
    | refine State.Keeps.trans ?_ (State.sendHeld_keeps ..)
    | (refine State.Keeps.trans ?_ (State.Keeps.foldl _ (fun s a => ?_) _ _) <;> try dsimp only)

theorem State.flushPitch_keeps (s : State) (asid : Nat) :
    State.Keeps s (State.flushPitch s asid) := by
  unfold State.flushPitch; grind -ring -linarith -lia [State.Keeps, State.performReqs_keeps, State.performStores_keeps, State.sendWrites_keeps, State.settleCopies_keeps]

theorem State.freeLines_keeps (s : State) (p : Pitch) :
    State.Keeps s (State.freeLines s p) := by
  unfold State.freeLines; grind -ring -linarith -lia [State.Keeps]

theorem State.clearBacking_keeps (s : State) (asid : Nat) :
    State.Keeps s (State.clearBacking s asid) := by
  unfold State.clearBacking
  repeat' first
    | split
    | dsimp only
    | unfold Option.getD
    | grind -ring -linarith -lia [State.Keeps, State.writeRange_keeps]
    | refine State.Keeps.trans ?_ (State.writeRange_keeps ..)
    | (refine State.Keeps.trans ?_ (State.Keeps.foldl _ (fun s a => ?_) _ _) <;> try dsimp only)

theorem State.keepCores_keeps (s : State) (asid : Nat) (p : Pitch) :
    State.Keeps s (State.keepCores s asid p) := by
  unfold State.keepCores
  repeat' first
    | split
    | dsimp only
    | unfold Option.getD
    | grind -ring -linarith -lia [State.Keeps, State.takeCores_keeps]
    | refine State.Keeps.trans ?_ (State.takeCores_keeps ..)
    | (refine State.Keeps.trans ?_ (State.Keeps.foldl _ (fun s a => ?_) _ _) <;> try dsimp only)

theorem State.dropPitch_keeps (s : State) (asid : Nat) (p : Pitch) :
    State.Keeps s (State.dropPitch s asid p) := by
  unfold State.dropPitch
  repeat' first
    | split
    | dsimp only
    | unfold Option.getD
    | grind -ring -linarith -lia [State.Keeps, State.freeLines_keeps, State.keepCores_keeps, State.unmapPitch_keeps, State.updCluster_keeps]
    | refine State.Keeps.trans ?_ (State.freeLines_keeps ..)
    | refine State.Keeps.trans ?_ (State.keepCores_keeps ..)
    | refine State.Keeps.trans ?_ (State.unmapPitch_keeps ..)
    | refine State.Keeps.trans ?_ (State.updCluster_keeps ..)
    | (refine State.Keeps.trans ?_ (State.Keeps.foldl _ (fun s a => ?_) _ _) <;> try dsimp only)

theorem State.endLaunch_keeps (s : State) (asid : Nat) (e : EndRec) :
    State.Keeps s (State.endLaunch s asid e) := by
  unfold State.endLaunch; grind -ring -linarith -lia [State.Keeps, State.boothScan_keeps, State.clearBacking_keeps, State.dropPitch_keeps, State.flushPitch_keeps, State.writeCompletion_keeps]

theorem execPitchCompletion_keeps (asid : Nat) (s : State) :
    Outcome.Keeps s (execPitchCompletion asid s) := by
  unfold execPitchCompletion; grind -ring -linarith -lia [State.Keeps, FireRes.Keeps, FireRes.Keeps.trans, Outcome.Keeps, Outcome.Keeps.trans, State.endLaunch_keeps]

theorem execWatchdog_keeps (asid : Nat) (s : State) :
    Outcome.Keeps s (execWatchdog asid s) := by
  unfold execWatchdog; grind -ring -linarith -lia [State.Keeps, FireRes.Keeps, FireRes.Keeps.trans, Outcome.Keeps, Outcome.Keeps.trans, State.endFree_keeps, State.endLaunch_keeps]

theorem State.deny_keeps (s : State) (port : Nat) :
    State.Keeps s (State.deny s port) := by
  unfold State.deny; grind -ring -linarith -lia [State.Keeps, State.updPcie_keeps]

theorem State.cancel_keeps (s : State) (queue index : Nat) :
    State.Keeps s (State.cancel s queue index) := by
  unfold State.cancel; grind -ring -linarith -lia [State.Keeps, State.boothScan_keeps, State.endLaunch_keeps, State.reject_keeps, State.unwait_keeps]

theorem execCancel_keeps (port queue index : Nat) (s : State) :
    Outcome.Keeps s (execCancel port queue index s) := by
  unfold execCancel; grind -ring -linarith -lia [State.Keeps, FireRes.Keeps, FireRes.Keeps.trans, Outcome.Keeps, Outcome.Keeps.trans, State.cancel_keeps, State.deny_keeps]

theorem State.requestPreempt_keeps (s : State) (asid : Nat) :
    State.Keeps s (State.requestPreempt s asid) := by
  unfold State.requestPreempt; grind -ring -linarith -lia [State.Keeps]

theorem execPreempt_keeps (port asid : Nat) (s : State) :
    Outcome.Keeps s (execPreempt port asid s) := by
  unfold execPreempt; grind -ring -linarith -lia [State.Keeps, FireRes.Keeps, FireRes.Keeps.trans, Outcome.Keeps, Outcome.Keeps.trans, State.deny_keeps, State.requestPreempt_keeps]

theorem State.dropTrap_keeps (s : State) (k : Nat) :
    State.Keeps s (State.dropTrap s k) := by
  unfold State.dropTrap; grind -ring -linarith -lia [State.Keeps]

theorem State.handlerTrap_keeps (s : State) (k : Nat) (t : TrapTok) (p : Pitch) :
    State.Keeps s (State.handlerTrap s k t p) := by
  unfold State.handlerTrap; grind -ring -linarith -lia [State.Keeps, Arrive.Keeps, Arrive.Keeps.trans, State.admitTok_keeps, State.dropTrap_keeps, State.raiseOverflow_keeps, State.updLC_keeps]

theorem State.overflowTrap_keeps (s : State) (t : TrapTok) (p : Pitch) (x : LCore) :
    State.Keeps s (State.overflowTrap s t p x) := by
  unfold State.overflowTrap; grind -ring -linarith -lia [State.Keeps, State.boothScan_keeps, State.endLaunch_keeps, State.requestPreempt_keeps, State.setPitch_keeps]

theorem State.regionTrap_keeps (s : State) (k : Nat) (t : TrapTok) (p : Pitch) :
    State.Keeps s (State.regionTrap s k t p) := by
  unfold State.regionTrap; grind -ring -linarith -lia [State.Keeps, State.dropTrap_keeps, State.endLaunch_keeps, State.grantColours_keeps, State.grantTags_keeps, State.overflowTrap_keeps]

theorem execTrapTokenReceipt_keeps (k : Nat) (s : State) :
    Outcome.Keeps s (execTrapTokenReceipt k s) := by
  unfold execTrapTokenReceipt; grind -ring -linarith -lia [State.Keeps, FireRes.Keeps, FireRes.Keeps.trans, Outcome.Keeps, Outcome.Keeps.trans, State.dropTrap_keeps, State.handlerTrap_keeps, State.regionTrap_keeps]

theorem State.spillArrived_keeps (s : State) (asid lc : Nat) (e0 : List Flight) :
    State.Keeps s (State.spillArrived s asid lc e0) := by
  fun_induction State.spillArrived s asid lc e0 <;> grind -ring -linarith -lia [State.Keeps, State.updLC_keeps]

theorem State.dropHalted_keeps (s : State) (asid : Nat) :
    State.Keeps s (State.dropHalted s asid) := by
  unfold State.dropHalted; grind -ring -linarith -lia [State.Keeps]

theorem execPreemptionHalt_keeps (asid : Nat) (s : State) :
    Outcome.Keeps s (execPreemptionHalt asid s) := by
  unfold execPreemptionHalt
  apply Outcome.Keeps.next
  repeat' first
    | split
    | dsimp only
    | unfold Option.getD
    | grind -ring -linarith -lia [State.Keeps, FireRes.Keeps, FireRes.Keeps.trans, Outcome.Keeps, Outcome.Keeps.trans, State.dropHalted_keeps, State.setPitch_keeps, State.spillArrived_keeps]
    | refine State.Keeps.trans ?_ (State.dropHalted_keeps ..)
    | refine State.Keeps.trans ?_ (State.setPitch_keeps ..)
    | refine State.Keeps.trans ?_ (State.spillArrived_keeps ..)
    | (refine State.Keeps.trans ?_ (State.Keeps.foldl _ (fun s a => ?_) _ _) <;> try dsimp only)

theorem State.dropWaitingTiles_keeps (s : State) (q : List EJob) :
    State.Keeps s (State.dropWaitingTiles s q) := by
  unfold State.dropWaitingTiles
  repeat' first
    | split
    | dsimp only
    | unfold Option.getD
    | grind -ring -linarith -lia [State.Keeps, State.updLC_keeps]
    | refine State.Keeps.trans ?_ (State.updLC_keeps ..)
    | (refine State.Keeps.trans ?_ (State.Keeps.foldl _ (fun s a => ?_) _ _) <;> try dsimp only)

theorem State.evictLine_keeps (s : State) (asid lc : Nat) (fi : Nat) (bad : List Nat) (t : Tile) (slot : Nat) (l : CbLine) :
    ∀ u, State.evictLine s asid lc fi bad t slot l = .ok u → State.Keeps s u := by
  unfold State.evictLine; intro u h; dsimp only at h
  (repeat' split at h) <;> first
    | (simp at h; done)
    | (rename_i q; injection h with h; subst h
       exact (State.translate_keeps _ _ _ _ _ _ _ _ _ _ q).trans (State.Keeps.foldl _ (fun s k => State.writeLine_keeps ..) _ _))
    | (injection h with h; subst h; exact State.coreTrap_keeps ..)

theorem State.evictAll_keeps (s : State) (asid : Nat) (bad : List Nat) (e0 : List (Nat × Nat × Tile × Nat × CbLine)) :
    ∀ t, State.evictAll s asid bad e0 = .ok t → State.Keeps s t := by
  induction e0 generalizing s with
  | nil => intro t h; simp only [State.evictAll] at h; injection h with h; subst h; exact .refl _
  | cons x r ih =>
    intro t h
    simp only [State.evictAll] at h
    split at h
    · simp at h
    · rename_i q; exact (State.evictLine_keeps _ _ _ _ _ _ _ _ _ q).trans (ih _ _ h)

theorem State.savePitch_keeps (s : State) (asid : Nat) (p0 : Pitch) :
    State.Keeps s (State.savePitch s asid p0) := by
  unfold State.savePitch
  extract_lets s1
  have h1 : State.Keeps s s1 := State.Keeps.foldl _ (fun s k => State.dropWaitingTiles_keeps ..) _ _
  split
  · exact h1
  · extract_lets s2 s3
    have h2 : State.Keeps s1 s2 :=
      (State.Keeps.foldl _ (fun s k => State.updCluster_keeps ..) _ _).trans (State.unmapPitch_keeps ..)
    have h3 : State.Keeps s2 s3 := .same rfl rfl
    exact h1.trans (h2.trans (h3.trans ((State.setPitch_keeps ..).trans (State.boothScan_keeps ..))))

theorem execPreemptionSave_keeps (asid : Nat) (s : State) :
    Outcome.Keeps s (execPreemptionSave asid s) := by
  unfold execPreemptionSave; grind -ring -linarith -lia [State.Keeps, FireRes.Keeps, FireRes.Keeps.trans, Outcome.Keeps, Outcome.Keeps.trans, → State.evictAll_keeps, State.missAt_keeps, State.savePitch_keeps, State.settleCopies_keeps]

theorem State.replayTok_keeps (s : State) (asid lc : Nat) (t : Token) :
    State.Keeps s (State.replayTok s asid lc t) := by
  unfold State.replayTok; grind -ring -linarith -lia [State.Keeps, Arrive.Keeps, Arrive.Keeps.trans, State.admitTok_keeps, State.updLC_keeps]

theorem State.replayReady_keeps (s : State) (asid : Nat) (lcs : List Nat) :
    State.Keeps s (State.replayReady s asid lcs) := by
  unfold State.replayReady
  repeat' first
    | split
    | dsimp only
    | unfold Option.getD
    | grind -ring -linarith -lia [State.Keeps, State.requeue_keeps, State.updLC_keeps]
    | refine State.Keeps.trans ?_ (State.requeue_keeps ..)
    | refine State.Keeps.trans ?_ (State.updLC_keeps ..)
    | (refine State.Keeps.trans ?_ (State.Keeps.foldl _ (fun s a => ?_) _ _) <;> try dsimp only)

theorem State.replayRing_keeps (s : State) (asid lc : Nat) :
    State.Keeps s (State.replayRing s asid lc) := by
  unfold State.replayRing
  repeat' first
    | split
    | dsimp only
    | unfold Option.getD
    | grind -ring -linarith -lia [State.Keeps, State.replayTok_keeps, State.updLC_keeps]
    | refine State.Keeps.trans ?_ (State.replayTok_keeps ..)
    | refine State.Keeps.trans ?_ (State.updLC_keeps ..)
    | (refine State.Keeps.trans ?_ (State.Keeps.foldl _ (fun s a => ?_) _ _) <;> try dsimp only)

theorem State.raiseCaught_keeps (s : State) (asid lc : Nat) :
    State.Keeps s (State.raiseCaught s asid lc) := by
  unfold State.raiseCaught; grind -ring -linarith -lia [State.Keeps, State.raiseOverflow_keeps, State.updLC_keeps]

theorem State.replay_keeps (s : State) (asid : Nat) (lcs : List Nat) :
    State.Keeps s (State.replay s asid lcs) := by
  unfold State.replay
  repeat' first
    | split
    | dsimp only
    | unfold Option.getD
    | grind -ring -linarith -lia [State.Keeps, State.raiseCaught_keeps, State.replayReady_keeps, State.replayRing_keeps]
    | refine State.Keeps.trans ?_ (State.raiseCaught_keeps ..)
    | refine State.Keeps.trans ?_ (State.replayReady_keeps ..)
    | refine State.Keeps.trans ?_ (State.replayRing_keeps ..)
    | (refine State.Keeps.trans ?_ (State.Keeps.foldl _ (fun s a => ?_) _ _) <;> try dsimp only)

theorem State.putTable_keeps (s : State) (asid : Nat) (t : WTab) :
    State.Keeps s (State.putTable s asid t) := by
  unfold State.putTable; grind -ring -linarith -lia [State.Keeps, State.updField_keeps, State.updPitch_keeps]

theorem State.placeMeetJobs_keeps (s : State) (p : Pitch) :
    State.Keeps s (State.placeMeetJobs s p) := by
  unfold State.placeMeetJobs
  repeat' first
    | split
    | dsimp only
    | unfold Option.getD
    | grind -ring -linarith -lia [State.Keeps, State.updField_keeps]
    | refine State.Keeps.trans ?_ (State.updField_keeps ..)
    | (refine State.Keeps.trans ?_ (State.Keeps.foldl _ (fun s a => ?_) _ _) <;> try dsimp only)

theorem State.thaw_keeps (s : State) (fi e : Nat) :
    ∀ t, State.thaw s fi e = .ok t → State.Keeps s t := by
  unfold State.thaw
  intro t h
  split at h
  · injection h with h; subst h; exact .refl _
  · exact ures_foldl (fun s c t => State.contribute_keeps _ s fi e true c t) _ s _ (fun t ht => by
      injection ht with ht; subst ht; exact State.setMeeting_keeps ..) t h

theorem State.thawAll_keeps (s : State) (e0 : List (Nat × Nat)) :
    (∀ t, State.thawAll s e0 = .ok t → State.Keeps s t) ∧ (∀ t, State.thawAll s e0 = .error t → State.Keeps s t) := by
  fun_induction State.thawAll s e0 <;> grind -ring -linarith -lia [State.Keeps, State.meetFault_keeps, State.missAt_keeps, → State.thaw_keeps]

theorem execPitchRestore_keeps (asid : Nat) (s : State) :
    Outcome.Keeps s (execPitchRestore asid s) := by
  unfold execPitchRestore
  apply Outcome.Keeps.next
  split
  · exact .refl _
  · split
    · exact .refl _
    · rename_i p _ _
      extract_lets s0 s1
      have h0 : State.Keeps s s0 := (State.placeMeetJobs_keeps ..).trans (State.setPitch_keeps ..)
      have h1 : State.Keeps s s1 := h0.trans (State.Keeps.foldl _ (fun s t => State.putTable_keeps ..) _ _)
      split
      · rename_i q; exact h1.trans ((State.thawAll_keeps ..).2 _ q)
      · rename_i s2 q
        extract_lets s3 s4
        have h2 : State.Keeps s1 s2 := (State.thawAll_keeps ..).1 _ q
        have h3 : State.Keeps s2 s3 := State.Keeps.foldl _ (fun s k => State.updCluster_keeps ..) _ _
        have h4 : State.Keeps s3 s4 := State.replay_keeps ..
        exact h1.trans (h2.trans (h3.trans (h4.trans (State.updPitch_keeps ..))))

theorem State.setRemap_keeps (s : State) (f e : Nat) (r : Remap) :
    State.Keeps s (State.setRemap s f e r) := by
  unfold State.setRemap; grind -ring -linarith -lia [State.Keeps, State.updField_keeps]

theorem State.writeRemap_keeps (s : State) (f : Nat) (slot : Option Nat) (kind : Nat) (w1 w2 w3 : DWord) :
    State.Keeps s (State.writeRemap s f slot kind w1 w2 w3) := by
  unfold State.writeRemap; grind -ring -linarith -lia [State.Keeps, State.setRemap_keeps]

theorem State.staleBands_keeps (s : State) (f : Nat) :
    State.Keeps s (State.staleBands s f) := by
  unfold State.staleBands; grind -ring -linarith -lia [State.Keeps]

theorem State.setOvr_keeps (s : State) (p : Pitch) (asid lc : Nat) (w : DWord) :
    State.Keeps s (State.setOvr s p asid lc w) := by
  unfold State.setOvr; grind -ring -linarith -lia [State.Keeps, State.updField_keeps]

theorem State.blockCore_keeps (s : State) (asid : Nat) (p : Pitch) (lc pos : Nat) :
    State.Keeps s (State.blockCore s asid p lc pos) := by
  unfold State.blockCore; grind -ring -linarith -lia [State.Keeps, State.dropHalted_keeps, State.setOvr_keeps, State.spillArrived_keeps, State.updLC_keeps]

theorem State.retireIn_keeps (s : State) (cx cy asid : Nat) (p : Pitch) :
    State.Keeps s (State.retireIn s cx cy asid p) := by
  unfold State.retireIn
  split
  · exact .refl _
  · split
    · exact State.requestPreempt_keeps ..
    · dsimp only
      split
      · exact State.requestPreempt_keeps ..
      · exact (State.Keeps.foldl _ (fun s k => State.setOvr_keeps ..) _ _).trans
          (State.Keeps.foldl _ (fun s k => State.blockCore_keeps ..) _ _)

theorem State.retireCore_keeps (s : State) (cx cy cause : Nat) :
    State.Keeps s (State.retireCore s cx cy cause) := by
  unfold State.retireCore
  split
  · exact .refl _
  · dsimp only
    split
    · exact .refl _
    · refine State.Keeps.trans (State.Keeps.trans ?_ (State.staleBands_keeps ..)) (State.pushFree_keeps ..)
      exact (State.writeRemap_keeps ..).trans (State.Keeps.foldl _ (fun s p => State.retireIn_keeps ..) _ _)

theorem execCoreRetirement_keeps (cx cy cause : Nat) (s : State) :
    Outcome.Keeps s (execCoreRetirement cx cy cause s) := by
  unfold execCoreRetirement; grind -ring -linarith -lia [State.Keeps, FireRes.Keeps, FireRes.Keeps.trans, Outcome.Keeps, Outcome.Keeps.trans, State.retireCore_keeps]

theorem State.moveMeet_keeps (s : State) (asid lc old new : Nat) :
    State.Keeps s (State.moveMeet s asid lc old new) := by
  unfold State.moveMeet
  repeat' first
    | split
    | dsimp only
    | unfold Option.getD
    | grind -ring -linarith -lia [State.Keeps, State.setMeeting_keeps, State.updField_keeps]
    | refine State.Keeps.trans ?_ (State.setMeeting_keeps ..)
    | refine State.Keeps.trans ?_ (State.updField_keeps ..)
    | (refine State.Keeps.trans ?_ (State.Keeps.foldl _ (fun s a => ?_) _ _) <;> try dsimp only)

theorem State.moveCore_keeps (s : State) (asid lc : Nat) (p : Pitch) (x : LCore) (h : HostRef) :
    State.Keeps s (State.moveCore s asid lc p x h) := by
  unfold State.moveCore; grind -ring -linarith -lia [State.Keeps, State.moveMeet_keeps, State.replay_keeps, State.setOvr_keeps, State.updLC_keeps]

theorem execRebindComplete_keeps (asid lc : Nat) (s : State) :
    Outcome.Keeps s (execRebindComplete asid lc s) := by
  unfold execRebindComplete; grind -ring -linarith -lia [State.Keeps, FireRes.Keeps, FireRes.Keeps.trans, Outcome.Keeps, Outcome.Keeps.trans, → State.evictAll_keeps, State.missAt_keeps, State.moveCore_keeps, State.settleCopies_keeps]

theorem State.quarantine_keeps (s : State) (ks : List Nat) :
    State.Keeps s (State.quarantine s ks) := by
  unfold State.quarantine
  repeat' first
    | split
    | dsimp only
    | unfold Option.getD
    | grind -ring -linarith -lia [State.Keeps, State.updField_keeps]
    | refine State.Keeps.trans ?_ (State.updField_keeps ..)
    | (refine State.Keeps.trans ?_ (State.Keeps.foldl _ (fun s a => ?_) _ _) <;> try dsimp only)

theorem State.remapLost_keeps (s : State) (e : Nat) (ks : List Nat) (asid : Nat) :
    State.Keeps s (State.remapLost s e ks asid) := by
  unfold State.remapLost; grind -ring -linarith -lia [State.Keeps, State.endFree_keeps, State.endLaunch_keeps]

theorem State.scrubEntry_keeps (s : State) (field e : Nat) (reads : CopyReads) :
    State.Keeps s (State.scrubEntry s field e reads) := by
  unfold State.scrubEntry
  repeat' first
    | split
    | dsimp only
    | unfold Option.getD
    | grind -ring -linarith -lia [State.Keeps, State.quarantine_keeps, State.remapLost_keeps, State.setRemap_keeps]
    | refine State.Keeps.trans ?_ (State.quarantine_keeps ..)
    | refine State.Keeps.trans ?_ (State.remapLost_keeps ..)
    | refine State.Keeps.trans ?_ (State.setRemap_keeps ..)
    | (refine State.Keeps.trans ?_ (State.Keeps.foldl _ (fun s a => ?_) _ _) <;> try dsimp only)

theorem execRemapScrub_keeps (field e : Nat) (reads : CopyReads) (s : State) :
    Outcome.Keeps s (execRemapScrub field e reads s) := by
  unfold execRemapScrub
  apply Outcome.Keeps.next
  repeat' first
    | split
    | dsimp only
    | unfold Option.getD
    | grind -ring -linarith -lia [State.Keeps, FireRes.Keeps, FireRes.Keeps.trans, Outcome.Keeps, Outcome.Keeps.trans, State.scrubEntry_keeps]

theorem State.scrubTable_keeps (s : State) (f : Nat) :
    State.Keeps s (State.scrubTable s f) := by
  unfold State.scrubTable
  repeat' first
    | split
    | dsimp only
    | unfold Option.getD
    | grind -ring -linarith -lia [State.Keeps, State.scrubEntry_keeps]
    | refine State.Keeps.trans ?_ (State.scrubEntry_keeps ..)
    | (refine State.Keeps.trans ?_ (State.Keeps.foldl _ (fun s a => ?_) _ _) <;> try dsimp only)

theorem execRemapRebuildComplete_keeps (field e : Nat) (w : List DWord) (s : State) :
    Outcome.Keeps s (execRemapRebuildComplete field e w s) := by
  unfold execRemapRebuildComplete
  apply Outcome.Keeps.next
  dsimp only
  split
  · exact .refl _
  · refine State.Keeps.trans ?_ (State.boothScan_keeps _)
    (repeat' split) <;> (refine State.Keeps.trans ?_ (State.Keeps.foldl _ (fun s k => ?_) _ _)) <;>
      first
      | exact (State.setRemap_keeps ..).trans (State.staleBands_keeps ..)
      | exact State.setRemap_keeps ..
      | (split <;> first | exact .refl _ | exact State.updField_keeps ..)

theorem State.retireStuck_keeps (s : State) (stuck : Router → Bool) :
    State.Keeps s (State.retireStuck s stuck) := by
  unfold State.retireStuck
  exact State.Keeps.foldl _ (fun s c => State.retireCore_keeps s _ _ _) _ _

theorem State.installDetour_keeps (s : State) (field e : Nat) (w1 w2 : DWord) :
    State.Keeps s (State.installDetour s field e w1 w2) := by
  unfold State.installDetour
  extract_lets d ds s1 s2
  have h1 : State.Keeps s s1 := State.retireStuck_keeps ..
  have h2 : State.Keeps s s2 := by
    simp only [s2]; split
    · exact h1
    · exact h1.trans (State.retireStuck_keeps ..)
  split
  · exact h2.trans ((State.writeRemap_keeps ..).trans (State.staleBands_keeps ..))
  · exact h2

theorem execRemapEntryWrite_keeps (field e : Nat) (w : List DWord) (s : State) :
    Outcome.Keeps s (execRemapEntryWrite field e w s) := by
  unfold execRemapEntryWrite; grind -ring -linarith -lia [State.Keeps, FireRes.Keeps, FireRes.Keeps.trans, Outcome.Keeps, Outcome.Keeps.trans, State.installDetour_keeps, State.setRemap_keeps, State.staleBands_keeps]

theorem execBandMeasurement_keeps (field f rtt0 rtt1 : Nat) (s : State) :
    Outcome.Keeps s (execBandMeasurement field f rtt0 rtt1 s) := by
  unfold execBandMeasurement; grind -ring -linarith -lia [State.Keeps, FireRes.Keeps, FireRes.Keeps.trans, Outcome.Keeps, Outcome.Keeps.trans, State.updField_keeps]

theorem execOffsetMeasurement_keeps (field f t1 t2 t3 : Nat) (s : State) :
    Outcome.Keeps s (execOffsetMeasurement field f t1 t2 t3 s) := by
  unfold execOffsetMeasurement; grind -ring -linarith -lia [State.Keeps, FireRes.Keeps, FireRes.Keeps.trans, Outcome.Keeps, Outcome.Keeps.trans, State.updField_keeps]

theorem State.retireLink_keeps (s : State) (cx cy dir : Nat) :
    State.Keeps s (State.retireLink s cx cy dir) := by
  unfold State.retireLink; grind -ring -linarith -lia [State.Keeps, State.installDetour_keeps]

theorem execLinkCrcFailure_keeps (cx cy dir : Nat) (s : State) :
    Outcome.Keeps s (execLinkCrcFailure cx cy dir s) := by
  unfold execLinkCrcFailure; grind -ring -linarith -lia [State.Keeps, FireRes.Keeps, FireRes.Keeps.trans, Outcome.Keeps, Outcome.Keeps.trans, State.retireLink_keeps, State.updField_keeps]

theorem State.retireEngine_keeps (s : State) (k : Nat) :
    State.Keeps s (State.retireEngine s k) := by
  unfold State.retireEngine
  repeat' first
    | split
    | dsimp only
    | unfold Option.getD
    | grind -ring -linarith -lia [State.Keeps, State.requestPreempt_keeps, State.updField_keeps]
    | refine State.Keeps.trans ?_ (State.requestPreempt_keeps ..)
    | refine State.Keeps.trans ?_ (State.updField_keeps ..)
    | (refine State.Keeps.trans ?_ (State.Keeps.foldl _ (fun s a => ?_) _ _) <;> try dsimp only)

theorem execResidueCheckFailure_keeps (unit : ResidueUnit) (s : State) :
    Outcome.Keeps s (execResidueCheckFailure unit s) := by
  unfold execResidueCheckFailure; grind -ring -linarith -lia [State.Keeps, FireRes.Keeps, FireRes.Keeps.trans, Outcome.Keeps, Outcome.Keeps.trans, State.retireCore_keeps, State.retireEngine_keeps]

end Sys2Proof.Machine
end

