-- ==== Sys2Proof/Laws/KeepsDevice.lean ====
section
/-! SUPPORT. What these operations keep of a state (`State.Keeps`): DRAM, boot, ownership, optics, launch and registers. -/
namespace Sys2Proof.Machine
open Sys2Proof
set_option Elab.async false

theorem execRefreshOperation_keeps (cluster col layer : Nat) (forced : Bool) (s : State) :
    Outcome.Keeps s (execRefreshOperation cluster col layer forced s) := by
  unfold execRefreshOperation; grind -ring -linarith -lia [State.Keeps, FireRes.Keeps, FireRes.Keeps.trans, Outcome.Keeps, Outcome.Keeps.trans, State.updCluster_keeps]

theorem execBankSensorRead_keeps (cluster col layer temp : Nat) (s : State) :
    Outcome.Keeps s (execBankSensorRead cluster col layer temp s) := by
  unfold execBankSensorRead; grind -ring -linarith -lia [State.Keeps, FireRes.Keeps, FireRes.Keeps.trans, Outcome.Keeps, Outcome.Keeps.trans, State.updCluster_keeps, State.updField_keeps]

theorem State.zeroRaw_keeps (s : State) (lo n : Nat) :
    State.Keeps s (State.zeroRaw s lo n) := by
  unfold State.zeroRaw; exact ⟨id, fun h => SMap.wf_filter _ _ _ h⟩

theorem State.loseUnit_keeps (s : State) (k c l q : Nat) :
    State.Keeps s (State.loseUnit s k c l q) := by
  unfold State.loseUnit; grind -ring -linarith -lia [State.Keeps, State.reportPoison_keeps, State.updCluster_keeps, State.zeroRaw_keeps]

theorem State.setUnit_keeps (s : State) (loc : Nat) (f : Nat → Byte) :
    State.Keeps s (State.setUnit s loc f) := by
  unfold State.setUnit; generalize List.range 4096 = l
  exact State.Keeps.foldl _ (fun s b => State.setRaw_keeps ..) l s

theorem State.loseStripe_keeps (s : State) (k c l q : Nat) :
    State.Keeps s (State.loseStripe s k c l q) := by
  unfold State.loseStripe; grind -ring -linarith -lia [State.Keeps, State.loseUnit_keeps, State.setUnit_keeps, State.updCluster_keeps]

theorem State.noteBank_keeps (s : State) (k c l : Nat) :
    State.Keeps s (State.noteBank s k c l) := by
  unfold State.noteBank; grind -ring -linarith -lia [State.Keeps, State.writeRemap_keeps]

theorem execBankLoss_keeps (cluster col layer spare : Nat) (s : State) :
    Outcome.Keeps s (execBankLoss cluster col layer spare s) := by
  unfold execBankLoss; apply Outcome.Keeps.next; generalize List.range stripes = q
  split
  · exact .refl _
  · extract_lets s1 s2
    have h1 : State.Keeps s s1 := State.Keeps.foldl _ (fun s q => State.loseStripe_keeps ..) q s
    have h2 : State.Keeps s1 s2 := State.updCluster_keeps ..
    exact h1.trans (h2.trans ((State.noteBank_keeps ..).trans (State.reportState_keeps ..)))

theorem State.setParity_keeps (s : State) (k c q loc : Nat) :
    State.Keeps s (State.setParity s k c q loc) := by
  unfold State.setParity; grind -ring -linarith -lia [State.Keeps, State.setUnit_keeps, State.updCluster_keeps]

theorem State.settleColumn_keeps (s : State) (k c : Nat) :
    State.Keeps s (State.settleColumn s k c) := by
  unfold State.settleColumn; generalize List.range stripes = q
  extract_lets x s1
  have h1 : State.Keeps s s1 := State.Keeps.foldl _ (fun s q => by
    split
    · exact State.setParity_keeps ..
    · exact .refl _) _ s
  split
  · exact h1.trans (State.updCluster_keeps ..)
  · exact .refl _

theorem State.rebuildOne_keeps (s : State) (k c l : Nat) :
    State.Keeps s (State.rebuildOne s k c l) := by
  unfold State.rebuildOne; grind -ring -linarith -lia [State.Keeps, State.noteBank_keeps, State.reportState_keeps, State.setParity_keeps, State.setUnit_keeps, State.settleColumn_keeps, State.updCluster_keeps]

theorem execRebuildStripe_keeps (cluster col layer : Nat) (s : State) :
    Outcome.Keeps s (execRebuildStripe cluster col layer s) := by
  unfold execRebuildStripe; grind -ring -linarith -lia [State.Keeps, FireRes.Keeps, FireRes.Keeps.trans, Outcome.Keeps, Outcome.Keeps.trans, State.rebuildOne_keeps, State.reportState_keeps, State.updCluster_keeps]

theorem State.loseColumn_keeps (s : State) (k c : Nat) :
    State.Keeps s (State.loseColumn s k c) := by
  unfold State.loseColumn; generalize List.range 496 = q
  extract_lets x used units s1 s1' s2 p w s3
  have h1 : State.Keeps s s1 := State.Keeps.foldl _ (fun s u => (State.zeroRaw_keeps ..).trans (State.updCluster_keeps ..)) _ s
  have h1' : State.Keeps s1 s1' := State.Keeps.foldl _ (fun s u => State.zeroRaw_keeps ..) _ s1
  have h2 : State.Keeps s1' s2 := State.updCluster_keeps ..
  have h3 : State.Keeps s2 s3 := State.writeRemap_keeps ..
  split
  · exact .refl _
  · exact h1.trans (h1'.trans (h2.trans (h3.trans (State.Keeps.foldl _ (fun s u => State.reportPoison_keeps ..) _ _))))

theorem execColumnLoss_keeps (cluster col : Nat) (s : State) :
    Outcome.Keeps s (execColumnLoss cluster col s) := by
  unfold execColumnLoss; grind -ring -linarith -lia [State.Keeps, FireRes.Keeps, FireRes.Keeps.trans, Outcome.Keeps, Outcome.Keeps.trans, State.loseColumn_keeps]

theorem execVerticalBusFailure_keeps (cluster col : Nat) (own : Bool) (s : State) :
    Outcome.Keeps s (execVerticalBusFailure cluster col own s) := by
  unfold execVerticalBusFailure; grind -ring -linarith -lia [State.Keeps, FireRes.Keeps, FireRes.Keeps.trans, Outcome.Keeps, Outcome.Keeps.trans, State.loseColumn_keeps, State.updCluster_keeps]

theorem execLayerShutdown_keeps (cluster layer : Nat) (s : State) :
    Outcome.Keeps s (execLayerShutdown cluster layer s) := by
  unfold execLayerShutdown; apply Outcome.Keeps.next; generalize List.range stripes = q
  split
  · exact .refl _
  · extract_lets s1
    have h1 : State.Keeps s s1 := State.Keeps.foldl _ (fun s c => by
      dsimp only
      split
      · exact (State.Keeps.foldl _ (fun s q => State.loseStripe_keeps ..) _ _).trans (State.updCluster_keeps ..)
      · exact State.updCluster_keeps ..) _ s
    exact h1.trans (State.reportState_keeps ..)

theorem State.writeBack_keeps (s : State) (k c l : Nat) :
    State.Keeps s (State.writeBack s k c l) := by
  unfold State.writeBack; generalize List.range stripes = q
  extract_lets x
  split
  · exact .refl _
  · refine State.Keeps.foldl _ (fun s q => ?_) _ s
    split
    · split
      · exact .refl _
      · exact State.setParity_keeps ..
    · split
      · exact .refl _
      · exact State.setUnit_keeps ..

theorem execLayerRestart_keeps (cluster layer : Nat) (s : State) :
    Outcome.Keeps s (execLayerRestart cluster layer s) := by
  unfold execLayerRestart; apply Outcome.Keeps.next
  split
  · exact .refl _
  · extract_lets s1
    have h1 : State.Keeps s s1 := State.Keeps.foldl _ (fun s c =>
      (State.writeBack_keeps ..).trans ((State.updCluster_keeps ..).trans (State.settleColumn_keeps ..))) _ s
    exact h1.trans (State.reportState_keeps ..)

theorem execPatrolScrub_keeps (cluster col layer line : Nat) (e : EccResult) (s : State) :
    Outcome.Keeps s (execPatrolScrub cluster col layer line e s) := by
  unfold execPatrolScrub
  apply Outcome.Keeps.next
  split
  · exact .refl _
  · exact State.updCluster_keeps s _ _
  · extract_lets s1
    have h1 : State.Keeps s s1 := State.updCluster_keeps s _ _
    split
    · exact h1.trans (State.zeroRaw_keeps s1 _ _)
    · rename_i c l q _
      extract_lets key zeroed s2
      have h2 : State.Keeps s1 zeroed := by
        unfold zeroed
        split
        · exact .refl _
        · exact State.Keeps.foldl _ (fun s i => State.setDramByte_keeps s _ _ _ _ _ _) _ _
      have h3 : State.Keeps zeroed s2 := State.updCluster_keeps zeroed _ _
      split
      · exact h1.trans (h2.trans h3)
      · exact (h1.trans (h2.trans h3)).trans (State.reportPoison_keeps s2 _ _ _)

theorem State.firePf0_keeps (s : State) (vec : Nat) :
    State.Keeps s (State.firePf0 s vec) := by
  unfold State.firePf0; grind -ring -linarith -lia [State.Keeps, State.updPcie_keeps]

theorem State.reportThrottle_keeps (s : State) (field threshold : Nat) :
    State.Keeps s (State.reportThrottle s field threshold) := by
  unfold State.reportThrottle; grind -ring -linarith -lia [State.Keeps, State.firePf0_keeps, State.reportState_keeps]

theorem State.reportChanges_keeps (s : State) (field : Nat) (a b : Field) :
    State.Keeps s (State.reportChanges s field a b) := by
  unfold State.reportChanges; grind -ring -linarith -lia [State.Keeps, State.firePf0_keeps, → State.hold_keeps, State.pushFree_keeps, State.reportThrottle_keeps]

theorem State.setCur_keeps (s : State) (field : Nat) (code : BitVec 6) :
    State.Keeps s (State.setCur s field code) := by
  unfold State.setCur; grind -ring -linarith -lia [State.Keeps, State.staleBands_keeps, State.updField_keeps]

theorem State.preemptField_keeps (s : State) (field : Nat) :
    State.Keeps s (State.preemptField s field) := by
  unfold State.preemptField
  repeat' first
    | split
    | dsimp only
    | unfold Option.getD
    | grind -ring -linarith -lia [State.Keeps, State.requestPreempt_keeps]
    | refine State.Keeps.trans ?_ (State.requestPreempt_keeps ..)
    | (refine State.Keeps.trans ?_ (State.Keeps.foldl _ (fun s a => ?_) _ _) <;> try dsimp only)

theorem execThrottleStep_keeps (field : Nat) (power : Bool) (s : State) :
    Outcome.Keeps s (execThrottleStep field power s) := by
  unfold execThrottleStep; grind -ring -linarith -lia [State.Keeps, FireRes.Keeps, FireRes.Keeps.trans, Outcome.Keeps, Outcome.Keeps.trans, → State.hold_keeps, State.preemptField_keeps, State.reportChanges_keeps, State.setCur_keeps, State.setField_keeps]

theorem execThrottleRecovery_keeps (field : Nat) (s : State) :
    Outcome.Keeps s (execThrottleRecovery field s) := by
  unfold execThrottleRecovery; grind -ring -linarith -lia [State.Keeps, FireRes.Keeps, FireRes.Keeps.trans, Outcome.Keeps, Outcome.Keeps.trans, → State.hold_keeps, State.reportChanges_keeps, State.setCur_keeps, State.setField_keeps]

theorem execHoldClear_keeps (field : Nat) (s : State) :
    Outcome.Keeps s (execHoldClear field s) := by
  unfold execHoldClear; grind -ring -linarith -lia [State.Keeps, FireRes.Keeps, FireRes.Keeps.trans, Outcome.Keeps, Outcome.Keeps.trans, State.boothScan_keeps, → State.hold_keeps, State.reportChanges_keeps, State.setField_keeps]

theorem State.setClk_keeps (s : State) (field code : Nat) :
    State.Keeps s (State.setClk s field code) := by
  unfold State.setClk; grind -ring -linarith -lia [State.Keeps, State.setCur_keeps, State.updField_keeps]

theorem execClksetWrite_keeps (port field code : Nat) (s : State) :
    Outcome.Keeps s (execClksetWrite port field code s) := by
  unfold execClksetWrite; grind -ring -linarith -lia [State.Keeps, FireRes.Keeps, FireRes.Keeps.trans, Outcome.Keeps, Outcome.Keeps.trans, State.deny_keeps, State.setClk_keeps]

theorem State.putStart_keeps (s : State) (step variant : Nat) :
    State.Keeps s (State.putStart s step variant) := by
  unfold State.putStart
  repeat' first
    | split
    | dsimp only
    | unfold Option.getD
    | grind -ring -linarith -lia [State.Keeps, State.updField_keeps]
    | refine State.Keeps.trans ?_ (State.updField_keeps ..)
    | (refine State.Keeps.trans ?_ (State.Keeps.foldl _ (fun s a => ?_) _ _) <;> try dsimp only)

theorem State.putEnd_keeps (s : State) (step variant result : Nat) :
    State.Keeps s (State.putEnd s step variant result) := by
  unfold State.putEnd; grind -ring -linarith -lia [State.Keeps]

theorem State.fence_keeps (s : State) (f : Nat) :
    State.Keeps s (State.fence s f) := by
  unfold State.fence; grind -ring -linarith -lia [State.Keeps, State.updField_keeps, State.updPcie_keeps]

theorem State.recover_keeps (s : State) :
    State.Keeps s (State.recover s) := by
  unfold State.recover; grind -ring -linarith -lia [State.Keeps, State.updField_keeps, State.updPcie_keeps]

theorem State.join_keeps (s : State) (f variant rtt : Nat) :
    State.Keeps s (State.join s f variant rtt) := by
  unfold State.join; grind -ring -linarith -lia [State.Keeps, State.scrubTable_keeps, State.updField_keeps]

theorem State.beginJoin_keeps (s : State) (step : Nat) :
    State.Keeps s (State.beginJoin s step) := by
  unfold State.beginJoin; grind -ring -linarith -lia [State.Keeps, State.fence_keeps, State.putEnd_keeps, State.putStart_keeps]

theorem State.beginMandatory_keeps (s : State) (step : Nat) :
    State.Keeps s (State.beginMandatory s step) := by
  unfold State.beginMandatory; grind -ring -linarith -lia [State.Keeps, State.putStart_keeps, State.recover_keeps]

theorem State.advanceBoot_keeps (fuel : Nat) (s : State) :
    State.Keeps s (State.advanceBoot fuel s) := by
  induction fuel generalizing s with
  | zero => exact .refl _
  | succ n ih =>
    unfold State.advanceBoot
    split
    · exact .refl _
    · split
      · exact .same rfl rfl
      · extract_lets s1
        have h1 : State.Keeps s s1 := .same rfl rfl
        refine h1.trans (State.Keeps.trans ?_ (ih _))
        split
        · exact State.beginMandatory_keeps ..
        · exact State.Keeps.foldl _ (fun s k => State.beginJoin_keeps ..) _ _

theorem execBootStart_keeps (rom : RomTest) (factory : FirmwareCheck) (s : State) :
    Outcome.Keeps s (execBootStart rom factory s) := by
  unfold execBootStart; apply Outcome.Keeps.next
  split
  · exact .refl _
  · extract_lets fw ok s1
    have h1 : State.Keeps s s1 := ⟨fun _ => by simp only [s1]; split <;> rfl, id⟩
    exact h1.trans (State.beginMandatory_keeps ..)

theorem State.failMandatory_keeps (s : State) (step variant : Nat) :
    State.Keeps s (State.failMandatory s step variant) := by
  unfold State.failMandatory; grind -ring -linarith -lia [State.Keeps, State.putEnd_keeps, State.putStart_keeps, State.recover_keeps]

theorem execBootStep_keeps (step : Nat) (ok : StepResult) (s : State) :
    Outcome.Keeps s (execBootStep step ok s) := by
  unfold execBootStep; grind -ring -linarith -lia [State.Keeps, FireRes.Keeps, FireRes.Keeps.trans, Outcome.Keeps, Outcome.Keeps.trans, State.advanceBoot_keeps, State.failMandatory_keeps, State.fence_keeps, State.join_keeps, State.putEnd_keeps]

theorem State.restart_keeps (s : State) (keep : Bool) :
    State.Keeps s (State.restart s keep) := by
  unfold State.restart; exact ⟨fun _ => rfl, fun h => SMap.wf_filter _ _ _ h⟩

theorem State.rcvGo_keeps (s : State) (port : Nat) (jclr : Bool) :
    State.Keeps s (State.rcvGo s port jclr) := by
  unfold State.rcvGo; grind -ring -linarith -lia [State.Keeps, State.updPcie_keeps]

theorem execRcvcmdGo_keeps (port : Nat) (jclr : Bool) (s : State) :
    Outcome.Keeps s (execRcvcmdGo port jclr s) := by
  unfold execRcvcmdGo; grind -ring -linarith -lia [State.Keeps, FireRes.Keeps, FireRes.Keeps.trans, Outcome.Keeps, Outcome.Keeps.trans, State.rcvGo_keeps]

theorem execImageVerification_keeps (port : Nat) (s : State) :
    Outcome.Keeps s (execImageVerification port s) := by
  unfold execImageVerification; grind -ring -linarith -lia [State.Keeps, FireRes.Keeps, FireRes.Keeps.trans, Outcome.Keeps, Outcome.Keeps.trans, State.fresh_keeps, State.restart_keeps, State.updPcie_keeps]

theorem execPowerLoss_keeps (flashing : Bool) (s : State) :
    Outcome.Keeps s (execPowerLoss flashing s) := by
  unfold execPowerLoss; grind -ring -linarith -lia [State.Keeps, FireRes.Keeps, FireRes.Keeps.trans, Outcome.Keeps, Outcome.Keeps.trans, State.restart_keeps]

theorem execSpdmRequest_keeps (port index : Nat) (s : State) :
    Outcome.Keeps s (execSpdmRequest port index s) := by
  unfold execSpdmRequest; grind -ring -linarith -lia [State.Keeps, FireRes.Keeps, FireRes.Keeps.trans, Outcome.Keeps, Outcome.Keeps.trans]

theorem fireD_keeps_from (opc : BitVec 10) (n : Node) (s : State) (body : Ctx → FireRes)
    (hb : ∀ c : Ctx, State.Keeps s c.s → FireRes.Keeps s (body c)) : Outcome.Keeps s (fireD opc n s body) :=
  fire_keeps_from _ _ _ hb

theorem fireD_keeps (opc : BitVec 10) (n : Node) (s : State) (body : Ctx → FireRes) (hb : ∀ c : Ctx, FireRes.Keeps c.s (body c)) :
    Outcome.Keeps s (fireD opc n s body) := fire_keeps _ _ _ hb

theorem execIadd_keeps (n : Node) (s : State) :
    Outcome.Keeps s (execIadd n s) := by
  unfold execIadd; grind -ring -linarith -lia [State.Keeps, FireRes.Keeps, FireRes.Keeps.trans, Outcome.Keeps, Outcome.Keeps.trans, Ctx.mapInt_keeps, fireD_keeps]

theorem execIsub_keeps (n : Node) (s : State) :
    Outcome.Keeps s (execIsub n s) := by
  unfold execIsub; grind -ring -linarith -lia [State.Keeps, FireRes.Keeps, FireRes.Keeps.trans, Outcome.Keeps, Outcome.Keeps.trans, Ctx.mapInt_keeps, fireD_keeps]

theorem execIadds_keeps (n : Node) (s : State) :
    Outcome.Keeps s (execIadds n s) := by
  unfold execIadds; grind -ring -linarith -lia [State.Keeps, FireRes.Keeps, FireRes.Keeps.trans, Outcome.Keeps, Outcome.Keeps.trans, Ctx.mapInt_keeps, fireD_keeps]

theorem execIsubs_keeps (n : Node) (s : State) :
    Outcome.Keeps s (execIsubs n s) := by
  unfold execIsubs; grind -ring -linarith -lia [State.Keeps, FireRes.Keeps, FireRes.Keeps.trans, Outcome.Keeps, Outcome.Keeps.trans, Ctx.mapInt_keeps, fireD_keeps]

theorem execImul_keeps (n : Node) (s : State) :
    Outcome.Keeps s (execImul n s) := by
  unfold execImul; grind -ring -linarith -lia [State.Keeps, FireRes.Keeps, FireRes.Keeps.trans, Outcome.Keeps, Outcome.Keeps.trans, Ctx.mapInt_keeps, fireD_keeps]

theorem execImulh_keeps (n : Node) (s : State) :
    Outcome.Keeps s (execImulh n s) := by
  unfold execImulh; grind -ring -linarith -lia [State.Keeps, FireRes.Keeps, FireRes.Keeps.trans, Outcome.Keeps, Outcome.Keeps.trans, Ctx.mapInt_keeps, fireD_keeps]

theorem execImad_keeps (n : Node) (s : State) :
    Outcome.Keeps s (execImad n s) := by
  unfold execImad; grind -ring -linarith -lia [State.Keeps, FireRes.Keeps, FireRes.Keeps.trans, Outcome.Keeps, Outcome.Keeps.trans, Ctx.mapInt_keeps, fireD_keeps]

theorem Ctx.divide_keeps (c : Ctx) (g : Nat × Nat → Nat) :
    FireRes.Keeps c.s (Ctx.divide c g) := by
  unfold Ctx.divide
  extract_lets s
  exact FireRes.Keeps.trans (s := c.s) (t := s) (by simp only [s]; split <;> first | exact Ctx.withFlags_keeps .. | exact .refl _)
    (Ctx.mapInt_keeps { c with s := s } _)

theorem execIdiv_keeps (n : Node) (s : State) :
    Outcome.Keeps s (execIdiv n s) := by
  unfold execIdiv; grind -ring -linarith -lia [State.Keeps, FireRes.Keeps, FireRes.Keeps.trans, Outcome.Keeps, Outcome.Keeps.trans, Ctx.divide_keeps, fireD_keeps]

theorem execIrem_keeps (n : Node) (s : State) :
    Outcome.Keeps s (execIrem n s) := by
  unfold execIrem; grind -ring -linarith -lia [State.Keeps, FireRes.Keeps, FireRes.Keeps.trans, Outcome.Keeps, Outcome.Keeps.trans, Ctx.divide_keeps, fireD_keeps]

theorem execImin_keeps (n : Node) (s : State) :
    Outcome.Keeps s (execImin n s) := by
  unfold execImin; grind -ring -linarith -lia [State.Keeps, FireRes.Keeps, FireRes.Keeps.trans, Outcome.Keeps, Outcome.Keeps.trans, Ctx.mapInt_keeps, fireD_keeps]

theorem execImax_keeps (n : Node) (s : State) :
    Outcome.Keeps s (execImax n s) := by
  unfold execImax; grind -ring -linarith -lia [State.Keeps, FireRes.Keeps, FireRes.Keeps.trans, Outcome.Keeps, Outcome.Keeps.trans, Ctx.mapInt_keeps, fireD_keeps]

theorem execIabs_keeps (n : Node) (s : State) :
    Outcome.Keeps s (execIabs n s) := by
  unfold execIabs; grind -ring -linarith -lia [State.Keeps, FireRes.Keeps, FireRes.Keeps.trans, Outcome.Keeps, Outcome.Keeps.trans, Ctx.mapInt_keeps, fireD_keeps]

theorem execIneg_keeps (n : Node) (s : State) :
    Outcome.Keeps s (execIneg n s) := by
  unfold execIneg; grind -ring -linarith -lia [State.Keeps, FireRes.Keeps, FireRes.Keeps.trans, Outcome.Keeps, Outcome.Keeps.trans, Ctx.mapInt_keeps, fireD_keeps]

theorem Ctx.logic_keeps (c : Ctx) (g : Nat → Nat → Nat) :
    FireRes.Keeps c.s (Ctx.logic c g) := by
  unfold Ctx.logic; grind -ring -linarith -lia [State.Keeps, FireRes.Keeps, FireRes.Keeps.trans, Ctx.mapInt_keeps]

theorem execAnd_keeps (n : Node) (s : State) :
    Outcome.Keeps s (execAnd n s) := by
  unfold execAnd; grind -ring -linarith -lia [State.Keeps, FireRes.Keeps, FireRes.Keeps.trans, Outcome.Keeps, Outcome.Keeps.trans, Ctx.logic_keeps, fireD_keeps]

theorem execOr_keeps (n : Node) (s : State) :
    Outcome.Keeps s (execOr n s) := by
  unfold execOr; grind -ring -linarith -lia [State.Keeps, FireRes.Keeps, FireRes.Keeps.trans, Outcome.Keeps, Outcome.Keeps.trans, Ctx.logic_keeps, fireD_keeps]

theorem execXor_keeps (n : Node) (s : State) :
    Outcome.Keeps s (execXor n s) := by
  unfold execXor; grind -ring -linarith -lia [State.Keeps, FireRes.Keeps, FireRes.Keeps.trans, Outcome.Keeps, Outcome.Keeps.trans, Ctx.logic_keeps, fireD_keeps]

theorem execAndn_keeps (n : Node) (s : State) :
    Outcome.Keeps s (execAndn n s) := by
  unfold execAndn; grind -ring -linarith -lia [State.Keeps, FireRes.Keeps, FireRes.Keeps.trans, Outcome.Keeps, Outcome.Keeps.trans, Ctx.logic_keeps, fireD_keeps]

theorem execOrn_keeps (n : Node) (s : State) :
    Outcome.Keeps s (execOrn n s) := by
  unfold execOrn; grind -ring -linarith -lia [State.Keeps, FireRes.Keeps, FireRes.Keeps.trans, Outcome.Keeps, Outcome.Keeps.trans, Ctx.logic_keeps, fireD_keeps]

theorem execShl_keeps (n : Node) (s : State) :
    Outcome.Keeps s (execShl n s) := by
  unfold execShl; grind -ring -linarith -lia [State.Keeps, FireRes.Keeps, FireRes.Keeps.trans, Outcome.Keeps, Outcome.Keeps.trans, Ctx.mapInt_keeps, fireD_keeps]

theorem execShr_keeps (n : Node) (s : State) :
    Outcome.Keeps s (execShr n s) := by
  unfold execShr; grind -ring -linarith -lia [State.Keeps, FireRes.Keeps, FireRes.Keeps.trans, Outcome.Keeps, Outcome.Keeps.trans, Ctx.mapInt_keeps, fireD_keeps]

theorem execSar_keeps (n : Node) (s : State) :
    Outcome.Keeps s (execSar n s) := by
  unfold execSar; grind -ring -linarith -lia [State.Keeps, FireRes.Keeps, FireRes.Keeps.trans, Outcome.Keeps, Outcome.Keeps.trans, Ctx.mapInt_keeps, fireD_keeps]

theorem execRol_keeps (n : Node) (s : State) :
    Outcome.Keeps s (execRol n s) := by
  unfold execRol; grind -ring -linarith -lia [State.Keeps, FireRes.Keeps, FireRes.Keeps.trans, Outcome.Keeps, Outcome.Keeps.trans, Ctx.mapInt_keeps, fireD_keeps]

theorem execClz_keeps (n : Node) (s : State) :
    Outcome.Keeps s (execClz n s) := by
  unfold execClz; grind -ring -linarith -lia [State.Keeps, FireRes.Keeps, FireRes.Keeps.trans, Outcome.Keeps, Outcome.Keeps.trans, Ctx.mapInt_keeps, fireD_keeps]

theorem execCtz_keeps (n : Node) (s : State) :
    Outcome.Keeps s (execCtz n s) := by
  unfold execCtz; grind -ring -linarith -lia [State.Keeps, FireRes.Keeps, FireRes.Keeps.trans, Outcome.Keeps, Outcome.Keeps.trans, Ctx.mapInt_keeps, fireD_keeps]

theorem execPopc_keeps (n : Node) (s : State) :
    Outcome.Keeps s (execPopc n s) := by
  unfold execPopc; grind -ring -linarith -lia [State.Keeps, FireRes.Keeps, FireRes.Keeps.trans, Outcome.Keeps, Outcome.Keeps.trans, Ctx.mapInt_keeps, fireD_keeps]

theorem execBrev_keeps (n : Node) (s : State) :
    Outcome.Keeps s (execBrev n s) := by
  unfold execBrev; grind -ring -linarith -lia [State.Keeps, FireRes.Keeps, FireRes.Keeps.trans, Outcome.Keeps, Outcome.Keeps.trans, Ctx.mapInt_keeps, fireD_keeps]

theorem execBfx_keeps (n : Node) (s : State) :
    Outcome.Keeps s (execBfx n s) := by
  unfold execBfx; grind -ring -linarith -lia [State.Keeps, FireRes.Keeps, FireRes.Keeps.trans, Outcome.Keeps, Outcome.Keeps.trans, Ctx.mapInt_keeps, fireD_keeps]

theorem execBfi_keeps (n : Node) (s : State) :
    Outcome.Keeps s (execBfi n s) := by
  unfold execBfi; grind -ring -linarith -lia [State.Keeps, FireRes.Keeps, FireRes.Keeps.trans, Outcome.Keeps, Outcome.Keeps.trans, Ctx.mapInt_keeps, fireD_keeps]

theorem execIcmp_keeps (n : Node) (s : State) :
    Outcome.Keeps s (execIcmp n s) := by
  unfold execIcmp; grind -ring -linarith -lia [State.Keeps, FireRes.Keeps, FireRes.Keeps.trans, Outcome.Keeps, Outcome.Keeps.trans, Ctx.emitBoth_keeps, fireD_keeps]

theorem execSel_keeps (n : Node) (s : State) :
    Outcome.Keeps s (execSel n s) := by
  unfold execSel; grind -ring -linarith -lia [State.Keeps, FireRes.Keeps, FireRes.Keeps.trans, Outcome.Keeps, Outcome.Keeps.trans, Ctx.emitBoth_keeps, fireD_keeps]

theorem execLit_keeps (n : NodeL) (s : State) :
    Outcome.Keeps s (execLit n s) := by
  unfold execLit; grind -ring -linarith -lia [State.Keeps, FireRes.Keeps, FireRes.Keeps.trans, Outcome.Keeps, Outcome.Keeps.trans, Ctx.emitBoth_keeps, fire_keeps]

theorem execAadr_keeps (n : NodeL) (s : State) :
    Outcome.Keeps s (execAadr n s) := by
  unfold execAadr; grind -ring -linarith -lia [State.Keeps, FireRes.Keeps, FireRes.Keeps.trans, Outcome.Keeps, Outcome.Keeps.trans, Ctx.mapInt_keeps, fire_keeps]

theorem execCvti_keeps (n : Node) (s : State) :
    Outcome.Keeps s (execCvti n s) := by
  unfold execCvti; grind -ring -linarith -lia [State.Keeps, FireRes.Keeps, FireRes.Keeps.trans, Outcome.Keeps, Outcome.Keeps.trans, Ctx.emitBoth_keeps, fireD_keeps]

theorem Ctx.setOrder_keeps (c : Ctx) (d : Nat) :
    State.Keeps c.s (Ctx.setOrder c d) := by
  unfold Ctx.setOrder; grind -ring -linarith -lia [State.Keeps, Ctx.upd_keeps]

theorem execJord_keeps (n : Node) (s : State) :
    Outcome.Keeps s (execJord n s) := by
  unfold execJord; grind -ring -linarith -lia [State.Keeps, FireRes.Keeps, FireRes.Keeps.trans, Outcome.Keeps, Outcome.Keeps.trans, Ctx.emitBoth_keeps, Ctx.setOrder_keeps, fire_keeps]

theorem execJseed_keeps (n : Node) (s : State) :
    Outcome.Keeps s (execJseed n s) := by
  unfold execJseed; grind -ring -linarith -lia [State.Keeps, FireRes.Keeps, FireRes.Keeps.trans, Outcome.Keeps, Outcome.Keeps.trans, Ctx.emitBoth_keeps, fire_keeps]

theorem execJconst_keeps (n : Node) (s : State) :
    Outcome.Keeps s (execJconst n s) := by
  unfold execJconst; grind -ring -linarith -lia [State.Keeps, FireRes.Keeps, FireRes.Keeps.trans, Outcome.Keeps, Outcome.Keeps.trans, Ctx.emitBoth_keeps, fire_keeps]

theorem execJget_keeps (n : Node) (s : State) :
    Outcome.Keeps s (execJget n s) := by
  unfold execJget; grind -ring -linarith -lia [State.Keeps, FireRes.Keeps, FireRes.Keeps.trans, Outcome.Keeps, Outcome.Keeps.trans, Ctx.emitF_keeps, fire_keeps]

theorem execJput_keeps (n : Node) (s : State) :
    Outcome.Keeps s (execJput n s) := by
  unfold execJput; grind -ring -linarith -lia [State.Keeps, FireRes.Keeps, FireRes.Keeps.trans, Outcome.Keeps, Outcome.Keeps.trans, Ctx.emitBoth_keeps, Ctx.emitF_keeps, fire_keeps]

theorem execJdiff_keeps (n : Node) (s : State) :
    Outcome.Keeps s (execJdiff n s) := by
  unfold execJdiff; grind -ring -linarith -lia [State.Keeps, FireRes.Keeps, FireRes.Keeps.trans, Outcome.Keeps, Outcome.Keeps.trans, Ctx.mapJet_keeps, fire_keeps]

theorem execJintg_keeps (n : Node) (s : State) :
    Outcome.Keeps s (execJintg n s) := by
  unfold execJintg; grind -ring -linarith -lia [State.Keeps, FireRes.Keeps, FireRes.Keeps.trans, Outcome.Keeps, Outcome.Keeps.trans, Ctx.mapJet_keeps, fire_keeps]

theorem execJtrunc_keeps (n : Node) (s : State) :
    Outcome.Keeps s (execJtrunc n s) := by
  unfold execJtrunc; grind -ring -linarith -lia [State.Keeps, FireRes.Keeps, FireRes.Keeps.trans, Outcome.Keeps, Outcome.Keeps.trans, Ctx.emitBoth_keeps, Ctx.mapJet_keeps, fire_keeps]

theorem execJflag_keeps (n : Node) (s : State) :
    Outcome.Keeps s (execJflag n s) := by
  unfold execJflag; grind -ring -linarith -lia [State.Keeps, FireRes.Keeps, FireRes.Keeps.trans, Outcome.Keeps, Outcome.Keeps.trans, Ctx.emitBoth_keeps, Ctx.upd_keeps, fire_keeps]

theorem execCtxalloc_keeps (n : Node) (s : State) :
    Outcome.Keeps s (execCtxalloc n s) := by
  unfold execCtxalloc; grind -ring -linarith -lia [State.Keeps, FireRes.Keeps, FireRes.Keeps.trans, Outcome.Keeps, Outcome.Keeps.trans, → Ctx.allocate_keeps, fire_keeps]

theorem execCtxfree_keeps (n : Node) (s : State) :
    Outcome.Keeps s (execCtxfree n s) := by
  unfold execCtxfree; grind -ring -linarith -lia [State.Keeps, FireRes.Keeps, FireRes.Keeps.trans, Outcome.Keeps, Outcome.Keeps.trans, Ctx.passA_keeps, State.freeColour_keeps, fire_keeps]

theorem execPack_keeps (n : Node) (s : State) :
    Outcome.Keeps s (execPack n s) := by
  unfold execPack; grind -ring -linarith -lia [State.Keeps, FireRes.Keeps, FireRes.Keeps.trans, Outcome.Keeps, Outcome.Keeps.trans, Ctx.emitBoth_keeps, fire_keeps]

theorem execUnpack_keeps (n : Node) (s : State) :
    Outcome.Keeps s (execUnpack n s) := by
  unfold execUnpack; grind -ring -linarith -lia [State.Keeps, FireRes.Keeps, FireRes.Keeps.trans, Outcome.Keeps, Outcome.Keeps.trans, fire_keeps]

theorem execBcast_keeps (n : Node) (s : State) :
    Outcome.Keeps s (execBcast n s) := by
  unfold execBcast; grind -ring -linarith -lia [State.Keeps, FireRes.Keeps, FireRes.Keeps.trans, Outcome.Keeps, Outcome.Keeps.trans, Ctx.emitBoth_keeps, fire_keeps]

theorem execShuf_keeps (n : Node) (s : State) :
    Outcome.Keeps s (execShuf n s) := by
  unfold execShuf; grind -ring -linarith -lia [State.Keeps, FireRes.Keeps, FireRes.Keeps.trans, Outcome.Keeps, Outcome.Keeps.trans, Ctx.emitBoth_keeps, fire_keeps]

theorem execLget_keeps (n : Node) (s : State) :
    Outcome.Keeps s (execLget n s) := by
  unfold execLget; grind -ring -linarith -lia [State.Keeps, FireRes.Keeps, FireRes.Keeps.trans, Outcome.Keeps, Outcome.Keeps.trans, Ctx.emitBoth_keeps, fire_keeps]

theorem execLput_keeps (n : Node) (s : State) :
    Outcome.Keeps s (execLput n s) := by
  unfold execLput; grind -ring -linarith -lia [State.Keeps, FireRes.Keeps, FireRes.Keeps.trans, Outcome.Keeps, Outcome.Keeps.trans, Ctx.emitBoth_keeps, fire_keeps]

theorem execLred_keeps (n : Node) (s : State) :
    Outcome.Keeps s (execLred n s) := by
  unfold execLred; grind -ring -linarith -lia [State.Keeps, FireRes.Keeps, FireRes.Keeps.trans, Outcome.Keeps, Outcome.Keeps.trans, Ctx.emitF_keeps, fire_keeps]

theorem execLscan_keeps (n : Node) (s : State) :
    Outcome.Keeps s (execLscan n s) := by
  unfold execLscan; grind -ring -linarith -lia [State.Keeps, FireRes.Keeps, FireRes.Keeps.trans, Outcome.Keeps, Outcome.Keeps.trans, Ctx.emitF_keeps, fire_keeps]

theorem execWidth_keeps (n : Node) (s : State) :
    Outcome.Keeps s (execWidth n s) := by
  unfold execWidth; grind -ring -linarith -lia [State.Keeps, FireRes.Keeps, FireRes.Keeps.trans, Outcome.Keeps, Outcome.Keeps.trans, Ctx.passA_keeps, Ctx.upd_keeps, fire_keeps]

theorem State.claim_keeps (s : State) (port : Nat) :
    State.Keeps s (State.claim s port) := by
  unfold State.claim; grind -ring -linarith -lia [State.Keeps, State.firePf0_keeps, State.updPcie_keeps]

theorem execOwnClaim_keeps (port : Nat) (s : State) :
    Outcome.Keeps s (execOwnClaim port s) := by
  unfold execOwnClaim; grind -ring -linarith -lia [State.Keeps, FireRes.Keeps, FireRes.Keeps.trans, Outcome.Keeps, Outcome.Keeps.trans, State.claim_keeps]

theorem State.giveUp_keeps (s : State) (port : Nat) :
    State.Keeps s (State.giveUp s port) := by
  unfold State.giveUp; grind -ring -linarith -lia [State.Keeps]

theorem execOwnRelease_keeps (port : Nat) (s : State) :
    Outcome.Keeps s (execOwnRelease port s) := by
  unfold execOwnRelease; grind -ring -linarith -lia [State.Keeps, FireRes.Keeps, FireRes.Keeps.trans, Outcome.Keeps, Outcome.Keeps.trans, State.giveUp_keeps]

theorem State.beat_keeps (s : State) (port : Nat) :
    State.Keeps s (State.beat s port) := by
  unfold State.beat; grind -ring -linarith -lia [State.Keeps, State.deny_keeps]

theorem execHbBeat_keeps (port : Nat) (s : State) :
    Outcome.Keeps s (execHbBeat port s) := by
  unfold execHbBeat; grind -ring -linarith -lia [State.Keeps, FireRes.Keeps, FireRes.Keeps.trans, Outcome.Keeps, Outcome.Keeps.trans, State.beat_keeps]

theorem execOwnerLost_keeps (s : State) :
    Outcome.Keeps s (execOwnerLost s) := by
  unfold execOwnerLost; grind -ring -linarith -lia [State.Keeps, FireRes.Keeps, FireRes.Keeps.trans, Outcome.Keeps, Outcome.Keeps.trans]

theorem execLinkUpChange_keeps (port : Nat) (up : Bool) (rate width : Nat) (s : State) :
    Outcome.Keeps s (execLinkUpChange port up rate width s) := by
  unfold execLinkUpChange; grind -ring -linarith -lia [State.Keeps, FireRes.Keeps, FireRes.Keeps.trans, Outcome.Keeps, Outcome.Keeps.trans, State.updPcie_keeps]

theorem State.mbEnd_keeps (s : State) (field code : Nat) (res : DWord) :
    State.Keeps s (State.mbEnd s field code res) := by
  unfold State.mbEnd; grind -ring -linarith -lia [State.Keeps, State.updField_keeps]

theorem State.mailbox_keeps (s : State) (field op : Nat) (run : Field → State) (h : ∀ f, State.Keeps s (run f)) :
    State.Keeps s (State.mailbox s field op run) := by
  unfold State.mailbox; dsimp only; split
  · exact h _
  · exact .refl s

theorem execRegionRelease_keeps (field : Nat) (s : State) :
    Outcome.Keeps s (execRegionRelease field s) := by
  unfold execRegionRelease; grind -ring -linarith -lia [State.Keeps, FireRes.Keeps, FireRes.Keeps.trans, Outcome.Keeps, Outcome.Keeps.trans, State.mailbox_keeps, State.mbEnd_keeps, State.updCluster_keeps]

theorem execUnitClear_keeps (field : Nat) (s : State) :
    Outcome.Keeps s (execUnitClear field s) := by
  unfold execUnitClear; grind -ring -linarith -lia [State.Keeps, FireRes.Keeps, FireRes.Keeps.trans, Outcome.Keeps, Outcome.Keeps.trans, State.mailbox_keeps, State.mbEnd_keeps, State.updCluster_keeps]

theorem execPageGrant_keeps (field : Nat) (s : State) :
    Outcome.Keeps s (execPageGrant field s) := by
  unfold execPageGrant; grind -ring -linarith -lia [State.Keeps, FireRes.Keeps, FireRes.Keeps.trans, Outcome.Keeps, Outcome.Keeps.trans, State.mailbox_keeps, State.mbEnd_keeps, State.updField_keeps]

theorem execCoreRetire_keeps (field : Nat) (s : State) :
    Outcome.Keeps s (execCoreRetire field s) := by
  unfold execCoreRetire; grind -ring -linarith -lia [State.Keeps, FireRes.Keeps, FireRes.Keeps.trans, Outcome.Keeps, Outcome.Keeps.trans, State.mailbox_keeps, State.mbEnd_keeps, State.retireCore_keeps]

theorem execJournalClear_keeps (field : Nat) (s : State) :
    Outcome.Keeps s (execJournalClear field s) := by
  unfold execJournalClear; grind -ring -linarith -lia [State.Keeps, FireRes.Keeps, FireRes.Keeps.trans, Outcome.Keeps, Outcome.Keeps.trans, State.mailbox_keeps, State.mbEnd_keeps]

theorem execSvnCommit_keeps (field : Nat) (s : State) :
    Outcome.Keeps s (execSvnCommit field s) := by
  unfold execSvnCommit; grind -ring -linarith -lia [State.Keeps, FireRes.Keeps, FireRes.Keeps.trans, Outcome.Keeps, Outcome.Keeps.trans, State.mailbox_keeps, State.mbEnd_keeps]

theorem execMailboxBadCommand_keeps (field : Nat) (s : State) :
    Outcome.Keeps s (execMailboxBadCommand field s) := by
  unfold execMailboxBadCommand; grind -ring -linarith -lia [State.Keeps, FireRes.Keeps, FireRes.Keeps.trans, Outcome.Keeps, Outcome.Keeps.trans, State.mbEnd_keeps]

theorem execReportRingWrite_keeps (s : State) :
    Outcome.Keeps s (execReportRingWrite s) := by
  unfold execReportRingWrite; grind -ring -linarith -lia [State.Keeps, FireRes.Keeps, FireRes.Keeps.trans, Outcome.Keeps, Outcome.Keeps.trans, State.firePf0_keeps, State.fresh_keeps, State.writeRange_keeps]

theorem State.transmit_keeps (s : State) (n : Nat) (fs : List (Nat × LinkFrame)) :
    State.Keeps s (State.transmit s n fs) := by
  unfold State.transmit; grind -ring -linarith -lia [State.Keeps]

theorem State.pump_keeps (fuel : Nat) (s : State) (n : Nat) :
    State.Keeps s (State.pump fuel s n) := by
  fun_induction State.pump fuel s n <;> grind -ring -linarith -lia [State.Keeps, State.transmit_keeps, State.updPort_keeps]

theorem State.flushPort_keeps (s : State) (n : Nat) :
    State.Keeps s (State.flushPort s n) := by
  unfold State.flushPort; grind -ring -linarith -lia [State.Keeps, State.pump_keeps]

theorem State.pdrop_keeps (s : State) (n k : Nat) :
    State.Keeps s (State.pdrop s n k) := by
  unfold State.pdrop; grind -ring -linarith -lia [State.Keeps, State.updPort_keeps]

theorem State.dropEgress_keeps (s : State) (n : Nat) (fl : Flight) :
    State.Keeps s (State.dropEgress s n fl) := by
  unfold State.dropEgress; grind -ring -linarith -lia [State.Keeps, State.pdrop_keeps, State.raiseEvent_keeps]

theorem execPortEgress_keeps (port k : Nat) (s : State) :
    Outcome.Keeps s (execPortEgress port k s) := by
  unfold execPortEgress; grind -ring -linarith -lia [State.Keeps, FireRes.Keeps, FireRes.Keeps.trans, Outcome.Keeps, Outcome.Keeps.trans, State.dropEgress_keeps, State.flushPort_keeps, State.updPort_keeps]

theorem State.meetIn_keeps (s : State) (n : Nat) (t : Token) (u : State) (h : s.meetIn n t = some u) : State.Keeps s u := by
  unfold State.meetIn at h
  dsimp only at h
  (repeat' split at h) <;> first
    | (simp at h; done)
    | (injection h with h; subst h; exact State.Keeps.same rfl rfl)

theorem State.deliverPort_keeps (s : State) (n : Nat) (t : Token) :
    State.Keeps s (State.deliverPort s n t) := by
  unfold State.deliverPort
  split
  · split
    · rcases e : s.meetIn n t with _ | u
      · exact State.send_keeps ..
      · exact State.meetIn_keeps _ _ _ _ e
    · exact State.pdrop_keeps ..
  · exact State.pdrop_keeps ..

theorem State.flitIn_keeps (s : State) (n vc : Nat) (b : BitVec 512) :
    State.Keeps s (State.flitIn s n vc b) := by
  unfold State.flitIn; grind -ring -linarith -lia [State.Keeps, State.deliverPort_keeps, State.updPort_keeps]

theorem State.slotIn_keeps (s : State) (n : Nat) (x : LinkSlot) :
    State.Keeps s (State.slotIn s n x) := by
  unfold State.slotIn; grind -ring -linarith -lia [State.Keeps, State.flitIn_keeps, State.updPort_keeps]

theorem State.consume_keeps (fuel : Nat) (s : State) (n : Nat) :
    State.Keeps s (State.consume fuel s n) := by
  fun_induction State.consume fuel s n
  · exact .refl _
  · exact .refl _
  · rename_i ih
    refine State.Keeps.trans ?_ ih
    exact (State.Keeps.foldl _ (fun s x => State.slotIn_keeps ..) _ _).trans (State.updPort_keeps ..)

theorem State.resend_keeps (s : State) (n l i : Nat) :
    State.Keeps s (State.resend s n l i) := by
  unfold State.resend; grind -ring -linarith -lia [State.Keeps, State.replay_keeps, State.transmit_keeps, State.updPort_keeps]

theorem State.nakIn_keeps (s : State) (n l : Nat) (q : BitVec 12) :
    State.Keeps s (State.nakIn s n l q) := by
  unfold State.nakIn; grind -ring -linarith -lia [State.Keeps, State.flushPort_keeps, State.resend_keeps]

theorem execNakReplay_keeps (port lane seq : Nat) (s : State) :
    Outcome.Keeps s (execNakReplay port lane seq s) := by
  unfold execNakReplay; grind -ring -linarith -lia [State.Keeps, FireRes.Keeps, FireRes.Keeps.trans, Outcome.Keeps, Outcome.Keeps.trans, State.nakIn_keeps]

theorem State.discardFrame_keeps (s : State) (n l : Nat) (f : LinkFrame) :
    State.Keeps s (State.discardFrame s n l f) := by
  unfold State.discardFrame; grind -ring -linarith -lia [State.Keeps, State.pdrop_keeps, State.updPort_keeps]

theorem State.settle_keeps (s : State) (n : Nat) :
    State.Keeps s (State.settle s n) := by
  unfold State.settle; grind -ring -linarith -lia [State.Keeps, State.pdrop_keeps, State.updPort_keeps]

theorem State.putResp_keeps (s : State) (n : Nat) :
    State.Keeps s (State.putResp s n) := by
  unfold State.putResp; grind -ring -linarith -lia [State.Keeps, State.updPort_keeps, State.writeRange_keeps]

theorem State.lmResp_keeps (s : State) (n code cseq : Nat) :
    State.Keeps s (State.lmResp s n code cseq) := by
  unfold State.lmResp; grind -ring -linarith -lia [State.Keeps, State.putResp_keeps, State.updPort_keeps]

theorem State.answerAsked_keeps (s : State) (n l code : Nat) :
    State.Keeps s (State.answerAsked s n l code) := by
  unfold State.answerAsked; grind -ring -linarith -lia [State.Keeps, State.lmResp_keeps, State.updPort_keeps]

theorem State.linkLost_keeps (s : State) (n : Nat) :
    State.Keeps s (State.linkLost s n) := by
  unfold State.linkLost; grind -ring -linarith -lia [State.Keeps]

theorem State.goDown_keeps (s : State) (n : Nat) :
    State.Keeps s (State.goDown s n) := by
  unfold State.goDown; grind -ring -linarith -lia [State.Keeps, State.answerAsked_keeps, State.linkLost_keeps, State.pdrop_keeps, State.updPort_keeps]

theorem State.checkDown_keeps (s : State) (n : Nat) :
    State.Keeps s (State.checkDown s n) := by
  unfold State.checkDown; grind -ring -linarith -lia [State.Keeps, State.flushPort_keeps, State.goDown_keeps, State.updPort_keeps]

theorem State.checkUp_keeps (s : State) (n : Nat) :
    State.Keeps s (State.checkUp s n) := by
  unfold State.checkUp; grind -ring -linarith -lia [State.Keeps, State.settle_keeps, State.updPort_keeps]

theorem State.activate_keeps (s : State) (n l : Nat) :
    State.Keeps s (State.activate s n l) := by
  unfold State.activate; grind -ring -linarith -lia [State.Keeps, State.checkUp_keeps, State.flushPort_keeps, State.resend_keeps, State.updPort_keeps]

theorem State.land_keeps (s : State) (n l : Nat) :
    State.Keeps s (State.land s n l) := by
  unfold State.land; grind -ring -linarith -lia [State.Keeps, State.activate_keeps, State.answerAsked_keeps, State.updPort_keeps]

theorem State.retireLane_keeps (s : State) (n l : Nat) :
    State.Keeps s (State.retireLane s n l) := by
  unfold State.retireLane; grind -ring -linarith -lia [State.Keeps, State.answerAsked_keeps, State.checkDown_keeps, State.flushPort_keeps, State.updPort_keeps]

theorem State.failLane_keeps (s : State) (n l : Nat) (ring : Bool) :
    State.Keeps s (State.failLane s n l ring) := by
  unfold State.failLane; grind -ring -linarith -lia [State.Keeps, State.flushPort_keeps, State.retireLane_keeps, State.updPort_keeps]

theorem execLaneTuneDone_keeps (port lane mon : Nat) (s : State) :
    Outcome.Keeps s (execLaneTuneDone port lane mon s) := by
  unfold execLaneTuneDone; grind -ring -linarith -lia [State.Keeps, FireRes.Keeps, FireRes.Keeps.trans, Outcome.Keeps, Outcome.Keeps.trans, State.failLane_keeps, State.land_keeps, State.updPort_keeps]

theorem execLaneTrainDone_keeps (port lane : Nat) (s : State) :
    Outcome.Keeps s (execLaneTrainDone port lane s) := by
  unfold execLaneTrainDone; grind -ring -linarith -lia [State.Keeps, FireRes.Keeps, FireRes.Keeps.trans, Outcome.Keeps, Outcome.Keeps.trans, State.activate_keeps]

theorem execBerFault_keeps (port lane : Nat) (s : State) :
    Outcome.Keeps s (execBerFault port lane s) := by
  unfold execBerFault; grind -ring -linarith -lia [State.Keeps, FireRes.Keeps, FireRes.Keeps.trans, Outcome.Keeps, Outcome.Keeps.trans, State.failLane_keeps, State.updPort_keeps]

theorem State.moveIn_keeps (s : State) (n l wl : Nat) :
    State.Keeps s (State.moveIn s n l wl) := by
  unfold State.moveIn; grind -ring -linarith -lia [State.Keeps, State.answerAsked_keeps, State.flushPort_keeps, State.retireLane_keeps, State.updPort_keeps]

theorem execMove_keeps (port lane wl : Nat) (s : State) :
    Outcome.Keeps s (execMove port lane wl s) := by
  unfold execMove; grind -ring -linarith -lia [State.Keeps, FireRes.Keeps, FireRes.Keeps.trans, Outcome.Keeps, Outcome.Keeps.trans, State.moveIn_keeps]

theorem State.moveAck_keeps (s : State) (n l : Nat) :
    State.Keeps s (State.moveAck s n l) := by
  unfold State.moveAck; grind -ring -linarith -lia [State.Keeps, State.updPort_keeps]

theorem execMoveack_keeps (port lane : Nat) (s : State) :
    Outcome.Keeps s (execMoveack port lane s) := by
  unfold execMoveack; grind -ring -linarith -lia [State.Keeps, FireRes.Keeps, FireRes.Keeps.trans, Outcome.Keeps, Outcome.Keeps.trans, State.moveAck_keeps]

theorem State.moveNak_keeps (s : State) (n l : Nat) :
    State.Keeps s (State.moveNak s n l) := by
  unfold State.moveNak; grind -ring -linarith -lia [State.Keeps, State.answerAsked_keeps, State.flushPort_keeps, State.retireLane_keeps, State.updPort_keeps]

theorem execMovenak_keeps (port lane : Nat) (s : State) :
    Outcome.Keeps s (execMovenak port lane s) := by
  unfold execMovenak; grind -ring -linarith -lia [State.Keeps, FireRes.Keeps, FireRes.Keeps.trans, Outcome.Keeps, Outcome.Keeps.trans, State.moveNak_keeps]

theorem State.restripeOut_keeps (s : State) (n : Nat) (stripe : BitVec 12) :
    State.Keeps s (State.restripeOut s n stripe) := by
  unfold State.restripeOut; grind -ring -linarith -lia [State.Keeps, State.flushPort_keeps, State.updPort_keeps]

theorem State.restripe_keeps (s : State) (n l : Nat) (stripe : BitVec 12) :
    State.Keeps s (State.restripe s n l stripe) := by
  unfold State.restripe; grind -ring -linarith -lia [State.Keeps, State.restripeOut_keeps, State.retireLane_keeps]

theorem execRestripe_keeps (port lane stripe : Nat) (s : State) :
    Outcome.Keeps s (execRestripe port lane stripe s) := by
  unfold execRestripe; grind -ring -linarith -lia [State.Keeps, FireRes.Keeps, FireRes.Keeps.trans, Outcome.Keeps, Outcome.Keeps.trans, State.restripe_keeps]

theorem execDown_keeps (port : Nat) (s : State) :
    Outcome.Keeps s (execDown port s) := by
  unfold execDown; grind -ring -linarith -lia [State.Keeps, FireRes.Keeps, FireRes.Keeps.trans, Outcome.Keeps, Outcome.Keeps.trans, State.goDown_keeps]

theorem execPortRetrain_keeps (port : Nat) (s : State) :
    Outcome.Keeps s (execPortRetrain port s) := by
  unfold execPortRetrain; grind -ring -linarith -lia [State.Keeps, FireRes.Keeps, FireRes.Keeps.trans, Outcome.Keeps, Outcome.Keeps.trans, State.settle_keeps, State.updPort_keeps]

theorem State.lcmIn_keeps (s : State) (n : Nat) (f : LinkFrame) :
    State.Keeps s (State.lcmIn s n f) := by
  unfold State.lcmIn; grind -ring -linarith -lia [State.Keeps, State.goDown_keeps, State.moveAck_keeps, State.moveIn_keeps, State.moveNak_keeps, State.restripe_keeps]

theorem State.badFrame_keeps (s : State) (n l : Nat) :
    State.Keeps s (State.badFrame s n l) := by
  unfold State.badFrame; grind -ring -linarith -lia [State.Keeps, State.checkDown_keeps, State.flushPort_keeps, State.updPort_keeps]

theorem State.ctlIn_keeps (s : State) (n l : Nat) (f : LinkFrame) (inTurn : Bool) :
    State.Keeps s (State.ctlIn s n l f inTurn) := by
  unfold State.ctlIn; grind -ring -linarith -lia [State.Keeps, State.nakIn_keeps, State.updPort_keeps]

theorem State.goodFrame_keeps (s : State) (n l corr : Nat) (f : LinkFrame) :
    State.Keeps s (State.goodFrame s n l corr f) := by
  unfold State.goodFrame; grind -ring -linarith -lia [State.Keeps, State.consume_keeps, State.ctlIn_keeps, State.flushPort_keeps, State.lcmIn_keeps, State.updPort_keeps]

theorem execFrameReceive_keeps (port lane corr : Nat) (f : Option (BitVec 2570)) (s : State) :
    Outcome.Keeps s (execFrameReceive port lane corr f s) := by
  unfold execFrameReceive; grind -ring -linarith -lia [State.Keeps, FireRes.Keeps, FireRes.Keeps.trans, Outcome.Keeps, Outcome.Keeps.trans, State.badFrame_keeps, State.discardFrame_keeps, State.goodFrame_keeps]

theorem State.writeProd_keeps (s : State) (port q val : Nat) :
    State.Keeps s (State.writeProd s port q val) := by
  unfold State.writeProd; grind -ring -linarith -lia [State.Keeps, State.deny_keeps, State.updLQ_keeps]

theorem execDoorbell_keeps (port fn q val : Nat) (s : State) :
    Outcome.Keeps s (execDoorbell port fn q val s) := by
  unfold execDoorbell; grind -ring -linarith -lia [State.Keeps, FireRes.Keeps, FireRes.Keeps.trans, Outcome.Keeps, Outcome.Keeps.trans, State.writeProd_keeps]

theorem execLqProdWrite_keeps (port q val : Nat) (s : State) :
    Outcome.Keeps s (execLqProdWrite port q val s) := by
  unfold execLqProdWrite; grind -ring -linarith -lia [State.Keeps, FireRes.Keeps, FireRes.Keeps.trans, Outcome.Keeps, Outcome.Keeps.trans, State.writeProd_keeps]

theorem execLaunchIntake_keeps (q : Nat) (obj : Option GraphObj) (s : State) :
    Outcome.Keeps s (execLaunchIntake q obj s) := by
  unfold execLaunchIntake; grind -ring -linarith -lia [State.Keeps, FireRes.Keeps, FireRes.Keeps.trans, Outcome.Keeps, Outcome.Keeps.trans, State.boothScan_keeps, State.launchBad_keeps, State.noteRange_keeps, State.reject_keeps, State.rejectWith_keeps, State.updLQ_keeps]

theorem State.installImage_keeps (s : State) (asid : Nat) (c : MeetingCfg) :
    ∀ t, State.installImage s asid c = .ok t → State.Keeps s t := by
  unfold State.installImage; grind -ring -linarith -lia [State.Keeps, State.setMeeting_keeps, → State.writeMembers_keeps]

theorem State.installImages_keeps (s : State) (asid : Nat) (bad : List Nat) (e0 : List MeetingCfg) :
    ∀ t, State.installImages s asid bad e0 = .ok t → State.Keeps s t := by
  fun_induction State.installImages s asid bad e0 <;> grind -ring -linarith -lia [State.Keeps, → State.installImage_keeps, State.ownerTrap_keeps]

theorem State.writeBinds_keeps (s : State) (asid : Nat) (l : Launch) :
    ∀ t, State.writeBinds s asid l = .ok t → State.Keeps s t := by
  unfold State.writeBinds; grind -ring -linarith -lia [State.Keeps, → State.unitWrite_keeps]

theorem State.startPitch_keeps (s : State) (asid : Nat) (p : Pitch) :
    State.Keeps s (State.startPitch s asid p) := by
  unfold State.startPitch
  repeat' first
    | split
    | dsimp only
    | unfold Option.getD
    | grind -ring -linarith -lia [State.Keeps, State.send_keeps, State.updPitch_keeps]
    | refine State.Keeps.trans ?_ (State.send_keeps ..)
    | refine State.Keeps.trans ?_ (State.updPitch_keeps ..)
    | (refine State.Keeps.trans ?_ (State.Keeps.foldl _ (fun s a => ?_) _ _) <;> try dsimp only)

theorem execStartTokenInjection_keeps (asid : Nat) (s : State) :
    Outcome.Keeps s (execStartTokenInjection asid s) := by
  unfold execStartTokenInjection; grind -ring -linarith -lia [State.Keeps, FireRes.Keeps, FireRes.Keeps.trans, Outcome.Keeps, Outcome.Keeps.trans, → State.installImages_keeps, State.launchBad_keeps, State.missAt_keeps, State.startPitch_keeps, → State.writeBinds_keeps]

theorem execLockLoop_keeps (port site lo mid hi temp : Nat) (s : State) :
    Outcome.Keeps s (execLockLoop port site lo mid hi temp s) := by
  unfold execLockLoop; grind -ring -linarith -lia [State.Keeps, FireRes.Keeps, FireRes.Keeps.trans, Outcome.Keeps, Outcome.Keeps.trans, State.updPort_keeps]

theorem execRingPageSample_keeps (port : Nat) (mon temp : List Nat) (s : State) :
    Outcome.Keeps s (execRingPageSample port mon temp s) := by
  unfold execRingPageSample
  extract_lets p pa read q s1 s2
  apply Outcome.Keeps.next
  have h1 : State.Keeps s s1 := State.updPort_keeps ..
  have h2 : State.Keeps s1 s2 := State.Keeps.foldl _ (fun s e => State.writeRange_keeps ..) _ s1
  split
  · exact .refl _
  · exact h1.trans (h2.trans (State.writeRange_keeps ..))

theorem State.applyLm_keeps (s : State) (n req cseq : Nat) :
    State.Keeps s (State.applyLm s n req cseq) := by
  unfold State.applyLm; grind -ring -linarith -lia [State.Keeps, State.flushPort_keeps, State.lmResp_keeps, State.updPort_keeps]

theorem State.poll_keeps (s : State) (port : Nat) :
    State.Keeps s (State.poll s port) := by
  unfold State.poll; grind -ring -linarith -lia [State.Keeps, State.applyLm_keeps, State.putResp_keeps, State.updPort_keeps, State.writeRange_keeps]

theorem execRingPagePoll_keeps (port : Nat) (s : State) :
    Outcome.Keeps s (execRingPagePoll port s) := by
  unfold execRingPagePoll; grind -ring -linarith -lia [State.Keeps, FireRes.Keeps, FireRes.Keeps.trans, Outcome.Keeps, Outcome.Keeps.trans, State.poll_keeps]

theorem execRingFault_keeps (port site : Nat) (s : State) :
    Outcome.Keeps s (execRingFault port site s) := by
  unfold execRingFault; grind -ring -linarith -lia [State.Keeps, FireRes.Keeps, FireRes.Keeps.trans, Outcome.Keeps, Outcome.Keeps.trans, State.failLane_keeps, State.poll_keeps]

theorem State.pctl_keeps (s : State) (n : Nat) (v : DWord) :
    State.Keeps s (State.pctl s n v) := by
  unfold State.pctl; grind -ring -linarith -lia [State.Keeps, State.checkDown_keeps, State.checkUp_keeps, State.goDown_keeps, State.settle_keeps, State.updPort_keeps]

theorem State.denyWriter_keeps (s : State) (src : Writer) :
    State.Keeps s (State.denyWriter s src) := by
  unfold State.denyWriter; grind -ring -linarith -lia [State.Keeps, State.deny_keeps]

theorem execPctlWrite_keeps (src : Writer) (port : Nat) (val : DWord) (s : State) :
    Outcome.Keeps s (execPctlWrite src port val s) := by
  unfold execPctlWrite; grind -ring -linarith -lia [State.Keeps, FireRes.Keeps, FireRes.Keeps.trans, Outcome.Keeps, Outcome.Keeps.trans, State.denyWriter_keeps, State.pctl_keeps]

theorem execLaserUpdate_keeps (m : Nat) (r : LaserReading) (s : State) :
    Outcome.Keeps s (execLaserUpdate m r s) := by
  unfold execLaserUpdate
  apply Outcome.Keeps.next
  split
  · exact .refl _
  · extract_lets x y new z s1 s2 moved
    have h1 : State.Keeps s s1 := .same rfl rfl
    have h2 : State.Keeps s1 s2 := State.Keeps.foldl _ (fun s a => (State.reportState_keeps ..).trans (State.firePf0_keeps ..)) _ s1
    have hm : ∀ s n, State.Keeps s (moved s n) := fun s n => State.Keeps.foldl _ (fun s l => by
      dsimp only
      split
      · exact State.failLane_keeps ..
      · exact .refl _) _ s
    exact (h1.trans h2).trans (State.Keeps.foldl moved hm _ s2)

theorem State.writeShown_keeps (s : State) (fi off : Nat) (v : DWord) :
    State.Keeps s (State.writeShown s fi off v) := by
  unfold State.writeShown; grind -ring -linarith -lia [State.Keeps, State.updCluster_keeps, State.updLC_keeps]

theorem State.writeField_keeps (s : State) (src : Writer) (fi off : Nat) (v : DWord) :
    State.Keeps s (State.writeField s src fi off v) := by
  unfold State.writeField; grind -ring -linarith -lia [State.Keeps, State.setClk_keeps, State.updField_keeps, State.writeShown_keeps]

theorem State.writeAdmit_keeps (s : State) (port off : Nat) (v : DWord) :
    State.Keeps s (State.writeAdmit s port off v) := by
  unfold State.writeAdmit; grind -ring -linarith -lia [State.Keeps, State.cancel_keeps, State.deny_keeps, State.requestPreempt_keeps, State.updLQ_keeps, State.writeProd_keeps]

theorem State.writeOwn_keeps (s : State) (port : Nat) (v : DWord) :
    State.Keeps s (State.writeOwn s port v) := by
  unfold State.writeOwn; grind -ring -linarith -lia [State.Keeps, State.claim_keeps, State.giveUp_keeps, State.updPcie_keeps]

theorem State.writePcie_keeps (s : State) (port off : Nat) (v : DWord) :
    State.Keeps s (State.writePcie s port off v) := by
  unfold State.writePcie; grind -ring -linarith -lia [State.Keeps, State.beat_keeps, State.deny_keeps, State.rcvGo_keeps, State.updPcie_keeps, State.writeOwn_keeps]

theorem State.writePort_keeps (s : State) (n off : Nat) (v : DWord) :
    State.Keeps s (State.writePort s n off v) := by
  unfold State.writePort; grind -ring -linarith -lia [State.Keeps, State.pctl_keeps, State.updPort_keeps]

theorem State.writeWafer_keeps (s : State) (src : Writer) (off : Nat) (v : DWord) :
    State.Keeps s (State.writeWafer s src off v) := by
  unfold State.writeWafer
  repeat' first
    | split
    | dsimp only
    | unfold Option.getD
    | grind -ring -linarith -lia [State.Keeps, State.denyWriter_keeps, State.writeAdmit_keeps, State.writePcie_keeps, State.writePort_keeps]

theorem State.writeReg_keeps (s : State) (src : Writer) (pa : Nat) (v : DWord) :
    State.Keeps s (State.writeReg s src pa v) := by
  unfold State.writeReg; grind -ring -linarith -lia [State.Keeps, State.denyWriter_keeps, State.writeField_keeps, State.writeWafer_keeps]

theorem execRegisterWrite_keeps (src : Writer) (pa : Nat) (val : DWord) (s : State) :
    Outcome.Keeps s (execRegisterWrite src pa val s) := by
  unfold execRegisterWrite; grind -ring -linarith -lia [State.Keeps, FireRes.Keeps, FireRes.Keeps.trans, Outcome.Keeps, Outcome.Keeps.trans, State.writeReg_keeps]

theorem State.hostWrite_keeps (s : State) (src : Writer) (bar pa : Nat) (bs : List Byte) :
    State.Keeps s (State.hostWrite s src bar pa bs) := by
  unfold State.hostWrite
  repeat' first
    | split
    | dsimp only
    | unfold Option.getD
    | grind -ring -linarith -lia [State.Keeps, State.writeRange_keeps, State.writeReg_keeps]

theorem State.hostDone_keeps (s : State) (port : Nat) (ok : Bool) (data : List Byte) :
    State.Keeps s (State.hostDone s port ok data) := by
  unfold State.hostDone; grind -ring -linarith -lia [State.Keeps, State.updPcie_keeps]

theorem State.hostAccess_keeps (s : State) (r : HostReq) (pa : Nat) :
    State.Keeps s (State.hostAccess s r pa) := by
  unfold State.hostAccess
  repeat' first
    | split
    | dsimp only
    | unfold Option.getD
    | grind -ring -linarith -lia [State.Keeps, State.assign_keeps, State.hostDone_keeps, State.hostWrite_keeps, State.readNote_keeps]
    | refine State.Keeps.trans ?_ (State.assign_keeps ..)
    | refine State.Keeps.trans ?_ (State.hostDone_keeps ..)
    | refine State.Keeps.trans ?_ (State.hostWrite_keeps ..)
    | refine State.Keeps.trans ?_ (State.readNote_keeps ..)
    | (refine State.Keeps.trans ?_ (State.Keeps.foldl _ (fun s a => ?_) _ _) <;> try dsimp only)

theorem State.queuePage_keeps (s : State) (r : HostReq) :
    State.Keeps s (State.queuePage s r) := by
  unfold State.queuePage; grind -ring -linarith -lia [State.Keeps, State.hostDone_keeps, State.writeProd_keeps]

theorem State.vfBar0_keeps (s : State) (r : HostReq) :
    State.Keeps s (State.vfBar0 s r) := by
  unfold State.vfBar0; grind -ring -linarith -lia [State.Keeps, State.hostDone_keeps]

theorem State.configSpace_keeps (s : State) (r : HostReq) :
    State.Keeps s (State.configSpace s r) := by
  unfold State.configSpace; grind -ring -linarith -lia [State.Keeps, State.hostDone_keeps, State.updPcie_keeps]

theorem execHostMemoryRequest_keeps (r : HostReq) (s : State) :
    Outcome.Keeps s (execHostMemoryRequest r s) := by
  unfold execHostMemoryRequest; grind -ring -linarith -lia [State.Keeps, FireRes.Keeps, FireRes.Keeps.trans, Outcome.Keeps, Outcome.Keeps.trans, State.configSpace_keeps, State.hostAccess_keeps, State.hostDone_keeps, State.queuePage_keeps, State.vfBar0_keeps]

end Sys2Proof.Machine
end

