-- ==== Sys2Proof/Laws/KeepsStep.lean ====
section
/-! SUPPORT. What these operations keep of a state (`State.Keeps`): every instruction, and the parts of a step. -/
namespace Sys2Proof.Machine
open Sys2Proof
set_option Elab.async false

theorem exec_keeps (i : Instr) (s : State) :
    Outcome.Keeps s (exec i s) := by
  cases i with
  | pass n => exact execPass_keeps n s
  | steer n => exact execSteer_keeps n s
  | merge n => exact execMerge_keeps n s
  | mergec n => exact execMergec_keeps n s
  | gate n => exact execGate_keeps n s
  | sync n => exact execSync_keeps n s
  | lenter n => exact execLenter_keeps n s
  | lnext n => exact execLnext_keeps n s
  | lexit n => exact execLexit_keeps n s
  | lbound n => exact execLbound_keeps n s
  | ldone n => exact execLdone_keeps n s
  | call n => exact execCall_keeps n s
  | ret n => exact execRet_keeps n s
  | cfree n => exact execCfree_keeps n s
  | tagget n => exact execTagget_keeps n s
  | tagset n => exact execTagset_keeps n s
  | eos n => exact execEos_keeps n s
  | sink n => exact execSink_keeps n s
  | purge n => exact execPurge_keeps n s
  | trap n => exact execTrap_keeps n s
  | brk n => exact execBrk_keeps n s
  | event n => exact execEvent_keeps n s
  | launch n e1 e2 => exact execLaunch_keeps n e1 e2 s
  | ctxalloc n => exact execCtxalloc_keeps n s
  | ctxfree n => exact execCtxfree_keeps n s
  | pack n => exact execPack_keeps n s
  | unpack n => exact execUnpack_keeps n s
  | bcast n => exact execBcast_keeps n s
  | shuf n => exact execShuf_keeps n s
  | lget n => exact execLget_keeps n s
  | lput n => exact execLput_keeps n s
  | lred n => exact execLred_keeps n s
  | lscan n => exact execLscan_keeps n s
  | width n => exact execWidth_keeps n s
  | iadd n => exact execIadd_keeps n s
  | isub n => exact execIsub_keeps n s
  | iadds n => exact execIadds_keeps n s
  | isubs n => exact execIsubs_keeps n s
  | imul n => exact execImul_keeps n s
  | imulh n => exact execImulh_keeps n s
  | imad n => exact execImad_keeps n s
  | idiv n => exact execIdiv_keeps n s
  | irem n => exact execIrem_keeps n s
  | imin n => exact execImin_keeps n s
  | imax n => exact execImax_keeps n s
  | iabs n => exact execIabs_keeps n s
  | ineg n => exact execIneg_keeps n s
  | and n => exact execAnd_keeps n s
  | or n => exact execOr_keeps n s
  | xor n => exact execXor_keeps n s
  | andn n => exact execAndn_keeps n s
  | orn n => exact execOrn_keeps n s
  | shl n => exact execShl_keeps n s
  | shr n => exact execShr_keeps n s
  | sar n => exact execSar_keeps n s
  | rol n => exact execRol_keeps n s
  | clz n => exact execClz_keeps n s
  | ctz n => exact execCtz_keeps n s
  | popc n => exact execPopc_keeps n s
  | brev n => exact execBrev_keeps n s
  | bfx n => exact execBfx_keeps n s
  | bfi n => exact execBfi_keeps n s
  | icmp n => exact execIcmp_keeps n s
  | sel n => exact execSel_keeps n s
  | lit n => exact execLit_keeps n s
  | aadr n => exact execAadr_keeps n s
  | cvti n => exact execCvti_keeps n s
  | fadd n => exact execFadd_keeps n s
  | fsub n => exact execFsub_keeps n s
  | fmul n => exact execFmul_keeps n s
  | fdiv n => exact execFdiv_keeps n s
  | fma n => exact execFma_keeps n s
  | fms n => exact execFms_keeps n s
  | fnma n => exact execFnma_keeps n s
  | fmin n => exact execFmin_keeps n s
  | fmax n => exact execFmax_keeps n s
  | fminn n => exact execFminn_keeps n s
  | fmaxn n => exact execFmaxn_keeps n s
  | fabs n => exact execFabs_keeps n s
  | fneg n => exact execFneg_keeps n s
  | fcpsgn n => exact execFcpsgn_keeps n s
  | fcmp n => exact execFcmp_keeps n s
  | fclass n => exact execFclass_keeps n s
  | fsqrt n => exact execFsqrt_keeps n s
  | frsq n => exact execFrsq_keeps n s
  | frcp n => exact execFrcp_keeps n s
  | fexp n => exact execFexp_keeps n s
  | fexp2 n => exact execFexp2_keeps n s
  | flog n => exact execFlog_keeps n s
  | flog2 n => exact execFlog2_keeps n s
  | fsin n => exact execFsin_keeps n s
  | fcos n => exact execFcos_keeps n s
  | fsincos n => exact execFsincos_keeps n s
  | ftanh n => exact execFtanh_keeps n s
  | fsigm n => exact execFsigm_keeps n s
  | ferf n => exact execFerf_keeps n s
  | frnd n => exact execFrnd_keeps n s
  | fscale n => exact execFscale_keeps n s
  | fcvt n => exact execFcvt_keeps n s
  | fquant n => exact execFquant_keeps n s
  | fdeq n => exact execFdeq_keeps n s
  | jord n => exact execJord_keeps n s
  | jseed n => exact execJseed_keeps n s
  | jconst n => exact execJconst_keeps n s
  | jget n => exact execJget_keeps n s
  | jput n => exact execJput_keeps n s
  | jdiff n => exact execJdiff_keeps n s
  | jintg n => exact execJintg_keeps n s
  | jtrunc n => exact execJtrunc_keeps n s
  | jflag n => exact execJflag_keeps n s
  | accinit n => exact execAccinit_keeps n s
  | accadd n => exact execAccadd_keeps n s
  | accmax n => exact execAccmax_keeps n s
  | accmin n => exact execAccmin_keeps n s
  | accrd n => exact execAccrd_keeps n s
  | krd n => exact execKrd_keeps n s
  | kwr n => exact execKwr_keeps n s
  | csrrd n => exact execCsrrd_keeps n s
  | csrwr n => exact execCsrwr_keeps n s
  | wload n => exact execWload_keeps n s
  | wloadx n => exact execWloadx_keeps n s
  | wswap n => exact execWswap_keeps n s
  | mma n e1 => exact execMma_keeps n e1 s
  | mmaj n e1 => exact execMmaj_keeps n e1 s
  | mmax n e1 e2 => exact execMmax_keeps n e1 e2 s
  | apzero n => exact execApzero_keeps n s
  | apmv n => exact execApmv_keeps n s
  | appeek n => exact execAppeek_keeps n s
  | jobpoll n => exact execJobpoll_keeps n s
  | jobwait n => exact execJobwait_keeps n s
  | ld n => exact execLd_keeps n s
  | st n => exact execSt_keeps n s
  | ldg n => exact execLdg_keeps n s
  | sts n => exact execSts_keeps n s
  | strm n e1 => exact execStrm_keeps n e1 s
  | strmst n e1 => exact execStrmst_keeps n e1 s
  | pref n => exact execPref_keeps n s
  | tld n => exact execTld_keeps n s
  | tst n => exact execTst_keeps n s
  | aadd n => exact execAadd_keeps n s
  | afadd n => exact execAfadd_keeps n s
  | amin n => exact execAmin_keeps n s
  | amax n => exact execAmax_keeps n s
  | aand n => exact execAand_keeps n s
  | aor n => exact execAor_keeps n s
  | axor n => exact execAxor_keeps n s
  | axchg n => exact execAxchg_keeps n s
  | acas n => exact execAcas_keeps n s
  | aincb n => exact execAincb_keeps n s
  | fence n => exact execFence_keeps n s
  | cpy n e1 => exact execCpy_keeps n e1 s
  | cpyd n e1 => exact execCpyd_keeps n e1 s
  | cpye n e1 => exact execCpye_keeps n e1 s
  | mcast n e1 e2 => exact execMcast_keeps n e1 e2 s
  | gath n e1 => exact execGath_keeps n e1 s
  | scat n e1 => exact execScat_keeps n e1 s
  | tfill n => exact execTfill_keeps n s
  | tevict n => exact execTevict_keeps n s
  | tinv n => exact execTinv_keeps n s
  | lookup n => exact execLookup_keeps n s
  | tstate n => exact execTstate_keeps n s
  | tset n => exact execTset_keeps n s
  | rtrd n => exact execRtrd_keeps n s
  | rtwr n => exact execRtwr_keeps n s
  | maprd n => exact execMaprd_keeps n s
  | bandrd n => exact execBandrd_keeps n s
  | qopen n e1 e2 => exact execQopen_keeps n e1 e2 s
  | qcontrib n => exact execQcontrib_keeps n s
  | qclose n => exact execQclose_keeps n s
  | qstat n => exact execQstat_keeps n s
  | qlag n => exact execQlag_keeps n s
  | qwset n => exact execQwset_keeps n s
  | cwalk n e1 => exact execCwalk_keeps n e1 s
  | time n => exact execTime_keeps n s
  | toffs n => exact execToffs_keeps n s
  | cntrd n => exact execCntrd_keeps n s
  | cntwr n => exact execCntwr_keeps n s
  | ext v => exact execExt_keeps v s
  | tokenArrival k => exact execTokenArrival_keeps k s
  | stickyOverflowScan asid lc => exact execStickyOverflowScan_keeps asid lc s
  | matchRefill asid lc => exact execMatchRefill_keeps asid lc s
  | channelOverflowSpill asid lc vc => exact execChannelOverflowSpill_keeps asid lc vc s
  | channelOverflowReplay asid lc vc => exact execChannelOverflowReplay_keeps asid lc vc s
  | readyQueueEntry core => exact execReadyQueueEntry_keeps core s
  | colourRefill asid lc colour => exact execColourRefill_keeps asid lc colour s
  | starvationTimeout asid lc k => exact execStarvationTimeout_keeps asid lc k s
  | colourReturn asid colour => exact execColourReturn_keeps asid colour s
  | trapTokenReceipt k => exact execTrapTokenReceipt_keeps k s
  | engineCommandEnqueue k => exact execEngineCommandEnqueue_keeps k s
  | engineJobGrant cluster eng => exact execEngineJobGrant_keeps cluster eng s
  | matrixJobStart cluster => exact execMatrixJobStart_keeps cluster s
  | mmajPlaneRetire cluster => exact execMmajPlaneRetire_keeps cluster s
  | matrixJobRetire cluster k => exact execMatrixJobRetire_keeps cluster k s
  | appeekResponse cluster => exact execAppeekResponse_keeps cluster s
  | copyJobStart cluster k => exact execCopyJobStart_keeps cluster k s
  | copyTileClaim cluster k => exact execCopyTileClaim_keeps cluster k s
  | engineLineOwnership cluster k => exact execEngineLineOwnership_keeps cluster k s
  | copyJobRetire cluster k => exact execCopyJobRetire_keeps cluster k s
  | multicastDelivery k => exact execMulticastDelivery_keeps k s
  | chainOrderEntry asid lc k => exact execChainOrderEntry_keeps asid lc k s
  | memoryAccessRelease asid lc k => exact execMemoryAccessRelease_keeps asid lc k s
  | homeAccess k => exact execHomeAccess_keeps k s
  | memoryReply asid lc k => exact execMemoryReply_keeps asid lc k s
  | writeResend k => exact execWriteResend_keeps k s
  | writeResendExpiry k => exact execWriteResendExpiry_keeps k s
  | streamComplete asid lc k => exact execStreamComplete_keeps asid lc k s
  | speculativeFillComplete asid lc k => exact execSpeculativeFillComplete_keeps asid lc k s
  | tlbMissWalk field asid vpn who => exact execTlbMissWalk_keeps field asid vpn who s
  | walkComplete field k => exact execWalkComplete_keeps field k s
  | pageFaultResolution field k leaf => exact execPageFaultResolution_keeps field k leaf s
  | backingPageTimeout field k => exact execBackingPageTimeout_keeps field k s
  | invalidateAll field => exact execInvalidateAll_keeps field s
  | invalidateAsid field asid => exact execInvalidateAsid_keeps field asid s
  | invalidateRange field asid => exact execInvalidateRange_keeps field asid s
  | invalidationComplete field => exact execInvalidationComplete_keeps field s
  | refreshOperation cluster col layer forced => exact execRefreshOperation_keeps cluster col layer forced s
  | bankSensorRead cluster col layer temp => exact execBankSensorRead_keeps cluster col layer temp s
  | patrolScrub cluster col layer line e => exact execPatrolScrub_keeps cluster col layer line e s
  | bankLoss cluster col layer spare => exact execBankLoss_keeps cluster col layer spare s
  | rebuildStripe cluster col layer => exact execRebuildStripe_keeps cluster col layer s
  | verticalBusFailure cluster col own => exact execVerticalBusFailure_keeps cluster col own s
  | columnLoss cluster col => exact execColumnLoss_keeps cluster col s
  | layerShutdown cluster layer => exact execLayerShutdown_keeps cluster layer s
  | layerRestart cluster layer => exact execLayerRestart_keeps cluster layer s
  | linkCrcFailure cx cy dir => exact execLinkCrcFailure_keeps cx cy dir s
  | residueCheckFailure unit => exact execResidueCheckFailure_keeps unit s
  | coreRetirement cx cy cause => exact execCoreRetirement_keeps cx cy cause s
  | rebindComplete asid lc => exact execRebindComplete_keeps asid lc s
  | remapScrub field e reads => exact execRemapScrub_keeps field e reads s
  | remapRebuildComplete field e w => exact execRemapRebuildComplete_keeps field e w s
  | remapEntryWrite field e w => exact execRemapEntryWrite_keeps field e w s
  | bandMeasurement field f rtt0 rtt1 => exact execBandMeasurement_keeps field f rtt0 rtt1 s
  | offsetMeasurement field f t1 t2 t3 => exact execOffsetMeasurement_keeps field f t1 t2 t3 s
  | doorbell port fn q val => exact execDoorbell_keeps port fn q val s
  | lqProdWrite port q val => exact execLqProdWrite_keeps port q val s
  | launchIntake q obj => exact execLaunchIntake_keeps q obj s
  | startTokenInjection asid => exact execStartTokenInjection_keeps asid s
  | pitchCompletion asid => exact execPitchCompletion_keeps asid s
  | cancel port queue index => exact execCancel_keeps port queue index s
  | preempt port asid => exact execPreempt_keeps port asid s
  | watchdog asid => exact execWatchdog_keeps asid s
  | preemptionHalt asid => exact execPreemptionHalt_keeps asid s
  | preemptionSave asid => exact execPreemptionSave_keeps asid s
  | pitchRestore asid => exact execPitchRestore_keeps asid s
  | meetingCommandDequeue field k => exact execMeetingCommandDequeue_keeps field k s
  | contributionArrival field k => exact execContributionArrival_keeps field k s
  | roundTimeout field e => exact execRoundTimeout_keeps field e s
  | ringChunkArrival k => exact execRingChunkArrival_keeps k s
  | ringCreditArrival k => exact execRingCreditArrival_keeps k s
  | ringTimeout field k => exact execRingTimeout_keeps field k s
  | deadNotice k => exact execDeadNotice_keeps k s
  | completionIndex k => exact execCompletionIndex_keeps k s
  | ownClaim port => exact execOwnClaim_keeps port s
  | ownRelease port => exact execOwnRelease_keeps port s
  | hbBeat port => exact execHbBeat_keeps port s
  | ownerLost => exact execOwnerLost_keeps s
  | regionRelease field => exact execRegionRelease_keeps field s
  | unitClear field => exact execUnitClear_keeps field s
  | pageGrant field => exact execPageGrant_keeps field s
  | coreRetire field => exact execCoreRetire_keeps field s
  | journalClear field => exact execJournalClear_keeps field s
  | svnCommit field => exact execSvnCommit_keeps field s
  | mailboxBadCommand field => exact execMailboxBadCommand_keeps field s
  | reportRingWrite => exact execReportRingWrite_keeps s
  | bootStart rom fw => exact execBootStart_keeps rom fw s
  | bootStep step ok => exact execBootStep_keeps step ok s
  | rcvcmdGo port jclr => exact execRcvcmdGo_keeps port jclr s
  | imageVerification port => exact execImageVerification_keeps port s
  | spdmRequest port index => exact execSpdmRequest_keeps port index s
  | hostMemoryRequest r => exact execHostMemoryRequest_keeps r s
  | throttleStep field power => exact execThrottleStep_keeps field power s
  | throttleRecovery field => exact execThrottleRecovery_keeps field s
  | holdClear field => exact execHoldClear_keeps field s
  | clksetWrite port field code => exact execClksetWrite_keeps port field code s
  | registerWrite src pa val => exact execRegisterWrite_keeps src pa val s
  | portEgress port k => exact execPortEgress_keeps port k s
  | frameReceive port lane corr f => exact execFrameReceive_keeps port lane corr f s
  | nakReplay port lane seq => exact execNakReplay_keeps port lane seq s
  | laneTuneDone port lane mon => exact execLaneTuneDone_keeps port lane mon s
  | laneTrainDone port lane => exact execLaneTrainDone_keeps port lane s
  | ringFault port site => exact execRingFault_keeps port site s
  | berFault port lane => exact execBerFault_keeps port lane s
  | move port lane wl => exact execMove_keeps port lane wl s
  | moveack port lane => exact execMoveack_keeps port lane s
  | movenak port lane => exact execMovenak_keeps port lane s
  | restripe port lane stripe => exact execRestripe_keeps port lane stripe s
  | down port => exact execDown_keeps port s
  | portRetrain port => exact execPortRetrain_keeps port s
  | lockLoop port site lo mid hi temp => exact execLockLoop_keeps port site lo mid hi temp s
  | ringPageSample port mon temp => exact execRingPageSample_keeps port mon temp s
  | ringPagePoll port => exact execRingPagePoll_keeps port s
  | pctlWrite src port val => exact execPctlWrite_keeps src port val s
  | laserUpdate m r => exact execLaserUpdate_keeps m r s
  | mappingUnitRequest k => exact execMappingUnitRequest_keeps k s
  | linkUpChange port up rate width => exact execLinkUpChange_keeps port up rate width s
  | hostPortCompletion k ok => exact execHostPortCompletion_keeps k ok s
  | powerLoss flashing => exact execPowerLoss_keeps flashing s

theorem State.take_keeps (s : State) (core k : Nat) (f : Firing) :
    State.Keeps s (State.take s core k f) := by
  unfold State.take; grind -ring -linarith -lia [State.Keeps, State.giveBack_keeps, State.setReady_keeps]

theorem State.noteWaits_keeps (s : State) (core : Nat) :
    State.Keeps s (State.noteWaits s core) := by
  unfold State.noteWaits; grind -ring -linarith -lia [State.Keeps, State.setReady_keeps]

theorem State.elapse_keeps (s : State) (field ticks : Nat) :
    State.Keeps s (State.elapse s field ticks) := by
  unfold State.elapse
  repeat' first
    | split
    | dsimp only
    | unfold Option.getD
    | grind -ring -linarith -lia [State.Keeps, State.updField_keeps, State.updPitch_keeps]
    | refine State.Keeps.trans ?_ (State.updField_keeps ..)
    | refine State.Keeps.trans ?_ (State.updPitch_keeps ..)
    | (refine State.Keeps.trans ?_ (State.Keeps.foldl _ (fun s a => ?_) _ _) <;> try dsimp only)

theorem State.junction_keeps (s : State) (field temp : Nat) :
    State.Keeps s (State.junction s field temp) := by
  unfold State.junction; grind -ring -linarith -lia [State.Keeps, State.updField_keeps]

theorem State.cycle_keeps (s : State) (asid lc : Nat) (busy held : Bool) :
    State.Keeps s (State.cycle s asid lc busy held) := by
  unfold State.cycle; grind -ring -linarith -lia [State.Keeps, State.updLC_keeps]

theorem State.sramError_keeps (s : State) (asid lc : Nat) (e : SramErr) :
    State.Keeps s (State.sramError s asid lc e) := by
  unfold State.sramError; grind -ring -linarith -lia [State.Keeps, FireRes.Keeps, FireRes.Keeps.trans, Ctx.control_keeps, State.endFree_keeps, State.endLaunch_keeps, State.firingTraps_keeps, State.fresh_keeps, State.setReady_keeps, State.updLC_keeps]

theorem State.withWord_keeps (s : State) (w : Nat) :
    State.Keeps s (State.withWord s w) := by
  unfold State.withWord; grind -ring -linarith -lia [State.Keeps, State.setPitch_keeps, State.setReady_keeps]

theorem State.imagePiece_keeps (s : State) (fi asid va : Nat) (bs : List Byte) :
    State.Keeps s (State.imagePiece s fi asid va bs) := by
  unfold State.imagePiece; grind -ring -linarith -lia [State.Keeps, State.missAt_keeps, → State.translate_keeps, State.writeRange_keeps]

theorem State.putImage_keeps (s : State) (fi asid : Nat) (w : Nat × List Byte) :
    State.Keeps s (State.putImage s fi asid w) := by
  unfold State.putImage
  repeat' first
    | split
    | dsimp only
    | unfold Option.getD
    | grind -ring -linarith -lia [State.Keeps, State.imagePiece_keeps, State.take_keeps]
    | refine State.Keeps.trans ?_ (State.imagePiece_keeps ..)
    | refine State.Keeps.trans ?_ (State.take_keeps ..)
    | (refine State.Keeps.trans ?_ (State.Keeps.foldl _ (fun s a => ?_) _ _) <;> try dsimp only)

theorem State.mirrorPitch_keeps (old s : State) (asid : Nat) (p : Pitch) :
    State.Keeps s (State.mirrorPitch old s asid p) := by
  unfold State.mirrorPitch
  extract_lets all was s1
  have h1 : State.Keeps s s1 := State.Keeps.foldl _ (fun s w => State.putImage_keeps s _ _ _) _ _
  refine h1.trans (State.Keeps.foldl _ (fun s e => ?_) _ _)
  split
  · exact State.Keeps.foldl _ (fun s w => State.putImage_keeps s _ _ _) _ _
  · exact .refl _

theorem State.mirror_keeps (old new : State) : State.Keeps new (State.mirror old new) := by
  unfold State.mirror
  exact State.Keeps.foldl _ (fun s (e : Nat × Pitch) => State.mirrorPitch_keeps old s e.1 e.2) _ _

end Sys2Proof.Machine
end

