-- ==== Sys2Proof/Laws/PerInstr.lean ====
section
/-! SUPPORT. Statements for all instructions, made per instruction. -/
namespace Sys2Proof.Laws
open Sys2Proof Sys2Proof.Machine

/-- NO FIELD OF AN INSTRUCTION IS LOST IN ITS VIEW: an instruction that stands in a node record is again the instruction of
the fields that its view gives (02 R36 to R45). The extension record, whose opcode no head record holds, is left aside. -/
def FieldsKept.Statement (i : Instr) : Prop :=
  ∀ v, view i = some v → v.opc.toNat ≠ 0x3FF → ofView v = some i


theorem FieldsKept.pass (n : Node) : FieldsKept.Statement (.pass n) := by
  intro v h _; injection h with h; subst h; rw [ofView]
  simp only [viewD, BitVec.ofNat_toNat, BitVec.setWidth_eq]; rfl
theorem FieldsKept.steer (n : Node) : FieldsKept.Statement (.steer n) := by
  intro v h _; injection h with h; subst h; rw [ofView]
  simp only [viewD, BitVec.ofNat_toNat, BitVec.setWidth_eq]; rfl
theorem FieldsKept.merge (n : Node) : FieldsKept.Statement (.merge n) := by
  intro v h _; injection h with h; subst h; rw [ofView]
  simp only [viewD, BitVec.ofNat_toNat, BitVec.setWidth_eq]; rfl
theorem FieldsKept.mergec (n : Node) : FieldsKept.Statement (.mergec n) := by
  intro v h _; injection h with h; subst h; rw [ofView]
  simp only [viewD, BitVec.ofNat_toNat, BitVec.setWidth_eq]; rfl
theorem FieldsKept.gate (n : Node) : FieldsKept.Statement (.gate n) := by
  intro v h _; injection h with h; subst h; rw [ofView]
  simp only [viewD, BitVec.ofNat_toNat, BitVec.setWidth_eq]; rfl
theorem FieldsKept.sync (n : Node) : FieldsKept.Statement (.sync n) := by
  intro v h _; injection h with h; subst h; rw [ofView]
  simp only [viewD, BitVec.ofNat_toNat, BitVec.setWidth_eq]; rfl
theorem FieldsKept.lenter (n : Node) : FieldsKept.Statement (.lenter n) := by
  intro v h _; injection h with h; subst h; rw [ofView]
  simp only [viewD, BitVec.ofNat_toNat, BitVec.setWidth_eq]; rfl
theorem FieldsKept.lnext (n : Node) : FieldsKept.Statement (.lnext n) := by
  intro v h _; injection h with h; subst h; rw [ofView]
  simp only [viewD, BitVec.ofNat_toNat, BitVec.setWidth_eq]; rfl
theorem FieldsKept.lexit (n : Node) : FieldsKept.Statement (.lexit n) := by
  intro v h _; injection h with h; subst h; rw [ofView]
  simp only [viewD, BitVec.ofNat_toNat, BitVec.setWidth_eq]; rfl
theorem FieldsKept.lbound (n : Node) : FieldsKept.Statement (.lbound n) := by
  intro v h _; injection h with h; subst h; rw [ofView]
  simp only [viewD, BitVec.ofNat_toNat, BitVec.setWidth_eq]; rfl
theorem FieldsKept.ldone (n : Node) : FieldsKept.Statement (.ldone n) := by
  intro v h _; injection h with h; subst h; rw [ofView]
  simp only [viewD, BitVec.ofNat_toNat, BitVec.setWidth_eq]; rfl
theorem FieldsKept.call (n : Node) : FieldsKept.Statement (.call n) := by
  intro v h _; injection h with h; subst h; rw [ofView]
  simp only [viewD, BitVec.ofNat_toNat, BitVec.setWidth_eq]; rfl
theorem FieldsKept.ret (n : Node) : FieldsKept.Statement (.ret n) := by
  intro v h _; injection h with h; subst h; rw [ofView]
  simp only [viewD, BitVec.ofNat_toNat, BitVec.setWidth_eq]; rfl
theorem FieldsKept.cfree (n : Node) : FieldsKept.Statement (.cfree n) := by
  intro v h _; injection h with h; subst h; rw [ofView]
  simp only [viewD, BitVec.ofNat_toNat, BitVec.setWidth_eq]; rfl
theorem FieldsKept.tagget (n : Node) : FieldsKept.Statement (.tagget n) := by
  intro v h _; injection h with h; subst h; rw [ofView]
  simp only [viewD, BitVec.ofNat_toNat, BitVec.setWidth_eq]; rfl
theorem FieldsKept.tagset (n : NodeL) : FieldsKept.Statement (.tagset n) := by
  intro v h _; injection h with h; subst h; rw [ofView]
  simp only [viewL, BitVec.ofNat_toNat, BitVec.setWidth_eq]; rfl
theorem FieldsKept.eos (n : Node) : FieldsKept.Statement (.eos n) := by
  intro v h _; injection h with h; subst h; rw [ofView]
  simp only [viewD, BitVec.ofNat_toNat, BitVec.setWidth_eq]; rfl
theorem FieldsKept.sink (n : Node) : FieldsKept.Statement (.sink n) := by
  intro v h _; injection h with h; subst h; rw [ofView]
  simp only [viewD, BitVec.ofNat_toNat, BitVec.setWidth_eq]; rfl
theorem FieldsKept.purge (n : Node) : FieldsKept.Statement (.purge n) := by
  intro v h _; injection h with h; subst h; rw [ofView]
  simp only [viewD, BitVec.ofNat_toNat, BitVec.setWidth_eq]; rfl
theorem FieldsKept.trap (n : Node) : FieldsKept.Statement (.trap n) := by
  intro v h _; injection h with h; subst h; rw [ofView]
  simp only [viewD, BitVec.ofNat_toNat, BitVec.setWidth_eq]; rfl
theorem FieldsKept.brk (n : Node) : FieldsKept.Statement (.brk n) := by
  intro v h _; injection h with h; subst h; rw [ofView]
  simp only [viewD, BitVec.ofNat_toNat, BitVec.setWidth_eq]; rfl
theorem FieldsKept.event (n : Node) : FieldsKept.Statement (.event n) := by
  intro v h _; injection h with h; subst h; rw [ofView]
  simp only [viewD, BitVec.ofNat_toNat, BitVec.setWidth_eq]; rfl
theorem FieldsKept.launch (n : Node) (e1 e2 : BitVec 86) : FieldsKept.Statement (.launch n e1 e2) := by
  intro v h _; injection h with h; subst h; rw [ofView]
  simp only [viewX, viewD, BitVec.ofNat_toNat, BitVec.setWidth_eq]; rfl
theorem FieldsKept.ctxalloc (n : Node) : FieldsKept.Statement (.ctxalloc n) := by
  intro v h _; injection h with h; subst h; rw [ofView]
  simp only [viewD, BitVec.ofNat_toNat, BitVec.setWidth_eq]; rfl
theorem FieldsKept.ctxfree (n : Node) : FieldsKept.Statement (.ctxfree n) := by
  intro v h _; injection h with h; subst h; rw [ofView]
  simp only [viewD, BitVec.ofNat_toNat, BitVec.setWidth_eq]; rfl
theorem FieldsKept.pack (n : Node) : FieldsKept.Statement (.pack n) := by
  intro v h _; injection h with h; subst h; rw [ofView]
  simp only [viewD, BitVec.ofNat_toNat, BitVec.setWidth_eq]; rfl
theorem FieldsKept.unpack (n : Node) : FieldsKept.Statement (.unpack n) := by
  intro v h _; injection h with h; subst h; rw [ofView]
  simp only [viewD, BitVec.ofNat_toNat, BitVec.setWidth_eq]; rfl
theorem FieldsKept.bcast (n : Node) : FieldsKept.Statement (.bcast n) := by
  intro v h _; injection h with h; subst h; rw [ofView]
  simp only [viewD, BitVec.ofNat_toNat, BitVec.setWidth_eq]; rfl
theorem FieldsKept.shuf (n : Node) : FieldsKept.Statement (.shuf n) := by
  intro v h _; injection h with h; subst h; rw [ofView]
  simp only [viewD, BitVec.ofNat_toNat, BitVec.setWidth_eq]; rfl
theorem FieldsKept.lget (n : Node) : FieldsKept.Statement (.lget n) := by
  intro v h _; injection h with h; subst h; rw [ofView]
  simp only [viewD, BitVec.ofNat_toNat, BitVec.setWidth_eq]; rfl
theorem FieldsKept.lput (n : Node) : FieldsKept.Statement (.lput n) := by
  intro v h _; injection h with h; subst h; rw [ofView]
  simp only [viewD, BitVec.ofNat_toNat, BitVec.setWidth_eq]; rfl
theorem FieldsKept.lred (n : Node) : FieldsKept.Statement (.lred n) := by
  intro v h _; injection h with h; subst h; rw [ofView]
  simp only [viewD, BitVec.ofNat_toNat, BitVec.setWidth_eq]; rfl
theorem FieldsKept.lscan (n : Node) : FieldsKept.Statement (.lscan n) := by
  intro v h _; injection h with h; subst h; rw [ofView]
  simp only [viewD, BitVec.ofNat_toNat, BitVec.setWidth_eq]; rfl
theorem FieldsKept.width (n : Node) : FieldsKept.Statement (.width n) := by
  intro v h _; injection h with h; subst h; rw [ofView]
  simp only [viewD, BitVec.ofNat_toNat, BitVec.setWidth_eq]; rfl
theorem FieldsKept.iadd (n : Node) : FieldsKept.Statement (.iadd n) := by
  intro v h _; injection h with h; subst h; rw [ofView]
  simp only [viewD, BitVec.ofNat_toNat, BitVec.setWidth_eq]; rfl
theorem FieldsKept.isub (n : Node) : FieldsKept.Statement (.isub n) := by
  intro v h _; injection h with h; subst h; rw [ofView]
  simp only [viewD, BitVec.ofNat_toNat, BitVec.setWidth_eq]; rfl
theorem FieldsKept.iadds (n : Node) : FieldsKept.Statement (.iadds n) := by
  intro v h _; injection h with h; subst h; rw [ofView]
  simp only [viewD, BitVec.ofNat_toNat, BitVec.setWidth_eq]; rfl
theorem FieldsKept.isubs (n : Node) : FieldsKept.Statement (.isubs n) := by
  intro v h _; injection h with h; subst h; rw [ofView]
  simp only [viewD, BitVec.ofNat_toNat, BitVec.setWidth_eq]; rfl
theorem FieldsKept.imul (n : Node) : FieldsKept.Statement (.imul n) := by
  intro v h _; injection h with h; subst h; rw [ofView]
  simp only [viewD, BitVec.ofNat_toNat, BitVec.setWidth_eq]; rfl
theorem FieldsKept.imulh (n : Node) : FieldsKept.Statement (.imulh n) := by
  intro v h _; injection h with h; subst h; rw [ofView]
  simp only [viewD, BitVec.ofNat_toNat, BitVec.setWidth_eq]; rfl
theorem FieldsKept.imad (n : Node) : FieldsKept.Statement (.imad n) := by
  intro v h _; injection h with h; subst h; rw [ofView]
  simp only [viewD, BitVec.ofNat_toNat, BitVec.setWidth_eq]; rfl
theorem FieldsKept.idiv (n : Node) : FieldsKept.Statement (.idiv n) := by
  intro v h _; injection h with h; subst h; rw [ofView]
  simp only [viewD, BitVec.ofNat_toNat, BitVec.setWidth_eq]; rfl
theorem FieldsKept.irem (n : Node) : FieldsKept.Statement (.irem n) := by
  intro v h _; injection h with h; subst h; rw [ofView]
  simp only [viewD, BitVec.ofNat_toNat, BitVec.setWidth_eq]; rfl
theorem FieldsKept.imin (n : Node) : FieldsKept.Statement (.imin n) := by
  intro v h _; injection h with h; subst h; rw [ofView]
  simp only [viewD, BitVec.ofNat_toNat, BitVec.setWidth_eq]; rfl
theorem FieldsKept.imax (n : Node) : FieldsKept.Statement (.imax n) := by
  intro v h _; injection h with h; subst h; rw [ofView]
  simp only [viewD, BitVec.ofNat_toNat, BitVec.setWidth_eq]; rfl
theorem FieldsKept.iabs (n : Node) : FieldsKept.Statement (.iabs n) := by
  intro v h _; injection h with h; subst h; rw [ofView]
  simp only [viewD, BitVec.ofNat_toNat, BitVec.setWidth_eq]; rfl
theorem FieldsKept.ineg (n : Node) : FieldsKept.Statement (.ineg n) := by
  intro v h _; injection h with h; subst h; rw [ofView]
  simp only [viewD, BitVec.ofNat_toNat, BitVec.setWidth_eq]; rfl
theorem FieldsKept.and (n : Node) : FieldsKept.Statement (.and n) := by
  intro v h _; injection h with h; subst h; rw [ofView]
  simp only [viewD, BitVec.ofNat_toNat, BitVec.setWidth_eq]; rfl
theorem FieldsKept.or (n : Node) : FieldsKept.Statement (.or n) := by
  intro v h _; injection h with h; subst h; rw [ofView]
  simp only [viewD, BitVec.ofNat_toNat, BitVec.setWidth_eq]; rfl
theorem FieldsKept.xor (n : Node) : FieldsKept.Statement (.xor n) := by
  intro v h _; injection h with h; subst h; rw [ofView]
  simp only [viewD, BitVec.ofNat_toNat, BitVec.setWidth_eq]; rfl
theorem FieldsKept.andn (n : Node) : FieldsKept.Statement (.andn n) := by
  intro v h _; injection h with h; subst h; rw [ofView]
  simp only [viewD, BitVec.ofNat_toNat, BitVec.setWidth_eq]; rfl
theorem FieldsKept.orn (n : Node) : FieldsKept.Statement (.orn n) := by
  intro v h _; injection h with h; subst h; rw [ofView]
  simp only [viewD, BitVec.ofNat_toNat, BitVec.setWidth_eq]; rfl
theorem FieldsKept.shl (n : Node) : FieldsKept.Statement (.shl n) := by
  intro v h _; injection h with h; subst h; rw [ofView]
  simp only [viewD, BitVec.ofNat_toNat, BitVec.setWidth_eq]; rfl
theorem FieldsKept.shr (n : Node) : FieldsKept.Statement (.shr n) := by
  intro v h _; injection h with h; subst h; rw [ofView]
  simp only [viewD, BitVec.ofNat_toNat, BitVec.setWidth_eq]; rfl
theorem FieldsKept.sar (n : Node) : FieldsKept.Statement (.sar n) := by
  intro v h _; injection h with h; subst h; rw [ofView]
  simp only [viewD, BitVec.ofNat_toNat, BitVec.setWidth_eq]; rfl
theorem FieldsKept.rol (n : Node) : FieldsKept.Statement (.rol n) := by
  intro v h _; injection h with h; subst h; rw [ofView]
  simp only [viewD, BitVec.ofNat_toNat, BitVec.setWidth_eq]; rfl
theorem FieldsKept.clz (n : Node) : FieldsKept.Statement (.clz n) := by
  intro v h _; injection h with h; subst h; rw [ofView]
  simp only [viewD, BitVec.ofNat_toNat, BitVec.setWidth_eq]; rfl
theorem FieldsKept.ctz (n : Node) : FieldsKept.Statement (.ctz n) := by
  intro v h _; injection h with h; subst h; rw [ofView]
  simp only [viewD, BitVec.ofNat_toNat, BitVec.setWidth_eq]; rfl
theorem FieldsKept.popc (n : Node) : FieldsKept.Statement (.popc n) := by
  intro v h _; injection h with h; subst h; rw [ofView]
  simp only [viewD, BitVec.ofNat_toNat, BitVec.setWidth_eq]; rfl
theorem FieldsKept.brev (n : Node) : FieldsKept.Statement (.brev n) := by
  intro v h _; injection h with h; subst h; rw [ofView]
  simp only [viewD, BitVec.ofNat_toNat, BitVec.setWidth_eq]; rfl
theorem FieldsKept.bfx (n : Node) : FieldsKept.Statement (.bfx n) := by
  intro v h _; injection h with h; subst h; rw [ofView]
  simp only [viewD, BitVec.ofNat_toNat, BitVec.setWidth_eq]; rfl
theorem FieldsKept.bfi (n : Node) : FieldsKept.Statement (.bfi n) := by
  intro v h _; injection h with h; subst h; rw [ofView]
  simp only [viewD, BitVec.ofNat_toNat, BitVec.setWidth_eq]; rfl
theorem FieldsKept.icmp (n : Node) : FieldsKept.Statement (.icmp n) := by
  intro v h _; injection h with h; subst h; rw [ofView]
  simp only [viewD, BitVec.ofNat_toNat, BitVec.setWidth_eq]; rfl
theorem FieldsKept.sel (n : Node) : FieldsKept.Statement (.sel n) := by
  intro v h _; injection h with h; subst h; rw [ofView]
  simp only [viewD, BitVec.ofNat_toNat, BitVec.setWidth_eq]; rfl
theorem FieldsKept.lit (n : NodeL) : FieldsKept.Statement (.lit n) := by
  intro v h _; injection h with h; subst h; rw [ofView]
  simp only [viewL, BitVec.ofNat_toNat, BitVec.setWidth_eq]; rfl
theorem FieldsKept.aadr (n : NodeL) : FieldsKept.Statement (.aadr n) := by
  intro v h _; injection h with h; subst h; rw [ofView]
  simp only [viewL, BitVec.ofNat_toNat, BitVec.setWidth_eq]; rfl
theorem FieldsKept.cvti (n : Node) : FieldsKept.Statement (.cvti n) := by
  intro v h _; injection h with h; subst h; rw [ofView]
  simp only [viewD, BitVec.ofNat_toNat, BitVec.setWidth_eq]; rfl
theorem FieldsKept.fadd (n : Node) : FieldsKept.Statement (.fadd n) := by
  intro v h _; injection h with h; subst h; rw [ofView]
  simp only [viewD, BitVec.ofNat_toNat, BitVec.setWidth_eq]; rfl
theorem FieldsKept.fsub (n : Node) : FieldsKept.Statement (.fsub n) := by
  intro v h _; injection h with h; subst h; rw [ofView]
  simp only [viewD, BitVec.ofNat_toNat, BitVec.setWidth_eq]; rfl
theorem FieldsKept.fmul (n : Node) : FieldsKept.Statement (.fmul n) := by
  intro v h _; injection h with h; subst h; rw [ofView]
  simp only [viewD, BitVec.ofNat_toNat, BitVec.setWidth_eq]; rfl
theorem FieldsKept.fdiv (n : Node) : FieldsKept.Statement (.fdiv n) := by
  intro v h _; injection h with h; subst h; rw [ofView]
  simp only [viewD, BitVec.ofNat_toNat, BitVec.setWidth_eq]; rfl
theorem FieldsKept.fma (n : Node) : FieldsKept.Statement (.fma n) := by
  intro v h _; injection h with h; subst h; rw [ofView]
  simp only [viewD, BitVec.ofNat_toNat, BitVec.setWidth_eq]; rfl
theorem FieldsKept.fms (n : Node) : FieldsKept.Statement (.fms n) := by
  intro v h _; injection h with h; subst h; rw [ofView]
  simp only [viewD, BitVec.ofNat_toNat, BitVec.setWidth_eq]; rfl
theorem FieldsKept.fnma (n : Node) : FieldsKept.Statement (.fnma n) := by
  intro v h _; injection h with h; subst h; rw [ofView]
  simp only [viewD, BitVec.ofNat_toNat, BitVec.setWidth_eq]; rfl
theorem FieldsKept.fmin (n : Node) : FieldsKept.Statement (.fmin n) := by
  intro v h _; injection h with h; subst h; rw [ofView]
  simp only [viewD, BitVec.ofNat_toNat, BitVec.setWidth_eq]; rfl
theorem FieldsKept.fmax (n : Node) : FieldsKept.Statement (.fmax n) := by
  intro v h _; injection h with h; subst h; rw [ofView]
  simp only [viewD, BitVec.ofNat_toNat, BitVec.setWidth_eq]; rfl
theorem FieldsKept.fminn (n : Node) : FieldsKept.Statement (.fminn n) := by
  intro v h _; injection h with h; subst h; rw [ofView]
  simp only [viewD, BitVec.ofNat_toNat, BitVec.setWidth_eq]; rfl
theorem FieldsKept.fmaxn (n : Node) : FieldsKept.Statement (.fmaxn n) := by
  intro v h _; injection h with h; subst h; rw [ofView]
  simp only [viewD, BitVec.ofNat_toNat, BitVec.setWidth_eq]; rfl
theorem FieldsKept.fabs (n : Node) : FieldsKept.Statement (.fabs n) := by
  intro v h _; injection h with h; subst h; rw [ofView]
  simp only [viewD, BitVec.ofNat_toNat, BitVec.setWidth_eq]; rfl
theorem FieldsKept.fneg (n : Node) : FieldsKept.Statement (.fneg n) := by
  intro v h _; injection h with h; subst h; rw [ofView]
  simp only [viewD, BitVec.ofNat_toNat, BitVec.setWidth_eq]; rfl
theorem FieldsKept.fcpsgn (n : Node) : FieldsKept.Statement (.fcpsgn n) := by
  intro v h _; injection h with h; subst h; rw [ofView]
  simp only [viewD, BitVec.ofNat_toNat, BitVec.setWidth_eq]; rfl
theorem FieldsKept.fcmp (n : Node) : FieldsKept.Statement (.fcmp n) := by
  intro v h _; injection h with h; subst h; rw [ofView]
  simp only [viewD, BitVec.ofNat_toNat, BitVec.setWidth_eq]; rfl
theorem FieldsKept.fclass (n : Node) : FieldsKept.Statement (.fclass n) := by
  intro v h _; injection h with h; subst h; rw [ofView]
  simp only [viewD, BitVec.ofNat_toNat, BitVec.setWidth_eq]; rfl
theorem FieldsKept.fsqrt (n : Node) : FieldsKept.Statement (.fsqrt n) := by
  intro v h _; injection h with h; subst h; rw [ofView]
  simp only [viewD, BitVec.ofNat_toNat, BitVec.setWidth_eq]; rfl
theorem FieldsKept.frsq (n : Node) : FieldsKept.Statement (.frsq n) := by
  intro v h _; injection h with h; subst h; rw [ofView]
  simp only [viewD, BitVec.ofNat_toNat, BitVec.setWidth_eq]; rfl
theorem FieldsKept.frcp (n : Node) : FieldsKept.Statement (.frcp n) := by
  intro v h _; injection h with h; subst h; rw [ofView]
  simp only [viewD, BitVec.ofNat_toNat, BitVec.setWidth_eq]; rfl
theorem FieldsKept.fexp (n : Node) : FieldsKept.Statement (.fexp n) := by
  intro v h _; injection h with h; subst h; rw [ofView]
  simp only [viewD, BitVec.ofNat_toNat, BitVec.setWidth_eq]; rfl
theorem FieldsKept.fexp2 (n : Node) : FieldsKept.Statement (.fexp2 n) := by
  intro v h _; injection h with h; subst h; rw [ofView]
  simp only [viewD, BitVec.ofNat_toNat, BitVec.setWidth_eq]; rfl
theorem FieldsKept.flog (n : Node) : FieldsKept.Statement (.flog n) := by
  intro v h _; injection h with h; subst h; rw [ofView]
  simp only [viewD, BitVec.ofNat_toNat, BitVec.setWidth_eq]; rfl
theorem FieldsKept.flog2 (n : Node) : FieldsKept.Statement (.flog2 n) := by
  intro v h _; injection h with h; subst h; rw [ofView]
  simp only [viewD, BitVec.ofNat_toNat, BitVec.setWidth_eq]; rfl
theorem FieldsKept.fsin (n : Node) : FieldsKept.Statement (.fsin n) := by
  intro v h _; injection h with h; subst h; rw [ofView]
  simp only [viewD, BitVec.ofNat_toNat, BitVec.setWidth_eq]; rfl
theorem FieldsKept.fcos (n : Node) : FieldsKept.Statement (.fcos n) := by
  intro v h _; injection h with h; subst h; rw [ofView]
  simp only [viewD, BitVec.ofNat_toNat, BitVec.setWidth_eq]; rfl
theorem FieldsKept.fsincos (n : Node) : FieldsKept.Statement (.fsincos n) := by
  intro v h _; injection h with h; subst h; rw [ofView]
  simp only [viewD, BitVec.ofNat_toNat, BitVec.setWidth_eq]; rfl
theorem FieldsKept.ftanh (n : Node) : FieldsKept.Statement (.ftanh n) := by
  intro v h _; injection h with h; subst h; rw [ofView]
  simp only [viewD, BitVec.ofNat_toNat, BitVec.setWidth_eq]; rfl
theorem FieldsKept.fsigm (n : Node) : FieldsKept.Statement (.fsigm n) := by
  intro v h _; injection h with h; subst h; rw [ofView]
  simp only [viewD, BitVec.ofNat_toNat, BitVec.setWidth_eq]; rfl
theorem FieldsKept.ferf (n : Node) : FieldsKept.Statement (.ferf n) := by
  intro v h _; injection h with h; subst h; rw [ofView]
  simp only [viewD, BitVec.ofNat_toNat, BitVec.setWidth_eq]; rfl
theorem FieldsKept.frnd (n : Node) : FieldsKept.Statement (.frnd n) := by
  intro v h _; injection h with h; subst h; rw [ofView]
  simp only [viewD, BitVec.ofNat_toNat, BitVec.setWidth_eq]; rfl
theorem FieldsKept.fscale (n : Node) : FieldsKept.Statement (.fscale n) := by
  intro v h _; injection h with h; subst h; rw [ofView]
  simp only [viewD, BitVec.ofNat_toNat, BitVec.setWidth_eq]; rfl
theorem FieldsKept.fcvt (n : Node) : FieldsKept.Statement (.fcvt n) := by
  intro v h _; injection h with h; subst h; rw [ofView]
  simp only [viewD, BitVec.ofNat_toNat, BitVec.setWidth_eq]; rfl
theorem FieldsKept.fquant (n : Node) : FieldsKept.Statement (.fquant n) := by
  intro v h _; injection h with h; subst h; rw [ofView]
  simp only [viewD, BitVec.ofNat_toNat, BitVec.setWidth_eq]; rfl
theorem FieldsKept.fdeq (n : Node) : FieldsKept.Statement (.fdeq n) := by
  intro v h _; injection h with h; subst h; rw [ofView]
  simp only [viewD, BitVec.ofNat_toNat, BitVec.setWidth_eq]; rfl
theorem FieldsKept.jord (n : Node) : FieldsKept.Statement (.jord n) := by
  intro v h _; injection h with h; subst h; rw [ofView]
  simp only [viewD, BitVec.ofNat_toNat, BitVec.setWidth_eq]; rfl
theorem FieldsKept.jseed (n : Node) : FieldsKept.Statement (.jseed n) := by
  intro v h _; injection h with h; subst h; rw [ofView]
  simp only [viewD, BitVec.ofNat_toNat, BitVec.setWidth_eq]; rfl
theorem FieldsKept.jconst (n : Node) : FieldsKept.Statement (.jconst n) := by
  intro v h _; injection h with h; subst h; rw [ofView]
  simp only [viewD, BitVec.ofNat_toNat, BitVec.setWidth_eq]; rfl
theorem FieldsKept.jget (n : Node) : FieldsKept.Statement (.jget n) := by
  intro v h _; injection h with h; subst h; rw [ofView]
  simp only [viewD, BitVec.ofNat_toNat, BitVec.setWidth_eq]; rfl
theorem FieldsKept.jput (n : Node) : FieldsKept.Statement (.jput n) := by
  intro v h _; injection h with h; subst h; rw [ofView]
  simp only [viewD, BitVec.ofNat_toNat, BitVec.setWidth_eq]; rfl
theorem FieldsKept.jdiff (n : Node) : FieldsKept.Statement (.jdiff n) := by
  intro v h _; injection h with h; subst h; rw [ofView]
  simp only [viewD, BitVec.ofNat_toNat, BitVec.setWidth_eq]; rfl
theorem FieldsKept.jintg (n : Node) : FieldsKept.Statement (.jintg n) := by
  intro v h _; injection h with h; subst h; rw [ofView]
  simp only [viewD, BitVec.ofNat_toNat, BitVec.setWidth_eq]; rfl
theorem FieldsKept.jtrunc (n : Node) : FieldsKept.Statement (.jtrunc n) := by
  intro v h _; injection h with h; subst h; rw [ofView]
  simp only [viewD, BitVec.ofNat_toNat, BitVec.setWidth_eq]; rfl
theorem FieldsKept.jflag (n : Node) : FieldsKept.Statement (.jflag n) := by
  intro v h _; injection h with h; subst h; rw [ofView]
  simp only [viewD, BitVec.ofNat_toNat, BitVec.setWidth_eq]; rfl
theorem FieldsKept.accinit (n : Node) : FieldsKept.Statement (.accinit n) := by
  intro v h _; injection h with h; subst h; rw [ofView]
  simp only [viewD, BitVec.ofNat_toNat, BitVec.setWidth_eq]; rfl
theorem FieldsKept.accadd (n : Node) : FieldsKept.Statement (.accadd n) := by
  intro v h _; injection h with h; subst h; rw [ofView]
  simp only [viewD, BitVec.ofNat_toNat, BitVec.setWidth_eq]; rfl
theorem FieldsKept.accmax (n : Node) : FieldsKept.Statement (.accmax n) := by
  intro v h _; injection h with h; subst h; rw [ofView]
  simp only [viewD, BitVec.ofNat_toNat, BitVec.setWidth_eq]; rfl
theorem FieldsKept.accmin (n : Node) : FieldsKept.Statement (.accmin n) := by
  intro v h _; injection h with h; subst h; rw [ofView]
  simp only [viewD, BitVec.ofNat_toNat, BitVec.setWidth_eq]; rfl
theorem FieldsKept.accrd (n : Node) : FieldsKept.Statement (.accrd n) := by
  intro v h _; injection h with h; subst h; rw [ofView]
  simp only [viewD, BitVec.ofNat_toNat, BitVec.setWidth_eq]; rfl
theorem FieldsKept.krd (n : Node) : FieldsKept.Statement (.krd n) := by
  intro v h _; injection h with h; subst h; rw [ofView]
  simp only [viewD, BitVec.ofNat_toNat, BitVec.setWidth_eq]; rfl
theorem FieldsKept.kwr (n : Node) : FieldsKept.Statement (.kwr n) := by
  intro v h _; injection h with h; subst h; rw [ofView]
  simp only [viewD, BitVec.ofNat_toNat, BitVec.setWidth_eq]; rfl
theorem FieldsKept.csrrd (n : Node) : FieldsKept.Statement (.csrrd n) := by
  intro v h _; injection h with h; subst h; rw [ofView]
  simp only [viewD, BitVec.ofNat_toNat, BitVec.setWidth_eq]; rfl
theorem FieldsKept.csrwr (n : Node) : FieldsKept.Statement (.csrwr n) := by
  intro v h _; injection h with h; subst h; rw [ofView]
  simp only [viewD, BitVec.ofNat_toNat, BitVec.setWidth_eq]; rfl
theorem FieldsKept.wload (n : Node) : FieldsKept.Statement (.wload n) := by
  intro v h _; injection h with h; subst h; rw [ofView]
  simp only [viewD, BitVec.ofNat_toNat, BitVec.setWidth_eq]; rfl
theorem FieldsKept.wloadx (n : Node) : FieldsKept.Statement (.wloadx n) := by
  intro v h _; injection h with h; subst h; rw [ofView]
  simp only [viewD, BitVec.ofNat_toNat, BitVec.setWidth_eq]; rfl
theorem FieldsKept.wswap (n : Node) : FieldsKept.Statement (.wswap n) := by
  intro v h _; injection h with h; subst h; rw [ofView]
  simp only [viewD, BitVec.ofNat_toNat, BitVec.setWidth_eq]; rfl
theorem FieldsKept.mma (n : Node) (e1 : BitVec 86) : FieldsKept.Statement (.mma n e1) := by
  intro v h _; injection h with h; subst h; rw [ofView]
  simp only [viewX, viewD, BitVec.ofNat_toNat, BitVec.setWidth_eq]; rfl
theorem FieldsKept.mmaj (n : Node) (e1 : BitVec 86) : FieldsKept.Statement (.mmaj n e1) := by
  intro v h _; injection h with h; subst h; rw [ofView]
  simp only [viewX, viewD, BitVec.ofNat_toNat, BitVec.setWidth_eq]; rfl
theorem FieldsKept.mmax (n : Node) (e1 e2 : BitVec 86) : FieldsKept.Statement (.mmax n e1 e2) := by
  intro v h _; injection h with h; subst h; rw [ofView]
  simp only [viewX, viewD, BitVec.ofNat_toNat, BitVec.setWidth_eq]; rfl
theorem FieldsKept.apzero (n : Node) : FieldsKept.Statement (.apzero n) := by
  intro v h _; injection h with h; subst h; rw [ofView]
  simp only [viewD, BitVec.ofNat_toNat, BitVec.setWidth_eq]; rfl
theorem FieldsKept.apmv (n : Node) : FieldsKept.Statement (.apmv n) := by
  intro v h _; injection h with h; subst h; rw [ofView]
  simp only [viewD, BitVec.ofNat_toNat, BitVec.setWidth_eq]; rfl
theorem FieldsKept.appeek (n : Node) : FieldsKept.Statement (.appeek n) := by
  intro v h _; injection h with h; subst h; rw [ofView]
  simp only [viewD, BitVec.ofNat_toNat, BitVec.setWidth_eq]; rfl
theorem FieldsKept.jobpoll (n : Node) : FieldsKept.Statement (.jobpoll n) := by
  intro v h _; injection h with h; subst h; rw [ofView]
  simp only [viewD, BitVec.ofNat_toNat, BitVec.setWidth_eq]; rfl
theorem FieldsKept.jobwait (n : Node) : FieldsKept.Statement (.jobwait n) := by
  intro v h _; injection h with h; subst h; rw [ofView]
  simp only [viewD, BitVec.ofNat_toNat, BitVec.setWidth_eq]; rfl
theorem FieldsKept.ld (n : Node) : FieldsKept.Statement (.ld n) := by
  intro v h _; injection h with h; subst h; rw [ofView]
  simp only [viewD, BitVec.ofNat_toNat, BitVec.setWidth_eq]; rfl
theorem FieldsKept.st (n : Node) : FieldsKept.Statement (.st n) := by
  intro v h _; injection h with h; subst h; rw [ofView]
  simp only [viewD, BitVec.ofNat_toNat, BitVec.setWidth_eq]; rfl
theorem FieldsKept.ldg (n : Node) : FieldsKept.Statement (.ldg n) := by
  intro v h _; injection h with h; subst h; rw [ofView]
  simp only [viewD, BitVec.ofNat_toNat, BitVec.setWidth_eq]; rfl
theorem FieldsKept.sts (n : Node) : FieldsKept.Statement (.sts n) := by
  intro v h _; injection h with h; subst h; rw [ofView]
  simp only [viewD, BitVec.ofNat_toNat, BitVec.setWidth_eq]; rfl
theorem FieldsKept.strm (n : Node) (e1 : BitVec 86) : FieldsKept.Statement (.strm n e1) := by
  intro v h _; injection h with h; subst h; rw [ofView]
  simp only [viewX, viewD, BitVec.ofNat_toNat, BitVec.setWidth_eq]; rfl
theorem FieldsKept.strmst (n : Node) (e1 : BitVec 86) : FieldsKept.Statement (.strmst n e1) := by
  intro v h _; injection h with h; subst h; rw [ofView]
  simp only [viewX, viewD, BitVec.ofNat_toNat, BitVec.setWidth_eq]; rfl
theorem FieldsKept.pref (n : Node) : FieldsKept.Statement (.pref n) := by
  intro v h _; injection h with h; subst h; rw [ofView]
  simp only [viewD, BitVec.ofNat_toNat, BitVec.setWidth_eq]; rfl
theorem FieldsKept.tld (n : Node) : FieldsKept.Statement (.tld n) := by
  intro v h _; injection h with h; subst h; rw [ofView]
  simp only [viewD, BitVec.ofNat_toNat, BitVec.setWidth_eq]; rfl
theorem FieldsKept.tst (n : Node) : FieldsKept.Statement (.tst n) := by
  intro v h _; injection h with h; subst h; rw [ofView]
  simp only [viewD, BitVec.ofNat_toNat, BitVec.setWidth_eq]; rfl
theorem FieldsKept.aadd (n : Node) : FieldsKept.Statement (.aadd n) := by
  intro v h _; injection h with h; subst h; rw [ofView]
  simp only [viewD, BitVec.ofNat_toNat, BitVec.setWidth_eq]; rfl
theorem FieldsKept.afadd (n : Node) : FieldsKept.Statement (.afadd n) := by
  intro v h _; injection h with h; subst h; rw [ofView]
  simp only [viewD, BitVec.ofNat_toNat, BitVec.setWidth_eq]; rfl
theorem FieldsKept.amin (n : Node) : FieldsKept.Statement (.amin n) := by
  intro v h _; injection h with h; subst h; rw [ofView]
  simp only [viewD, BitVec.ofNat_toNat, BitVec.setWidth_eq]; rfl
theorem FieldsKept.amax (n : Node) : FieldsKept.Statement (.amax n) := by
  intro v h _; injection h with h; subst h; rw [ofView]
  simp only [viewD, BitVec.ofNat_toNat, BitVec.setWidth_eq]; rfl
theorem FieldsKept.aand (n : Node) : FieldsKept.Statement (.aand n) := by
  intro v h _; injection h with h; subst h; rw [ofView]
  simp only [viewD, BitVec.ofNat_toNat, BitVec.setWidth_eq]; rfl
theorem FieldsKept.aor (n : Node) : FieldsKept.Statement (.aor n) := by
  intro v h _; injection h with h; subst h; rw [ofView]
  simp only [viewD, BitVec.ofNat_toNat, BitVec.setWidth_eq]; rfl
theorem FieldsKept.axor (n : Node) : FieldsKept.Statement (.axor n) := by
  intro v h _; injection h with h; subst h; rw [ofView]
  simp only [viewD, BitVec.ofNat_toNat, BitVec.setWidth_eq]; rfl
theorem FieldsKept.axchg (n : Node) : FieldsKept.Statement (.axchg n) := by
  intro v h _; injection h with h; subst h; rw [ofView]
  simp only [viewD, BitVec.ofNat_toNat, BitVec.setWidth_eq]; rfl
theorem FieldsKept.acas (n : Node) : FieldsKept.Statement (.acas n) := by
  intro v h _; injection h with h; subst h; rw [ofView]
  simp only [viewD, BitVec.ofNat_toNat, BitVec.setWidth_eq]; rfl
theorem FieldsKept.aincb (n : Node) : FieldsKept.Statement (.aincb n) := by
  intro v h _; injection h with h; subst h; rw [ofView]
  simp only [viewD, BitVec.ofNat_toNat, BitVec.setWidth_eq]; rfl
theorem FieldsKept.fence (n : Node) : FieldsKept.Statement (.fence n) := by
  intro v h _; injection h with h; subst h; rw [ofView]
  simp only [viewD, BitVec.ofNat_toNat, BitVec.setWidth_eq]; rfl
theorem FieldsKept.cpy (n : Node) (e1 : BitVec 86) : FieldsKept.Statement (.cpy n e1) := by
  intro v h _; injection h with h; subst h; rw [ofView]
  simp only [viewX, viewD, BitVec.ofNat_toNat, BitVec.setWidth_eq]; rfl
theorem FieldsKept.cpyd (n : Node) (e1 : BitVec 86) : FieldsKept.Statement (.cpyd n e1) := by
  intro v h _; injection h with h; subst h; rw [ofView]
  simp only [viewX, viewD, BitVec.ofNat_toNat, BitVec.setWidth_eq]; rfl
theorem FieldsKept.cpye (n : Node) (e1 : BitVec 86) : FieldsKept.Statement (.cpye n e1) := by
  intro v h _; injection h with h; subst h; rw [ofView]
  simp only [viewX, viewD, BitVec.ofNat_toNat, BitVec.setWidth_eq]; rfl
theorem FieldsKept.mcast (n : Node) (e1 e2 : BitVec 86) : FieldsKept.Statement (.mcast n e1 e2) := by
  intro v h _; injection h with h; subst h; rw [ofView]
  simp only [viewX, viewD, BitVec.ofNat_toNat, BitVec.setWidth_eq]; rfl
theorem FieldsKept.gath (n : Node) (e1 : BitVec 86) : FieldsKept.Statement (.gath n e1) := by
  intro v h _; injection h with h; subst h; rw [ofView]
  simp only [viewX, viewD, BitVec.ofNat_toNat, BitVec.setWidth_eq]; rfl
theorem FieldsKept.scat (n : Node) (e1 : BitVec 86) : FieldsKept.Statement (.scat n e1) := by
  intro v h _; injection h with h; subst h; rw [ofView]
  simp only [viewX, viewD, BitVec.ofNat_toNat, BitVec.setWidth_eq]; rfl
theorem FieldsKept.tfill (n : Node) : FieldsKept.Statement (.tfill n) := by
  intro v h _; injection h with h; subst h; rw [ofView]
  simp only [viewD, BitVec.ofNat_toNat, BitVec.setWidth_eq]; rfl
theorem FieldsKept.tevict (n : Node) : FieldsKept.Statement (.tevict n) := by
  intro v h _; injection h with h; subst h; rw [ofView]
  simp only [viewD, BitVec.ofNat_toNat, BitVec.setWidth_eq]; rfl
theorem FieldsKept.tinv (n : Node) : FieldsKept.Statement (.tinv n) := by
  intro v h _; injection h with h; subst h; rw [ofView]
  simp only [viewD, BitVec.ofNat_toNat, BitVec.setWidth_eq]; rfl
theorem FieldsKept.lookup (n : Node) : FieldsKept.Statement (.lookup n) := by
  intro v h _; injection h with h; subst h; rw [ofView]
  simp only [viewD, BitVec.ofNat_toNat, BitVec.setWidth_eq]; rfl
theorem FieldsKept.tstate (n : Node) : FieldsKept.Statement (.tstate n) := by
  intro v h _; injection h with h; subst h; rw [ofView]
  simp only [viewD, BitVec.ofNat_toNat, BitVec.setWidth_eq]; rfl
theorem FieldsKept.tset (n : Node) : FieldsKept.Statement (.tset n) := by
  intro v h _; injection h with h; subst h; rw [ofView]
  simp only [viewD, BitVec.ofNat_toNat, BitVec.setWidth_eq]; rfl
theorem FieldsKept.rtrd (n : Node) : FieldsKept.Statement (.rtrd n) := by
  intro v h _; injection h with h; subst h; rw [ofView]
  simp only [viewD, BitVec.ofNat_toNat, BitVec.setWidth_eq]; rfl
theorem FieldsKept.rtwr (n : Node) : FieldsKept.Statement (.rtwr n) := by
  intro v h _; injection h with h; subst h; rw [ofView]
  simp only [viewD, BitVec.ofNat_toNat, BitVec.setWidth_eq]; rfl
theorem FieldsKept.maprd (n : Node) : FieldsKept.Statement (.maprd n) := by
  intro v h _; injection h with h; subst h; rw [ofView]
  simp only [viewD, BitVec.ofNat_toNat, BitVec.setWidth_eq]; rfl
theorem FieldsKept.bandrd (n : Node) : FieldsKept.Statement (.bandrd n) := by
  intro v h _; injection h with h; subst h; rw [ofView]
  simp only [viewD, BitVec.ofNat_toNat, BitVec.setWidth_eq]; rfl
theorem FieldsKept.qopen (n : Node) (e1 e2 : BitVec 86) : FieldsKept.Statement (.qopen n e1 e2) := by
  intro v h _; injection h with h; subst h; rw [ofView]
  simp only [viewX, viewD, BitVec.ofNat_toNat, BitVec.setWidth_eq]; rfl
theorem FieldsKept.qcontrib (n : Node) : FieldsKept.Statement (.qcontrib n) := by
  intro v h _; injection h with h; subst h; rw [ofView]
  simp only [viewD, BitVec.ofNat_toNat, BitVec.setWidth_eq]; rfl
theorem FieldsKept.qclose (n : Node) : FieldsKept.Statement (.qclose n) := by
  intro v h _; injection h with h; subst h; rw [ofView]
  simp only [viewD, BitVec.ofNat_toNat, BitVec.setWidth_eq]; rfl
theorem FieldsKept.qstat (n : Node) : FieldsKept.Statement (.qstat n) := by
  intro v h _; injection h with h; subst h; rw [ofView]
  simp only [viewD, BitVec.ofNat_toNat, BitVec.setWidth_eq]; rfl
theorem FieldsKept.qlag (n : Node) : FieldsKept.Statement (.qlag n) := by
  intro v h _; injection h with h; subst h; rw [ofView]
  simp only [viewD, BitVec.ofNat_toNat, BitVec.setWidth_eq]; rfl
theorem FieldsKept.qwset (n : Node) : FieldsKept.Statement (.qwset n) := by
  intro v h _; injection h with h; subst h; rw [ofView]
  simp only [viewD, BitVec.ofNat_toNat, BitVec.setWidth_eq]; rfl
theorem FieldsKept.cwalk (n : Node) (e1 : BitVec 86) : FieldsKept.Statement (.cwalk n e1) := by
  intro v h _; injection h with h; subst h; rw [ofView]
  simp only [viewX, viewD, BitVec.ofNat_toNat, BitVec.setWidth_eq]; rfl
theorem FieldsKept.time (n : Node) : FieldsKept.Statement (.time n) := by
  intro v h _; injection h with h; subst h; rw [ofView]
  simp only [viewD, BitVec.ofNat_toNat, BitVec.setWidth_eq]; rfl
theorem FieldsKept.toffs (n : Node) : FieldsKept.Statement (.toffs n) := by
  intro v h _; injection h with h; subst h; rw [ofView]
  simp only [viewD, BitVec.ofNat_toNat, BitVec.setWidth_eq]; rfl
theorem FieldsKept.cntrd (n : Node) : FieldsKept.Statement (.cntrd n) := by
  intro v h _; injection h with h; subst h; rw [ofView]
  simp only [viewD, BitVec.ofNat_toNat, BitVec.setWidth_eq]; rfl
theorem FieldsKept.cntwr (n : Node) : FieldsKept.Statement (.cntwr n) := by
  intro v h _; injection h with h; subst h; rw [ofView]
  simp only [viewD, BitVec.ofNat_toNat, BitVec.setWidth_eq]; rfl
theorem FieldsKept.ext (e : BitVec 86) : FieldsKept.Statement (.ext e) := by
  intro v h g; injection h with h; subst h; exact absurd rfl g
theorem FieldsKept.tokenArrival : ∀ x0, FieldsKept.Statement (.tokenArrival x0) := by
  intro x0 v h; exact absurd h (by nofun)
theorem FieldsKept.stickyOverflowScan : ∀ x0 x1, FieldsKept.Statement (.stickyOverflowScan x0 x1) := by
  intro x0 x1 v h; exact absurd h (by nofun)
theorem FieldsKept.matchRefill : ∀ x0 x1, FieldsKept.Statement (.matchRefill x0 x1) := by
  intro x0 x1 v h; exact absurd h (by nofun)
theorem FieldsKept.channelOverflowSpill : ∀ x0 x1 x2, FieldsKept.Statement (.channelOverflowSpill x0 x1 x2) := by
  intro x0 x1 x2 v h; exact absurd h (by nofun)
theorem FieldsKept.channelOverflowReplay : ∀ x0 x1 x2, FieldsKept.Statement (.channelOverflowReplay x0 x1 x2) := by
  intro x0 x1 x2 v h; exact absurd h (by nofun)
theorem FieldsKept.readyQueueEntry : ∀ x0, FieldsKept.Statement (.readyQueueEntry x0) := by
  intro x0 v h; exact absurd h (by nofun)
theorem FieldsKept.colourRefill : ∀ x0 x1 x2, FieldsKept.Statement (.colourRefill x0 x1 x2) := by
  intro x0 x1 x2 v h; exact absurd h (by nofun)
theorem FieldsKept.starvationTimeout : ∀ x0 x1 x2, FieldsKept.Statement (.starvationTimeout x0 x1 x2) := by
  intro x0 x1 x2 v h; exact absurd h (by nofun)
theorem FieldsKept.colourReturn : ∀ x0 x1, FieldsKept.Statement (.colourReturn x0 x1) := by
  intro x0 x1 v h; exact absurd h (by nofun)
theorem FieldsKept.trapTokenReceipt : ∀ x0, FieldsKept.Statement (.trapTokenReceipt x0) := by
  intro x0 v h; exact absurd h (by nofun)
theorem FieldsKept.engineCommandEnqueue : ∀ x0, FieldsKept.Statement (.engineCommandEnqueue x0) := by
  intro x0 v h; exact absurd h (by nofun)
theorem FieldsKept.engineJobGrant : ∀ x0 x1, FieldsKept.Statement (.engineJobGrant x0 x1) := by
  intro x0 x1 v h; exact absurd h (by nofun)
theorem FieldsKept.matrixJobStart : ∀ x0, FieldsKept.Statement (.matrixJobStart x0) := by
  intro x0 v h; exact absurd h (by nofun)
theorem FieldsKept.mmajPlaneRetire : ∀ x0, FieldsKept.Statement (.mmajPlaneRetire x0) := by
  intro x0 v h; exact absurd h (by nofun)
theorem FieldsKept.matrixJobRetire : ∀ x0 x1, FieldsKept.Statement (.matrixJobRetire x0 x1) := by
  intro x0 x1 v h; exact absurd h (by nofun)
theorem FieldsKept.appeekResponse : ∀ x0, FieldsKept.Statement (.appeekResponse x0) := by
  intro x0 v h; exact absurd h (by nofun)
theorem FieldsKept.copyJobStart : ∀ x0 x1, FieldsKept.Statement (.copyJobStart x0 x1) := by
  intro x0 x1 v h; exact absurd h (by nofun)
theorem FieldsKept.copyTileClaim : ∀ x0 x1, FieldsKept.Statement (.copyTileClaim x0 x1) := by
  intro x0 x1 v h; exact absurd h (by nofun)
theorem FieldsKept.engineLineOwnership : ∀ x0 x1, FieldsKept.Statement (.engineLineOwnership x0 x1) := by
  intro x0 x1 v h; exact absurd h (by nofun)
theorem FieldsKept.copyJobRetire : ∀ x0 x1, FieldsKept.Statement (.copyJobRetire x0 x1) := by
  intro x0 x1 v h; exact absurd h (by nofun)
theorem FieldsKept.multicastDelivery : ∀ x0, FieldsKept.Statement (.multicastDelivery x0) := by
  intro x0 v h; exact absurd h (by nofun)
theorem FieldsKept.chainOrderEntry : ∀ x0 x1 x2, FieldsKept.Statement (.chainOrderEntry x0 x1 x2) := by
  intro x0 x1 x2 v h; exact absurd h (by nofun)
theorem FieldsKept.memoryAccessRelease : ∀ x0 x1 x2, FieldsKept.Statement (.memoryAccessRelease x0 x1 x2) := by
  intro x0 x1 x2 v h; exact absurd h (by nofun)
theorem FieldsKept.homeAccess : ∀ x0, FieldsKept.Statement (.homeAccess x0) := by
  intro x0 v h; exact absurd h (by nofun)
theorem FieldsKept.memoryReply : ∀ x0 x1 x2, FieldsKept.Statement (.memoryReply x0 x1 x2) := by
  intro x0 x1 x2 v h; exact absurd h (by nofun)
theorem FieldsKept.writeResend : ∀ x0, FieldsKept.Statement (.writeResend x0) := by
  intro x0 v h; exact absurd h (by nofun)
theorem FieldsKept.writeResendExpiry : ∀ x0, FieldsKept.Statement (.writeResendExpiry x0) := by
  intro x0 v h; exact absurd h (by nofun)
theorem FieldsKept.streamComplete : ∀ x0 x1 x2, FieldsKept.Statement (.streamComplete x0 x1 x2) := by
  intro x0 x1 x2 v h; exact absurd h (by nofun)
theorem FieldsKept.speculativeFillComplete : ∀ x0 x1 x2, FieldsKept.Statement (.speculativeFillComplete x0 x1 x2) := by
  intro x0 x1 x2 v h; exact absurd h (by nofun)
theorem FieldsKept.tlbMissWalk : ∀ x0 x1 x2 x3, FieldsKept.Statement (.tlbMissWalk x0 x1 x2 x3) := by
  intro x0 x1 x2 x3 v h; exact absurd h (by nofun)
theorem FieldsKept.walkComplete : ∀ x0 x1, FieldsKept.Statement (.walkComplete x0 x1) := by
  intro x0 x1 v h; exact absurd h (by nofun)
theorem FieldsKept.pageFaultResolution : ∀ x0 x1 x2, FieldsKept.Statement (.pageFaultResolution x0 x1 x2) := by
  intro x0 x1 x2 v h; exact absurd h (by nofun)
theorem FieldsKept.backingPageTimeout : ∀ x0 x1, FieldsKept.Statement (.backingPageTimeout x0 x1) := by
  intro x0 x1 v h; exact absurd h (by nofun)
theorem FieldsKept.invalidateAll : ∀ x0, FieldsKept.Statement (.invalidateAll x0) := by
  intro x0 v h; exact absurd h (by nofun)
theorem FieldsKept.invalidateAsid : ∀ x0 x1, FieldsKept.Statement (.invalidateAsid x0 x1) := by
  intro x0 x1 v h; exact absurd h (by nofun)
theorem FieldsKept.invalidateRange : ∀ x0 x1, FieldsKept.Statement (.invalidateRange x0 x1) := by
  intro x0 x1 v h; exact absurd h (by nofun)
theorem FieldsKept.invalidationComplete : ∀ x0, FieldsKept.Statement (.invalidationComplete x0) := by
  intro x0 v h; exact absurd h (by nofun)
theorem FieldsKept.refreshOperation : ∀ x0 x1 x2 x3, FieldsKept.Statement (.refreshOperation x0 x1 x2 x3) := by
  intro x0 x1 x2 x3 v h; exact absurd h (by nofun)
theorem FieldsKept.bankSensorRead : ∀ x0 x1 x2 x3, FieldsKept.Statement (.bankSensorRead x0 x1 x2 x3) := by
  intro x0 x1 x2 x3 v h; exact absurd h (by nofun)
theorem FieldsKept.patrolScrub : ∀ x0 x1 x2 x3 x4, FieldsKept.Statement (.patrolScrub x0 x1 x2 x3 x4) := by
  intro x0 x1 x2 x3 x4 v h; exact absurd h (by nofun)
theorem FieldsKept.bankLoss : ∀ x0 x1 x2 x3, FieldsKept.Statement (.bankLoss x0 x1 x2 x3) := by
  intro x0 x1 x2 x3 v h; exact absurd h (by nofun)
theorem FieldsKept.rebuildStripe : ∀ x0 x1 x2, FieldsKept.Statement (.rebuildStripe x0 x1 x2) := by
  intro x0 x1 x2 v h; exact absurd h (by nofun)
theorem FieldsKept.verticalBusFailure : ∀ x0 x1 x2, FieldsKept.Statement (.verticalBusFailure x0 x1 x2) := by
  intro x0 x1 x2 v h; exact absurd h (by nofun)
theorem FieldsKept.columnLoss : ∀ x0 x1, FieldsKept.Statement (.columnLoss x0 x1) := by
  intro x0 x1 v h; exact absurd h (by nofun)
theorem FieldsKept.layerShutdown : ∀ x0 x1, FieldsKept.Statement (.layerShutdown x0 x1) := by
  intro x0 x1 v h; exact absurd h (by nofun)
theorem FieldsKept.layerRestart : ∀ x0 x1, FieldsKept.Statement (.layerRestart x0 x1) := by
  intro x0 x1 v h; exact absurd h (by nofun)
theorem FieldsKept.linkCrcFailure : ∀ x0 x1 x2, FieldsKept.Statement (.linkCrcFailure x0 x1 x2) := by
  intro x0 x1 x2 v h; exact absurd h (by nofun)
theorem FieldsKept.residueCheckFailure : ∀ x0, FieldsKept.Statement (.residueCheckFailure x0) := by
  intro x0 v h; exact absurd h (by nofun)
theorem FieldsKept.coreRetirement : ∀ x0 x1 x2, FieldsKept.Statement (.coreRetirement x0 x1 x2) := by
  intro x0 x1 x2 v h; exact absurd h (by nofun)
theorem FieldsKept.rebindComplete : ∀ x0 x1, FieldsKept.Statement (.rebindComplete x0 x1) := by
  intro x0 x1 v h; exact absurd h (by nofun)
theorem FieldsKept.remapScrub : ∀ x0 x1 x2, FieldsKept.Statement (.remapScrub x0 x1 x2) := by
  intro x0 x1 x2 v h; exact absurd h (by nofun)
theorem FieldsKept.remapRebuildComplete : ∀ x0 x1 x2, FieldsKept.Statement (.remapRebuildComplete x0 x1 x2) := by
  intro x0 x1 x2 v h; exact absurd h (by nofun)
theorem FieldsKept.remapEntryWrite : ∀ x0 x1 x2, FieldsKept.Statement (.remapEntryWrite x0 x1 x2) := by
  intro x0 x1 x2 v h; exact absurd h (by nofun)
theorem FieldsKept.bandMeasurement : ∀ x0 x1 x2 x3, FieldsKept.Statement (.bandMeasurement x0 x1 x2 x3) := by
  intro x0 x1 x2 x3 v h; exact absurd h (by nofun)
theorem FieldsKept.offsetMeasurement : ∀ x0 x1 x2 x3 x4, FieldsKept.Statement (.offsetMeasurement x0 x1 x2 x3 x4) := by
  intro x0 x1 x2 x3 x4 v h; exact absurd h (by nofun)
theorem FieldsKept.doorbell : ∀ x0 x1 x2 x3, FieldsKept.Statement (.doorbell x0 x1 x2 x3) := by
  intro x0 x1 x2 x3 v h; exact absurd h (by nofun)
theorem FieldsKept.lqProdWrite : ∀ x0 x1 x2, FieldsKept.Statement (.lqProdWrite x0 x1 x2) := by
  intro x0 x1 x2 v h; exact absurd h (by nofun)
theorem FieldsKept.launchIntake : ∀ x0 x1, FieldsKept.Statement (.launchIntake x0 x1) := by
  intro x0 x1 v h; exact absurd h (by nofun)
theorem FieldsKept.startTokenInjection : ∀ x0, FieldsKept.Statement (.startTokenInjection x0) := by
  intro x0 v h; exact absurd h (by nofun)
theorem FieldsKept.pitchCompletion : ∀ x0, FieldsKept.Statement (.pitchCompletion x0) := by
  intro x0 v h; exact absurd h (by nofun)
theorem FieldsKept.cancel : ∀ x0 x1 x2, FieldsKept.Statement (.cancel x0 x1 x2) := by
  intro x0 x1 x2 v h; exact absurd h (by nofun)
theorem FieldsKept.preempt : ∀ x0 x1, FieldsKept.Statement (.preempt x0 x1) := by
  intro x0 x1 v h; exact absurd h (by nofun)
theorem FieldsKept.watchdog : ∀ x0, FieldsKept.Statement (.watchdog x0) := by
  intro x0 v h; exact absurd h (by nofun)
theorem FieldsKept.preemptionHalt : ∀ x0, FieldsKept.Statement (.preemptionHalt x0) := by
  intro x0 v h; exact absurd h (by nofun)
theorem FieldsKept.preemptionSave : ∀ x0, FieldsKept.Statement (.preemptionSave x0) := by
  intro x0 v h; exact absurd h (by nofun)
theorem FieldsKept.pitchRestore : ∀ x0, FieldsKept.Statement (.pitchRestore x0) := by
  intro x0 v h; exact absurd h (by nofun)
theorem FieldsKept.meetingCommandDequeue : ∀ x0 x1, FieldsKept.Statement (.meetingCommandDequeue x0 x1) := by
  intro x0 x1 v h; exact absurd h (by nofun)
theorem FieldsKept.contributionArrival : ∀ x0 x1, FieldsKept.Statement (.contributionArrival x0 x1) := by
  intro x0 x1 v h; exact absurd h (by nofun)
theorem FieldsKept.roundTimeout : ∀ x0 x1, FieldsKept.Statement (.roundTimeout x0 x1) := by
  intro x0 x1 v h; exact absurd h (by nofun)
theorem FieldsKept.ringChunkArrival : ∀ x0, FieldsKept.Statement (.ringChunkArrival x0) := by
  intro x0 v h; exact absurd h (by nofun)
theorem FieldsKept.ringCreditArrival : ∀ x0, FieldsKept.Statement (.ringCreditArrival x0) := by
  intro x0 v h; exact absurd h (by nofun)
theorem FieldsKept.ringTimeout : ∀ x0 x1, FieldsKept.Statement (.ringTimeout x0 x1) := by
  intro x0 x1 v h; exact absurd h (by nofun)
theorem FieldsKept.deadNotice : ∀ x0, FieldsKept.Statement (.deadNotice x0) := by
  intro x0 v h; exact absurd h (by nofun)
theorem FieldsKept.completionIndex : ∀ x0, FieldsKept.Statement (.completionIndex x0) := by
  intro x0 v h; exact absurd h (by nofun)
theorem FieldsKept.ownClaim : ∀ x0, FieldsKept.Statement (.ownClaim x0) := by
  intro x0 v h; exact absurd h (by nofun)
theorem FieldsKept.ownRelease : ∀ x0, FieldsKept.Statement (.ownRelease x0) := by
  intro x0 v h; exact absurd h (by nofun)
theorem FieldsKept.hbBeat : ∀ x0, FieldsKept.Statement (.hbBeat x0) := by
  intro x0 v h; exact absurd h (by nofun)
theorem FieldsKept.ownerLost : FieldsKept.Statement .ownerLost := by
  intro v h; exact absurd h (by nofun)
theorem FieldsKept.regionRelease : ∀ x0, FieldsKept.Statement (.regionRelease x0) := by
  intro x0 v h; exact absurd h (by nofun)
theorem FieldsKept.unitClear : ∀ x0, FieldsKept.Statement (.unitClear x0) := by
  intro x0 v h; exact absurd h (by nofun)
theorem FieldsKept.pageGrant : ∀ x0, FieldsKept.Statement (.pageGrant x0) := by
  intro x0 v h; exact absurd h (by nofun)
theorem FieldsKept.coreRetire : ∀ x0, FieldsKept.Statement (.coreRetire x0) := by
  intro x0 v h; exact absurd h (by nofun)
theorem FieldsKept.journalClear : ∀ x0, FieldsKept.Statement (.journalClear x0) := by
  intro x0 v h; exact absurd h (by nofun)
theorem FieldsKept.svnCommit : ∀ x0, FieldsKept.Statement (.svnCommit x0) := by
  intro x0 v h; exact absurd h (by nofun)
theorem FieldsKept.mailboxBadCommand : ∀ x0, FieldsKept.Statement (.mailboxBadCommand x0) := by
  intro x0 v h; exact absurd h (by nofun)
theorem FieldsKept.reportRingWrite : FieldsKept.Statement .reportRingWrite := by
  intro v h; exact absurd h (by nofun)
theorem FieldsKept.bootStart : ∀ x0 x1, FieldsKept.Statement (.bootStart x0 x1) := by
  intro x0 x1 v h; exact absurd h (by nofun)
theorem FieldsKept.bootStep : ∀ x0 x1, FieldsKept.Statement (.bootStep x0 x1) := by
  intro x0 x1 v h; exact absurd h (by nofun)
theorem FieldsKept.rcvcmdGo : ∀ x0 x1, FieldsKept.Statement (.rcvcmdGo x0 x1) := by
  intro x0 x1 v h; exact absurd h (by nofun)
theorem FieldsKept.imageVerification : ∀ x0, FieldsKept.Statement (.imageVerification x0) := by
  intro x0 v h; exact absurd h (by nofun)
theorem FieldsKept.spdmRequest : ∀ x0 x1, FieldsKept.Statement (.spdmRequest x0 x1) := by
  intro x0 x1 v h; exact absurd h (by nofun)
theorem FieldsKept.hostMemoryRequest : ∀ x0, FieldsKept.Statement (.hostMemoryRequest x0) := by
  intro x0 v h; exact absurd h (by nofun)
theorem FieldsKept.throttleStep : ∀ x0 x1, FieldsKept.Statement (.throttleStep x0 x1) := by
  intro x0 x1 v h; exact absurd h (by nofun)
theorem FieldsKept.throttleRecovery : ∀ x0, FieldsKept.Statement (.throttleRecovery x0) := by
  intro x0 v h; exact absurd h (by nofun)
theorem FieldsKept.holdClear : ∀ x0, FieldsKept.Statement (.holdClear x0) := by
  intro x0 v h; exact absurd h (by nofun)
theorem FieldsKept.clksetWrite : ∀ x0 x1 x2, FieldsKept.Statement (.clksetWrite x0 x1 x2) := by
  intro x0 x1 x2 v h; exact absurd h (by nofun)
theorem FieldsKept.registerWrite : ∀ x0 x1 x2, FieldsKept.Statement (.registerWrite x0 x1 x2) := by
  intro x0 x1 x2 v h; exact absurd h (by nofun)
theorem FieldsKept.portEgress : ∀ x0 x1, FieldsKept.Statement (.portEgress x0 x1) := by
  intro x0 x1 v h; exact absurd h (by nofun)
theorem FieldsKept.frameReceive : ∀ x0 x1 x2 x3, FieldsKept.Statement (.frameReceive x0 x1 x2 x3) := by
  intro x0 x1 x2 x3 v h; exact absurd h (by nofun)
theorem FieldsKept.nakReplay : ∀ x0 x1 x2, FieldsKept.Statement (.nakReplay x0 x1 x2) := by
  intro x0 x1 x2 v h; exact absurd h (by nofun)
theorem FieldsKept.laneTuneDone : ∀ x0 x1 x2, FieldsKept.Statement (.laneTuneDone x0 x1 x2) := by
  intro x0 x1 x2 v h; exact absurd h (by nofun)
theorem FieldsKept.laneTrainDone : ∀ x0 x1, FieldsKept.Statement (.laneTrainDone x0 x1) := by
  intro x0 x1 v h; exact absurd h (by nofun)
theorem FieldsKept.ringFault : ∀ x0 x1, FieldsKept.Statement (.ringFault x0 x1) := by
  intro x0 x1 v h; exact absurd h (by nofun)
theorem FieldsKept.berFault : ∀ x0 x1, FieldsKept.Statement (.berFault x0 x1) := by
  intro x0 x1 v h; exact absurd h (by nofun)
theorem FieldsKept.move : ∀ x0 x1 x2, FieldsKept.Statement (.move x0 x1 x2) := by
  intro x0 x1 x2 v h; exact absurd h (by nofun)
theorem FieldsKept.moveack : ∀ x0 x1, FieldsKept.Statement (.moveack x0 x1) := by
  intro x0 x1 v h; exact absurd h (by nofun)
theorem FieldsKept.movenak : ∀ x0 x1, FieldsKept.Statement (.movenak x0 x1) := by
  intro x0 x1 v h; exact absurd h (by nofun)
theorem FieldsKept.restripe : ∀ x0 x1 x2, FieldsKept.Statement (.restripe x0 x1 x2) := by
  intro x0 x1 x2 v h; exact absurd h (by nofun)
theorem FieldsKept.down : ∀ x0, FieldsKept.Statement (.down x0) := by
  intro x0 v h; exact absurd h (by nofun)
theorem FieldsKept.portRetrain : ∀ x0, FieldsKept.Statement (.portRetrain x0) := by
  intro x0 v h; exact absurd h (by nofun)
theorem FieldsKept.lockLoop : ∀ x0 x1 x2 x3 x4 x5, FieldsKept.Statement (.lockLoop x0 x1 x2 x3 x4 x5) := by
  intro x0 x1 x2 x3 x4 x5 v h; exact absurd h (by nofun)
theorem FieldsKept.ringPageSample : ∀ x0 x1 x2, FieldsKept.Statement (.ringPageSample x0 x1 x2) := by
  intro x0 x1 x2 v h; exact absurd h (by nofun)
theorem FieldsKept.ringPagePoll : ∀ x0, FieldsKept.Statement (.ringPagePoll x0) := by
  intro x0 v h; exact absurd h (by nofun)
theorem FieldsKept.pctlWrite : ∀ x0 x1 x2, FieldsKept.Statement (.pctlWrite x0 x1 x2) := by
  intro x0 x1 x2 v h; exact absurd h (by nofun)
theorem FieldsKept.laserUpdate : ∀ x0 x1, FieldsKept.Statement (.laserUpdate x0 x1) := by
  intro x0 x1 v h; exact absurd h (by nofun)
theorem FieldsKept.mappingUnitRequest : ∀ x0, FieldsKept.Statement (.mappingUnitRequest x0) := by
  intro x0 v h; exact absurd h (by nofun)
theorem FieldsKept.linkUpChange : ∀ x0 x1 x2 x3, FieldsKept.Statement (.linkUpChange x0 x1 x2 x3) := by
  intro x0 x1 x2 x3 v h; exact absurd h (by nofun)
theorem FieldsKept.hostPortCompletion : ∀ x0 x1, FieldsKept.Statement (.hostPortCompletion x0 x1) := by
  intro x0 x1 v h; exact absurd h (by nofun)
theorem FieldsKept.powerLoss : ∀ x0, FieldsKept.Statement (.powerLoss x0) := by
  intro x0 v h; exact absurd h (by nofun)

end Sys2Proof.Laws
end

