-- ==== Sys2Proof/Laws/State.lean ====
section
/-! SUPPORT. What each named update of the state leaves of each field: every field but its own. -/
namespace Sys2Proof.Machine

@[simp] theorem State.setPitch_ready (s : State) (a : Nat) (p : Pitch) : (s.setPitch a p).ready = s.ready := rfl
@[simp] theorem State.setPitch_held (s : State) (a : Nat) (p : Pitch) : (s.setPitch a p).held = s.held := rfl
@[simp] theorem State.setPitch_last (s : State) (a : Nat) (p : Pitch) : (s.setPitch a p).last = s.last := rfl
@[simp] theorem State.setPitch_clusters (s : State) (a : Nat) (p : Pitch) : (s.setPitch a p).clusters = s.clusters := rfl
@[simp] theorem State.setPitch_tlbs (s : State) (a : Nat) (p : Pitch) : (s.setPitch a p).tlbs = s.tlbs := rfl
@[simp] theorem State.setPitch_fields (s : State) (a : Nat) (p : Pitch) : (s.setPitch a p).fields = s.fields := rfl
@[simp] theorem State.setPitch_mem (s : State) (a : Nat) (p : Pitch) : (s.setPitch a p).mem = s.mem := rfl
@[simp] theorem State.setPitch_owned (s : State) (a : Nat) (p : Pitch) : (s.setPitch a p).owned = s.owned := rfl
@[simp] theorem State.setPitch_dups (s : State) (a : Nat) (p : Pitch) : (s.setPitch a p).dups = s.dups := rfl
@[simp] theorem State.setPitch_flight (s : State) (a : Nat) (p : Pitch) : (s.setPitch a p).flight = s.flight := rfl
@[simp] theorem State.setPitch_traps (s : State) (a : Nat) (p : Pitch) : (s.setPitch a p).traps = s.traps := rfl
@[simp] theorem State.setPitch_cmds (s : State) (a : Nat) (p : Pitch) : (s.setPitch a p).cmds = s.cmds := rfl
@[simp] theorem State.setPitch_reqs (s : State) (a : Nat) (p : Pitch) : (s.setPitch a p).reqs = s.reqs := rfl
@[simp] theorem State.setPitch_contribs (s : State) (a : Nat) (p : Pitch) : (s.setPitch a p).contribs = s.contribs := rfl
@[simp] theorem State.setPitch_mfwd (s : State) (a : Nat) (p : Pitch) : (s.setPitch a p).mfwd = s.mfwd := rfl
@[simp] theorem State.setPitch_ring (s : State) (a : Nat) (p : Pitch) : (s.setPitch a p).ring = s.ring := rfl
@[simp] theorem State.setPitch_ringCredit (s : State) (a : Nat) (p : Pitch) : (s.setPitch a p).ringCredit = s.ringCredit := rfl
@[simp] theorem State.setPitch_ringDead (s : State) (a : Nat) (p : Pitch) : (s.setPitch a p).ringDead = s.ringDead := rfl
@[simp] theorem State.setPitch_ringQ (s : State) (a : Nat) (p : Pitch) : (s.setPitch a p).ringQ = s.ringQ := rfl
@[simp] theorem State.setPitch_mapReqs (s : State) (a : Nat) (p : Pitch) : (s.setPitch a p).mapReqs = s.mapReqs := rfl
@[simp] theorem State.setPitch_lq (s : State) (a : Nat) (p : Pitch) : (s.setPitch a p).lq = s.lq := rfl
@[simp] theorem State.setPitch_waiting (s : State) (a : Nat) (p : Pitch) : (s.setPitch a p).waiting = s.waiting := rfl
@[simp] theorem State.setPitch_preemptReq (s : State) (a : Nat) (p : Pitch) : (s.setPitch a p).preemptReq = s.preemptReq := rfl
@[simp] theorem State.setPitch_boothPre (s : State) (a : Nat) (p : Pitch) : (s.setPitch a p).boothPre = s.boothPre := rfl
@[simp] theorem State.setPitch_victims (s : State) (a : Nat) (p : Pitch) : (s.setPitch a p).victims = s.victims := rfl
@[simp] theorem State.setPitch_ageCtr (s : State) (a : Nat) (p : Pitch) : (s.setPitch a p).ageCtr = s.ageCtr := rfl
@[simp] theorem State.setPitch_admitCtr (s : State) (a : Nat) (p : Pitch) : (s.setPitch a p).admitCtr = s.admitCtr := rfl
@[simp] theorem State.setPitch_lastQ (s : State) (a : Nat) (p : Pitch) : (s.setPitch a p).lastQ = s.lastQ := rfl
@[simp] theorem State.setPitch_pcie (s : State) (a : Nat) (p : Pitch) : (s.setPitch a p).pcie = s.pcie := rfl
@[simp] theorem State.setPitch_owner (s : State) (a : Nat) (p : Pitch) : (s.setPitch a p).owner = s.owner := rfl
@[simp] theorem State.setPitch_hbage (s : State) (a : Nat) (p : Pitch) : (s.setPitch a p).hbage = s.hbage := rfl
@[simp] theorem State.setPitch_rptBase (s : State) (a : Nat) (p : Pitch) : (s.setPitch a p).rptBase = s.rptBase := rfl
@[simp] theorem State.setPitch_rptLog2n (s : State) (a : Nat) (p : Pitch) : (s.setPitch a p).rptLog2n = s.rptLog2n := rfl
@[simp] theorem State.setPitch_rptEn (s : State) (a : Nat) (p : Pitch) : (s.setPitch a p).rptEn = s.rptEn := rfl
@[simp] theorem State.setPitch_rptProd (s : State) (a : Nat) (p : Pitch) : (s.setPitch a p).rptProd = s.rptProd := rfl
@[simp] theorem State.setPitch_rptLost (s : State) (a : Nat) (p : Pitch) : (s.setPitch a p).rptLost = s.rptLost := rfl
@[simp] theorem State.setPitch_rptCons (s : State) (a : Nat) (p : Pitch) : (s.setPitch a p).rptCons = s.rptCons := rfl
@[simp] theorem State.setPitch_reports (s : State) (a : Nat) (p : Pitch) : (s.setPitch a p).reports = s.reports := rfl
@[simp] theorem State.setPitch_rejects (s : State) (a : Nat) (p : Pitch) : (s.setPitch a p).rejects = s.rejects := rfl
@[simp] theorem State.setPitch_rcq (s : State) (a : Nat) (p : Pitch) : (s.setPitch a p).rcq = s.rcq := rfl
@[simp] theorem State.setPitch_backing (s : State) (a : Nat) (p : Pitch) : (s.setPitch a p).backing = s.backing := rfl
@[simp] theorem State.setPitch_bootField (s : State) (a : Nat) (p : Pitch) : (s.setPitch a p).bootField = s.bootField := rfl
@[simp] theorem State.setPitch_booted (s : State) (a : Nat) (p : Pitch) : (s.setPitch a p).booted = s.booted := rfl
@[simp] theorem State.setPitch_bootCur (s : State) (a : Nat) (p : Pitch) : (s.setPitch a p).bootCur = s.bootCur := rfl
@[simp] theorem State.setPitch_booting (s : State) (a : Nat) (p : Pitch) : (s.setPitch a p).booting = s.booting := rfl
@[simp] theorem State.setPitch_romPass (s : State) (a : Nat) (p : Pitch) : (s.setPitch a p).romPass = s.romPass := rfl
@[simp] theorem State.setPitch_bootNum (s : State) (a : Nat) (p : Pitch) : (s.setPitch a p).bootNum = s.bootNum := rfl
@[simp] theorem State.setPitch_journal (s : State) (a : Nat) (p : Pitch) : (s.setPitch a p).journal = s.journal := rfl
@[simp] theorem State.setPitch_clearPend (s : State) (a : Nat) (p : Pitch) : (s.setPitch a p).clearPend = s.clearPend := rfl
@[simp] theorem State.setPitch_svnMin (s : State) (a : Nat) (p : Pitch) : (s.setPitch a p).svnMin = s.svnMin := rfl
@[simp] theorem State.setPitch_fwSvn (s : State) (a : Nat) (p : Pitch) : (s.setPitch a p).fwSvn = s.fwSvn := rfl
@[simp] theorem State.setPitch_fwOk (s : State) (a : Nat) (p : Pitch) : (s.setPitch a p).fwOk = s.fwOk := rfl
@[simp] theorem State.setPitch_flash (s : State) (a : Nat) (p : Pitch) : (s.setPitch a p).flash = s.flash := rfl
@[simp] theorem State.setPitch_keyRsa (s : State) (a : Nat) (p : Pitch) : (s.setPitch a p).keyRsa = s.keyRsa := rfl
@[simp] theorem State.setPitch_keySlh (s : State) (a : Nat) (p : Pitch) : (s.setPitch a p).keySlh = s.keySlh := rfl
@[simp] theorem State.setPitch_secret (s : State) (a : Nat) (p : Pitch) : (s.setPitch a p).secret = s.secret := rfl
@[simp] theorem State.setPitch_rcvPort (s : State) (a : Nat) (p : Pitch) : (s.setPitch a p).rcvPort = s.rcvPort := rfl
@[simp] theorem State.setPitch_rcvJclr (s : State) (a : Nat) (p : Pitch) : (s.setPitch a p).rcvJclr = s.rcvJclr := rfl
@[simp] theorem State.setPitch_spdm (s : State) (a : Nat) (p : Pitch) : (s.setPitch a p).spdm = s.spdm := rfl
@[simp] theorem State.setPitch_cfglog (s : State) (a : Nat) (p : Pitch) : (s.setPitch a p).cfglog = s.cfglog := rfl
@[simp] theorem State.setPitch_ports (s : State) (a : Nat) (p : Pitch) : (s.setPitch a p).ports = s.ports := rfl
@[simp] theorem State.setPitch_lasers (s : State) (a : Nat) (p : Pitch) : (s.setPitch a p).lasers = s.lasers := rfl
@[simp] theorem State.setPitch_outbox (s : State) (a : Nat) (p : Pitch) : (s.setPitch a p).outbox = s.outbox := rfl
@[simp] theorem State.setPitch_agenda (s : State) (a : Nat) (p : Pitch) : (s.setPitch a p).agenda = s.agenda := rfl
@[simp] theorem State.setPitch_cur (s : State) (a : Nat) (p : Pitch) : (s.setPitch a p).cur = s.cur := rfl
@[simp] theorem State.setPitch_freeCtr (s : State) (a : Nat) (p : Pitch) : (s.setPitch a p).freeCtr = s.freeCtr := rfl

@[simp] theorem State.setCluster_pitches (s : State) (k : Nat) (c : Cluster) : (s.setCluster k c).pitches = s.pitches := rfl
@[simp] theorem State.setCluster_ready (s : State) (k : Nat) (c : Cluster) : (s.setCluster k c).ready = s.ready := rfl
@[simp] theorem State.setCluster_held (s : State) (k : Nat) (c : Cluster) : (s.setCluster k c).held = s.held := rfl
@[simp] theorem State.setCluster_last (s : State) (k : Nat) (c : Cluster) : (s.setCluster k c).last = s.last := rfl
@[simp] theorem State.setCluster_tlbs (s : State) (k : Nat) (c : Cluster) : (s.setCluster k c).tlbs = s.tlbs := rfl
@[simp] theorem State.setCluster_fields (s : State) (k : Nat) (c : Cluster) : (s.setCluster k c).fields = s.fields := rfl
@[simp] theorem State.setCluster_mem (s : State) (k : Nat) (c : Cluster) : (s.setCluster k c).mem = s.mem := rfl
@[simp] theorem State.setCluster_owned (s : State) (k : Nat) (c : Cluster) : (s.setCluster k c).owned = s.owned := rfl
@[simp] theorem State.setCluster_dups (s : State) (k : Nat) (c : Cluster) : (s.setCluster k c).dups = s.dups := rfl
@[simp] theorem State.setCluster_flight (s : State) (k : Nat) (c : Cluster) : (s.setCluster k c).flight = s.flight := rfl
@[simp] theorem State.setCluster_traps (s : State) (k : Nat) (c : Cluster) : (s.setCluster k c).traps = s.traps := rfl
@[simp] theorem State.setCluster_cmds (s : State) (k : Nat) (c : Cluster) : (s.setCluster k c).cmds = s.cmds := rfl
@[simp] theorem State.setCluster_reqs (s : State) (k : Nat) (c : Cluster) : (s.setCluster k c).reqs = s.reqs := rfl
@[simp] theorem State.setCluster_contribs (s : State) (k : Nat) (c : Cluster) : (s.setCluster k c).contribs = s.contribs := rfl
@[simp] theorem State.setCluster_mfwd (s : State) (k : Nat) (c : Cluster) : (s.setCluster k c).mfwd = s.mfwd := rfl
@[simp] theorem State.setCluster_ring (s : State) (k : Nat) (c : Cluster) : (s.setCluster k c).ring = s.ring := rfl
@[simp] theorem State.setCluster_ringCredit (s : State) (k : Nat) (c : Cluster) : (s.setCluster k c).ringCredit = s.ringCredit := rfl
@[simp] theorem State.setCluster_ringDead (s : State) (k : Nat) (c : Cluster) : (s.setCluster k c).ringDead = s.ringDead := rfl
@[simp] theorem State.setCluster_ringQ (s : State) (k : Nat) (c : Cluster) : (s.setCluster k c).ringQ = s.ringQ := rfl
@[simp] theorem State.setCluster_mapReqs (s : State) (k : Nat) (c : Cluster) : (s.setCluster k c).mapReqs = s.mapReqs := rfl
@[simp] theorem State.setCluster_lq (s : State) (k : Nat) (c : Cluster) : (s.setCluster k c).lq = s.lq := rfl
@[simp] theorem State.setCluster_waiting (s : State) (k : Nat) (c : Cluster) : (s.setCluster k c).waiting = s.waiting := rfl
@[simp] theorem State.setCluster_preemptReq (s : State) (k : Nat) (c : Cluster) : (s.setCluster k c).preemptReq = s.preemptReq := rfl
@[simp] theorem State.setCluster_boothPre (s : State) (k : Nat) (c : Cluster) : (s.setCluster k c).boothPre = s.boothPre := rfl
@[simp] theorem State.setCluster_victims (s : State) (k : Nat) (c : Cluster) : (s.setCluster k c).victims = s.victims := rfl
@[simp] theorem State.setCluster_ageCtr (s : State) (k : Nat) (c : Cluster) : (s.setCluster k c).ageCtr = s.ageCtr := rfl
@[simp] theorem State.setCluster_admitCtr (s : State) (k : Nat) (c : Cluster) : (s.setCluster k c).admitCtr = s.admitCtr := rfl
@[simp] theorem State.setCluster_lastQ (s : State) (k : Nat) (c : Cluster) : (s.setCluster k c).lastQ = s.lastQ := rfl
@[simp] theorem State.setCluster_pcie (s : State) (k : Nat) (c : Cluster) : (s.setCluster k c).pcie = s.pcie := rfl
@[simp] theorem State.setCluster_owner (s : State) (k : Nat) (c : Cluster) : (s.setCluster k c).owner = s.owner := rfl
@[simp] theorem State.setCluster_hbage (s : State) (k : Nat) (c : Cluster) : (s.setCluster k c).hbage = s.hbage := rfl
@[simp] theorem State.setCluster_rptBase (s : State) (k : Nat) (c : Cluster) : (s.setCluster k c).rptBase = s.rptBase := rfl
@[simp] theorem State.setCluster_rptLog2n (s : State) (k : Nat) (c : Cluster) : (s.setCluster k c).rptLog2n = s.rptLog2n := rfl
@[simp] theorem State.setCluster_rptEn (s : State) (k : Nat) (c : Cluster) : (s.setCluster k c).rptEn = s.rptEn := rfl
@[simp] theorem State.setCluster_rptProd (s : State) (k : Nat) (c : Cluster) : (s.setCluster k c).rptProd = s.rptProd := rfl
@[simp] theorem State.setCluster_rptLost (s : State) (k : Nat) (c : Cluster) : (s.setCluster k c).rptLost = s.rptLost := rfl
@[simp] theorem State.setCluster_rptCons (s : State) (k : Nat) (c : Cluster) : (s.setCluster k c).rptCons = s.rptCons := rfl
@[simp] theorem State.setCluster_reports (s : State) (k : Nat) (c : Cluster) : (s.setCluster k c).reports = s.reports := rfl
@[simp] theorem State.setCluster_rejects (s : State) (k : Nat) (c : Cluster) : (s.setCluster k c).rejects = s.rejects := rfl
@[simp] theorem State.setCluster_rcq (s : State) (k : Nat) (c : Cluster) : (s.setCluster k c).rcq = s.rcq := rfl
@[simp] theorem State.setCluster_backing (s : State) (k : Nat) (c : Cluster) : (s.setCluster k c).backing = s.backing := rfl
@[simp] theorem State.setCluster_bootField (s : State) (k : Nat) (c : Cluster) : (s.setCluster k c).bootField = s.bootField := rfl
@[simp] theorem State.setCluster_booted (s : State) (k : Nat) (c : Cluster) : (s.setCluster k c).booted = s.booted := rfl
@[simp] theorem State.setCluster_bootCur (s : State) (k : Nat) (c : Cluster) : (s.setCluster k c).bootCur = s.bootCur := rfl
@[simp] theorem State.setCluster_booting (s : State) (k : Nat) (c : Cluster) : (s.setCluster k c).booting = s.booting := rfl
@[simp] theorem State.setCluster_romPass (s : State) (k : Nat) (c : Cluster) : (s.setCluster k c).romPass = s.romPass := rfl
@[simp] theorem State.setCluster_bootNum (s : State) (k : Nat) (c : Cluster) : (s.setCluster k c).bootNum = s.bootNum := rfl
@[simp] theorem State.setCluster_journal (s : State) (k : Nat) (c : Cluster) : (s.setCluster k c).journal = s.journal := rfl
@[simp] theorem State.setCluster_clearPend (s : State) (k : Nat) (c : Cluster) : (s.setCluster k c).clearPend = s.clearPend := rfl
@[simp] theorem State.setCluster_svnMin (s : State) (k : Nat) (c : Cluster) : (s.setCluster k c).svnMin = s.svnMin := rfl
@[simp] theorem State.setCluster_fwSvn (s : State) (k : Nat) (c : Cluster) : (s.setCluster k c).fwSvn = s.fwSvn := rfl
@[simp] theorem State.setCluster_fwOk (s : State) (k : Nat) (c : Cluster) : (s.setCluster k c).fwOk = s.fwOk := rfl
@[simp] theorem State.setCluster_flash (s : State) (k : Nat) (c : Cluster) : (s.setCluster k c).flash = s.flash := rfl
@[simp] theorem State.setCluster_keyRsa (s : State) (k : Nat) (c : Cluster) : (s.setCluster k c).keyRsa = s.keyRsa := rfl
@[simp] theorem State.setCluster_keySlh (s : State) (k : Nat) (c : Cluster) : (s.setCluster k c).keySlh = s.keySlh := rfl
@[simp] theorem State.setCluster_secret (s : State) (k : Nat) (c : Cluster) : (s.setCluster k c).secret = s.secret := rfl
@[simp] theorem State.setCluster_rcvPort (s : State) (k : Nat) (c : Cluster) : (s.setCluster k c).rcvPort = s.rcvPort := rfl
@[simp] theorem State.setCluster_rcvJclr (s : State) (k : Nat) (c : Cluster) : (s.setCluster k c).rcvJclr = s.rcvJclr := rfl
@[simp] theorem State.setCluster_spdm (s : State) (k : Nat) (c : Cluster) : (s.setCluster k c).spdm = s.spdm := rfl
@[simp] theorem State.setCluster_cfglog (s : State) (k : Nat) (c : Cluster) : (s.setCluster k c).cfglog = s.cfglog := rfl
@[simp] theorem State.setCluster_ports (s : State) (k : Nat) (c : Cluster) : (s.setCluster k c).ports = s.ports := rfl
@[simp] theorem State.setCluster_lasers (s : State) (k : Nat) (c : Cluster) : (s.setCluster k c).lasers = s.lasers := rfl
@[simp] theorem State.setCluster_outbox (s : State) (k : Nat) (c : Cluster) : (s.setCluster k c).outbox = s.outbox := rfl
@[simp] theorem State.setCluster_agenda (s : State) (k : Nat) (c : Cluster) : (s.setCluster k c).agenda = s.agenda := rfl
@[simp] theorem State.setCluster_cur (s : State) (k : Nat) (c : Cluster) : (s.setCluster k c).cur = s.cur := rfl
@[simp] theorem State.setCluster_freeCtr (s : State) (k : Nat) (c : Cluster) : (s.setCluster k c).freeCtr = s.freeCtr := rfl

@[simp] theorem State.updCluster_pitches (s : State) (k : Nat) (f : Cluster → Cluster) : (s.updCluster k f).pitches = s.pitches := rfl
@[simp] theorem State.updCluster_ready (s : State) (k : Nat) (f : Cluster → Cluster) : (s.updCluster k f).ready = s.ready := rfl
@[simp] theorem State.updCluster_held (s : State) (k : Nat) (f : Cluster → Cluster) : (s.updCluster k f).held = s.held := rfl
@[simp] theorem State.updCluster_last (s : State) (k : Nat) (f : Cluster → Cluster) : (s.updCluster k f).last = s.last := rfl
@[simp] theorem State.updCluster_tlbs (s : State) (k : Nat) (f : Cluster → Cluster) : (s.updCluster k f).tlbs = s.tlbs := rfl
@[simp] theorem State.updCluster_fields (s : State) (k : Nat) (f : Cluster → Cluster) : (s.updCluster k f).fields = s.fields := rfl
@[simp] theorem State.updCluster_mem (s : State) (k : Nat) (f : Cluster → Cluster) : (s.updCluster k f).mem = s.mem := rfl
@[simp] theorem State.updCluster_owned (s : State) (k : Nat) (f : Cluster → Cluster) : (s.updCluster k f).owned = s.owned := rfl
@[simp] theorem State.updCluster_dups (s : State) (k : Nat) (f : Cluster → Cluster) : (s.updCluster k f).dups = s.dups := rfl
@[simp] theorem State.updCluster_flight (s : State) (k : Nat) (f : Cluster → Cluster) : (s.updCluster k f).flight = s.flight := rfl
@[simp] theorem State.updCluster_traps (s : State) (k : Nat) (f : Cluster → Cluster) : (s.updCluster k f).traps = s.traps := rfl
@[simp] theorem State.updCluster_cmds (s : State) (k : Nat) (f : Cluster → Cluster) : (s.updCluster k f).cmds = s.cmds := rfl
@[simp] theorem State.updCluster_reqs (s : State) (k : Nat) (f : Cluster → Cluster) : (s.updCluster k f).reqs = s.reqs := rfl
@[simp] theorem State.updCluster_contribs (s : State) (k : Nat) (f : Cluster → Cluster) : (s.updCluster k f).contribs = s.contribs := rfl
@[simp] theorem State.updCluster_mfwd (s : State) (k : Nat) (f : Cluster → Cluster) : (s.updCluster k f).mfwd = s.mfwd := rfl
@[simp] theorem State.updCluster_ring (s : State) (k : Nat) (f : Cluster → Cluster) : (s.updCluster k f).ring = s.ring := rfl
@[simp] theorem State.updCluster_ringCredit (s : State) (k : Nat) (f : Cluster → Cluster) : (s.updCluster k f).ringCredit = s.ringCredit := rfl
@[simp] theorem State.updCluster_ringDead (s : State) (k : Nat) (f : Cluster → Cluster) : (s.updCluster k f).ringDead = s.ringDead := rfl
@[simp] theorem State.updCluster_ringQ (s : State) (k : Nat) (f : Cluster → Cluster) : (s.updCluster k f).ringQ = s.ringQ := rfl
@[simp] theorem State.updCluster_mapReqs (s : State) (k : Nat) (f : Cluster → Cluster) : (s.updCluster k f).mapReqs = s.mapReqs := rfl
@[simp] theorem State.updCluster_lq (s : State) (k : Nat) (f : Cluster → Cluster) : (s.updCluster k f).lq = s.lq := rfl
@[simp] theorem State.updCluster_waiting (s : State) (k : Nat) (f : Cluster → Cluster) : (s.updCluster k f).waiting = s.waiting := rfl
@[simp] theorem State.updCluster_preemptReq (s : State) (k : Nat) (f : Cluster → Cluster) : (s.updCluster k f).preemptReq = s.preemptReq := rfl
@[simp] theorem State.updCluster_boothPre (s : State) (k : Nat) (f : Cluster → Cluster) : (s.updCluster k f).boothPre = s.boothPre := rfl
@[simp] theorem State.updCluster_victims (s : State) (k : Nat) (f : Cluster → Cluster) : (s.updCluster k f).victims = s.victims := rfl
@[simp] theorem State.updCluster_ageCtr (s : State) (k : Nat) (f : Cluster → Cluster) : (s.updCluster k f).ageCtr = s.ageCtr := rfl
@[simp] theorem State.updCluster_admitCtr (s : State) (k : Nat) (f : Cluster → Cluster) : (s.updCluster k f).admitCtr = s.admitCtr := rfl
@[simp] theorem State.updCluster_lastQ (s : State) (k : Nat) (f : Cluster → Cluster) : (s.updCluster k f).lastQ = s.lastQ := rfl
@[simp] theorem State.updCluster_pcie (s : State) (k : Nat) (f : Cluster → Cluster) : (s.updCluster k f).pcie = s.pcie := rfl
@[simp] theorem State.updCluster_owner (s : State) (k : Nat) (f : Cluster → Cluster) : (s.updCluster k f).owner = s.owner := rfl
@[simp] theorem State.updCluster_hbage (s : State) (k : Nat) (f : Cluster → Cluster) : (s.updCluster k f).hbage = s.hbage := rfl
@[simp] theorem State.updCluster_rptBase (s : State) (k : Nat) (f : Cluster → Cluster) : (s.updCluster k f).rptBase = s.rptBase := rfl
@[simp] theorem State.updCluster_rptLog2n (s : State) (k : Nat) (f : Cluster → Cluster) : (s.updCluster k f).rptLog2n = s.rptLog2n := rfl
@[simp] theorem State.updCluster_rptEn (s : State) (k : Nat) (f : Cluster → Cluster) : (s.updCluster k f).rptEn = s.rptEn := rfl
@[simp] theorem State.updCluster_rptProd (s : State) (k : Nat) (f : Cluster → Cluster) : (s.updCluster k f).rptProd = s.rptProd := rfl
@[simp] theorem State.updCluster_rptLost (s : State) (k : Nat) (f : Cluster → Cluster) : (s.updCluster k f).rptLost = s.rptLost := rfl
@[simp] theorem State.updCluster_rptCons (s : State) (k : Nat) (f : Cluster → Cluster) : (s.updCluster k f).rptCons = s.rptCons := rfl
@[simp] theorem State.updCluster_reports (s : State) (k : Nat) (f : Cluster → Cluster) : (s.updCluster k f).reports = s.reports := rfl
@[simp] theorem State.updCluster_rejects (s : State) (k : Nat) (f : Cluster → Cluster) : (s.updCluster k f).rejects = s.rejects := rfl
@[simp] theorem State.updCluster_rcq (s : State) (k : Nat) (f : Cluster → Cluster) : (s.updCluster k f).rcq = s.rcq := rfl
@[simp] theorem State.updCluster_backing (s : State) (k : Nat) (f : Cluster → Cluster) : (s.updCluster k f).backing = s.backing := rfl
@[simp] theorem State.updCluster_bootField (s : State) (k : Nat) (f : Cluster → Cluster) : (s.updCluster k f).bootField = s.bootField := rfl
@[simp] theorem State.updCluster_booted (s : State) (k : Nat) (f : Cluster → Cluster) : (s.updCluster k f).booted = s.booted := rfl
@[simp] theorem State.updCluster_bootCur (s : State) (k : Nat) (f : Cluster → Cluster) : (s.updCluster k f).bootCur = s.bootCur := rfl
@[simp] theorem State.updCluster_booting (s : State) (k : Nat) (f : Cluster → Cluster) : (s.updCluster k f).booting = s.booting := rfl
@[simp] theorem State.updCluster_romPass (s : State) (k : Nat) (f : Cluster → Cluster) : (s.updCluster k f).romPass = s.romPass := rfl
@[simp] theorem State.updCluster_bootNum (s : State) (k : Nat) (f : Cluster → Cluster) : (s.updCluster k f).bootNum = s.bootNum := rfl
@[simp] theorem State.updCluster_journal (s : State) (k : Nat) (f : Cluster → Cluster) : (s.updCluster k f).journal = s.journal := rfl
@[simp] theorem State.updCluster_clearPend (s : State) (k : Nat) (f : Cluster → Cluster) : (s.updCluster k f).clearPend = s.clearPend := rfl
@[simp] theorem State.updCluster_svnMin (s : State) (k : Nat) (f : Cluster → Cluster) : (s.updCluster k f).svnMin = s.svnMin := rfl
@[simp] theorem State.updCluster_fwSvn (s : State) (k : Nat) (f : Cluster → Cluster) : (s.updCluster k f).fwSvn = s.fwSvn := rfl
@[simp] theorem State.updCluster_fwOk (s : State) (k : Nat) (f : Cluster → Cluster) : (s.updCluster k f).fwOk = s.fwOk := rfl
@[simp] theorem State.updCluster_flash (s : State) (k : Nat) (f : Cluster → Cluster) : (s.updCluster k f).flash = s.flash := rfl
@[simp] theorem State.updCluster_keyRsa (s : State) (k : Nat) (f : Cluster → Cluster) : (s.updCluster k f).keyRsa = s.keyRsa := rfl
@[simp] theorem State.updCluster_keySlh (s : State) (k : Nat) (f : Cluster → Cluster) : (s.updCluster k f).keySlh = s.keySlh := rfl
@[simp] theorem State.updCluster_secret (s : State) (k : Nat) (f : Cluster → Cluster) : (s.updCluster k f).secret = s.secret := rfl
@[simp] theorem State.updCluster_rcvPort (s : State) (k : Nat) (f : Cluster → Cluster) : (s.updCluster k f).rcvPort = s.rcvPort := rfl
@[simp] theorem State.updCluster_rcvJclr (s : State) (k : Nat) (f : Cluster → Cluster) : (s.updCluster k f).rcvJclr = s.rcvJclr := rfl
@[simp] theorem State.updCluster_spdm (s : State) (k : Nat) (f : Cluster → Cluster) : (s.updCluster k f).spdm = s.spdm := rfl
@[simp] theorem State.updCluster_cfglog (s : State) (k : Nat) (f : Cluster → Cluster) : (s.updCluster k f).cfglog = s.cfglog := rfl
@[simp] theorem State.updCluster_ports (s : State) (k : Nat) (f : Cluster → Cluster) : (s.updCluster k f).ports = s.ports := rfl
@[simp] theorem State.updCluster_lasers (s : State) (k : Nat) (f : Cluster → Cluster) : (s.updCluster k f).lasers = s.lasers := rfl
@[simp] theorem State.updCluster_outbox (s : State) (k : Nat) (f : Cluster → Cluster) : (s.updCluster k f).outbox = s.outbox := rfl
@[simp] theorem State.updCluster_agenda (s : State) (k : Nat) (f : Cluster → Cluster) : (s.updCluster k f).agenda = s.agenda := rfl
@[simp] theorem State.updCluster_cur (s : State) (k : Nat) (f : Cluster → Cluster) : (s.updCluster k f).cur = s.cur := rfl
@[simp] theorem State.updCluster_freeCtr (s : State) (k : Nat) (f : Cluster → Cluster) : (s.updCluster k f).freeCtr = s.freeCtr := rfl

@[simp] theorem State.setField_pitches (s : State) (i : Nat) (f : Field) : (s.setField i f).pitches = s.pitches := rfl
@[simp] theorem State.setField_ready (s : State) (i : Nat) (f : Field) : (s.setField i f).ready = s.ready := rfl
@[simp] theorem State.setField_held (s : State) (i : Nat) (f : Field) : (s.setField i f).held = s.held := rfl
@[simp] theorem State.setField_last (s : State) (i : Nat) (f : Field) : (s.setField i f).last = s.last := rfl
@[simp] theorem State.setField_clusters (s : State) (i : Nat) (f : Field) : (s.setField i f).clusters = s.clusters := rfl
@[simp] theorem State.setField_tlbs (s : State) (i : Nat) (f : Field) : (s.setField i f).tlbs = s.tlbs := rfl
@[simp] theorem State.setField_mem (s : State) (i : Nat) (f : Field) : (s.setField i f).mem = s.mem := rfl
@[simp] theorem State.setField_owned (s : State) (i : Nat) (f : Field) : (s.setField i f).owned = s.owned := rfl
@[simp] theorem State.setField_dups (s : State) (i : Nat) (f : Field) : (s.setField i f).dups = s.dups := rfl
@[simp] theorem State.setField_flight (s : State) (i : Nat) (f : Field) : (s.setField i f).flight = s.flight := rfl
@[simp] theorem State.setField_traps (s : State) (i : Nat) (f : Field) : (s.setField i f).traps = s.traps := rfl
@[simp] theorem State.setField_cmds (s : State) (i : Nat) (f : Field) : (s.setField i f).cmds = s.cmds := rfl
@[simp] theorem State.setField_reqs (s : State) (i : Nat) (f : Field) : (s.setField i f).reqs = s.reqs := rfl
@[simp] theorem State.setField_contribs (s : State) (i : Nat) (f : Field) : (s.setField i f).contribs = s.contribs := rfl
@[simp] theorem State.setField_mfwd (s : State) (i : Nat) (f : Field) : (s.setField i f).mfwd = s.mfwd := rfl
@[simp] theorem State.setField_ring (s : State) (i : Nat) (f : Field) : (s.setField i f).ring = s.ring := rfl
@[simp] theorem State.setField_ringCredit (s : State) (i : Nat) (f : Field) : (s.setField i f).ringCredit = s.ringCredit := rfl
@[simp] theorem State.setField_ringDead (s : State) (i : Nat) (f : Field) : (s.setField i f).ringDead = s.ringDead := rfl
@[simp] theorem State.setField_ringQ (s : State) (i : Nat) (f : Field) : (s.setField i f).ringQ = s.ringQ := rfl
@[simp] theorem State.setField_mapReqs (s : State) (i : Nat) (f : Field) : (s.setField i f).mapReqs = s.mapReqs := rfl
@[simp] theorem State.setField_lq (s : State) (i : Nat) (f : Field) : (s.setField i f).lq = s.lq := rfl
@[simp] theorem State.setField_waiting (s : State) (i : Nat) (f : Field) : (s.setField i f).waiting = s.waiting := rfl
@[simp] theorem State.setField_preemptReq (s : State) (i : Nat) (f : Field) : (s.setField i f).preemptReq = s.preemptReq := rfl
@[simp] theorem State.setField_boothPre (s : State) (i : Nat) (f : Field) : (s.setField i f).boothPre = s.boothPre := rfl
@[simp] theorem State.setField_victims (s : State) (i : Nat) (f : Field) : (s.setField i f).victims = s.victims := rfl
@[simp] theorem State.setField_ageCtr (s : State) (i : Nat) (f : Field) : (s.setField i f).ageCtr = s.ageCtr := rfl
@[simp] theorem State.setField_admitCtr (s : State) (i : Nat) (f : Field) : (s.setField i f).admitCtr = s.admitCtr := rfl
@[simp] theorem State.setField_lastQ (s : State) (i : Nat) (f : Field) : (s.setField i f).lastQ = s.lastQ := rfl
@[simp] theorem State.setField_pcie (s : State) (i : Nat) (f : Field) : (s.setField i f).pcie = s.pcie := rfl
@[simp] theorem State.setField_owner (s : State) (i : Nat) (f : Field) : (s.setField i f).owner = s.owner := rfl
@[simp] theorem State.setField_hbage (s : State) (i : Nat) (f : Field) : (s.setField i f).hbage = s.hbage := rfl
@[simp] theorem State.setField_rptBase (s : State) (i : Nat) (f : Field) : (s.setField i f).rptBase = s.rptBase := rfl
@[simp] theorem State.setField_rptLog2n (s : State) (i : Nat) (f : Field) : (s.setField i f).rptLog2n = s.rptLog2n := rfl
@[simp] theorem State.setField_rptEn (s : State) (i : Nat) (f : Field) : (s.setField i f).rptEn = s.rptEn := rfl
@[simp] theorem State.setField_rptProd (s : State) (i : Nat) (f : Field) : (s.setField i f).rptProd = s.rptProd := rfl
@[simp] theorem State.setField_rptLost (s : State) (i : Nat) (f : Field) : (s.setField i f).rptLost = s.rptLost := rfl
@[simp] theorem State.setField_rptCons (s : State) (i : Nat) (f : Field) : (s.setField i f).rptCons = s.rptCons := rfl
@[simp] theorem State.setField_reports (s : State) (i : Nat) (f : Field) : (s.setField i f).reports = s.reports := rfl
@[simp] theorem State.setField_rejects (s : State) (i : Nat) (f : Field) : (s.setField i f).rejects = s.rejects := rfl
@[simp] theorem State.setField_rcq (s : State) (i : Nat) (f : Field) : (s.setField i f).rcq = s.rcq := rfl
@[simp] theorem State.setField_backing (s : State) (i : Nat) (f : Field) : (s.setField i f).backing = s.backing := rfl
@[simp] theorem State.setField_bootField (s : State) (i : Nat) (f : Field) : (s.setField i f).bootField = s.bootField := rfl
@[simp] theorem State.setField_booted (s : State) (i : Nat) (f : Field) : (s.setField i f).booted = s.booted := rfl
@[simp] theorem State.setField_bootCur (s : State) (i : Nat) (f : Field) : (s.setField i f).bootCur = s.bootCur := rfl
@[simp] theorem State.setField_booting (s : State) (i : Nat) (f : Field) : (s.setField i f).booting = s.booting := rfl
@[simp] theorem State.setField_romPass (s : State) (i : Nat) (f : Field) : (s.setField i f).romPass = s.romPass := rfl
@[simp] theorem State.setField_bootNum (s : State) (i : Nat) (f : Field) : (s.setField i f).bootNum = s.bootNum := rfl
@[simp] theorem State.setField_journal (s : State) (i : Nat) (f : Field) : (s.setField i f).journal = s.journal := rfl
@[simp] theorem State.setField_clearPend (s : State) (i : Nat) (f : Field) : (s.setField i f).clearPend = s.clearPend := rfl
@[simp] theorem State.setField_svnMin (s : State) (i : Nat) (f : Field) : (s.setField i f).svnMin = s.svnMin := rfl
@[simp] theorem State.setField_fwSvn (s : State) (i : Nat) (f : Field) : (s.setField i f).fwSvn = s.fwSvn := rfl
@[simp] theorem State.setField_fwOk (s : State) (i : Nat) (f : Field) : (s.setField i f).fwOk = s.fwOk := rfl
@[simp] theorem State.setField_flash (s : State) (i : Nat) (f : Field) : (s.setField i f).flash = s.flash := rfl
@[simp] theorem State.setField_keyRsa (s : State) (i : Nat) (f : Field) : (s.setField i f).keyRsa = s.keyRsa := rfl
@[simp] theorem State.setField_keySlh (s : State) (i : Nat) (f : Field) : (s.setField i f).keySlh = s.keySlh := rfl
@[simp] theorem State.setField_secret (s : State) (i : Nat) (f : Field) : (s.setField i f).secret = s.secret := rfl
@[simp] theorem State.setField_rcvPort (s : State) (i : Nat) (f : Field) : (s.setField i f).rcvPort = s.rcvPort := rfl
@[simp] theorem State.setField_rcvJclr (s : State) (i : Nat) (f : Field) : (s.setField i f).rcvJclr = s.rcvJclr := rfl
@[simp] theorem State.setField_spdm (s : State) (i : Nat) (f : Field) : (s.setField i f).spdm = s.spdm := rfl
@[simp] theorem State.setField_cfglog (s : State) (i : Nat) (f : Field) : (s.setField i f).cfglog = s.cfglog := rfl
@[simp] theorem State.setField_ports (s : State) (i : Nat) (f : Field) : (s.setField i f).ports = s.ports := rfl
@[simp] theorem State.setField_lasers (s : State) (i : Nat) (f : Field) : (s.setField i f).lasers = s.lasers := rfl
@[simp] theorem State.setField_outbox (s : State) (i : Nat) (f : Field) : (s.setField i f).outbox = s.outbox := rfl
@[simp] theorem State.setField_agenda (s : State) (i : Nat) (f : Field) : (s.setField i f).agenda = s.agenda := rfl
@[simp] theorem State.setField_cur (s : State) (i : Nat) (f : Field) : (s.setField i f).cur = s.cur := rfl
@[simp] theorem State.setField_freeCtr (s : State) (i : Nat) (f : Field) : (s.setField i f).freeCtr = s.freeCtr := rfl

@[simp] theorem State.updField_pitches (s : State) (i : Nat) (f : Field → Field) : (s.updField i f).pitches = s.pitches := rfl
@[simp] theorem State.updField_ready (s : State) (i : Nat) (f : Field → Field) : (s.updField i f).ready = s.ready := rfl
@[simp] theorem State.updField_held (s : State) (i : Nat) (f : Field → Field) : (s.updField i f).held = s.held := rfl
@[simp] theorem State.updField_last (s : State) (i : Nat) (f : Field → Field) : (s.updField i f).last = s.last := rfl
@[simp] theorem State.updField_clusters (s : State) (i : Nat) (f : Field → Field) : (s.updField i f).clusters = s.clusters := rfl
@[simp] theorem State.updField_tlbs (s : State) (i : Nat) (f : Field → Field) : (s.updField i f).tlbs = s.tlbs := rfl
@[simp] theorem State.updField_mem (s : State) (i : Nat) (f : Field → Field) : (s.updField i f).mem = s.mem := rfl
@[simp] theorem State.updField_owned (s : State) (i : Nat) (f : Field → Field) : (s.updField i f).owned = s.owned := rfl
@[simp] theorem State.updField_dups (s : State) (i : Nat) (f : Field → Field) : (s.updField i f).dups = s.dups := rfl
@[simp] theorem State.updField_flight (s : State) (i : Nat) (f : Field → Field) : (s.updField i f).flight = s.flight := rfl
@[simp] theorem State.updField_traps (s : State) (i : Nat) (f : Field → Field) : (s.updField i f).traps = s.traps := rfl
@[simp] theorem State.updField_cmds (s : State) (i : Nat) (f : Field → Field) : (s.updField i f).cmds = s.cmds := rfl
@[simp] theorem State.updField_reqs (s : State) (i : Nat) (f : Field → Field) : (s.updField i f).reqs = s.reqs := rfl
@[simp] theorem State.updField_contribs (s : State) (i : Nat) (f : Field → Field) : (s.updField i f).contribs = s.contribs := rfl
@[simp] theorem State.updField_mfwd (s : State) (i : Nat) (f : Field → Field) : (s.updField i f).mfwd = s.mfwd := rfl
@[simp] theorem State.updField_ring (s : State) (i : Nat) (f : Field → Field) : (s.updField i f).ring = s.ring := rfl
@[simp] theorem State.updField_ringCredit (s : State) (i : Nat) (f : Field → Field) : (s.updField i f).ringCredit = s.ringCredit := rfl
@[simp] theorem State.updField_ringDead (s : State) (i : Nat) (f : Field → Field) : (s.updField i f).ringDead = s.ringDead := rfl
@[simp] theorem State.updField_ringQ (s : State) (i : Nat) (f : Field → Field) : (s.updField i f).ringQ = s.ringQ := rfl
@[simp] theorem State.updField_mapReqs (s : State) (i : Nat) (f : Field → Field) : (s.updField i f).mapReqs = s.mapReqs := rfl
@[simp] theorem State.updField_lq (s : State) (i : Nat) (f : Field → Field) : (s.updField i f).lq = s.lq := rfl
@[simp] theorem State.updField_waiting (s : State) (i : Nat) (f : Field → Field) : (s.updField i f).waiting = s.waiting := rfl
@[simp] theorem State.updField_preemptReq (s : State) (i : Nat) (f : Field → Field) : (s.updField i f).preemptReq = s.preemptReq := rfl
@[simp] theorem State.updField_boothPre (s : State) (i : Nat) (f : Field → Field) : (s.updField i f).boothPre = s.boothPre := rfl
@[simp] theorem State.updField_victims (s : State) (i : Nat) (f : Field → Field) : (s.updField i f).victims = s.victims := rfl
@[simp] theorem State.updField_ageCtr (s : State) (i : Nat) (f : Field → Field) : (s.updField i f).ageCtr = s.ageCtr := rfl
@[simp] theorem State.updField_admitCtr (s : State) (i : Nat) (f : Field → Field) : (s.updField i f).admitCtr = s.admitCtr := rfl
@[simp] theorem State.updField_lastQ (s : State) (i : Nat) (f : Field → Field) : (s.updField i f).lastQ = s.lastQ := rfl
@[simp] theorem State.updField_pcie (s : State) (i : Nat) (f : Field → Field) : (s.updField i f).pcie = s.pcie := rfl
@[simp] theorem State.updField_owner (s : State) (i : Nat) (f : Field → Field) : (s.updField i f).owner = s.owner := rfl
@[simp] theorem State.updField_hbage (s : State) (i : Nat) (f : Field → Field) : (s.updField i f).hbage = s.hbage := rfl
@[simp] theorem State.updField_rptBase (s : State) (i : Nat) (f : Field → Field) : (s.updField i f).rptBase = s.rptBase := rfl
@[simp] theorem State.updField_rptLog2n (s : State) (i : Nat) (f : Field → Field) : (s.updField i f).rptLog2n = s.rptLog2n := rfl
@[simp] theorem State.updField_rptEn (s : State) (i : Nat) (f : Field → Field) : (s.updField i f).rptEn = s.rptEn := rfl
@[simp] theorem State.updField_rptProd (s : State) (i : Nat) (f : Field → Field) : (s.updField i f).rptProd = s.rptProd := rfl
@[simp] theorem State.updField_rptLost (s : State) (i : Nat) (f : Field → Field) : (s.updField i f).rptLost = s.rptLost := rfl
@[simp] theorem State.updField_rptCons (s : State) (i : Nat) (f : Field → Field) : (s.updField i f).rptCons = s.rptCons := rfl
@[simp] theorem State.updField_reports (s : State) (i : Nat) (f : Field → Field) : (s.updField i f).reports = s.reports := rfl
@[simp] theorem State.updField_rejects (s : State) (i : Nat) (f : Field → Field) : (s.updField i f).rejects = s.rejects := rfl
@[simp] theorem State.updField_rcq (s : State) (i : Nat) (f : Field → Field) : (s.updField i f).rcq = s.rcq := rfl
@[simp] theorem State.updField_backing (s : State) (i : Nat) (f : Field → Field) : (s.updField i f).backing = s.backing := rfl
@[simp] theorem State.updField_bootField (s : State) (i : Nat) (f : Field → Field) : (s.updField i f).bootField = s.bootField := rfl
@[simp] theorem State.updField_booted (s : State) (i : Nat) (f : Field → Field) : (s.updField i f).booted = s.booted := rfl
@[simp] theorem State.updField_bootCur (s : State) (i : Nat) (f : Field → Field) : (s.updField i f).bootCur = s.bootCur := rfl
@[simp] theorem State.updField_booting (s : State) (i : Nat) (f : Field → Field) : (s.updField i f).booting = s.booting := rfl
@[simp] theorem State.updField_romPass (s : State) (i : Nat) (f : Field → Field) : (s.updField i f).romPass = s.romPass := rfl
@[simp] theorem State.updField_bootNum (s : State) (i : Nat) (f : Field → Field) : (s.updField i f).bootNum = s.bootNum := rfl
@[simp] theorem State.updField_journal (s : State) (i : Nat) (f : Field → Field) : (s.updField i f).journal = s.journal := rfl
@[simp] theorem State.updField_clearPend (s : State) (i : Nat) (f : Field → Field) : (s.updField i f).clearPend = s.clearPend := rfl
@[simp] theorem State.updField_svnMin (s : State) (i : Nat) (f : Field → Field) : (s.updField i f).svnMin = s.svnMin := rfl
@[simp] theorem State.updField_fwSvn (s : State) (i : Nat) (f : Field → Field) : (s.updField i f).fwSvn = s.fwSvn := rfl
@[simp] theorem State.updField_fwOk (s : State) (i : Nat) (f : Field → Field) : (s.updField i f).fwOk = s.fwOk := rfl
@[simp] theorem State.updField_flash (s : State) (i : Nat) (f : Field → Field) : (s.updField i f).flash = s.flash := rfl
@[simp] theorem State.updField_keyRsa (s : State) (i : Nat) (f : Field → Field) : (s.updField i f).keyRsa = s.keyRsa := rfl
@[simp] theorem State.updField_keySlh (s : State) (i : Nat) (f : Field → Field) : (s.updField i f).keySlh = s.keySlh := rfl
@[simp] theorem State.updField_secret (s : State) (i : Nat) (f : Field → Field) : (s.updField i f).secret = s.secret := rfl
@[simp] theorem State.updField_rcvPort (s : State) (i : Nat) (f : Field → Field) : (s.updField i f).rcvPort = s.rcvPort := rfl
@[simp] theorem State.updField_rcvJclr (s : State) (i : Nat) (f : Field → Field) : (s.updField i f).rcvJclr = s.rcvJclr := rfl
@[simp] theorem State.updField_spdm (s : State) (i : Nat) (f : Field → Field) : (s.updField i f).spdm = s.spdm := rfl
@[simp] theorem State.updField_cfglog (s : State) (i : Nat) (f : Field → Field) : (s.updField i f).cfglog = s.cfglog := rfl
@[simp] theorem State.updField_ports (s : State) (i : Nat) (f : Field → Field) : (s.updField i f).ports = s.ports := rfl
@[simp] theorem State.updField_lasers (s : State) (i : Nat) (f : Field → Field) : (s.updField i f).lasers = s.lasers := rfl
@[simp] theorem State.updField_outbox (s : State) (i : Nat) (f : Field → Field) : (s.updField i f).outbox = s.outbox := rfl
@[simp] theorem State.updField_agenda (s : State) (i : Nat) (f : Field → Field) : (s.updField i f).agenda = s.agenda := rfl
@[simp] theorem State.updField_cur (s : State) (i : Nat) (f : Field → Field) : (s.updField i f).cur = s.cur := rfl
@[simp] theorem State.updField_freeCtr (s : State) (i : Nat) (f : Field → Field) : (s.updField i f).freeCtr = s.freeCtr := rfl

@[simp] theorem State.setReady_pitches (s : State) (c : Nat) (q : List Firing) : (s.setReady c q).pitches = s.pitches := rfl
@[simp] theorem State.setReady_held (s : State) (c : Nat) (q : List Firing) : (s.setReady c q).held = s.held := rfl
@[simp] theorem State.setReady_last (s : State) (c : Nat) (q : List Firing) : (s.setReady c q).last = s.last := rfl
@[simp] theorem State.setReady_clusters (s : State) (c : Nat) (q : List Firing) : (s.setReady c q).clusters = s.clusters := rfl
@[simp] theorem State.setReady_tlbs (s : State) (c : Nat) (q : List Firing) : (s.setReady c q).tlbs = s.tlbs := rfl
@[simp] theorem State.setReady_fields (s : State) (c : Nat) (q : List Firing) : (s.setReady c q).fields = s.fields := rfl
@[simp] theorem State.setReady_mem (s : State) (c : Nat) (q : List Firing) : (s.setReady c q).mem = s.mem := rfl
@[simp] theorem State.setReady_owned (s : State) (c : Nat) (q : List Firing) : (s.setReady c q).owned = s.owned := rfl
@[simp] theorem State.setReady_dups (s : State) (c : Nat) (q : List Firing) : (s.setReady c q).dups = s.dups := rfl
@[simp] theorem State.setReady_flight (s : State) (c : Nat) (q : List Firing) : (s.setReady c q).flight = s.flight := rfl
@[simp] theorem State.setReady_traps (s : State) (c : Nat) (q : List Firing) : (s.setReady c q).traps = s.traps := rfl
@[simp] theorem State.setReady_cmds (s : State) (c : Nat) (q : List Firing) : (s.setReady c q).cmds = s.cmds := rfl
@[simp] theorem State.setReady_reqs (s : State) (c : Nat) (q : List Firing) : (s.setReady c q).reqs = s.reqs := rfl
@[simp] theorem State.setReady_contribs (s : State) (c : Nat) (q : List Firing) : (s.setReady c q).contribs = s.contribs := rfl
@[simp] theorem State.setReady_mfwd (s : State) (c : Nat) (q : List Firing) : (s.setReady c q).mfwd = s.mfwd := rfl
@[simp] theorem State.setReady_ring (s : State) (c : Nat) (q : List Firing) : (s.setReady c q).ring = s.ring := rfl
@[simp] theorem State.setReady_ringCredit (s : State) (c : Nat) (q : List Firing) : (s.setReady c q).ringCredit = s.ringCredit := rfl
@[simp] theorem State.setReady_ringDead (s : State) (c : Nat) (q : List Firing) : (s.setReady c q).ringDead = s.ringDead := rfl
@[simp] theorem State.setReady_ringQ (s : State) (c : Nat) (q : List Firing) : (s.setReady c q).ringQ = s.ringQ := rfl
@[simp] theorem State.setReady_mapReqs (s : State) (c : Nat) (q : List Firing) : (s.setReady c q).mapReqs = s.mapReqs := rfl
@[simp] theorem State.setReady_lq (s : State) (c : Nat) (q : List Firing) : (s.setReady c q).lq = s.lq := rfl
@[simp] theorem State.setReady_waiting (s : State) (c : Nat) (q : List Firing) : (s.setReady c q).waiting = s.waiting := rfl
@[simp] theorem State.setReady_preemptReq (s : State) (c : Nat) (q : List Firing) : (s.setReady c q).preemptReq = s.preemptReq := rfl
@[simp] theorem State.setReady_boothPre (s : State) (c : Nat) (q : List Firing) : (s.setReady c q).boothPre = s.boothPre := rfl
@[simp] theorem State.setReady_victims (s : State) (c : Nat) (q : List Firing) : (s.setReady c q).victims = s.victims := rfl
@[simp] theorem State.setReady_ageCtr (s : State) (c : Nat) (q : List Firing) : (s.setReady c q).ageCtr = s.ageCtr := rfl
@[simp] theorem State.setReady_admitCtr (s : State) (c : Nat) (q : List Firing) : (s.setReady c q).admitCtr = s.admitCtr := rfl
@[simp] theorem State.setReady_lastQ (s : State) (c : Nat) (q : List Firing) : (s.setReady c q).lastQ = s.lastQ := rfl
@[simp] theorem State.setReady_pcie (s : State) (c : Nat) (q : List Firing) : (s.setReady c q).pcie = s.pcie := rfl
@[simp] theorem State.setReady_owner (s : State) (c : Nat) (q : List Firing) : (s.setReady c q).owner = s.owner := rfl
@[simp] theorem State.setReady_hbage (s : State) (c : Nat) (q : List Firing) : (s.setReady c q).hbage = s.hbage := rfl
@[simp] theorem State.setReady_rptBase (s : State) (c : Nat) (q : List Firing) : (s.setReady c q).rptBase = s.rptBase := rfl
@[simp] theorem State.setReady_rptLog2n (s : State) (c : Nat) (q : List Firing) : (s.setReady c q).rptLog2n = s.rptLog2n := rfl
@[simp] theorem State.setReady_rptEn (s : State) (c : Nat) (q : List Firing) : (s.setReady c q).rptEn = s.rptEn := rfl
@[simp] theorem State.setReady_rptProd (s : State) (c : Nat) (q : List Firing) : (s.setReady c q).rptProd = s.rptProd := rfl
@[simp] theorem State.setReady_rptLost (s : State) (c : Nat) (q : List Firing) : (s.setReady c q).rptLost = s.rptLost := rfl
@[simp] theorem State.setReady_rptCons (s : State) (c : Nat) (q : List Firing) : (s.setReady c q).rptCons = s.rptCons := rfl
@[simp] theorem State.setReady_reports (s : State) (c : Nat) (q : List Firing) : (s.setReady c q).reports = s.reports := rfl
@[simp] theorem State.setReady_rejects (s : State) (c : Nat) (q : List Firing) : (s.setReady c q).rejects = s.rejects := rfl
@[simp] theorem State.setReady_rcq (s : State) (c : Nat) (q : List Firing) : (s.setReady c q).rcq = s.rcq := rfl
@[simp] theorem State.setReady_backing (s : State) (c : Nat) (q : List Firing) : (s.setReady c q).backing = s.backing := rfl
@[simp] theorem State.setReady_bootField (s : State) (c : Nat) (q : List Firing) : (s.setReady c q).bootField = s.bootField := rfl
@[simp] theorem State.setReady_booted (s : State) (c : Nat) (q : List Firing) : (s.setReady c q).booted = s.booted := rfl
@[simp] theorem State.setReady_bootCur (s : State) (c : Nat) (q : List Firing) : (s.setReady c q).bootCur = s.bootCur := rfl
@[simp] theorem State.setReady_booting (s : State) (c : Nat) (q : List Firing) : (s.setReady c q).booting = s.booting := rfl
@[simp] theorem State.setReady_romPass (s : State) (c : Nat) (q : List Firing) : (s.setReady c q).romPass = s.romPass := rfl
@[simp] theorem State.setReady_bootNum (s : State) (c : Nat) (q : List Firing) : (s.setReady c q).bootNum = s.bootNum := rfl
@[simp] theorem State.setReady_journal (s : State) (c : Nat) (q : List Firing) : (s.setReady c q).journal = s.journal := rfl
@[simp] theorem State.setReady_clearPend (s : State) (c : Nat) (q : List Firing) : (s.setReady c q).clearPend = s.clearPend := rfl
@[simp] theorem State.setReady_svnMin (s : State) (c : Nat) (q : List Firing) : (s.setReady c q).svnMin = s.svnMin := rfl
@[simp] theorem State.setReady_fwSvn (s : State) (c : Nat) (q : List Firing) : (s.setReady c q).fwSvn = s.fwSvn := rfl
@[simp] theorem State.setReady_fwOk (s : State) (c : Nat) (q : List Firing) : (s.setReady c q).fwOk = s.fwOk := rfl
@[simp] theorem State.setReady_flash (s : State) (c : Nat) (q : List Firing) : (s.setReady c q).flash = s.flash := rfl
@[simp] theorem State.setReady_keyRsa (s : State) (c : Nat) (q : List Firing) : (s.setReady c q).keyRsa = s.keyRsa := rfl
@[simp] theorem State.setReady_keySlh (s : State) (c : Nat) (q : List Firing) : (s.setReady c q).keySlh = s.keySlh := rfl
@[simp] theorem State.setReady_secret (s : State) (c : Nat) (q : List Firing) : (s.setReady c q).secret = s.secret := rfl
@[simp] theorem State.setReady_rcvPort (s : State) (c : Nat) (q : List Firing) : (s.setReady c q).rcvPort = s.rcvPort := rfl
@[simp] theorem State.setReady_rcvJclr (s : State) (c : Nat) (q : List Firing) : (s.setReady c q).rcvJclr = s.rcvJclr := rfl
@[simp] theorem State.setReady_spdm (s : State) (c : Nat) (q : List Firing) : (s.setReady c q).spdm = s.spdm := rfl
@[simp] theorem State.setReady_cfglog (s : State) (c : Nat) (q : List Firing) : (s.setReady c q).cfglog = s.cfglog := rfl
@[simp] theorem State.setReady_ports (s : State) (c : Nat) (q : List Firing) : (s.setReady c q).ports = s.ports := rfl
@[simp] theorem State.setReady_lasers (s : State) (c : Nat) (q : List Firing) : (s.setReady c q).lasers = s.lasers := rfl
@[simp] theorem State.setReady_outbox (s : State) (c : Nat) (q : List Firing) : (s.setReady c q).outbox = s.outbox := rfl
@[simp] theorem State.setReady_agenda (s : State) (c : Nat) (q : List Firing) : (s.setReady c q).agenda = s.agenda := rfl
@[simp] theorem State.setReady_cur (s : State) (c : Nat) (q : List Firing) : (s.setReady c q).cur = s.cur := rfl
@[simp] theorem State.setReady_freeCtr (s : State) (c : Nat) (q : List Firing) : (s.setReady c q).freeCtr = s.freeCtr := rfl

@[simp] theorem State.updPort_pitches (s : State) (n : Nat) (f : OptPort → OptPort) : (s.updPort n f).pitches = s.pitches := rfl
@[simp] theorem State.updPort_ready (s : State) (n : Nat) (f : OptPort → OptPort) : (s.updPort n f).ready = s.ready := rfl
@[simp] theorem State.updPort_held (s : State) (n : Nat) (f : OptPort → OptPort) : (s.updPort n f).held = s.held := rfl
@[simp] theorem State.updPort_last (s : State) (n : Nat) (f : OptPort → OptPort) : (s.updPort n f).last = s.last := rfl
@[simp] theorem State.updPort_clusters (s : State) (n : Nat) (f : OptPort → OptPort) : (s.updPort n f).clusters = s.clusters := rfl
@[simp] theorem State.updPort_tlbs (s : State) (n : Nat) (f : OptPort → OptPort) : (s.updPort n f).tlbs = s.tlbs := rfl
@[simp] theorem State.updPort_fields (s : State) (n : Nat) (f : OptPort → OptPort) : (s.updPort n f).fields = s.fields := rfl
@[simp] theorem State.updPort_mem (s : State) (n : Nat) (f : OptPort → OptPort) : (s.updPort n f).mem = s.mem := rfl
@[simp] theorem State.updPort_owned (s : State) (n : Nat) (f : OptPort → OptPort) : (s.updPort n f).owned = s.owned := rfl
@[simp] theorem State.updPort_dups (s : State) (n : Nat) (f : OptPort → OptPort) : (s.updPort n f).dups = s.dups := rfl
@[simp] theorem State.updPort_flight (s : State) (n : Nat) (f : OptPort → OptPort) : (s.updPort n f).flight = s.flight := rfl
@[simp] theorem State.updPort_traps (s : State) (n : Nat) (f : OptPort → OptPort) : (s.updPort n f).traps = s.traps := rfl
@[simp] theorem State.updPort_cmds (s : State) (n : Nat) (f : OptPort → OptPort) : (s.updPort n f).cmds = s.cmds := rfl
@[simp] theorem State.updPort_reqs (s : State) (n : Nat) (f : OptPort → OptPort) : (s.updPort n f).reqs = s.reqs := rfl
@[simp] theorem State.updPort_contribs (s : State) (n : Nat) (f : OptPort → OptPort) : (s.updPort n f).contribs = s.contribs := rfl
@[simp] theorem State.updPort_mfwd (s : State) (n : Nat) (f : OptPort → OptPort) : (s.updPort n f).mfwd = s.mfwd := rfl
@[simp] theorem State.updPort_ring (s : State) (n : Nat) (f : OptPort → OptPort) : (s.updPort n f).ring = s.ring := rfl
@[simp] theorem State.updPort_ringCredit (s : State) (n : Nat) (f : OptPort → OptPort) : (s.updPort n f).ringCredit = s.ringCredit := rfl
@[simp] theorem State.updPort_ringDead (s : State) (n : Nat) (f : OptPort → OptPort) : (s.updPort n f).ringDead = s.ringDead := rfl
@[simp] theorem State.updPort_ringQ (s : State) (n : Nat) (f : OptPort → OptPort) : (s.updPort n f).ringQ = s.ringQ := rfl
@[simp] theorem State.updPort_mapReqs (s : State) (n : Nat) (f : OptPort → OptPort) : (s.updPort n f).mapReqs = s.mapReqs := rfl
@[simp] theorem State.updPort_lq (s : State) (n : Nat) (f : OptPort → OptPort) : (s.updPort n f).lq = s.lq := rfl
@[simp] theorem State.updPort_waiting (s : State) (n : Nat) (f : OptPort → OptPort) : (s.updPort n f).waiting = s.waiting := rfl
@[simp] theorem State.updPort_preemptReq (s : State) (n : Nat) (f : OptPort → OptPort) : (s.updPort n f).preemptReq = s.preemptReq := rfl
@[simp] theorem State.updPort_boothPre (s : State) (n : Nat) (f : OptPort → OptPort) : (s.updPort n f).boothPre = s.boothPre := rfl
@[simp] theorem State.updPort_victims (s : State) (n : Nat) (f : OptPort → OptPort) : (s.updPort n f).victims = s.victims := rfl
@[simp] theorem State.updPort_ageCtr (s : State) (n : Nat) (f : OptPort → OptPort) : (s.updPort n f).ageCtr = s.ageCtr := rfl
@[simp] theorem State.updPort_admitCtr (s : State) (n : Nat) (f : OptPort → OptPort) : (s.updPort n f).admitCtr = s.admitCtr := rfl
@[simp] theorem State.updPort_lastQ (s : State) (n : Nat) (f : OptPort → OptPort) : (s.updPort n f).lastQ = s.lastQ := rfl
@[simp] theorem State.updPort_pcie (s : State) (n : Nat) (f : OptPort → OptPort) : (s.updPort n f).pcie = s.pcie := rfl
@[simp] theorem State.updPort_owner (s : State) (n : Nat) (f : OptPort → OptPort) : (s.updPort n f).owner = s.owner := rfl
@[simp] theorem State.updPort_hbage (s : State) (n : Nat) (f : OptPort → OptPort) : (s.updPort n f).hbage = s.hbage := rfl
@[simp] theorem State.updPort_rptBase (s : State) (n : Nat) (f : OptPort → OptPort) : (s.updPort n f).rptBase = s.rptBase := rfl
@[simp] theorem State.updPort_rptLog2n (s : State) (n : Nat) (f : OptPort → OptPort) : (s.updPort n f).rptLog2n = s.rptLog2n := rfl
@[simp] theorem State.updPort_rptEn (s : State) (n : Nat) (f : OptPort → OptPort) : (s.updPort n f).rptEn = s.rptEn := rfl
@[simp] theorem State.updPort_rptProd (s : State) (n : Nat) (f : OptPort → OptPort) : (s.updPort n f).rptProd = s.rptProd := rfl
@[simp] theorem State.updPort_rptLost (s : State) (n : Nat) (f : OptPort → OptPort) : (s.updPort n f).rptLost = s.rptLost := rfl
@[simp] theorem State.updPort_rptCons (s : State) (n : Nat) (f : OptPort → OptPort) : (s.updPort n f).rptCons = s.rptCons := rfl
@[simp] theorem State.updPort_reports (s : State) (n : Nat) (f : OptPort → OptPort) : (s.updPort n f).reports = s.reports := rfl
@[simp] theorem State.updPort_rejects (s : State) (n : Nat) (f : OptPort → OptPort) : (s.updPort n f).rejects = s.rejects := rfl
@[simp] theorem State.updPort_rcq (s : State) (n : Nat) (f : OptPort → OptPort) : (s.updPort n f).rcq = s.rcq := rfl
@[simp] theorem State.updPort_backing (s : State) (n : Nat) (f : OptPort → OptPort) : (s.updPort n f).backing = s.backing := rfl
@[simp] theorem State.updPort_bootField (s : State) (n : Nat) (f : OptPort → OptPort) : (s.updPort n f).bootField = s.bootField := rfl
@[simp] theorem State.updPort_booted (s : State) (n : Nat) (f : OptPort → OptPort) : (s.updPort n f).booted = s.booted := rfl
@[simp] theorem State.updPort_bootCur (s : State) (n : Nat) (f : OptPort → OptPort) : (s.updPort n f).bootCur = s.bootCur := rfl
@[simp] theorem State.updPort_booting (s : State) (n : Nat) (f : OptPort → OptPort) : (s.updPort n f).booting = s.booting := rfl
@[simp] theorem State.updPort_romPass (s : State) (n : Nat) (f : OptPort → OptPort) : (s.updPort n f).romPass = s.romPass := rfl
@[simp] theorem State.updPort_bootNum (s : State) (n : Nat) (f : OptPort → OptPort) : (s.updPort n f).bootNum = s.bootNum := rfl
@[simp] theorem State.updPort_journal (s : State) (n : Nat) (f : OptPort → OptPort) : (s.updPort n f).journal = s.journal := rfl
@[simp] theorem State.updPort_clearPend (s : State) (n : Nat) (f : OptPort → OptPort) : (s.updPort n f).clearPend = s.clearPend := rfl
@[simp] theorem State.updPort_svnMin (s : State) (n : Nat) (f : OptPort → OptPort) : (s.updPort n f).svnMin = s.svnMin := rfl
@[simp] theorem State.updPort_fwSvn (s : State) (n : Nat) (f : OptPort → OptPort) : (s.updPort n f).fwSvn = s.fwSvn := rfl
@[simp] theorem State.updPort_fwOk (s : State) (n : Nat) (f : OptPort → OptPort) : (s.updPort n f).fwOk = s.fwOk := rfl
@[simp] theorem State.updPort_flash (s : State) (n : Nat) (f : OptPort → OptPort) : (s.updPort n f).flash = s.flash := rfl
@[simp] theorem State.updPort_keyRsa (s : State) (n : Nat) (f : OptPort → OptPort) : (s.updPort n f).keyRsa = s.keyRsa := rfl
@[simp] theorem State.updPort_keySlh (s : State) (n : Nat) (f : OptPort → OptPort) : (s.updPort n f).keySlh = s.keySlh := rfl
@[simp] theorem State.updPort_secret (s : State) (n : Nat) (f : OptPort → OptPort) : (s.updPort n f).secret = s.secret := rfl
@[simp] theorem State.updPort_rcvPort (s : State) (n : Nat) (f : OptPort → OptPort) : (s.updPort n f).rcvPort = s.rcvPort := rfl
@[simp] theorem State.updPort_rcvJclr (s : State) (n : Nat) (f : OptPort → OptPort) : (s.updPort n f).rcvJclr = s.rcvJclr := rfl
@[simp] theorem State.updPort_spdm (s : State) (n : Nat) (f : OptPort → OptPort) : (s.updPort n f).spdm = s.spdm := rfl
@[simp] theorem State.updPort_cfglog (s : State) (n : Nat) (f : OptPort → OptPort) : (s.updPort n f).cfglog = s.cfglog := rfl
@[simp] theorem State.updPort_lasers (s : State) (n : Nat) (f : OptPort → OptPort) : (s.updPort n f).lasers = s.lasers := rfl
@[simp] theorem State.updPort_outbox (s : State) (n : Nat) (f : OptPort → OptPort) : (s.updPort n f).outbox = s.outbox := rfl
@[simp] theorem State.updPort_agenda (s : State) (n : Nat) (f : OptPort → OptPort) : (s.updPort n f).agenda = s.agenda := rfl
@[simp] theorem State.updPort_cur (s : State) (n : Nat) (f : OptPort → OptPort) : (s.updPort n f).cur = s.cur := rfl
@[simp] theorem State.updPort_freeCtr (s : State) (n : Nat) (f : OptPort → OptPort) : (s.updPort n f).freeCtr = s.freeCtr := rfl

@[simp] theorem State.updPcie_pitches (s : State) (n : Nat) (f : PcieBlk → PcieBlk) : (s.updPcie n f).pitches = s.pitches := rfl
@[simp] theorem State.updPcie_ready (s : State) (n : Nat) (f : PcieBlk → PcieBlk) : (s.updPcie n f).ready = s.ready := rfl
@[simp] theorem State.updPcie_held (s : State) (n : Nat) (f : PcieBlk → PcieBlk) : (s.updPcie n f).held = s.held := rfl
@[simp] theorem State.updPcie_last (s : State) (n : Nat) (f : PcieBlk → PcieBlk) : (s.updPcie n f).last = s.last := rfl
@[simp] theorem State.updPcie_clusters (s : State) (n : Nat) (f : PcieBlk → PcieBlk) : (s.updPcie n f).clusters = s.clusters := rfl
@[simp] theorem State.updPcie_tlbs (s : State) (n : Nat) (f : PcieBlk → PcieBlk) : (s.updPcie n f).tlbs = s.tlbs := rfl
@[simp] theorem State.updPcie_fields (s : State) (n : Nat) (f : PcieBlk → PcieBlk) : (s.updPcie n f).fields = s.fields := rfl
@[simp] theorem State.updPcie_mem (s : State) (n : Nat) (f : PcieBlk → PcieBlk) : (s.updPcie n f).mem = s.mem := rfl
@[simp] theorem State.updPcie_owned (s : State) (n : Nat) (f : PcieBlk → PcieBlk) : (s.updPcie n f).owned = s.owned := rfl
@[simp] theorem State.updPcie_dups (s : State) (n : Nat) (f : PcieBlk → PcieBlk) : (s.updPcie n f).dups = s.dups := rfl
@[simp] theorem State.updPcie_flight (s : State) (n : Nat) (f : PcieBlk → PcieBlk) : (s.updPcie n f).flight = s.flight := rfl
@[simp] theorem State.updPcie_traps (s : State) (n : Nat) (f : PcieBlk → PcieBlk) : (s.updPcie n f).traps = s.traps := rfl
@[simp] theorem State.updPcie_cmds (s : State) (n : Nat) (f : PcieBlk → PcieBlk) : (s.updPcie n f).cmds = s.cmds := rfl
@[simp] theorem State.updPcie_reqs (s : State) (n : Nat) (f : PcieBlk → PcieBlk) : (s.updPcie n f).reqs = s.reqs := rfl
@[simp] theorem State.updPcie_contribs (s : State) (n : Nat) (f : PcieBlk → PcieBlk) : (s.updPcie n f).contribs = s.contribs := rfl
@[simp] theorem State.updPcie_mfwd (s : State) (n : Nat) (f : PcieBlk → PcieBlk) : (s.updPcie n f).mfwd = s.mfwd := rfl
@[simp] theorem State.updPcie_ring (s : State) (n : Nat) (f : PcieBlk → PcieBlk) : (s.updPcie n f).ring = s.ring := rfl
@[simp] theorem State.updPcie_ringCredit (s : State) (n : Nat) (f : PcieBlk → PcieBlk) : (s.updPcie n f).ringCredit = s.ringCredit := rfl
@[simp] theorem State.updPcie_ringDead (s : State) (n : Nat) (f : PcieBlk → PcieBlk) : (s.updPcie n f).ringDead = s.ringDead := rfl
@[simp] theorem State.updPcie_ringQ (s : State) (n : Nat) (f : PcieBlk → PcieBlk) : (s.updPcie n f).ringQ = s.ringQ := rfl
@[simp] theorem State.updPcie_mapReqs (s : State) (n : Nat) (f : PcieBlk → PcieBlk) : (s.updPcie n f).mapReqs = s.mapReqs := rfl
@[simp] theorem State.updPcie_lq (s : State) (n : Nat) (f : PcieBlk → PcieBlk) : (s.updPcie n f).lq = s.lq := rfl
@[simp] theorem State.updPcie_waiting (s : State) (n : Nat) (f : PcieBlk → PcieBlk) : (s.updPcie n f).waiting = s.waiting := rfl
@[simp] theorem State.updPcie_preemptReq (s : State) (n : Nat) (f : PcieBlk → PcieBlk) : (s.updPcie n f).preemptReq = s.preemptReq := rfl
@[simp] theorem State.updPcie_boothPre (s : State) (n : Nat) (f : PcieBlk → PcieBlk) : (s.updPcie n f).boothPre = s.boothPre := rfl
@[simp] theorem State.updPcie_victims (s : State) (n : Nat) (f : PcieBlk → PcieBlk) : (s.updPcie n f).victims = s.victims := rfl
@[simp] theorem State.updPcie_ageCtr (s : State) (n : Nat) (f : PcieBlk → PcieBlk) : (s.updPcie n f).ageCtr = s.ageCtr := rfl
@[simp] theorem State.updPcie_admitCtr (s : State) (n : Nat) (f : PcieBlk → PcieBlk) : (s.updPcie n f).admitCtr = s.admitCtr := rfl
@[simp] theorem State.updPcie_lastQ (s : State) (n : Nat) (f : PcieBlk → PcieBlk) : (s.updPcie n f).lastQ = s.lastQ := rfl
@[simp] theorem State.updPcie_owner (s : State) (n : Nat) (f : PcieBlk → PcieBlk) : (s.updPcie n f).owner = s.owner := rfl
@[simp] theorem State.updPcie_hbage (s : State) (n : Nat) (f : PcieBlk → PcieBlk) : (s.updPcie n f).hbage = s.hbage := rfl
@[simp] theorem State.updPcie_rptBase (s : State) (n : Nat) (f : PcieBlk → PcieBlk) : (s.updPcie n f).rptBase = s.rptBase := rfl
@[simp] theorem State.updPcie_rptLog2n (s : State) (n : Nat) (f : PcieBlk → PcieBlk) : (s.updPcie n f).rptLog2n = s.rptLog2n := rfl
@[simp] theorem State.updPcie_rptEn (s : State) (n : Nat) (f : PcieBlk → PcieBlk) : (s.updPcie n f).rptEn = s.rptEn := rfl
@[simp] theorem State.updPcie_rptProd (s : State) (n : Nat) (f : PcieBlk → PcieBlk) : (s.updPcie n f).rptProd = s.rptProd := rfl
@[simp] theorem State.updPcie_rptLost (s : State) (n : Nat) (f : PcieBlk → PcieBlk) : (s.updPcie n f).rptLost = s.rptLost := rfl
@[simp] theorem State.updPcie_rptCons (s : State) (n : Nat) (f : PcieBlk → PcieBlk) : (s.updPcie n f).rptCons = s.rptCons := rfl
@[simp] theorem State.updPcie_reports (s : State) (n : Nat) (f : PcieBlk → PcieBlk) : (s.updPcie n f).reports = s.reports := rfl
@[simp] theorem State.updPcie_rejects (s : State) (n : Nat) (f : PcieBlk → PcieBlk) : (s.updPcie n f).rejects = s.rejects := rfl
@[simp] theorem State.updPcie_rcq (s : State) (n : Nat) (f : PcieBlk → PcieBlk) : (s.updPcie n f).rcq = s.rcq := rfl
@[simp] theorem State.updPcie_backing (s : State) (n : Nat) (f : PcieBlk → PcieBlk) : (s.updPcie n f).backing = s.backing := rfl
@[simp] theorem State.updPcie_bootField (s : State) (n : Nat) (f : PcieBlk → PcieBlk) : (s.updPcie n f).bootField = s.bootField := rfl
@[simp] theorem State.updPcie_booted (s : State) (n : Nat) (f : PcieBlk → PcieBlk) : (s.updPcie n f).booted = s.booted := rfl
@[simp] theorem State.updPcie_bootCur (s : State) (n : Nat) (f : PcieBlk → PcieBlk) : (s.updPcie n f).bootCur = s.bootCur := rfl
@[simp] theorem State.updPcie_booting (s : State) (n : Nat) (f : PcieBlk → PcieBlk) : (s.updPcie n f).booting = s.booting := rfl
@[simp] theorem State.updPcie_romPass (s : State) (n : Nat) (f : PcieBlk → PcieBlk) : (s.updPcie n f).romPass = s.romPass := rfl
@[simp] theorem State.updPcie_bootNum (s : State) (n : Nat) (f : PcieBlk → PcieBlk) : (s.updPcie n f).bootNum = s.bootNum := rfl
@[simp] theorem State.updPcie_journal (s : State) (n : Nat) (f : PcieBlk → PcieBlk) : (s.updPcie n f).journal = s.journal := rfl
@[simp] theorem State.updPcie_clearPend (s : State) (n : Nat) (f : PcieBlk → PcieBlk) : (s.updPcie n f).clearPend = s.clearPend := rfl
@[simp] theorem State.updPcie_svnMin (s : State) (n : Nat) (f : PcieBlk → PcieBlk) : (s.updPcie n f).svnMin = s.svnMin := rfl
@[simp] theorem State.updPcie_fwSvn (s : State) (n : Nat) (f : PcieBlk → PcieBlk) : (s.updPcie n f).fwSvn = s.fwSvn := rfl
@[simp] theorem State.updPcie_fwOk (s : State) (n : Nat) (f : PcieBlk → PcieBlk) : (s.updPcie n f).fwOk = s.fwOk := rfl
@[simp] theorem State.updPcie_flash (s : State) (n : Nat) (f : PcieBlk → PcieBlk) : (s.updPcie n f).flash = s.flash := rfl
@[simp] theorem State.updPcie_keyRsa (s : State) (n : Nat) (f : PcieBlk → PcieBlk) : (s.updPcie n f).keyRsa = s.keyRsa := rfl
@[simp] theorem State.updPcie_keySlh (s : State) (n : Nat) (f : PcieBlk → PcieBlk) : (s.updPcie n f).keySlh = s.keySlh := rfl
@[simp] theorem State.updPcie_secret (s : State) (n : Nat) (f : PcieBlk → PcieBlk) : (s.updPcie n f).secret = s.secret := rfl
@[simp] theorem State.updPcie_rcvPort (s : State) (n : Nat) (f : PcieBlk → PcieBlk) : (s.updPcie n f).rcvPort = s.rcvPort := rfl
@[simp] theorem State.updPcie_rcvJclr (s : State) (n : Nat) (f : PcieBlk → PcieBlk) : (s.updPcie n f).rcvJclr = s.rcvJclr := rfl
@[simp] theorem State.updPcie_spdm (s : State) (n : Nat) (f : PcieBlk → PcieBlk) : (s.updPcie n f).spdm = s.spdm := rfl
@[simp] theorem State.updPcie_cfglog (s : State) (n : Nat) (f : PcieBlk → PcieBlk) : (s.updPcie n f).cfglog = s.cfglog := rfl
@[simp] theorem State.updPcie_ports (s : State) (n : Nat) (f : PcieBlk → PcieBlk) : (s.updPcie n f).ports = s.ports := rfl
@[simp] theorem State.updPcie_lasers (s : State) (n : Nat) (f : PcieBlk → PcieBlk) : (s.updPcie n f).lasers = s.lasers := rfl
@[simp] theorem State.updPcie_outbox (s : State) (n : Nat) (f : PcieBlk → PcieBlk) : (s.updPcie n f).outbox = s.outbox := rfl
@[simp] theorem State.updPcie_agenda (s : State) (n : Nat) (f : PcieBlk → PcieBlk) : (s.updPcie n f).agenda = s.agenda := rfl
@[simp] theorem State.updPcie_cur (s : State) (n : Nat) (f : PcieBlk → PcieBlk) : (s.updPcie n f).cur = s.cur := rfl
@[simp] theorem State.updPcie_freeCtr (s : State) (n : Nat) (f : PcieBlk → PcieBlk) : (s.updPcie n f).freeCtr = s.freeCtr := rfl

@[simp] theorem State.updLQ_pitches (s : State) (n : Nat) (f : LQueue → LQueue) : (s.updLQ n f).pitches = s.pitches := rfl
@[simp] theorem State.updLQ_ready (s : State) (n : Nat) (f : LQueue → LQueue) : (s.updLQ n f).ready = s.ready := rfl
@[simp] theorem State.updLQ_held (s : State) (n : Nat) (f : LQueue → LQueue) : (s.updLQ n f).held = s.held := rfl
@[simp] theorem State.updLQ_last (s : State) (n : Nat) (f : LQueue → LQueue) : (s.updLQ n f).last = s.last := rfl
@[simp] theorem State.updLQ_clusters (s : State) (n : Nat) (f : LQueue → LQueue) : (s.updLQ n f).clusters = s.clusters := rfl
@[simp] theorem State.updLQ_tlbs (s : State) (n : Nat) (f : LQueue → LQueue) : (s.updLQ n f).tlbs = s.tlbs := rfl
@[simp] theorem State.updLQ_fields (s : State) (n : Nat) (f : LQueue → LQueue) : (s.updLQ n f).fields = s.fields := rfl
@[simp] theorem State.updLQ_mem (s : State) (n : Nat) (f : LQueue → LQueue) : (s.updLQ n f).mem = s.mem := rfl
@[simp] theorem State.updLQ_owned (s : State) (n : Nat) (f : LQueue → LQueue) : (s.updLQ n f).owned = s.owned := rfl
@[simp] theorem State.updLQ_dups (s : State) (n : Nat) (f : LQueue → LQueue) : (s.updLQ n f).dups = s.dups := rfl
@[simp] theorem State.updLQ_flight (s : State) (n : Nat) (f : LQueue → LQueue) : (s.updLQ n f).flight = s.flight := rfl
@[simp] theorem State.updLQ_traps (s : State) (n : Nat) (f : LQueue → LQueue) : (s.updLQ n f).traps = s.traps := rfl
@[simp] theorem State.updLQ_cmds (s : State) (n : Nat) (f : LQueue → LQueue) : (s.updLQ n f).cmds = s.cmds := rfl
@[simp] theorem State.updLQ_reqs (s : State) (n : Nat) (f : LQueue → LQueue) : (s.updLQ n f).reqs = s.reqs := rfl
@[simp] theorem State.updLQ_contribs (s : State) (n : Nat) (f : LQueue → LQueue) : (s.updLQ n f).contribs = s.contribs := rfl
@[simp] theorem State.updLQ_mfwd (s : State) (n : Nat) (f : LQueue → LQueue) : (s.updLQ n f).mfwd = s.mfwd := rfl
@[simp] theorem State.updLQ_ring (s : State) (n : Nat) (f : LQueue → LQueue) : (s.updLQ n f).ring = s.ring := rfl
@[simp] theorem State.updLQ_ringCredit (s : State) (n : Nat) (f : LQueue → LQueue) : (s.updLQ n f).ringCredit = s.ringCredit := rfl
@[simp] theorem State.updLQ_ringDead (s : State) (n : Nat) (f : LQueue → LQueue) : (s.updLQ n f).ringDead = s.ringDead := rfl
@[simp] theorem State.updLQ_ringQ (s : State) (n : Nat) (f : LQueue → LQueue) : (s.updLQ n f).ringQ = s.ringQ := rfl
@[simp] theorem State.updLQ_mapReqs (s : State) (n : Nat) (f : LQueue → LQueue) : (s.updLQ n f).mapReqs = s.mapReqs := rfl
@[simp] theorem State.updLQ_waiting (s : State) (n : Nat) (f : LQueue → LQueue) : (s.updLQ n f).waiting = s.waiting := rfl
@[simp] theorem State.updLQ_preemptReq (s : State) (n : Nat) (f : LQueue → LQueue) : (s.updLQ n f).preemptReq = s.preemptReq := rfl
@[simp] theorem State.updLQ_boothPre (s : State) (n : Nat) (f : LQueue → LQueue) : (s.updLQ n f).boothPre = s.boothPre := rfl
@[simp] theorem State.updLQ_victims (s : State) (n : Nat) (f : LQueue → LQueue) : (s.updLQ n f).victims = s.victims := rfl
@[simp] theorem State.updLQ_ageCtr (s : State) (n : Nat) (f : LQueue → LQueue) : (s.updLQ n f).ageCtr = s.ageCtr := rfl
@[simp] theorem State.updLQ_admitCtr (s : State) (n : Nat) (f : LQueue → LQueue) : (s.updLQ n f).admitCtr = s.admitCtr := rfl
@[simp] theorem State.updLQ_lastQ (s : State) (n : Nat) (f : LQueue → LQueue) : (s.updLQ n f).lastQ = s.lastQ := rfl
@[simp] theorem State.updLQ_pcie (s : State) (n : Nat) (f : LQueue → LQueue) : (s.updLQ n f).pcie = s.pcie := rfl
@[simp] theorem State.updLQ_owner (s : State) (n : Nat) (f : LQueue → LQueue) : (s.updLQ n f).owner = s.owner := rfl
@[simp] theorem State.updLQ_hbage (s : State) (n : Nat) (f : LQueue → LQueue) : (s.updLQ n f).hbage = s.hbage := rfl
@[simp] theorem State.updLQ_rptBase (s : State) (n : Nat) (f : LQueue → LQueue) : (s.updLQ n f).rptBase = s.rptBase := rfl
@[simp] theorem State.updLQ_rptLog2n (s : State) (n : Nat) (f : LQueue → LQueue) : (s.updLQ n f).rptLog2n = s.rptLog2n := rfl
@[simp] theorem State.updLQ_rptEn (s : State) (n : Nat) (f : LQueue → LQueue) : (s.updLQ n f).rptEn = s.rptEn := rfl
@[simp] theorem State.updLQ_rptProd (s : State) (n : Nat) (f : LQueue → LQueue) : (s.updLQ n f).rptProd = s.rptProd := rfl
@[simp] theorem State.updLQ_rptLost (s : State) (n : Nat) (f : LQueue → LQueue) : (s.updLQ n f).rptLost = s.rptLost := rfl
@[simp] theorem State.updLQ_rptCons (s : State) (n : Nat) (f : LQueue → LQueue) : (s.updLQ n f).rptCons = s.rptCons := rfl
@[simp] theorem State.updLQ_reports (s : State) (n : Nat) (f : LQueue → LQueue) : (s.updLQ n f).reports = s.reports := rfl
@[simp] theorem State.updLQ_rejects (s : State) (n : Nat) (f : LQueue → LQueue) : (s.updLQ n f).rejects = s.rejects := rfl
@[simp] theorem State.updLQ_rcq (s : State) (n : Nat) (f : LQueue → LQueue) : (s.updLQ n f).rcq = s.rcq := rfl
@[simp] theorem State.updLQ_backing (s : State) (n : Nat) (f : LQueue → LQueue) : (s.updLQ n f).backing = s.backing := rfl
@[simp] theorem State.updLQ_bootField (s : State) (n : Nat) (f : LQueue → LQueue) : (s.updLQ n f).bootField = s.bootField := rfl
@[simp] theorem State.updLQ_booted (s : State) (n : Nat) (f : LQueue → LQueue) : (s.updLQ n f).booted = s.booted := rfl
@[simp] theorem State.updLQ_bootCur (s : State) (n : Nat) (f : LQueue → LQueue) : (s.updLQ n f).bootCur = s.bootCur := rfl
@[simp] theorem State.updLQ_booting (s : State) (n : Nat) (f : LQueue → LQueue) : (s.updLQ n f).booting = s.booting := rfl
@[simp] theorem State.updLQ_romPass (s : State) (n : Nat) (f : LQueue → LQueue) : (s.updLQ n f).romPass = s.romPass := rfl
@[simp] theorem State.updLQ_bootNum (s : State) (n : Nat) (f : LQueue → LQueue) : (s.updLQ n f).bootNum = s.bootNum := rfl
@[simp] theorem State.updLQ_journal (s : State) (n : Nat) (f : LQueue → LQueue) : (s.updLQ n f).journal = s.journal := rfl
@[simp] theorem State.updLQ_clearPend (s : State) (n : Nat) (f : LQueue → LQueue) : (s.updLQ n f).clearPend = s.clearPend := rfl
@[simp] theorem State.updLQ_svnMin (s : State) (n : Nat) (f : LQueue → LQueue) : (s.updLQ n f).svnMin = s.svnMin := rfl
@[simp] theorem State.updLQ_fwSvn (s : State) (n : Nat) (f : LQueue → LQueue) : (s.updLQ n f).fwSvn = s.fwSvn := rfl
@[simp] theorem State.updLQ_fwOk (s : State) (n : Nat) (f : LQueue → LQueue) : (s.updLQ n f).fwOk = s.fwOk := rfl
@[simp] theorem State.updLQ_flash (s : State) (n : Nat) (f : LQueue → LQueue) : (s.updLQ n f).flash = s.flash := rfl
@[simp] theorem State.updLQ_keyRsa (s : State) (n : Nat) (f : LQueue → LQueue) : (s.updLQ n f).keyRsa = s.keyRsa := rfl
@[simp] theorem State.updLQ_keySlh (s : State) (n : Nat) (f : LQueue → LQueue) : (s.updLQ n f).keySlh = s.keySlh := rfl
@[simp] theorem State.updLQ_secret (s : State) (n : Nat) (f : LQueue → LQueue) : (s.updLQ n f).secret = s.secret := rfl
@[simp] theorem State.updLQ_rcvPort (s : State) (n : Nat) (f : LQueue → LQueue) : (s.updLQ n f).rcvPort = s.rcvPort := rfl
@[simp] theorem State.updLQ_rcvJclr (s : State) (n : Nat) (f : LQueue → LQueue) : (s.updLQ n f).rcvJclr = s.rcvJclr := rfl
@[simp] theorem State.updLQ_spdm (s : State) (n : Nat) (f : LQueue → LQueue) : (s.updLQ n f).spdm = s.spdm := rfl
@[simp] theorem State.updLQ_cfglog (s : State) (n : Nat) (f : LQueue → LQueue) : (s.updLQ n f).cfglog = s.cfglog := rfl
@[simp] theorem State.updLQ_ports (s : State) (n : Nat) (f : LQueue → LQueue) : (s.updLQ n f).ports = s.ports := rfl
@[simp] theorem State.updLQ_lasers (s : State) (n : Nat) (f : LQueue → LQueue) : (s.updLQ n f).lasers = s.lasers := rfl
@[simp] theorem State.updLQ_outbox (s : State) (n : Nat) (f : LQueue → LQueue) : (s.updLQ n f).outbox = s.outbox := rfl
@[simp] theorem State.updLQ_agenda (s : State) (n : Nat) (f : LQueue → LQueue) : (s.updLQ n f).agenda = s.agenda := rfl
@[simp] theorem State.updLQ_cur (s : State) (n : Nat) (f : LQueue → LQueue) : (s.updLQ n f).cur = s.cur := rfl
@[simp] theorem State.updLQ_freeCtr (s : State) (n : Nat) (f : LQueue → LQueue) : (s.updLQ n f).freeCtr = s.freeCtr := rfl

@[simp] theorem State.setRaw_pitches (s : State) (n : Nat) (b : Byte) : (s.setRaw n b).pitches = s.pitches := rfl
@[simp] theorem State.setRaw_ready (s : State) (n : Nat) (b : Byte) : (s.setRaw n b).ready = s.ready := rfl
@[simp] theorem State.setRaw_held (s : State) (n : Nat) (b : Byte) : (s.setRaw n b).held = s.held := rfl
@[simp] theorem State.setRaw_last (s : State) (n : Nat) (b : Byte) : (s.setRaw n b).last = s.last := rfl
@[simp] theorem State.setRaw_clusters (s : State) (n : Nat) (b : Byte) : (s.setRaw n b).clusters = s.clusters := rfl
@[simp] theorem State.setRaw_tlbs (s : State) (n : Nat) (b : Byte) : (s.setRaw n b).tlbs = s.tlbs := rfl
@[simp] theorem State.setRaw_fields (s : State) (n : Nat) (b : Byte) : (s.setRaw n b).fields = s.fields := rfl
@[simp] theorem State.setRaw_owned (s : State) (n : Nat) (b : Byte) : (s.setRaw n b).owned = s.owned := rfl
@[simp] theorem State.setRaw_dups (s : State) (n : Nat) (b : Byte) : (s.setRaw n b).dups = s.dups := rfl
@[simp] theorem State.setRaw_flight (s : State) (n : Nat) (b : Byte) : (s.setRaw n b).flight = s.flight := rfl
@[simp] theorem State.setRaw_traps (s : State) (n : Nat) (b : Byte) : (s.setRaw n b).traps = s.traps := rfl
@[simp] theorem State.setRaw_cmds (s : State) (n : Nat) (b : Byte) : (s.setRaw n b).cmds = s.cmds := rfl
@[simp] theorem State.setRaw_reqs (s : State) (n : Nat) (b : Byte) : (s.setRaw n b).reqs = s.reqs := rfl
@[simp] theorem State.setRaw_contribs (s : State) (n : Nat) (b : Byte) : (s.setRaw n b).contribs = s.contribs := rfl
@[simp] theorem State.setRaw_mfwd (s : State) (n : Nat) (b : Byte) : (s.setRaw n b).mfwd = s.mfwd := rfl
@[simp] theorem State.setRaw_ring (s : State) (n : Nat) (b : Byte) : (s.setRaw n b).ring = s.ring := rfl
@[simp] theorem State.setRaw_ringCredit (s : State) (n : Nat) (b : Byte) : (s.setRaw n b).ringCredit = s.ringCredit := rfl
@[simp] theorem State.setRaw_ringDead (s : State) (n : Nat) (b : Byte) : (s.setRaw n b).ringDead = s.ringDead := rfl
@[simp] theorem State.setRaw_ringQ (s : State) (n : Nat) (b : Byte) : (s.setRaw n b).ringQ = s.ringQ := rfl
@[simp] theorem State.setRaw_mapReqs (s : State) (n : Nat) (b : Byte) : (s.setRaw n b).mapReqs = s.mapReqs := rfl
@[simp] theorem State.setRaw_lq (s : State) (n : Nat) (b : Byte) : (s.setRaw n b).lq = s.lq := rfl
@[simp] theorem State.setRaw_waiting (s : State) (n : Nat) (b : Byte) : (s.setRaw n b).waiting = s.waiting := rfl
@[simp] theorem State.setRaw_preemptReq (s : State) (n : Nat) (b : Byte) : (s.setRaw n b).preemptReq = s.preemptReq := rfl
@[simp] theorem State.setRaw_boothPre (s : State) (n : Nat) (b : Byte) : (s.setRaw n b).boothPre = s.boothPre := rfl
@[simp] theorem State.setRaw_victims (s : State) (n : Nat) (b : Byte) : (s.setRaw n b).victims = s.victims := rfl
@[simp] theorem State.setRaw_ageCtr (s : State) (n : Nat) (b : Byte) : (s.setRaw n b).ageCtr = s.ageCtr := rfl
@[simp] theorem State.setRaw_admitCtr (s : State) (n : Nat) (b : Byte) : (s.setRaw n b).admitCtr = s.admitCtr := rfl
@[simp] theorem State.setRaw_lastQ (s : State) (n : Nat) (b : Byte) : (s.setRaw n b).lastQ = s.lastQ := rfl
@[simp] theorem State.setRaw_pcie (s : State) (n : Nat) (b : Byte) : (s.setRaw n b).pcie = s.pcie := rfl
@[simp] theorem State.setRaw_owner (s : State) (n : Nat) (b : Byte) : (s.setRaw n b).owner = s.owner := rfl
@[simp] theorem State.setRaw_hbage (s : State) (n : Nat) (b : Byte) : (s.setRaw n b).hbage = s.hbage := rfl
@[simp] theorem State.setRaw_rptBase (s : State) (n : Nat) (b : Byte) : (s.setRaw n b).rptBase = s.rptBase := rfl
@[simp] theorem State.setRaw_rptLog2n (s : State) (n : Nat) (b : Byte) : (s.setRaw n b).rptLog2n = s.rptLog2n := rfl
@[simp] theorem State.setRaw_rptEn (s : State) (n : Nat) (b : Byte) : (s.setRaw n b).rptEn = s.rptEn := rfl
@[simp] theorem State.setRaw_rptProd (s : State) (n : Nat) (b : Byte) : (s.setRaw n b).rptProd = s.rptProd := rfl
@[simp] theorem State.setRaw_rptLost (s : State) (n : Nat) (b : Byte) : (s.setRaw n b).rptLost = s.rptLost := rfl
@[simp] theorem State.setRaw_rptCons (s : State) (n : Nat) (b : Byte) : (s.setRaw n b).rptCons = s.rptCons := rfl
@[simp] theorem State.setRaw_reports (s : State) (n : Nat) (b : Byte) : (s.setRaw n b).reports = s.reports := rfl
@[simp] theorem State.setRaw_rejects (s : State) (n : Nat) (b : Byte) : (s.setRaw n b).rejects = s.rejects := rfl
@[simp] theorem State.setRaw_rcq (s : State) (n : Nat) (b : Byte) : (s.setRaw n b).rcq = s.rcq := rfl
@[simp] theorem State.setRaw_backing (s : State) (n : Nat) (b : Byte) : (s.setRaw n b).backing = s.backing := rfl
@[simp] theorem State.setRaw_bootField (s : State) (n : Nat) (b : Byte) : (s.setRaw n b).bootField = s.bootField := rfl
@[simp] theorem State.setRaw_booted (s : State) (n : Nat) (b : Byte) : (s.setRaw n b).booted = s.booted := rfl
@[simp] theorem State.setRaw_bootCur (s : State) (n : Nat) (b : Byte) : (s.setRaw n b).bootCur = s.bootCur := rfl
@[simp] theorem State.setRaw_booting (s : State) (n : Nat) (b : Byte) : (s.setRaw n b).booting = s.booting := rfl
@[simp] theorem State.setRaw_romPass (s : State) (n : Nat) (b : Byte) : (s.setRaw n b).romPass = s.romPass := rfl
@[simp] theorem State.setRaw_bootNum (s : State) (n : Nat) (b : Byte) : (s.setRaw n b).bootNum = s.bootNum := rfl
@[simp] theorem State.setRaw_journal (s : State) (n : Nat) (b : Byte) : (s.setRaw n b).journal = s.journal := rfl
@[simp] theorem State.setRaw_clearPend (s : State) (n : Nat) (b : Byte) : (s.setRaw n b).clearPend = s.clearPend := rfl
@[simp] theorem State.setRaw_svnMin (s : State) (n : Nat) (b : Byte) : (s.setRaw n b).svnMin = s.svnMin := rfl
@[simp] theorem State.setRaw_fwSvn (s : State) (n : Nat) (b : Byte) : (s.setRaw n b).fwSvn = s.fwSvn := rfl
@[simp] theorem State.setRaw_fwOk (s : State) (n : Nat) (b : Byte) : (s.setRaw n b).fwOk = s.fwOk := rfl
@[simp] theorem State.setRaw_flash (s : State) (n : Nat) (b : Byte) : (s.setRaw n b).flash = s.flash := rfl
@[simp] theorem State.setRaw_keyRsa (s : State) (n : Nat) (b : Byte) : (s.setRaw n b).keyRsa = s.keyRsa := rfl
@[simp] theorem State.setRaw_keySlh (s : State) (n : Nat) (b : Byte) : (s.setRaw n b).keySlh = s.keySlh := rfl
@[simp] theorem State.setRaw_secret (s : State) (n : Nat) (b : Byte) : (s.setRaw n b).secret = s.secret := rfl
@[simp] theorem State.setRaw_rcvPort (s : State) (n : Nat) (b : Byte) : (s.setRaw n b).rcvPort = s.rcvPort := rfl
@[simp] theorem State.setRaw_rcvJclr (s : State) (n : Nat) (b : Byte) : (s.setRaw n b).rcvJclr = s.rcvJclr := rfl
@[simp] theorem State.setRaw_spdm (s : State) (n : Nat) (b : Byte) : (s.setRaw n b).spdm = s.spdm := rfl
@[simp] theorem State.setRaw_cfglog (s : State) (n : Nat) (b : Byte) : (s.setRaw n b).cfglog = s.cfglog := rfl
@[simp] theorem State.setRaw_ports (s : State) (n : Nat) (b : Byte) : (s.setRaw n b).ports = s.ports := rfl
@[simp] theorem State.setRaw_lasers (s : State) (n : Nat) (b : Byte) : (s.setRaw n b).lasers = s.lasers := rfl
@[simp] theorem State.setRaw_outbox (s : State) (n : Nat) (b : Byte) : (s.setRaw n b).outbox = s.outbox := rfl
@[simp] theorem State.setRaw_agenda (s : State) (n : Nat) (b : Byte) : (s.setRaw n b).agenda = s.agenda := rfl
@[simp] theorem State.setRaw_cur (s : State) (n : Nat) (b : Byte) : (s.setRaw n b).cur = s.cur := rfl
@[simp] theorem State.setRaw_freeCtr (s : State) (n : Nat) (b : Byte) : (s.setRaw n b).freeCtr = s.freeCtr := rfl

/-- `updPitch` changes the pitches alone. -/
theorem State.updPitch_eq (s : State) (a : Nat) (f : Pitch → Pitch) :
    s.updPitch a f = { s with pitches := (s.updPitch a f).pitches } := by
  unfold State.updPitch; (repeat' split) <;> rfl

@[simp] theorem State.updPitch_ready (s : State) (a : Nat) (f : Pitch → Pitch) : (s.updPitch a f).ready = s.ready := by rw [State.updPitch_eq]
@[simp] theorem State.updPitch_held (s : State) (a : Nat) (f : Pitch → Pitch) : (s.updPitch a f).held = s.held := by rw [State.updPitch_eq]
@[simp] theorem State.updPitch_last (s : State) (a : Nat) (f : Pitch → Pitch) : (s.updPitch a f).last = s.last := by rw [State.updPitch_eq]
@[simp] theorem State.updPitch_clusters (s : State) (a : Nat) (f : Pitch → Pitch) : (s.updPitch a f).clusters = s.clusters := by rw [State.updPitch_eq]
@[simp] theorem State.updPitch_tlbs (s : State) (a : Nat) (f : Pitch → Pitch) : (s.updPitch a f).tlbs = s.tlbs := by rw [State.updPitch_eq]
@[simp] theorem State.updPitch_fields (s : State) (a : Nat) (f : Pitch → Pitch) : (s.updPitch a f).fields = s.fields := by rw [State.updPitch_eq]
@[simp] theorem State.updPitch_mem (s : State) (a : Nat) (f : Pitch → Pitch) : (s.updPitch a f).mem = s.mem := by rw [State.updPitch_eq]
@[simp] theorem State.updPitch_owned (s : State) (a : Nat) (f : Pitch → Pitch) : (s.updPitch a f).owned = s.owned := by rw [State.updPitch_eq]
@[simp] theorem State.updPitch_dups (s : State) (a : Nat) (f : Pitch → Pitch) : (s.updPitch a f).dups = s.dups := by rw [State.updPitch_eq]
@[simp] theorem State.updPitch_flight (s : State) (a : Nat) (f : Pitch → Pitch) : (s.updPitch a f).flight = s.flight := by rw [State.updPitch_eq]
@[simp] theorem State.updPitch_traps (s : State) (a : Nat) (f : Pitch → Pitch) : (s.updPitch a f).traps = s.traps := by rw [State.updPitch_eq]
@[simp] theorem State.updPitch_cmds (s : State) (a : Nat) (f : Pitch → Pitch) : (s.updPitch a f).cmds = s.cmds := by rw [State.updPitch_eq]
@[simp] theorem State.updPitch_reqs (s : State) (a : Nat) (f : Pitch → Pitch) : (s.updPitch a f).reqs = s.reqs := by rw [State.updPitch_eq]
@[simp] theorem State.updPitch_contribs (s : State) (a : Nat) (f : Pitch → Pitch) : (s.updPitch a f).contribs = s.contribs := by rw [State.updPitch_eq]
@[simp] theorem State.updPitch_mfwd (s : State) (a : Nat) (f : Pitch → Pitch) : (s.updPitch a f).mfwd = s.mfwd := by rw [State.updPitch_eq]
@[simp] theorem State.updPitch_ring (s : State) (a : Nat) (f : Pitch → Pitch) : (s.updPitch a f).ring = s.ring := by rw [State.updPitch_eq]
@[simp] theorem State.updPitch_ringCredit (s : State) (a : Nat) (f : Pitch → Pitch) : (s.updPitch a f).ringCredit = s.ringCredit := by rw [State.updPitch_eq]
@[simp] theorem State.updPitch_ringDead (s : State) (a : Nat) (f : Pitch → Pitch) : (s.updPitch a f).ringDead = s.ringDead := by rw [State.updPitch_eq]
@[simp] theorem State.updPitch_ringQ (s : State) (a : Nat) (f : Pitch → Pitch) : (s.updPitch a f).ringQ = s.ringQ := by rw [State.updPitch_eq]
@[simp] theorem State.updPitch_mapReqs (s : State) (a : Nat) (f : Pitch → Pitch) : (s.updPitch a f).mapReqs = s.mapReqs := by rw [State.updPitch_eq]
@[simp] theorem State.updPitch_lq (s : State) (a : Nat) (f : Pitch → Pitch) : (s.updPitch a f).lq = s.lq := by rw [State.updPitch_eq]
@[simp] theorem State.updPitch_waiting (s : State) (a : Nat) (f : Pitch → Pitch) : (s.updPitch a f).waiting = s.waiting := by rw [State.updPitch_eq]
@[simp] theorem State.updPitch_preemptReq (s : State) (a : Nat) (f : Pitch → Pitch) : (s.updPitch a f).preemptReq = s.preemptReq := by rw [State.updPitch_eq]
@[simp] theorem State.updPitch_boothPre (s : State) (a : Nat) (f : Pitch → Pitch) : (s.updPitch a f).boothPre = s.boothPre := by rw [State.updPitch_eq]
@[simp] theorem State.updPitch_victims (s : State) (a : Nat) (f : Pitch → Pitch) : (s.updPitch a f).victims = s.victims := by rw [State.updPitch_eq]
@[simp] theorem State.updPitch_ageCtr (s : State) (a : Nat) (f : Pitch → Pitch) : (s.updPitch a f).ageCtr = s.ageCtr := by rw [State.updPitch_eq]
@[simp] theorem State.updPitch_admitCtr (s : State) (a : Nat) (f : Pitch → Pitch) : (s.updPitch a f).admitCtr = s.admitCtr := by rw [State.updPitch_eq]
@[simp] theorem State.updPitch_lastQ (s : State) (a : Nat) (f : Pitch → Pitch) : (s.updPitch a f).lastQ = s.lastQ := by rw [State.updPitch_eq]
@[simp] theorem State.updPitch_pcie (s : State) (a : Nat) (f : Pitch → Pitch) : (s.updPitch a f).pcie = s.pcie := by rw [State.updPitch_eq]
@[simp] theorem State.updPitch_owner (s : State) (a : Nat) (f : Pitch → Pitch) : (s.updPitch a f).owner = s.owner := by rw [State.updPitch_eq]
@[simp] theorem State.updPitch_hbage (s : State) (a : Nat) (f : Pitch → Pitch) : (s.updPitch a f).hbage = s.hbage := by rw [State.updPitch_eq]
@[simp] theorem State.updPitch_rptBase (s : State) (a : Nat) (f : Pitch → Pitch) : (s.updPitch a f).rptBase = s.rptBase := by rw [State.updPitch_eq]
@[simp] theorem State.updPitch_rptLog2n (s : State) (a : Nat) (f : Pitch → Pitch) : (s.updPitch a f).rptLog2n = s.rptLog2n := by rw [State.updPitch_eq]
@[simp] theorem State.updPitch_rptEn (s : State) (a : Nat) (f : Pitch → Pitch) : (s.updPitch a f).rptEn = s.rptEn := by rw [State.updPitch_eq]
@[simp] theorem State.updPitch_rptProd (s : State) (a : Nat) (f : Pitch → Pitch) : (s.updPitch a f).rptProd = s.rptProd := by rw [State.updPitch_eq]
@[simp] theorem State.updPitch_rptLost (s : State) (a : Nat) (f : Pitch → Pitch) : (s.updPitch a f).rptLost = s.rptLost := by rw [State.updPitch_eq]
@[simp] theorem State.updPitch_rptCons (s : State) (a : Nat) (f : Pitch → Pitch) : (s.updPitch a f).rptCons = s.rptCons := by rw [State.updPitch_eq]
@[simp] theorem State.updPitch_reports (s : State) (a : Nat) (f : Pitch → Pitch) : (s.updPitch a f).reports = s.reports := by rw [State.updPitch_eq]
@[simp] theorem State.updPitch_rejects (s : State) (a : Nat) (f : Pitch → Pitch) : (s.updPitch a f).rejects = s.rejects := by rw [State.updPitch_eq]
@[simp] theorem State.updPitch_rcq (s : State) (a : Nat) (f : Pitch → Pitch) : (s.updPitch a f).rcq = s.rcq := by rw [State.updPitch_eq]
@[simp] theorem State.updPitch_backing (s : State) (a : Nat) (f : Pitch → Pitch) : (s.updPitch a f).backing = s.backing := by rw [State.updPitch_eq]
@[simp] theorem State.updPitch_bootField (s : State) (a : Nat) (f : Pitch → Pitch) : (s.updPitch a f).bootField = s.bootField := by rw [State.updPitch_eq]
@[simp] theorem State.updPitch_booted (s : State) (a : Nat) (f : Pitch → Pitch) : (s.updPitch a f).booted = s.booted := by rw [State.updPitch_eq]
@[simp] theorem State.updPitch_bootCur (s : State) (a : Nat) (f : Pitch → Pitch) : (s.updPitch a f).bootCur = s.bootCur := by rw [State.updPitch_eq]
@[simp] theorem State.updPitch_booting (s : State) (a : Nat) (f : Pitch → Pitch) : (s.updPitch a f).booting = s.booting := by rw [State.updPitch_eq]
@[simp] theorem State.updPitch_romPass (s : State) (a : Nat) (f : Pitch → Pitch) : (s.updPitch a f).romPass = s.romPass := by rw [State.updPitch_eq]
@[simp] theorem State.updPitch_bootNum (s : State) (a : Nat) (f : Pitch → Pitch) : (s.updPitch a f).bootNum = s.bootNum := by rw [State.updPitch_eq]
@[simp] theorem State.updPitch_journal (s : State) (a : Nat) (f : Pitch → Pitch) : (s.updPitch a f).journal = s.journal := by rw [State.updPitch_eq]
@[simp] theorem State.updPitch_clearPend (s : State) (a : Nat) (f : Pitch → Pitch) : (s.updPitch a f).clearPend = s.clearPend := by rw [State.updPitch_eq]
@[simp] theorem State.updPitch_svnMin (s : State) (a : Nat) (f : Pitch → Pitch) : (s.updPitch a f).svnMin = s.svnMin := by rw [State.updPitch_eq]
@[simp] theorem State.updPitch_fwSvn (s : State) (a : Nat) (f : Pitch → Pitch) : (s.updPitch a f).fwSvn = s.fwSvn := by rw [State.updPitch_eq]
@[simp] theorem State.updPitch_fwOk (s : State) (a : Nat) (f : Pitch → Pitch) : (s.updPitch a f).fwOk = s.fwOk := by rw [State.updPitch_eq]
@[simp] theorem State.updPitch_flash (s : State) (a : Nat) (f : Pitch → Pitch) : (s.updPitch a f).flash = s.flash := by rw [State.updPitch_eq]
@[simp] theorem State.updPitch_keyRsa (s : State) (a : Nat) (f : Pitch → Pitch) : (s.updPitch a f).keyRsa = s.keyRsa := by rw [State.updPitch_eq]
@[simp] theorem State.updPitch_keySlh (s : State) (a : Nat) (f : Pitch → Pitch) : (s.updPitch a f).keySlh = s.keySlh := by rw [State.updPitch_eq]
@[simp] theorem State.updPitch_secret (s : State) (a : Nat) (f : Pitch → Pitch) : (s.updPitch a f).secret = s.secret := by rw [State.updPitch_eq]
@[simp] theorem State.updPitch_rcvPort (s : State) (a : Nat) (f : Pitch → Pitch) : (s.updPitch a f).rcvPort = s.rcvPort := by rw [State.updPitch_eq]
@[simp] theorem State.updPitch_rcvJclr (s : State) (a : Nat) (f : Pitch → Pitch) : (s.updPitch a f).rcvJclr = s.rcvJclr := by rw [State.updPitch_eq]
@[simp] theorem State.updPitch_spdm (s : State) (a : Nat) (f : Pitch → Pitch) : (s.updPitch a f).spdm = s.spdm := by rw [State.updPitch_eq]
@[simp] theorem State.updPitch_cfglog (s : State) (a : Nat) (f : Pitch → Pitch) : (s.updPitch a f).cfglog = s.cfglog := by rw [State.updPitch_eq]
@[simp] theorem State.updPitch_ports (s : State) (a : Nat) (f : Pitch → Pitch) : (s.updPitch a f).ports = s.ports := by rw [State.updPitch_eq]
@[simp] theorem State.updPitch_lasers (s : State) (a : Nat) (f : Pitch → Pitch) : (s.updPitch a f).lasers = s.lasers := by rw [State.updPitch_eq]
@[simp] theorem State.updPitch_outbox (s : State) (a : Nat) (f : Pitch → Pitch) : (s.updPitch a f).outbox = s.outbox := by rw [State.updPitch_eq]
@[simp] theorem State.updPitch_agenda (s : State) (a : Nat) (f : Pitch → Pitch) : (s.updPitch a f).agenda = s.agenda := by rw [State.updPitch_eq]
@[simp] theorem State.updPitch_cur (s : State) (a : Nat) (f : Pitch → Pitch) : (s.updPitch a f).cur = s.cur := by rw [State.updPitch_eq]
@[simp] theorem State.updPitch_freeCtr (s : State) (a : Nat) (f : Pitch → Pitch) : (s.updPitch a f).freeCtr = s.freeCtr := by rw [State.updPitch_eq]

/-- `updLC` changes the pitches alone. -/
theorem State.updLC_eq (s : State) (a l : Nat) (f : LCore → LCore) :
    s.updLC a l f = { s with pitches := (s.updLC a l f).pitches } := by
  unfold State.updLC; (repeat' split) <;> rfl

@[simp] theorem State.updLC_ready (s : State) (a l : Nat) (f : LCore → LCore) : (s.updLC a l f).ready = s.ready := by rw [State.updLC_eq]
@[simp] theorem State.updLC_held (s : State) (a l : Nat) (f : LCore → LCore) : (s.updLC a l f).held = s.held := by rw [State.updLC_eq]
@[simp] theorem State.updLC_last (s : State) (a l : Nat) (f : LCore → LCore) : (s.updLC a l f).last = s.last := by rw [State.updLC_eq]
@[simp] theorem State.updLC_clusters (s : State) (a l : Nat) (f : LCore → LCore) : (s.updLC a l f).clusters = s.clusters := by rw [State.updLC_eq]
@[simp] theorem State.updLC_tlbs (s : State) (a l : Nat) (f : LCore → LCore) : (s.updLC a l f).tlbs = s.tlbs := by rw [State.updLC_eq]
@[simp] theorem State.updLC_fields (s : State) (a l : Nat) (f : LCore → LCore) : (s.updLC a l f).fields = s.fields := by rw [State.updLC_eq]
@[simp] theorem State.updLC_mem (s : State) (a l : Nat) (f : LCore → LCore) : (s.updLC a l f).mem = s.mem := by rw [State.updLC_eq]
@[simp] theorem State.updLC_owned (s : State) (a l : Nat) (f : LCore → LCore) : (s.updLC a l f).owned = s.owned := by rw [State.updLC_eq]
@[simp] theorem State.updLC_dups (s : State) (a l : Nat) (f : LCore → LCore) : (s.updLC a l f).dups = s.dups := by rw [State.updLC_eq]
@[simp] theorem State.updLC_flight (s : State) (a l : Nat) (f : LCore → LCore) : (s.updLC a l f).flight = s.flight := by rw [State.updLC_eq]
@[simp] theorem State.updLC_traps (s : State) (a l : Nat) (f : LCore → LCore) : (s.updLC a l f).traps = s.traps := by rw [State.updLC_eq]
@[simp] theorem State.updLC_cmds (s : State) (a l : Nat) (f : LCore → LCore) : (s.updLC a l f).cmds = s.cmds := by rw [State.updLC_eq]
@[simp] theorem State.updLC_reqs (s : State) (a l : Nat) (f : LCore → LCore) : (s.updLC a l f).reqs = s.reqs := by rw [State.updLC_eq]
@[simp] theorem State.updLC_contribs (s : State) (a l : Nat) (f : LCore → LCore) : (s.updLC a l f).contribs = s.contribs := by rw [State.updLC_eq]
@[simp] theorem State.updLC_mfwd (s : State) (a l : Nat) (f : LCore → LCore) : (s.updLC a l f).mfwd = s.mfwd := by rw [State.updLC_eq]
@[simp] theorem State.updLC_ring (s : State) (a l : Nat) (f : LCore → LCore) : (s.updLC a l f).ring = s.ring := by rw [State.updLC_eq]
@[simp] theorem State.updLC_ringCredit (s : State) (a l : Nat) (f : LCore → LCore) : (s.updLC a l f).ringCredit = s.ringCredit := by rw [State.updLC_eq]
@[simp] theorem State.updLC_ringDead (s : State) (a l : Nat) (f : LCore → LCore) : (s.updLC a l f).ringDead = s.ringDead := by rw [State.updLC_eq]
@[simp] theorem State.updLC_ringQ (s : State) (a l : Nat) (f : LCore → LCore) : (s.updLC a l f).ringQ = s.ringQ := by rw [State.updLC_eq]
@[simp] theorem State.updLC_mapReqs (s : State) (a l : Nat) (f : LCore → LCore) : (s.updLC a l f).mapReqs = s.mapReqs := by rw [State.updLC_eq]
@[simp] theorem State.updLC_lq (s : State) (a l : Nat) (f : LCore → LCore) : (s.updLC a l f).lq = s.lq := by rw [State.updLC_eq]
@[simp] theorem State.updLC_waiting (s : State) (a l : Nat) (f : LCore → LCore) : (s.updLC a l f).waiting = s.waiting := by rw [State.updLC_eq]
@[simp] theorem State.updLC_preemptReq (s : State) (a l : Nat) (f : LCore → LCore) : (s.updLC a l f).preemptReq = s.preemptReq := by rw [State.updLC_eq]
@[simp] theorem State.updLC_boothPre (s : State) (a l : Nat) (f : LCore → LCore) : (s.updLC a l f).boothPre = s.boothPre := by rw [State.updLC_eq]
@[simp] theorem State.updLC_victims (s : State) (a l : Nat) (f : LCore → LCore) : (s.updLC a l f).victims = s.victims := by rw [State.updLC_eq]
@[simp] theorem State.updLC_ageCtr (s : State) (a l : Nat) (f : LCore → LCore) : (s.updLC a l f).ageCtr = s.ageCtr := by rw [State.updLC_eq]
@[simp] theorem State.updLC_admitCtr (s : State) (a l : Nat) (f : LCore → LCore) : (s.updLC a l f).admitCtr = s.admitCtr := by rw [State.updLC_eq]
@[simp] theorem State.updLC_lastQ (s : State) (a l : Nat) (f : LCore → LCore) : (s.updLC a l f).lastQ = s.lastQ := by rw [State.updLC_eq]
@[simp] theorem State.updLC_pcie (s : State) (a l : Nat) (f : LCore → LCore) : (s.updLC a l f).pcie = s.pcie := by rw [State.updLC_eq]
@[simp] theorem State.updLC_owner (s : State) (a l : Nat) (f : LCore → LCore) : (s.updLC a l f).owner = s.owner := by rw [State.updLC_eq]
@[simp] theorem State.updLC_hbage (s : State) (a l : Nat) (f : LCore → LCore) : (s.updLC a l f).hbage = s.hbage := by rw [State.updLC_eq]
@[simp] theorem State.updLC_rptBase (s : State) (a l : Nat) (f : LCore → LCore) : (s.updLC a l f).rptBase = s.rptBase := by rw [State.updLC_eq]
@[simp] theorem State.updLC_rptLog2n (s : State) (a l : Nat) (f : LCore → LCore) : (s.updLC a l f).rptLog2n = s.rptLog2n := by rw [State.updLC_eq]
@[simp] theorem State.updLC_rptEn (s : State) (a l : Nat) (f : LCore → LCore) : (s.updLC a l f).rptEn = s.rptEn := by rw [State.updLC_eq]
@[simp] theorem State.updLC_rptProd (s : State) (a l : Nat) (f : LCore → LCore) : (s.updLC a l f).rptProd = s.rptProd := by rw [State.updLC_eq]
@[simp] theorem State.updLC_rptLost (s : State) (a l : Nat) (f : LCore → LCore) : (s.updLC a l f).rptLost = s.rptLost := by rw [State.updLC_eq]
@[simp] theorem State.updLC_rptCons (s : State) (a l : Nat) (f : LCore → LCore) : (s.updLC a l f).rptCons = s.rptCons := by rw [State.updLC_eq]
@[simp] theorem State.updLC_reports (s : State) (a l : Nat) (f : LCore → LCore) : (s.updLC a l f).reports = s.reports := by rw [State.updLC_eq]
@[simp] theorem State.updLC_rejects (s : State) (a l : Nat) (f : LCore → LCore) : (s.updLC a l f).rejects = s.rejects := by rw [State.updLC_eq]
@[simp] theorem State.updLC_rcq (s : State) (a l : Nat) (f : LCore → LCore) : (s.updLC a l f).rcq = s.rcq := by rw [State.updLC_eq]
@[simp] theorem State.updLC_backing (s : State) (a l : Nat) (f : LCore → LCore) : (s.updLC a l f).backing = s.backing := by rw [State.updLC_eq]
@[simp] theorem State.updLC_bootField (s : State) (a l : Nat) (f : LCore → LCore) : (s.updLC a l f).bootField = s.bootField := by rw [State.updLC_eq]
@[simp] theorem State.updLC_booted (s : State) (a l : Nat) (f : LCore → LCore) : (s.updLC a l f).booted = s.booted := by rw [State.updLC_eq]
@[simp] theorem State.updLC_bootCur (s : State) (a l : Nat) (f : LCore → LCore) : (s.updLC a l f).bootCur = s.bootCur := by rw [State.updLC_eq]
@[simp] theorem State.updLC_booting (s : State) (a l : Nat) (f : LCore → LCore) : (s.updLC a l f).booting = s.booting := by rw [State.updLC_eq]
@[simp] theorem State.updLC_romPass (s : State) (a l : Nat) (f : LCore → LCore) : (s.updLC a l f).romPass = s.romPass := by rw [State.updLC_eq]
@[simp] theorem State.updLC_bootNum (s : State) (a l : Nat) (f : LCore → LCore) : (s.updLC a l f).bootNum = s.bootNum := by rw [State.updLC_eq]
@[simp] theorem State.updLC_journal (s : State) (a l : Nat) (f : LCore → LCore) : (s.updLC a l f).journal = s.journal := by rw [State.updLC_eq]
@[simp] theorem State.updLC_clearPend (s : State) (a l : Nat) (f : LCore → LCore) : (s.updLC a l f).clearPend = s.clearPend := by rw [State.updLC_eq]
@[simp] theorem State.updLC_svnMin (s : State) (a l : Nat) (f : LCore → LCore) : (s.updLC a l f).svnMin = s.svnMin := by rw [State.updLC_eq]
@[simp] theorem State.updLC_fwSvn (s : State) (a l : Nat) (f : LCore → LCore) : (s.updLC a l f).fwSvn = s.fwSvn := by rw [State.updLC_eq]
@[simp] theorem State.updLC_fwOk (s : State) (a l : Nat) (f : LCore → LCore) : (s.updLC a l f).fwOk = s.fwOk := by rw [State.updLC_eq]
@[simp] theorem State.updLC_flash (s : State) (a l : Nat) (f : LCore → LCore) : (s.updLC a l f).flash = s.flash := by rw [State.updLC_eq]
@[simp] theorem State.updLC_keyRsa (s : State) (a l : Nat) (f : LCore → LCore) : (s.updLC a l f).keyRsa = s.keyRsa := by rw [State.updLC_eq]
@[simp] theorem State.updLC_keySlh (s : State) (a l : Nat) (f : LCore → LCore) : (s.updLC a l f).keySlh = s.keySlh := by rw [State.updLC_eq]
@[simp] theorem State.updLC_secret (s : State) (a l : Nat) (f : LCore → LCore) : (s.updLC a l f).secret = s.secret := by rw [State.updLC_eq]
@[simp] theorem State.updLC_rcvPort (s : State) (a l : Nat) (f : LCore → LCore) : (s.updLC a l f).rcvPort = s.rcvPort := by rw [State.updLC_eq]
@[simp] theorem State.updLC_rcvJclr (s : State) (a l : Nat) (f : LCore → LCore) : (s.updLC a l f).rcvJclr = s.rcvJclr := by rw [State.updLC_eq]
@[simp] theorem State.updLC_spdm (s : State) (a l : Nat) (f : LCore → LCore) : (s.updLC a l f).spdm = s.spdm := by rw [State.updLC_eq]
@[simp] theorem State.updLC_cfglog (s : State) (a l : Nat) (f : LCore → LCore) : (s.updLC a l f).cfglog = s.cfglog := by rw [State.updLC_eq]
@[simp] theorem State.updLC_ports (s : State) (a l : Nat) (f : LCore → LCore) : (s.updLC a l f).ports = s.ports := by rw [State.updLC_eq]
@[simp] theorem State.updLC_lasers (s : State) (a l : Nat) (f : LCore → LCore) : (s.updLC a l f).lasers = s.lasers := by rw [State.updLC_eq]
@[simp] theorem State.updLC_outbox (s : State) (a l : Nat) (f : LCore → LCore) : (s.updLC a l f).outbox = s.outbox := by rw [State.updLC_eq]
@[simp] theorem State.updLC_agenda (s : State) (a l : Nat) (f : LCore → LCore) : (s.updLC a l f).agenda = s.agenda := by rw [State.updLC_eq]
@[simp] theorem State.updLC_cur (s : State) (a l : Nat) (f : LCore → LCore) : (s.updLC a l f).cur = s.cur := by rw [State.updLC_eq]
@[simp] theorem State.updLC_freeCtr (s : State) (a l : Nat) (f : LCore → LCore) : (s.updLC a l f).freeCtr = s.freeCtr := by rw [State.updLC_eq]

@[simp] theorem State.setPitch_pitch? (s : State) (a : Nat) (p : Pitch) : (s.setPitch a p).pitch? a = some p :=
  SMap.find_ins_self s.pitches a p

theorem State.setPitch_pitch?_ne (s : State) (a b : Nat) (p : Pitch) (h : b ≠ a) : (s.setPitch a p).pitch? b = s.pitch? b :=
  SMap.find_ins_ne s.pitches a b p h

@[simp] theorem State.setCluster_cluster (s : State) (k : Nat) (c : Cluster) : (s.setCluster k c).cluster k = c :=
  SMap.get_ins_self _ s.clusters k c

theorem State.setCluster_cluster_ne (s : State) (k j : Nat) (c : Cluster) (h : j ≠ k) :
    (s.setCluster k c).cluster j = s.cluster j := SMap.get_ins_ne _ s.clusters k j c h

@[simp] theorem State.updCluster_cluster (s : State) (k : Nat) (f : Cluster → Cluster) :
    (s.updCluster k f).cluster k = f (s.cluster k) := State.setCluster_cluster s k _

theorem State.updCluster_cluster_ne (s : State) (k j : Nat) (f : Cluster → Cluster) (h : j ≠ k) :
    (s.updCluster k f).cluster j = s.cluster j := State.setCluster_cluster_ne s k j _ h

@[simp] theorem State.setField_field (s : State) (i : Nat) (f : Field) : (s.setField i f).field i = f :=
  SMap.get_ins_self _ s.fields i f

theorem State.setField_field_ne (s : State) (i j : Nat) (f : Field) (h : j ≠ i) : (s.setField i f).field j = s.field j :=
  SMap.get_ins_ne _ s.fields i j f h

@[simp] theorem State.updField_field (s : State) (i : Nat) (f : Field → Field) : (s.updField i f).field i = f (s.field i) :=
  State.setField_field s i _

theorem State.updField_field_ne (s : State) (i j : Nat) (f : Field → Field) (h : j ≠ i) :
    (s.updField i f).field j = s.field j := State.setField_field_ne s i j _ h

/-- A pitch that is changed. -/
theorem State.updPitch_pitch? (s : State) (a : Nat) (f : Pitch → Pitch) (p : Pitch) (h : s.pitch? a = some p) :
    (s.updPitch a f).pitch? a = some (f p) := by
  unfold State.pitch? at h; unfold State.updPitch; rw [h]; exact State.setPitch_pitch? s a _

/-- A logical core that is changed. -/
theorem State.updLC_lc? (s : State) (a l : Nat) (f : LCore → LCore) (x : LCore) (h : s.lc? a l = some x) :
    (s.updLC a l f).lc? a l = some (f x) := by
  unfold State.lc? at h; unfold State.updLC
  split at h
  · simp at h
  · rename_i p hp
    rw [h]
    simp [State.lc?, State.setPitch, Pitch.setLC]

/-- A logical core beside the one that is changed. -/
theorem State.updLC_lc?_ne (s : State) (a l b m : Nat) (f : LCore → LCore) (h : b ≠ a ∨ m ≠ l) :
    (s.updLC a l f).lc? b m = s.lc? b m := by
  unfold State.updLC
  split
  · rfl
  · rename_i p hp
    split
    · rfl
    · by_cases hb : b = a
      · subst hb
        have hm : m ≠ l := by simpa using h
        simp [State.lc?, State.setPitch, Pitch.setLC, hp, SMap.find_ins_ne _ _ _ _ hm]
      · simp [State.lc?, State.setPitch, SMap.find_ins_ne _ _ _ _ hb]

end Sys2Proof.Machine
end

