-- ==== Sys2Proof/Tests/Slice0.lean ====
section
/-! SUPPORT. Tests of the model's own: decoding of words written out from the encoding tables, ill-formed records, single
steps on small states, and witnesses of the statements' hypotheses. -/
namespace Sys2Proof.Tests
open Sys2Proof.Machine

set_option Elab.async false

/-- A Format-D node. -/
def nd (t : ETyp) (a : Ary) (g : Tgo) (m : BitVec 3) (da db : Dest) (aa ab : Act) (l : Word) : Node :=
  { typ := t, ary := a, tgo := g, mod := m, dstA := da, dstB := db, actA := aa, actB := ab, lit := l }

/-- A Format-L node. -/
def nl (t : ETyp) (a : Ary) (g : Tgo) (m : BitVec 3) (da : Dest) (aa : Act) (l : BitVec 53) : NodeL :=
  { typ := t, ary := a, tgo := g, mod := m, dstA := da, actA := aa, lit := l }

/-- Whether the records of each row decode to its instruction, which is well-formed and encodes as them. -/
def decodes (l : List (List Rec × Instr)) : Bool :=
  l.all (fun e => WellFormed e.2 && encode e.2 == e.1 && (match decodeList e.1 with | .ok i => i == e.2 | .error _ => false))

/-- The flow group, from 02 Tables 1 and 9. -/
theorem test_decode_flow : decodes [
    ([0x002021000B81FF9900000000], .pass (nd .e5m2 .mono .inc 0 (.node 5 true) (.route 1023) .sticky .assoc 0x0)),
    ([0x006121000B81FF9900000000], .steer (nd .e5m2 .dyad .inc 0 (.node 5 true) (.route 1023) .sticky .assoc 0x0)),
    ([0x00A021000B81FF9900000000], .merge (nd .e5m2 .mono .inc 0 (.node 5 true) (.route 1023) .sticky .assoc 0x0)),
    ([0x00E021000B81FF9900000000], .mergec (nd .e5m2 .mono .inc 0 (.node 5 true) (.route 1023) .sticky .assoc 0x0)),
    ([0x012121000B81FF9900000000], .gate (nd .e5m2 .dyad .inc 0 (.node 5 true) (.route 1023) .sticky .assoc 0x0)),
    ([0x016121000B81FF9900000000], .sync (nd .e5m2 .dyad .inc 0 (.node 5 true) (.route 1023) .sticky .assoc 0x0)),
    ([0x01A001000B81FF9900005678], .lenter (nd .e5m2 .mono .keep 0 (.node 5 true) (.route 1023) .sticky .assoc 0x5678)),
    ([0x01E001000B81FF9900000000], .lnext (nd .e5m2 .mono .keep 0 (.node 5 true) (.route 1023) .sticky .assoc 0x0)),
    ([0x022001000B81FF9900000000], .lexit (nd .e5m2 .mono .keep 0 (.node 5 true) (.route 1023) .sticky .assoc 0x0)),
    ([0x026021000B81FF9900005678], .lbound (nd .e5m2 .mono .inc 0 (.node 5 true) (.route 1023) .sticky .assoc 0x5678)),
    ([0x02A021000B81FF9900000000], .ldone (nd .e5m2 .mono .inc 0 (.node 5 true) (.route 1023) .sticky .assoc 0x0)),
    ([0x02E001000B81FF9900030005], .call (nd .e5m2 .mono .keep 0 (.node 5 true) (.route 1023) .sticky .assoc 0x30005)),
    ([0x032000000000000000000000], .ret (nd .e5m2 .mono .keep 0 .none .none .pass .pass 0x0)),
    ([0x036000000000000000000000], .cfree (nd .e5m2 .mono .keep 0 .none .none .pass .pass 0x0)),
    ([0x03A021000B81FF9900000018], .tagget (nd .e5m2 .mono .inc 0 (.node 5 true) (.route 1023) .sticky .assoc 0x18)),
    ([0x03E101000B00001800000000], .tagset (nl .e5m2 .dyad .keep 0 (.node 5 true) .sticky 0x0)),
    ([0x042021000B81FF9900000008], .eos (nd .e5m2 .mono .inc 0 (.node 5 true) (.route 1023) .sticky .assoc 0x8)),
    ([0x046021000B81FF9900345608], .sink (nd .e5m2 .mono .inc 0 (.node 5 true) (.route 1023) .sticky .assoc 0x345608)),
    ([0x04A021000B81FF9900001678], .purge (nd .e5m2 .mono .inc 0 (.node 5 true) (.route 1023) .sticky .assoc 0x1678)),
    ([0x04E023002A00000000005678], .trap (nd .e5m2 .mono .inc 0 .trap .none .pass .pass 0x5678)),
    ([0x052121000B81FF9900005678], .brk (nd .e5m2 .dyad .inc 0 (.node 5 true) (.route 1023) .sticky .assoc 0x5678)),
    ([0x056023002881FF8100005678], .event (nd .e5m2 .mono .inc 0 .event (.route 1023) .pass .assoc 0x5678)),
    ([0x05A021000B81FF990000001A, 0xFFC000000000000023456789, 0xFFC000000000000000002345], .launch (nd .e5m2 .mono .inc 0 (.node 5 true) (.route 1023) .sticky .assoc 0x1A) 0x23456789 0x2345)] = true := by decide +kernel

/-- The lane group, from 02 Tables 1 and 9. -/
theorem test_decode_lane : decodes [
    ([0x102001000B81FF9900030005], .ctxalloc (nd .e5m2 .mono .keep 0 (.node 5 true) (.route 1023) .sticky .assoc 0x30005)),
    ([0x106021000B81FF9900000000], .ctxfree (nd .e5m2 .mono .inc 0 (.node 5 true) (.route 1023) .sticky .assoc 0x0)),
    ([0x10A121000B81FF990000005A], .pack (nd .e5m2 .dyad .inc 0 (.node 5 true) (.route 1023) .sticky .assoc 0x5A)),
    ([0x10E021000B81FF990000001A], .unpack (nd .e5m2 .mono .inc 0 (.node 5 true) (.route 1023) .sticky .assoc 0x1A)),
    ([0x112021000B81FF990000025A], .bcast (nd .e5m2 .mono .inc 0 (.node 5 true) (.route 1023) .sticky .assoc 0x25A)),
    ([0x116121000B81FF9900000000], .shuf (nd .e5m2 .dyad .inc 0 (.node 5 true) (.route 1023) .sticky .assoc 0x0)),
    ([0x11A121000B81FF9900000000], .lget (nd .e5m2 .dyad .inc 0 (.node 5 true) (.route 1023) .sticky .assoc 0x0)),
    ([0x11E121000B81FF9900000640], .lput (nd .e5m2 .dyad .inc 0 (.node 5 true) (.route 1023) .sticky .assoc 0x640)),
    ([0x121029000B81FF9900000000], .lred (nd .f32 .mono .inc 2 (.node 5 true) (.route 1023) .sticky .assoc 0x0)),
    ([0x125029000B81FF9900000000], .lscan (nd .f32 .mono .inc 2 (.node 5 true) (.route 1023) .sticky .assoc 0x0)),
    ([0x12A021000B81FF990000001A], .width (nd .e5m2 .mono .inc 0 (.node 5 true) (.route 1023) .sticky .assoc 0x1A))] = true := by decide +kernel

/-- The integer group, from 02 Tables 1 and 9. -/
theorem test_decode_integer : decodes [
    ([0x200D21000B81FF9900000000], .iadd (nd .n64 .dyad .inc 0 (.node 5 true) (.route 1023) .sticky .assoc 0x0)),
    ([0x204D21000B81FF9900000000], .isub (nd .n64 .dyad .inc 0 (.node 5 true) (.route 1023) .sticky .assoc 0x0)),
    ([0x208D21000B81FF9900000000], .iadds (nd .n64 .dyad .inc 0 (.node 5 true) (.route 1023) .sticky .assoc 0x0)),
    ([0x20CD21000B81FF9900000000], .isubs (nd .n64 .dyad .inc 0 (.node 5 true) (.route 1023) .sticky .assoc 0x0)),
    ([0x210D21000B81FF9900000000], .imul (nd .n64 .dyad .inc 0 (.node 5 true) (.route 1023) .sticky .assoc 0x0)),
    ([0x214D21000B81FF9900000000], .imulh (nd .n64 .dyad .inc 0 (.node 5 true) (.route 1023) .sticky .assoc 0x0)),
    ([0x218D21000B81FF9900000640], .imad (nd .n64 .dyad .inc 0 (.node 5 true) (.route 1023) .sticky .assoc 0x640)),
    ([0x21CD21000B81FF9900000000], .idiv (nd .n64 .dyad .inc 0 (.node 5 true) (.route 1023) .sticky .assoc 0x0)),
    ([0x220D21000B81FF9900000000], .irem (nd .n64 .dyad .inc 0 (.node 5 true) (.route 1023) .sticky .assoc 0x0)),
    ([0x224D21000B81FF9900000000], .imin (nd .n64 .dyad .inc 0 (.node 5 true) (.route 1023) .sticky .assoc 0x0)),
    ([0x228D21000B81FF9900000000], .imax (nd .n64 .dyad .inc 0 (.node 5 true) (.route 1023) .sticky .assoc 0x0)),
    ([0x22C821000B81FF9900000000], .iabs (nd .i64 .mono .inc 0 (.node 5 true) (.route 1023) .sticky .assoc 0x0)),
    ([0x230C21000B81FF9900000000], .ineg (nd .n64 .mono .inc 0 (.node 5 true) (.route 1023) .sticky .assoc 0x0)),
    ([0x234D21000B81FF9900000000], .and (nd .n64 .dyad .inc 0 (.node 5 true) (.route 1023) .sticky .assoc 0x0)),
    ([0x238D21000B81FF9900000000], .or (nd .n64 .dyad .inc 0 (.node 5 true) (.route 1023) .sticky .assoc 0x0)),
    ([0x23CD21000B81FF9900000000], .xor (nd .n64 .dyad .inc 0 (.node 5 true) (.route 1023) .sticky .assoc 0x0)),
    ([0x240D21000B81FF9900000000], .andn (nd .n64 .dyad .inc 0 (.node 5 true) (.route 1023) .sticky .assoc 0x0)),
    ([0x244D21000B81FF9900000000], .orn (nd .n64 .dyad .inc 0 (.node 5 true) (.route 1023) .sticky .assoc 0x0)),
    ([0x248D21000B81FF9900000000], .shl (nd .n64 .dyad .inc 0 (.node 5 true) (.route 1023) .sticky .assoc 0x0)),
    ([0x24CD21000B81FF9900000000], .shr (nd .n64 .dyad .inc 0 (.node 5 true) (.route 1023) .sticky .assoc 0x0)),
    ([0x250D21000B81FF9900000000], .sar (nd .n64 .dyad .inc 0 (.node 5 true) (.route 1023) .sticky .assoc 0x0)),
    ([0x254D21000B81FF9900000000], .rol (nd .n64 .dyad .inc 0 (.node 5 true) (.route 1023) .sticky .assoc 0x0)),
    ([0x258C21000B81FF9900000000], .clz (nd .n64 .mono .inc 0 (.node 5 true) (.route 1023) .sticky .assoc 0x0)),
    ([0x25CC21000B81FF9900000000], .ctz (nd .n64 .mono .inc 0 (.node 5 true) (.route 1023) .sticky .assoc 0x0)),
    ([0x260C21000B81FF9900000000], .popc (nd .n64 .mono .inc 0 (.node 5 true) (.route 1023) .sticky .assoc 0x0)),
    ([0x264C21000B81FF9900000000], .brev (nd .n64 .mono .inc 0 (.node 5 true) (.route 1023) .sticky .assoc 0x0)),
    ([0x268C21000B81FF99000003A5], .bfx (nd .n64 .mono .inc 0 (.node 5 true) (.route 1023) .sticky .assoc 0x3A5)),
    ([0x26CD21000B81FF99000003A5], .bfi (nd .n64 .dyad .inc 0 (.node 5 true) (.route 1023) .sticky .assoc 0x3A5)),
    ([0x270D35000B81FF9900000000], .icmp (nd .n64 .dyad .inc 5 (.node 5 true) (.route 1023) .sticky .assoc 0x0)),
    ([0x276121000B81FF9900001600], .sel (nd .e5m2 .dyad .inc 0 (.node 5 true) (.route 1023) .sticky .assoc 0x1600)),
    ([0x278C21000B00001812345678], .lit (nl .n64 .mono .inc 0 (.node 5 true) .sticky 0x12345678)),
    ([0x27CD21000B00001812345678], .aadr (nl .n64 .dyad .inc 0 (.node 5 true) .sticky 0x12345678)),
    ([0x280C25000B81FF9900000000], .cvti (nd .n64 .mono .inc 1 (.node 5 true) (.route 1023) .sticky .assoc 0x0))] = true := by decide +kernel

/-- The float group, from 02 Tables 1 and 9. -/
theorem test_decode_float : decodes [
    ([0x40152D000B81FF9900000000], .fadd (nd .bf16 .dyad .inc 3 (.node 5 true) (.route 1023) .sticky .assoc 0x0)),
    ([0x40552D000B81FF9900000000], .fsub (nd .bf16 .dyad .inc 3 (.node 5 true) (.route 1023) .sticky .assoc 0x0)),
    ([0x40952D000B81FF9900000000], .fmul (nd .bf16 .dyad .inc 3 (.node 5 true) (.route 1023) .sticky .assoc 0x0)),
    ([0x40D12D000B81FF9900000000], .fdiv (nd .f32 .dyad .inc 3 (.node 5 true) (.route 1023) .sticky .assoc 0x0)),
    ([0x41152D000B81FF9900000000], .fma (nd .bf16 .dyad .inc 3 (.node 5 true) (.route 1023) .sticky .assoc 0x0)),
    ([0x41552D000B81FF9900000000], .fms (nd .bf16 .dyad .inc 3 (.node 5 true) (.route 1023) .sticky .assoc 0x0)),
    ([0x41952D000B81FF9900000000], .fnma (nd .bf16 .dyad .inc 3 (.node 5 true) (.route 1023) .sticky .assoc 0x0)),
    ([0x41D52D000B81FF9900000000], .fmin (nd .bf16 .dyad .inc 3 (.node 5 true) (.route 1023) .sticky .assoc 0x0)),
    ([0x42152D000B81FF9900000000], .fmax (nd .bf16 .dyad .inc 3 (.node 5 true) (.route 1023) .sticky .assoc 0x0)),
    ([0x42552D000B81FF9900000000], .fminn (nd .bf16 .dyad .inc 3 (.node 5 true) (.route 1023) .sticky .assoc 0x0)),
    ([0x42952D000B81FF9900000000], .fmaxn (nd .bf16 .dyad .inc 3 (.node 5 true) (.route 1023) .sticky .assoc 0x0)),
    ([0x42D42D000B81FF9900000000], .fabs (nd .bf16 .mono .inc 3 (.node 5 true) (.route 1023) .sticky .assoc 0x0)),
    ([0x43142D000B81FF9900000000], .fneg (nd .bf16 .mono .inc 3 (.node 5 true) (.route 1023) .sticky .assoc 0x0)),
    ([0x43552D000B81FF9900000000], .fcpsgn (nd .bf16 .dyad .inc 3 (.node 5 true) (.route 1023) .sticky .assoc 0x0)),
    ([0x439535000B81FF9900000008], .fcmp (nd .bf16 .dyad .inc 5 (.node 5 true) (.route 1023) .sticky .assoc 0x8)),
    ([0x43D421000B81FF9900000000], .fclass (nd .bf16 .mono .inc 0 (.node 5 true) (.route 1023) .sticky .assoc 0x0)),
    ([0x44102D000B81FF9900000000], .fsqrt (nd .f32 .mono .inc 3 (.node 5 true) (.route 1023) .sticky .assoc 0x0)),
    ([0x44502D000B81FF9900000000], .frsq (nd .f32 .mono .inc 3 (.node 5 true) (.route 1023) .sticky .assoc 0x0)),
    ([0x44902D000B81FF9900000000], .frcp (nd .f32 .mono .inc 3 (.node 5 true) (.route 1023) .sticky .assoc 0x0)),
    ([0x44D02D000B81FF9900000000], .fexp (nd .f32 .mono .inc 3 (.node 5 true) (.route 1023) .sticky .assoc 0x0)),
    ([0x45102D000B81FF9900000000], .fexp2 (nd .f32 .mono .inc 3 (.node 5 true) (.route 1023) .sticky .assoc 0x0)),
    ([0x45502D000B81FF9900000000], .flog (nd .f32 .mono .inc 3 (.node 5 true) (.route 1023) .sticky .assoc 0x0)),
    ([0x45902D000B81FF9900000000], .flog2 (nd .f32 .mono .inc 3 (.node 5 true) (.route 1023) .sticky .assoc 0x0)),
    ([0x45D02D000B81FF9900000000], .fsin (nd .f32 .mono .inc 3 (.node 5 true) (.route 1023) .sticky .assoc 0x0)),
    ([0x46102D000B81FF9900000000], .fcos (nd .f32 .mono .inc 3 (.node 5 true) (.route 1023) .sticky .assoc 0x0)),
    ([0x46502D000B81FF9900000000], .fsincos (nd .f32 .mono .inc 3 (.node 5 true) (.route 1023) .sticky .assoc 0x0)),
    ([0x46902D000B81FF9900000000], .ftanh (nd .f32 .mono .inc 3 (.node 5 true) (.route 1023) .sticky .assoc 0x0)),
    ([0x46D02D000B81FF9900000000], .fsigm (nd .f32 .mono .inc 3 (.node 5 true) (.route 1023) .sticky .assoc 0x0)),
    ([0x47102D000B81FF9900000000], .ferf (nd .f32 .mono .inc 3 (.node 5 true) (.route 1023) .sticky .assoc 0x0)),
    ([0x47502D000B81FF9900000000], .frnd (nd .f32 .mono .inc 3 (.node 5 true) (.route 1023) .sticky .assoc 0x0)),
    ([0x47912D000B81FF9900000000], .fscale (nd .f32 .dyad .inc 3 (.node 5 true) (.route 1023) .sticky .assoc 0x0)),
    ([0x47E035000B81FF9900000078], .fcvt (nd .e5m2 .mono .inc 5 (.node 5 true) (.route 1023) .sticky .assoc 0x78)),
    ([0x482035000B81FF9900000000], .fquant (nd .e5m2 .mono .inc 5 (.node 5 true) (.route 1023) .sticky .assoc 0x0)),
    ([0x48602D000B81FF9900000005], .fdeq (nd .e5m2 .mono .inc 3 (.node 5 true) (.route 1023) .sticky .assoc 0x5))] = true := by decide +kernel

/-- The jet group, from 02 Tables 1 and 9. -/
theorem test_decode_jet : decodes [
    ([0x602021000B81FF9900000000], .jord (nd .e5m2 .mono .inc 0 (.node 5 true) (.route 1023) .sticky .assoc 0x0)),
    ([0x605121000B81FF9900000640], .jseed (nd .f32 .dyad .inc 0 (.node 5 true) (.route 1023) .sticky .assoc 0x640)),
    ([0x609021000B81FF9900000640], .jconst (nd .f32 .mono .inc 0 (.node 5 true) (.route 1023) .sticky .assoc 0x640)),
    ([0x60D02D000B81FF9900000240], .jget (nd .f32 .mono .inc 3 (.node 5 true) (.route 1023) .sticky .assoc 0x240)),
    ([0x61112D000B81FF9900000240], .jput (nd .f32 .dyad .inc 3 (.node 5 true) (.route 1023) .sticky .assoc 0x240)),
    ([0x61502D000B81FF9900000000], .jdiff (nd .f32 .mono .inc 3 (.node 5 true) (.route 1023) .sticky .assoc 0x0)),
    ([0x619121000B81FF9900000000], .jintg (nd .f32 .dyad .inc 0 (.node 5 true) (.route 1023) .sticky .assoc 0x0)),
    ([0x61D021000B81FF9900000040], .jtrunc (nd .f32 .mono .inc 0 (.node 5 true) (.route 1023) .sticky .assoc 0x40)),
    ([0x622021000B81FF9900000000], .jflag (nd .e5m2 .mono .inc 0 (.node 5 true) (.route 1023) .sticky .assoc 0x0))] = true := by decide +kernel

/-- The accumulator group, from 02 Tables 1 and 9. -/
theorem test_decode_accumulator : decodes [
    ([0x70102D000B81FF9912345608], .accinit (nd .f32 .mono .inc 3 (.node 5 true) (.route 1023) .sticky .assoc 0x12345608)),
    ([0x70502D000B81FF9900000008], .accadd (nd .f32 .mono .inc 3 (.node 5 true) (.route 1023) .sticky .assoc 0x8)),
    ([0x709025000B81FF9900000008], .accmax (nd .f32 .mono .inc 1 (.node 5 true) (.route 1023) .sticky .assoc 0x8)),
    ([0x70D025000B81FF9900000008], .accmin (nd .f32 .mono .inc 1 (.node 5 true) (.route 1023) .sticky .assoc 0x8)),
    ([0x712021000B81FF9900000141], .accrd (nd .e5m2 .mono .inc 0 (.node 5 true) (.route 1023) .sticky .assoc 0x141)),
    ([0x716021000B81FF9900000678], .krd (nd .e5m2 .mono .inc 0 (.node 5 true) (.route 1023) .sticky .assoc 0x678)),
    ([0x71A021000B81FF9900000038], .kwr (nd .e5m2 .mono .inc 0 (.node 5 true) (.route 1023) .sticky .assoc 0x38)),
    ([0x71E021000B81FF9900000005], .csrrd (nd .e5m2 .mono .inc 0 (.node 5 true) (.route 1023) .sticky .assoc 0x5)),
    ([0x722025000B81FF9900000102], .csrwr (nd .e5m2 .mono .inc 1 (.node 5 true) (.route 1023) .sticky .assoc 0x102))] = true := by decide +kernel

/-- The matrix group, from 02 Tables 1 and 9. -/
theorem test_decode_matrix : decodes [
    ([0x80012F002081FF8100000005], .wload (nd .i32 .dyad .inc 3 .mx (.route 1023) .pass .assoc 0x5)),
    ([0x80412F002081FF8100001678], .wloadx (nd .i32 .dyad .inc 3 .mx (.route 1023) .pass .assoc 0x1678)),
    ([0x80812F002081FF8100000000], .wswap (nd .i32 .dyad .inc 3 .mx (.route 1023) .pass .assoc 0x0)),
    ([0x80C12F002081FF8100030005, 0xFFC000000000000041000080], .mma (nd .i32 .dyad .inc 3 .mx (.route 1023) .pass .assoc 0x30005) 0x41000080),
    ([0x81012F002081FF8100030005, 0xFFC00000000000C001000080], .mmaj (nd .i32 .dyad .inc 3 .mx (.route 1023) .pass .assoc 0x30005) 0xC001000080),
    ([0x81412F002081FF8100A060E2, 0xFFC000000000000001000080, 0xFFC000000000000000002345], .mmax (nd .i32 .dyad .inc 3 .mx (.route 1023) .pass .assoc 0xA060E2) 0x1000080 0x2345),
    ([0x81812F002081FF8100005678], .apzero (nd .i32 .dyad .inc 3 .mx (.route 1023) .pass .assoc 0x5678)),
    ([0x81C137002081FF8102345678], .apmv (nd .i32 .dyad .inc 5 .mx (.route 1023) .pass .assoc 0x2345678)),
    ([0x820123002081FF8100000078], .appeek (nd .i32 .dyad .inc 0 .mx (.route 1023) .pass .assoc 0x78)),
    ([0x824021000B81FF9900000000], .jobpoll (nd .i32 .mono .inc 0 (.node 5 true) (.route 1023) .sticky .assoc 0x0)),
    ([0x828021000B81FF9900000000], .jobwait (nd .i32 .mono .inc 0 (.node 5 true) (.route 1023) .sticky .assoc 0x0))] = true := by decide +kernel

/-- The memory group, from 02 Tables 1 and 9. -/
theorem test_decode_memory : decodes [
    ([0x90202D000B81FF9912345678], .ld (nd .e5m2 .mono .inc 3 (.node 5 true) (.route 1023) .sticky .assoc 0x12345678)),
    ([0x90612D000B81FF9902345678], .st (nd .e5m2 .dyad .inc 3 (.node 5 true) (.route 1023) .sticky .assoc 0x2345678)),
    ([0x90A02D000B81FF9912345678], .ldg (nd .e5m2 .mono .inc 3 (.node 5 true) (.route 1023) .sticky .assoc 0x12345678)),
    ([0x90E12D000B81FF9902345678], .sts (nd .e5m2 .dyad .inc 3 (.node 5 true) (.route 1023) .sticky .assoc 0x2345678)),
    ([0x91202D000B81FF9912345678, 0xFFC00000000000C001000080], .strm (nd .e5m2 .mono .inc 3 (.node 5 true) (.route 1023) .sticky .assoc 0x12345678) 0xC001000080),
    ([0x91602D000B81FF9902345678, 0xFFC00000000000C001000080], .strmst (nd .e5m2 .mono .inc 3 (.node 5 true) (.route 1023) .sticky .assoc 0x2345678) 0xC001000080),
    ([0x91A02D000B81FF9902345678], .pref (nd .e5m2 .mono .inc 3 (.node 5 true) (.route 1023) .sticky .assoc 0x2345678)),
    ([0x91E021000B81FF9900500803], .tld (nd .e5m2 .mono .inc 0 (.node 5 true) (.route 1023) .sticky .assoc 0x500803)),
    ([0x922121000B81FF9900030005], .tst (nd .e5m2 .dyad .inc 0 (.node 5 true) (.route 1023) .sticky .assoc 0x30005))] = true := by decide +kernel

/-- The atomic group, from 02 Tables 1 and 9. -/
theorem test_decode_atomic : decodes [
    ([0xA00D2D000B81FF9912345678], .aadd (nd .n64 .dyad .inc 3 (.node 5 true) (.route 1023) .sticky .assoc 0x12345678)),
    ([0xA0512D000B81FF9912345678], .afadd (nd .f32 .dyad .inc 3 (.node 5 true) (.route 1023) .sticky .assoc 0x12345678)),
    ([0xA08D2D000B81FF9912345678], .amin (nd .n64 .dyad .inc 3 (.node 5 true) (.route 1023) .sticky .assoc 0x12345678)),
    ([0xA0CD2D000B81FF9912345678], .amax (nd .n64 .dyad .inc 3 (.node 5 true) (.route 1023) .sticky .assoc 0x12345678)),
    ([0xA10D2D000B81FF9912345678], .aand (nd .n64 .dyad .inc 3 (.node 5 true) (.route 1023) .sticky .assoc 0x12345678)),
    ([0xA14D2D000B81FF9912345678], .aor (nd .n64 .dyad .inc 3 (.node 5 true) (.route 1023) .sticky .assoc 0x12345678)),
    ([0xA18D2D000B81FF9912345678], .axor (nd .n64 .dyad .inc 3 (.node 5 true) (.route 1023) .sticky .assoc 0x12345678)),
    ([0xA1CD2D000B81FF9912345678], .axchg (nd .n64 .dyad .inc 3 (.node 5 true) (.route 1023) .sticky .assoc 0x12345678)),
    ([0xA20D2D000B81FF9912345678], .acas (nd .n64 .dyad .inc 3 (.node 5 true) (.route 1023) .sticky .assoc 0x12345678)),
    ([0xA24D2D000B81FF9912345678], .aincb (nd .n64 .dyad .inc 3 (.node 5 true) (.route 1023) .sticky .assoc 0x12345678)),
    ([0xA2A02D000B81FF9902345678], .fence (nd .e5m2 .mono .inc 3 (.node 5 true) (.route 1023) .sticky .assoc 0x2345678))] = true := by decide +kernel

/-- The copy group, from 02 Tables 1 and 9. -/
theorem test_decode_copy : decodes [
    ([0xB0202F002281FF8100000091, 0xFFC000000000400000000000], .cpy (nd .e5m2 .mono .inc 3 .cu (.route 1023) .pass .assoc 0x91) 0x400000000000),
    ([0xB06037002281FF8100000010, 0xFFC000000000400000000000], .cpyd (nd .e5m2 .mono .inc 5 .cu (.route 1023) .pass .assoc 0x10) 0x400000000000),
    ([0xB0A037002281FF8100000091, 0xFFC000000000400000000000], .cpye (nd .e5m2 .mono .inc 5 .cu (.route 1023) .pass .assoc 0x91) 0x400000000000),
    ([0xB0E02F002281FF8100000014, 0xFFC0000000004000D00A0123, 0xFFC000000000000000002345], .mcast (nd .e5m2 .mono .inc 3 .cu (.route 1023) .pass .assoc 0x14) 0x4000D00A0123 0x2345),
    ([0xB1202F002281FF8100000010, 0xFFC000010000400000000000], .gath (nd .e5m2 .mono .inc 3 .cu (.route 1023) .pass .assoc 0x10) 0x10000400000000000),
    ([0xB1602F002281FF8100000091, 0xFFC000010000400000000000], .scat (nd .e5m2 .mono .inc 3 .cu (.route 1023) .pass .assoc 0x91) 0x10000400000000000),
    ([0xB1A02F002281FF8100000005], .tfill (nd .e5m2 .mono .inc 3 .cu (.route 1023) .pass .assoc 0x5)),
    ([0xB1E037002281FF8100000005], .tevict (nd .e5m2 .mono .inc 5 .cu (.route 1023) .pass .assoc 0x5)),
    ([0xB2202F002281FF8100000678], .tinv (nd .e5m2 .mono .inc 3 .cu (.route 1023) .pass .assoc 0x678))] = true := by decide +kernel

/-- The table group, from 02 Tables 1 and 9. -/
theorem test_decode_table : decodes [
    ([0xC02021000B81FF9900000018], .lookup (nd .e5m2 .mono .inc 0 (.node 5 true) (.route 1023) .sticky .assoc 0x18)),
    ([0xC06021000B81FF990000001A], .tstate (nd .e5m2 .mono .inc 0 (.node 5 true) (.route 1023) .sticky .assoc 0x1A)),
    ([0xC0A021000B81FF9900000038], .tset (nd .e5m2 .mono .inc 0 (.node 5 true) (.route 1023) .sticky .assoc 0x38)),
    ([0xC0E121000B81FF9900000000], .rtrd (nd .e5m2 .dyad .inc 0 (.node 5 true) (.route 1023) .sticky .assoc 0x0)),
    ([0xC12121000B81FF9900000000], .rtwr (nd .e5m2 .dyad .inc 0 (.node 5 true) (.route 1023) .sticky .assoc 0x0)),
    ([0xC16021000B81FF9900000678], .maprd (nd .e5m2 .mono .inc 0 (.node 5 true) (.route 1023) .sticky .assoc 0x678)),
    ([0xC1A121000B81FF9900000000], .bandrd (nd .e5m2 .dyad .inc 0 (.node 5 true) (.route 1023) .sticky .assoc 0x0)),
    ([0xC1E023002481FF8100030005, 0xFFC49D570000000000000300, 0xFFC000000000000000002345], .qopen (nd .e5m2 .mono .inc 0 .mt (.route 1023) .pass .assoc 0x30005) 0x49D570000000000000300 0x2345),
    ([0xC22123002481FF8100000000], .qcontrib (nd .e5m2 .dyad .inc 0 .mt (.route 1023) .pass .assoc 0x0)),
    ([0xC26223002481FF8100005678], .qclose (nd .e5m2 .const .inc 0 .mt (.route 1023) .pass .assoc 0x5678)),
    ([0xC2A223002481FF8100001678], .qstat (nd .e5m2 .const .inc 0 .mt (.route 1023) .pass .assoc 0x1678)),
    ([0xC2E223002481FF8102341678], .qlag (nd .e5m2 .const .inc 0 .mt (.route 1023) .pass .assoc 0x2341678)),
    ([0xC32023002481FF8100000078], .qwset (nd .e5m2 .mono .inc 0 .mt (.route 1023) .pass .assoc 0x78)),
    ([0xC36023002481FF8100005678, 0xFFC000000000000000016789], .cwalk (nd .e5m2 .mono .inc 0 .mt (.route 1023) .pass .assoc 0x5678) 0x16789)] = true := by decide +kernel

/-- The counter group, from 02 Tables 1 and 9. -/
theorem test_decode_counter : decodes [
    ([0xD02021000B81FF9900000000], .time (nd .e5m2 .mono .inc 0 (.node 5 true) (.route 1023) .sticky .assoc 0x0)),
    ([0xD06121000B81FF9900000000], .toffs (nd .e5m2 .dyad .inc 0 (.node 5 true) (.route 1023) .sticky .assoc 0x0)),
    ([0xD0A121000B81FF9900000005], .cntrd (nd .e5m2 .dyad .inc 0 (.node 5 true) (.route 1023) .sticky .assoc 0x5)),
    ([0xD0E021000B81FF9900000005], .cntwr (nd .e5m2 .mono .inc 0 (.node 5 true) (.route 1023) .sticky .assoc 0x5))] = true := by decide +kernel

/-! ### Witnesses: for each clause of a statement, a state and operands that meet its hypotheses. -/

/-- What a firing comes to. -/
inductive Kind where
  | done | held | parked
  | trapped (cause : Cause) (detail : Nat)
  deriving DecidableEq, Repr

/-- A clause to be met: the instruction, what is changed in the state and the firing that `withFetchWord` places, the clause's
condition, and what the firing then comes to. -/
structure Row where
  i : Instr
  k : Kind := .done
  h : State → State := id
  f : Firing → Firing := id
  ok : Ctx → Bool := fun _ => true

/-- The state with an instruction's firing at issue. -/
def Row.state (r : Row) : State :=
  let w := (encode r.i).zipIdx.foldl (fun a e => a + e.1.toNat * 2 ^ (96 * e.2)) 0
  { r.h (State.reset.withFetchWord 288 w) with agenda := [], cur := some (r.f wordFiring) }

/-- What a firing came to, from the state before and after it. -/
def kindOf (s t : State) : Kind :=
  if t.cur.isSome then .held
  else if (s.lc? 1 0).elim 0 (·.waitRing.length) < (t.lc? 1 0).elim 0 (·.waitRing.length) then .parked
  else match t.traps.getLast? with
    | some k => if s.traps.length < t.traps.length ∧ k.cause ≠ .trap then .trapped k.cause k.detail.toNat else .done
    | none => .done

/-- Whether nothing stops the firing at issue, and its context meets the condition. -/
def Row.issues (r : Row) : Bool :=
  let s := r.state
  match view r.i, s.cur with
  | some v, some f =>
    match s.pitch? f.asid, s.lc? f.asid f.lc with
    | some p, some x =>
      match x.cached (tagColour f.tag) with
      | some regs =>
        match s.tagOp f.asid f.lc p (f.laneMax x) regs v.tgo (v.bits 16 16) f.tag with
        | .ok t tag => (checkFields v).isNone && p.setFits v && (checkKernel x.reqConsts x.reqAccs x.reqRoutes v).isNone &&
            roleOk x.role v.opc.toNat && !(SMap.find p.colours (tagColour f.tag)).isNone && !eosFires v f &&
            r.ok (issueCtx v f p x regs t tag)
        | _ => false
      | none => false
    | _, _ => false
  | _, _ => false

/-- Whether the clause is met, and the firing comes to what it says. -/
def Row.met (r : Row) : Bool :=
  r.issues && (match exec r.i r.state with | .next t => kindOf r.state t == r.k | _ => false)

/-- A row that issues is a witness of the hypotheses of its clause. -/
theorem Row.witness (r : Row) (h : r.issues = true) : ∃ v s f p x regs t tag, view r.i = some v ∧
    Issues v s f p x regs t tag ∧ r.ok (issueCtx v f p x regs t tag) = true := by
  unfold Row.issues at h
  simp only at h
  split at h
  · rename_i v f hv hf
    split at h
    · rename_i p x hp hx
      split at h
      · rename_i regs hr
        split at h
        · rename_i t tag ht
          simp only [Bool.and_eq_true, Option.isNone_iff_eq_none, Bool.not_eq_true'] at h
          exact ⟨v, r.state, f, p, x, regs, t, tag, hv, ⟨hf, hp, hx, h.1.1.1.1.1.1, h.1.1.1.1.1.2, h.1.1.1.1.2, h.1.1.1.2, h.1.1.2, hr, ht, h.1.2⟩, h.2⟩
        · contradiction
      · contradiction
    · contradiction
  · contradiction

/-- A Format-D node without destinations. -/
def nn (t : ETyp) (a : Ary) (m : BitVec 3) (l : Word) : Node := nd t a .keep m .none .none .pass .pass l

/-- Operand lanes. -/
def ab (a b : List Word) (f : Firing) : Firing :=
  { f with a := { f.a with lanes := a }, b := f.b.map (fun t => { t with lanes := b }) }
/-- Poison of operand a. -/
def pzA (f : Firing) : Firing := { f with a := { f.a with poison := true } }
/-- Poison of operand b. -/
def pzB (f : Firing) : Firing := { f with b := f.b.map (fun t => { t with poison := true }) }
/-- A change of the logical core. -/
def core (g : LCore → LCore) (s : State) : State := s.updLC 1 0 g
/-- A change of the firing's colour. -/
def col (g : ColourRegs → ColourRegs) : State → State := core (fun x => x.updColour 0 g)
/-- A change of a tile. -/
def tl (n : Nat) (g : Tile → Tile) : State → State := core (fun x => x.updTile n g)

/-- Integer arithmetic, bit operations, comparison, selection, literals: each at its ordinary form. -/
theorem met_integer : [
    ({ i := .iadd (nn .i32 .dyad 0 0), f := ab [0xFFFFFFFF] [1] } : Row), { i := .isub (nn .n64 .dyad 0 0), f := ab [0, 0] [1, 0] },
    { i := .imul (nn .i32 .dyad 0 0) }, { i := .imulh (nn .n32 .dyad 0 0) }, { i := .imad (nn .i32 .dyad 0 0) },
    { i := .iadds (nn .i32 .dyad 0 0) }, { i := .isubs (nn .n32 .dyad 0 0), f := ab [3] [5] },
    { i := .idiv (nn .i32 .dyad 0 0), f := ab [7] [0], ok := fun c => c.zeroDivisor }, { i := .irem (nn .i32 .dyad 0 0), f := ab [7] [2] },
    { i := .imin (nn .i32 .dyad 0 0) }, { i := .imax (nn .i32 .dyad 0 0) }, { i := .iabs (nn .i32 .mono 0 0), f := ab [0x80000000] [] },
    { i := .ineg (nn .i32 .mono 0 0) },
    { i := .and (nn .pred .dyad 0 0) }, { i := .or (nn .i32 .dyad 0 0) }, { i := .xor (nn .i32 .dyad 0 0) }, { i := .andn (nn .i32 .dyad 0 0) },
    { i := .orn (nn .i32 .dyad 0 0) }, { i := .shl (nn .i32 .dyad 0 0), f := ab [1] [32] }, { i := .shr (nn .i32 .dyad 0 0) },
    { i := .sar (nn .i32 .dyad 0 0) }, { i := .rol (nn .i32 .dyad 0 0) }, { i := .clz (nn .i32 .mono 0 0) }, { i := .ctz (nn .i32 .mono 0 0) },
    { i := .popc (nn .i32 .mono 0 0) }, { i := .brev (nn .i32 .mono 0 0) }, { i := .bfx (nn .i32 .mono 0 0x80) },
    { i := .bfi (nn .i32 .dyad 0 0x80) },
    { i := .icmp (nn .i32 .dyad 0 0) }, { i := .icmp (nn .i32 .dyad 2 2) }, { i := .icmp (nn .n64 .dyad 0 5) },
    { i := .sel (nn .i32 .dyad 0 0) }, { i := .lit (nl .i64 .mono .keep 0 .none .pass 5) }, { i := .aadr (nl .i64 .dyad .keep 0 .none .pass 8) },
    { i := .cvti (nn .i64 .mono 1 4) }].all Row.met = true := by decide +kernel

/-- Floating arithmetic, selection, signs, functions, comparison and conversion. -/
theorem met_float : [
    ({ i := .fadd (nn .f32 .dyad 0 0), f := ab [0x3F800000] [0x3F800000] } : Row), { i := .fsub (nn .bf16 .dyad 3 0) }, { i := .fmul (nn .f16 .dyad 0 0) },
    { i := .fdiv (nn .f32 .dyad 0 0), f := ab [0x3F800000] [0] }, { i := .fma (nn .f32 .dyad 0 0) }, { i := .fms (nn .bf16 .dyad 0 0x1000) },
    { i := .fnma (nn .f16 .dyad 0 0) },
    { i := .fmin (nn .f32 .dyad 0 0) }, { i := .fmax (nn .bf16 .dyad 0 0) }, { i := .fminn (nn .f16 .dyad 0 0) }, { i := .fmaxn (nn .f32 .dyad 0 0) },
    { i := .fabs (nn .f32 .mono 0 0) }, { i := .fneg (nn .bf16 .mono 0 0) }, { i := .fcpsgn (nn .f32 .dyad 0 0) }, { i := .fclass (nn .f16 .mono 0 0) },
    { i := .fsqrt (nn .f32 .mono 0 0), f := ab [0x40800000] [] }, { i := .frsq (nn .f32 .mono 0 0) }, { i := .frcp (nn .f32 .mono 0 0) },
    { i := .fexp (nn .f32 .mono 0 0) }, { i := .fexp2 (nn .f32 .mono 0 0) }, { i := .flog (nn .f32 .mono 0 0) }, { i := .flog2 (nn .f32 .mono 0 0) },
    { i := .fsin (nn .f32 .mono 0 0) }, { i := .fcos (nn .f32 .mono 0 0) }, { i := .fsincos (nn .f32 .mono 0 0) }, { i := .ftanh (nn .f32 .mono 0 0) },
    { i := .fsigm (nn .f32 .mono 0 0) }, { i := .ferf (nn .f32 .mono 0 0) }, { i := .frnd (nn .f32 .mono 0 0) }, { i := .fscale (nn .f32 .dyad 0 0) },
    { i := .fcmp (nn .f32 .dyad 0 0) }, { i := .fcmp (nn .bf16 .dyad 2 2) }, { i := .fcmp (nn .f32 .mono 5 0x3F80000C) },
    { i := .fcvt (nn .f32 .mono 0 5), f := ab [0x40003F80] [] }, { i := .fquant (nn .e4m3 .mono 0 0), f := ab [] [] },
    { i := .fquant (nd .e4m3 .mono .keep 0 .none .scale .pass .scale 1), f := ab [5] [] }, { i := .fdeq (nn .e2m1 .mono 0 0), f := ab [0x22222222] [127] }].all Row.met = true := by
  decide +kernel

/-- The jet group, at a core of order 1 where it matters. -/
theorem met_jet : [
    ({ i := .jord (nn .f32 .mono 0 7) } : Row), { i := .jseed (nn .f32 .dyad 0 0) }, { i := .jconst (nn .f32 .mono 0 0) },
    { i := .jget (nn .f32 .mono 0 0x240) }, { i := .jput (nn .f32 .dyad 0 0x40), ok := fun c => decide (c.regs.order.toNat < 1) },
    { i := .jput (nn .f32 .dyad 0 0x240), h := col (fun r => { r with order := 1 }), ok := fun c => decide (1 ≤ c.regs.order.toNat) },
    { i := .jdiff (nn .f32 .mono 0 0) }, { i := .jintg (nn .f32 .dyad 0 0) },
    { i := .jtrunc (nn .f32 .mono 0 0), ok := fun c => c.regs.order == 0 },
    { i := .jtrunc (nn .f32 .mono 0 0), h := col (fun r => { r with order := 1 }), ok := fun c => c.regs.order == 1 },
    { i := .jflag (nn .f32 .mono 0 1) }].all Row.met = true := by decide +kernel

/-- A firing's tag, of colour 0. -/
def tg (n : Nat) (f : Firing) : Firing := { f with tag := mkTag 0 n }
/-- Two fields of 8 bits in shape 0. -/
def two : State → State := fun s => s.updPitch 1 (fun p => { p with shapes := [(0, 0x108)] })

/-- Steering. -/
theorem met_steering : [
    ({ i := .pass (nn .i32 .mono 0 0) } : Row), { i := .steer (nn .i32 .dyad 0 1) }, { i := .merge (nn .i32 .mono 0 0) },
    { i := .mergec (nn .i32 .mono 0 0) }, { i := .gate (nn .i32 .dyad 0 0) }, { i := .gate (nn .i32 .dyad 0 1) },
    { i := .gate (nn .i32 .dyad 0 0), f := pzB, k := .trapped .poisonConsumed 1 },
    { i := .steer (nn .i32 .dyad 0 1), f := pzB, k := .trapped .poisonConsumed 1 },
    { i := .steer (nn .i32 .mono 0 1), f := pzA, k := .trapped .poisonConsumed 1 }, { i := .sync (nn .i32 .dyad 0 0) }].all Row.met = true := by
  decide +kernel

/-- Loops, on the one 16-bit field of the state's shape or on two fields. -/
theorem met_loops : [
    ({ i := .lenter (nn .i32 .mono 0 7), ok := fun c => c.regs.live != c.regs.limit } : Row),
    { i := .lenter (nn .i32 .mono 0 7), h := col (fun r => { r with live := 3, limit := 3 }), k := .parked },
    { i := .lenter (nn .i32 .mono 0 7), f := tg 5, ok := fun c => c.stack.getLastD 0 != 0, k := .trapped .tagWrap 2 },
    { i := .lenter (nn .i32 .mono 0 7), f := tg 9, h := fun s => s.updPitch 1 (fun p => { p with shapes := [(0, 0x48)] }),
      ok := fun c => c.stack.getLastD 0 == 0 && !c.fits (0 :: c.stack.dropLast), k := .trapped .tagWrap 3 },
    { i := .lenter (nn .i32 .mono 0 0x100), h := two, k := .trapped .tagWrap 4 },
    { i := .lnext (nn .i32 .mono 0 0) }, { i := .lnext (nn .i32 .mono 0 0), h := col (fun r => { r with live := 3, limit := 3 }), k := .parked },
    { i := .lnext (nn .i32 .mono 0 0), f := tg 0xFFFF, k := .trapped .tagWrap 1 },
    { i := .lexit (nn .i32 .mono 0 0), ok := fun c => c.ws != [] },
    { i := .lexit (nn .i32 .mono 0 0), f := tg 36, h := fun s => s.updPitch 1 (fun p => { p with shapes := [(0, 0x102)] }),
      k := .trapped .tagWrap 3 },
    { i := .lbound (nn .i32 .mono 0 0) }, { i := .ldone (nn .i32 .mono 0 0) }].all Row.met = true := by decide +kernel

/-- A change of the pitch. -/
def pit (g : Pitch → Pitch) (s : State) : State := s.updPitch 1 g
/-- The firing in a colour 5 that its core holds and caches, with its continuation. -/
def five (k : BitVec 128) (s : State) : State :=
  let s := pit (fun p => { p with colours := SMap.ins p.colours 5 { (SMap.get default p.colours 0) with cont := k } }) s
  core (fun x => { x with cache := { x.cache.headD default with colour := 5 } :: x.cache }) s
/-- A firing of colour 5. -/
def in5 (f : Firing) : Firing := { f with tag := mkTag 5 0 }

/-- Colours. -/
theorem met_colours : [
    ({ i := .call (nn .i32 .mono 0 0), h := core (fun x => { x with pool := [(5, 2)] }) } : Row),
    { i := .call (nn .i32 .mono 0 0), h := core (fun x => { x with pool := [] }), k := .parked },
    { i := .ret (nn .i32 .mono 0 0), h := five (1#128 <<< 102), f := in5 },
    { i := .ret (nn .i32 .mono 0 0), k := .trapped .accessFault 0x21 },
    { i := .ret (nn .i32 .mono 0 0), h := five 0, f := in5, k := .trapped .accessFault 0x24 },
    { i := .cfree (nn .i32 .mono 0 0), h := five 0, f := in5 },
    { i := .cfree (nn .i32 .mono 0 0), k := .trapped .accessFault 0x21 },
    { i := .ctxalloc (nn .i32 .mono 0 0), h := core (fun x => { x with pool := [(5, 2)] }) },
    { i := .ctxalloc (nn .i32 .mono 0 0), h := core (fun x => { x with pool := [] }), k := .parked },
    { i := .ctxfree (nn .i32 .mono 0 0), h := five 0, f := ab [5] [] },
    { i := .ctxfree (nn .i32 .mono 0 0), f := pzA, k := .trapped .poisonConsumed 2 },
    { i := .ctxfree (nn .i32 .mono 0 0), k := .trapped .accessFault 0x21 },
    { i := .ctxfree (nn .i32 .mono 0 0), f := ab [9] [], k := .trapped .accessFault 0x22 }].all Row.met = true := by decide +kernel

/-- An end-of-stream token as operand a. -/
def eosA (l : BitVec 4) (f : Firing) : Firing := { f with a := { f.a with mark := 1, eosl := l, lanes := [] }, b := none }

/-- Tags and end of stream. -/
theorem met_tags : [
    ({ i := .tagget (nn .i32 .mono 0 1), f := tg 7 } : Row), { i := .tagset (nl .i32 .dyad .keep 0 .none .pass 0), f := ab [] [9, 0] },
    { i := .tagset (nl .i32 .mono .keep 0 .none .pass 0x80000) }, { i := .tagset (nl .i32 .mono .keep 0 .none .pass 0x78) },
    { i := .tagset (nl .i32 .dyad .keep 0 .none .pass 0), f := ab [] [0x10000, 0], k := .trapped .tagWrap 6 },
    { i := .tagset (nl .i32 .dyad .keep 0 .none .pass 0), f := ab [] [0, 0x90000], k := .trapped .accessFault 0x22 },
    { i := .tagset (nl .i32 .dyad .keep 0 .none .pass 0), f := pzB, k := .trapped .poisonConsumed 2 },
    { i := .tagset (nl .i32 .mono .keep 0 .none .pass 1), k := .trapped .tagWrap 5 },
    { i := .tagset (nl .i32 .mono .keep 0 .none .pass 0x78), h := pit (fun p => { p with shapes := [(0, 2)] }), k := .trapped .tagWrap 4 },
    { i := .eos (nn .i32 .mono 0 3) }, { i := .sink (nn .i32 .mono 0 0x200) }, { i := .sink (nn .i32 .mono 0 0x200), f := eosA 0 },
    { i := .sink (nn .i32 .mono 0 0x100), f := eosA 0 }, { i := .purge (nn .i32 .mono 0 0) }].all Row.met = true := by decide +kernel

/-- Traps, breakpoints and events. -/
theorem met_traps : [
    ({ i := .trap (nd .i32 .mono .keep 0 .trap .none .pass .pass 9) } : Row), { i := .brk (nn .i32 .dyad 0 9) },
    { i := .brk (nn .i32 .mono 0 9), k := .trapped .brk 9 }, { i := .brk (nn .i32 .dyad 0 9), f := ab [] [1], k := .trapped .brk 9 },
    { i := .brk (nn .i32 .dyad 0 9), f := pzB, k := .trapped .poisonConsumed 1 },
    { i := .event (nd .i32 .mono .keep 0 .event .none .pass .pass 0) }].all Row.met = true := by decide +kernel

/-- Lanes. -/
theorem met_lanes : [
    ({ i := .pack (nn .i32 .dyad 0 0x40) } : Row), { i := .unpack (nn .i32 .mono 0 1) }, { i := .bcast (nn .i32 .mono 0 0x60) },
    { i := .shuf (nn .i32 .dyad 0 0) }, { i := .lget (nn .i32 .dyad 0 0) }, { i := .lput (nn .i32 .dyad 0 0x7C0) },
    { i := .width (nn .i32 .mono 0 32) },
    { i := .lred (nn .n32 .mono 3 0) }, { i := .lred (nn .f32 .mono 0 0) }, { i := .lscan (nn .i32 .mono 4 0) },
    { i := .lscan (nn .f32 .mono 2 0) }].all Row.met = true := by decide +kernel

/-- An accumulator 1 that counts integers. -/
def acc1 (opn : Bool) (len : Word) (s : State) : State :=
  core (fun x => { x with accs := SMap.ins x.accs 1 { val := [], part := [], opn := opn, cnt := 0, len := len, typ := 0 } }) s

/-- Accumulators. -/
theorem met_accumulators : [
    ({ i := .accinit (nn .i32 .mono 0 0x201), h := acc1 false 2 } : Row),
    { i := .accinit (nn .i32 .mono 0 0x201), h := acc1 true 2, k := .trapped .accessFault 0x11 },
    { i := .accinit (nn .i32 .mono 0 0x201), f := pzA, k := .trapped .poisonConsumed 0 },
    { i := .accadd (nn .i32 .mono 0 1), h := acc1 true 2 }, { i := .accadd (nn .i32 .mono 0 1), h := acc1 true 1 },
    { i := .accadd (nn .f32 .mono 0 1), h := acc1 true 2, k := .trapped .accessFault 0x12 },
    { i := .accmax (nn .i32 .mono 0 1), h := acc1 true 2 }, { i := .accmax (nn .i32 .mono 0 1), h := acc1 true 1 },
    { i := .accmin (nn .i32 .mono 0 1), h := acc1 true 2 }, { i := .accmin (nn .i32 .mono 0 1), h := acc1 true 1 },
    { i := .accrd (nn .i32 .mono 0 0x201) }].all Row.met = true := by decide +kernel

/-- Constants and status registers. -/
theorem met_registers : [
    ({ i := .krd (nn .i32 .mono 0 0x81) } : Row), { i := .kwr (nn .i32 .mono 0 62) },
    { i := .kwr (nn .i32 .mono 0 63), k := .trapped .accessFault 0x13 }, { i := .kwr (nn .i32 .mono 0 0), f := pzA, k := .trapped .poisonConsumed 0 },
    { i := .csrrd (nn .i32 .mono 0 0) }, { i := .csrrd (nn .i32 .mono 0 0x14) }, { i := .csrwr (nn .i32 .mono 1 0x509) },
    { i := .csrwr (nn .i32 .mono 0 2) }].all Row.met = true := by decide +kernel

/-- A command of a unit. -/
def cm (d : Dest) (m : BitVec 3) (l : Word) : Node := nd .i32 .mono .keep m d .none .pass .pass l
/-- A matrix command. -/
def mm (l : Word) : Node := nd .i32 .mono .keep 0 .mx .none .pass .pass l
/-- A tile state. -/
def ts (t : TileState) : State → State := tl 0 (fun u => { u with state := t })
/-- A tile role. -/
def tr (r : TileRole) (t : TileState) : State → State := tl 0 (fun u => { u with role := r, state := t })
/-- Eight jobs of the core in an engine's queue. -/
def busy (e : Eng) (s : State) : State :=
  let j : EJob := { (default : EJob) with asid := 1, lc := 0 }
  { s with cmds := List.replicate (if e = .meet then 4 else 8) { eng := e, unit := 0, vc := 1, tc := 1, job := j } }

/-- A scale entry of the matching store for node 0. -/
def scaled (poison : Bool) (s : State) : State :=
  core (fun x => { x with ms := [{ (default : MEntry) with
    kind := .scale, node := 0, tok := { wordToken false with poison := poison } }] }) s

/-- Matrix commands. -/
theorem met_matrix : [
    ({ i := .wload (mm 0) } : Row), { i := .wloadx (mm 0) }, { i := .wswap (mm 0) }, { i := .mma (mm 0) 0 },
    { i := .mma (mm 0) 0, h := ts .filling, k := .held }, { i := .mma (mm 0) 0, h := busy .matrix, k := .held },
    { i := .mma (mm 0) 0, h := tr .cb .ready, k := .trapped .accessFault 0x14 },
    { i := .mma (mm 31) 0, k := .trapped .accessFault 0x14 },
    { i := .mma (mm 0) 0, f := pzA, k := .trapped .poisonConsumed 0 },
    { i := .mmaj (mm 0) 0x7E80 }, { i := .mmaj (mm 0) 0x7EC0, k := .trapped .jobFault 3 },
    { i := .mmax (mm 0) 0 0, h := scaled false }, { i := .mmax (mm 0) 0 0, k := .held },
    { i := .mmax (mm 0) 0 0, h := scaled true, k := .trapped .poisonConsumed 0 },
    { i := .apzero (mm 0) }, { i := .apmv (nd .i32 .mono .keep 4 .mx .none .pass .pass 0) }, { i := .apmv (mm 0), h := ts .empty },
    { i := .apmv (mm 0), h := ts .spec, k := .held }, { i := .appeek (nd .i32 .mono .keep 0 .mx (.node 0 true) .pass .pass 0) }].all Row.met = true := by decide +kernel

/-- Questions on jobs. -/
theorem met_questions : [
    ({ i := .jobpoll (nn .i32 .mono 0 0), f := ab [5, 0] [] } : Row), { i := .jobwait (nn .i32 .mono 0 0), f := ab [5, 0] [] },
    { i := .jobwait (nn .i32 .mono 0 0), f := ab [5, 0] [], k := .held,
      h := fun s => s.updCluster 0 (fun k => { k with mq := [{ (default : EJob) with id := 5 }] }) },
    { i := .jobpoll (nn .i32 .mono 0 0), f := ab [0x30005, 0] [], k := .trapped .accessFault 0x15 },
    { i := .jobwait (nn .i32 .mono 0 0), f := ab [5, 0x1FFFF] [], k := .trapped .accessFault 0x15 }].all Row.met = true := by decide +kernel

/-- Chain 0 enabled, with a window of one instance. -/
def chain (s : State) : State := core (fun x => { x with waveBase := 0x01000001 }) s
/-- An open instance of chain 0 for the firing, that has seen owner 0. -/
def seen (s : State) : State := chain (core (fun x => { x with insts := [{ chain := 0, colour := 0, stack := 0, last := none, owns := [0], hb := [], hbAcq := [] }] }) s)
/-- An open instance of chain 0 for another tag. -/
def away (s : State) : State := chain (core (fun x => { x with insts := [{ chain := 0, colour := 0, stack := 3, last := none, owns := [0], hb := [], hbAcq := [] }] }) s)

/-- Loads, stores, atomics and fences. -/
theorem met_memory : [
    ({ i := .ld (nn .i32 .mono 0 0), h := chain } : Row), { i := .st (nn .i32 .dyad 0 0), h := chain }, { i := .ldg (nn .n64 .mono 0 0), h := chain },
    { i := .sts (nn .i32 .dyad 0 0), h := chain }, { i := .pref (nn .i32 .mono 0 0), h := chain, f := pzA },
    { i := .pref (nn .i32 .mono 0 0) }, { i := .pref (nn .i32 .mono 0 0), h := seen }, { i := .pref (nn .i32 .mono 0 0), h := away, k := .held },
    { i := .ld (nn .i32 .mono 0 0), k := .trapped .accessFault 1 }, { i := .ld (nn .i32 .mono 0 0), h := away, k := .held },
    { i := .st (nn .i32 .dyad 0 0), h := seen, k := .trapped .accessFault 0x5B },
    { i := .ld (nn .i32 .mono 0 0), f := ab [0, 0xFFFFFFFF] [], k := .trapped .accessFault 0x55 },
    { i := .ld (nn .i32 .mono 0 0), f := pzA, k := .trapped .poisonConsumed 4 },
    { i := .st (nn .i32 .dyad 0 0), f := ab [2, 0] [], k := .trapped .align 0 }, { i := .ldg (nn .n64 .mono 0 0), f := ab [4, 0] [], k := .trapped .align 0 },
    { i := .sts (nn .i32 .dyad 0 0), f := pzA, k := .trapped .poisonConsumed 4 },
    { i := .aadd (nn .i32 .dyad 0 0), h := chain }, { i := .afadd (nn .f32 .dyad 0 0), h := chain }, { i := .amin (nn .n64 .dyad 0 0), h := chain },
    { i := .amax (nn .i32 .dyad 0 0), h := chain }, { i := .aand (nn .i32 .dyad 0 0), h := chain }, { i := .aor (nn .i32 .dyad 0 0), h := chain },
    { i := .axor (nn .i32 .dyad 0 0), h := chain }, { i := .axchg (nn .i32 .dyad 0 0), h := chain }, { i := .acas (nn .i32 .dyad 0 0), h := chain },
    { i := .aincb (nn .n32 .dyad 0 0), h := chain }, { i := .fence (nn .i32 .mono 0 0), h := chain },
    { i := .aadd (nn .i32 .dyad 0 0), f := pzB, k := .trapped .poisonConsumed 5 },
    { i := .acas (nn .n64 .dyad 0 0), f := ab [4, 0] [0], k := .trapped .align 0 }].all Row.met = true := by decide +kernel

/-- Run ahead enabled, for one stream. -/
def ahead (s : State) : State := ts .empty (chain (core (fun x => { x with raCtl := 3 }) s))

/-- Streams. -/
theorem met_streams : [
    ({ i := .strm (nn .i32 .mono 0 0) (1 <<< 64), h := chain } : Row), { i := .strm (nn .i32 .mono 0 0) 0, h := chain },
    { i := .strm (nn .i32 .mono 0 0x40000000) 0, h := ahead },
    { i := .strm (nn .i32 .mono 0 0x40000000) 0, h := ts .empty ∘ chain },
    { i := .strm (nn .i32 .mono 0 0x40000000) (1 <<< 20), h := ahead, f := ab [0, 0xFFFFFFFF] [] },
    { i := .strm (nn .i32 .mono 0 0) (1 <<< 20), h := chain, f := ab [0, 0xFFFFFFFF] [], k := .trapped .accessFault 0x55 },
    { i := .strm (nn .i32 .mono 0 0) (1 <<< 40), h := chain, k := .trapped .align 1 },
    { i := .strm (nn .i32 .mono 0 0) 0, h := ts .filling ∘ chain, k := .held },
    { i := .strmst (nn .i32 .mono 0 0) 0, h := chain }, { i := .strmst (nn .i32 .mono 0 0) 0, h := ts .filling ∘ chain, k := .held },
    { i := .strm (nn .i32 .mono 0 0) 0, f := ab [2, 0] [], k := .trapped .align 0 },
    { i := .strm (nn .i32 .mono 0 0) 0, h := tr .cb .ready, k := .trapped .accessFault 0x60 },
    { i := .strmst (nn .i32 .mono 0 0) 0, f := pzA, k := .trapped .poisonConsumed 4 }].all Row.met = true := by decide +kernel

/-- A tensor FIFO with an image of an empty token. -/
def image (s : State) : State := tl 0 (fun u => (u.push (wordToken false)).getD u) (tr .tf .ready s)
/-- A cache bank whose line 0 is pending. -/
def pend (s : State) : State := tl 0 (fun u => { u with cb := [(0, { v := false, d := false, p := true, tag := 0, last := 0 })] }) (tr .cb .ready s)

/-- Tile loads and stores. -/
theorem met_tiles : [
    ({ i := .tld (nn .i32 .mono 0 0x200000) } : Row), { i := .tst (nn .i32 .mono 0 0) }, { i := .tld (nn .i32 .mono 0 0x200000), h := ts .filling, k := .held },
    { i := .tst (nn .i32 .mono 0 0), h := pend, k := .held }, { i := .tld (nn .i32 .mono 0 31), k := .trapped .accessFault 0x60 },
    { i := .tst (nn .i32 .dyad 0 0), f := ab [1] [2], k := .trapped .align 0 },
    { i := .tld (nn .i32 .mono 0 0x4200000), f := ab [0x8000] [], k := .trapped .accessFault 0x61 },
    { i := .tst (nn .i32 .dyad 0 0), f := pzB, k := .trapped .poisonConsumed 4 },
    { i := .tld (nn .i32 .mono 0 0x2000000), h := image }, { i := .tld (nn .i32 .mono 0 0x2000000), h := tr .tf .ready, k := .held },
    { i := .tst (nn .i32 .mono 0 0), h := tr .tf .ready },
    { i := .tst (nn .i32 .dyad 0 0), h := tr .tf .ready, f := ab [1] [2], k := .trapped .align 0 },
    { i := .tst (nn .i32 .dyad 0 0), h := tr .tf .ready, f := ab [1] [0x8000], k := .trapped .accessFault 0x61 },
    { i := .tst (nn .i32 .dyad 0 0), h := tr .tf .ready, f := pzB, k := .trapped .poisonConsumed 4 },
    { i := .tst (nn .i32 .dyad 0 0), h := tr .tf .ready, f := ab [1] [4] },
    { i := .tst (nn .i32 .mono 0 0), h := tl 0 (fun u => u.setCtl 0 0 511) ∘ tr .tf .ready, k := .held }].all Row.met = true := by decide +kernel

/-- Copy commands. -/
theorem met_copies : [
    ({ i := .cpy (cm .cu 0 0) 0 } : Row), { i := .cpy (cm .cu 0 0x81) 0 }, { i := .cpy (cm .cu 0 4) 0 },
    { i := .cpyd (cm .cu 0 0) 0, f := ab [0, 0, 0, 0, 0, 0] [] }, { i := .cpye (cm .cu 0 0) 0, f := ab [0, 0, 0, 0, 0, 0] [] },
    { i := .mcast (cm .cu 0 4) 0 1 },
    { i := .gath (cm .cu 0 0) 0, f := ab [0, 0, 0, 0, 0, 0] [] }, { i := .scat (cm .cu 0 0) 0, f := ab [0, 0, 0, 0, 0, 0] [] },
    { i := .cpy (cm .cu 0 0) 0, h := busy .copy, k := .held }, { i := .cpy (cm .cu 0 0) 0, f := pzA, k := .trapped .poisonConsumed 4 },
    { i := .cpy (cm .cu 0 0) 0, f := ab [32, 0] [], k := .trapped .align 0 },
    { i := .cpy (cm .cu 0 0) 0x2000000000, f := ab [0, 0, 0, 0] [], k := .trapped .align 1 },
    { i := .gath (cm .cu 0 4) 0x1FFFF, k := .trapped .accessFault 0x64 }].all Row.met = true := by decide +kernel

/-- Commands of a cache bank. -/
theorem met_banks : [
    ({ i := .tfill (cm .cu 0 0), h := tr .cb .ready } : Row), { i := .tevict (cm .cu 0 0), h := tr .cb .ready }, { i := .tinv (cm .cu 0 0), h := tr .cb .ready },
    { i := .tinv (cm .cu 0 0), h := busy .copy ∘ tr .cb .ready, k := .held }, { i := .tevict (cm .cu 0 0), k := .trapped .accessFault 0x60 },
    { i := .tinv (cm .cu 0 0x800), h := tr .cb .ready, f := ab [0, 0, 64] [], k := .trapped .accessFault 0x62 },
    { i := .tfill (cm .cu 0 0), h := tr .cb .ready, f := ab [256, 0] [], k := .trapped .align 0 },
    { i := .tfill (cm .cu 0 0), f := pzA, k := .trapped .poisonConsumed 4 }].all Row.met = true := by decide +kernel

/-- Tables, routes and mapping. -/
theorem met_tables : [
    ({ i := .lookup (nn .i32 .mono 0 0), h := tr .cb .ready } : Row), { i := .lookup (nn .i32 .mono 0 0), h := tr .cb .filling, k := .held },
    { i := .lookup (nn .i32 .mono 0 0), k := .trapped .accessFault 0x32 }, { i := .tstate (nn .i32 .mono 0 0) }, { i := .tstate (nn .i32 .mono 0 0x20) },
    { i := .tset (nn .i32 .mono 0 0) }, { i := .tset (nn .i32 .mono 0 0x20), h := ts .filling, k := .trapped .accessFault 0x31 },
    { i := .rtrd (nn .i32 .mono 0 1023) }, { i := .rtrd (nn .i32 .dyad 0 0), f := ab [] [1024], k := .trapped .accessFault 0x33 },
    { i := .rtrd (nn .i32 .dyad 0 0), f := pzB, k := .trapped .poisonConsumed 3 }, { i := .rtwr (nn .i32 .mono 0 5) },
    { i := .rtwr (nn .i32 .mono 0 5), f := ab [0xFFFFFFFF, 0xFFFFFFFF] [], k := .trapped .accessFault 0x34 },
    { i := .rtwr (nn .i32 .mono 0 5), h := core (fun x => { x with control := false }), k := .trapped .roleViolation 0 },
    { i := .bandrd (nn .i32 .mono 0 63) },
    { i := .maprd (nn .i32 .mono 0 0) }, { i := .maprd (nn .i32 .mono 0 0x40000000) }, { i := .maprd (nn .i32 .mono 0 0x80000000) },
    { i := .maprd (nn .i32 .dyad 0 0), f := ab [] [0x1FFFF], k := .trapped .accessFault 0x35 },
    { i := .maprd (nn .i32 .dyad 0 0), f := pzB, k := .trapped .poisonConsumed 3 }].all Row.met = true := by decide +kernel

/-- A meeting command with a constant register. -/
def cq (l : Word) : Node := nd .i32 .const .keep 0 .mt .none .pass .pass l
/-- The first constant register. -/
def k0 (w : Word) (s : State) : State := core (fun x => { x with k := SMap.ins x.k 0 w }) s

/-- Meeting commands. -/
theorem met_meetings : [
    ({ i := .qopen (cm .mt 0 0) 0 0 } : Row), { i := .qcontrib (nd .i32 .lit .keep 0 .mt .none .pass .pass 0) }, { i := .qclose (cm .mt 0 0) }, { i := .qstat (nd .i32 .mono .keep 0 .mt (.node 0 true) .pass .pass 0) },
    { i := .qlag (nd .i32 .mono .keep 0 .mt (.node 0 true) .pass .pass 0) }, { i := .qwset (cm .mt 0 0) }, { i := .cwalk (cm .mt 0 0) 0 },
    { i := .qopen (cm .mt 0 0) 0 0, h := busy .meet, k := .held }, { i := .qcontrib (nd .i32 .lit .keep 0 .mt .none .pass .pass 0), h := busy .meet, k := .held },
    { i := .qcontrib (nd .i32 .dyad .keep 0 .mt .none .pass .pass 0), f := ab [] [0xF8000000], k := .trapped .accessFault 0x36 },
    { i := .qcontrib (nd .i32 .dyad .keep 0 .mt .none .pass .pass 0), f := pzB, k := .trapped .poisonConsumed 3 },
    { i := .qclose (cq 0), h := k0 0xF8000000, k := .trapped .accessFault 0x36 },
    { i := .qwset (cm .mt 0 0), f := pzA, k := .trapped .poisonConsumed 3 }].all Row.met = true := by decide +kernel

/-- Time and counters, launches and extension records. -/
theorem met_counters : [
    ({ i := .time (nn .i32 .mono 0 0) } : Row), { i := .toffs (nn .i32 .mono 0 5) }, { i := .toffs (nn .i32 .dyad 0 0), f := pzB, k := .trapped .poisonConsumed 6 },
    { i := .cntrd (nn .i32 .mono 0 0) }, { i := .cntrd (nn .i32 .mono 0 0x220) },
    { i := .cntrd (nn .i32 .dyad 0 0), f := ab [] [1], k := .trapped .accessFault 0x71 },
    { i := .cntwr (nn .i32 .mono 0 15) }, { i := .cntwr (nn .i32 .mono 0 0), f := pzA, k := .trapped .poisonConsumed 6 },
    { i := .launch (nn .i32 .mono 0 0) 0 0, h := chain ∘ core (fun x => { x with role := .ag }) }, { i := .launch (nn .i32 .mono 0 0) 0 0 },
    { i := .launch (nn .i32 .mono 0 0x20) 0 0, f := pzA, k := .trapped .poisonConsumed 2 },
    { i := .launch (nn .i32 .mono 0 0x20) 0 0, f := ab [0, 0xFFFFFFFF] [], k := .trapped .accessFault 0x23 }].all Row.met = true := by decide +kernel

/-- The state with an instruction at node 0 of a running pitch, and nothing at issue. -/
def wm (i : Instr) : State := { (Row.state { i := i }) with cur := none, ready := [] }
/-- A PASS at node 0. -/
def wp : State := wm (.pass (nn .i32 .mono 0 0))
/-- An action that changes the state into one that meets a condition. -/
def does (i : Instr) (s : State) (p : State → Bool := fun _ => true) : Bool :=
  match exec i s with | .next t => t != s && p t | _ => false
/-- An action after which a condition holds. -/
def gives (i : Instr) (s : State) (p : State → Bool) : Bool := match exec i s with | .next t => p t | _ => false
/-- An action that leaves the state as it is. -/
def idles (i : Instr) (s : State) : Bool := match exec i s with | .next t => t == s | _ => false
/-- The logical core. -/
def lcx (s : State) : LCore := (s.lc? 1 0).getD default

/-- A token in flight to the core. -/
def fl (t : Token) : Flight := { src := .agent 1 0, dst := .lcore 1 0, tok := t, ni := none, org := none }
/-- A plain token for port a of node 0. -/
def tk : Token := { wordToken false with act := 0 }
/-- A matching entry of a token. -/
def me (k : MKind) (t : Token) : MEntry := { kind := k, node := 0, port := t.dport, tok := t, tok2 := none, count := 0, seq := 7 }
/-- A state with a change of its core. -/
def cg (g : LCore → LCore) (s : State) : State := core g s

/-- Tokens at cores, and the input path. -/
theorem met_tokens : [
    does (.tokenArrival 0) { wp with flight := [fl tk] } (fun t => (t.readyQ 0).length == 1 && t.flight.isEmpty),
    does (.tokenArrival 0) { wp with flight := [fl { tk with asid := 2 }] } (fun t => (lcx t).cnt.ucdrop == 1 && t.flight.isEmpty),
    does (.stickyOverflowScan 1 0) (cg (fun x => { x with ms := [me .sticky tk], ovf := [{ me .waiting { tk with dport := true } with seq := 8 }] })
      (wm (.iadd (nn .i32 .dyad 0 0)))) (fun t => (t.readyQ 0).length == 1),
    does (.matchRefill 1 0) (cg (fun x => { x with ovf := [me .waiting tk], reqMatch := 4096 }) wp) (fun t => (lcx t).ms.length == 1),
    does (.channelOverflowSpill 1 0 0) (cg (fun x => { x with ovfSize := 1 }) { wp with flight := [{ fl tk with ni := some 0 }] })
      (fun t => (lcx t).chanOvf == [tk]),
    does (.channelOverflowReplay 1 0 0) (cg (fun x => { x with chanOvf := [tk] }) wp) (fun t => (t.readyQ 0).length == 1),
    does (.readyQueueEntry 0) { wp with held := [(0, [wordFiring])] } (fun t => t.readyQ 0 == [wordFiring]),
    -- the input path: a record of an extension, a node without an order of its own, a matched and an unmatched token
    does (.tokenArrival 0) { wm (.mma (nd .i32 .mono .keep 0 .mx .none .pass .pass 0) 0) with flight := [fl { tk with dnode := 1 }] }
      (fun t => t.traps.length == 1),
    does (.tokenArrival 0) { wm (.iadd (nn .i32 .dyad 0 0)) with flight := [fl { tk with dport := true }] } (fun t => (t.readyQ 0).length == 1),
    does (.tokenArrival 0) (cg (fun x => { x with ms := [me .waiting tk] })
      { wm (.iadd (nn .i32 .dyad 0 0)) with flight := [fl { tk with act := 1, dport := true }] }) (fun t => (t.readyQ 0).length == 1 && (lcx t).ms.isEmpty),
    does (.tokenArrival 0) { wm (.iadd (nn .i32 .dyad 0 0)) with flight := [fl { tk with act := 1 }] } (fun t => (lcx t).ms.length == 1)].all id = true := by
  decide +kernel

/-- A trap token of the core. -/
def tt (c : Cause) : TrapTok :=
  { asid := 1, lc := 0, vc := 7, tc := 0, handler := false, cause := c, detail := 0, node := 0, port := false, opc := 0, tag := 0, lanes := [] }

/-- Colours and traps of a pitch. -/
theorem met_supply : [
    does (.colourRefill 1 0 5) { pit (fun p => { p with colours := SMap.ins p.colours 5 default }) wp with ready := [(0, [in5 wordFiring])] }
      (fun t => ((lcx t).cached 5).isSome),
    does (.starvationTimeout 1 0 0) (cg (fun x => { x with waitRing := [{ f := wordFiring, colour := true }] }) wp) (fun t => t.traps.length == 1),
    does (.starvationTimeout 1 0 0) (cg (fun x => { x with waitRing := [{ f := wordFiring, colour := false }] }) wp) (fun t => t.traps.length == 1),
    does (.colourReturn 1 5) (pit (fun p => { p with freed := [5] }) wp),
    does (.trapTokenReceipt 0) { wp with traps := [tt .accessFault] } (fun t => (t.pitch? 1).isNone),
    does (.trapTokenReceipt 0) (pit (fun p => { p with reserveUsed := true }) { wp with traps := [tt .tagStarved] }) (fun t => (t.pitch? 1).isNone),
    does (.trapTokenReceipt 0) { wp with traps := [tt .tagStarved] } (fun t => t.traps.isEmpty && (t.pitch? 1).isSome),
    does (.trapTokenReceipt 0) { wp with traps := [tt .colourStarved] } (fun t => t.traps.isEmpty && (t.pitch? 1).isSome)].all id = true := by
  decide +kernel

/-- A job of the core. -/
def jb (opc : BitVec 10) (l : Word) : EJob := { (default : EJob) with id := 5, asid := 1, lc := 0, opc := opc, n := { mm 0 with lit := l }, fire := wordFiring }
/-- A started job. -/
def sj (opc : BitVec 10) (l : Word) : EJob := { jb opc l with granted := true, started := true }
/-- The state with the cluster's matrix jobs. -/
def mj (l : List EJob) : State := wp.updCluster 0 (fun k => { k with mq := l })

/-- Jobs of the matrix engine. -/
theorem met_jobs : [
    does (.engineCommandEnqueue 0) { wp with cmds := [{ eng := .matrix, unit := 0, vc := 1, tc := 1, job := jb 0x203 0 }] } (fun t => (t.cluster 0).mq.length == 1),
    does (.engineCommandEnqueue 0) { wp with cmds := [{ eng := .matrix, unit := 0, vc := 1, tc := 1, job := jb 0x208 0 }] } (fun t => (t.cluster 0).peeks.length == 1),
    does (.engineJobGrant 0 0) (mj [jb 0x203 0]) (fun t => (t.cluster 0).mq.any (·.granted)),
    does (.matrixJobStart 0) (mj [{ jb 0x200 0 with granted := true }]) (fun t => (t.cluster 0).mq.any (·.started)),
    does (.matrixJobStart 0) (mj [{ jb 0x203 0 with granted := true }]) (fun t => t.traps.length == 1),
    does (.mmajPlaneRetire 0) (mj [{ sj 0x204 0 with order := 1 }]) (fun t => (t.cluster 0).mq.any (fun j => j.prog == 1 && !j.stopped)),
    does (.mmajPlaneRetire 0) (pit (fun p => { p with st := .halting }) (mj [{ sj 0x204 0 with order := 1 }])) (fun t => (t.cluster 0).mq.any (·.stopped)),
    idles (.mmajPlaneRetire 0) (mj [{ sj 0x204 0 with order := 1, stopped := true }]),
    [0x200, 0x201].all (fun o => ((mj [sj o 0]).cluster 0).mq.any (fun j => j.started && j.opc == o))].all id = true := by
  decide +kernel
/-- Their retirements. -/
theorem met_retirements : [does (.matrixJobRetire 0 0) (mj [sj 0x203 0]),
    does (.matrixJobRetire 0 0) (mj [sj 0x202 0]), does (.matrixJobRetire 0 0) (mj [sj 0x206 0]), does (.matrixJobRetire 0 0) (mj [sj 0x207 0]),
    does (.mmajPlaneRetire 0) (mj [sj 0x204 0]) (fun t => (t.cluster 0).mq.isEmpty),
    does (.appeekResponse 0) (wp.updCluster 0 (fun k => { k with peeks := [jb 0x208 0] })) (fun t => (t.cluster 0).peeks.isEmpty)].all id = true := by
  decide +kernel

/-- The state with a copy job of the cluster. -/
def cj (j : EJob) (s : State := wp) : State := s.updCluster 0 (fun k => { k with cpq := [j] })
/-- A job of 64 bytes, or more, of a copy command. -/
def cl (opc : BitVec 10) (l : Word) (len : Nat) : EJob := { sj opc l with e1 := BitVec.ofNat 86 (len * 2 ^ 37) }

/-- A page of ASID 1 held in the TLBs: page 0 at page 256. -/
def page : TlbEntry := { asid := 1, vpn := 0, level := 0, ppn := 256, w := true, u := true, d := true, pz := false }

/-- Jobs of the copy unit. -/
theorem met_unit : [
    does (.copyJobStart 0 0) (cj { cl 0x2C0 4 64 with started := false } (tr .cb .ready wp)) (fun t => t.traps.length == 1),
    does (.copyJobStart 0 0) (cj { cl 0x2C0 0 64 with started := false }) (fun t => (t.cluster 0).cpq.any (·.started)),
    does (.copyJobStart 0 0) (cj { jb 0x2C8 0 with granted := true } (pend wp)) (fun t => t.traps.length == 1),
    does (.copyTileClaim 0 0) (cj (cl 0x2C0 4 64)) (fun t => (t.cluster 0).cpq.any (fun j => j.claims == [0])),
    does (.engineLineOwnership 0 0) ((cj (cl 0x2C0 0 64)).updCluster 0 (fun k => { k with tlb := [page] })) (fun t => t.owned.length == 1),
    does (.copyJobRetire 0 0) (cj { cl 0x2C0 0 64 with prog := 64 }) (fun t => (t.cluster 0).cpq.isEmpty),
    does (.multicastDelivery 0) { cj { cl 0x2C3 4 256 with claims := [0] } with
      reqs := [{ (default : HReq) with asid := 1, kind := .mcast, id := 5, atHost := true, data := [7] }] } (fun t => t.reqs.isEmpty)].all id = true := by
  decide +kernel

/-- A memory firing of the core that has issued, with its page in the core's TLB. -/
def issued (i : Instr) : State :=
  match exec i { (Row.state { i := i, h := chain }) with ready := [] } with
  | .next t => { t with tlbs := [(0, [page])] }.updCluster 0 (fun k => { k with tlb := [page] })
  | _ => wp
/-- A change of its member. -/
def mg (g : MemAcc → MemAcc) (s : State) : State := cg (fun x => { x with mem := x.mem.map g }) s
/-- It stands in chain order. -/
def entered (i : Instr) : State := mg (fun m => { m with entered := true }) (issued i)
/-- A plain record of a memory instruction. -/
def pm : Node := nn .i32 .mono 0 0
/-- A dyadic record of a memory instruction. -/
def pd : Node := nn .i32 .dyad 0 0
/-- A second member, entered, that the first must wait for. -/
def behind (g : MemAcc → MemAcc) (s : State) : State :=
  let e (x : LCore) : List MemAcc := (x.mem.take 1).map (fun m => g { m with id := 9, entered := true })
  cg (fun x => { x with mem := x.mem.map (fun m => { m with order := [9] }) ++ e x }) s

/-- The field of the core. -/
def fi : Nat := (lcx wp).field
/-- The root table at page 16 and the tables after it, with a leaf for page 0. -/
def tables (leaf : Nat) (s : State) : State :=
  [(65544, 17), (69632, 18), (73728, 19)].foldl (fun s e => s.writeRange 64 e.1 (bytesOfNat 8 (4096 * e.2 + 1)) false)
    ((s.updField fi (fun f => { f with rootEn := true, rootPa := 16 })).writeRange 64 77824 (bytesOfNat 8 leaf) false)
/-- A load that waits for a walk of its page. -/
def walks (vpn : Nat) (fault : Option Nat) (s : State) : State :=
  s.updField fi (fun f => { f with walks := [{ asid := 1, vpn := vpn, who := [.access 1 0 0], fault := fault }] })
/-- A load that waits. -/
def ldw : State := entered (.ld pm)

/-- The state after an action. -/
def after (i : Instr) (s : State) : State := match exec i s with | .next t => t | _ => s
/-- A released member. -/
def let_ (i : Instr) : State := after (.memoryAccessRelease 1 0 0) (entered i)
/-- A change of its parts. -/
def pg (g : Part → Part) : State → State := mg (fun m => { m with parts := m.parts.map g })
/-- A state without translations. -/
def cold (s : State) : State := { s with tlbs := [] }.updCluster 0 (fun k => { k with tlb := [] })
/-- A state whose translations may not be used. -/
def shut (s : State) : State := { s with tlbs := [(0, [{ page with u := false }])] }.updCluster 0 (fun k => { k with tlb := [{ page with u := false }] })
/-- One row of one word. -/
def row : BitVec 86 := 1 <<< 20
/-- A store of the core, behind its member, that stands in its store queue and that the member must wait for. -/
def held (stage : Nat) (s : State) : State :=
  mg (fun m => if m.id = 9 then m else { m with hb := [(1, 0, 9)] })
    (behind (fun m => { m with kind := .store, released := true, parts := [{ va := 0, pa := 1048576, len := 4, data := [1, 2, 3, 4], poison := false, stage := stage }] }) s)

/-- The wave buffer: chain order. -/
theorem met_order : [
    does (.chainOrderEntry 1 0 0) (issued (.ld pm)) (fun t => (lcx t).mem.any (·.entered)),
    does (.chainOrderEntry 1 0 0) (mg (fun m => { m with succ := 0xFE }) (issued (.ld pm))) (fun t => (lcx t).insts.isEmpty),
    does (.chainOrderEntry 1 0 0) (cg (fun x => { x with insts := x.insts.map (fun i => { i with last := some (1, 0) }) }) (issued (.ld pm)))
      (fun t => (lcx t).mem.any (·.entered)),
    does (.chainOrderEntry 1 0 0) (cg (fun x => { x with insts := x.insts.map (fun i => { i with owns := [0] }) }) (issued (.ld pm)))
      (fun t => t.traps.length == 1),
    idles (.chainOrderEntry 1 0 0) (cg (fun x => { x with insts := x.insts.map (fun i => { i with last := some (1, 2), owns := [1] }) }) (issued (.ld pm)))].all id = true := by
  decide +kernel

/-- The wave buffer: release. -/
theorem met_release : [
    does (.memoryAccessRelease 1 0 0) (entered (.ld pm)) (fun t => t.reqs.length == 1),
    does (.memoryAccessRelease 1 0 0) (entered (.st pd)) (fun t => (lcx t).mem.any (·.released)),
    does (.memoryAccessRelease 1 0 0) (entered (.aadd pd)) (fun t => t.reqs.length == 1),
    idles (.memoryAccessRelease 1 0 0) (behind (fun m =>
      { m with order := [], released := true,
               parts := List.replicate 256 { va := 0, pa := 1048576, len := 4, data := [], poison := false, stage := 2 } }) (entered (.aadd pd))),
    does (.memoryAccessRelease 1 0 0) (entered (.fence pm)) (fun t => (lcx t).mem.isEmpty),
    does (.memoryAccessRelease 1 0 0) (entered (.strmst pm row)) (fun t => (lcx t).mem.any (·.released)),
    does (.memoryAccessRelease 1 0 0) (shut (entered (.ld pm))) (fun t => t.traps.length == 1),
    idles (.memoryAccessRelease 1 0 0) (behind (fun m => { m with acq := true }) (entered (.ld pm))),
    idles (.memoryAccessRelease 1 0 0) (mg (fun m => { m with rel := true, order := [], scope := 2 }) (held 1 (entered (.st pd)))),
    -- released parts: into the store queue, through translation, and to the homes
    does (.memoryAccessRelease 1 0 0) (let_ (.st pd)) (fun t => (lcx t).sq.length == 1),
    does (.memoryAccessRelease 1 0 0) (let_ (.strmst pm row)) (fun t => (lcx t).sq.length == 1),
    idles (.memoryAccessRelease 1 0 0) (cold (let_ (.strm pm row))),
    does (.memoryAccessRelease 1 0 0) (shut (mg (fun m => { m with released := true }) (entered (.strm pm row)))) (fun t => t.traps.length == 1),
    does (.memoryAccessRelease 1 0 0) (shut (mg (fun m => { m with released := true, ra := .ahead }) (entered (.strm pm row))))
      (fun t => (lcx t).mem.any (fun m => m.parts.any (·.fault.isSome))),
    does (.memoryAccessRelease 1 0 0) (mg (fun m => { m with released := true }) (entered (.strm pm row))) (fun t => t.reqs.length == 1),
    does (.memoryAccessRelease 1 0 0) (pg (fun p => { p with fault := some (.accessFault, 0x55) })
      (mg (fun m => { m with released := true }) (entered (.strm pm row)))) (fun t => t.traps.length == 1),
    does (.memoryAccessRelease 1 0 0) (after (.memoryAccessRelease 1 0 0) (let_ (.st pd))) (fun t => (lcx t).sq.isEmpty && t.reqs.length == 1),
    idles (.memoryAccessRelease 1 0 0) (held 1 (after (.memoryAccessRelease 1 0 0) (let_ (.st pd))))].all id = true := by decide +kernel

/-- The wave buffer: replies and streams. -/
theorem met_buffer : [
    does (.memoryReply 1 0 0) (mg (fun m => { m with bound := true }) (entered (.ld pm))),
    idles (.memoryReply 1 0 0) (behind (fun m => { m with kind := .load, bound := false, replied := false, dstA := .node 0 false })
      (mg (fun m => { m with bound := true }) (entered (.ld pm)))),
    does (.streamComplete 1 0 0) (pg (fun p => { p with stage := 4 }) (mg (fun m => { m with released := true }) (entered (.strm pm row)))),
    does (.streamComplete 1 0 0) (pg (fun p => { p with stage := 4 }) (mg (fun m => { m with released := true }) (entered (.strm pm (row ||| (1 <<< 64)))))),
    does (.speculativeFillComplete 1 0 0) (pg (fun p => { p with stage := 4 }) (mg (fun m => { m with released := true, ra := .ahead }) (entered (.strm pm row))))
      (fun t => ((lcx t).tile 0).done)].all id = true := by decide +kernel

/-- A request of the core at its home. -/
def rq (kind : ReqKind) (scope : Nat) : HReq :=
  { asid := 1, lc := 0, id := 0, part := 0, kind := kind, opc := 0x280, typ := .i32, scope := scope, chain := 0, pa := 1048576, len := 4,
    data := [1, 2, 3, 4], poison := false, seq := 0, floor := 0, sent := 0, atHost := false }
/-- The first byte of host memory. -/
def hostPa : Nat := 2251799813685248
/-- The member of a load and its request. -/
def asks (r : HReq) : State := { (mg (fun m => { m with released := true }) (entered (.ld pm))) with reqs := [r] }

/-- A multicast job with its claims, and a request of it. -/
def mc (id : BitVec 16) (claims : List Nat) : EJob := { cl 0x2C3 4 256 with id := id, claims := claims }
/-- A request of a multicast line. -/
def mq (id : Nat) : HReq := { rq .mcast 2 with id := id, len := 4, data := [] }
/-- Two multicast jobs of the cluster, with requests. -/
def mcs (l : List HReq) : State := { ldw.updCluster 0 (fun k => { k with cpq := [mc 5 [0], mc 6 []] }) with reqs := l }

/-- Memory at its homes. -/
theorem met_homes : [
    does (.homeAccess 0) (mcs [mq 5]) (fun t => t.reqs.any (·.atHost)),
    idles (.homeAccess 0) (mcs [mq 5, { rq .write 2 with id := 9 }]),
    does (.homeAccess 0) (mcs [mq 5, { mq 6 with atHost := true, data := [0, 0, 0, 0], read := 3 }]) (fun t => t.reqs.all (fun r => r.atHost && r.read == 3)),
    does (.homeAccess 0) (asks { rq .write 2 with pa := hostPa }) (fun t => t.reqs.any (·.atHost)),
    idles (.homeAccess 0) { asks (rq .atomic 2) with reqs := [rq .atomic 2, rq .write 2] },
    does (.homeAccess 0) (asks { rq .atomic 2 with pa := hostPa, opc := 0x281 }) (fun t => t.traps.length == 1),
    idles (.homeAccess 0) { asks (rq .read 0) with owned := [(16384, 0)] }, does (.homeAccess 0) (asks (rq .read 0)) (fun t => t.reqs.isEmpty),
    does (.homeAccess 0) (asks (rq .read 2)) (fun t => t.reqs.isEmpty),
    idles (.homeAccess 0) { asks (rq .read 2) with reqs := [rq .read 2, rq .write 2] },
    does (.homeAccess 0) (asks { rq .read 2 with pa := hostPa }) (fun t => t.reqs.any (·.atHost)),
    does (.homeAccess 0) (asks (rq .write 2)) (fun t => t.reqs.isEmpty && t.mem.length != 0),
    does (.homeAccess 0) ((asks (rq .write 2)).markDone (rq .write 2)) (fun t => t.reqs.isEmpty && t.mem.isEmpty),
    idles (.homeAccess 1) { asks (rq .write 2) with reqs := [{ rq .write 2 with part := 1 }, rq .write 2] },
    does (.homeAccess 0) (asks (rq .atomic 2)) (fun t => t.reqs.isEmpty),
    does (.homeAccess 0) (asks { rq .atomic 2 with pa := hostPa }) (fun t => t.reqs.any (·.atHost)),
    does (.writeResend 0) (asks (rq .write 2)) (fun t => t.reqs.length == 2),
    does (.writeResendExpiry 0) ((asks (rq .write 2)).updField (lcx wp).field (fun f => { f with time := 100000 })) (fun t => t.traps.length == 1),
    does (.hostPortCompletion 0 true) (asks { rq .read 2 with pa := hostPa, atHost := true }) (fun t => t.reqs.isEmpty),
    does (.hostPortCompletion 0 true) (asks { rq .write 2 with pa := hostPa, atHost := true }) (fun t => t.reqs.isEmpty),
    does (.hostPortCompletion 0 true) (asks { rq .atomic 2 with pa := hostPa, atHost := true }) (fun t => t.reqs.isEmpty),
    does (.hostPortCompletion 0 false) (asks { rq .atomic 2 with pa := hostPa, atHost := true }) (fun t => t.traps.length == 1)].all id = true := by
  decide +kernel

/-- Translation. -/
theorem met_translation : [
    does (.tlbMissWalk fi 1 0 (.access 1 0 0)) ({ entered (.ld pm) with tlbs := [] }.updCluster 0 (fun k => { k with tlb := [] }))
      (fun t => (t.field fi).walks.length == 1),
    does (.walkComplete fi 0) (tables 15 (walks 0 none ldw)) (fun t => (t.field fi).walks.isEmpty && t.traps.isEmpty),
    does (.walkComplete fi 0) (tables 0 (walks 0 none ldw)) (fun t => (t.field fi).walks.any (·.fault.isSome)),
    does (.walkComplete fi 0) (walks 0 none ldw) (fun t => (t.field fi).walks.isEmpty && t.traps.length == 1),
    idles (.pageFaultResolution fi 0 none) { walks 0 (some 77824) ldw with owned := [(77824 / 64, 0)] },
    idles (.walkComplete fi 0) { tables 15 (walks 0 none ldw) with owned := [(77824 / 64, 0)] },
    does (.pageFaultResolution fi 0 none) (walks 0 (some 77824) ldw) (fun t => (t.field fi).walks.isEmpty),
    does (.pageFaultResolution fi 0 (some 0x10000F)) (walks 0 (some 77824) ldw) (fun t => (t.field fi).walks.all (·.fault.isNone)),
    (let f := ((walks 17592186044416 (some 77824) ldw).updField fi (fun f => { f with pages := [256] })).field fi;
     f.walks.any (fun w => w.fault == some 77824 && decide (17592186044416 ≤ w.vpn)) && (0x10000F : DWord).getLsbD 3 && f.pages == [ppnOf 0x10000F]),
    does (.backingPageTimeout fi 0) ((walks 17592186044416 (some 77824) ldw).updField fi (fun f => { f with time := 10000000 }))
      (fun t => (t.field fi).walks.isEmpty),
    does (.invalidateAll fi) wp (fun t => (t.field fi).invq.length == 1), does (.invalidateAsid fi 1) wp, does (.invalidateRange fi 1) wp,
    does (.invalidateAll fi) (wp.updField fi (fun f => { f with invq := List.replicate 8 default })) (fun t => (t.field fi).overrun),
    does (.invalidationComplete fi) ((entered (.ld pm)).updField fi (fun f => { f with invq := [default] })) (fun t => (SMap.get [] t.tlbs 0).isEmpty),
    idles (.invalidationComplete fi) ((asks (rq .read 0)).updField fi (fun f => { f with invq := [default] }))].all id = true := by decide +kernel

/-- A bank's state. -/
def bank (l : Nat) (g : Bank → Bank) (s : State) : State := s.updCluster 0 (fun x => x.updBank 0 l g)
/-- The banks of a column as the statement of a stripe takes them. -/
def stripeOk (s : State) (bad : Option Nat) : Bool :=
  Memory.wf s.mem && ((s.cluster 0).col 0).lpServes.isEmpty && bad != some 8 && (List.range 9).all (fun m =>
    let b := (s.cluster 0).bank 0 m
    b.lost.isEmpty && !b.down && b.st == (if bad = some m then .degraded else .healthy))

/-- Stripes and the DRAM wafer. -/
theorem met_dram : [
    stripeOk State.reset none, stripeOk (bank 3 (fun b => { b with st := .degraded }) State.reset) (some 3),
    SMap.wf 0 Cluster.init.ap, SMap.wf Desc.init Cluster.init.desc,
    does (.refreshOperation 0 0 0 true) State.reset, does (.bankSensorRead 0 0 0 600) State.reset (fun t => ((t.cluster 0).bank 0 0).period != 288),
    idles (.patrolScrub 0 0 0 0 .clean) State.reset, does (.patrolScrub 0 0 0 0 .corrected) State.reset (fun t => ((t.cluster 0).bank 0 0).ce == 1),
    does (.patrolScrub 0 0 0 0 .uncorrectable) State.reset (fun t => ((t.cluster 0).bank 0 0).ue == 1),
    does (.patrolScrub 0 0 0 0 .uncorrectable) ldw (fun t => ((t.cluster 0).bank 0 0).ue == 1),
    ((State.reset.cluster 0).bank 0 0).st == .healthy,
    does (.rebuildStripe 0 0 0) (bank 0 (fun b => { b with st := .degraded }) State.reset) (fun t => ((t.cluster 0).bank 0 0).st == .rebuilding),
    does (.rebuildStripe 0 0 0) (bank 0 (fun b => { b with st := .rebuilding }) State.reset),
    idles (.rebuildStripe 0 0 0) (bank 0 (fun b => { b with st := .degraded }) (bank 1 (fun b => { b with st := .substituted })
      (bank 2 (fun b => { b with st := .substituted }) State.reset))),
    does (.columnLoss 0 0) State.reset (fun t => ((t.cluster 0).col 0).lost), does (.verticalBusFailure 0 0 true) State.reset,
    does (.verticalBusFailure 0 0 true) (State.reset.updCluster 0 (fun x => x.updCol 0 (fun y => { y with busPartner := false })))
      (fun t => ((t.cluster 0).col 0).lost),
    !((State.reset.cluster 0).bank 0 0).down,
    idles (.layerShutdown 0 0) (bank 0 (fun b => { b with down := true }) State.reset), idles (.layerShutdown 0 0) State.reset,
    !((bank 0 (fun b => { b with temp := 880 }) State.reset).cluster 0 |>.bank 0 0).down,
    (((bank 0 (fun b => { b with down := true }) State.reset).cluster 0).bank 0 0).down,
    idles (.layerRestart 0 0) State.reset].all id = true := by decide +kernel

/-- A read of a remap copy. -/
def cr (st : BitVec 2) (w : DWord) : CopyRead := { state := st, words := [w, 0, 0, 0] }
/-- Both fields joined. -/
def joined (s : State) : State := (s.updField 0 (fun f => { f with joined := true, time := 9 })).updField 1 (fun f => { f with joined := true })
/-- A remap entry of field 0. -/
def rm (w0 : DWord) (s : State) : State := s.updField 0 (fun f => { f with remap := [(0, { Remap.init with w0 := w0 })] })

/-- The state in which a link has failed twice running, and whether its third failure puts its far router behind a detour. -/
def thirdFailure (c : Router) (dir : Nat) : Bool :=
  let fi := fieldOfCore c.1 c.2
  let r := linkTo c.1 c.2 dir
  let s := State.reset.updField fi (fun f => { f with linkBad := [(4 * coreInField c.1 c.2 + dir, 2)] })
  SMap.get 0 (s.field fi).linkBad (4 * coreInField c.1 c.2 + dir % 4) == 2 && decide (r.1 < 256 ∧ r.2 < 256 ∧ r ≠ c) &&
    s.detours.isEmpty && (s.field (fieldOfCore r.1 r.2)).freeRemap.isSome

/-- Retirements, the remap table and measurements. -/
theorem met_repairs : [
    does (.coreRetirement 0 0 1) State.reset (fun t => t.deadCore 0 0),
    idles (.coreRetirement 0 0 4) (State.reset.updField 0 (fun f => { f with excl := [0] })),
    does (.linkCrcFailure 0 0 0) State.reset, thirdFailure (0, 0) 0, thirdFailure (255, 255) 2, idles (.residueCheckFailure (.core 0 0 false)) State.reset,
    does (.residueCheckFailure (.core 0 0 true)) State.reset, does (.residueCheckFailure (.engine 8191 true)) State.reset,
    does (.rebindComplete 1 0) (cg (fun x => { x with rebindTo := some { cx := 1, cy := 0, half := false, doubled := false } }) wp)
      (fun t => (lcx t).host.cx == 1),
    idles (.rebindComplete 1 0) (cg (fun x => { x with rebindTo := some default, sq := [(0, 0)] }) wp),
    does (.remapScrub 0 255 { a := cr 1 12, b := cr 0 12, c := cr 3 0 }) State.reset,
    does (.remapScrub 0 0 { a := cr 0 12, b := cr 3 0, c := cr 3 0 }) (rm 4 State.reset),
    idles (.remapRebuildComplete 0 0 [4]) State.reset, does (.remapRebuildComplete 0 0 [4, 0, 0, 0]) (rm 0x404 State.reset),
    does (.bandMeasurement 0 1 100 200) (joined State.reset), does (.offsetMeasurement 0 1 3 0 9) (joined State.reset)].all id = true := by
  decide +kernel

/-- A change of a launch queue. -/
def lqu (g : LQueue → LQueue) (s : State) : State := s.updLQ 0 g
/-- A launch that waits. -/
def waitsL (s : State) : State :=
  { s with waiting := [{ launch := { wordLaunch with queue := 0, index := 3, age := 7 }, count := 0, saved := false, obj := none }] }

/-- Queue 0 with one entry, whose record has these bytes at its shape, in field 3 with ASID 1's page 0 mapped. -/
def entry (w h : Byte) (s : State) : State :=
  ((tables 15 { lqu (fun l => { l with en := true, log2n := 4, prod := 1 }) s with booted := true }).updField 3 (fun f =>
    { f with rootEn := true, rootPa := 16 })).writeRange 64 12 [w, h, 0, 0, 0, 0, 1] false
/-- The launch of that record, whether its COMPL may be written, and what its intake comes to. -/
def takes (o : GraphObj) (s : State) : Bool × Nat :=
  let bs := s.bytesAt ((s.lqueue 0).entry 0) 256
  let l := Launch.parse bs 0 0 s.ageCtr
  (s.nextQueue == some 0 && rangeOk l.compl (fun v => s.vwritable s.bootField l.asid v 64),
   match s.intakeCheck l bs (some o) with | .ok _ => 0 | .error (.inl _) => 1 | .error (.inr _) => 2)
/-- Function 0 for every ASID. -/
def fn0 (s : State) : State := s.updPcie 0 (fun b => { b with fn := [(0, { FnEntry.init 0 with en := true, asidLo := 0, asidHi := 4095 })] })

/-- An intake whose entry an engine's lines hold: it waits. -/
def owns_ (i : Instr) (s : State) : Bool :=
  let at_ := (s.lqueue 0).entry (s.lqueue 0).cons.toNat
  let t := { s with owned := [(at_ / 64, 0)] }
  t.nextQueue == some 0 && t.isOwned at_ 256 && idles i t

/-- Launches. -/
theorem met_launches : [
    takes (wordObj 0) (fn0 (entry 1 1 (joined State.reset))) == (true, 0), takes (wordObj 0) (fn0 (entry 128 64 (State.reset.updField 0 (fun f => { f with mex := [0] })))) == (true, 1),
    takes (wordObj 0) (entry 0 1 State.reset) == (true, 2), !(takes (wordObj 0) ((entry 1 1 State.reset).updField 3 (fun f => { f with rootEn := false }))).1,
    idles (.doorbell 0 5 0 1) State.reset, does (.doorbell 0 0 0 1) State.reset (fun t => (t.lqueue 0).prod == 1),
    does (.doorbell 0 0 0 1) (lqu (fun l => { l with dev := true }) State.reset) (fun t => (t.pcieBlk 0).denied == 1),
    does (.lqProdWrite 0 0 1) State.reset (fun t => (t.lqueue 0).prod == 1),
    does (.launchIntake 0 none) ({ lqu (fun l => { l with en := true, log2n := 4, prod := 1 }) State.reset with booted := true })
      (fun t => (t.lqueue 0).cons == 1),
    does (.startTokenInjection 1) (pit (fun p => { p with st := .loading }) wp) (fun t => t.running 1),
    does (.pitchCompletion 1) (pit (fun p => { p with sinks := [(0, 0)], sinksDone := [(0, 0)] }) wp) (fun t => (t.pitch? 1).isNone),
    idles (.pitchCompletion 1) wp, idles (.watchdog 1) wp,
    does (.watchdog 1) (pit (fun p => { p with launch := { p.launch with wdog := 1 } }) (wp.updField 0 (fun f => { f with time := 1000 })))
      (fun t => (t.pitch? 1).isNone),
    does (.cancel 0 0 3) (waitsL State.reset) (fun t => t.waiting.isEmpty), idles (.cancel 0 0 9) (waitsL State.reset), owns_ (.launchIntake 0 none) (entry 1 1 State.reset),
    does (.cancel 0 0 0) wp (fun t => (t.pitch? 1).isNone)].all id = true := by decide +kernel

/-- A claim of port 0. -/
def own0 (s : State) : State := { s with owner := 1 }

/-- Preemption and restore. -/
theorem met_preemption : [
    ((wp.lowestRect (fun _ => false) (wordObj 0) [] 1 1).map (fun r => (r.kx0, r.ky0))).isSome,
    does (.preempt 0 1) wp (fun t => (t.pcieBlk 0).denied == 1), does (.preempt 0 1) (own0 wp) (fun t => t.preemptReq == [1]),
    idles (.preempt 0 1) (own0 { wp with preemptReq := [1] }),
    does (.preemptionHalt 1) { wp with preemptReq := [1] } (fun t => !t.running 1),
    does (.preemptionHalt 1) (pit (fun p => { p with sinks := [(0, 0)], sinksDone := [(0, 0)] }) { wp with preemptReq := [1] }) (fun t => t.running 1),
    idles (.preemptionHalt 1) wp, does (.preemptionSave 1) (pit (fun p => { p with st := .halting }) wp),
    idles (.preemptionSave 1) (cg (fun x => { x with sq := [(0, 0)] }) (pit (fun p => { p with st := .halting }) wp)),
    does (.pitchRestore 1) (pit (fun p => { p with st := .restoring }) wp) (fun t => t.running 1)].all id = true := by decide +kernel

/-- The meeting of the example of 11 R293: four members, a quorum of three, a lag of one round and one round ahead, at entry 0
of field 0. -/
def mt0 : Meeting :=
  { w0 := 0x0001000000000000, w1 := 0xFFFFFFFFFFFF0000, w2 := 9 + 2 ^ 15 * 15 + 2 ^ 19 * 3 + 2 ^ 29 * 2 + 2 ^ 42 + 2 ^ 46 * 2,
    w3 := 2 ^ 32 + 2 ^ 39, w4 := 0x100000, w5 := 0, round := 2, oncnt := 0, latecnt := 0, frozen := false, unreach := false, dup := 0,
    deadline := 0, remaining := 0, members := [], onTime := [], late := [], ahead := [], waiting := [], links := [] }
/-- The state with a meeting, its buffer's page mapped, and its weight table. -/
def mst (m : Meeting) : State :=
  tables 15 ((wp.setMeeting 0 0 m).updField 0 (fun f => { f with wtab := [(0, { w := [0x3F000000], valid := true, asid := 1, idx := 0, grp := 0 })] }))
/-- A contribution of a member for a round. -/
def con (m t : Nat) : Contrib :=
  { member := m, t := t, delta := 0, lanes := [0x3F800000], poison := false, field := 0,
    job := { (jb 0x308 0) with tagOut := 0x0001000000000000 + BitVec.ofNat 64 t, scale := [0] } }
/-- A contribution that the unit takes at once. -/
def took (m : Meeting) (c : Contrib) (p : Meeting → Bool) : Bool :=
  match (mst m).contribute 3 0 0 true c with | .ok t => (match t.meeting? 0 0 with | some n => p n | none => false) | _ => false
/-- A meeting command at the head of field 0's unit. -/
def mcm (opc : BitVec 10) (owner : Nat := 0) : State :=
  (mst mt0).updField 0 (fun f => { f with mq := [{ jb opc 0 with scale := [BitVec.ofNat 32 (1024 * owner)] }] })

/-- A question of the core at field 0's mapping unit. -/
def mapReq0 : MapReq := { asid := 1, lc := 0, fire := wordFiring, what := 0, arg := 0, n := nn .i32 .mono 0 0, tagOut := 0, rtA := 0, rtB := 0 }

/-- Rounds. -/
theorem met_rounds : [
    took mt0 (con 4 2) (fun m => m.dup == 1), took (mt0.updMember 0 (fun x => { x with on := true })) (con 0 2) (fun m => m.dup == 1),
    took mt0 (con 0 2) (fun m => m.oncnt == 1), took { mt0 with oncnt := 2, onTime := [con 1 2, con 2 2] } (con 0 2) (fun m => m.round == 3),
    took mt0 (con 3 3) (fun m => m.ahead.length == 1), took { mt0 with ahead := [con 3 3] } (con 3 3) (fun m => m.dup == 1),
    took mt0 (con 3 1) (fun m => m.late.length == 1), took { mt0 with late := [con 3 1] } (con 3 1) (fun m => m.dup == 1),
    took mt0 (con 3 0) (fun m => (m.member 3).lag == 1),
    does (.contributionArrival 0 0) { mst mt0 with contribs := [con 0 2] } (fun t => ((t.meeting? 0 0).map (·.oncnt)) == some 1),
    does (.contributionArrival 0 0) { wp with contribs := [con 0 2] } (fun t => t.contribs.isEmpty && t.traps.length == 0),
    does (.contributionArrival 0 0) { mst { mt0 with frozen := true } with contribs := [con 0 2] }
      (fun t => ((t.meeting? 0 0).map (·.waiting.length)) == some 1),
    idles (.roundTimeout 0 0) (mst mt0), does (.roundTimeout 0 0) (mst { mt0 with w3 := mt0.w3 + 5 }),
    does (.meetingCommandDequeue 0 0) (mcm 0x307), does (.meetingCommandDequeue 0 0) (mcm 0x30C), does (.meetingCommandDequeue 0 0) (mcm 0x30D),
    does (.meetingCommandDequeue 0 0) (mcm 0x308) (fun t => t.contribs.length == 1), does (.meetingCommandDequeue 0 0) (mcm 0x309),
    does (.meetingCommandDequeue 0 0) (mcm 0x308 65536) (fun t => t.flight.length == 1),
    does (.meetingCommandDequeue 0 0) (mcm 0x30D 65536) (fun t => (t.field 0).walkers.length == 1 && t.flight.length == 1),
    does (.meetingCommandDequeue 0 0) ((mst mt0).updField 0 (fun f => { f with mq := [{ jb 0x309 0 with scale := [BitVec.ofNat 32 (65536 * 1024)] }] }))
      (fun t => t.flight.length == 1),
    does (.meetingCommandDequeue 0 1) { mst mt0 with mfwd := [(0, { jb 0x309 0 with scale := [0] })] } (fun t => t.mfwd.isEmpty),
    does (.mappingUnitRequest 0) { wp with mapReqs := [(0, mapReq0)] } (fun t => t.mapReqs.isEmpty)].all id = true := by decide +kernel

/-- A ring of four members and one chunk, with its walker of member 0. -/
def rw0 : Walker :=
  { asid := 1, mnum := 0, owner := 0, member := 0, job := { jb 0x30D 0 with scale := [0] }, src := 1048576, dst := 2097152, round := 0,
    epoch := 1, dead := [], bs := [], completed := [], credits := 4, started := 0, stopped := false, qs := [], waitSince := 0, frozen := false,
    flags := 0, poison := false }
/-- The state with a ring and a walker. -/
def rst (w : Walker) : State := (mst { mt0 with w2 := mt0.w2 + 2, w3 := mt0.w3 + 5 }).updField 0 (fun f => { f with walkers := [(0, w)] })
/-- A control message to member 0. -/
def rc (e arg : Nat) : RingCtl := { asid := 1, mnum := 0, owner := 0, src := 3, dst := 0, epoch := e, arg := arg }
/-- A chunk for member 0. -/
def ch (e : Nat) : RingMsg :=
  { asid := 1, mnum := 0, owner := 0, src := 3, dst := 0, epoch := e, chunk := 0, bcast := false, hops := 2, data := [], poison := false, flags := 0 }
/-- The walker of a state. -/
def wk0 (t : State) (p : Walker → Bool) : Bool := match SMap.find (t.field 0).walkers 0 with | some w => p w | none => false

/-- Rings. -/
theorem met_rings : [
    does (.ringChunkArrival 0) { rst rw0 with ring := [ch 0] } (fun t => t.ring.isEmpty), idles (.ringChunkArrival 0) { rst rw0 with ring := [ch 2] },
    idles (.ringChunkArrival 0) { rst { rw0 with stopped := true } with ring := [ch 1] },
    does (.ringChunkArrival 0) { rst { rw0 with dead := [(3, 1)] } with ring := [ch 1] } (fun t => t.ring.isEmpty), does (.ringChunkArrival 0) { rst rw0 with ring := [ch 1] },
    does (.ringCreditArrival 0) { rst rw0 with ringCredit := [rc 0 0] }, does (.ringCreditArrival 0) { rst rw0 with ringCredit := [rc 1 0] },
    idles (.ringCreditArrival 0) { rst rw0 with ringCredit := [rc 2 0] },
    idles (.ringTimeout 0 0) (rst { rw0 with stopped := true }),
    does (.ringTimeout 0 0) ((rst rw0).updField 0 (fun f => { f with time := 5 })) (fun t => t.ringDead.length == 3),
    does (.deadNotice 0) { rst rw0 with ringDead := [rc 1 0] } (fun t => (t.field 0).walkers.isEmpty),
    does (.deadNotice 0) { rst { rw0 with dead := [(2, 1)] } with ringDead := [rc 1 2] } (fun t => wk0 t (fun w => w.dead.length == 1)),
    idles (.deadNotice 0) { rst rw0 with ringDead := [rc 2 2] }, does (.deadNotice 0) { rst { rw0 with epoch := 3 } with ringDead := [rc 1 2] } (fun t => t.ringDead.isEmpty),
    idles (.completionIndex 0) { rst rw0 with ringQ := [rc 2 0] },
    does (.deadNotice 0) { rst rw0 with ringDead := [rc 1 2] } (fun t => wk0 t (fun w => w.dead.length == 1)),
    does (.completionIndex 0) { rst rw0 with ringQ := [rc 0 0] } (fun t => t.ringQ.isEmpty),
    does (.completionIndex 0) { rst { rw0 with stopped := true } with ringQ := [rc 1 0] } (fun t => wk0 t (fun w => w.qs.length == 1)),
    does (.completionIndex 0) { rst { rw0 with stopped := true, qs := [(0, 9), (1, 9), (2, 9)] } with ringQ := [rc 1 9] }
      (fun t => wk0 t (fun w => w.epoch == 2))].all id = true := by decide +kernel

/-- A mailbox command of the boot field. -/
def mb (op : BitVec 8) (a0 a1 : DWord) : State :=
  State.reset.updField 3 (fun f => { f with mbBusy := true, mbSeq := 7, mbOp := op, mbArg0 := a0, mbArg1 := a1 })
/-- Whether a mailbox command ended with a code. -/
def ended (code : BitVec 8) (t : State) : Bool := (t.field 3).mbDone == 7 && (t.field 3).mbCode == code && !(t.field 3).mbBusy
/-- A report that waits. -/
def rep (s : State) : State := { s with reports := [{ kind := 2, field := 0, detail := 0, pa := 0, len := 0, time := 0 }] }
/-- A host that is up, and its request. -/
def hostUp : State := State.reset.updPcie 0 (fun b => { b with up := true })
/-- A read of a BAR. -/
def hr (fn bar off : Nat) : HostReq := { port := 0, fn := fn, bar := bar, off := off, len := 8, data := none }

/-- One virtual function of port 0 enabled. -/
def vf1 : State := hostUp.updPcie 0 (fun b => { b with numVfs := 1 })

/-- Owners, the mailbox, reports and the host's requests. -/
theorem met_owners : [
    does (.ownClaim 0) State.reset (fun t => t.owner == 1), idles (.ownClaim 0) (own0 State.reset),
    does (.ownClaim 1) (own0 hostUp) (fun t => (t.pcieBlk 1).claimfail), does (.ownClaim 1) (own0 State.reset) (fun t => t.owner == 2),
    does (.ownRelease 0) (own0 State.reset), idles (.ownRelease 1) (own0 State.reset),
    does (.hbBeat 0) { own0 State.reset with hbage := 5 }, does (.hbBeat 1) (own0 State.reset),
    does (.regionRelease 3) (mb 1 127 495) (ended 0), does (.regionRelease 3) (mb 1 127 496) (ended 1), does (.unitClear 3) (mb 2 0x200000000000 0) (ended 1),
    does (.pageGrant 3) (mb 3 0 0) (ended 1), does (.coreRetire 3) (mb 4 0x60 0) (ended 0), does (.coreRetire 3) (mb 4 0 0) (ended 1),
    does (.journalClear 3) (mb 5 0 0) (fun t => ended 0 t && t.clearPend), does (.svnCommit 3) (mb 6 0 0) (ended 0),
    does (.mailboxBadCommand 3) (mb 7 0 0) (ended 1), does (.mailboxBadCommand 3) (mb 0 0 0) (ended 1),
    does .reportRingWrite { rep State.reset with rptEn := true, rptLog2n := 4 } (fun t => t.reports.isEmpty && t.rptProd == 1),
    idles .reportRingWrite (rep State.reset), does (.linkUpChange 0 false 1 1) hostUp, does (.linkUpChange 0 true 1 1) State.reset,
    idles (.linkUpChange 0 true 1 1) (State.reset.updField 3 (fun f => { f with fenced := true })),
    does (.hostMemoryRequest (hr 0 0 0)) hostUp, does (.hostMemoryRequest (hr 0 0 0x4000000)) hostUp,
    does (.hostMemoryRequest (hr 0 0 0x4100000)) hostUp (fun t => (t.pcieBlk 0).cpl == some (false, [])),
    does (.hostMemoryRequest (hr 0 4 0)) hostUp, does (.hostMemoryRequest (hr 0 4 (2 ^ 45 - 7))) hostUp (fun t => (t.pcieBlk 0).cpl == some (false, [])),
    does (.hostMemoryRequest (hr 1 4 (2 ^ 36 - 7))) hostUp (fun t => (t.pcieBlk 0).cpl == some (false, [])),
    does (.hostMemoryRequest { hr 0 2 0 with data := some [1, 0] }) hostUp (fun t => (t.lqueue 0).prod == 1),
    does (.hostMemoryRequest (hr 1 0 0)) vf1 (fun t => (t.pcieBlk 0).cpl.any (·.1)), does (.hostMemoryRequest (hr 1 0 8)) vf1,
    does (.hostMemoryRequest (hr 1 4 0)) vf1, does (.hostMemoryRequest (hr 2 4 0)) vf1 (fun t => (t.pcieBlk 0).cpl == some (false, [])),
    does (.hostMemoryRequest { hr 0 7 16 with data := some [1, 0] }) hostUp (fun t => (t.pcieBlk 0).numVfs == 1),
    idles (.registerWrite (.host 0 1) 0x200000000000 1) State.reset].all id = true := by decide +kernel

/-- A firmware image that passes every check. -/
def fw : FirmwareCheck := { rsaOk := true, slhOk := true, keysOk := true, arch := 1, svn := 0, lenOk := true }
/-- A boot that has reached a step. -/
def bst (step : Nat) (g : State → State := id) : State :=
  let j : List JRec := [JRec.sealed { step := step, start := true, variant := 0, attempt := 0, result := 0, bootnum := 0, crc := 0 }]
  g { State.reset with booting := true, bootCur := step, romPass := true, journal := j }
/-- Port 0's link up. -/
def up1 (s : State) : State := s.updPcie 0 (fun b => { b with up := true })
/-- The latest record of a step. -/
def ended' (step result : Nat) (t : State) : Bool := (latestRec (t.journal) step).any (fun r => !r.start && r.result == result)
/-- Field 3 in recovery, its ports waiting. -/
def recov : State := (State.reset.updField 3 (fun f => { f with recovery := true })).updPcie 0 (fun b => { b with wait := true })
/-- A change of field 0. -/
def f0 (g : Field → Field) : State := State.reset.updField 0 g

/-- Boot, verification, power and heat. -/
theorem met_boot : [
    does (.bootStart { ok3 := true, ok4 := true } fw) State.reset (fun t => t.booting && t.bootField == 3),
    does (.bootStart { ok3 := false, ok4 := true } fw) State.reset (fun t => t.bootField == 4),
    idles (.bootStart { ok3 := true, ok4 := true } fw) { State.reset with booted := true },
    does (.bootStep 0 (.done 5)) (bst 0) (fun t => ended' 0 0 t), does (.bootStep 0 .failed) (bst 0),
    does (.bootStep 1 (.done 5)) (bst 1 up1) (fun t => ended' 1 0 t), does (.bootStep 1 (.doneOne 5)) (bst 1 up1) (fun t => (t.field 4).fenced),
    does (.bootStep 1 (.done 5)) (bst 1), does (.bootStep 1 (.doneOne 5)) (bst 1), does (.bootStep 1 .failed) (bst 1), does (.bootStep 2 (.done 5)) (bst 2) (fun t => ended' 2 0 t),
    idles (.bootStep 0 (.done 5)) State.reset,
    does (.rcvcmdGo 0 true) recov (fun t => (t.pcieBlk 0).busy && t.rcvJclr), idles (.rcvcmdGo 0 true) State.reset,
    idles (.imageVerification 1) recov, (let s := recov.updPcie 0 (fun b => { b with busy := true }); (s.pcieBlk s.rcvPort).busy),
    idles (.imageVerification 0) recov,
    gives (.spdmRequest 1 5) State.reset (fun t => t.spdm.length == 1), does (.powerLoss true) (wp.updPcie 0 (fun b => { b with busy := true })) (fun t => !t.fwOk),
    does (.powerLoss true) (bst 0) (fun t => t.journal.any (fun r => !r.valid)), does (.powerLoss false) (bst 0) (fun t => t.journal.all (·.valid)),
    does (.throttleStep 0 true) State.reset (fun t => (t.field 0).cur == 28), does (.throttleStep 0 false) (f0 (fun f => { f with jth := 1, tj := 9 }))
      (fun t => (t.field 0).cur == 28),
    does (.throttleStep 0 true) (f0 (fun f => { f with cur := 0, tj := 840 })) (fun t => (t.field 0).hold),
    does (.throttleRecovery 0) (f0 (fun f => { f with cur := 29, jthrot := true })) (fun t => (t.field 0).cur == 32),
    idles (.throttleRecovery 0) (f0 (fun f => { f with cur := 20, powerThrot := true })),
    does (.holdClear 0) (f0 (fun f => { f with hold := true, tj := 760, time := 1000000 })) (fun t => !(t.field 0).hold),
    idles (.holdClear 0) (f0 (fun f => { f with hold := true, tj := 760, time := 999999 })),
    idles (.holdClear 0) (f0 (fun f => { f with hold := true, tj := 761 })), idles (.clksetWrite 0 0 45) (own0 State.reset),
    does (.clksetWrite 0 0 44) (own0 State.reset) (fun t => (t.field 0).clkset == 44 && (t.field 0).cur == 32),
    does (.clksetWrite 0 0 0) State.reset (fun t => (t.pcieBlk 0).denied == 1)].all id = true := by decide +kernel

/-- A state of lane 0 of port 0. -/
def ln (g : LaneSt → LaneSt) (s : State := State.reset) : State := s.updPort 0 (fun p => p.updLane 0 g)
/-- A state in which the time of port 0's field has passed. -/
def past (n : Nat) (s : State) : State := s.updField (portField 0) (fun f => { f with time := BitVec.ofNat 64 n })
/-- The lane's state. -/
def lst (t : State) : Nat := ((t.port 0).lane 0).st.toNat

/-- The lanes of a port. -/
theorem met_lanes_of_ports : [
    does (.laneTuneDone 0 0 4095) (ln (fun x => { x with st := 1 })) (fun t => lst t == 2),
    does (.laneTuneDone 0 0 1) (ln (fun x => { x with st := 1 })) (fun t => lst t == 1),
    does (.laneTuneDone 0 0 1) (past 50000 (ln (fun x => { x with st := 1 }))) (fun t => lst t != 1),
    does (.laneTuneDone 0 0 4095) (ln (fun x => { x with st := 4 })), does (.laneTuneDone 0 0 1) (ln (fun x => { x with st := 4 })) (fun t => lst t == 4),
    idles (.laneTuneDone 0 0 4095) (ln (fun x => { x with st := 4, await := true })), idles (.laneTuneDone 0 0 4095) State.reset, does (.laneTrainDone 0 0) (ln (fun x => { x with st := 2 })) (fun t => lst t == 3),
    idles (.laneTrainDone 0 0) State.reset, does (.berFault 0 0) (ln (fun x => { x with st := 3, recent := [(0, 22)] })), idles (.berFault 0 0) State.reset,
    does (.moveack 0 0) (ln (fun x => { x with st := 4, await := true })), does (.movenak 0 0) (ln (fun x => { x with st := 4, await := true })) (fun t => lst t == 5),
    does (.movenak 0 0) ((ln (fun x => { x with st := 4, await := true })).updPort 0 (fun p => { p with asked := some (0, 3) })) (fun t => lst t == 3),
    idles (.movenak 0 0) (ln (fun x => { x with st := 4 })),
    idles (.moveack 0 0) State.reset, does (.move 0 0 14) (ln (fun x => { x with st := 3 })) (fun t => lst t == 4),
    does (.move 0 0 1) (ln (fun x => { x with st := 3 })) (fun t => lst t == 5), does (.restripe 0 0 7) (ln (fun x => { x with st := 3 })),
    does (.restripe 0 0 7) State.reset, idles (.ringFault 0 0) State.reset,
    gives (.ringFault 0 0) (past 1000 State.reset) (fun _ => true), does (.ringFault 0 0) (past 1000 (ln (fun x => { x with st := 3 }))),
    idles (.down 0) State.reset, does (.down 0) (State.reset.updPort 0 (fun p => { p with st := 2 })) (fun t => (t.port 0).st == 0),
    idles (.portRetrain 0) State.reset, idles (.portRetrain 0) (past 999999 (State.reset.updPort 0 (fun p => { p with en := true }))),
    does (.portRetrain 0) (past 1000000 (State.reset.updPort 0 (fun p => { p with en := true }))) (fun t => lst t == 1)].all id = true := by
  decide +kernel

/-- A token in flight to the port map. -/
def out0 (s : State) : State := { s with flight := [{ fl tk with dst := .wafer 0 }] }
/-- A frame. -/
def fr : LinkFrame := { (default : LinkFrame) with fseq := 0 }
/-- Port 0 up, its lane active. -/
def up0 : State := ln (fun x => { x with st := 3 }) (State.reset.updPort 0 (fun p => { p with en := true, st := 2 }))
/-- Port 0 with a ring page at page 16. -/
def serv (g : OptPort → OptPort := id) : State := State.reset.updPort 0 (fun p => g { p with en := true, hmode := true, rpgEn := true, rpgPa := 16 })

/-- Frames, ring pages and lasers. -/
theorem met_links : [
    does (.portEgress 0 0) (out0 State.reset) (fun t => (t.port 0).pdrop == 1),
    does (.portEgress 0 0) (out0 (((State.reset.updPort 0 (fun p => { p with egEn := true, st := 2 })).writeRange 64 0 (bytesOfNat 8 3) false)))
      (fun t => (t.port 0).tokNo == 1),
    decide (flitsTok (tokFlits tk) = tk), gives (.frameReceive 0 0 0 (some (frameBits 0 { fr with slots := [some default] }))) (ln (fun x => { x with st := 3 })) (fun t => (t.port 0).st == 0),
    idles (.frameReceive 0 0 0 none) State.reset, idles (.frameReceive 0 0 0 (some (frameBits 0 fr))) (ln (fun x => { x with st := 1 }) up0),
    does (.frameReceive 0 0 0 none) up0 (fun t => ((t.port 0).lane 0).unc == 1), does (.frameReceive 0 0 0 (some (frameBits 0 fr))) up0,
    idles (.nakReplay 0 0 5) up0, does (.nakReplay 0 0 0) (ln (fun x => { x with buf := [fr] }) up0),
    does (.pctlWrite .firmware 0 3) State.reset (fun t => lst t == 1 && (t.port 0).hmode), does (.pctlWrite .firmware 0 0) up0 (fun t => lst t == 0),
    does (.pctlWrite (.host 0 0) 0 1) State.reset (fun t => (t.pcieBlk 0).denied == 1),
    idles (.lockLoop 0 15 1 2 3 6000) State.reset, does (.lockLoop 0 15 1 2000 3 6000) up0, idles (.ringPagePoll 0) State.reset,
    does (.ringPageSample 0 [] []) (serv), does (.ringPagePoll 0) (serv), idles (.ringPagePoll 0) (serv (fun p => { p with cseq := some 0 })),
    does (.ringPagePoll 0) (serv (fun p => { p with cseq := some 9 })),
    does (.laserUpdate 15 { bias := 1, margin := 2, temp := 700, linePwr := [] }) State.reset
      (fun t => (SMap.get Laser.init t.lasers 15).tempAlm)].all id = true := by decide +kernel

/-- A frame reads back from its bits as 18 R428 lays them out, with its mark and the place of its lane. -/
theorem test_frame :
    let f : LinkFrame := { fseq := 77, ack := some 5, nak := none, cred := [0, 1, 2, 3, 4, 15], lcmOp := 1, lcmLane := 9, lcmWl := 14, lcmStripe := 9,
                           slots := (List.range 9).map (fun i => if i = 2 then none else some { vc := 5, half := true, bits := BitVec.ofNat 256 (i + 1) }) }
    readFrame (frameBits 9 f) = f ∧ (frameBits 9 f).toNat % 1024 = 64 * 9 + 13 := by decide +kernel

/-- The step of an agenda's one action. -/
def steps (a : Action) (s : State) (p : State → Bool) : Bool :=
  match step { s with agenda := [a] } with | .next t => p t | _ => false
/-- The state with one firing in the ready queue. -/
def rdy (i : Instr) (h : State → State := id) : State := { h (wm i) with ready := [((lcx wp).core, [wordFiring])] }

/-- What a step does with each action, and a good state. -/
theorem met_steps : [
    Memory.wf State.reset.mem && hostField State.reset.bootField, isNode (.pass (nn .i32 .mono 0 0)) && WellFormed (.pass (nn .i32 .mono 0 0)),
    steps (.issue 0) (rdy (.iadd (nn .i32 .dyad 0 0))) (fun t => (t.readyQ 0).isEmpty && t.cur.isNone && t.traps.isEmpty),
    steps (.issue 0) (rdy (.ext 0)) (fun t => t.traps.length == 1),
    steps (.issue 0) (rdy (.mma (mm 0) 0) (ts .filling)) (fun t => (t.readyQ 0).length == 1),
    -- a firing that waits for a tile, behind another that has waited, and one that waits for none
    steps (.issue 0) { rdy (.mma (mm 0) 0) (ts .filling) with ready := [((lcx wp).core, [wordFiring, wordFiring])] } (fun t => (t.readyQ 0).all (·.waits)),
    behindWaiter [{ wordFiring with waits := true }, { wordFiring with waits := true }] 1,
    !behindWaiter [{ wordFiring with waits := true }, wordFiring] 1,
    steps (.event .ownerLost) State.reset (fun _ => true), steps (.elapse 0 5) State.reset (fun t => (t.field 0).time == 5),
    steps (.junction 0 900) State.reset (fun t => (t.field 0).tj == 900),
    -- fetch: the records of the instruction, an extension record beyond the request, an error of a record and of its extension
    (match (lcx (wm (.mma (mm 0) 0))).fetch 0 with | .ok i => i == .mma (mm 0) 0 | _ => false),
    (match ({ lcx (wm (.mma (mm 0) 0)) with reqNodes := 1 }).fetch 0 with | .error d => d == .ext | _ => false),
    (match ({ lcx (wm (.mma (mm 0) 0)) with nodeUe := [1] }).fetch 0 with | .error d => d == .uncorrectable | _ => false),
    (match ({ lcx wp with nodeUe := [0] }).fetch 0 with | .error d => d == .uncorrectable | _ => false),
    steps (.sram 1 0 .corrected) wp (fun t => (lcx t).cnt.sramCe == 1),
    steps (.sram 1 0 (.tile 23 4095)) wp (fun t => ((lcx t).tile 23).poison == [511]),
    steps (.sram 1 0 (.node 4095)) wp (fun t => (lcx t).nodeUe == [4095]), steps (.cycle 1 0 true false) wp (fun _ => true)].all id = true := by
  decide +kernel

/-- A token held in the core's injection queue for a blocked logical core. -/
def heldTok : Flight := { src := .lcore 1 0, dst := .lcore 1 0, tok := tk, ni := none, org := none }

/-- The state with a blocked logical core. -/
def stuck : State := cg (fun x => { x with rebindTo := some default }) wp

/-- A core whose injection queue the tokens held for a blocked logical core fill (10 R270): one more than it holds. -/
theorem met_injection : ({ stuck with flight := List.replicate (Config.injDepth + 1) heldTok } : State).injectionFull 0 = true := by
  have h : ∀ n, ({ stuck with flight := List.replicate n heldTok } : State).heldFlits 0 = n := by
    intro n
    have l : ∀ m, ({ stuck with flight := m } : State).lc? 1 0 = stuck.lc? 1 0 := fun _ => rfl
    have k : stuck.lc? 1 0 = some (lcx stuck) ∧ (lcx stuck).core = 0 ∧ (lcx stuck).blocked = true := by decide +kernel
    have sum : ∀ n : Nat, (List.replicate n 1).sum = n := by
      intro n
      induction n with
      | zero => rfl
      | succ n ih => simp [List.replicate_succ, ih]; omega
    unfold State.heldFlits
    rw [List.map_replicate]
    simp only [heldTok, l, k]
    exact sum n
  simp [State.injectionFull, h]

/-- Field 0 with the cores `l` alone alive and with remap entries, every other core of the wafer excluded. -/
def field0 (l : List Nat) (r : SMap Remap) (i : Nat) : Field :=
  { Field.init with excl := (List.range 1024).filter (fun c => i ≠ 0 || !l.contains c), remap := if i = 0 then r else [] }
/-- The wafer of those fields. -/
def wafer (l : List Nat) (r : SMap Remap) : State := { State.reset with fields := (List.range 64).map (fun i => (i, field0 l r i)) }

/-- The fields of that wafer. -/
theorem wafer_field (l : List Nat) (r : SMap Remap) (k : Nat) (h : k < 64) : (wafer l r).field k = field0 l r k := by
  have g : ∀ ks : List Nat, k ∈ ks → SMap.get Field.init (ks.map (fun i => (i, field0 l r i))) k = field0 l r k := by
    intro ks
    induction ks with
    | nil => simp
    | cons a t ih =>
      intro hk
      simp only [List.map_cons, SMap.get]
      split
      · rename_i e; rw [e]
      · exact ih (by grind)
  exact g _ (List.mem_range.2 h)

/-- A filter that nothing from a place on passes. -/
theorem filter_below (p : Nat → Bool) (m n : Nat) (h : m ≤ n) (hp : ∀ i, m ≤ i → p i = false) :
    (List.range n).filter p = (List.range m).filter p := by
  induction n with
  | zero => rw [Nat.le_zero.1 h]
  | succ n ih =>
    by_cases e : m = n + 1
    · rw [e]
    · rw [List.range_succ, List.filter_append, ih (by omega)]
      simp [hp n (by omega)]

/-- A filter of an image, by what it holds of the indices. -/
theorem filter_image (n : Nat) (g : Nat → Router) (p : Router → Bool) (live : List Nat) (hp : ∀ i, i < n → p (g i) = live.contains i)
    (hl : (List.range n).filter (fun i => live.contains i) = live) : ((List.range n).map g).filter p = live.map g := by
  have e : (List.range n).filter (p ∘ g) = live :=
    (List.filter_congr (fun i hi => by simp [hp i (List.mem_range.1 hi)])).trans hl
  rw [List.filter_map, e]

/-- The live cores where the states of the cores are known. -/
theorem live_of (s : State) (live : List Nat) (hb : ∀ i ∈ live, i < 3) (h3 : (List.range 3).filter (fun i => live.contains i) = live)
    (hs : ∀ i < 65536, s.deadCore (i % 256) (i / 256) = !live.contains i) : s.liveCores = live.map (fun i => (i % 256, i / 256)) :=
  filter_image 65536 _ _ live (fun i hi => by simp [hs i hi]) ((filter_below _ 3 65536 (by omega) (fun i hi => by
    by_cases c : i ∈ live
    · exact absurd (hb i c) (by omega)
    · simpa using c)).trans h3)

/-- The cores of a wafer that its fields exclude, or that field 0 has retired. -/
theorem wafer_dead (l : List Nat) (r : SMap Remap) (hl : ∀ c ∈ l, c < 3) (i : Nat) (hi : i < 65536)
    (hr : ∀ e ∈ r, e.2.retires (i % 256) (i / 256) = false) : (wafer l r).deadCore (i % 256) (i / 256) = !l.contains i := by
  have hf : fieldOfCore (i % 256) (i / 256) < 64 := by unfold fieldOfCore; omega
  have hc : coreInField (i % 256) (i / 256) < 1024 := by unfold coreInField; omega
  have hm : (fieldOfCore (i % 256) (i / 256) = 0 ∧ coreInField (i % 256) (i / 256) ∈ l) ↔ i ∈ l := by
    constructor
    · rintro ⟨a, b⟩
      have := hl _ b
      have e : coreInField (i % 256) (i / 256) = i := by unfold fieldOfCore at a; unfold coreInField at *; omega
      rwa [e] at b
    · intro b
      have := hl _ b
      have e : coreInField (i % 256) (i / 256) = i := by unfold coreInField; omega
      exact ⟨by unfold fieldOfCore; omega, by rwa [e]⟩
  have ha : ((if fieldOfCore (i % 256) (i / 256) = 0 then r else []).any (fun e => e.2.retires (i % 256) (i / 256))) = false := by
    split
    · exact List.any_eq_false.2 (fun e he => by simp [hr e he])
    · rfl
  unfold State.deadCore
  rw [wafer_field l r _ hf]
  simp only [field0, ha, Bool.or_false]
  by_cases c : i ∈ l
  · simp_all [List.contains_eq_mem, List.mem_filter, List.mem_range]
  · have := fun z h => c (hm.1 ⟨z, h⟩)
    simp only [List.contains_eq_mem, List.mem_filter, List.mem_range, hc, true_and, c, decide_false, Bool.not_false, decide_eq_true_eq]
    by_cases z : fieldOfCore (i % 256) (i / 256) = 0
    · simpa [z] using this z
    · simp [z]

/-- Two live cores, (0, 0) and (2, 0), and a detour of the router between them through waypoints. -/
def pair : State := wafer [0, 2] []
/-- A detour of router (1, 0). -/
def det (n : Nat) (w2 : DWord) : Detour := detourOf (BitVec.ofNat 64 (1 + 65536 * n)) w2
/-- A remap entry that installs it. -/
def detEntry : Remap := mkRemap (remapWord 1 1) 0x10001 0x101 0

/-- Its live cores. -/
theorem pair_live : pair.liveCores = [(0, 0), (2, 0)] :=
  live_of pair [0, 2] (by decide) (by decide) (fun i h => wafer_dead [0, 2] [] (by decide) i h (by simp))

/-- Detours (10 R266, R269): a free entry that one may take; and one that an endpoint still needs, or that none does. -/
theorem met_detours :
    (((pair.field 0).remapAt 5).w0.getLsbD 2 = false ∧ detEntry.w0.getLsbD 2 = true ∧ detEntry.kind = 1) ∧
    pair.detourIdle (det 1 0x101) = false ∧ pair.detourIdle { det 1 0x101 with router := (1, 1) } = true := by
  unfold State.detourIdle State.endpoints
  rw [pair_live]
  decide +kernel

/-- A firing that comes to something without issuing. -/
def stops (i : Instr) (k : Kind) (h : State → State := id) (f : Firing → Firing := id) : Bool :=
  let r : Row := { i := i, h := h, f := f }
  match exec i r.state with | .next t => kindOf r.state t == k | _ => false

/-- A PASS to two destinations. -/
def ps (da db : Dest) : Instr := .pass (nd .i32 .mono .keep 0 da db .pass .pass 0)

/-- What every firing is checked for, its tag operation, what it emits and what a trap leaves. -/
theorem met_firings : [
    stops (.iadd (nn .f32 .dyad 0 0)) (.trapped .illegalNode 4), stops (.accrd (nn .i32 .mono 0 5)) (.trapped .illegalNode 9) (core (fun x => { x with reqAccs := 5 })),
    stops (.mma (mm 0) 0) (.trapped .roleViolation 0) (core (fun x => { x with role := .rd })),
    stops (.pass (nn .i32 .mono 0 0)) .held (pit (fun p => { p with colours := SMap.ins p.colours 5 default })) in5,
    stops (.pass (nn .i32 .mono 0 0)) (.trapped .accessFault 0x22) id in5,
    stops (.pass (nd .i32 .mono .inc 0 .none .none .pass .pass 0)) (.trapped .tagWrap 1) id (tg 0xFFFF),
    stops (.pass (nd .i32 .mono .new 0 .none .none .pass .pass 0)) .parked (core (fun x => { x with pool := [] })),
    stops (.pass (nd .i32 .mono .new 0 .none .none .pass .pass 0)) .done,
    stops (.pass (nd .i32 .mono .set 0 .none .none .pass .pass 0xFFFF0000)) (.trapped .illegalNode 6) two,
    does (.pass (nd .i32 .mono .new 0 .none .none .pass .pass 0)) (Row.state
      { i := .pass (nd .i32 .mono .new 0 .none .none .pass .pass 0),
        h := col (fun r => { r with width := 9 }) ∘ core (fun x => { x with maxw := 4 }) }) (fun t => (lcx t).clamped),
    does (ps .trap .none) (Row.state { i := ps .trap .none, f := ab [7] [] }) (fun t => t.traps.map (·.lanes) == [[7]]),
    does (ps .event .none) (Row.state { i := ps .event .none, f := ab [7] [] }) (fun t => (lcx t).trap.valid),
    does (ps (.route 3) .none) (Row.state { i := ps (.route 3) .none, h := core (fun x => { x with routes := [(3, 2 ^ 38 + 65536)] }) })
      (fun t => t.flight.map (·.dst) == [.wafer 0]),
    stops (.pass (nd .i32 .mono .push 0 .none .none .pass .pass 0)) (.trapped .tagWrap 2) id (tg 1),
    stops (.pass (nd .i32 .mono .push 0 .none .none .pass .pass 0)) .done two (tg 0),
    stops (.pass (nd .i32 .mono .pop 0 .none .none .pass .pass 0)) .done, stops (.pass (nn .i32 .mono 0 0)) .done id (eosA 3),
    does (ps (.node 5 true) (.route 3)) (Row.state { i := ps (.node 5 true) (.route 3), h := core (fun x => { x with routes := [(3, 2 ^ 38)] }) })
      (fun t => t.flight.length == 2),
    does (ps (.route 3) .none) (Row.state { i := ps (.route 3) .none }) (fun t => t.flight.isEmpty && (lcx t).cnt.ucdrop == 1),
    does (ps (.acc 5) .none) (Row.state { i := ps (.acc 5) .none, f := ab [7] [] }) (fun t => SMap.get 0 ((lcx t).acc 5).val 0 == 7),
    does (.brk (nn .i32 .mono 0 9)) (Row.state { i := .brk (nn .i32 .mono 0 9) }) (fun t => (lcx t).trap.valid && (lcx t).trap.detail == 9),
    does (.brk (nn .i32 .mono 0 9)) (Row.state { i := .brk (nn .i32 .mono 0 9), h := core (fun x => { x with trap := { x.trap with valid := true } }) })
      (fun t => (lcx t).trap.overrun)].all id = true := by decide +kernel

/-- A Format-D node with port a of node 5 as DSTA. -/
def no (t : ETyp) (a : Ary) (m : BitVec 3) (l : Word) : Node := nd t a .keep m (.node 5 false) .none .pass .pass l
/-- The lanes of the tokens that a firing emits, and JXF after it. -/
def outs (i : Instr) (a b : List Word) (h : State → State := id) : List (List Word) × BitVec 40 :=
  match exec i (Row.state { i := i, h := h, f := ab a b }) with
  | .next t => (t.flight.map (·.tok.lanes), (lcx t).jxf)
  | _ => ([], 0)
/-- The colour at an order. -/
def ord (d : BitVec 3) : State → State := col (fun r => { r with order := d })

/-- The examples of 07 R188 to R190 and R193. -/
theorem test_integer_examples : [
    outs (.idiv (no .i32 .dyad 0 0)) [7, 0xFFFFFFF9, 0x80000000, 5, 9] [2, 2, 0xFFFFFFFF, 0] == ([[3, 0xFFFFFFFD, 0x80000000, 0xFFFFFFFF, 0xFFFFFFFF]], 2),
    outs (.irem (no .i32 .dyad 0 0)) [7, 0xFFFFFFF9, 0x80000000, 5, 9] [2, 2, 0xFFFFFFFF, 0] == ([[1, 0xFFFFFFFF, 0, 5, 9]], 2),
    outs (.idiv (no .n32 .dyad 0 0)) [0x80000000] [0xFFFFFFFF] == ([[0]], 0),
    outs (.imulh (no .i32 .dyad 0 0)) [0xFFFFFFFF] [2] == ([[0xFFFFFFFF]], 0), outs (.imulh (no .n32 .dyad 0 0)) [0xFFFFFFFF] [2] == ([[1]], 0),
    outs (.isubs (no .n32 .dyad 0 0)) [3] [5] == ([[0]], 0), outs (.iadds (no .i32 .dyad 0 0)) [0x7FFFFFF0] [0x20] == ([[0x7FFFFFFF]], 0),
    outs (.sar (no .n64 .dyad 0 0)) [0x10, 0x80000000] [70, 0] == ([[0xFFFFFFFF, 0xFFFFFFFF]], 0),
    outs (.rol (no .i64 .dyad 0 0)) [0x10, 0x80000000] [70, 0] == ([[0x420, 0]], 0)].all id = true := by decide +kernel

/-- The examples of 03 R83 and R84 and of 08 R86, R217, R219 and R224. -/
theorem test_float_examples : [
    outs (.fmul (no .f32 .dyad 0 0)) [0x40000000, 0x3F800000, 0] [0x40000000, 0x3F800000, 0] (ord 2) == ([[0x40800000, 0x40800000, 0x3F800000]], 0),
    outs (.jseed (no .f32 .mono 0 0)) [0] [] (ord 3) == ([[0, 0x3F800000, 0, 0]], 0),
    outs (.fsin (no .f32 .mono 0 0)) [0, 0x3F800000, 0, 0] [] (ord 3) == ([[0, 0x3F800000, 0, 0xBE2AAAAB]], 0x80000),
    outs (.jget (no .f32 .mono 0 0x2C0)) [0, 0x3F800000, 0, 0xBE2AAAAB] [] (ord 3) == ([[0xBF800000]], 0x80000),
    outs (.fquant (nd .e4m3 .mono .keep 4 (.node 5 false) (.node 6 false) .pass .pass 0)) [0x40400000, 0xBC23D70A] []
      == ([[0xBA7C, 0, 0, 0, 0, 0, 0, 0], [0xFFFFFF78]], 16),
    outs (.fdeq (no .e4m3 .mono 0 0)) [0xBA7C] [0xFFFFFF78] == ([[0x40400000, 0xBC200000] ++ List.replicate 30 0], 0)].all id = true := by decide +kernel

/-- The tag after an operation on a colour's stack of fields 4 and 8 bits wide, or the trap (the example of 09 R229). -/
def tags (g : Tgo) (n : Nat) : Option (List DWord) × List Nat :=
  let i : Instr := .pass (nd .i32 .mono g 0 (.node 5 false) .none .pass .pass 0)
  match exec i (Row.state { i := i, h := pit (fun p => { p with shapes := [(0, 0x104)] }), f := tg n }) with
  | .next t => (some (t.flight.map (·.tok.tag)), t.traps.map (·.detail.toNat))
  | _ => (none, [])

/-- The example of 09 R229, and the first round of the example of 11 R293. -/
theorem test_tags_and_rounds : [
    tags .push 0x09 == (some [0x90], []), tags .pop 0x39 == (some [3], []), tags .push 0x39 == (some [], [2]), tags .inc 0x3F == (some [], [1]),
    (match (mst { mt0 with round := 0, oncnt := 2, onTime := [{ con 2 0 with lanes := [0x40400000] }, con 0 0] }).contribute 3 0 0 true
        { con 1 0 with lanes := [0x40000000] } with
      | .ok t => t.flight.any (fun g => g.tok.lanes == [0x40C00000]) && ((t.meeting? 0 0).any (fun m => m.round == 1 && (m.member 3).miss == 1))
      | _ => false)].all id = true := by decide +kernel

/-- Ill-formed records, refused by the check of each code 0x02 to 0x09 and 0x0C of 02 Table 11. -/
theorem test_ill_formed : ([
    .iadd (nn .f32 .dyad 0 0), .pass (nn .i32 .dyad 0 0), .lenter (nd .i32 .mono .inc 0 .none .none .pass .pass 0), .iadd (nn .i32 .dyad 1 0),
    .iadd (nd .i32 .dyad .keep 0 .none .none .scale .pass 0), .iadd (nd .i32 .dyad .keep 0 .mx .none .pass .pass 0),
    .wswap (nn .i32 .mono 0 0), .iadd (nn .i32 .dyad 0 1), .bfx (nn .i32 .mono 0 0)] : List Instr).all (fun i => !WellFormed i) = true := by
  decide +kernel

/-- An unassigned opcode, and an extension record with bits that it reserves, decode to nothing. -/
theorem test_reserved : (decodeList [0x3FC000000000000000000000]).toOption.isNone ∧ (decodeList [0xFC0000000000000000000000]).toOption.isNone := by
  decide +kernel

/-- The first unit and the length of the packed block of 03 R74's example. -/
theorem test_pf8 : (pf8Encode false ([0x3A] ++ List.replicate 27 0x38 ++ [0x30, 0x31, 0x40, 0x1A])).take 2 = [0x71, 0x0C] := by decide +kernel

end Sys2Proof.Tests
end

section
/-! PROOFS. Decode and encode agree (02 R36 to R45): the codes of the fields, the records that an instruction encodes as, and
the round trip. -/
namespace Sys2Proof.Laws.FieldsKept
open Sys2Proof Sys2Proof.Machine

/-- The lemma of each constructor, as one statement of every instruction. -/
theorem all (i : Instr) : Statement i := by
  cases i with
  | pass n => exact pass n | steer n => exact steer n | merge n => exact merge n | mergec n => exact mergec n
  | gate n => exact gate n | sync n => exact sync n | lenter n => exact lenter n | lnext n => exact lnext n
  | lexit n => exact lexit n | lbound n => exact lbound n | ldone n => exact ldone n | call n => exact call n
  | ret n => exact ret n | cfree n => exact cfree n | tagget n => exact tagget n | tagset n => exact tagset n
  | eos n => exact eos n | sink n => exact sink n | purge n => exact purge n | trap n => exact trap n | brk n => exact brk n
  | event n => exact event n | launch n e1 e2 => exact launch n e1 e2 | ctxalloc n => exact ctxalloc n
  | ctxfree n => exact ctxfree n | pack n => exact pack n | unpack n => exact unpack n | bcast n => exact bcast n
  | shuf n => exact shuf n | lget n => exact lget n | lput n => exact lput n | lred n => exact lred n
  | lscan n => exact lscan n | width n => exact width n | iadd n => exact iadd n | isub n => exact isub n
  | iadds n => exact iadds n | isubs n => exact isubs n | imul n => exact imul n | imulh n => exact imulh n
  | imad n => exact imad n | idiv n => exact idiv n | irem n => exact irem n | imin n => exact imin n
  | imax n => exact imax n | iabs n => exact iabs n | ineg n => exact ineg n | and n => exact and n | or n => exact or n
  | xor n => exact xor n | andn n => exact andn n | orn n => exact orn n | shl n => exact shl n | shr n => exact shr n
  | sar n => exact sar n | rol n => exact rol n | clz n => exact clz n | ctz n => exact ctz n | popc n => exact popc n
  | brev n => exact brev n | bfx n => exact bfx n | bfi n => exact bfi n | icmp n => exact icmp n | sel n => exact sel n
  | lit n => exact lit n | aadr n => exact aadr n | cvti n => exact cvti n | fadd n => exact fadd n | fsub n => exact fsub n
  | fmul n => exact fmul n | fdiv n => exact fdiv n | fma n => exact fma n | fms n => exact fms n | fnma n => exact fnma n
  | fmin n => exact fmin n | fmax n => exact fmax n | fminn n => exact fminn n | fmaxn n => exact fmaxn n
  | fabs n => exact fabs n | fneg n => exact fneg n | fcpsgn n => exact fcpsgn n | fcmp n => exact fcmp n
  | fclass n => exact fclass n | fsqrt n => exact fsqrt n | frsq n => exact frsq n | frcp n => exact frcp n
  | fexp n => exact fexp n | fexp2 n => exact fexp2 n | flog n => exact flog n | flog2 n => exact flog2 n
  | fsin n => exact fsin n | fcos n => exact fcos n | fsincos n => exact fsincos n | ftanh n => exact ftanh n
  | fsigm n => exact fsigm n | ferf n => exact ferf n | frnd n => exact frnd n | fscale n => exact fscale n
  | fcvt n => exact fcvt n | fquant n => exact fquant n | fdeq n => exact fdeq n | jord n => exact jord n
  | jseed n => exact jseed n | jconst n => exact jconst n | jget n => exact jget n | jput n => exact jput n
  | jdiff n => exact jdiff n | jintg n => exact jintg n | jtrunc n => exact jtrunc n | jflag n => exact jflag n
  | accinit n => exact accinit n | accadd n => exact accadd n | accmax n => exact accmax n | accmin n => exact accmin n
  | accrd n => exact accrd n | krd n => exact krd n | kwr n => exact kwr n | csrrd n => exact csrrd n
  | csrwr n => exact csrwr n | wload n => exact wload n | wloadx n => exact wloadx n | wswap n => exact wswap n
  | mma n e => exact mma n e | mmaj n e => exact mmaj n e | mmax n e1 e2 => exact mmax n e1 e2 | apzero n => exact apzero n
  | apmv n => exact apmv n | appeek n => exact appeek n | jobpoll n => exact jobpoll n | jobwait n => exact jobwait n
  | ld n => exact ld n | st n => exact st n | ldg n => exact ldg n | sts n => exact sts n | strm n e => exact strm n e
  | strmst n e => exact strmst n e | pref n => exact pref n | tld n => exact tld n | tst n => exact tst n
  | aadd n => exact aadd n | afadd n => exact afadd n | amin n => exact amin n | amax n => exact amax n
  | aand n => exact aand n | aor n => exact aor n | axor n => exact axor n | axchg n => exact axchg n
  | acas n => exact acas n | aincb n => exact aincb n | fence n => exact fence n | cpy n e => exact cpy n e
  | cpyd n e => exact cpyd n e | cpye n e => exact cpye n e | mcast n e1 e2 => exact mcast n e1 e2
  | gath n e => exact gath n e | scat n e => exact scat n e | tfill n => exact tfill n | tevict n => exact tevict n
  | tinv n => exact tinv n | lookup n => exact lookup n | tstate n => exact tstate n | tset n => exact tset n
  | rtrd n => exact rtrd n | rtwr n => exact rtwr n | maprd n => exact maprd n | bandrd n => exact bandrd n
  | qopen n e1 e2 => exact qopen n e1 e2 | qcontrib n => exact qcontrib n | qclose n => exact qclose n
  | qstat n => exact qstat n | qlag n => exact qlag n | qwset n => exact qwset n | cwalk n e => exact cwalk n e
  | time n => exact time n | toffs n => exact toffs n | cntrd n => exact cntrd n | cntwr n => exact cntwr n
  | ext v => exact ext v
  | _ => intro v h; exact absurd h (by nofun)

end Sys2Proof.Laws.FieldsKept

namespace Sys2Proof.Machine
open Sys2Proof

@[simp] theorem decTyp_typCode (t : ETyp) : decTyp (typCode t) = some t := by cases t <;> rfl

@[simp] theorem decAry_aryCode (a : Ary) : decAry (aryCode a) = a := by cases a <;> rfl

@[simp] theorem decTgo_tgoCode (g : Tgo) : decTgo (tgoCode g) = g := by cases g <;> rfl

@[simp] theorem decAct_actCode (a : Act) : decAct (actCode a).toNat = some a := by cases a <;> rfl

theorem typCode_lt (t : ETyp) : typCode t < 2 ^ 4 := by cases t <;> decide

theorem aryCode_lt (a : Ary) : aryCode a < 2 ^ 2 := by cases a <;> decide

theorem tgoCode_lt (g : Tgo) : tgoCode g < 2 ^ 3 := by cases g <;> decide

theorem encDest_node (idx : BitVec 12) (port : Bool) : encDest (.node idx port) = 65536 + 2 * idx.toNat + port.toNat := by
  cases port <;> rfl

theorem encDest_lt (d : Dest) : encDest d < 2 ^ 18 := by
  cases d with
  | node idx port => have := idx.isLt; have := port.toNat_le; rw [encDest_node]; omega
  | route e => have := e.isLt; simp [encDest]; omega
  | acc n => have := n.isLt; simp [encDest]; omega
  | _ => simp [encDest]

@[simp] theorem decDest_encDest (d : Dest) : decDest (encDest d) = some d := by
  cases d with
  | node idx port =>
    have hi := idx.isLt
    have hp := port.toNat_le
    have kind : (65536 + 2 * idx.toNat + port.toNat) / 65536 % 4 = 1 := by omega
    have index : (65536 + 2 * idx.toNat + port.toNat) / 2 % 32768 = idx.toNat := by omega
    have low : (65536 + 2 * idx.toNat + port.toNat) % 2 = port.toNat := by omega
    simp only [encDest_node, decDest, kind, index, low, if_pos hi, BitVec.ofNat_toNat, BitVec.setWidth_eq]
    cases port <;> rfl
  | route e =>
    have he := e.isLt
    have kind : encDest (.route e) / 65536 % 4 = 2 := by simp [encDest]; omega
    have index : encDest (.route e) / 2 % 32768 = e.toNat := by simp only [encDest]; omega
    have low : encDest (.route e) % 2 = 0 := by simp only [encDest]; omega
    simp [decDest, kind, index, low, he]
  | acc n =>
    have hn := n.isLt
    have kind : encDest (.acc n) / 65536 % 4 = 3 := by simp [encDest]; omega
    have index : encDest (.acc n) / 2 % 32768 = n.toNat := by simp [encDest]; omega
    have low : encDest (.acc n) % 2 = 0 := by simp only [encDest]; omega
    simp [decDest, kind, index, low, hn]
  | _ => rfl

/-- A field of a record that is written as a number. -/
theorem recBits_ofNat (X lo n : Nat) (h : lo + n ≤ 96) : recBits (BitVec.ofNat 96 X) lo n = X / 2 ^ lo % 2 ^ n := by
  have split96 : (2 : Nat) ^ 96 = 2 ^ lo * 2 ^ (96 - lo) := by rw [← Nat.pow_add]; congr 1; omega
  have fits : (2 : Nat) ^ n ∣ 2 ^ (96 - lo) := Nat.pow_dvd_pow 2 (by omega)
  rw [recBits, BitVec.toNat_ofNat, split96, Nat.mod_mul_right_div_self, Nat.mod_mod_of_dvd _ fits]

@[simp] theorem recBits_encExt_opc (e : Nat) (h : e < 2 ^ 86) : recBits (encExt e) 86 10 = 0x3FF := by
  rw [encExt, recBits_ofNat _ _ _ (by decide)]; omega

@[simp] theorem recBits_encExt_params (e : Nat) (h : e < 2 ^ 86) : recBits (encExt e) 0 86 = e := by
  rw [encExt, recBits_ofNat _ _ _ (by decide)]; omega

/-- What the fields of a view keep to in a record of a given form (02 Table 1, R41, R42). -/
structure NV.Fits (v : NV) (sp : OpSpec) : Prop where
  lit : v.lit < if sp.fmtL then 2 ^ 53 else 2 ^ 32
  dstB : sp.fmtL = true → v.dstB = .none
  actB : sp.fmtL = true → v.actB = .pass
  e1 : v.e1 < 2 ^ 86
  e2 : v.e2 < 2 ^ 86
  noE1 : sp.exts < 1 → v.e1 = 0
  noE2 : sp.exts < 2 → v.e2 = 0

/-- A view has an opcode that is assigned (02 Table 9), and the fields of its form. -/
def NV.Specified (v : NV) : Prop := ∃ sp, opSpec v.opc.toNat = some sp ∧ v.Fits sp

theorem viewD_specified {opc : BitVec 10} (n : Node) {sp : OpSpec} (hs : opSpec opc.toNat = some sp) (h : sp.fmtL = false) :
    (viewD opc n).Specified :=
  ⟨sp, hs,
    { lit := by rw [h]; exact n.lit.isLt
      dstB := by simp [h]
      actB := by simp [h]
      e1 := by simp [viewD]
      e2 := by simp [viewD]
      noE1 := fun _ => rfl
      noE2 := fun _ => rfl }⟩

theorem viewL_specified {opc : BitVec 10} (n : NodeL) {sp : OpSpec} (hs : opSpec opc.toNat = some sp) (h : sp.fmtL = true) :
    (viewL opc n).Specified :=
  ⟨sp, hs,
    { lit := by rw [h]; exact n.lit.isLt
      dstB := fun _ => rfl
      actB := fun _ => rfl
      e1 := by simp [viewL]
      e2 := by simp [viewL]
      noE1 := fun _ => rfl
      noE2 := fun _ => rfl }⟩

theorem viewX_specified {opc : BitVec 10} (n : Node) (e1 e2 : BitVec 86) {sp : OpSpec} (hs : opSpec opc.toNat = some sp)
    (h : sp.fmtL = false) (h1 : 0 < sp.exts) (h2 : 1 < sp.exts ∨ e2 = 0) : (viewX opc n e1 e2).Specified :=
  ⟨sp, hs,
    { lit := by rw [h]; exact n.lit.isLt
      dstB := by simp [h]
      actB := by simp [h]
      e1 := e1.isLt
      e2 := e2.isLt
      noE1 := fun lt => absurd lt (by omega)
      noE2 := fun lt => by rw [h2.resolve_left (by omega)]; rfl }⟩

/-- Every instruction of a node record but the extension record is one of an assigned opcode, with the fields of its form. -/
theorem view_specified {i : Instr} {v : NV} (h : view i = some v) (ho : v.opc.toNat ≠ 0x3FF) : v.Specified := by
  cases i with
  | tagset n | lit n | aadr n => cases h; exact viewL_specified n rfl rfl
  | launch n e1 e2 | mmax n e1 e2 | mcast n e1 e2 | qopen n e1 e2 =>
    cases h; exact viewX_specified n e1 e2 rfl rfl (Nat.lt_of_sub_eq_succ rfl) (.inl (Nat.lt_of_sub_eq_succ rfl))
  | mma n e | mmaj n e | strm n e | strmst n e | cpy n e | cpyd n e | cpye n e | gath n e | scat n e | cwalk n e =>
    cases h; exact viewX_specified n e 0 rfl rfl (Nat.lt_of_sub_eq_succ rfl) (.inr rfl)
  | ext e => cases h; exact absurd rfl ho
  | _ => cases h <;> exact viewD_specified _ rfl rfl

/-- The digits of a number that is packed as a head record is: fields of 10, 4, 2, 3, 3, 18, 18 and 3 bits over 35 bits. -/
theorem head_digits {o t a g m da db act low : Nat} (ho : o < 2 ^ 10) (ht : t < 2 ^ 4) (ha : a < 2 ^ 2) (hg : g < 2 ^ 3)
    (hm : m < 2 ^ 3) (hda : da < 2 ^ 18) (hdb : db < 2 ^ 18) (hact : act < 2 ^ 3) (hlow : low < 2 ^ 35) :
    let X := o * 2 ^ 86 + t * 2 ^ 82 + a * 2 ^ 80 + g * 2 ^ 77 + m * 2 ^ 74 + da * 2 ^ 56 + act * 2 ^ 35 + (db * 2 ^ 38 + low)
    X / 2 ^ 86 % 2 ^ 10 = o ∧ X / 2 ^ 82 % 2 ^ 4 = t ∧ X / 2 ^ 80 % 2 ^ 2 = a ∧ X / 2 ^ 77 % 2 ^ 3 = g ∧ X / 2 ^ 74 % 2 ^ 3 = m ∧
      X / 2 ^ 56 % 2 ^ 18 = da ∧ X / 2 ^ 38 % 2 ^ 18 = db ∧ X / 2 ^ 35 % 2 ^ 3 = act ∧ X / 2 ^ 0 % 2 ^ 35 = low ∧
      X / 2 ^ 32 % 2 ^ 3 = low / 2 ^ 32 ∧ X / 2 ^ 0 % 2 ^ 32 = low % 2 ^ 32 := by
  intro X
  refine ⟨?_, ?_, ?_, ?_, ?_, ?_, ?_, ?_, ?_, ?_, ?_⟩ <;> omega

/-- Bits [55:38] of the head record of a view: destination B, or the upper bits of a Format-L literal (02 R41). -/
def NV.headB (v : NV) (sp : OpSpec) : Nat := if sp.fmtL then v.lit / 2 ^ 35 else encDest v.dstB

/-- Bits [34:0] of the head record of a view: destination B's action and the literal, or the lower bits of a Format-L literal. -/
def NV.headLow (v : NV) (sp : OpSpec) : Nat := if sp.fmtL then v.lit % 2 ^ 35 else (actCode v.actB).toNat * 2 ^ 32 + v.lit

/-- The fields that a head record holds, whatever its form (02 Table 1). -/
structure HeadHolds (v : NV) (sp : OpSpec) (r : Rec) : Prop where
  opc : recBits r 86 10 = v.opc.toNat
  typ : recBits r 82 4 = typCode v.typ
  ary : recBits r 80 2 = aryCode v.ary
  tgo : recBits r 77 3 = tgoCode v.tgo
  mod : recBits r 74 3 = v.mod.toNat
  dstA : recBits r 56 18 = encDest v.dstA
  dstB : recBits r 38 18 = v.headB sp
  actA : recBits r 35 3 = (actCode v.actA).toNat
  low : recBits r 0 35 = v.headLow sp
  actB : recBits r 32 3 = v.headLow sp / 2 ^ 32
  lit : recBits r 0 32 = v.headLow sp % 2 ^ 32

theorem encHead_holds {v : NV} {sp : OpSpec} (h : v.Fits sp) : HeadHolds v sp (encHead sp v) := by
  have lit := h.lit
  have hB : v.headB sp < 2 ^ 18 := by
    unfold NV.headB; split
    · rw [if_pos ‹_›] at lit; omega
    · exact encDest_lt _
  have hL : v.headLow sp < 2 ^ 35 := by
    unfold NV.headLow; split
    · omega
    · rw [if_neg ‹_›] at lit; have := (actCode v.actB).isLt; omega
  have head : encHead sp v = BitVec.ofNat 96 (v.opc.toNat * 2 ^ 86 + typCode v.typ * 2 ^ 82 + aryCode v.ary * 2 ^ 80 +
      tgoCode v.tgo * 2 ^ 77 + v.mod.toNat * 2 ^ 74 + encDest v.dstA * 2 ^ 56 + (actCode v.actA).toNat * 2 ^ 35 +
      (v.headB sp * 2 ^ 38 + v.headLow sp)) := by
    unfold encHead NV.headB NV.headLow; split <;> simp only [Nat.add_assoc]
  obtain ⟨opc, typ, ary, tgo, mod, dstA, dstB, actA, low, actB, lit⟩ := head_digits v.opc.isLt (typCode_lt v.typ)
    (aryCode_lt v.ary) (tgoCode_lt v.tgo) v.mod.isLt (encDest_lt v.dstA) hB (actCode v.actA).isLt hL
  rw [head]
  constructor <;> rw [recBits_ofNat _ _ _ (by decide)] <;> assumption

/-- A Format-D head record gives back destination B, its action and the literal. -/
theorem headHolds_formatD {v : NV} {sp : OpSpec} {r : Rec} (h : v.Fits sp) (f : sp.fmtL = false)
    (hr : HeadHolds v sp r) :
    recBits r 38 18 = encDest v.dstB ∧ recBits r 32 3 = (actCode v.actB).toNat ∧ recBits r 0 32 = v.lit := by
  have lit := h.lit
  simp only [f, Bool.false_eq_true, if_false] at lit
  refine ⟨?_, ?_, ?_⟩
  · simp [hr.dstB, NV.headB, f]
  · rw [hr.actB]; simp only [NV.headLow, f, Bool.false_eq_true, if_false]; omega
  · rw [hr.lit]; simp only [NV.headLow, f, Bool.false_eq_true, if_false]; omega

/-- A Format-L head record gives back the literal. -/
theorem headHolds_formatL {v : NV} {sp : OpSpec} {r : Rec} (f : sp.fmtL = true)
    (hr : HeadHolds v sp r) : litL r = v.lit := by
  rw [litL, hr.low, hr.dstB]
  simp only [NV.headB, NV.headLow, f, if_true]
  omega

/-- The records after a head record are the extension records of its view, where its form has them. -/
structure NV.ExtsFollow (v : NV) (sp : OpSpec) (x1 x2 : Rec) : Prop where
  one : 1 ≤ sp.exts → x1 = encExt v.e1
  two : 2 ≤ sp.exts → x2 = encExt v.e2

theorem extsOk_of_follow {v : NV} {sp : OpSpec} {x1 x2 : Rec} (h : v.Fits sp) (hx : v.ExtsFollow sp x1 x2) :
    extsOk sp.exts x1 x2 = true := by
  have one : sp.exts = 0 ∨ recBits x1 86 10 = 0x3FF := by
    by_cases c : 1 ≤ sp.exts
    · exact .inr (by rw [hx.one c, recBits_encExt_opc _ h.e1])
    · exact .inl (by omega)
  have two : sp.exts ≤ 1 ∨ recBits x2 86 10 = 0x3FF := by
    by_cases c : 2 ≤ sp.exts
    · exact .inr (by rw [hx.two c, recBits_encExt_opc _ h.e2])
    · exact .inl (by omega)
  simp [extsOk, one, two]

/-- THE FIELDS COME BACK: the view of the records of a view is that view. -/
theorem rawView_encHead {v : NV} {sp : OpSpec} {x1 x2 : Rec} (h : v.Fits sp) (hx : v.ExtsFollow sp x1 x2) :
    rawView sp (encHead sp v) x1 x2 = v := by
  have hr := encHead_holds h
  have e1 : (if 1 ≤ sp.exts then recBits x1 0 86 else 0) = v.e1 := by
    split
    · rw [hx.one ‹_›, recBits_encExt_params _ h.e1]
    · exact (h.noE1 (by omega)).symm
  have e2 : (if 2 ≤ sp.exts then recBits x2 0 86 else 0) = v.e2 := by
    split
    · rw [hx.two ‹_›, recBits_encExt_params _ h.e2]
    · exact (h.noE2 (by omega)).symm
  unfold rawView
  rw [e1, e2, hr.opc, hr.typ, hr.ary, hr.tgo, hr.mod, hr.dstA, hr.actA]
  cases f : sp.fmtL with
  | true =>
    simp [headHolds_formatL f hr, ← h.dstB f, ← h.actB f]
  | false =>
    obtain ⟨hB, hb, lit⟩ := headHolds_formatD h f hr
    simp [hB, hb, lit]

theorem rawBad_encHead {v : NV} {sp : OpSpec} (h : v.Fits sp) : rawBad sp (encHead sp v) = none := by
  have hr := encHead_holds h
  unfold rawBad
  rw [hr.typ, hr.actA, hr.dstA]
  cases f : sp.fmtL with
  | true => simp
  | false =>
    obtain ⟨hB, hb, -⟩ := headHolds_formatD h f hr
    simp [hB, hb]

/-- The records of a view that no check of 02 Table 11 rejects decode to its instruction. -/
theorem decode_encHead {v : NV} {sp : OpSpec} {x1 x2 : Rec} {i : Instr} (ho : v.opc.toNat ≠ 0x3FF)
    (hs : opSpec v.opc.toNat = some sp) (h : v.Fits sp) (hx : v.ExtsFollow sp x1 x2) (hc : checkFields v = none)
    (hi : ofView v = some i) : decode (encHead sp v) x1 x2 = .ok i := by
  have opc := (encHead_holds h).opc
  simp [decode, opc, ho, hs, extsOk_of_follow h hx, rawView_encHead h hx, rawBad_encHead h, hc, firstDiag, hi]

/-- A list of records decodes as the records of a head with the extension records that its form has. -/
theorem decodeList_encode {v : NV} {sp : OpSpec} {i : Instr} (hv : view i = some v) (ho : v.opc.toNat ≠ 0x3FF)
    (hs : opSpec v.opc.toNat = some sp) :
    ∃ x1 x2, v.ExtsFollow sp x1 x2 ∧ decodeList (encode i) = decode (encHead sp v) x1 x2 := by
  simp only [encode, hv, ho, hs, if_false]
  match k : sp.exts with
  | 0 => exact ⟨_, _, ⟨by omega, by omega⟩, rfl⟩
  | 1 => exact ⟨encExt v.e1, _, ⟨fun _ => rfl, by omega⟩, rfl⟩
  | n + 2 => exact ⟨encExt v.e1, encExt v.e2, ⟨fun _ => rfl, fun _ => rfl⟩, rfl⟩

/-- The extension record decodes to itself (02 R42). -/
theorem decodeList_encode_ext (e : BitVec 86) : decodeList (encode (.ext e)) = .ok (.ext e) := by
  have opc := recBits_encExt_opc e.toNat e.isLt
  have params := recBits_encExt_params e.toNat e.isLt
  have enc : encode (.ext e) = [encExt e.toNat] := rfl
  simp [enc, decodeList, decode, opc, params]

/-- The extension record is the one instruction whose view has opcode 0x3FF. -/
theorem view_opc_ext {i : Instr} {v : NV} (h : view i = some v) (ho : v.opc.toNat = 0x3FF) : ∃ e, i = .ext e := by
  cases i with
  | ext e => exact ⟨e, rfl⟩
  | _ => cases h <;> cases ho

theorem checkFields_of_wellFormed {i : Instr} {v : NV} (hv : view i = some v) (ho : v.opc.toNat ≠ 0x3FF)
    (h : WellFormed i = true) : checkFields v = none := by
  have opc : v.opc ≠ 0x3FF := fun e => ho (by rw [e]; rfl)
  simp only [WellFormed, hv, beq_eq_false_iff_ne.2 opc, Bool.false_or, Option.isNone_iff_eq_none] at h
  unfold checkNode at h
  split at h
  · cases h
  · assumption

/-- Settles O55: the fields of an instruction's records are those of its view, which loses none of them. -/
theorem roundTrip : Obligations.RoundTrip := by
  unfold Obligations.RoundTrip
  intro i hn hw
  obtain ⟨v, hv⟩ := Option.isSome_iff_exists.1 hn
  by_cases ho : v.opc.toNat = 0x3FF
  · obtain ⟨e, rfl⟩ := view_opc_ext hv ho
    exact decodeList_encode_ext e
  · have hc := checkFields_of_wellFormed hv ho hw
    obtain ⟨sp, hs, hf⟩ := view_specified hv ho
    obtain ⟨x1, x2, hx, hd⟩ := decodeList_encode hv ho hs
    rw [hd]
    exact decode_encHead ho hs hf hx hc (Laws.FieldsKept.all i v hv ho)

end Sys2Proof.Machine
end

section
/-! PROOFS. The input path (02 R43; 06 R151; 10 R257): what a token at an ordinary node comes to. -/
namespace Sys2Proof.Machine
open Sys2Proof

theorem recAry_eq (r : Rec) : recAry r = (r.extractLsb' 80 2).toNat := by
  simp [recAry, BitVec.extractLsb'_toNat, Nat.shiftRight_eq_div_pow]

/-- An opcode whose nodes complete their matches by the general rules: no order of its own (05 R118, 09 R234, R238), no scale
entry (08 R219), and no single operand (09 R234). -/
structure PlainOpc (opc : BitVec 10) : Prop where
  ext : opc ≠ 0x3FF
  fdeq : opc ≠ 0x121
  merge : opc ≠ 0x002
  mergec : opc ≠ 0x003
  lbound : opc ≠ 0x009
  accadd : opc ≠ 0x1C1
  accmax : opc ≠ 0x1C2
  accmin : opc ≠ 0x1C3

/-- A numeral of ten bits that an opcode is not, as a number that it is not. -/
theorem opc_toNat_ne {opc : BitVec 10} {k : Nat} (h : opc ≠ BitVec.ofNat 10 k) (hk : k < 1024) : opc.toNat ≠ k := by
  intro e; apply h; apply BitVec.eq_of_toNat_eq; rw [e, BitVec.toNat_ofNat]; omega

/-- The same of the opcode's number, which the model's tests compare. -/
theorem PlainOpc.toNat {opc : BitVec 10} (h : PlainOpc opc) : opc.toNat ≠ 0x3FF ∧ opc.toNat ≠ 0x121 ∧ opc.toNat ≠ 0x002 ∧
    opc.toNat ≠ 0x003 ∧ opc.toNat ≠ 0x009 ∧ opc.toNat ≠ 0x1C1 ∧ opc.toNat ≠ 0x1C2 ∧ opc.toNat ≠ 0x1C3 :=
  ⟨opc_toNat_ne h.ext (by decide), opc_toNat_ne h.fdeq (by decide), opc_toNat_ne h.merge (by decide),
    opc_toNat_ne h.mergec (by decide), opc_toNat_ne h.lbound (by decide), opc_toNat_ne h.accadd (by decide),
    opc_toNat_ne h.accmax (by decide), opc_toNat_ne h.accmin (by decide)⟩

theorem PlainOpc.orderRule {r : Rec} (h : PlainOpc (recOpc r)) : orderRule r = .none := by
  obtain ⟨-, -, -, mergec, lbound, accadd, accmax, accmin⟩ := h.toNat
  unfold Machine.orderRule; split
  · exact absurd ‹_› accadd
  · exact absurd ‹_› accmax
  · exact absurd ‹_› accmin
  · exact absurd ‹_› mergec
  · exact absurd ‹_› lbound
  · rfl

/-- A match at a node without an order of its own enters the ready queue at once. -/
theorem complete_plain {s : State} {f : Firing} {x : LCore} (hx : s.lc? f.asid f.lc = some x)
    (h : PlainOpc (recOpc (x.node f.node))) : s.complete f = .done (s.enterReady f) := by
  simp [State.complete, hx, h.orderRule]

/-- A PASS token at a node without an order of its own completes a match alone (06 R151). -/
theorem enterPath_pass {s : State} {asid lc : Nat} {x : LCore} {t : Token} (hx : s.lc? asid lc = some x)
    (h : PlainOpc (recOpc (x.node t.dnode.toNat))) (ht : t.act = 0) :
    s.enterPath asid lc t = .done (s.enterReady
      (if recAry (x.node t.dnode.toNat) = 1 ∧ t.dport then mkFiring asid lc t.dnode.toNat true t.tag (emptyToken t) (some t)
       else mkFiring asid lc t.dnode.toNat t.dport t.tag t none)) := by
  obtain ⟨ext, fdeq, merge, mergec, lbound, -⟩ := h.toNat
  simp [State.enterPath, hx, ext, fdeq, merge, mergec, lbound, ht]
  split <;> exact complete_plain hx h

/-- An ASSOC token at a monadic or dyadic node without an order of its own looks for its partner (10 R257 rule 1). -/
theorem enterPath_assoc {s : State} {asid lc : Nat} {x : LCore} {t : Token} (hx : s.lc? asid lc = some x)
    (h : PlainOpc (recOpc (x.node t.dnode.toNat))) (ht : t.act = 1) (ha : recAry (x.node t.dnode.toNat) < 2) :
    s.enterPath asid lc t = s.assoc asid lc x t := by
  obtain ⟨ext, fdeq, merge, mergec, lbound, -⟩ := h.toNat
  have const : recAry (x.node t.dnode.toNat) ≠ 2 := by omega
  have lit : recAry (x.node t.dnode.toNat) ≠ 3 := by omega
  simp [State.enterPath, hx, ext, fdeq, merge, mergec, lbound, ht, const, lit]

/-- Taking an entry out leaves the node records. -/
theorem LCore.takeFrom_node {x y : LCore} {p : MEntry → Bool} {e : MEntry} (h : x.takeFrom p = some (e, y)) (n : Nat) :
    y.node n = x.node n := by
  unfold LCore.takeFrom at h
  split at h
  · split at h <;> cases h <;> rfl
  · cases h; rfl
  · cases h; rfl
  · cases h

/-- An ASSOC token whose partner waits (10 R257 rule 1). -/
theorem State.assoc_of_partner {s : State} {asid lc : Nat} {x y : LCore} {t : Token} {e : MEntry}
    (h : x.takeFrom (fun e => e.kind == .waiting && e.node == t.dnode.toNat && e.port != t.dport && e.tok.tag == t.tag) =
      some (e, y)) :
    s.assoc asid lc x t = (s.updLC asid lc (fun _ => y)).complete (pairFiring asid lc t.dnode.toNat t e.tok t.tag) := by
  simp only [State.assoc, h]

/-- An ASSOC token with no partner, waiting or sticky, waits itself (10 R257 rule 1). -/
theorem State.assoc_of_alone {s : State} {asid lc : Nat} {x : LCore} {t : Token}
    (h : x.takeFrom (fun e => e.kind == .waiting && e.node == t.dnode.toNat && e.port != t.dport && e.tok.tag == t.tag) = none)
    (hs : (x.ms ++ x.ovf).any (fun e => e.kind == .sticky && e.node == t.dnode.toNat && e.port != t.dport &&
      tagColour e.tok.tag == tagColour t.tag) = false) :
    s.assoc asid lc x t = s.placeTok asid lc x .waiting t := by
  rw [List.any_append, Bool.or_eq_false_iff] at hs
  simp only [State.assoc, h, List.find?_eq_none.2 (List.any_eq_false.1 hs.1), List.find?_eq_none.2 (List.any_eq_false.1 hs.2)]

/-- Settles O35: each token is followed through the tests of the input path. -/
theorem inputPath : Obligations.InputPath := by
  unfold Obligations.InputPath
  intro s asid lc p x t hp hx n r opc ary plain alone both partner sticky
  have plainOpc : plain → PlainOpc (recOpc (x.node t.dnode.toNat)) := by
    rintro ⟨ext, fdeq, merge, mergec, lbound, accadd, accmax, accmin⟩
    exact ⟨ext, fdeq, merge, mergec, lbound, accadd, accmax, accmin⟩
  have aryNat : recAry (x.node t.dnode.toNat) = ary.toNat := recAry_eq _
  refine ⟨?ext, ?passA, ?passB, ?paired, ?waits⟩
  case ext =>
    intro h
    have ext : (recOpc (x.node t.dnode.toNat)).toNat = 0x3FF := congrArg BitVec.toNat h
    simp only [State.enterPath, hx, ext, if_true]
    rfl
  case passA =>
    intro hpl ht hd
    have dyadB : ¬ (recAry (x.node t.dnode.toNat) = 1 ∧ t.dport = true) := by
      rintro ⟨ha, hb⟩
      rcases hd with hd | hd
      · exact hd (BitVec.eq_of_toNat_eq (aryNat ▸ ha))
      · rw [hd] at hb; cases hb
    rw [enterPath_pass hx (plainOpc hpl) ht, if_neg dyadB]
    rfl
  case passB =>
    intro hpl ht ha hb
    have dyadB : recAry (x.node t.dnode.toNat) = 1 ∧ t.dport = true := ⟨by rw [aryNat, ha]; rfl, hb⟩
    rw [enterPath_pass hx (plainOpc hpl) ht, if_pos dyadB]
    simp [both, hb, mkFiring, emptyToken, n]
  case paired =>
    intro hpl ht ha e y hy
    have ha : recAry (x.node t.dnode.toNat) < 2 := by rw [aryNat]; exact ha
    have pair : pairFiring asid lc t.dnode.toNat t e.tok t.tag = both e.tok := by
      unfold pairFiring mkFiring
      cases hb : t.dport <;> simp [both, hb, n]
    rw [enterPath_assoc hx (plainOpc hpl) ht ha, State.assoc_of_partner hy, pair]
    apply complete_plain (State.updLC_lc? s asid lc _ x hx)
    rw [LCore.takeFrom_node hy]
    exact plainOpc hpl
  case waits =>
    intro hpl ht ha hy hs y place
    have ha : recAry (x.node t.dnode.toNat) < 2 := by rw [aryNat]; exact ha
    rw [enterPath_assoc hx (plainOpc hpl) ht ha, State.assoc_of_alone hy hs]
    unfold State.placeTok
    rw [place]

end Sys2Proof.Machine
end

section
/-! PROOFS. What every firing is checked for, in order (02 R58; 01 R15; 04 R109; 09 R228, R244), and its tag operation (09 R229). -/
namespace Sys2Proof.Machine
open Sys2Proof

/-- Every instruction of a node record but the extension record is a firing of its view. -/
theorem exec_eq_fire {i : Instr} {v : NV} (h : view i = some v) (ho : v.opc ≠ 0x3FF) (s : State) :
    ∃ body, exec i s = fire v s body := by
  cases i with
  | ext e => cases h; exact absurd rfl ho
  | _ => cases h <;> exact ⟨_, rfl⟩

theorem fire_eq_finish {v : NV} {s : State} {f : Firing} {p : Pitch} {x : LCore} (hc : s.cur = some f)
    (hp : s.pitch? f.asid = some p) (hx : s.lc? f.asid f.lc = some x) (body : Ctx → FireRes) :
    fire v s body = .next (s.finish f v.opc (s.fireRes f p x v body)) := by
  simp only [fire, hc, hp, hx]

/-- The diagnostic of a record whose own fields are at fault before its ^set is (02 R58). -/
theorem Pitch.fieldDiag_of_checkFields {p : Pitch} {v : NV} {d : Diag} (h : checkFields v = some d)
    (hs : p.setFits v = true ∨ d.code ≤ Diag.tgo.code) : p.fieldDiag v = some d := by
  have order : ¬ (p.setFits v = false ∧ Diag.tgo.code < d.code) := by
    rintro ⟨misfit, later⟩
    rcases hs with hs | hs
    · rw [hs] at misfit; cases misfit
    · omega
  simp [Pitch.fieldDiag, h, order]

/-- The diagnostic of a record whose ^set fits no shape of its pitch (02 R39). -/
theorem Pitch.fieldDiag_of_setFits {p : Pitch} {v : NV} (hs : p.setFits v = false)
    (h : ∀ d, checkFields v = some d → Diag.tgo.code < d.code) : p.fieldDiag v = some .tgo := by
  unfold Pitch.fieldDiag
  split
  · simp [hs, h _ ‹_›]
  · simp [hs]

theorem Pitch.fieldDiag_none {p : Pitch} {v : NV} (h : checkFields v = none) (hs : p.setFits v = true) : p.fieldDiag v = none := by
  simp [Pitch.fieldDiag, h, hs]

section checks
variable {s : State} {f : Firing} {p : Pitch} {x : LCore} {v : NV} {body : Ctx → FireRes}

theorem fireRes_of_fieldDiag {d : Diag} (h : p.fieldDiag v = some d) : s.fireRes f p x v body = .trap .illegalNode d.code := by
  simp only [State.fireRes, h]

theorem fireRes_of_checkKernel (hf : p.fieldDiag v = none) {d : Diag}
    (h : checkKernel x.reqConsts x.reqAccs x.reqRoutes v = some d) : s.fireRes f p x v body = .trap .illegalNode d.code := by
  simp only [State.fireRes, hf, h]

theorem fireRes_of_role (hf : p.fieldDiag v = none) (hk : checkKernel x.reqConsts x.reqAccs x.reqRoutes v = none)
    (h : roleOk x.role v.opc.toNat = false) : s.fireRes f p x v body = .trap .roleViolation 0 := by
  simp [State.fireRes, hf, hk, h]

/-- A record that its core may fire: no check of 02 R58 or 01 R15 stops it. -/
structure Fireable (p : Pitch) (x : LCore) (v : NV) : Prop where
  fields : p.fieldDiag v = none
  kernel : checkKernel x.reqConsts x.reqAccs x.reqRoutes v = none
  role : roleOk x.role v.opc.toNat = true

theorem fireRes_of_unallocated (h : Fireable p x v) (hn : SMap.find p.colours (tagColour f.tag) = none) :
    s.fireRes f p x v body = .trap .accessFault 0x22 := by
  simp [State.fireRes, h.fields, h.kernel, h.role, hn]

theorem fireRes_of_uncached (h : Fireable p x v) (hl : (SMap.find p.colours (tagColour f.tag)).isSome = true)
    (hn : x.cached (tagColour f.tag) = none) : s.fireRes f p x v body = .hold := by
  obtain ⟨a, ha⟩ := Option.isSome_iff_exists.1 hl
  simp [State.fireRes, h.fields, h.kernel, h.role, ha, hn]

/-- The tag operation of a firing: an EOS firing allocates no colour (09 R231). -/
def NV.firingTgo (v : NV) (f : Firing) : Tgo := if eosFires v f = true ∧ v.tgo = .new then .keep else v.tgo

section tagged
variable (h : Fireable p x v) (hl : (SMap.find p.colours (tagColour f.tag)).isSome = true) {regs : ColourRegs}
  (hr : x.cached (tagColour f.tag) = some regs)
include h hl hr

theorem fireRes_of_wrap {d : Nat}
    (ho : s.tagOp f.asid f.lc p (f.laneMax x) regs (v.firingTgo f) (v.bits 16 16) f.tag = .wrap d) :
    s.fireRes f p x v body = .trap .tagWrap d := by
  obtain ⟨a, ha⟩ := Option.isSome_iff_exists.1 hl
  rw [NV.firingTgo] at ho
  simp [State.fireRes, h.fields, h.kernel, h.role, ha, hr, ho]

theorem fireRes_of_park
    (ho : s.tagOp f.asid f.lc p (f.laneMax x) regs (v.firingTgo f) (v.bits 16 16) f.tag = .park) :
    s.fireRes f p x v body = .park true := by
  obtain ⟨a, ha⟩ := Option.isSome_iff_exists.1 hl
  rw [NV.firingTgo] at ho
  simp [State.fireRes, h.fields, h.kernel, h.role, ha, hr, ho]

/-- An EOS firing whose tag operation is in range (09 R231). -/
theorem fireRes_of_eos {t : State} {tag : DWord}
    (ho : s.tagOp f.asid f.lc p (f.laneMax x) regs (v.firingTgo f) (v.bits 16 16) f.tag = .ok t tag)
    (he : eosFires v f = true) : s.fireRes f p x v body = t.eosFire f p v tag := by
  obtain ⟨a, ha⟩ := Option.isSome_iff_exists.1 hl
  rw [NV.firingTgo] at ho
  simp only [he, true_and] at ho
  simp [State.fireRes, h.fields, h.kernel, h.role, ha, hr, ho, he]

end tagged
end checks

/-- The EOS firing of an instruction other than RET emits EOS tokens to its destinations (09 R231). -/
theorem eosFire_of_not_ret {t : State} {f : Firing} {p : Pitch} {v : NV} {tag : DWord} (h : v.opc ≠ 0x00C) :
    t.eosFire f p v tag = .done t (eosOuts v f tag) := by
  simp only [State.eosFire, if_neg h]

/-- What the tag operations 1 to 5 make of the fields of a stack (09 Table 2). -/
def tgoFields (setN : Nat) : Tgo → Option (List Nat → List Nat → Except Nat (List Nat))
  | .inc => some incFields
  | .push => some pushFields
  | .pop => some popFields
  | .zero => some (fun ws vs => setField0 ws vs 0)
  | .set => some (fun ws vs => setField0 ws vs setN)
  | _ => none

section tags
variable {s : State} {asid lc : Nat} {p : Pitch} {maxw : BitVec 6} {regs : ColourRegs} {g : Tgo} {setN : Nat} {tag : DWord}
  {op : List Nat → List Nat → Except Nat (List Nat)}

/-- A tag operation whose fields are in range changes the stack alone. -/
theorem tagOp_of_fields (hg : tgoFields setN g = some op) {us : List Nat}
    (h : op (p.widths regs.shape.toNat) (stackFields (p.widths regs.shape.toNat) (tagStack tag)) = .ok us) :
    s.tagOp asid lc p maxw regs g setN tag =
      .ok s (mkTag (tagColour tag) (fieldsStack (p.widths regs.shape.toNat) us)) := by
  cases g <;> cases hg <;> simp only [State.tagOp, retag, h]

/-- A tag operation whose fields are not in range wraps. -/
theorem tagOp_of_wrap (hg : tgoFields setN g = some op) {d : Nat}
    (h : op (p.widths regs.shape.toNat) (stackFields (p.widths regs.shape.toNat) (tagStack tag)) = .error d) :
    s.tagOp asid lc p maxw regs g setN tag = .wrap d := by
  cases g <;> cases hg <;> simp only [State.tagOp, retag, h]

end tags

/-- `fitsAll` says that no field's value is out of its range. -/
theorem fitsAll_iff (ws us : List Nat) :
    fitsAll ws us = true ↔ ¬ ∃ j, j < ws.length ∧ 2 ^ ws.getD j 0 ≤ us.getD j 0 := by
  induction ws generalizing us with
  | nil => simp [fitsAll]
  | cons w ws ih =>
    cases us with
    | nil => simp [fitsAll]
    | cons u us =>
      simp only [fitsAll, Bool.and_eq_true, decide_eq_true_eq, ih us, not_exists, not_and, Nat.not_le]
      constructor
      · rintro ⟨head, tail⟩ j hj
        cases j with
        | zero => exact head
        | succ j => exact tail j (by simpa using hj)
      · intro h
        exact ⟨h 0 (by simp), fun j hj => h (j + 1) (by simpa using hj)⟩

theorem pushFields_of_fits {ws vs : List Nat} (h : vs.getLastD 0 = 0) (hf : fitsAll ws (0 :: vs.dropLast) = true) :
    pushFields ws vs = .ok (0 :: vs.dropLast) := by
  rw [pushFields, if_neg (fun ne => ne h)]; exact if_pos hf

theorem pushFields_of_misfit {ws vs : List Nat} (h : vs.getLastD 0 = 0) (hf : ¬ fitsAll ws (0 :: vs.dropLast) = true) :
    pushFields ws vs = .error 3 := by
  rw [pushFields, if_neg (fun ne => ne h)]; exact if_neg hf

/-- The registers that TGO 6 gives are the firing colour's, with LIVE 0 and the lesser of its width and MAXW (04 R106). -/
theorem newRegs_eq (maxw : BitVec 6) (r : ColourRegs) :
    newRegs maxw r = { r with live := 0, width := if maxw.toNat < r.width.toNat then maxw else r.width } := by
  have lesser : BitVec.ofNat 6 (Nat.min r.width.toNat maxw.toNat) = if maxw.toNat < r.width.toNat then maxw else r.width := by
    change BitVec.ofNat 6 (min _ _) = _
    split
    · rw [Nat.min_eq_right (by omega), BitVec.ofNat_toNat, BitVec.setWidth_eq]
    · rw [Nat.min_eq_left (by omega), BitVec.ofNat_toNat, BitVec.setWidth_eq]
  rw [newRegs, lesser]

/-- TGO 6 with a colour to give (09 R241), and CLAMPED where it gets fewer lanes than its colour has (04 R106). -/
theorem tagOp_new_of_alloc {s t : State} {asid lc c setN : Nat} {p : Pitch} {maxw : BitVec 6} {regs : ColourRegs} {tag : DWord}
    (h : s.allocColour asid lc (newRegs maxw regs) ((0 : BitVec 64) ++ tag) = some (c, t)) :
    s.tagOp asid lc p maxw regs .new setN tag = .ok (t.noteClamp asid lc (decide (maxw.toNat < regs.width.toNat))) (mkTag c 0) := by
  simp only [State.tagOp, h]

theorem tagOp_new_of_starved {s : State} {asid lc setN : Nat} {p : Pitch} {maxw : BitVec 6} {regs : ColourRegs} {tag : DWord}
    (h : s.allocColour asid lc (newRegs maxw regs) ((0 : BitVec 64) ++ tag) = none) :
    s.tagOp asid lc p maxw regs .new setN tag = .park := by
  simp only [State.tagOp, h]

/-- Settles O58: the checks in the order in which a firing meets them, then each tag operation on the fields of its stack. -/
theorem firingsAndTags : Obligations.FiringsAndTags := by
  unfold Obligations.FiringsAndTags
  refine ⟨?checks, ?tags⟩
  case checks =>
    intro i v hv ho s f p x hc hp hx
    obtain ⟨body, hb⟩ := exec_eq_fire hv ho s
    rw [hb, fire_eq_finish hc hp hx]
    refine ⟨fun d hd hs => ?_, fun hs hd => ?_, fun hf hs => ⟨fun d hk => ?_, fun hk => ⟨fun hr => ?_, fun hr => ?_⟩⟩⟩
    · rw [fireRes_of_fieldDiag (Pitch.fieldDiag_of_checkFields hd hs)]; rfl
    · rw [fireRes_of_fieldDiag (Pitch.fieldDiag_of_setFits hs hd)]; rfl
    · rw [fireRes_of_checkKernel (Pitch.fieldDiag_none hf hs) hk]; rfl
    · rw [fireRes_of_role (Pitch.fieldDiag_none hf hs) hk hr]; rfl
    · have able : Fireable p x v := ⟨Pitch.fieldDiag_none hf hs, hk, hr⟩
      refine ⟨fun hn hl => ?_, fun hn => ?_, fun regs hl hreg => ?_⟩
      · rw [fireRes_of_uncached able hl hn]; rfl
      · rw [fireRes_of_unallocated able hn]; rfl
      · refine ⟨fun d hop => ?_, fun hop => ?_, fun t tag hop he hret => ?_⟩
        · rw [fireRes_of_wrap able hl hreg hop]; rfl
        · rw [fireRes_of_park able hl hreg hop]; rfl
        · rw [fireRes_of_eos able hl hreg hop he, eosFire_of_not_ret hret]; rfl
  case tags =>
    intro s asid lc p maxw regs setN tag op ws vs ret bad
    refine ⟨rfl, fun w wr u ur hw hv => ⟨fun hu => ?_, fun hu => ?_, ?_, fun hn => ?_, fun hn => ?_⟩, fun hl => ?_,
      fun hl => ⟨fun hb => ?_, fun hb => ?_⟩, fun hb => ?_, fun hb => ?_, fun a ha => ?_, ?_⟩
    · exact tagOp_of_wrap rfl ((congr (congrArg incFields hw) hv).trans (if_pos hu))
    · exact tagOp_of_fields rfl ((congr (congrArg incFields hw) hv).trans (if_neg hu))
    · exact tagOp_of_fields rfl ((congr (congrArg (setField0 · · 0) hw) hv).trans (if_pos (Nat.two_pow_pos w)))
    · exact tagOp_of_fields rfl ((congr (congrArg (setField0 · · setN) hw) hv).trans (if_pos hn))
    · exact tagOp_of_wrap rfl ((congr (congrArg (setField0 · · setN) hw) hv).trans (if_neg (Nat.not_lt.2 hn)))
    · exact tagOp_of_wrap rfl (if_pos hl)
    · exact tagOp_of_wrap rfl (pushFields_of_misfit hl (fun h => (fitsAll_iff ..).1 h hb))
    · exact tagOp_of_fields rfl (pushFields_of_fits hl ((fitsAll_iff ..).2 hb))
    · exact tagOp_of_wrap rfl (if_neg (fun h => (fitsAll_iff ..).1 h hb))
    · exact tagOp_of_fields rfl (if_pos ((fitsAll_iff ..).2 hb))
    · change s.tagOp asid lc p maxw regs .cont setN tag = _
      simp only [State.tagOp, ha]
    · intro given
      have hg : newRegs maxw regs = given := newRegs_eq maxw regs
      refine ⟨fun c t h => ⟨fun hle => ?_, fun hlt => ?_⟩, fun h => ?_⟩
      · refine (tagOp_new_of_alloc (hg ▸ h)).trans ?_
        rw [decide_eq_false (Nat.not_lt.2 hle)]; rfl
      · refine (tagOp_new_of_alloc (hg ▸ h)).trans ?_
        rw [decide_eq_true hlt]; rfl
      · exact tagOp_new_of_starved (hg ▸ h)

end Sys2Proof.Machine
end

section
/-! PROOFS. What a firing emits (02 R45 to R51; 05 R121; 06 R177), and what a trap leaves (04 R101; 06 R174). Tokens on their way
are left alone by every operation of memory, translation and the event ring. -/
namespace Sys2Proof.Machine
open Sys2Proof

theorem foldl_flight {α : Type} {g : State → α → State} (hg : ∀ s a, (g s a).flight = s.flight) (l : List α) (s : State) :
    (l.foldl g s).flight = s.flight := by
  induction l generalizing s with
  | nil => rfl
  | cons a r ih => exact (ih (g s a)).trans (hg s a)

@[simp] theorem State.assign_flight (s : State) (pa : Nat) : (s.assign pa).flight = s.flight := by
  simp [State.assign, apply_ite State.flight]

@[simp] theorem State.setDramByte_flight (s : State) (k c l q b : Nat) (v : Byte) :
    (s.setDramByte k c l q b v).flight = s.flight := by
  simp [State.setDramByte, apply_ite State.flight]

@[simp] theorem State.countDegraded_flight (s : State) (k c l q : Nat) : (s.countDegraded k c l q).flight = s.flight := by
  simp [State.countDegraded, apply_ite State.flight]

@[simp] theorem State.writeTile_flight (s : State) (core off : Nat) (v : Byte) : (s.writeTile core off v).flight = s.flight := by
  unfold State.writeTile; (repeat' split) <;> simp

@[simp] theorem State.setByte_flight (s : State) (pa : Nat) (v : Byte) : (s.setByte pa v).flight = s.flight := by
  unfold State.setByte; split <;> simp

@[simp] theorem State.setBytes_flight (s : State) (pa : Nat) (vs : List Byte) : (s.setBytes pa vs).flight = s.flight := by
  induction vs generalizing s pa with
  | nil => rfl
  | cons v r ih => exact (ih ..).trans (by simp)

@[simp] theorem State.pushReport_flight (s : State) (kind field detail pa len : Nat) :
    (s.pushReport kind field detail pa len).flight = s.flight := by
  simp [State.pushReport, apply_ite State.flight]

@[simp] theorem State.reportPoison_flight (s : State) (k : Nat) (pa : Option Nat) (len : Nat) :
    (s.reportPoison k pa len).flight = s.flight := by
  unfold State.reportPoison; (repeat' split) <;> simp [State.fresh]

@[simp] theorem State.markLine_flight (s : State) (pa : Nat) (poison clean : Bool) :
    (s.markLine pa poison clean).flight = s.flight := by
  unfold State.markLine; split
  · simp [apply_ite State.flight]
  · split <;> simp [apply_ite State.flight]
  · rfl

@[simp] theorem State.noteAccess_flight (s : State) (pa : Nat) : (s.noteAccess pa).flight = s.flight := by
  unfold State.noteAccess; split <;> simp

@[simp] theorem State.writeLine_flight (s : State) (pa : Nat) (vs : List Byte) (poison : Bool) :
    (s.writeLine pa vs poison).flight = s.flight := by
  simp [State.writeLine]

@[simp] theorem State.writeRange_flight (s : State) (fuel pa : Nat) (vs : List Byte) (poison : Bool) :
    (s.writeRange fuel pa vs poison).flight = s.flight := by
  induction fuel generalizing s pa vs with
  | zero => rfl
  | succ fuel ih =>
    unfold State.writeRange; split
    · rfl
    · exact (ih ..).trans (by simp)

@[simp] theorem State.walkNote_flight (s : State) (fi asid vpn : Nat) : (s.walkNote fi asid vpn).flight = s.flight := by
  unfold State.walkNote; simp only; split
  · exact foldl_flight State.assign_flight _ _
  · rfl

@[simp] theorem State.setAD_flight (s : State) (at_ : Nat) (e : DWord) (write : Bool) :
    (s.setAD at_ e write).flight = s.flight := by
  simp [State.setAD, apply_ite State.flight]

theorem State.translate_flight {s t : State} {fi asid va pa : Nat} {write window super poison : Bool}
    (h : s.translate fi asid va write window super = .ok (pa, poison, t)) : t.flight = s.flight := by
  unfold State.translate at h
  split at h
  · cases h
  · split at h
    · cases h
    · cases h
    · simp only at h
      split at h
      · cases h
      · cases h; simp

@[simp] theorem State.missAt_flight (s : State) (fi asid vpn : Nat) (who : Miss) :
    (s.missAt fi asid vpn who).flight = s.flight := by
  simp [State.missAt]

@[simp] theorem State.launchBad_flight (s : State) (q index : Nat) : (s.launchBad q index).flight = s.flight := by
  simp [State.launchBad]

@[simp] theorem State.rcWrite_flight (s : State) (w : RcWrite) : (s.rcWrite w).flight = s.flight := by
  unfold State.rcWrite
  simp only
  split
  · have := State.translate_flight ‹_›
    (repeat' split) <;> simp [this]
  · simp
  · simp

@[simp] theorem State.evWrite_flight (s : State) (n fi asid : Nat) (p : Pitch) (bs : List Byte) :
    (s.evWrite n fi asid p bs).flight = s.flight := by
  simp [State.evWrite]

@[simp] theorem State.ringAppend_flight (s : State) (asid lc : Nat) (t : TrapInfo) : (s.ringAppend asid lc t).flight = s.flight := by
  unfold State.ringAppend; (repeat' split) <;> simp [State.fresh]

@[simp] theorem State.raiseEvent_flight (s : State) (asid lc : Nat) (t : TrapInfo) :
    (s.raiseEvent asid lc t).flight = s.flight := by
  simp [State.raiseEvent, State.recordEvent]

@[simp] theorem State.ucDrop_flight (s : State) (asid lc : Nat) (tag : DWord) (node : Nat) (port : Bool) (opc : BitVec 10) :
    (s.ucDrop asid lc tag node port opc).flight = s.flight := by
  simp [State.ucDrop]

/-- A change of a logical core leaves what its pitch names as its trap handler. -/
theorem State.updLC_trapHandler {s : State} {asid lc : Nat} {p : Pitch} (f : LCore → LCore) (hp : s.pitch? asid = some p) :
    ∃ q, (s.updLC asid lc f).pitch? asid = some q ∧ q.trap = p.trap := by
  have hp' : SMap.find s.pitches asid = some p := hp
  unfold State.updLC
  simp only [hp']
  split
  · exact ⟨p, hp, rfl⟩
  · exact ⟨_, State.setPitch_pitch? .., rfl⟩

theorem State.recordTrap_trapHandler {asid : Nat} {p : Pitch} (s : State) (t : TrapInfo) (lc : Nat)
    (hp : s.pitch? asid = some p) : ∃ q, (s.recordTrap asid lc t).pitch? asid = some q ∧ q.trap = p.trap :=
  State.updLC_trapHandler _ hp

/-- The token that a trap sends (06 R174): `hb` are the stores of its operands that have not reached their homes. -/
def trapToken (asid lc : Nat) (p : Pitch) (t : TrapInfo) (lanes : List Word) (hb : List StoreId) : TrapTok :=
  { asid := asid, lc := lc, vc := 7, tc := 0,
    handler := match p.trap with | some h => !t.cause.toRegion && decide (h ≠ (lc, t.node)) | none => false,
    cause := t.cause, detail := BitVec.ofNat 16 t.detail, node := t.node, port := t.port, opc := t.opc, tag := t.tag,
    lanes := lanes, hb := hb }

theorem State.sendTrap_eq {s : State} {asid lc : Nat} {p q : Pitch} {t : TrapInfo} {held : Bool} {payload : Option (List Word)}
    (hq : s.pitch? asid = some q) (ht : q.trap = p.trap) :
    s.sendTrap asid lc t held payload =
      { s with traps := s.traps ++ [trapToken asid lc p t (payload.getD (trapLanes lc t held)) (s.liveHb t.hb)] } := by
  simp only [State.sendTrap, hq, ht]
  rfl

/-- The first lane of a trap token is DETAIL over the cause (06 Table 10). -/
theorem trapLanes_cause (t : TrapInfo) :
    BitVec.ofNat 32 (t.cause.code.toNat + 65536 * (t.detail % 65536)) = BitVec.ofNat 16 t.detail ++ t.cause.code.setWidth 16 := by
  have small : t.cause.code.toNat < 2 ^ 16 := by have := t.cause.code.isLt; omega
  apply BitVec.eq_of_toNat_eq
  rw [BitVec.toNat_append, BitVec.toNat_setWidth, BitVec.toNat_ofNat, BitVec.toNat_ofNat, Nat.mod_eq_of_lt small,
    ← Nat.shiftLeft_add_eq_or_of_lt small, Nat.shiftLeft_eq]
  omega

/-- The lanes of a trap token (06 Table 10): its cause, its firing, the widths of its operands and whether they are held. -/
theorem trapLanes_eq (lc : Nat) (t : TrapInfo) (held : Bool) :
    trapLanes lc t held = [BitVec.ofNat 16 t.detail ++ t.cause.code.setWidth 16, trapNode t.node t.port t.opc,
      t.tag.extractLsb' 0 32, t.tag.extractLsb' 32 32, BitVec.ofNat 32 (lc % 131072),
      BitVec.ofNat 32 (t.a.elim 0 (·.lanes.length) + 64 * t.b.elim 0 (·.lanes.length) + 4096 * held.toNat)] := by
  rw [trapLanes, trapLanes_cause]
  cases held <;> rfl

/-- A state in which a trap has been recorded: PAGE_FAULT is not (04 R101). -/
def State.trapRecorded (s : State) (asid lc : Nat) (t : TrapInfo) : State :=
  if t.cause = .pageFault then s else s.recordTrap asid lc t

section recorded
variable {s : State} {asid lc : Nat} {t : TrapInfo} {x : LCore}

@[simp] theorem State.trapRecorded_mem : (s.trapRecorded asid lc t).mem = s.mem := by
  unfold State.trapRecorded; split <;> simp [State.recordTrap]

@[simp] theorem State.trapRecorded_clusters : (s.trapRecorded asid lc t).clusters = s.clusters := by
  unfold State.trapRecorded; split <;> simp [State.recordTrap]

@[simp] theorem State.trapRecorded_fields : (s.trapRecorded asid lc t).fields = s.fields := by
  unfold State.trapRecorded; split <;> simp [State.recordTrap]

@[simp] theorem State.trapRecorded_flight : (s.trapRecorded asid lc t).flight = s.flight := by
  unfold State.trapRecorded; split <;> simp [State.recordTrap]

theorem State.trapRecorded_pageFault (h : t.cause = .pageFault) : s.trapRecorded asid lc t = s := if_pos h

theorem State.trapRecorded_lc (h : t.cause ≠ .pageFault) (hx : s.lc? asid lc = some x) :
    (s.trapRecorded asid lc t).lc? asid lc =
      some { x with trap := x.trap.record t, trapRec := if x.trap.valid then x.trapRec else { a := t.a, b := t.b } } := by
  rw [State.trapRecorded, if_neg h]
  exact State.updLC_lc? s asid lc _ x hx

end recorded

/-- Whether the trap record holds a trap's operands (04 R101). -/
def LCore.holdsTrap (x : LCore) (t : TrapInfo) : Bool := !x.trap.valid && t.cause != .pageFault

/-- A trap is recorded, and its token sent; no more. -/
theorem State.takeTrap_eq {s : State} {asid lc : Nat} {x : LCore} {p : Pitch} (t : TrapInfo) (hx : s.lc? asid lc = some x)
    (hp : s.pitch? asid = some p) :
    s.takeTrap asid lc t =
      { s.trapRecorded asid lc t with
        traps := s.traps ++ [trapToken asid lc p t (trapLanes lc t (x.holdsTrap t)) ((s.trapRecorded asid lc t).liveHb t.hb)] } := by
  by_cases c : t.cause = .pageFault
  · simp only [State.takeTrap, State.trapRecorded, LCore.holdsTrap, c, if_true]
    rw [State.sendTrap_eq hp rfl]
    simp
  · obtain ⟨q, hq, ht⟩ := s.recordTrap_trapHandler t lc hp
    simp only [State.takeTrap, State.trapRecorded, LCore.holdsTrap, c, if_false, hx]
    rw [State.sendTrap_eq hq ht]
    simp [State.recordTrap, bne_iff_ne.2 c]

theorem routeV_core (r : DWord) : (routeV r).core = (r.extractLsb' 0 17).toNat := by
  simp [routeV, BitVec.extractLsb'_toNat]

theorem routeV_node (r : DWord) : (routeV r).node = (r.extractLsb' 17 12).toNat := by
  simp [routeV, BitVec.extractLsb'_toNat, Nat.shiftRight_eq_div_pow]

theorem routeV_act (r : DWord) : (routeV r).act = (r.extractLsb' 35 3).toNat := by
  simp [routeV, BitVec.extractLsb'_toNat, Nat.shiftRight_eq_div_pow]

/-- The action of a token to a route entry: the record's own where the entry's is 6 (02 R50, R51). -/
theorem routeV_actCode (r : DWord) (a : Act) :
    (if (routeV r).act = 6 then actCode a else BitVec.ofNat 3 (routeV r).act) =
      if r.extractLsb' 35 3 = 6 then actCode a else r.extractLsb' 35 3 := by
  have same : (routeV r).act = 6 ↔ r.extractLsb' 35 3 = 6 := by
    rw [routeV_act]
    exact ⟨fun h => BitVec.eq_of_toNat_eq h, fun h => by rw [h]; rfl⟩
  simp only [same]
  rw [routeV_act, BitVec.ofNat_toNat, BitVec.setWidth_eq]

theorem routeV_live (r : DWord) (n : Nat) : (routeV r).live n = true ↔
    r.getLsbD 38 = true ∧ (65536 ≤ (r.extractLsb' 0 17).toNat ∨ (r.extractLsb' 0 17).toNat < n) := by
  rw [RouteV.live, routeV_core]
  simp [routeV]

section emission
variable {s : State} {route : Nat → DWord} {f : Firing} {opc : BitVec 10} {o : Out}

theorem emit_none (h : o.dest = .none) : s.emit route f opc o = s := by
  simp only [State.emit, State.deliver, h]

/-- A local node takes its token inside the core (02 R47). -/
theorem emit_node {n : BitVec 12} {port : Bool} (h : o.dest = .node n port) :
    s.emit route f opc o = s.sendOff (.lcore f.asid f.lc) (.lcore f.asid f.lc)
      (mkToken f.asid f.lc n.toNat port (actCode o.act) 0 1 { o with hb := s.liveHb f.hb }) := by
  simp [State.emit, State.deliver, h, State.sendTo]

theorem emit_route_of_live {e : BitVec 10} {x : LCore} {p : Pitch} (hx : s.lc? f.asid f.lc = some x)
    (hp : s.pitch? f.asid = some p) (h : o.dest = .route e) (hl : (routeV (route e.toNat)).live p.n = true) :
    (s.emit route f opc o).flight = s.flight ++
      [{ src := .lcore f.asid f.lc, dst := coreDst f.asid (routeV (route e.toNat)).core,
         tok := mkToken f.asid (routeV (route e.toNat)).core (routeV (route e.toNat)).node (routeV (route e.toNat)).port
           (if (routeV (route e.toNat)).act = 6 then actCode o.act else BitVec.ofNat 3 (routeV (route e.toNat)).act)
           (routeV (route e.toNat)).vc (routeV (route e.toNat)).tc { o with hb := s.liveHb f.hb },
         ni := none, org := some (f.lc, trapNode f.node f.port opc) }] := by
  simp [State.emit, State.deliver, h, State.sendTo, hx, hp, hl, State.sendAs]

/-- A route entry that cannot be sent to drops the token (02 R51). -/
theorem emit_route_of_dead {e : BitVec 10} {x : LCore} {p : Pitch} (hx : s.lc? f.asid f.lc = some x)
    (hp : s.pitch? f.asid = some p) (h : o.dest = .route e) (hl : ¬ (routeV (route e.toNat)).live p.n = true) :
    s.emit route f opc o = s.ucDrop f.asid f.lc f.tag f.node f.port opc := by
  simp [State.emit, State.deliver, h, State.sendTo, hx, hp, hl]

theorem emit_acc {n : BitVec 4} (h : o.dest = .acc n) (he : o.eos = none) :
    s.emit route f opc o = s.updLC f.asid f.lc (fun x => x.deliverAcc n.toNat o.lanes) := by
  simp [State.emit, State.deliver, h, he]

theorem emit_event (h : o.dest = .event) (he : o.eos = none) :
    s.emit route f opc o = s.raiseEvent f.asid f.lc
      { cause := .event, detail := o.code, tag := f.tag, node := f.node, port := f.port, opc := opc, a := none, b := none,
        pay := o.lanes.take 8 } := by
  simp [State.emit, State.deliver, h, he]

/-- What a token to the trap sink says of itself (06 R177). -/
def sinkTrap (s : State) (f : Firing) (opc : BitVec 10) (o : Out) : TrapInfo :=
  { cause := .trap, detail := o.code, tag := f.tag, node := f.node, port := f.port, opc := opc, a := some f.a, b := f.b,
    hb := s.liveHb f.hb }

/-- A token to the trap sink is recorded as a trap, and sent on with its own lanes (06 R177). -/
theorem emit_trap {p : Pitch} (hp : s.pitch? f.asid = some p) (h : o.dest = .trap) :
    s.emit route f opc o =
      { s.recordTrap f.asid f.lc (sinkTrap s f opc o) with
        traps := s.traps ++ [trapToken f.asid f.lc p (sinkTrap s f opc o) o.lanes
          ((s.recordTrap f.asid f.lc (sinkTrap s f opc o)).liveHb (s.liveHb f.hb))] } := by
  obtain ⟨q, hq, ht⟩ := s.recordTrap_trapHandler (sinkTrap s f opc o) f.lc hp
  simp only [State.emit, State.deliver, h]
  exact (State.sendTrap_eq hq ht).trans (by simp [State.recordTrap, sinkTrap])

end emission

/-- Settles O59: a destination of each kind, then the trap that is recorded and sent. -/
theorem emissionAndTraps : Obligations.EmissionAndTraps := by
  unfold Obligations.EmissionAndTraps
  refine ⟨?emits, ?traps⟩
  case emits =>
    intro s route f opc o x p hx hp tok me
    refine ⟨emit_none, fun n port h => emit_node h, fun e h => ?_, fun n h he => emit_acc h he, fun h he => emit_event h he,
      fun h => ?_⟩
    · intro r core
      refine ⟨fun hv hc => ?_, fun hd => ?_⟩
      · rw [emit_route_of_live hx hp h ((routeV_live r p.n).2 ⟨hv, hc⟩), routeV_actCode, routeV_core, routeV_node]
        rfl
      · have dead : ¬ (routeV (route e.toNat)).live p.n = true := by
          rw [routeV_live]
          rintro ⟨hv, hc⟩
          rcases hd with hd | ⟨small, out⟩
          · rw [hd] at hv; cases hv
          · exact hc.elim (Nat.not_le.2 small) (Nat.not_lt.2 out)
        rw [emit_route_of_dead hx hp h dead]
        exact ⟨rfl, State.ucDrop_flight ..⟩
    · intro u t handler token
      have hu : u = _ := emit_trap hp h
      rw [hu]
      exact ⟨rfl, State.updLC_flight .., rfl⟩
  case traps =>
    intro s asid lc t x p hx hp u handler held lanes token
    have hl : trapLanes lc t (x.holdsTrap t) = lanes := trapLanes_eq ..
    have hu : u = _ := State.takeTrap_eq t hx hp
    rw [hu, hl]
    refine ⟨rfl, fun hc => ?_, fun hc hv => ?_, fun hc hv => ?_, State.trapRecorded_mem, State.trapRecorded_clusters,
      State.trapRecorded_fields, State.trapRecorded_flight⟩
    · exact (congrArg (·.lc? asid lc) (State.trapRecorded_pageFault hc)).trans hx
    · refine (State.trapRecorded_lc hc hx).trans ?_
      simp [TrapRegs.record, hv]
    · refine (State.trapRecorded_lc hc hx).trans ?_
      simp [TrapRegs.record, hv]

end Sys2Proof.Machine
end

section
/-! PROOFS. The words of the manual's worked examples (02 R58). -/
namespace Sys2Proof.Machine
open Sys2Proof

/-- The records that a well-formed instruction encodes as decode to it. -/
theorem decodeList_of_encode {i : Instr} {rs : List Rec} (hn : isNode i = true) (hw : WellFormed i = true) (he : encode i = rs) :
    (decodeList rs).toOption = some i := by
  rw [← he, roundTrip i hn hw]; rfl

/-- Settles O57: the words of each example are the records that its instruction encodes as; the one word that stands for none has
an opcode that is not assigned, and a record that is not set reads as an extension record of zeros (02 R44). -/
theorem wordsDecode : Obligations.WordsDecode :=
  ⟨decodeList_of_encode rfl rfl rfl, decodeList_of_encode rfl rfl rfl, decodeList_of_encode rfl rfl rfl,
    decodeList_of_encode rfl rfl rfl, decodeList_of_encode rfl rfl rfl, decodeList_of_encode rfl rfl rfl,
    decodeList_of_encode rfl rfl rfl, decodeList_of_encode rfl rfl rfl, rfl, decodeList_of_encode rfl rfl rfl,
    decodeList_of_encode rfl rfl rfl, decodeList_of_encode rfl rfl rfl, decodeList_of_encode rfl rfl rfl,
    decodeList_of_encode rfl rfl rfl, rfl⟩

end Sys2Proof.Machine
end

section
/-! PROOFS. Colours and traps of a pitch (04 R109; 06 R159, R174; 09 R239, R244): the colour cache and its refill, a starved request,
the return of a freed value, and a trap token at the region controller. -/
namespace Sys2Proof.Machine
open Sys2Proof

theorem LCore.cached_eq_none_iff {x : LCore} {c : Nat} : x.cached c = none ↔ ∀ e ∈ x.cache, e.colour ≠ c := by
  simp [LCore.cached, List.find?_eq_none]

/-- A colour that is put into a cache with room stands last, and nothing is evicted (04 R109). -/
theorem LCore.cacheColour_of_room {x : LCore} {c : Nat} (asid lc : Nat) (q : List Firing) (r : ColourRegs) (hn : x.cached c = none)
    (room : x.cache.length < 256) :
    x.cacheColour asid lc q c r = { x with cache := x.cache ++ [{ colour := c, regs := r }] } := by
  have others : x.cache.filter (fun e => e.colour != c) = x.cache :=
    List.filter_eq_self.2 fun e he => bne_iff_ne.2 (cached_eq_none_iff.1 hn e he)
  rw [LCore.cacheColour, others, if_pos room]

theorem LCore.cached_cacheColour {x : LCore} {c : Nat} (asid lc : Nat) (q : List Firing) (r : ColourRegs) (hn : x.cached c = none)
    (room : x.cache.length < 256) : (x.cacheColour asid lc q c r).cached c = some r := by
  have absent : x.cache.find? (fun e => e.colour == c) = none := Option.map_eq_none_iff.1 hn
  rw [cacheColour_of_room asid lc q r hn room]
  simp [LCore.cached, absent]

/-- A core into whose cache a refill puts colour `c`: the copy area's entry is valid no longer (04 R109). -/
def LCore.refillColour (asid lc : Nat) (q : List Firing) (c : Nat) (r : ColourRegs) (x : LCore) : LCore :=
  let y := x.cacheColour asid lc q c r
  if (y.cached c).isSome then LCore.perfEvent { y with copyArea := SMap.del y.copyArea c } 0x07 1 else x

theorem LCore.cached_refillColour {x : LCore} {c : Nat} (asid lc : Nat) (q : List Firing) (r : ColourRegs) (hn : x.cached c = none)
    (room : x.cache.length < 256) : (x.refillColour asid lc q c r).cached c = some r := by
  have put := cached_cacheColour asid lc q r hn room
  rw [refillColour, if_pos (by rw [put]; rfl)]
  exact put

/-- A free leaves no cached copy of its colour (09 R244). -/
theorem LCore.cached_dropColour (x : LCore) (c : Nat) : (x.dropColour c).cached c = none :=
  cached_eq_none_iff.2 fun _ he => bne_iff_ne.1 (List.mem_filter.1 he).2

section pitch
variable {s : State} {asid lc : Nat} {p : Pitch} {x : LCore}

theorem State.running_eq (hp : s.pitch? asid = some p) : s.running asid = (p.st == .running) := by
  rw [State.running, hp]

/-- The registers of a colour that a waiting firing needs come from the copy area, else from the allocation image (04 R109). -/
theorem exec_colourRefill {c : Nat} {a : ColourAlloc} (hp : s.pitch? asid = some p) (hx : s.lc? asid lc = some x)
    (ha : SMap.find p.colours c = some a) (hn : x.cached c = none)
    (waits : (s.readyQ x.core).any (fun f => f.asid == asid && f.lc == lc && tagColour f.tag == c) = true) :
    exec (.colourRefill asid lc c) s = .next (s.updLC asid lc
      (LCore.refillColour asid lc (s.readyQ x.core) c ((SMap.find x.copyArea c).getD a.regs))) := by
  have needed : x.cached c = none ∧
      (s.readyQ x.core).any (fun f => f.asid == asid && f.lc == lc && tagColour f.tag == c) = true := ⟨hn, waits⟩
  show execColourRefill asid lc c s = _
  simp only [execColourRefill, hx, hp, ha, if_pos needed]
  rfl

/-- A parked request whose cause the core has not reported yet traps with it, attributed to its firing (06 R159). -/
theorem exec_starvationTimeout {k : Nat} {q : Parked} {cause : Cause} (hp : s.pitch? asid = some p) (hx : s.lc? asid lc = some x)
    (run : p.st = .running) (hq : x.waitRing[k]? = some q) (hc : cause = if q.colour then .colourStarved else .tagStarved)
    (new : ∀ t ∈ s.traps, ¬ (t.asid = asid ∧ t.lc = lc ∧ t.cause = cause)) :
    exec (.starvationTimeout asid lc k) s = .next (s.takeTrap asid lc (firingTrap q.f (x.opcAt q.f.node) cause 0)) := by
  have new : s.traps.any (fun t => t.asid == asid && t.lc == lc && t.cause == cause) = false := by
    simpa [List.any_eq_false, and_assoc] using new
  subst hc
  show execStarvationTimeout asid lc k s = _
  simp [execStarvationTimeout, hx, hq, new, State.running_eq hp, run]

end pitch

theorem SMap.find_mapVals {α : Type} (f : Nat → α → α) (m : SMap α) (k : Nat) :
    SMap.find (m.map (fun e => (e.1, f e.1 e.2))) k = (SMap.find m k).map (f k) := by
  induction m with
  | nil => rfl
  | cons e r ih => by_cases h : e.1 = k <;> simp [SMap.find, h, ih]

/-- What stands of a pitch `p` once the freed colour `c` has returned: the colour is freed no longer, the allocation image is as it
was, and no core has a copy (09 R244). -/
structure Pitch.Returned (p : Pitch) (c : Nat) (q : Pitch) : Prop where
  freed : q.freed = p.freed.erase c
  colours : q.colours = p.colours
  uncached : ∀ lc y, SMap.find q.lcores lc = some y → y.cached c = none

/-- The pitch to whose pool the freed colour `c` has returned. -/
def Pitch.returnColour (p : Pitch) (c : Nat) : Pitch :=
  { p.mapLC (fun _ x => x.dropColour c) with freed := p.freed.erase c, pool := poolIns p.pool (c, c + 1) }

theorem Pitch.returned_returnColour (p : Pitch) (c : Nat) : p.Returned c (p.returnColour c) where
  freed := rfl
  colours := rfl
  uncached lc y hy := by
    obtain ⟨x, -, rfl⟩ := Option.map_eq_some_iff.1 ((SMap.find_mapVals (fun _ x => LCore.dropColour x c) p.lcores lc).symm.trans hy)
    exact x.cached_dropColour c

/-- A refill moves values from the pitch's pool to a core's, and touches no cache (09 R239). -/
theorem Pitch.Returned.refill {p q : Pitch} {c : Nat} (h : p.Returned c q) (lc : Nat) : p.Returned c (q.refill lc) := by
  unfold Pitch.refill
  split
  · exact h
  · rename_i x hx
    split
    · refine ⟨h.freed, h.colours, fun l y hy => ?_⟩
      by_cases hl : l = lc
      · subst hl
        obtain rfl := Option.some.inj ((SMap.find_ins_self ..).symm.trans hy)
        exact h.uncached l x hx
      · exact h.uncached l y ((SMap.find_ins_ne _ _ _ _ hl).symm.trans hy)
    · exact h

theorem Pitch.Returned.refillAll {p q : Pitch} {c : Nat} (h : p.Returned c q) : p.Returned c q.refillAll :=
  List.foldlRecOn q.lcores _ h fun _ hr e _ => hr.refill e.1

/-- A freed colour returns to the pool, the local pools refill, and parked requests are retried (09 R239, R244). -/
theorem exec_colourReturn {s : State} {asid c : Nat} {p : Pitch} (hp : s.pitch? asid = some p) (hc : c ∈ p.freed) :
    exec (.colourReturn asid c) s = .next ((s.setPitch asid (p.returnColour c).refillAll).retryColours asid) := by
  show execColourReturn asid c s = _
  simp [execColourReturn, hp, hc, Pitch.returnColour, Pitch.mapLC]

section trapToken
variable {s : State} {k : Nat} {t : TrapTok} {p : Pitch}

/-- The oldest trap token of its source, addressed to the region controller, is received there. -/
theorem exec_trapTokenReceipt (ht : s.traps[k]? = some t) (hp : s.pitch? t.asid = some p) (hh : t.handler = false)
    (oldest : ∀ u ∈ s.traps.take k, ¬ (u.asid = t.asid ∧ u.lc = t.lc ∧ u.handler = t.handler)) :
    exec (.trapTokenReceipt k) s = .next (s.regionTrap k t p) := by
  have oldest : (s.traps.take k).any (fun u => u.asid == t.asid && u.lc == t.lc && u.handler == t.handler) = false := by
    simpa [List.any_eq_false, and_assoc] using oldest
  show execTrapTokenReceipt k s = _
  simp only [execTrapTokenReceipt, ht, hp, oldest]
  simp [hh]

variable {x : LCore} (hx : s.lc? t.asid t.lc = some x)
include hx

/-- The region controller can act on a page fault, a match overflow, a channel overflow and starvation alone. -/
theorem State.regionTrap_of_fatal (p : Pitch)
    (hc : t.cause = .accessFault ∨ t.cause = .illegalNode ∨ t.cause = .jobFault ∨ t.cause = .poisonConsumed) :
    s.regionTrap k t p = s.endLaunch t.asid (EndRec.trap t) := by
  obtain h | h | h | h := hc <;> simp [State.regionTrap, hx, h]

theorem State.regionTrap_of_reserveUsed (hc : t.cause = .tagStarved ∨ t.cause = .colourStarved) (used : p.reserveUsed = true) :
    s.regionTrap k t p = s.endLaunch t.asid (EndRec.trap t) := by
  obtain h | h := hc <;> simp [State.regionTrap, hx, h, used]

theorem State.regionTrap_of_tagStarved (hc : t.cause = .tagStarved) (fresh : p.reserveUsed = false) (run : p.st = .running) :
    s.regionTrap k t p = (s.dropTrap k).grantTags t.asid (tagColour t.tag) := by
  simp [State.regionTrap, hx, hc, fresh, run]

theorem State.regionTrap_of_colourStarved (hc : t.cause = .colourStarved) (fresh : p.reserveUsed = false) (run : p.st = .running) :
    s.regionTrap k t p = (s.dropTrap k).grantColours t.asid := by
  simp [State.regionTrap, hx, hc, fresh, run]

end trapToken

/-- Settles O36: the refill, the time-out, the return and the receipt, each by its equation above; the region controller acts on
starvation only while the pitch's reserve is ungranted (06 R159). -/
theorem coloursAndTraps : Obligations.ColoursAndTraps := by
  intro s asid p hp
  refine ⟨fun lc x c a hx ha hn waits room => ⟨_, _, exec_colourRefill hp hx ha hn waits, State.updLC_lc? _ _ _ _ _ hx,
      LCore.cached_refillColour _ _ _ _ hn room⟩,
    fun lc x k q hx run hq => exec_starvationTimeout hp hx run hq rfl,
    fun c hc => ⟨_, exec_colourReturn hp hc, _, rfl, ?_⟩, ?_⟩
  · obtain ⟨freed, colours, uncached⟩ := (p.returned_returnColour c).refillAll
    exact ⟨freed, colours, uncached⟩
  · rintro k t ht rfl oldest hh live
    obtain ⟨x, hx⟩ := Option.isSome_iff_exists.1 live
    rw [exec_trapTokenReceipt ht hp hh oldest]
    exact ⟨fun hc => congrArg _ (State.regionTrap_of_fatal hx p hc), fun hc used => congrArg _ (State.regionTrap_of_reserveUsed hx hc used),
      fun hc fresh run => congrArg _ (State.regionTrap_of_tagStarved hx hc fresh run),
      fun hc fresh run => congrArg _ (State.regionTrap_of_colourStarved hx hc fresh run)⟩

end Sys2Proof.Machine
end

section
/-! PROOFS. What an instruction comes to, by what its own operation comes to on every context of its record; the fields of its literal; and
the operands of the matrix chapter, none of them poisoned (05 R116). -/
namespace Sys2Proof.Machine
open Sys2Proof

section outcome
variable {i : Instr} {v : NV} {body : Ctx → FireRes} {ok : Ctx → Prop}

/-- An instruction completes where its operation is done, on every context of its record. -/
theorem completes_of_done {st : Ctx → State} {outs : Ctx → List Out} (hi : ∀ s, exec i s = fire v s body)
    (h : checkFields v = none → ∀ c : Ctx, c.v = v → ok c → body c = .done (st c) (outs c)) : Completes i v ok st outs := by
  intro s f p x regs t tag issues holds
  rw [hi]
  exact fire_done issues body (h issues.fields _ rfl holds)

theorem traps_of_trap {cause : Cause} {detail : Nat} (hi : ∀ s, exec i s = fire v s body)
    (h : ∀ c : Ctx, c.v = v → ok c → body c = .trap cause detail) : Traps i v ok cause detail := by
  intro s f p x regs t tag issues holds
  rw [hi]
  exact fire_trap issues body (h _ rfl holds)

theorem holds_of_hold (hi : ∀ s, exec i s = fire v s body) (h : ∀ c : Ctx, c.v = v → ok c → body c = .hold) :
    Holds i v ok := by
  intro s f p x regs t tag issues holds
  rw [hi, fire_issues issues, h _ rfl holds]
  rfl

end outcome

theorem viewD_bits (opc : BitVec 10) (n : Node) (lo k : Nat) : (viewD opc n).bits lo k = (n.lit.extractLsb' lo k).toNat := by
  simp [NV.bits, viewD, BitVec.extractLsb'_toNat, Nat.shiftRight_eq_div_pow]

theorem Ctx.clean_of_clean {c : Ctx} (h : c.poison = false) (k : FireRes) : c.clean k = k := by
  simp [Ctx.clean, h]

theorem Ctx.clean_of_poison {c : Ctx} (h : c.poison = true) (k : FireRes) : c.clean k = .trap .poisonConsumed 0 := by
  simp [Ctx.clean, h]

end Sys2Proof.Machine
end

section
/-! PROOFS. The questions about jobs (05 R141). -/
namespace Sys2Proof.Machine
open Sys2Proof

/-- Whether a job of this id, and no query, stands in a list of jobs (05 R140, R141). -/
def jobIn (id : BitVec 16) (l : List EJob) : Bool :=
  l.any (fun j => decide (j.id = id ∧ j.opc ≠ 0x208 ∧ j.opc ≠ 0x30A ∧ j.opc ≠ 0x30B))

theorem jobIn_eq (id : BitVec 16) : jobIn id = (List.any · (fun j => j.id.toNat == id.toNat && !isQuery j.opc)) := by
  funext l
  refine congrArg l.any (funext fun j => ?_)
  rw [Bool.eq_iff_iff]
  simp [isQuery, BitVec.toNat_inj, and_assoc]

/-- An engine's code names the queue that is asked (05 Table 2). -/
theorem State.jobOut_eq (s : State) (eng : Nat) (id : BitVec 16) (x : LCore) : s.jobOut eng id.toNat x =
    if eng = 0 then jobIn id (s.cluster x.cluster).mq
    else if eng = 1 then jobIn id (s.cluster x.cluster).cpq
    else jobIn id (s.field x.field).mq || jobIn id (s.field x.field).mOut := by
  rw [jobIn_eq]
  match eng with
  | 0 => rfl
  | 1 => rfl
  | _ + 2 => rfl

/-- What JOBPOLL and JOBWAIT ask, by the fields of the job-id lanes. -/
theorem Ctx.askJob_eq (c : Ctx) : c.askJob =
    if ((c.aw 0).extractLsb' 16 2).toNat = 3 ∨ c.p.n ≤ ((c.aw 1).extractLsb' 0 17).toNat then none
    else (c.s.lc? c.f.asid ((c.aw 1).extractLsb' 0 17).toNat).map
      (fun x => !c.s.jobOut ((c.aw 0).extractLsb' 16 2).toNat ((c.aw 0).extractLsb' 0 16).toNat x) := by
  simp only [BitVec.extractLsb'_toNat, Nat.shiftRight_eq_div_pow, Nat.pow_zero, Nat.div_one]
  rfl

theorem Ctx.askJob_of_core {c : Ctx} {x : LCore} (he : ((c.aw 0).extractLsb' 16 2).toNat ≠ 3)
    (hl : ((c.aw 1).extractLsb' 0 17).toNat < c.p.n) (hx : c.s.lc? c.f.asid ((c.aw 1).extractLsb' 0 17).toNat = some x) :
    c.askJob = some (!c.s.jobOut ((c.aw 0).extractLsb' 16 2).toNat ((c.aw 0).extractLsb' 0 16).toNat x) := by
  rw [Ctx.askJob_eq, if_neg (by omega), hx]
  rfl

theorem Ctx.askJob_of_invalid {c : Ctx}
    (h : ((c.aw 0).extractLsb' 16 2).toNat = 3 ∨ c.p.n ≤ ((c.aw 1).extractLsb' 0 17).toNat) : c.askJob = none := by
  rw [Ctx.askJob_eq, if_pos h]

/-- Settles O22: the core that is asked is found, and its engine's queue holds the job or not. -/
theorem jobQuestions : Obligations.JobQuestions := by
  unfold Obligations.JobQuestions
  intro n id eng lc asked names out retired
  have answer (c : Ctx) (h : names c) : c.askJob = some (retired c) := by
    obtain ⟨-, he, hl, hs⟩ := h
    obtain ⟨x, hx⟩ := Option.isSome_iff_exists.1 hs
    rw [Ctx.askJob_of_core he hl hx, State.jobOut_eq]
    simp only [retired, hx]
    show some (!if eng c = 0 then _ else if eng c = 1 then _ else _) = _
    by_cases h0 : eng c = 0
    · simp only [if_pos h0]; rfl
    by_cases h1 : eng c = 1
    · simp only [if_neg h0, if_pos h1]; rfl
    · simp only [if_neg h0, if_neg h1, Bool.not_or]; rfl
  refine ⟨completes_of_done (fun _ => rfl) ?poll, completes_of_done (fun _ => rfl) ?passes, holds_of_hold (fun _ => rfl) ?waits,
    traps_of_trap (fun _ => rfl) ?pollTraps, traps_of_trap (fun _ => rfl) ?waitTraps⟩
  case poll =>
    intro _ c _ h
    rw [Ctx.clean_of_clean h.1, answer c h]
    rfl
  case passes =>
    rintro _ c _ ⟨h, ret⟩
    rw [Ctx.clean_of_clean h.1, answer c h, ret]
    rfl
  case waits =>
    rintro c _ ⟨h, ret⟩
    rw [Ctx.clean_of_clean h.1, answer c h, ret]
    rfl
  case pollTraps =>
    rintro c _ ⟨clean, h⟩
    rw [Ctx.clean_of_clean clean, Ctx.askJob_of_invalid h]
  case waitTraps =>
    rintro c _ ⟨clean, h⟩
    rw [Ctx.clean_of_clean clean, Ctx.askJob_of_invalid h]

end Sys2Proof.Machine
end

section
/-! PROOFS. The jobs of the matrix engine (05 R127 to R131, R135, R140; 06 R160, R161; 04 R110): enqueue, grant, start, the planes of an
MMAJ, and retirement. -/
namespace Sys2Proof.Machine
open Sys2Proof

section queue
variable {s : State} {ci : Nat} {j : EJob}

theorem State.running_iff (s : State) (asid : Nat) : s.running asid = true ↔ ∃ p, s.pitch? asid = some p ∧ p.st = .running := by
  unfold State.running
  cases s.pitch? asid <;> simp

theorem cmdFirst_of_oldest {cs : List Cmd} {k : Nat} {c : Cmd} (hk : cs[k]? = some c)
    (oldest : ∀ d ∈ cs.take k, ¬ (d.eng = c.eng ∧ d.job.asid = c.job.asid ∧ d.job.lc = c.job.lc)) : cmdFirst cs k = true := by
  simp only [cmdFirst, hk, List.all_eq_true]
  intro d hd
  have := oldest d hd
  grind

/-- The oldest command of its core to the matrix engine takes the next job id, and its job-id token goes (05 R127; 06 R160). -/
theorem exec_engineCommandEnqueue_matrix {k : Nat} {c : Cmd} (hk : s.cmds[k]? = some c) (first : cmdFirst s.cmds k = true)
    (he : c.eng = .matrix) (hq : c.job.opc ≠ 0x208) :
    let j : EJob := { c.job with id := (s.cluster c.unit).nextJob }
    exec (.engineCommandEnqueue k) s = .next
      (((({ s with cmds := listDrop s.cmds k }).updCluster c.unit (fun x => { x with nextJob := x.nextJob + 1, mq := x.mq ++ [j] })).updLC
        j.asid j.lc (fun x => x.holdTiles j.view j.lc j.id)).jobToken .matrix c.unit j false
          [j.id.setWidth 32, BitVec.ofNat 32 j.lc] false) := by
  have id : BitVec.ofNat 32 ((s.cluster c.unit).nextJob.toNat + 65536 * Eng.matrix.code) = (s.cluster c.unit).nextJob.setWidth 32 := by
    simp [Eng.code]
  intro j
  show execEngineCommandEnqueue k s = _
  simp only [execEngineCommandEnqueue, hk, first, he, if_true, if_neg hq]
  unfold State.jobIdToken
  rw [← id]
  rfl

/-- APPEEK takes no queue entry and no job id (05 R140). -/
theorem exec_engineCommandEnqueue_appeek {k : Nat} {c : Cmd} (hk : s.cmds[k]? = some c) (first : cmdFirst s.cmds k = true)
    (he : c.eng = .matrix) (hq : c.job.opc = 0x208) : exec (.engineCommandEnqueue k) s = .next
      (({ s with cmds := listDrop s.cmds k }).updCluster c.unit (fun x => { x with peeks := x.peeks ++ [c.job] })) := by
  show execEngineCommandEnqueue k s = _
  simp only [execEngineCommandEnqueue, hk, first, he, if_true, if_pos hq]

/-- The head that arbitration picks is granted while no granted job waits to start (06 R160, R161). -/
theorem exec_engineJobGrant_matrix {g : Nat} (hg : pickHead (s.cluster ci).mq (s.cluster ci).mLast = some g)
    (hj : (s.cluster ci).mq[g]? = some j) (idle : ∀ u ∈ (s.cluster ci).mq, u.granted = true → u.started = true)
    (run : s.running j.asid = true) : exec (.engineJobGrant ci 0) s = .next
      ((s.setCluster ci { s.cluster ci with mq := grantAt (s.cluster ci).mq g, mLast := j.lc }).updLC j.asid j.lc
        (fun x => x.holdTiles j.view j.lc j.id)) := by
  have idle : (s.cluster ci).mq.any (fun j => j.granted && !j.started) = false := by
    simpa [List.any_eq_false] using idle
  show execEngineJobGrant ci 0 s = _
  simp [execEngineJobGrant, hg, hj, idle, run]

section start
variable (hj : (s.cluster ci).mq.find? (fun j => j.granted && !j.started) = some j)
  (may : mayStart j.opc.toNat (s.cluster ci).mq = true) (run : s.running j.asid = true)
include hj may run

theorem exec_matrixJobStart_starts (h : startFault j.view (s.cluster ci).wa = none) :
    exec (.matrixJobStart ci) s = .next (s.updCluster ci (fun x => { x with
      mq := setJob x.mq { j with started := true }
      wsload := x.wsload || j.opc == 0x200 || j.opc == 0x201
      sca := if j.opc = 0x205 then SMap.putAll 0x7F [] 0 (padTo 0xFF 24 (bytesOfLanes j.scale)) else x.sca })) := by
  show execMatrixJobStart ci s = _
  simp only [execMatrixJobStart, hj, may, run, h]
  rfl

theorem exec_matrixJobStart_faults {d : Nat} (h : startFault j.view (s.cluster ci).wa = some d) :
    exec (.matrixJobStart ci) s = .next ((s.takeTrap j.asid j.lc (j.trapInfo .jobFault d)).endMatrixJob ci j (some d)) := by
  show execMatrixJobStart ci s = _
  simp only [execMatrixJobStart, hj, may, run, h]
  rfl

end start

/-- An MMAJ that has streamed its next plane: `stop` says that a halt found it there (05 R131, R135). -/
def EJob.nextPlane (j : EJob) (flags : BitVec 5) (stop : Bool) : EJob :=
  { j with prog := j.prog + 1, flags := j.flags ||| flags, stopped := stop }

/-- The state that shows a plane of an MMAJ with its flags and its count (05 R128, R135). -/
def State.showPlane (s : State) (ci : Nat) (j : EJob) (r : Cluster × BitVec 5) (stop : Bool) : State :=
  s.setCluster ci { r.1 with
    mq := setJob (s.cluster ci).mq (j.nextPlane r.2 stop)
    retired := (s.cluster ci).retired + 1
    flags := (s.cluster ci).flags ||| r.2 }

section plane
variable {x : LCore} (hj : (s.cluster ci).mq.find? (fun j => j.started && j.opc == 0x204 && decide (j.prog ≤ j.order)) = some j)
  (hx : s.lc? j.asid j.lc = some x)
include hj hx

theorem exec_mmajPlaneRetire_of_stopped (h : j.stopped = true) : exec (.mmajPlaneRetire ci) s = .next s := by
  show execMmajPlaneRetire ci s = _
  simp only [execMmajPlaneRetire, hj, hx, if_pos h]

theorem exec_mmajPlaneRetire_of_streaming (h : j.stopped = false) :
    let r := mmaPlane j.view (x.tile (j.view.bits 0 5)) j.prog (s.cluster ci)
    let shown := s.showPlane ci j r (!s.running j.asid)
    exec (.mmajPlaneRetire ci) s = .next
      (if j.order < j.prog + 1 then shown.endMatrixJob ci (j.nextPlane r.2 (!s.running j.asid)) none else shown) := by
  have h : ¬ j.stopped = true := by simp [h]
  intro r shown
  show execMmajPlaneRetire ci s = _
  simp only [execMmajPlaneRetire, hj, hx, if_neg h]
  rfl

end plane

section effect
variable {x : LCore}

theorem State.matrixEffect_wload (h : j.opc = 0x200) : s.matrixEffect ci j x =
    (s.setCluster ci ((s.cluster ci).loadWs (x.tile (j.view.bits 0 5)) (1024 * j.view.bits 5 5) (j.view.bits 10 3) false), 0) := by
  unfold State.matrixEffect; rw [h]; rfl

theorem State.matrixEffect_wloadx (h : j.opc = 0x201) : s.matrixEffect ci j x =
    (s.setCluster ci ((s.cluster ci).loadWs (x.tile (j.view.bits 0 5)) (1024 * j.view.bits 5 5) (j.view.bits 10 3) true), 0) := by
  unfold State.matrixEffect; rw [h]; rfl

theorem State.matrixEffect_wswap (h : j.opc = 0x202) : s.matrixEffect ci j x =
    (s.setCluster ci (s.cluster ci).swapWs, 0) := by
  unfold State.matrixEffect; rw [h]; rfl

theorem State.matrixEffect_mma (h : j.opc = 0x203) : s.matrixEffect ci j x =
    let r := mmaPlane j.view (x.tile (j.view.bits 0 5)) 0 (s.cluster ci); (s.setCluster ci r.1, r.2) := by
  unfold State.matrixEffect; rw [h]; rfl

theorem State.matrixEffect_mmax (h : j.opc = 0x205) : s.matrixEffect ci j x =
    let r := mmaPlane j.view (x.tile (j.view.bits 0 5)) 0 (s.cluster ci); (s.setCluster ci r.1, r.2) := by
  unfold State.matrixEffect; rw [h]; rfl

theorem State.matrixEffect_apzero (h : j.opc = 0x206) : s.matrixEffect ci j x =
    (s.setCluster ci ((s.cluster ci).zeroAp (j.view.bits 0 8) (j.view.bits 8 8 + 1)), 0) := by
  unfold State.matrixEffect; rw [h]; rfl

theorem State.matrixEffect_apmv (h : j.opc = 0x207) : s.matrixEffect ci j x =
    (s.apMove ci j, 0) := by
  unfold State.matrixEffect; rw [h]; rfl

end effect

/-- A started job that is no MMAJ retires: what it does to the cluster or the state, its flags, and its end (05 R128). -/
theorem exec_matrixJobRetire {k : Nat} {x : LCore} (hj : (s.cluster ci).mq[k]? = some j) (hx : s.lc? j.asid j.lc = some x)
    (started : j.started = true) (ho : j.opc ≠ 0x204) : exec (.matrixJobRetire ci k) s = .next
      ((s.matrixEffect ci j x).1.endMatrixJob ci { j with flags := j.flags ||| (s.matrixEffect ci j x).2 } none) := by
  have retires : (j.started && j.opc != 0x204) = true := Bool.and_eq_true_iff.2 ⟨started, bne_iff_ne.2 ho⟩
  show execMatrixJobRetire ci k s = _
  simp only [execMatrixJobRetire, hj, hx, if_pos retires]

/-- APPEEK's answer: the row with its poison at one port, and C with LASTJOB at the other (05 R140). -/
theorem exec_appeekResponse {r : List EJob} (h : (s.cluster ci).peeks = j :: r) : exec (.appeekResponse ci) s = .next
    (((s.setCluster ci { s.cluster ci with peeks := r }).jobToken .matrix ci j false ((s.cluster ci).apRow (j.view.bits 0 8))
      ((s.cluster ci).apPz.contains (j.view.bits 0 8))).jobToken .matrix ci j true
        [(s.cluster ci).retired, (s.cluster ci).lastJob.setWidth 32] false) := by
  show execAppeekResponse ci s = _
  simp only [execAppeekResponse, h, word, BitVec.ofNat_toNat]

end queue

/-- Settles O37: enqueue, grant, start, plane, retirement and APPEEK's answer, each by its equation above. -/
theorem matrixJobs : Obligations.MatrixJobs := by
  unfold Obligations.MatrixJobs
  intro s ci K running
  have runs (asid : Nat) (h : running asid) : s.running asid = true := (s.running_iff asid).2 h
  refine ⟨?enqueue, ?grant, ?start, ?plane, ?retire, fun j r h => exec_appeekResponse h⟩
  case enqueue =>
    rintro k c hk oldest he rfl rest j
    have first := cmdFirst_of_oldest hk oldest
    exact ⟨exec_engineCommandEnqueue_matrix hk first he, exec_engineCommandEnqueue_appeek hk first he⟩
  case grant => exact fun g j hg hj idle run => exec_engineJobGrant_matrix hg hj idle (runs _ run)
  case start =>
    exact fun j hj may run => ⟨exec_matrixJobStart_starts hj may (runs _ run),
      fun d => exec_matrixJobStart_faults hj may (runs _ run)⟩
  case plane =>
    intro j x hj hx r plane shown
    refine ⟨exec_mmajPlaneRetire_of_stopped hj hx, fun stop streaming halts => ?_⟩
    have halted : s.running j.asid = !stop := by
      rw [Bool.eq_iff_iff, s.running_iff, Bool.not_eq_true', halts]
    have retires := exec_mmajPlaneRetire_of_streaming hj hx streaming
    rw [halted, Bool.not_not] at retires
    refine ⟨fun more => retires.trans ?_, fun last => retires.trans ?_⟩
    · rw [if_neg (by omega)]; rfl
    · rw [if_pos (by omega)]; rfl
  case retire =>
    intro i j x hj hx started ho t ends
    have retires := exec_matrixJobRetire hj hx started ho
    have of {k : Cluster} {g : BitVec 5} (effect : s.matrixEffect ci j x = (s.setCluster ci k, g)) : ends k g := by
      rw [effect] at retires
      exact retires
    refine ⟨fun h => of (State.matrixEffect_wload h), fun h => of (State.matrixEffect_wloadx h),
      fun h => of (State.matrixEffect_wswap h), ?_, fun h => of (State.matrixEffect_apzero h), fun h => ?_⟩
    · rintro (h | h)
      · exact of (State.matrixEffect_mma h)
      · exact of (State.matrixEffect_mmax h)
    · rw [State.matrixEffect_apmv h] at retires
      have flags : j.flags ||| 0 = j.flags := BitVec.or_zero
      rw [flags] at retires
      exact retires

end Sys2Proof.Machine
end

section
/-! PROOFS. The planes and accumulators of the matrix engine (05 R132, R134, R135, R138; 03 R77): runs of a sparse map that are written
or cleared, and what a load, a swap, an APZERO and a row leave. -/
namespace Sys2Proof.Machine
open Sys2Proof

section runs
variable {α : Type} [DecidableEq α] {d : α}

theorem SMap.get_putAll {m : SMap α} (h : SMap.wf d m = true) (k : Nat) (vs : List α) (i : Nat) :
    SMap.get d (SMap.putAll d m k vs) i = if k ≤ i ∧ i < k + vs.length then vs.getD (i - k) d else SMap.get d m i := by
  induction vs generalizing m k with
  | nil => rw [if_neg (by simp)]; rfl
  | cons v r ih =>
    rw [SMap.putAll, ih (SMap.wf_put d m k v h), List.length_cons]
    rcases Nat.lt_trichotomy i k with below | rfl | above
    · rw [if_neg (by omega), if_neg (by omega), SMap.get_put_ne _ _ _ _ _ (by omega)]
    · rw [if_neg (by omega), if_pos (by omega), SMap.get_put_self _ _ _ _ h, Nat.sub_self]; rfl
    · rw [SMap.get_put_ne _ _ _ _ _ (by omega)]
      obtain ⟨n, rfl⟩ : ∃ n, i = k + 1 + n := ⟨i - (k + 1), by omega⟩
      have shift : k + 1 + n - k = n + 1 := by omega
      by_cases inside : n < r.length
      · rw [if_pos (by omega), if_pos (by omega), shift, List.getD_cons_succ, Nat.add_sub_cancel_left]
      · rw [if_neg (by omega), if_neg (by omega)]

/-- Writing `n` values at consecutive keys from `b`. -/
theorem SMap.get_foldl_put {m : SMap α} (h : SMap.wf d m = true) (b n : Nat) (g : Nat → α) (i : Nat) :
    SMap.get d ((List.range n).foldl (fun m k => SMap.put d m (b + k) (g k)) m) i =
      if b ≤ i ∧ i < b + n then g (i - b) else SMap.get d m i := by
  have both (n : Nat) : SMap.wf d ((List.range n).foldl (fun m k => SMap.put d m (b + k) (g k)) m) = true ∧
      SMap.get d ((List.range n).foldl (fun m k => SMap.put d m (b + k) (g k)) m) i =
        if b ≤ i ∧ i < b + n then g (i - b) else SMap.get d m i := by
    induction n with
    | zero => exact ⟨h, by rw [if_neg (by omega)]; rfl⟩
    | succ n ih =>
      obtain ⟨wf, ih⟩ := ih
      rw [List.range_succ, List.foldl_append]
      refine ⟨SMap.wf_put _ _ _ _ wf, ?_⟩
      show SMap.get d (SMap.put d _ (b + n) (g n)) i = _
      by_cases here : i = b + n
      · rw [here, SMap.get_put_self _ _ _ _ wf, if_pos (by omega), Nat.add_sub_cancel_left]
      · rw [SMap.get_put_ne _ _ _ _ _ here, ih]
        exact ite_congr (propext (by omega)) (fun _ => rfl) (fun _ => rfl)
  exact (both n).2

/-- Clearing `n` consecutive keys from `b` is writing what an unlisted key reads as. -/
theorem SMap.get_foldl_del {m : SMap α} (h : SMap.wf d m = true) (b n i : Nat) :
    SMap.get d ((List.range n).foldl (fun m k => SMap.del m (b + k)) m) i =
      if b ≤ i ∧ i < b + n then d else SMap.get d m i := by
  rw [← SMap.get_foldl_put h b n (fun _ => d) i]
  simp only [SMap.put, if_true]

end runs

theorem SMap.getN_getD {α : Type} (d : α) (m : SMap α) (k n i : Nat) (h : i < n) :
    (SMap.getN d m k n).getD i d = SMap.get d m (k + i) := by
  simp [SMap.getN, h]

theorem Cluster.loadWs_plain (k : Cluster) (t : Tile) (off fmt : Nat) : k.loadWs t off fmt false =
    { k with ws := { bytes := SMap.putAll 0 [] 0 (t.read off 12288), fmt := BitVec.ofNat 3 fmt, valid := true,
                     poison := t.poisonIn off 12288 } } := by
  unfold Cluster.loadWs
  simp only [Bool.false_eq_true, if_false]

theorem Cluster.get_loadWs (k : Cluster) (t : Tile) (off fmt i : Nat) (h : i < 12288) :
    SMap.get 0 (k.loadWs t off fmt false).ws.bytes i = SMap.get 0 t.bytes (off + i) := by
  have empty : SMap.wf (0 : Byte) [] = true := rfl
  rw [loadWs_plain, Tile.read]
  have length : (SMap.getN 0 t.bytes off 12288).length = 12288 := by
    rw [SMap.getN, List.length_map, List.length_range]
  rw [SMap.get_putAll empty, length, if_pos (by omega), Nat.sub_zero, SMap.getN_getD _ _ _ _ _ h]

/-- A swap clears the column scales where the plane that becomes active has a format without them (05 R134). -/
theorem Cluster.swapWs_of_plain {k : Cluster} (h : k.ws.fmt.toNat ≤ 2) :
    k.swapWs = { k with wa := k.ws, ws := k.wa, scw := [], scwPz := false } := if_pos h

theorem Cluster.swapWs_of_scaled {k : Cluster} (h : 2 < k.ws.fmt.toNat) : k.swapWs = { k with wa := k.ws, ws := k.wa } :=
  if_neg (by show ¬ k.ws.fmt.toNat ≤ 2; omega)

theorem Cluster.mem_zeroAp_apPz (k : Cluster) (row n q : Nat) :
    q ∈ (k.zeroAp row n).apPz ↔ q ∈ k.apPz ∧ ¬ (row ≤ q ∧ q < row + n) := by
  simp only [Cluster.zeroAp, List.mem_filter, Bool.not_eq_true', Bool.and_eq_false_iff, decide_eq_false_iff_not]
  exact and_congr_right fun _ => by omega

/-- An MMA's row of AP: lane `c` takes the root of its column's pair tree, or the sum of it and what AP held (05 R135; 03 R77). -/
theorem mmaRow_get {v : NV} {t : Tile} {k : Cluster} {g : BitVec 5} {r : Nat} {col : Nat → List FNum} (hv : v.opc = 0x203)
    (h : SMap.wf 0 k.ap = true) (i : Nat) :
    let row := v.bits 5 8 + r
    let xs := meElems (v.bits 21 2) (t.read (v.x1 0 15 + r * v.x1 15 15) 384)
    let root (c : Nat) : Nat := (pairSum (List.zipWith prodN xs (col c))).1
    SMap.get 0 (mmaRow v t 0 ((List.range 32).map (fun c => (c, col c))) (k, g) r).1.ap i =
      if 32 * row ≤ i ∧ i < 32 * row + 32 then BitVec.ofNat 32 (if v.x1 30 1 = 1 then root (i - 32 * row)
        else (f32.add .rne (SMap.get 0 k.ap (32 * row + (i - 32 * row))).toNat (root (i - 32 * row))).1)
      else SMap.get 0 k.ap i := by
  intro row xs root
  rw [← SMap.get_foldl_put h (32 * row) 32 (fun c => BitVec.ofNat 32 (if v.x1 30 1 = 1 then root c
    else (f32.add .rne (SMap.get 0 k.ap (32 * row + c)).toNat (root c)).1))]
  have plain : (v.opc == 0x205) = false := by rw [hv]; rfl
  have fmt : jobFmt v = v.bits 21 2 := by unfold jobFmt; rw [hv]; rfl
  simp only [mmaRow, plain, fmt, List.map_map, List.foldl_map, Nat.zero_mul, Nat.add_zero, beq_iff_eq]
  congr 1
  congr 1
  funext m c
  by_cases ovw : v.x1 30 1 = 1
  · simp only [Function.comp, if_pos ovw]; rfl
  · simp only [Function.comp, if_neg ovw]; rfl

/-- Settles O38: the bytes of a load and the rows of AP are runs of a sparse map, written or cleared. -/
theorem matrixPlanes : Obligations.MatrixPlanes := by
  unfold Obligations.MatrixPlanes
  refine ⟨?load, ?swap, ?zero, ?row⟩
  case load =>
    intro k t off fmt hf r
    refine ⟨?_, ?_, ?_, ?_, ?_, k.get_loadWs t off fmt⟩ <;> simp only [r, Cluster.loadWs_plain]
    exact Nat.mod_eq_of_lt hf
  case swap =>
    intro k
    rcases Nat.lt_or_ge 2 k.ws.fmt.toNat with scaled | plain
    · rw [Cluster.swapWs_of_scaled scaled]
      exact ⟨rfl, rfl, rfl, fun h => absurd h (by omega), fun _ => rfl⟩
    · rw [Cluster.swapWs_of_plain plain]
      exact ⟨rfl, rfl, rfl, fun _ => ⟨rfl, rfl⟩, fun h => absurd h (by omega)⟩
  case zero =>
    intro k row n wf r
    have read := SMap.get_foldl_del wf (32 * row) (32 * n)
    refine ⟨fun i low high => (read i).trans (if_pos (by omega)), fun i out => (read i).trans (if_neg (by omega)), rfl, rfl,
      k.mem_zeroAp_apPz row n⟩
  case row =>
    intro v t k g r hv wf cols row xs root out
    have read := mmaRow_get (t := t) (g := g) (r := r) (col := k.waCol) hv wf
    refine ⟨fun c hc => (read _).trans ?_, fun i far => (read i).trans (if_neg far), rfl, rfl⟩
    rw [if_pos (by omega), Nat.add_sub_cancel_left]
    rfl

end Sys2Proof.Machine
end

section
/-! PROOFS. Constants and status registers (05 R122 to R124; 04 R98 to R107): a register's word is the OR of its fields, each at its
place; reads and writes of constants; reads and writes of registers. -/
namespace Sys2Proof.Machine
open Sys2Proof

section fields
variable {a k : Nat} (h : a < 2 ^ k)
include h

/-- A field above the first `k` bits of a word. -/
theorem word_add_field (b : Nat) : word (a + 2 ^ k * b) = word a ||| word b <<< k := by
  have shifted : word (2 ^ k * b) = word b <<< k :=
    BitVec.eq_of_toNat_eq (by simp [word, Nat.shiftLeft_eq, Nat.mul_comm])
  rw [Nat.add_comm, Nat.two_pow_add_eq_or_of_lt h, Nat.or_comm, ← shifted]
  exact BitVec.ofNat_or

theorem word_add_flag (b : Bool) : word (a + if b then 2 ^ k else 0) = word a ||| if b then 1#32 <<< k else 0 := by
  cases b
  · simp
  · exact (congrArg (fun m => word (a + m)) (Nat.mul_one _).symm).trans (word_add_field h 1)

theorem add_field_lt {b j : Nat} (hb : b < 2 ^ j) : a + 2 ^ k * b < 2 ^ (k + j) := by
  have := Nat.mul_le_mul_left (2 ^ k) (Nat.succ_le_of_lt hb)
  rw [Nat.mul_succ, ← Nat.pow_add] at this
  omega

theorem add_flag_lt (b : Bool) : (a + if b then 2 ^ k else 0) < 2 ^ (k + 1) := by
  rw [Nat.pow_succ]
  split <;> omega

end fields

theorem word_toNat {k : Nat} (b : BitVec k) : word b.toNat = b.setWidth 32 := BitVec.ofNat_toNat ..

theorem word_mod {k : Nat} (h : k ≤ 32) (x : Nat) :
    word (x % 2 ^ k) = ((BitVec.ofNat 32 x).extractLsb' 0 k).setWidth 32 := by
  rw [← word_toNat, BitVec.extractLsb'_toNat, Nat.shiftRight_zero, BitVec.toNat_ofNat, Nat.mod_mod_of_dvd _ (Nat.pow_dvd_pow 2 h)]

/-- The fields of CORE_ROLE: the role, DOUBLED, HALF, the logical core and the ASID (04 R99). -/
theorem word_coreRole_fields {r : Nat} (hr : r < 2 ^ 2) (doubled half : Bool) (lc asid : Nat) :
    word (r + (if doubled then 4 else 0) + (if half then 8 else 0) + 16 * (lc % 65536) + 1048576 * (asid % 4096)) =
      word r ||| (if doubled then 1#32 <<< 2 else 0) ||| (if half then 1#32 <<< 3 else 0) |||
        ((BitVec.ofNat 32 lc).extractLsb' 0 16).setWidth 32 <<< 4 ||| ((BitVec.ofNat 32 asid).extractLsb' 0 12).setWidth 32 <<< 20 := by
  have flags := add_flag_lt (add_flag_lt hr doubled) half
  have lower := add_field_lt flags (Nat.mod_lt lc (Nat.two_pow_pos 16))
  show word (r + (if doubled then 2 ^ 2 else 0) + (if half then 2 ^ 3 else 0) + 2 ^ 4 * (lc % 2 ^ 16) + 2 ^ 20 * (asid % 2 ^ 12)) = _
  rw [word_add_field lower, word_add_field flags, word_add_flag (add_flag_lt hr doubled), word_add_flag hr, word_mod (by decide),
    word_mod (by decide)]

/-- The word of TRAP_CAUSE: the cause, VALID, OVERRUN and DETAIL (04 R101). -/
theorem word_trapCauseWord (t : TrapRegs) : word (trapCauseWord t) =
    t.cause.setWidth 32 ||| (if t.valid then 1#32 <<< 8 else 0) ||| (if t.overrun then 1#32 <<< 9 else 0) |||
      t.detail.setWidth 32 <<< 16 := by
  have cause : t.cause.toNat < 2 ^ 8 := by have := t.cause.isLt; omega
  have valid := add_flag_lt cause t.valid
  have flags : _ < 2 ^ 16 := Nat.lt_of_lt_of_le (add_flag_lt valid t.overrun) (by decide)
  show word (t.cause.toNat + (if t.valid then 2 ^ 8 else 0) + (if t.overrun then 2 ^ 9 else 0) + 2 ^ 16 * t.detail.toNat) = _
  rw [word_add_field flags, word_add_flag valid, word_add_flag cause, word_toNat, word_toNat]

/-- A register whose field of `k` bits stands below a flag (04 R105, R106). -/
theorem word_below_flag {k m : Nat} (b : BitVec k) (flag : Bool) (hm : m = 2 ^ k) :
    word (b.toNat + if flag then m else 0) = b.setWidth 32 ||| if flag then 1#32 <<< k else 0 := by
  rw [hm, word_add_flag b.isLt, word_toNat]

/-- TAG_LIMIT and LIVE in one word (04 R107). -/
theorem word_limit_live (limit live : BitVec 16) :
    word (limit.toNat + 65536 * live.toNat) = limit.setWidth 32 ||| live.setWidth 32 <<< 16 := by
  rw [← word_toNat, ← word_toNat]
  exact word_add_field limit.isLt _

/-- Lanes as the map of what each reads as. -/
theorem lanes_eq_map_tlane (t : Token) : t.lanes = (List.range t.lanes.length).map (tlane t) := by
  apply List.ext_getElem
  · simp
  · intro i h _
    simp [tlane, h]

/-- A fold over the places of a list that a range makes is a fold over the range. -/
theorem foldl_zipIdx_map_range {α β : Type} (g : β → α × Nat → β) (f : Nat → α) (b : β) (n : Nat) :
    ((List.range n).map f).zipIdx.foldl g b = (List.range n).foldl (fun b i => g b (f i, i)) b := by
  induction n with
  | zero => rfl
  | succ n ih => simp [List.range_succ, List.zipIdx_append, ih]

theorem foldl_zipIdx_lanes {β : Type} (g : β → Word × Nat → β) (b : β) (t : Token) :
    t.lanes.zipIdx.foldl g b = (List.range t.lanes.length).foldl (fun b i => g b (tlane t i, i)) b := by
  conv => lhs; rw [lanes_eq_map_tlane t]
  exact foldl_zipIdx_map_range g _ b _

section writes
variable (c : Ctx) (w : Word)

theorem Ctx.csrWrite_raCtl : c.csrWrite 0x06 w =
    if c.x.role = .ag then c.upd (fun x => { x with raCtl := w.extractLsb' 0 5 }) else c.s := rfl

theorem Ctx.csrWrite_meStat : c.csrWrite 0x18 w =
    if c.x.role = .cp then c.s.updCluster c.x.cluster (fun k => { k with flags := k.flags &&& ~~~(w.extractLsb' 9 5) })
    else c.s := rfl

/-- No other register has a field that a program writes (04 Table 4). -/
theorem Ctx.csrWrite_other {i : Nat} (trap : i ≠ 0x02) (ra : i ≠ 0x06) (budget : i ≠ 0x09) (me : i ≠ 0x18) :
    c.csrWrite i w = c.s := by
  unfold Ctx.csrWrite
  split
  case h_5 => rfl
  all_goals contradiction

end writes

/-- Settles O20: each register's word is the OR of its fields, and a write is that of the one register it names. -/
theorem constantsAndRegisters : Obligations.ConstantsAndRegisters := by
  unfold Obligations.ConstantsAndRegisters
  intro n clean at0 idx w pair bit role csr v written
  have lit (opc : BitVec 10) (lo k : Nat) {c : Ctx} (hv : c.v = viewD opc n) : c.v.bits lo k = (n.lit.extractLsb' lo k).toNat := by
    rw [hv, viewD_bits]
  have roleWord (c : Ctx) : word (coreRole c.f c.x) = role c ||| bit c.x.host.doubled 2 ||| bit c.x.host.half 3 |||
      ((BitVec.ofNat 32 c.f.lc).extractLsb' 0 16).setWidth 32 <<< 4 |||
      ((BitVec.ofNat 32 c.f.asid).extractLsb' 0 12).setWidth 32 <<< 20 := by
    unfold coreRole
    simp only [role]
    cases c.x.role <;> exact word_coreRole_fields (by decide) ..
  have reads (c : Ctx) : c.csr idx = csr c := by
    unfold Ctx.csr csrValue
    rw [roleWord, word_trapCauseWord, word_below_flag (m := 512) c.x.ovfSize c.x.enlarged rfl,
      word_below_flag (m := 64) c.x.maxw c.x.clamped rfl, word_limit_live]
    rfl
  have writes (c : Ctx) : c.csrWrite idx (v c) = written c := by
    simp only [written]
    generalize idx = i
    by_cases trap : i = 0x02
    · subst trap; rfl
    by_cases ra : i = 0x06
    · subst ra
      rw [Ctx.csrWrite_raCtl]
      cases hr : c.x.role <;> simp
    by_cases budget : i = 0x09
    · subst budget; rfl
    by_cases me : i = 0x18
    · subst me
      rw [Ctx.csrWrite_meStat]
      cases hr : c.x.role <;> simp
    rw [Ctx.csrWrite_other c _ trap ra budget me]
    simp [trap, ra, budget, me]
  refine ⟨completes_of_done (fun _ => rfl) ?krd, completes_of_done (fun _ => rfl) ?kwr, traps_of_trap (fun _ => rfl) ?beyond,
    traps_of_trap (fun _ => rfl) ?poison, completes_of_done (fun _ => rfl) ?csrrd, completes_of_done (fun _ => rfl) ?csrwr⟩
  case krd =>
    intro _ c hv h
    rw [Ctx.clean_of_clean h, lit 0x1C5 _ _ hv, lit 0x1C5 _ _ hv]
    rfl
  case kwr =>
    rintro _ c hv ⟨h, fits⟩
    have room : ¬ (c.x.reqConsts < at0 + c.wa ∧ c.wa ≠ 0) := by
      have : w c = c.wa := rfl
      omega
    rw [Ctx.clean_of_clean h, lit 0x1C6 _ _ hv, if_neg room]
    simp only [foldl_zipIdx_lanes]
    rfl
  case beyond =>
    rintro c hv ⟨h, some, far⟩
    rw [Ctx.clean_of_clean h, lit 0x1C6 _ _ hv]
    exact if_pos ⟨far, some⟩
  case poison =>
    intro c _ h
    exact Ctx.clean_of_poison (Bool.not_eq_false _ ▸ h) _
  case csrrd =>
    intro _ c hv h
    rw [Ctx.clean_of_clean h, lit 0x1C7 _ _ hv]
    exact congrArg (FireRes.done c.s <| c.both · false) (reads c)
  case csrwr =>
    intro _ c hv h
    have value : (if c.v.mod = 1 then word (c.v.bits 8 24) else tlane c.f.a 0) = v c := by
      rw [lit 0x1C8 _ _ hv, word_toNat, hv]
      rfl
    rw [Ctx.clean_of_clean h]
    show c.passA (c.csrWrite (c.v.bits 0 8) (if c.v.mod = 1 then _ else _)) = _
    rw [value, lit 0x1C8 _ _ hv]
    exact congrArg (fun s => FireRes.done s c.aBoth) (writes c)

end Sys2Proof.Machine
end

section
/-! PROOFS. Accumulators (05 R116, R117, R119, R120; 03 R79, R80): the partials, the sum that a closing firing rebuilds, and the
selection of whole jets or integers. -/
namespace Sys2Proof.Machine
open Sys2Proof

/-- A fold of two accumulators that do not meet is the two folds. -/
theorem foldl_pair {α β γ : Type} (f : α → γ → α) (g : β → γ → β) (a : α) (b : β) (l : List γ) :
    l.foldl (fun r x => (f r.1 x, g r.2 x)) (a, b) = (l.foldl f a, l.foldl g b) := by
  induction l generalizing a b with
  | nil => rfl
  | cons x r ih => exact ih _ _

/-- A fold over the places of rows of one length goes row by row. -/
theorem foldl_zipIdx_flatMap_range {α β : Type} (g : β → α × Nat → β) (f : Nat → List α) (L : Nat) (hf : ∀ j, (f j).length = L)
    (b : β) (n : Nat) : ((List.range n).flatMap f).zipIdx.foldl g b =
      (List.range n).foldl (fun b j => (f j).zipIdx.foldl (fun b e => g b (e.1, j * L + e.2)) b) b := by
  have length (n : Nat) : ((List.range n).flatMap f).length = n * L := by
    induction n with
    | zero => exact (Nat.zero_mul L).symm
    | succ n ih =>
      rw [List.range_succ, List.flatMap_append, List.length_append, ih, List.flatMap_cons, List.flatMap_nil, List.append_nil, hf,
        Nat.succ_mul]
  induction n with
  | zero => rfl
  | succ n ih =>
    rw [List.range_succ, List.flatMap_append, List.zipIdx_append, List.foldl_append, List.foldl_append, ih, Nat.zero_add, length,
      List.zipIdx_eq_map_add, List.foldl_map]
    simp

theorem jetPick_length (isMax number : Bool) (d : Nat) (a b : List Nat) : (jetPick isMax number d a b).1.length = d + 1 := by
  unfold jetPick
  split <;> simp

/-- A jet is the list of its coefficients (03 R80). -/
theorem map_co_eq {l : List Nat} {n : Nat} (h : l.length = n) : (List.range n).map (co l) = l := by
  subst h
  apply List.ext_getElem
  · simp
  · intro i _ h
    simp [co, h]

/-- The value of a 32-bit lane as its type reads it (07 R185). -/
theorem intVal_toNat {t : ETyp} (h : is64 t = false) (x : Word) : intVal t x.toNat = valOf (isSigned t) x := by
  have signed : toS 32 x.toNat = x.toInt := by
    rw [toS, BitVec.toInt_eq_toNat_cond]
    exact ite_congr (propext (by omega)) (fun _ => rfl) (fun _ => rfl)
  simp [intVal, valOf, intBits, h, signed]

theorem typOk_of_checkFields {v : NV} {sp : OpSpec} (h : checkFields v = none) (hs : opSpec v.opc.toNat = some sp) :
    typOk v sp = true := by
  cases ok : typOk v sp with
  | true => rfl
  | false => simp [checkFields, hs, ok] at h

/-- An opcode that takes F32 and the 32-bit integers alone takes no 64-bit type (05 Table 1). -/
theorem is64_of_checkFields {opc : BitVec 10} {n : Node} {sp : OpSpec} (h : checkFields (viewD opc n) = none)
    (hs : opSpec opc.toNat = some sp) (ht : sp.typ = 0x013) : is64 n.typ = false := by
  have masked : maskBit sp.typ (typCode n.typ) = true := (Bool.and_eq_true_iff.1 (typOk_of_checkFields h hs)).1
  rw [ht] at masked
  revert masked
  cases n.typ <;> decide

section firing
variable {c : Ctx}

theorem Ctx.accCheck_of_typed (clean : c.poison = false) (typed : (c.x.acc c.accN).typ.toNat = typCode c.v.typ) (k : Acc → FireRes) :
    c.accCheck k = k (c.x.acc c.accN) := by
  rw [Ctx.accCheck, Ctx.clean_of_clean clean]
  exact if_neg (fun wrong => wrong typed)

theorem Ctx.accCheck_of_mistyped (clean : c.poison = false) (typed : (c.x.acc c.accN).typ.toNat ≠ typCode c.v.typ)
    (k : Acc → FireRes) : c.accCheck k = .trap .accessFault 0x12 := by
  rw [Ctx.accCheck, Ctx.clean_of_clean clean]
  exact if_pos typed

/-- The state in which an accumulating firing leaves its accumulator, its flags and the firings that waited (05 R119). -/
def Ctx.accumulated (c : Ctx) (acc : Acc) (flags : Nat) : State :=
  (c.upd (fun x => (x.updAcc c.accN (fun _ => acc)).orFlags flags)).releaseAll c.f.asid c.f.lc

theorem Ctx.accFinish_of_open {acc : Acc} (h : acc.cnt + 1 ≠ acc.len) (flags : Nat) (close : Acc → Acc × Nat) :
    c.accFinish acc flags close = .done (c.accumulated { acc with cnt := acc.cnt + 1 } flags) [] := by
  have going : (acc.cnt + 1 == acc.len) = false := beq_false_of_ne h
  simp only [Ctx.accFinish, going, Bool.false_eq_true, if_false, Nat.or_zero]
  rfl

theorem Ctx.accFinish_of_closing {acc : Acc} (h : acc.cnt + 1 = acc.len) (flags : Nat) (close : Acc → Acc × Nat) :
    let closed := close { acc with cnt := acc.cnt + 1, opn := false }
    c.accFinish acc flags close = .done (c.accumulated closed.1 (flags ||| closed.2))
      (c.both ((List.range c.wa).map (fun i => SMap.get 0 closed.1.val i)) false) := by
  have closing : (acc.cnt + 1 == acc.len) = true := beq_iff_eq.2 h
  simp only [Ctx.accFinish, closing, if_true]
  rfl

theorem Ctx.accAdd_f32 (h : c.v.typ = .f32) (i x y : Nat) : c.accAdd i x y =
    ((f32.add c.rnd x y).1, atPos (i % (c.order + 1)) (f32.add c.rnd x y).2) := by
  simp only [Ctx.accAdd, Ctx.lanePos, if_pos h]
  rfl

theorem Ctx.accAdd_int (h : c.v.typ ≠ .f32) (i x y : Nat) : c.accAdd i x y = ((x + y) % 2 ^ 32, 0) := if_neg h

/-- What ACCADD adds into lane `i` of the partial that is due (05 R119). -/
def Ctx.summand (c : Ctx) (acc : Acc) (i : Nat) : Fr :=
  c.accAdd i (SMap.get 0 acc.part (32 * (acc.cnt.toNat % 4) + i)).toNat (c.aLane i)

/-- The partials after an ACCADD. -/
def Ctx.partials (c : Ctx) (acc : Acc) : SMap Word :=
  (List.range c.accLanes).foldl (fun m i => SMap.ins m (32 * (acc.cnt.toNat % 4) + i) (word (c.summand acc i).1)) acc.part

/-- The flags of the summands of an ACCADD. -/
def Ctx.partialFlags (c : Ctx) (acc : Acc) : Nat := (List.range c.accLanes).foldl (fun g i => g ||| (c.summand acc i).2) 0

/-- The accumulator whose value is rebuilt from its partials, with the flags of that (03 R79). -/
def Ctx.rebuilt (c : Ctx) (acc : Acc) : Acc × Nat :=
  ({ acc with val := (List.range 32).map (fun i => (i, word (c.combine acc.part i).1)) },
    (List.range 32).foldl (fun g i => g ||| (c.combine acc.part i).2) 0)

theorem exec_accadd_eq (n : Node) (s : State) : exec (.accadd n) s = fire (viewD 0x1C1 n) s (fun c =>
    c.accCheck (fun acc => c.accFinish { acc with part := c.partials acc } (c.partialFlags acc) c.rebuilt)) := by
  show execAccadd n s = _
  simp only [execAccadd, orAll, List.map_map, List.foldl_map, Function.comp_def]
  rfl

/-- The jet that ACCMAX or ACCMIN leaves at place `j`: the held one or the operand's, by their coefficients 0 (05 R119). -/
def Ctx.pickedJet (c : Ctx) (isMax : Bool) (acc : Acc) (j : Nat) : Jet :=
  jetPick isMax (c.v.mod == 1) c.order
    ((List.range (c.order + 1)).map (fun k => (SMap.get 0 acc.val (j * (c.order + 1) + k)).toNat)) (c.aJet c.order j)

theorem Ctx.accPick_f32 (h : c.v.typ = .f32) (isMax : Bool) (acc : Acc) : c.accPick isMax acc =
    (((List.range (jetCount c.wa c.order)).flatMap (fun j =>
        (List.range (c.order + 1)).map (fun k => word (co (c.pickedJet isMax acc j).1 k)))).zipIdx.foldl
          (fun m e => SMap.ins m e.2 e.1) acc.val,
      (List.range (jetCount c.wa c.order)).foldl (fun g j => g ||| (c.pickedJet isMax acc j).2) 0) := by
  have lanes (j : Nat) : (List.range (c.order + 1)).map (fun k => word (co (c.pickedJet isMax acc j).1 k)) =
      (c.pickedJet isMax acc j).1.map word := by
    have length : (c.pickedJet isMax acc j).1.length = c.order + 1 := jetPick_length ..
    conv => rhs; rw [← map_co_eq length, List.map_map]
    rfl
  rw [foldl_zipIdx_flatMap_range _ _ (c.order + 1) (by simp)]
  simp only [lanes, List.zipIdx_map, List.foldl_map, Ctx.accPick, if_pos h]
  exact foldl_pair (fun m j => (c.pickedJet isMax acc j).1.zipIdx.foldl
      (fun m e => SMap.ins m (j * (c.order + 1) + e.2) (word e.1)) m)
    (fun g j => g ||| (c.pickedJet isMax acc j).2) acc.val 0 (List.range (jetCount c.wa c.order))

/-- The integer that ACCMAX or ACCMIN leaves of the held lane and the operand's (05 R119). -/
def pickedLane (isMax : Bool) (t : ETyp) (x y : Word) : Word :=
  if isMax then (if valOf (isSigned t) x < valOf (isSigned t) y then y else x)
  else (if valOf (isSigned t) y < valOf (isSigned t) x then y else x)

theorem Ctx.accPick_int (h : c.v.typ ≠ .f32) (h32 : is64 c.v.typ = false) (isMax : Bool) (acc : Acc) : c.accPick isMax acc =
    (((List.range c.wa).map (fun i => pickedLane isMax c.v.typ (SMap.get 0 acc.val i) (tlane c.f.a i))).zipIdx.foldl
      (fun m e => SMap.ins m e.2 e.1) acc.val, 0) := by
  have lane (x y : Word) : word (if isMax then
        (if decide (intVal c.v.typ x.toNat < intVal c.v.typ y.toNat) then y.toNat else x.toNat)
      else (if decide (intVal c.v.typ y.toNat < intVal c.v.typ x.toNat) then y.toNat else x.toNat)) =
      pickedLane isMax c.v.typ x y := by
    simp only [intVal_toNat h32, decide_eq_true_eq, apply_ite word, word_toNat, BitVec.setWidth_eq]
    rfl
  rw [foldl_zipIdx_map_range]
  simp only [← lane, Ctx.accPick, if_neg h]
  rfl

end firing

/-- The value that ACCINIT loads, by its MOD and its type (05 R117). -/
theorem accInit_eq (m : BitVec 3) (t : ETyp) : accInit m.toNat t =
    if m = 1 then (if t = .f32 then 0xFF800000 else if t = .i32 then 0x80000000 else 0)
    else if m = 2 then (if t = .f32 then 0x7F800000 else if t = .i32 then 0x7FFFFFFF else 0xFFFFFFFF)
    else 0 := by
  revert m
  cases t <;> decide

/-- Settles O19: the partials and the sum are folds over the lanes, and a selection is a fold over the picked jets or integers. -/
theorem accumulators : Obligations.Accumulators := by
  unfold Obligations.Accumulators
  intro n an acc w d len init loaded typed after next closes add lanes p summand part gPart quarter low high total gTotal sums old
    better jet picked val gPick read
  have number {opc : BitVec 10} {c : Ctx} (hv : c.v = viewD opc n) : c.accN = an := by
    rw [Ctx.accN, hv, viewD_bits]
  have held {opc : BitVec 10} {c : Ctx} (hv : c.v = viewD opc n) : c.x.acc c.accN = acc c := by
    rw [number hv]
  have state {opc : BitVec 10} {c : Ctx} (hv : c.v = viewD opc n) (a : Acc) (g : Nat) : c.accumulated a g = after c a g := by
    rw [Ctx.accumulated, number hv]
    rfl
  have checked {opc : BitVec 10} {c : Ctx} (hv : c.v = viewD opc n) (clean : c.poison = false) (ht : typed c) (k : Acc → FireRes) :
      c.accCheck k = k (acc c) := by
    rw [← held hv]
    refine Ctx.accCheck_of_typed clean ?_ k
    rw [held hv, hv]
    exact ht
  have adds {c : Ctx} (hv : c.v = viewD 0x1C1 n) : c.accAdd = add c := by
    funext i x y
    by_cases f : n.typ = .f32
    · have ft : c.v.typ = .f32 := by rw [hv]; exact f
      simp only [add, if_pos f, Ctx.accAdd_f32 ft, Ctx.rnd, hv]
      rfl
    · have ft : c.v.typ ≠ .f32 := by rw [hv]; exact f
      simp only [add, if_neg f, Ctx.accAdd_int ft]
  have taken {c : Ctx} (hv : c.v = viewD 0x1C1 n) : c.accLanes = lanes c := by
    rw [Ctx.accLanes, hv]
    rfl
  have partials {c : Ctx} (hv : c.v = viewD 0x1C1 n) : c.partials (acc c) = part c ∧ c.partialFlags (acc c) = gPart c := by
    unfold Ctx.partials Ctx.partialFlags Ctx.summand
    rw [taken hv, adds hv]
    exact ⟨rfl, rfl⟩
  have rebuilt {c : Ctx} (hv : c.v = viewD 0x1C1 n) (a : Acc) (ha : a.part = part c) :
      c.rebuilt a = ({ a with val := sums c }, gTotal c) := by
    unfold Ctx.rebuilt Ctx.combine
    rw [adds hv, ha]
    rfl
  have picks {opc : BitVec 10} {c : Ctx} (isMax : Bool) (hv : c.v = viewD opc n) (h32 : is64 n.typ = false) :
      c.accPick isMax (acc c) = (val isMax c, gPick isMax c) := by
    have ht : c.v.typ = n.typ := by rw [hv]; rfl
    by_cases f : n.typ = .f32
    · have jets : c.pickedJet isMax (acc c) = jet isMax c := by
        funext j
        rw [Ctx.pickedJet, hv]
        rfl
      simp only [val, gPick, picked, if_pos f, Ctx.accPick_f32 (ht.trans f), jets]
      rfl
    · simp only [val, gPick, picked, if_neg f, Ctx.accPick_int (ht ▸ f) (ht ▸ h32), ht]
      rfl
  have selects {i : Instr} {opc : BitVec 10} {sp : OpSpec} (isMax : Bool) (hs : opSpec opc.toNat = some sp) (ht : sp.typ = 0x013)
      (hi : ∀ s, exec i s = fire (viewD opc n) s (fun c => c.accCheck (fun a =>
        c.accFinish { a with val := (c.accPick isMax a).1 } (c.accPick isMax a).2 (fun a => (a, 0))))) :
      Completes i (viewD opc n) (fun c => c.poison = false ∧ typed c ∧ ¬ closes c)
        (fun c => after c { acc c with val := val isMax c, cnt := next c } (gPick isMax c)) (fun _ => []) ∧
      Completes i (viewD opc n) (fun c => c.poison = false ∧ typed c ∧ closes c)
        (fun c => after c { acc c with val := val isMax c, cnt := next c, opn := false } (gPick isMax c))
        (fun c => read c (val isMax c)) := by
    refine ⟨completes_of_done hi ?_, completes_of_done hi ?_⟩
    · rintro fields c hv ⟨clean, tt, more⟩
      rw [checked hv clean tt, picks isMax hv (is64_of_checkFields fields hs ht), ← state hv]
      exact Ctx.accFinish_of_open (acc := { acc c with val := val isMax c }) more _ _
    · rintro fields c hv ⟨clean, tt, last⟩
      rw [checked hv clean tt, picks isMax hv (is64_of_checkFields fields hs ht), ← state hv]
      refine (Ctx.accFinish_of_closing (acc := { acc c with val := val isMax c }) last _ _).trans ?_
      rw [Nat.or_zero]
      rfl
  obtain ⟨maxGoes, maxCloses⟩ := selects (i := .accmax n) (opc := 0x1C2) true rfl rfl (fun _ => rfl)
  obtain ⟨minGoes, minCloses⟩ := selects (i := .accmin n) (opc := 0x1C3) false rfl rfl (fun _ => rfl)
  refine ⟨completes_of_done (fun _ => rfl) ?opens, traps_of_trap (fun _ => rfl) ?isOpen, traps_of_trap (fun _ => rfl) ?poison,
    completes_of_done (exec_accadd_eq n) ?goes, completes_of_done (exec_accadd_eq n) ?sum, traps_of_trap (exec_accadd_eq n) ?mistyped,
    maxGoes, maxCloses, minGoes, minCloses, completes_of_done (fun _ => rfl) ?reads⟩
  case opens =>
    rintro _ c hv ⟨clean, closed⟩
    have shut : ¬ (c.x.acc c.accN).opn = true := by rw [held hv, closed]; exact Bool.false_ne_true
    rw [Ctx.clean_of_clean clean]
    refine (if_neg shut).trans ?_
    rw [number hv, foldl_zipIdx_lanes, accInit_eq, hv, viewD_bits, word_toNat]
    rfl
  case isOpen =>
    rintro c hv ⟨clean, hopen⟩
    rw [Ctx.clean_of_clean clean]
    exact if_pos ((congrArg Acc.opn (held hv)).trans hopen)
  case poison => exact fun c _ h => Ctx.clean_of_poison h _
  case goes =>
    rintro _ c hv ⟨clean, ht, more⟩
    rw [checked hv clean ht, (partials hv).1, (partials hv).2, ← state hv]
    exact Ctx.accFinish_of_open (acc := { acc c with part := part c }) more _ _
  case sum =>
    rintro _ c hv ⟨clean, ht, last⟩
    rw [checked hv clean ht, (partials hv).1, (partials hv).2, ← state hv]
    refine (Ctx.accFinish_of_closing (acc := { acc c with part := part c }) last _ _).trans ?_
    rw [rebuilt hv _ rfl]
    rfl
  case mistyped =>
    rintro c hv ⟨clean, ht⟩
    refine Ctx.accCheck_of_mistyped clean ?_ _
    rw [held hv, hv]
    exact ht
  case reads =>
    intro _ c hv clean
    rw [Ctx.clean_of_clean clean, held hv, hv, viewD_bits]
    rfl

end Sys2Proof.Machine
end

section
/-! PROOFS. MMAX at issue (05 R136; 14 R358 link 2): the job that it sends carries what happens before its scale token, and so is not the
job of the firing alone. -/
namespace Sys2Proof.Machine
open Sys2Proof

/-- The state in which a job has left for the matrix engine, its tiles held (05 R126). -/
def Ctx.sentJob (c : Ctx) (j : EJob) : State :=
  let t := c.upd (fun x => (x.holdTiles c.v c.f.lc 0).perfEvent 0x0B 1)
  { t with cmds := t.cmds ++ [mkCmd .matrix c.x.cluster j] }

/-- A matrix command with the tiles it needs, in the states it needs, and with room in the queue leaves for its engine (05 R126). -/
theorem Ctx.matrixCmd_sends {c : Ctx} (n : Node) (e1 e2 : BitVec 86) (scale : List Word) (clean : c.poison = false)
    (tiles : ((matrixTiles c.v c.f.lc).1 ++ (matrixTiles c.v c.f.lc).2).all (fun i => c.x.tileIs i .ab) = true)
    (room : c.s.queueRoom .matrix c.x.cluster c.f.asid c.f.lc (c.s.cluster c.x.cluster).mq = true)
    (ready : c.x.tilesOk c.v c.f.lc = true) :
    c.matrixCmd n e1 e2 (fun go => go scale) = .done (c.sentJob (c.job n e1 e2 scale)) [] := by
  have go : (c.s.queueRoom .matrix c.x.cluster c.f.asid c.f.lc (c.s.cluster c.x.cluster).mq && c.x.tilesOk c.v c.f.lc) = true := by
    rw [room, ready]; rfl
  rw [Ctx.matrixCmd, Ctx.clean_of_clean clean]
  exact (if_pos tiles).trans (if_pos go)

/-- The context of an MMAX that has taken its scale entry: what happens before the scale token happens before its job. -/
def Ctx.withScale (c : Ctx) (e : MEntry) (y : LCore) : Ctx :=
  { c with s := c.upd (fun _ => y), f := { c.f with a := { c.f.a with hb := hbJoin c.f.a.hb e.tok.hb } } }

/-- An MMAX with a clean scale entry, its tile and room sends the job of the context that has taken the entry (05 R136). -/
theorem exec_mmax_of_scale {n : Node} {e1 e2 : BitVec 86} {s : State} {f : Firing} {p : Pitch} {x y : LCore} {regs : ColourRegs}
    {t : State} {tag : DWord} {e : MEntry} (issues : Issues (viewX 0x205 n e1 e2) s f p x regs t tag)
    (scale : x.takeFrom (scaleFor f.node f.tag) = some (e, y)) (sound : e.tok.poison = false) :
    let c := (issueCtx (viewX 0x205 n e1 e2) f p x regs t tag).withScale e y
    c.poison = false → ((matrixTiles c.v f.lc).1 ++ (matrixTiles c.v f.lc).2).all (fun i => x.tileIs i .ab) = true →
    c.s.queueRoom .matrix x.cluster f.asid f.lc (c.s.cluster x.cluster).mq = true → x.tilesOk c.v f.lc = true →
    exec (.mmax n e1 e2) s = .next (s.fired (c.sentJob (c.job n e1 e2 e.tok.lanes)) (viewX 0x205 n e1 e2) f []) := by
  intro c clean tiles room ready
  have sound : ¬ e.tok.poison = true := by rw [sound]; exact Bool.false_ne_true
  refine fire_done issues _ ?_
  simp only [issueCtx, scale, if_neg sound]
  exact Ctx.matrixCmd_sends (c := c) n e1 e2 e.tok.lanes clean tiles room ready

/-- What happens before the job that was sent last. -/
def State.sentHb (s : State) : Option (List StoreId) := s.cmds.getLast?.map (fun k => k.job.fire.a.hb)

theorem State.sentHb_fired {s t u : State} {v : NV} {f : Firing} {k : Cmd} (h : t.cmds = u.cmds ++ [k]) :
    (s.fired t v f []).sentHb = some k.job.fire.a.hb := by
  simp [State.sentHb, State.fired, State.endFiring, State.emitAll, h]

namespace ScaledMmax

/-- An MMAX of tile 0 (05 R136). -/
def node : Node :=
  { typ := .i32, ary := .mono, tgo := .keep, mod := 0, dstA := .mx, dstB := .none, actA := .pass, actB := .pass, lit := 0 }

/-- Its scale entry: a store of the same core happens before the token (14 R358). -/
def entry : MEntry :=
  { kind := .scale, node := 0, port := false, tok := { wordToken false with hb := [(1, 0, 0)] }, tok2 := none, count := 0, seq := 0 }

/-- A CP core that holds the entry, colour 0 in its cache, and tile 0 READY. -/
def core : LCore :=
  { (default : LCore) with
    role := .cp, ms := [entry], cache := [{ colour := 0, regs := default }], tiles := [(0, { Tile.init with state := .ready })] }

/-- The pitch of that core. -/
def pitch : Pitch := { (default : Pitch) with colours := [(0, default)], lcores := [(0, core)] }

/-- The module with the MMAX at issue. -/
def state : State := { State.reset with pitches := [(1, pitch)], cur := some wordFiring }

theorem issues : Issues (viewX 0x205 node 0 0) state wordFiring pitch core default state 0 where
  cur := rfl
  pitch := rfl
  lcore := rfl
  fields := by decide
  setFits := rfl
  kernel := rfl
  role := rfl
  live := rfl
  cached := rfl
  tagop := rfl
  noEos := rfl

end ScaledMmax

/-- Refutes O21: an MMAX whose scale token a store happens before sends a job that lists the store, and the statement's job lists only
what happens before the firing's own operands. -/
theorem not_matrixCommands : ¬ Obligations.MatrixCommands := by
  unfold Obligations.MatrixCommands
  intro h
  obtain ⟨-, -, -, -, -, -, -, -, mmax, -⟩ := h ScaledMmax.node 0 0
  have claimed := mmax _ _ _ _ _ _ _ ScaledMmax.issues (by decide)
  have runs := exec_mmax_of_scale ScaledMmax.issues rfl rfl rfl rfl rfl rfl
  have same := congrArg State.sentHb (Host.Outcome.next.inj (claimed.symm.trans runs))
  rw [State.sentHb_fired rfl, State.sentHb_fired rfl] at same
  exact absurd same (by decide)

end Sys2Proof.Machine
end

section
/-! PROOFS. Tokens at their core (06 R150 to R154; 01 R16, R25; 10 R255, R257): the arrival of the oldest token of its channel, the
return of spilled entries and of held-back tokens, and the entry of a held match. -/
namespace Sys2Proof.Machine
open Sys2Proof

theorem State.pitch?_of_lc? {s : State} {asid lc : Nat} {x : LCore} (hx : s.lc? asid lc = some x) : ∃ p, s.pitch? asid = some p := by
  unfold State.lc? at hx
  split at hx
  · cases hx
  · exact ⟨_, ‹_›⟩

section admission
variable {s : State} {asid lc : Nat} {x : LCore} {t : Token}

/-- A token that fails the checks of the network interface is discarded and counted (01 R16). -/
theorem State.admitTok_of_discards (hx : s.lc? asid lc = some x) (bad : x.discards asid t = true) :
    s.admitTok asid lc t = .done (s.ucDrop asid lc t.tag t.dnode.toNat t.dport (x.opcAt t.dnode.toNat)) := by
  obtain ⟨p, hp⟩ := State.pitch?_of_lc? hx
  simp only [State.admitTok, hp, hx, bad, if_true]

/-- A token that passes them, and is not for the controller, takes the input path (06 R150). -/
theorem State.admitTok_of_passes (hx : s.lc? asid lc = some x) (good : x.discards asid t = false) (h6 : t.vc ≠ 6) (h7 : t.vc ≠ 7) :
    s.admitTok asid lc t = s.enterPath asid lc t := by
  obtain ⟨p, hp⟩ := State.pitch?_of_lc? hx
  simp only [State.admitTok, hp, hx, good, Bool.false_eq_true, if_false, if_neg h6, if_neg h7]

end admission

theorem LCore.received_eq (fl : Flight) :
    (fun x => LCore.received x fl) = fun x => if fl.ni = none ∧ fl.mesh = true then x.perfEvent 0x08 1 else x := by
  funext x
  simp only [LCore.received, Option.isNone_iff_eq_none]

theorem State.pathOpen_of_running {s : State} {asid : Nat} {p : Pitch} {x : LCore} (hp : s.pitch? asid = some p)
    (run : p.st = .running) (free : x.blocked = false) : s.pathOpen asid x = true := by
  simp [State.pathOpen, State.running_eq hp, run, free]

section core
variable {s : State} {asid lc : Nat} {p : Pitch} {x : LCore} (hx : s.lc? asid lc = some x)
include hx

/-- The oldest token of its source and channel, with none before it at its core, leaves the mesh (06 R150, R153). -/
theorem exec_tokenArrival_of_first {k : Nat} {fl : Flight} {u : State} (hp : s.pitch? asid = some p) (run : p.st = .running)
    (free : x.blocked = false) (hk : s.flight[k]? = some fl) (hd : fl.dst = .lcore asid lc) (first : flightFirst s.flight k = true)
    (alone : ∀ g ∈ s.waitingAt asid lc (tokChan fl.tok), g = fl) (unspilled : ∀ u ∈ x.chanOvf, tokChan u ≠ tokChan fl.tok)
    (admitted : State.admitTok { s.updLC asid lc (fun x => x.received fl) with flight := listDrop s.flight k } asid lc fl.tok = .done u) :
    exec (.tokenArrival k) s = .next u := by
  have noneAhead (ahead : Flight → Bool) : (s.waitingAt asid lc (tokChan fl.tok)).any (fun g => ahead g && g != fl) = false :=
    List.any_eq_false.2 fun g hg => by simp [alone g hg]
  have noneSpilled : x.chanOvf.any (fun u => tokChan u == tokChan fl.tok) = false :=
    List.any_eq_false.2 fun u hu => by simp [unspilled u hu]
  show execTokenArrival k s = _
  simp only [execTokenArrival, hk, hd, hp, hx, first, free, run, State.arrive, noneAhead, noneSpilled, admitted]
  simp

theorem exec_stickyOverflowScan_of_match {e : MEntry} {u : State} (opn : s.pathOpen asid x = true)
    (he : (x.ms ++ x.ovf).find? (fun e => e.kind == .sticky && (x.ms ++ x.ovf).any (fun w => w.kind == .waiting &&
      w.node == e.node && w.port != e.port && tagColour w.tok.tag == tagColour e.tok.tag)) = some e)
    (matched : s.stickyMatches (x.ms ++ x.ovf).length asid lc e.tok false = .done u) :
    exec (.stickyOverflowScan asid lc) s = .next u := by
  show execStickyOverflowScan asid lc s = _
  simp only [execStickyOverflowScan, hx, opn, if_true, he, matched]

theorem exec_matchRefill_of_room {e : MEntry} {r : List MEntry} (opn : s.pathOpen asid x = true) (ho : x.ovf = e :: r)
    (room : x.msUsed + 256 ≤ x.reqMatch) : exec (.matchRefill asid lc) s = .next (s.updLC asid lc (fun x =>
      LCore.count { x with ms := insRefill e x.ms, ovf := r } (fun c => { c with mrefill := satInc c.mrefill }))) := by
  show execMatchRefill asid lc s = _
  simp only [execMatchRefill, hx, ho, opn, room, and_self, if_true]

theorem exec_channelOverflowSpill_of_one {vc : Nat} {g : Flight} (opn : s.pathOpen asid x = true) (hv : vc < 8)
    (waits : s.waitingAt asid lc vc = [g]) (room : x.chanRoom g.tok = true) :
    exec (.channelOverflowSpill asid lc vc) s =
      .next ({ s with flight := s.flight.erase g }.updLC asid lc (fun x => x.chanPut g.tok)) := by
  show execChannelOverflowSpill asid lc vc s = _
  simp only [execChannelOverflowSpill, hx, opn, hv, and_self, if_true, waits, State.spillWaiting, room]

theorem exec_channelOverflowReplay_of_first {vc : Nat} {w : Token} {u : State} (opn : s.pathOpen asid x = true)
    (hw : x.chanOvf.find? (fun w => tokChan w == vc) = some w)
    (admitted : (s.updLC asid lc (fun x => { x with chanOvf := x.chanOvf.erase w })).admitTok asid lc w = .done u) :
    exec (.channelOverflowReplay asid lc vc) s = .next u := by
  show execChannelOverflowReplay asid lc vc s = _
  simp only [execChannelOverflowReplay, hx, opn, hw, admitted, if_true]

end core

theorem insRefill_perm (e : MEntry) (l : List MEntry) : (insRefill e l).Perm (e :: l) := by
  induction l with
  | nil => exact .refl _
  | cons y r ih =>
    rw [insRefill]
    split
    · exact .refl _
    · exact (ih.cons y).trans (.swap e y r)

theorem exec_readyQueueEntry_of_room {s : State} {core : Nat} {f : Firing} {r : List Firing} (hh : s.heldQ core = f :: r)
    (room : (s.readyQ core).length < 64) : exec (.readyQueueEntry core) s =
      .next ({ s with held := SMap.put [] s.held core r }.setReady core (s.readyQ core ++ [f])) := by
  show execReadyQueueEntry core s = _
  simp only [execReadyQueueEntry, hh, room, if_true]

/-- A ready queue that holds a firing reads as it was written. -/
theorem State.readyQ_setReady_append (s : State) (core : Nat) (q : List Firing) (f : Firing) :
    (s.setReady core (q ++ [f])).readyQ core = q ++ [f] := by
  unfold State.readyQ State.setReady SMap.put
  rw [if_neg (by simp)]
  exact SMap.get_ins_self ..

theorem State.readyQ_setReady_ne (s : State) {core other : Nat} (q : List Firing) (h : other ≠ core) :
    (s.setReady core q).readyQ other = s.readyQ other := SMap.get_put_ne _ _ _ _ _ h

/-- Settles O34: each token is followed to its core, and each of the core's own steps is the equation above. -/
theorem tokensAtCores : Obligations.TokensAtCores := by
  intro s asid lc p x hp hx run free
  have opn := State.pathOpen_of_running hp run free
  refine ⟨?arrival, fun e u => exec_stickyOverflowScan_of_match hx opn, ?refill, ?spill, ?replay, ?entry⟩
  case arrival =>
    intro k fl hk hd first alone unspilled here gone
    have arrives {u : State} : gone.admitTok asid lc fl.tok = .done u → exec (.tokenArrival k) s = .next u := by
      have same : gone = { s.updLC asid lc (fun x => x.received fl) with flight := listDrop s.flight k } := by
        rw [LCore.received_eq]
      rw [same]
      exact exec_tokenArrival_of_first hx hp run free hk hd first alone unspilled
    exact ⟨fun y hy bad => arrives (State.admitTok_of_discards hy bad),
      fun y u hy good h6 h7 path => arrives ((State.admitTok_of_passes hy good h6 h7).trans path)⟩
  case refill =>
    intro e r ho room
    exact ⟨_, _, exec_matchRefill_of_room hx opn ho room, State.updLC_lc? _ _ _ _ _ hx, rfl, insRefill_perm e x.ms⟩
  case spill =>
    intro vc g hv waits room
    exact ⟨_, _, exec_channelOverflowSpill_of_one hx opn hv waits (decide_eq_true room), State.updLC_flight ..,
      State.updLC_lc? _ _ _ _ x hx, rfl⟩
  case replay =>
    intro vc w y u hw back hy good h6 h7 path
    exact exec_channelOverflowReplay_of_first hx opn hw ((State.admitTok_of_passes hy good h6 h7).trans path)
  case entry =>
    intro core f r hh room
    exact ⟨_, exec_readyQueueEntry_of_room hh room, State.readyQ_setReady_append _ core (s.readyQ core) f, rfl,
      fun other h => State.readyQ_setReady_ne _ _ h⟩

end Sys2Proof.Machine
end

section
/-! PROOFS. Launch queues, intake and the end of a launch (06 R162, R166, R170, R173, R178, R179; 01 R23; 17 R406): the doorbell and the
write of PROD, the entry that an intake takes, the start of a pitch, and how a launch ends. -/
namespace Sys2Proof.Machine
open Sys2Proof

/-- A PROD more than 2^N ahead of CONS disables the queue (06 R162). -/
theorem LQueue.setProd_spec (l : LQueue) (v : BitVec 16) : (l.setProd v).prod = v ∧ (l.setProd v).cons = l.cons ∧
    (l.setProd v).en = (l.en && decide ((v - l.cons).toNat ≤ 2 ^ l.log2n.toNat)) := by
  unfold LQueue.setProd
  split
  · exact ⟨rfl, rfl, by rw [decide_eq_false (by omega), Bool.and_false]⟩
  · exact ⟨rfl, rfl, by rw [decide_eq_true (by omega), Bool.and_true]⟩

section queue
variable {s : State} {port q val : Nat}

theorem State.writeProd_of_host (h : (s.lqueue q).dev = false) :
    s.writeProd port q val = s.updLQ q (fun l => l.setProd (BitVec.ofNat 16 val)) := by
  simp [State.writeProd, h]

theorem State.writeProd_of_device (h : (s.lqueue q).dev = true) :
    s.writeProd port q val = s.updPcie port (fun b => { b with denied := satInc b.denied }) := by
  simp [State.writeProd, h, State.deny]

/-- Only the function that QFN names rings the doorbell of a page (17 R406). -/
theorem exec_doorbell {fn : Nat} (hport : port < 2) (hq : q < 16) : exec (.doorbell port fn q val) s =
    .next (if (SMap.get 0 (s.pcieBlk port).qfn q).toNat = fn then s.writeProd port (16 * port + q) val else s) := by
  show execDoorbell port fn q val s = _
  simp only [execDoorbell, hport, hq, true_and]

/-- A host writes the queues of its own port (06 R162). -/
theorem exec_lqProdWrite (hport : port < 2) (hq : q < 16) :
    exec (.lqProdWrite port (16 * port + q) val) s = .next (s.writeProd port (16 * port + q) val) := by
  have own : (16 * port + q) / 16 = port ∧ 16 * port + q < 32 := by omega
  show execLqProdWrite port (16 * port + q) val s = _
  rw [execLqProdWrite, if_pos own]

end queue

section intake
variable {s : State} {q : Nat} {obj : Option GraphObj}

/-- The launch record of the entry that queue `q` offers next (06 R166). -/
def State.entryBytes (s : State) (q : Nat) : List Byte := s.bytesAt ((s.lqueue q).entry (s.lqueue q).cons.toNat) 256

/-- The launch that queue `q` offers next (06 R166). -/
def State.entryLaunch (s : State) (q : Nat) : Launch := Launch.parse (s.entryBytes q) q (s.lqueue q).cons.toNat s.ageCtr

/-- The state once the Booth has taken the entry that queue `q` offers next (06 R166). -/
def State.taken (s : State) (q : Nat) : State :=
  { (s.noteRange ((s.lqueue q).entry (s.lqueue q).cons.toNat) 256).updLQ q (fun l => { l with cons := l.cons + 1 }) with
    lastQ := q, ageCtr := s.ageCtr + 1 }

/-- What an intake makes of a launch whose entry has been taken: the checks of COMPL, then of the record and its object (06 R165,
R166). -/
def State.admitEntry (u : State) (q i : Nat) (l : Launch) (bs : List Byte) (obj : Option GraphObj) : State :=
  if !rangeOk l.compl (fun v => u.vwritable u.bootField l.asid v 64) then u.launchBad q i
  else match u.intakeCheck l bs obj with
    | .error (.inl e) => (u.reject l e).boothScan
    | .error (.inr d) => (u.rejectWith l d).boothScan
    | .ok o => State.boothScan { u with waiting := u.waiting ++ [l.waitEntry o] }

/-- An intake takes the next entry, but where an engine owns its lines it waits (06 R166; 14 R361). -/
theorem exec_launchIntake (next : s.nextQueue = some q) (room : s.waiting.length < 256) (booted : s.booted = true)
    (sound : (s.field s.bootField).recovery = false) : exec (.launchIntake q obj) s =
      .next (if s.isOwned ((s.lqueue q).entry (s.lqueue q).cons.toNat) 256 = true then s
        else (s.taken q).admitEntry q (s.lqueue q).cons.toNat (s.entryLaunch q) (s.entryBytes q) obj) := by
  have held : (s.nextQueue ≠ some q ∨ 256 ≤ s.waiting.length ∨ !s.booted ∨ (s.field s.bootField).recovery ∨
      s.isOwned ((s.lqueue q).entry (s.lqueue q).cons.toNat) 256) ↔
        s.isOwned ((s.lqueue q).entry (s.lqueue q).cons.toNat) 256 = true := by
    have few : ¬ 256 ≤ s.waiting.length := Nat.not_le.2 room
    simp only [next, booted, sound, few, ne_eq, not_true_eq_false, Bool.not_true, Bool.false_eq_true, false_or]
  show execLaunchIntake q obj s = _
  unfold execLaunchIntake
  refine congrArg _ (ite_congr (propext held) (fun _ => rfl) (fun _ => ?_))
  extract_lets lq i bs u0 u l
  have taken : s.taken q = u := rfl
  rw [taken]
  show _ = u.admitEntry q i l bs obj
  clear_value u l
  rfl

variable {u : State} {i : Nat} {l : Launch} {bs : List Byte}

theorem State.admitEntry_of_bad (h : rangeOk l.compl (fun v => u.vwritable u.bootField l.asid v 64) = false) :
    u.admitEntry q i l bs obj = u.launchBad q i := by
  simp [State.admitEntry, h]

theorem State.admitEntry_of_reject (h : rangeOk l.compl (fun v => u.vwritable u.bootField l.asid v 64) = true) {e : EndRec}
    (hc : u.intakeCheck l bs obj = .error (.inl e)) : u.admitEntry q i l bs obj = (u.reject l e).boothScan := by
  simp [State.admitEntry, h, hc]

theorem State.admitEntry_of_report (h : rangeOk l.compl (fun v => u.vwritable u.bootField l.asid v 64) = true) {d : Report57}
    (hc : u.intakeCheck l bs obj = .error (.inr d)) : u.admitEntry q i l bs obj = (u.rejectWith l d).boothScan := by
  simp [State.admitEntry, h, hc]

theorem State.admitEntry_of_ok (h : rangeOk l.compl (fun v => u.vwritable u.bootField l.asid v 64) = true) {o : GraphObj}
    (hc : u.intakeCheck l bs obj = .ok o) :
    u.admitEntry q i l bs obj = State.boothScan { u with waiting := u.waiting ++ [l.waitEntry o] } := by
  simp [State.admitEntry, h, hc]

end intake

/-- A pitch's watchdog interval passes with no firing, no job outstanding and no token on the mesh (06 R178). -/
def State.watchdogDue (s : State) (asid : Nat) (p : Pitch) : Prop :=
  p.lastFiring + 1000 * p.launch.wdog ≤ (s.field p.homeField).time.toNat ∧ s.jobsOut asid = false ∧
    ∀ g ∈ s.flight, g.mesh = true → g.tok.asid.toNat ≠ asid

theorem State.watchdogDue_iff {s : State} {asid : Nat} {p : Pitch} : s.watchdogDue asid p ↔
    p.lastFiring + 1000 * p.launch.wdog ≤ (s.field p.homeField).time.toNat ∧ s.busyPitch asid = false := by
  simp [State.watchdogDue, State.busyPitch, Bool.or_eq_false_iff, List.any_eq_false]

section pitch
variable {s : State} {asid : Nat} {p : Pitch} (hp : s.pitch? asid = some p)
include hp

/-- A pitch starts once its bindings are written and its meetings installed (01 R23; 06 R165). -/
theorem exec_startTokenInjection_of_ready {u v : State} (loading : p.st = .loading) (binds : s.writeBinds asid p.launch = .ok u)
    (images : u.installImages asid p.badPages p.image.meetings = .ok v) :
    exec (.startTokenInjection asid) s = .next (v.startPitch asid p) := by
  show execStartTokenInjection asid s = _
  simp [execStartTokenInjection, hp, loading, binds, images]

/-- A launch ends when every SINK has reported and nothing is outstanding (06 R170). -/
theorem exec_pitchCompletion : exec (.pitchCompletion asid) s =
    .next (if p.st = .running ∧ p.sunk = true ∧ s.jobsOut asid = false ∧ s.writesOut asid p = false then
      s.endLaunch asid (EndRec.plain 1) else s) := by
  show execPitchCompletion asid s = _
  simp only [execPitchCompletion, hp, Bool.not_eq_true']

theorem exec_watchdog_of_due (run : p.st = .running) (set : p.launch.wdog ≠ 0) (due : s.watchdogDue asid p) :
    exec (.watchdog asid) s = .next ((s.endFree .watchdog).2.endLaunch asid (s.endFree .watchdog).1) := by
  obtain ⟨late, idle⟩ := State.watchdogDue_iff.1 due
  show execWatchdog asid s = _
  simp [execWatchdog, hp, run, set, late, idle]

theorem exec_watchdog_of_not_due (h : p.launch.wdog = 0 ∨ ¬ s.watchdogDue asid p) : exec (.watchdog asid) s = .next s := by
  have still : ¬ (p.st = .running ∧ p.launch.wdog ≠ 0 ∧ p.lastFiring + 1000 * p.launch.wdog ≤ (s.field p.homeField).time.toNat ∧
      (!s.busyPitch asid) = true) := by
    rintro ⟨-, set, late, idle⟩
    exact h.elim set fun due => due (State.watchdogDue_iff.2 ⟨late, by simpa using idle⟩)
  show execWatchdog asid s = _
  simp only [execWatchdog, hp, if_neg still]

end pitch

section cancel
variable {s : State} {queue index : Nat}

theorem exec_cancel {port : Nat} (h : queue / 16 = port ∨ s.isOwner port = true) :
    exec (.cancel port queue index) s = .next (s.cancel queue index) := by
  show execCancel port queue index s = _
  rw [execCancel, if_pos h]

theorem State.cancel_of_waiting {w : Waiting} (hw : s.waiting.find? (fun w =>
      !w.saved && (w.launch.queue == queue && w.launch.index == index)) = some w) :
    s.cancel queue index = ((s.unwait w.launch.age).reject w.launch (EndRec.plain 4)).boothScan := by
  simp only [State.cancel, hw]

section placed
variable (hw : ∀ w ∈ s.waiting, w.saved = false → ¬ (w.launch.queue = queue ∧ w.launch.index = index))
include hw

theorem State.find_waiting_none : s.waiting.find? (fun w =>
    !w.saved && (w.launch.queue == queue && w.launch.index == index)) = none :=
  List.find?_eq_none.2 fun w h => by simpa using hw w h

theorem State.cancel_of_pitch {e : Nat × Pitch}
    (he : s.pitches.find? (fun p => p.2.launch.queue == queue && p.2.launch.index == index) = some e) :
    s.cancel queue index = s.endLaunch e.1 (EndRec.plain 4) := by
  simp only [State.cancel, State.find_waiting_none hw, he]

theorem State.cancel_of_none (hn : ∀ p ∈ s.pitches, ¬ (p.2.launch.queue = queue ∧ p.2.launch.index = index)) :
    s.cancel queue index = s := by
  have noPitch : s.pitches.find? (fun p => p.2.launch.queue == queue && p.2.launch.index == index) = none :=
    List.find?_eq_none.2 fun p h => by simpa using hn p h
  simp only [State.cancel, State.find_waiting_none hw, noPitch]

end placed
end cancel

/-- Settles O46: each step of the Booth and of the region controller by its equation above. -/
theorem launches : Obligations.Launches := by
  refine ⟨LQueue.setProd_spec, ?doorbell, ?intake, ?pitch, ?cancel⟩
  case doorbell =>
    intro s port fn q val hport hq mine
    refine ⟨fun other => ?_, fun own host => ?_, fun own device => ?_, fun host => ?_⟩
    · rw [exec_doorbell hport hq, if_neg other]
    · rw [exec_doorbell hport hq, if_pos own, State.writeProd_of_host host]
    · rw [exec_doorbell hport hq, if_pos own, State.writeProd_of_device device]
    · rw [exec_lqProdWrite hport hq, State.writeProd_of_host host]
  case intake =>
    intro s q obj next room booted sound i bs l u
    have takes := exec_launchIntake (obj := obj) next room booted sound
    refine ⟨fun owned => takes.trans (by rw [if_pos owned]), fun free => ?_⟩
    have takes : exec (.launchIntake q obj) s = .next (u.admitEntry q i l bs obj) :=
      takes.trans (by rw [if_neg (by rw [free]; decide)]; rfl)
    rw [takes]
    exact ⟨fun bad => congrArg _ (State.admitEntry_of_bad bad), fun good =>
      ⟨fun e he => congrArg _ (State.admitEntry_of_reject good he), fun d hd => congrArg _ (State.admitEntry_of_report good hd),
        fun o ho => congrArg _ (State.admitEntry_of_ok good ho)⟩⟩
  case pitch =>
    intro s asid p hp
    refine ⟨fun u v => exec_startTokenInjection_of_ready hp, fun run sunk jobs writes => ?_, fun h => ?_,
      fun run set due => ⟨exec_watchdog_of_due hp run set due, rfl, rfl⟩, exec_watchdog_of_not_due hp⟩
    · rw [exec_pitchCompletion hp, if_pos ⟨run, sunk, jobs, writes⟩]
    · have outstanding : ¬ (p.st = .running ∧ p.sunk = true ∧ s.jobsOut asid = false ∧ s.writesOut asid p = false) := by
        rintro ⟨-, sunk, jobs, writes⟩
        simp [sunk, jobs, writes] at h
      rw [exec_pitchCompletion hp, if_neg outstanding]
  case cancel =>
    intro s port queue index may is
    rw [exec_cancel may]
    exact ⟨fun w hw => congrArg _ (State.cancel_of_waiting hw), fun hw hn => congrArg _ (State.cancel_of_none hw hn),
      fun hw p hp => congrArg _ (State.cancel_of_pitch hw hp)⟩

end Sys2Proof.Machine
end

section
/-! PROOFS. Pre-emption and restore (06 R167, R179 to R183): the lowest rectangle that fits, the request, the halt, the save and the
restore of a pitch. -/
namespace Sys2Proof.Machine
open Sys2Proof

/-- The `i`-th rectangle of a shape, by cluster row and then by cluster column (06 R167). -/
def nthRect (o : GraphObj) (w h i : Nat) : Rect :=
  { kx0 := i % (129 - w), ky0 := i / (129 - w), w := w, h := h, scatter := o.scatter, salt := o.salt }

/-- The rectangle of a shape that fits is the first that does (06 R167). -/
theorem State.lowestRect_eq_some {s : State} {gone : Nat → Bool} {o : GraphObj} {ms : List Meeting} {w h : Nat} {r : Rect}
    (hr : s.lowestRect gone o ms w h = some r) : ∃ i, nthRect o w h i = r ∧ s.rectFits gone o ms (nthRect o w h i) = true ∧
      ∀ j, j < (65 - h) * (129 - w) → s.rectFits gone o ms (nthRect o w h j) = true → i ≤ j := by
  have hr : ((List.range ((65 - h) * (129 - w))).find? (s.rectFits gone o ms ∘ nthRect o w h)).map (nthRect o w h) = some r :=
    List.find?_map.symm.trans hr
  obtain ⟨i, hi, rfl⟩ := Option.map_eq_some_iff.1 hr
  obtain ⟨fits, -, first⟩ := List.find?_range_eq_some.1 hi
  refine ⟨i, rfl, fits, fun j _ hj => Nat.le_of_not_lt fun lower => ?_⟩
  have misfit := first j lower
  rw [Function.comp_apply, hj] at misfit
  cases misfit

/-- The place of a cluster among the corners of a shape. -/
theorem corner_of_place {n x y : Nat} (hx : x < n) : (n * y + x) % n = x ∧ (n * y + x) / n = y :=
  ⟨by rw [Nat.mul_add_mod, Nat.mod_eq_of_lt hx], by rw [Nat.mul_add_div (by omega), Nat.div_eq_of_lt hx, Nat.add_zero]⟩

theorem row_col_le_of_le {n i j : Nat} (h : i ≤ j) : i / n < j / n ∨ (i / n = j / n ∧ i % n ≤ j % n) := by
  rcases Nat.lt_or_eq_of_le (Nat.div_le_div_right h (c := n)) with row | row
  · exact .inl row
  · refine .inr ⟨row, ?_⟩
    have hi := Nat.div_add_mod i n
    have hj := Nat.div_add_mod j n
    rw [row] at hi
    omega

/-- Placement takes the lowest row, then the lowest column (06 R167). -/
theorem State.lowestRect_le {s : State} {gone : Nat → Bool} {o : GraphObj} {ms : List Meeting} {w h x y : Nat} {r : Rect}
    (hr : s.lowestRect gone o ms w h = some r) (hx : x + w ≤ 128) (hy : y + h ≤ 64)
    (fits : s.rectFits gone o ms { r with kx0 := x, ky0 := y } = true) : r.ky0 < y ∨ (r.ky0 = y ∧ r.kx0 ≤ x) := by
  obtain ⟨i, rfl, -, first⟩ := State.lowestRect_eq_some hr
  obtain ⟨col, row⟩ := corner_of_place (n := 129 - w) (x := x) (y := y) (by omega)
  have inside : (129 - w) * y + x < (65 - h) * (129 - w) := calc
    (129 - w) * y + x < (129 - w) * y + (129 - w) := by omega
    _ = (129 - w) * (y + 1) := by rw [Nat.mul_succ]
    _ ≤ (129 - w) * (65 - h) := Nat.mul_le_mul_left _ (by omega)
    _ = (65 - h) * (129 - w) := Nat.mul_comm _ _
  have here : nthRect o w h ((129 - w) * y + x) = { nthRect o w h i with kx0 := x, ky0 := y } := by
    simp only [nthRect, col, row]
  have le := row_col_le_of_le (n := 129 - w) (first _ inside (by rw [here]; exact fits))
  rwa [col, row] at le

/-- Only the owner requests pre-emption (06 R179; 17 R408). -/
theorem exec_preempt (s : State) (port asid : Nat) : exec (.preempt port asid) s = .next (if s.isOwner port = true then
    s.requestPreempt asid else s.updPcie port (fun b => { b with denied := satInc b.denied })) := rfl

/-- The pitch at its halt (06 R180). -/
def Pitch.halted (p : Pitch) : Pitch := { p.mapLC (fun _ x => x.halt) with st := PState.halting }

section pitch
variable {s : State} {asid : Nat} {p : Pitch} (hp : s.pitch? asid = some p)
include hp

theorem State.requestPreempt_of_merged (h : p.st = .halting ∨ p.st = .saved ∨ asid ∈ s.preemptReq) : s.requestPreempt asid = s := by
  simp only [State.requestPreempt, hp, List.contains_iff_mem, if_pos h]

theorem State.requestPreempt_of_running (run : p.st = .running) (h : asid ∉ s.preemptReq) :
    s.requestPreempt asid = { s with preemptReq := s.preemptReq ++ [asid] } := by
  simp [State.requestPreempt, hp, run, h]

/-- A halt needs a request. -/
theorem exec_preemptionHalt_of_unasked (h : asid ∉ s.preemptReq) : exec (.preemptionHalt asid) s = .next s := by
  show execPreemptionHalt asid s = _
  simp [execPreemptionHalt, hp, h]

section asked
variable (asked : asid ∈ s.preemptReq) (run : p.st = .running) (free : ∀ e ∈ p.lcores, e.2.blocked = false)
include asked run free

/-- A request that follows the last SINK is dropped (06 R179). -/
theorem exec_preemptionHalt_of_sunk (sunk : p.sunk = true) : exec (.preemptionHalt asid) s =
    .next { s with preemptReq := s.preemptReq.filter (· ≠ asid) } := by
  have unbound : p.lcores.any (fun e => e.2.blocked) = false := by simpa [List.any_eq_false] using free
  show execPreemptionHalt asid s = _
  simp [execPreemptionHalt, hp, asked, run, unbound, sunk]

theorem exec_preemptionHalt_of_unsunk (sunk : p.sunk = false) : exec (.preemptionHalt asid) s =
    .next (p.halted.lcores.foldl (fun s e => s.spillArrived asid e.1 (s.arrived asid e.1)) (State.dropHalted
      { s.setPitch asid p.halted with fields := s.fields.map (fun e => (e.1, e.2.freeze s.bootTime.toNat asid)) } asid)) := by
  have unbound : p.lcores.any (fun e => e.2.blocked) = false := by simpa [List.any_eq_false] using free
  show execPreemptionHalt asid s = _
  simp only [execPreemptionHalt, hp]
  simp [asked, run, unbound, sunk]
  rfl

end asked

/-- A pitch that halts is saved once it rests (06 R180, R182). -/
theorem exec_preemptionSave_of_busy (busy : s.atRest asid p = false) : exec (.preemptionSave asid) s = .next s := by
  show execPreemptionSave asid s = _
  simp [execPreemptionSave, hp, busy]

theorem exec_preemptionSave_of_rest {u : State} (halts : p.st = .halting) (rest : s.atRest asid p = true)
    (evicted : s.settleCopies.evictAll asid p.badPages p.dirtyLines = .ok u) :
    exec (.preemptionSave asid) s = .next (u.savePitch asid p) := by
  have now : ¬ (p.st ≠ .halting ∨ (!s.atRest asid p) = true) := by simp [halts, rest]
  show execPreemptionSave asid s = _
  simp only [execPreemptionSave, hp, if_neg now, evicted]

end pitch

/-- The state in which the meetings of a restored pitch go on: its walkers, meeting jobs and weight tables stand at the units of its
fields (06 R183; 11 R294). -/
def State.replaced (s : State) (asid : Nat) (p : Pitch) : State :=
  p.savedWt.foldl (fun s t => s.putTable asid t) ((s.placeMeetJobs p).setPitch asid
    { p with savedWalk := [], savedMq := [], savedMOut := [], savedWt := [] })

/-- The state whose clusters have taken the engines' state back, and whose cores have replayed what they saved (06 R183). -/
def State.replayed (u : State) (asid : Nat) (p : Pitch) : State :=
  State.replay ((p.rect.clusters.zipIdx).foldl (fun s e => s.updCluster e.1 (fun old =>
    old.restore (SMap.get Cluster.init p.savedClusters e.2))) u) asid (p.lcores.map (·.1))

/-- A restored pitch takes its engines' state back, replays, and runs (06 R183). -/
theorem exec_pitchRestore_of_thawed {s u : State} {asid : Nat} {p : Pitch} (hp : s.pitch? asid = some p) (restores : p.st = .restoring)
    (thawed : (s.replaced asid p).thawAll ((s.replaced asid p).frozenOf asid) = .ok u) :
    exec (.pitchRestore asid) s = .next ((u.replayed asid p).updPitch asid (fun q => { q with
      st := .running, savedClusters := [],
      lastFiring := ((u.replayed asid p).field q.homeField).time.toNat - q.lastFiring })) := by
  have now : ¬ p.st ≠ .restoring := not_not_intro restores
  unfold State.replaced at thawed
  show execPitchRestore asid s = _
  simp only [execPitchRestore, hp, if_neg now, thawed]
  rfl

/-- Settles O47: the placement, the request, the halt, the save and the restore, each by its equation above. -/
theorem preemption : Obligations.Preemption := by
  refine ⟨?placement, ?request, ?pitch⟩
  case placement =>
    intro s gone o ms w h r _ _ hr
    obtain ⟨i, rfl, fits, -⟩ := State.lowestRect_eq_some hr
    exact ⟨fits, rfl, rfl, fun x y => State.lowestRect_le hr⟩
  case request =>
    intro s port asid
    refine ⟨fun other => ?_, fun p owner hp => ⟨fun h => ?_, fun run h => ?_⟩⟩
    · rw [exec_preempt, if_neg (by rw [other]; decide)]
    · rw [exec_preempt, if_pos owner, State.requestPreempt_of_merged hp h]
    · rw [exec_preempt, if_pos owner, State.requestPreempt_of_running hp run h]
  case pitch =>
    intro s asid p hp
    exact ⟨fun asked run free => ⟨exec_preemptionHalt_of_sunk hp asked run free, exec_preemptionHalt_of_unsunk hp asked run free⟩,
      exec_preemptionHalt_of_unasked hp, fun _ => exec_preemptionSave_of_busy hp, fun u => exec_preemptionSave_of_rest hp,
      fun u => exec_pitchRestore_of_thawed hp⟩

end Sys2Proof.Machine
end

section
/-! PROOFS. What a step runs (06 R157; 01 R25): the issue of a core whose ready queue the state lists twice. -/
namespace Sys2Proof.Machine
open Sys2Proof

namespace TwiceListed

/-- A core whose trap registers hold a trap, and the first of whose node records holds an uncorrectable error. -/
def core : LCore := { (default : LCore) with nodeUe := [0], trap := { TrapRegs.init with valid := true } }

/-- The running pitch of that core. -/
def pitch : Pitch := { (default : Pitch) with st := .running, lcores := [(0, core)] }

/-- The ready queue of core 0 is listed twice: it reads as its first entry, which is empty. -/
def state : State :=
  { State.reset with pitches := [(1, pitch)], ready := [(0, []), (0, [wordFiring])], agenda := [.issue 0] }

/-- The state once its first action is taken off the agenda, and the waits of the firings that core 0 reads are noted: that
removes the empty entry. -/
def noted : State := State.noteWaits { state with agenda := [] } 0

theorem readyQ_noted : noted.readyQ 0 = [wordFiring] := rfl

/-- No place of the queue was read before the waits were noted, so that nothing issues. -/
theorem step_state : step state = .next (state.mirror noted) := rfl

/-- The trap of the firing that stands in the queue afterwards. -/
def trapped : State := (noted.take 0 0 wordFiring).firingTraps wordFiring 0x3FF .illegalNode Diag.uncorrectable.code

theorem ready_mirror_noted : (state.mirror noted).ready = [(0, [wordFiring])] := by decide

theorem ready_mirror_trapped : (state.mirror trapped).ready = [] := by decide

end TwiceListed

/-- Refutes O56: the statement also speaks of a state that is no canonical one and lists a ready queue twice. Noting who waits removes
the entry that is read, which is empty, and uncovers a firing that the statement has issue, where the step has looked at no place of
the queue. -/
theorem not_stepRuns : ¬ Obligations.StepRuns := by
  unfold Obligations.StepRuns
  intro h
  obtain ⟨issue, -⟩ := h
  obtain ⟨-, issues⟩ := issue TwiceListed.state 0 [] rfl
  obtain ⟨oldest, -⟩ := issues rfl
  obtain ⟨-, diagnosed⟩ := oldest 0 wordFiring TwiceListed.core rfl rfl rfl rfl (fun j hj => absurd hj j.not_lt_zero)
  have claimed : step TwiceListed.state = .next (TwiceListed.state.mirror TwiceListed.trapped) := diagnosed .uncorrectable rfl
  have same := congrArg State.ready (Host.Outcome.next.inj (claimed.symm.trans TwiceListed.step_state))
  rw [TwiceListed.ready_mirror_trapped, TwiceListed.ready_mirror_noted] at same
  cases same

end Sys2Proof.Machine
end

section
/-! PROOFS. The elements of the integer group as bit vectors (07 R185): their values, the lane pairs that 64-bit elements stand in, the
operands, and the lanes of a result that is formed element by element. -/
namespace Sys2Proof.Machine
open Sys2Proof

theorem toS_toNat {n : Nat} (b : BitVec n) : toS n b.toNat = b.toInt := by
  rw [toS, BitVec.toInt_eq_toNat_cond]
  cases n with
  | zero => simp [BitVec.eq_nil b]
  | succ n => exact ite_congr (propext (by rw [Nat.pow_succ, Nat.add_sub_cancel]; omega)) (fun _ => rfl) (fun _ => rfl)

theorem ofNat_lowBits (n : Nat) (v : Int) : BitVec.ofNat n (lowBits n v) = BitVec.ofInt n v :=
  BitVec.eq_of_toNat_eq (by
    rw [lowBits, ← BitVec.toNat_ofInt, BitVec.ofNat_toNat, BitVec.setWidth_eq])

/-- The value of an element of either width as its type reads it (07 R188). -/
theorem intVal_toNat_of_bits {t : ETyp} {w : Nat} (h : intBits t = w) (b : BitVec w) : intVal t b.toNat = valOf (isSigned t) b := by
  rw [intVal, valOf, h, toS_toNat]

theorem ofNat_clampTo (t : ETyp) (v : Int) :
    BitVec.ofNat (intBits t) (lowBits (intBits t) (clampTo t v)) = clampBits (intBits t) (isSigned t) v := by
  have clamped {lo hi : Int} (h : lo ≤ hi) : (if v < lo then lo else if hi < v then hi else v) = max lo (min hi v) := by
    split
    next => omega
    next => split <;> omega
  have one_le (k : Nat) : 1 ≤ 2 ^ k := Nat.one_le_two_pow
  have cast (k : Nat) : ((2 ^ k - 1 : Nat) : Int) = (2 ^ k : Nat) - 1 := Int.natCast_sub (one_le k)
  rw [ofNat_lowBits, clampTo, clampBits]
  cases isSigned t
  · exact congrArg _ ((clamped (Int.natCast_nonneg _)).trans (by rw [cast, Int.natCast_pow]; rfl))
  · exact congrArg _ ((clamped (by have := one_le (intBits t - 1); omega)).trans (by rw [cast, Int.natCast_pow]; rfl))

theorem toNat_beq {w : Nat} (a b : BitVec w) : (a.toNat == b.toNat) = (a == b) := by
  rw [Bool.eq_iff_iff, beq_iff_eq, beq_iff_eq, BitVec.toNat_inj]

theorem pair_toNat (hi lo : Word) : (hi ++ lo).toNat = lo.toNat + 4294967296 * hi.toNat := by
  have shifted : hi.toNat <<< 32 + lo.toNat = hi.toNat <<< 32 ||| lo.toNat := Nat.shiftLeft_add_eq_or_of_lt lo.isLt _
  rw [BitVec.toNat_append, ← shifted, Nat.shiftLeft_eq]
  omega

theorem pairOf_ofNat (v : Nat) : pairOf (BitVec.ofNat 64 v) = [word v, word (v / 4294967296)] := by
  have low : (BitVec.ofNat 64 v).extractLsb' 0 32 = word v :=
    BitVec.eq_of_toNat_eq (by simp [word, BitVec.extractLsb'_toNat])
  have high : (BitVec.ofNat 64 v).extractLsb' 32 32 = word (v / 4294967296) :=
    BitVec.eq_of_toNat_eq (by simp [word, BitVec.extractLsb'_toNat, Nat.shiftRight_eq_div_pow]; omega)
  rw [pairOf, low, high]

theorem pairOf_append (hi lo : Word) : pairOf (hi ++ lo) = [lo, hi] := by
  rw [pairOf, BitVec.extractLsb'_append_eq_right, BitVec.extractLsb'_append_eq_left]

/-- The lane pairs of 64-bit elements (07 R185). -/
theorem lanes64_eq (vs : List Nat) : lanes64 vs = vs.flatMap (fun v => pairOf (BitVec.ofNat 64 v)) := by
  simp only [lanes64, pairOf_ofNat]

theorem length_lanes64 (vs : List Nat) : (lanes64 vs).length = 2 * vs.length := by
  induction vs with
  | nil => rfl
  | cons v vs ih =>
    have pair : (lanes64 (v :: vs)).length = 2 + (lanes64 vs).length := by
      rw [lanes64, List.flatMap_cons, List.length_append]
      rfl
    rw [pair, ih, List.length_cons]
    omega

/-- The result lanes of a 64-bit type: the pairs of its elements, and a zero lane at the end of an odd width (07 R185). -/
theorem packElems_of_wide {t : ETyp} (h : is64 t = true) {w : Nat} {vs : List Nat} (hl : vs.length = w / 2) :
    packElems t w vs = vs.flatMap (fun v => pairOf (BitVec.ofNat 64 v)) ++ List.replicate (w % 2) 0 := by
  have length := length_lanes64 vs
  rw [packElems, if_pos h, padTo, List.take_of_length_le (by omega), length, lanes64_eq,
    show w - 2 * vs.length = w % 2 by omega]

theorem packElems_of_narrow {t : ETyp} (h : is64 t = false) (w : Nat) (vs : List Nat) : packElems t w vs = vs.map word := by
  simp [packElems, h]

section operands
variable {c : Ctx}

theorem Ctx.n_of_wide (h : is64 c.v.typ = true) : c.n = 64 := by simp [Ctx.n, intBits, h]

theorem Ctx.n_of_narrow (h : is64 c.v.typ = false) : c.n = 32 := by simp [Ctx.n, intBits, h]

theorem Ctx.intVal_toNat (c : Ctx) (b : BitVec c.n) : intVal c.v.typ b.toNat = valOf c.signed b :=
  intVal_toNat_of_bits rfl b

theorem Ctx.ofNat_clampTo (c : Ctx) (v : Int) : BitVec.ofNat c.n (lowBits c.n (clampTo c.v.typ v)) = clampBits c.n c.signed v :=
  Machine.ofNat_clampTo c.v.typ v

theorem Ctx.bLane_lt (c : Ctx) (i : Nat) : c.bLane i < 2 ^ 32 := by
  unfold Ctx.bLane
  split
  case h_1 => decide
  case h_2 => exact (tlane c.bTok i).isLt
  case h_3 => exact (c.x.kreg (c.v.bits 0 6)).isLt
  case h_4 =>
    have literal : c.v.bits 0 32 < 2 ^ 32 := Nat.mod_lt _ (by decide)
    simp only
    split
    next => split <;> omega
    next => exact literal

theorem Ctx.bw_toNat (c : Ctx) (i : Nat) : (c.bw i).toNat = c.bLane i :=
  Nat.mod_eq_of_lt (c.bLane_lt i)

theorem Ctx.aElem_of_wide (h : is64 c.v.typ = true) (j : Nat) : c.aElem j = (c.ad j).toNat := by
  rw [Ctx.aElem, if_pos h, Ctx.ad, pair_toNat]
  rfl

theorem Ctx.aElem_of_narrow (h : is64 c.v.typ = false) (j : Nat) : c.aElem j = (c.aw j).toNat := by
  simp [Ctx.aElem, h, Ctx.aLane, Ctx.aw]

theorem Ctx.bElem_of_wide (h : is64 c.v.typ = true) (j : Nat) : c.bElem j = (c.bd j).toNat := by
  rw [Ctx.bElem, if_pos h, Ctx.bd, pair_toNat, Ctx.bw_toNat, Ctx.bw_toNat]

theorem Ctx.bElem_of_narrow (h : is64 c.v.typ = false) (j : Nat) : c.bElem j = (c.bw j).toNat := by
  simp [Ctx.bElem, h, Ctx.bw_toNat]

/-- An operation on the numbers of the elements that is `g` on their bits gives the result lanes of `g`. -/
theorem Ctx.packElems_eq_each {op : Nat → Nat → Nat} {g : (w : Nat) → BitVec w → BitVec w → BitVec w}
    (h : ∀ a b : BitVec c.n, BitVec.ofNat c.n (op a.toNat b.toNat) = g c.n a b) :
    packElems c.v.typ c.wa ((List.range (elemCount c.v.typ c.wa)).map (fun j => op (c.aElem j) (c.bElem j))) = c.each g := by
  cases width : is64 c.v.typ
  case false =>
    rw [Ctx.n_of_narrow width] at h
    rw [packElems_of_narrow width]
    simp only [elemCount, Ctx.each, width, Bool.false_eq_true, if_false, List.map_map, Function.comp_def, Ctx.aElem_of_narrow width,
      Ctx.bElem_of_narrow width, word, h]
    rfl
  case true =>
    rw [Ctx.n_of_wide width] at h
    rw [packElems_of_wide width (by simp [elemCount, width])]
    simp only [elemCount, Ctx.each, width, if_true, List.flatMap_map, Ctx.aElem_of_wide width, Ctx.bElem_of_wide width, h]
    rfl

theorem Ctx.mapInt_eq {op : Nat → Nat → Nat} {g : (w : Nat) → BitVec w → BitVec w → BitVec w}
    (h : ∀ a b : BitVec c.n, BitVec.ofNat c.n (op a.toNat b.toNat) = g c.n a b) :
    c.mapInt op = .done c.s (c.both (c.each g) c.poison) := by
  rw [Ctx.mapInt, Ctx.packElems_eq_each h]
  rfl

end operands

/-- An instruction that computes on the numbers of its elements completes with the lanes of the operation on their bits. -/
theorem completesEach_of_mapInt {i : Instr} {opc : BitVec 10} {n : Node} {op : Ctx → Nat → Nat → Nat}
    {g : Ctx → (w : Nat) → BitVec w → BitVec w → BitVec w}
    (hi : ∀ s, exec i s = fire (viewD opc n) s (fun c => c.mapInt (op c)))
    (h : ∀ (c : Ctx) (a b : BitVec c.n), BitVec.ofNat c.n (op c a.toNat b.toNat) = g c c.n a b) : CompletesEach i opc n g :=
  completes_of_done hi (fun _ c _ _ => Ctx.mapInt_eq (h c))

end Sys2Proof.Machine
end

section
/-! PROOFS. Integer arithmetic (07 R188 to R191): quotient, remainder and absolute value of an element, the addend of IMAD, and the flag
of a division. -/
namespace Sys2Proof.Machine
open Sys2Proof

/-- The one quotient that does not fit its type (03 R67). -/
theorem eq_intMin_of_overflow {w : Nat} (hw : 0 < w) {a b : BitVec w} (ha : a.toNat = 2 ^ (w - 1)) (hb : b.toNat = 2 ^ w - 1) :
    a = BitVec.intMin w ∧ b = -1#w :=
  ⟨BitVec.eq_of_toNat_eq (by rw [ha, BitVec.toNat_intMin_of_pos hw]),
    BitVec.eq_of_toNat_eq (by rw [hb, BitVec.neg_one_eq_allOnes, BitVec.toNat_allOnes])⟩

theorem intBits_pos (t : ETyp) : 0 < intBits t := by
  unfold intBits
  split <;> decide

section division
variable {t : ETyp} (a b : BitVec (intBits t))

/-- What a division comes to: a zero divisor, the one signed quotient that does not fit, or the truncated quotient and its remainder
(07 R190). -/
theorem divRem_cases :
    (b = 0 ∧ divRem t a.toNat b.toNat = (2 ^ intBits t - 1, a.toNat)) ∨
    (b ≠ 0 ∧ isSigned t = true ∧ a = BitVec.intMin (intBits t) ∧ b = -1#(intBits t) ∧ divRem t a.toNat b.toNat = (a.toNat, 0)) ∨
    (b ≠ 0 ∧ divRem t a.toNat b.toNat =
      (lowBits (intBits t) ((valOf (isSigned t) a).tdiv (valOf (isSigned t) b)),
        lowBits (intBits t) ((valOf (isSigned t) a).tmod (valOf (isSigned t) b)))) := by
  by_cases zero : b = 0
  · subst zero
    exact .inl ⟨rfl, rfl⟩
  have divisor : b.toNat ≠ 0 := fun h => zero (BitVec.eq_of_toNat_eq h)
  simp only [divRem, if_neg divisor, intVal_toNat_of_bits rfl]
  split
  next overflow =>
    obtain ⟨signed, ha, hb⟩ := overflow
    obtain ⟨least, minusOne⟩ := eq_intMin_of_overflow (intBits_pos t) ha hb
    exact .inr (.inl ⟨zero, signed, least, minusOne, rfl⟩)
  next => exact .inr (.inr ⟨zero, rfl⟩)

theorem ofNat_quotient : BitVec.ofNat (intBits t) (divRem t a.toNat b.toNat).1 =
    if b = 0 then BitVec.allOnes (intBits t) else if isSigned t then a.sdiv b else a.udiv b := by
  obtain ⟨zero, h⟩ | ⟨divisor, signed, least, minusOne, h⟩ | ⟨divisor, h⟩ := divRem_cases a b
  · rw [h, if_pos zero]
    exact BitVec.eq_of_toNat_eq (by simp)
  · rw [h, if_neg divisor, if_pos signed, BitVec.ofNat_toNat, BitVec.setWidth_eq, least, minusOne, BitVec.intMin_sdiv_neg_one]
  · rw [h, if_neg divisor, ofNat_lowBits, valOf, valOf]
    split
    next => exact BitVec.eq_of_toInt_eq (by rw [BitVec.toInt_ofInt, BitVec.toInt_sdiv])
    next =>
      rw [← Int.ofNat_tdiv, BitVec.ofInt_natCast, ← BitVec.toNat_udiv, BitVec.ofNat_toNat, BitVec.setWidth_eq]
      rfl

theorem ofNat_remainder : BitVec.ofNat (intBits t) (divRem t a.toNat b.toNat).2 =
    if b = 0 then a else if isSigned t then a.srem b else a.umod b := by
  obtain ⟨zero, h⟩ | ⟨divisor, signed, least, minusOne, h⟩ | ⟨divisor, h⟩ := divRem_cases a b
  · rw [h, if_pos zero, BitVec.ofNat_toNat, BitVec.setWidth_eq]
  · have divides : (-1#(intBits t)).toInt ∣ a.toInt := by
      rw [BitVec.neg_one_eq_allOnes, BitVec.toInt_allOnes, if_pos (intBits_pos t)]
      exact Int.neg_dvd.2 (Int.one_dvd _)
    rw [h, if_neg divisor, if_pos signed, minusOne, BitVec.srem_zero_of_dvd divides]
  · rw [h, if_neg divisor, ofNat_lowBits, valOf, valOf]
    split
    next => rw [← BitVec.toInt_srem, BitVec.ofInt_toInt]
    next =>
      rw [← Int.ofNat_tmod, BitVec.ofInt_natCast, ← BitVec.toNat_umod, BitVec.ofNat_toNat, BitVec.setWidth_eq]
      rfl

end division

theorem Ctx.anyZeroB_eq (c : Ctx) : c.anyZeroB = c.zeroDivisor := by
  have zero {w : Nat} (b : BitVec w) : (b.toNat == 0) = (b == 0) := toNat_beq b 0
  unfold Ctx.anyZeroB Ctx.zeroDivisor elemCount
  cases width : is64 c.v.typ
  case false => simp only [Bool.false_eq_true, if_false, Ctx.bElem_of_narrow width, zero]; rfl
  case true => simp only [if_true, Ctx.bElem_of_wide width, zero]; rfl

/-- DZ is raised by a zero divisor, and not where an operand is poisoned (07 R187, R190). -/
theorem Ctx.divideFlags_eq (c : Ctx) :
    (if c.anyZeroB then c.withFlags c.poison fDZ else c.s) = if c.zeroDivisor && !c.poison then c.raise 2 else c.s := by
  rw [Ctx.anyZeroB_eq]
  cases c.zeroDivisor <;> cases c.poison <;> rfl

theorem completes_of_divide {i : Instr} {opc : BitVec 10} {n : Node} {part : Nat × Nat → Nat}
    {g : Ctx → (w : Nat) → BitVec w → BitVec w → BitVec w}
    (hi : ∀ s, exec i s = fire (viewD opc n) s (fun c => c.divide part))
    (h : ∀ (c : Ctx) (a b : BitVec c.n), BitVec.ofNat c.n (part (divRem c.v.typ a.toNat b.toNat)) = g c c.n a b) :
    Completes i (viewD opc n) always (fun c => if c.zeroDivisor && !c.poison then c.raise 2 else c.s)
      (fun c => c.both (c.each (g c)) c.poison) := by
  refine completes_of_done hi (fun _ c _ _ => ?_)
  rw [← Ctx.divideFlags_eq, ← Ctx.packElems_eq_each (op := fun a b => part (divRem c.v.typ a b)) (h c)]
  rfl

/-- The addend of IMAD: the register in every 32-bit lane (07 R185, R188). -/
theorem Ctx.ofNat_kElem_of_wide {c : Ctx} (h : is64 c.v.typ = true) (m w : Nat) :
    BitVec.ofNat w (c.kElem m) = (c.x.kreg m ++ c.x.kreg m : DWord).setWidth w := by
  rw [Ctx.kElem, if_pos h, ← BitVec.ofNat_toNat, pair_toNat]
  congr 1
  show (c.x.kreg m).toNat * 4294967297 = _
  omega

theorem Ctx.ofNat_kElem_of_narrow {c : Ctx} (h : is64 c.v.typ = false) (m w : Nat) :
    BitVec.ofNat w (c.kElem m) = (c.x.kreg m).setWidth w := by
  simp [Ctx.kElem, h, Ctx.k]

theorem natAbs_toInt_mod {w : Nat} (a : BitVec w) : a.toInt.natAbs % 2 ^ w = a.abs.toNat := by
  rw [BitVec.toNat_abs, BitVec.toInt_eq_msb_cond]
  split
  next negative =>
    have low := BitVec.toNat_ge_of_msb_true negative
    have := Nat.two_pow_pos (w - 1)
    have distance : ((a.toNat : Int) - (2 ^ w : Nat)).natAbs = 2 ^ w - a.toNat := by omega
    rw [distance, Nat.mod_eq_of_lt (by omega)]
  next => exact Nat.mod_eq_of_lt a.isLt

/-- Settles O2: each operation on the numbers of the elements is the operation on their bits. -/
theorem integerArithmetic : Obligations.IntegerArithmetic := by
  unfold Obligations.IntegerArithmetic
  intro n
  refine ⟨⟨completesEach_of_mapInt (fun _ => rfl) ?add, completesEach_of_mapInt (fun _ => rfl) ?sub,
    completesEach_of_mapInt (fun _ => rfl) ?mul, completesEach_of_mapInt (fun _ => rfl) ?high, ?mad,
    completesEach_of_mapInt (fun _ => rfl) ?adds, completesEach_of_mapInt (fun _ => rfl) ?subs⟩,
    completes_of_divide (fun _ => rfl) ?div, completes_of_divide (fun _ => rfl) ?rem,
    completesEach_of_mapInt (fun _ => rfl) ?min, completesEach_of_mapInt (fun _ => rfl) ?max,
    completesEach_of_mapInt (fun _ => rfl) ?abs, completesEach_of_mapInt (fun _ => rfl) ?neg⟩
  case add => exact fun c a b => BitVec.eq_of_toNat_eq (by simp)
  case sub => exact fun c a b => BitVec.eq_of_toNat_eq (by simp [BitVec.toNat_sub, Nat.add_comm])
  case mul => exact fun c a b => BitVec.eq_of_toNat_eq (by simp)
  case high =>
    intro c a b
    rw [ofNat_lowBits, c.intVal_toNat, c.intVal_toNat]
    simp
  case mad =>
    refine completes_of_done (fun _ => rfl) (fun _ c _ _ => ?_)
    cases width : is64 c.v.typ
    case false =>
      refine Ctx.mapInt_eq (g := fun w a b => a * b + (c.x.kreg (c.v.bits 6 6)).setWidth w) (fun a b => ?_)
      exact BitVec.eq_of_toNat_eq (by simp [← Ctx.ofNat_kElem_of_narrow width])
    case true =>
      refine Ctx.mapInt_eq (g := fun w a b => a * b + (c.x.kreg (c.v.bits 6 6) ++ c.x.kreg (c.v.bits 6 6) : DWord).setWidth w)
        (fun a b => ?_)
      exact BitVec.eq_of_toNat_eq (by simp [← Ctx.ofNat_kElem_of_wide width])
  case adds => exact fun c a b => by rw [c.ofNat_clampTo, c.intVal_toNat, c.intVal_toNat]
  case subs => exact fun c a b => by rw [c.ofNat_clampTo, c.intVal_toNat, c.intVal_toNat]
  case div => exact fun c a b => ofNat_quotient a b
  case rem => exact fun c a b => ofNat_remainder a b
  case min =>
    intro c a b
    simp only [c.intVal_toNat, apply_ite (BitVec.ofNat c.n), BitVec.ofNat_toNat, BitVec.setWidth_eq]
  case max =>
    intro c a b
    simp only [c.intVal_toNat, apply_ite (BitVec.ofNat c.n), BitVec.ofNat_toNat, BitVec.setWidth_eq]
  case abs =>
    intro c a b
    rw [toS_toNat, natAbs_toInt_mod, BitVec.ofNat_toNat, BitVec.setWidth_eq]
  case neg => exact fun c a b => BitVec.eq_of_toNat_eq (by simp)

end Sys2Proof.Machine
end

section
/-! PROOFS. Logic, shifts, counts, reversal and bit fields (07 R192 to R195): each operation of the model on the number of an element, bit
by bit. -/
namespace Sys2Proof.Machine
open Sys2Proof

/-- Numbers that agree on the first `w` bits with a bit vector have its bits. -/
theorem ofNat_eq_of_testBit {w x : Nat} {b : BitVec w} (h : ∀ i, i < w → x.testBit i = b.getLsbD i) : BitVec.ofNat w x = b :=
  BitVec.eq_of_getLsbD_eq (fun i hi => by rw [BitVec.getLsbD_ofNat, h i hi]; simp [hi])

theorem testBit_zero_mod_two (x : Nat) : (x % 2).testBit 0 = x.testBit 0 := by simp [Nat.testBit_zero]

/-- The bits of an element that the logic group computes: with TYP 10 bit 0 alone (07 R192). -/
def Ctx.logicBits (c : Ctx) : Nat := if c.v.typ = .pred then 1 else c.n

theorem Ctx.testBit_inv {c : Ctx} {x i : Nat} (hx : x < 2 ^ c.logicBits) (hi : i < c.logicBits) :
    (c.inv x).testBit i = !x.testBit i := by
  have complement : c.inv x = 2 ^ c.logicBits - (x + 1) := by
    by_cases pred : c.v.typ = .pred
    · simp only [Ctx.logicBits, if_pos pred] at hx
      simp only [Ctx.inv, Ctx.logicBits, if_pos pred]
      omega
    · simp only [Ctx.inv, Ctx.logicBits, if_neg pred]
      omega
  rw [complement, Nat.testBit_two_pow_sub_succ hx]
  simp [hi]

/-- An instruction of the logic group computes each bit that it computes from the operands' bits at its place (07 R192). -/
theorem completesEach_of_logic {i : Instr} {opc : BitVec 10} {n : Node} {op : Ctx → Nat → Nat → Nat} (bit : Bool → Bool → Bool)
    {f : (w : Nat) → BitVec w → BitVec w → BitVec w}
    (hi : ∀ s, exec i s = fire (viewD opc n) s (fun c => c.logic (op c)))
    (hop : ∀ (c : Ctx) (x y k : Nat), y < 2 ^ c.logicBits → k < c.logicBits →
      (op c x y).testBit k = bit (x.testBit k) (y.testBit k))
    (hf : ∀ (w : Nat) (a b : BitVec w) (k : Nat), k < w → (f w a b).getLsbD k = bit (a.getLsbD k) (b.getLsbD k)) :
    CompletesEach i opc n (fun c w a b => if c.v.typ = .pred then f w a b &&& 1#w else f w a b) := by
  refine completesEach_of_mapInt hi (fun c a b => ofNat_eq_of_testBit (fun k hk => ?_))
  have bits := hop c
  unfold Ctx.logicBits at bits
  by_cases pred : c.v.typ = .pred
  · simp only [if_pos pred] at bits ⊢
    rw [BitVec.getLsbD_and, BitVec.getLsbD_one]
    cases k with
    | zero =>
      have low := bits (a.toNat % 2) (b.toNat % 2) 0 (Nat.mod_lt _ (by decide)) (by decide)
      rw [testBit_zero_mod_two, low, testBit_zero_mod_two, testBit_zero_mod_two, hf _ a b 0 hk, BitVec.testBit_toNat,
        BitVec.testBit_toNat]
      simp [hk]
    | succ k => simp [Nat.testBit_succ, Nat.mod_div_self]
  · simp only [if_neg pred] at bits ⊢
    rw [bits _ _ k b.isLt hk, hf _ _ _ k hk, BitVec.testBit_toNat, BitVec.testBit_toNat]

section shifts
variable {w : Nat} (a : BitVec w) (k : Nat)

/-- The count of a shift: the low 32 bits of the element (07 R193). -/
theorem shiftCount_toNat : shiftCount a.toNat = (a.setWidth 32).toNat := by
  rw [BitVec.toNat_setWidth]
  rfl

theorem ofNat_shl : BitVec.ofNat w (if k < w then a.toNat * 2 ^ k % 2 ^ w else 0) = a <<< k := by
  split
  next => exact BitVec.eq_of_toNat_eq (by simp [Nat.shiftLeft_eq])
  next h => exact (BitVec.shiftLeft_eq_zero (by omega)).symm

theorem ofNat_shr : BitVec.ofNat w (if k < w then a.toNat / 2 ^ k else 0) = a >>> k := by
  split
  next =>
    rw [← Nat.shiftRight_eq_div_pow, ← BitVec.toNat_ushiftRight, BitVec.ofNat_toNat, BitVec.setWidth_eq]
  next h => exact (BitVec.ushiftRight_eq_zero (by omega)).symm

theorem ofNat_sar : BitVec.ofNat w (if k < w then lowBits w (toS w a.toNat / ((2 ^ k : Nat) : Int))
    else if a.toNat < 2 ^ (w - 1) then 0 else 2 ^ w - 1) = a.sshiftRight k := by
  split
  next => rw [ofNat_lowBits, toS_toNat, BitVec.sshiftRight_eq, Int.shiftRight_eq_div_pow]
  next h =>
    have far (b : BitVec w) : b >>> k = 0#w := BitVec.ushiftRight_eq_zero (by omega)
    cases negative : a.msb
    case false =>
      rw [BitVec.sshiftRight_eq_of_msb_false negative, far, if_pos (BitVec.toNat_lt_of_msb_false negative)]
    case true =>
      rw [BitVec.sshiftRight_eq_of_msb_true negative, far, if_neg (Nat.not_lt.2 (BitVec.toNat_ge_of_msb_true negative)),
        BitVec.not_zero]
      exact BitVec.eq_of_toNat_eq (by simp)

theorem ofNat_rol (hw : 0 < w) : BitVec.ofNat w (a.toNat * 2 ^ (k % w) % 2 ^ w + a.toNat / 2 ^ (w - k % w)) = a.rotateLeft k := by
  have place : k % w < w := Nat.mod_lt k hw
  have powers : 2 ^ w = 2 ^ (w - k % w) * 2 ^ (k % w) := by rw [← Nat.pow_add, Nat.sub_add_cancel (Nat.le_of_lt place)]
  have low : a.toNat / 2 ^ (w - k % w) < 2 ^ (k % w) := Nat.div_lt_of_lt_mul (powers ▸ a.isLt)
  have high : a.toNat * 2 ^ (k % w) % 2 ^ w = (a.toNat % 2 ^ (w - k % w)) <<< (k % w) := by
    rw [powers, Nat.mul_mod_mul_right, Nat.shiftLeft_eq]
  have rotated : (a.rotateLeft k).toNat = a.toNat * 2 ^ (k % w) % 2 ^ w + a.toNat / 2 ^ (w - k % w) := by
    rw [BitVec.toNat_rotateLeft, Nat.shiftLeft_eq, Nat.shiftRight_eq_div_pow, high, Nat.shiftLeft_add_eq_or_of_lt low]
  rw [← rotated, BitVec.ofNat_toNat, BitVec.setWidth_eq]

end shifts

section counts

theorem testBit_revFrom (n a r i : Nat) :
    (revFrom n a r).testBit i = if i < n then a.testBit (n - 1 - i) else r.testBit (i - n) := by
  induction n generalizing a r with
  | zero => simp [revFrom]
  | succ n ih =>
    have step (j : Nat) : (a / 2).testBit j = a.testBit (j + 1) := (Nat.testBit_succ a j).symm
    rw [revFrom, ih, step]
    rcases Nat.lt_trichotomy i n with h | rfl | h
    · rw [if_pos h, if_pos (by omega), show n - 1 - i + 1 = n + 1 - 1 - i by omega]
    · rw [if_neg (by omega), if_pos (by omega), Nat.sub_self, Nat.testBit_zero, Nat.add_sub_cancel, Nat.sub_self, Nat.testBit_zero]
      congr 2
      omega
    · obtain ⟨j, rfl⟩ := Nat.exists_eq_add_of_lt h
      rw [if_neg (by omega), if_neg (by omega), show n + j + 1 - n = j + 1 by omega, show n + j + 1 - (n + 1) = j by omega,
        Nat.testBit_succ, show (2 * r + a % 2) / 2 = r by omega]

theorem revFrom_toNat {w : Nat} (a : BitVec w) : revFrom w a.toNat 0 = a.reverse.toNat := by
  refine Nat.eq_of_testBit_eq (fun i => ?_)
  rw [testBit_revFrom, BitVec.testBit_toNat, BitVec.testBit_toNat, BitVec.getLsbD_reverse, BitVec.getMsbD]
  split
  next h => simp [h]
  next h => simp [h]

theorem ctzFrom_zero (n : Nat) : ctzFrom n 0 = n := by
  induction n with
  | zero => rfl
  | succ n ih => simp [ctzFrom, ih, Nat.add_comm]

theorem testBit_of_lt_ctzFrom {n a i : Nat} (h : i < ctzFrom n a) : a.testBit i = false := by
  induction n generalizing a i with
  | zero => simp [ctzFrom] at h
  | succ n ih =>
    rw [ctzFrom] at h
    split at h
    next => omega
    next even =>
      cases i with
      | zero => simpa [Nat.testBit_zero] using even
      | succ i => exact (Nat.testBit_succ a i).trans (ih (by omega))

theorem testBit_ctzFrom {n a : Nat} (h : ctzFrom n a < n) : a.testBit (ctzFrom n a) = true := by
  induction n generalizing a with
  | zero => simp at h
  | succ n ih =>
    rw [ctzFrom] at h ⊢
    split at h <;> rename_i odd
    · simp [odd, Nat.testBit_zero]
    · rw [if_neg odd, Nat.add_comm, Nat.testBit_succ]
      exact ih (by omega)

theorem ofNat_ctzFrom {w : Nat} (a : BitVec w) : BitVec.ofNat w (ctzFrom w a.toNat) = a.ctz := by
  by_cases zero : a = 0#w
  · rw [zero, BitVec.toNat_zero, ctzFrom_zero, BitVec.ctz, BitVec.reverse_eq_zero_iff.2 rfl]
    exact (BitVec.clz_eq_iff_eq_zero.2 rfl).symm
  have one := BitVec.getLsbD_true_ctz_of_ne_zero zero
  have inside : a.ctz.toNat < w := BitVec.lt_of_getLsbD one
  rcases Nat.lt_trichotomy (ctzFrom w a.toNat) a.ctz.toNat with h | h | h
  · have := testBit_ctzFrom (Nat.lt_trans h inside)
    rw [BitVec.testBit_toNat, BitVec.getLsbD_false_of_lt_ctz h] at this
    contradiction
  · rw [h, BitVec.ofNat_toNat, BitVec.setWidth_eq]
  · have := testBit_of_lt_ctzFrom h
    rw [BitVec.testBit_toNat, one] at this
    contradiction

theorem popFrom_succ (n a : Nat) : popFrom (n + 1) a = popFrom n a + (a.testBit n).toNat := by
  induction n generalizing a with
  | zero => rcases Nat.mod_two_eq_zero_or_one a with h | h <;> simp [popFrom, Nat.testBit_zero, h]
  | succ n ih => rw [popFrom, ih, popFrom, Nat.testBit_succ]; omega

theorem cpopNatRec_eq_popFrom {w : Nat} (a : BitVec w) (n acc : Nat) : a.cpopNatRec n acc = acc + popFrom n a.toNat := by
  induction n generalizing acc with
  | zero => rfl
  | succ n ih => rw [BitVec.cpopNatRec_succ, ih, popFrom_succ, BitVec.testBit_toNat]; omega

end counts

/-- The bits of an element with a field of another in place of its own (07 R195). -/
theorem testBit_insert (a b p l i : Nat) : (a % 2 ^ p + b % 2 ^ l * 2 ^ p + a / 2 ^ (p + l) * 2 ^ (p + l)).testBit i =
    if i < p then a.testBit i else if i - p < l then b.testBit (i - p) else a.testBit i := by
  have nested : a % 2 ^ p + b % 2 ^ l * 2 ^ p + a / 2 ^ (p + l) * 2 ^ (p + l) =
      2 ^ p * (2 ^ l * (a / 2 ^ (p + l)) + b % 2 ^ l) + a % 2 ^ p := by
    rw [Nat.mul_add, ← Nat.mul_assoc, ← Nat.pow_add]
    ac_rfl
  rw [nested, Nat.testBit_two_pow_mul_add _ (Nat.mod_lt _ (Nat.two_pow_pos p)),
    Nat.testBit_two_pow_mul_add _ (Nat.mod_lt _ (Nat.two_pow_pos l)), Nat.testBit_div_two_pow, Nat.testBit_mod_two_pow,
    Nat.testBit_mod_two_pow]
  split
  next h => simp [h]
  next below =>
    split
    next h => simp [h]
    next above => rw [show i - p - l + (p + l) = i by omega]

theorem ofNat_insert {w : Nat} (a b : BitVec w) (p l : Nat) :
    BitVec.ofNat w ((a.toNat % 2 ^ p + b.toNat % 2 ^ l * 2 ^ p + a.toNat / 2 ^ (p + l) * 2 ^ (p + l)) % 2 ^ w) =
      (a &&& ~~~((BitVec.allOnes l).setWidth w <<< p)) ||| ((b <<< p) &&& ((BitVec.allOnes l).setWidth w <<< p)) := by
  refine ofNat_eq_of_testBit (fun i hi => ?_)
  rw [Nat.testBit_mod_two_pow, testBit_insert, BitVec.testBit_toNat, BitVec.testBit_toNat]
  have shifted : i - p < w := by omega
  by_cases below : i < p
  · simp [hi, below]
  by_cases inside : i - p < l
  · simp [hi, below, inside, shifted]
  · simp [hi, below, inside]

/-- Settles O3: each operation on the numbers of the elements is the operation on their bits. -/
theorem bitOperations : Obligations.BitOperations := by
  unfold Obligations.BitOperations
  intro n
  refine ⟨⟨completesEach_of_logic (· && ·) (fun _ => rfl) ?and (by simp),
    completesEach_of_logic (· || ·) (fun _ => rfl) ?or (by simp),
    completesEach_of_logic (· ^^ ·) (fun _ => rfl) ?xor (by simp),
    completesEach_of_logic (fun x y => x && !y) (fun _ => rfl) ?andn (by simp +contextual),
    completesEach_of_logic (fun x y => x || !y) (fun _ => rfl) ?orn (by simp +contextual),
    completesEach_of_mapInt (fun _ => rfl) ?shl, completesEach_of_mapInt (fun _ => rfl) ?shr, completesEach_of_mapInt (fun _ => rfl) ?sar,
    completesEach_of_mapInt (fun _ => rfl) ?rol⟩,
    completesEach_of_mapInt (fun _ => rfl) ?clz, completesEach_of_mapInt (fun _ => rfl) ?ctz,
    completesEach_of_mapInt (fun _ => rfl) ?popc, completesEach_of_mapInt (fun _ => rfl) ?brev,
    completesEach_of_mapInt (fun _ => rfl) ?bfx, completesEach_of_mapInt (fun _ => rfl) ?bfi⟩
  case and => exact fun _ x y k _ _ => Nat.testBit_and x y k
  case or => exact fun _ x y k _ _ => Nat.testBit_or x y k
  case xor => exact fun _ x y k _ _ => Nat.testBit_xor x y k
  case andn => exact fun c x y k hy hk => by rw [Nat.testBit_and, Ctx.testBit_inv hy hk]
  case orn => exact fun c x y k hy hk => by rw [Nat.testBit_or, Ctx.testBit_inv hy hk]
  case shl => exact fun c a b => by rw [shiftCount_toNat, ofNat_shl]
  case shr => exact fun c a b => by rw [shiftCount_toNat, ofNat_shr]
  case sar => exact fun c a b => by rw [shiftCount_toNat, ofNat_sar]
  case rol => exact fun c a b => by rw [shiftCount_toNat]; exact ofNat_rol a _ (intBits_pos _)
  case clz =>
    intro c a b
    rw [revFrom_toNat, ofNat_ctzFrom, BitVec.clz_eq_reverse_ctz]
  case ctz => exact fun c a _ => ofNat_ctzFrom a
  case popc =>
    intro c a b
    rw [BitVec.cpop, cpopNatRec_eq_popFrom, Nat.zero_add]
  case brev =>
    intro c a b
    rw [revFrom_toNat, BitVec.ofNat_toNat, BitVec.setWidth_eq]
  case bfx =>
    intro c a b
    have field : a.toNat / 2 ^ c.v.bits 0 6 % 2 ^ c.v.bits 6 7 = (a.extractLsb' (c.v.bits 0 6) (c.v.bits 6 7)).toNat := by
      rw [BitVec.extractLsb'_toNat, Nat.shiftRight_eq_div_pow]
    simp only [field, toS_toNat, apply_ite (BitVec.ofNat c.n), ofNat_lowBits, BitVec.ofNat_toNat]
    rfl
  case bfi => exact fun c a b => ofNat_insert a b _ _

end Sys2Proof.Machine
end

section
/-! PROOFS. Comparison and selection (07 R196, R197; 02 R38): relations and the immediate as bit vectors, the elements as one list, and the
lanes that SEL picks pair by pair. -/
namespace Sys2Proof.Machine
open Sys2Proof

theorem viewD_bit (opc : BitVec 10) (n : Node) (k : Nat) : ((viewD opc n).bits k 1 == 1) = n.lit.getLsbD k := by
  rw [viewD_bits, BitVec.getLsbD_eq_extractLsb', Bool.eq_iff_iff, beq_iff_eq, beq_iff_eq, ← BitVec.toNat_inj]
  rfl

theorem lowBits_eq_toNat (n : Nat) (v : Int) : lowBits n v = (BitVec.ofInt n v).toNat := (BitVec.toNat_ofInt v).symm

/-- What two elements give, for each pair of elements of the operands (07 R185). -/
def Ctx.elems {α : Type} (c : Ctx) (g : (w : Nat) → BitVec w → BitVec w → α) : List α :=
  if is64 c.v.typ then (List.range (c.f.a.lanes.length / 2)).map (fun j => g 64 (c.ad j) (c.bd j))
  else (List.range c.f.a.lanes.length).map (fun i => g 32 (c.aw i) (c.bw i))

theorem Ctx.map_elems_eq {α : Type} {c : Ctx} {op : Nat → Nat → α} {g : (w : Nat) → BitVec w → BitVec w → α}
    (h : ∀ a b : BitVec c.n, op a.toNat b.toNat = g c.n a b) :
    (List.range (elemCount c.v.typ c.wa)).map (fun j => op (c.aElem j) (c.bElem j)) = c.elems g := by
  unfold Ctx.elems elemCount
  cases width : is64 c.v.typ
  case false =>
    rw [Ctx.n_of_narrow width] at h
    simp only [Bool.false_eq_true, if_false, Ctx.aElem_of_narrow width, Ctx.bElem_of_narrow width, h]
    rfl
  case true =>
    rw [Ctx.n_of_wide width] at h
    simp only [if_true, Ctx.aElem_of_wide width, Ctx.bElem_of_wide width, h]
    rfl

section comparison

/-- The relations of ICMP on bits (07 Table 2). -/
def bitRel (signed : Bool) (m : Nat) {w : Nat} (a b : BitVec w) : Bool :=
  match m with
  | 0 => a == b
  | 1 => a != b
  | 2 => decide (valOf signed a < valOf signed b)
  | 3 => decide (valOf signed a ≤ valOf signed b)
  | 4 => decide (valOf signed b < valOf signed a)
  | 5 => decide (valOf signed b ≤ valOf signed a)
  | 6 => a &&& b != 0
  | _ => a &&& b == 0

theorem Ctx.intRel_toNat (c : Ctx) (m : Nat) (a b : BitVec c.n) : intRel c.v.typ m a.toNat b.toNat = bitRel c.signed m a b := by
  have meet : (a.toNat &&& b.toNat == 0) = (a &&& b == 0) := by
    rw [← BitVec.toNat_and]
    exact toNat_beq (a &&& b) 0
  have value := c.intVal_toNat
  match m with
  | 0 => exact toNat_beq a b
  | 1 => exact congrArg not (toNat_beq a b)
  | 2 | 3 | 4 | 5 => simp only [intRel, bitRel, value]
  | 6 => exact congrArg not meet
  | _ + 7 => exact meet

/-- The immediate of ICMP, extended to the element width as its type reads it (07 R196). -/
def Ctx.immBits (c : Ctx) (lit : Word) (w : Nat) : BitVec w :=
  if c.signed then (lit.extractLsb' 4 28).signExtend w else (lit.extractLsb' 4 28).setWidth w

theorem Ctx.imm_toNat (c : Ctx) (lit : Word) : (if isSigned c.v.typ then lowBits c.n (toS 28 (lit.extractLsb' 4 28).toNat)
    else (lit.extractLsb' 4 28).toNat) = (c.immBits lit c.n).toNat := by
  unfold Ctx.immBits Ctx.signed
  split
  next => rw [toS_toNat, lowBits_eq_toNat]; rfl
  next =>
    have wide : 28 ≤ c.n := by unfold Ctx.n intBits; split <;> decide
    exact (BitVec.toNat_setWidth_of_le wide).symm

/-- What ICMP compares an element with: the element of b, or with ARY 0 the immediate (07 R196). -/
def Ctx.comparand (c : Ctx) (n : Node) (w : Nat) (b : BitVec w) : BitVec w := if n.ary = .mono then c.immBits n.lit w else b

/-- The result of ICMP for an element, on the elements' numbers. -/
def Ctx.icmpResult (c : Ctx) (x y : Nat) : Bool :=
  intRel c.v.typ c.v.mod.toNat x (if c.v.ary = .mono then
    (if isSigned c.v.typ then lowBits c.n (toS 28 (c.v.bits 4 28)) else c.v.bits 4 28) else y)

/-- An element of ICMP's result, in its predicate form or its mask form (07 Table 2). -/
def Ctx.icmpElem (c : Ctx) (x y : Nat) : Nat :=
  if c.icmpResult x y then (if c.v.bits 0 1 == 1 then 2 ^ c.n - 1 else if is64 c.v.typ then 4294967297 else 1) else 0

variable {c : Ctx} {n : Node} (hv : c.v = viewD 0x09C n)
include hv

theorem Ctx.icmpResult_toNat (a b : BitVec c.n) :
    c.icmpResult a.toNat b.toNat = bitRel c.signed n.mod.toNat a (c.comparand n c.n b) := by
  have literal : c.v.bits 4 28 = (n.lit.extractLsb' 4 28).toNat := by rw [hv, viewD_bits]
  have arity : c.v.ary = n.ary := congrArg NV.ary hv
  have mode : c.v.mod = n.mod := congrArg NV.mod hv
  rw [Ctx.icmpResult, literal, c.imm_toNat, arity, ← apply_ite BitVec.toNat, c.intRel_toNat, mode]
  rfl

theorem Ctx.ofNat_icmpElem (a b : BitVec c.n) : BitVec.ofNat c.n (c.icmpElem a.toNat b.toNat) =
    if bitRel c.signed n.mod.toNat a (c.comparand n c.n b) then
      (if n.lit.getLsbD 0 then BitVec.allOnes c.n else if c.n = 64 then BitVec.ofNat c.n 0x100000001 else 1#c.n) else 0 := by
  have mask : (c.v.bits 0 1 == 1) = n.lit.getLsbD 0 := by rw [hv, viewD_bit]
  have ones : BitVec.ofNat c.n (2 ^ c.n - 1) = BitVec.allOnes c.n := BitVec.eq_of_toNat_eq (by simp)
  have wide : is64 c.v.typ = decide (c.n = 64) := by
    unfold Ctx.n intBits
    cases is64 c.v.typ <;> rfl
  rw [Ctx.icmpElem, Ctx.icmpResult_toNat hv, mask]
  simp only [apply_ite (BitVec.ofNat c.n), ones, wide, decide_eq_true_eq]
  rfl

end comparison

/-- The lanes of pairs, with a lane of its own at the end of an odd width. -/
theorem flatMap_range_pairs {α : Type} (f : Nat → α) (z : α) (w : Nat) :
    (List.range (w / 2)).flatMap (fun j => [f (2 * j), f (2 * j + 1)]) ++ List.replicate (w % 2) z =
      (List.range w).map (fun i => if i + 1 = w ∧ w % 2 = 1 then z else f i) := by
  have pairs (m : Nat) : (List.range m).flatMap (fun j => [f (2 * j), f (2 * j + 1)]) = (List.range (2 * m)).map f := by
    induction m with
    | zero => rfl
    | succ m ih => simp [Nat.mul_succ, List.range_succ, ih]
  rw [pairs]
  rcases Nat.mod_two_eq_zero_or_one w with even | odd
  · simp [even, show 2 * (w / 2) = w by omega]
  · obtain ⟨m, rfl⟩ : ∃ m, w = 2 * m + 1 := ⟨w / 2, by omega⟩
    have last : (2 * m + 1) / 2 = m := by omega
    have front : (List.range (2 * m)).map f =
        (List.range (2 * m)).map (fun i => if i + 1 = 2 * m + 1 ∧ 1 = 1 then z else f i) := by
      refine List.map_congr_left (fun i hi => ?_)
      rw [List.mem_range] at hi
      rw [if_neg (by omega)]
    rw [odd, last, List.range_succ, List.map_append, front, List.map_singleton, if_pos ⟨rfl, rfl⟩]
    rfl

section selection

/-- The lane of a or of b that SEL takes, by bit `k` of its mask register (07 R197). -/
def Ctx.taken (c : Ctx) (n : Node) (k i : Nat) : Word :=
  if (c.x.kreg (n.lit.extractLsb' 8 6).toNat).getLsbD k then c.aw i else c.bw i

/-- The element that SEL picks, on the elements' numbers: `k` is its bit of the mask register. -/
def Ctx.picked (c : Ctx) (k a b : Nat) : Nat :=
  let e := if c.k (c.v.bits 8 6) / 2 ^ k % 2 = 1 then a else b
  if c.v.typ = .pred then e % 2 else e

variable {c : Ctx} {n : Node} (hv : c.v = viewD 0x09D n)
include hv

theorem Ctx.mask_getLsbD (k : Nat) :
    (c.k (c.v.bits 8 6) / 2 ^ k % 2 = 1) = ((c.x.kreg (n.lit.extractLsb' 8 6).toNat).getLsbD k = true) := by
  rw [hv, viewD_bits, Ctx.k, ← BitVec.testBit_toNat, Nat.testBit_eq_decide_div_mod_eq, decide_eq_true_eq]

theorem Ctx.word_picked (h : is64 c.v.typ = false) (j : Nat) : word (c.picked j (c.aElem j) (c.bElem j)) =
    if c.v.typ = .pred then c.taken n j j &&& 1 else c.taken n j j := by
  have low (b : Word) : word (b.toNat % 2) = b &&& 1 := BitVec.eq_of_toNat_eq (by simp [word, Nat.and_one_is_mod]; omega)
  simp only [Ctx.picked, Ctx.taken, Ctx.mask_getLsbD hv, Ctx.aElem_of_narrow h, Ctx.bElem_of_narrow h, ← apply_ite BitVec.toNat,
    apply_ite word, low, word_toNat, BitVec.setWidth_eq]

theorem Ctx.pairOf_picked (h : is64 c.v.typ = true) (j : Nat) :
    pairOf (BitVec.ofNat 64 (c.picked (2 * j) (c.aElem j) (c.bElem j))) = [c.taken n (2 * j) (2 * j), c.taken n (2 * j) (2 * j + 1)] := by
  have integer : c.v.typ ≠ .pred := fun pred => by simp [pred, is64] at h
  simp only [Ctx.picked, Ctx.taken, Ctx.mask_getLsbD hv, Ctx.aElem_of_wide h, Ctx.bElem_of_wide h, if_neg integer,
    ← apply_ite BitVec.toNat, BitVec.ofNat_toNat, BitVec.setWidth_eq]
  split <;> exact pairOf_append _ _

/-- The lanes that SEL picks: lane by lane, or pair by pair with the bit of the pair's low lane (07 R197). -/
theorem Ctx.picked_lanes : packElems c.v.typ c.wa ((List.range (elemCount c.v.typ c.wa)).map (fun j =>
      c.picked (if is64 c.v.typ then 2 * j else j) (c.aElem j) (c.bElem j))) =
    (List.range c.wa).map (fun i => if is64 n.typ ∧ i + 1 = c.wa ∧ c.wa % 2 = 1 then 0
      else if n.typ = .pred then c.taken n (if is64 n.typ then 2 * (i / 2) else i) i &&& 1
      else c.taken n (if is64 n.typ then 2 * (i / 2) else i) i) := by
  have typ : n.typ = c.v.typ := (congrArg NV.typ hv).symm
  rw [typ]
  cases width : is64 c.v.typ
  case false =>
    rw [packElems_of_narrow width]
    simp [elemCount, width, Ctx.word_picked hv width]
  case true =>
    have integer : c.v.typ ≠ .pred := fun pred => by simp [pred, is64] at width
    have pairs := flatMap_range_pairs (fun i => c.taken n (2 * (i / 2)) i) 0 c.wa
    have odd (j : Nat) : (2 * j + 1) / 2 = j := by omega
    rw [packElems_of_wide width (by simp [elemCount, width]), List.flatMap_map]
    simpa [elemCount, width, Ctx.pairOf_picked hv width, integer, odd] using pairs

end selection

/-- Settles O4: the three shapes of ICMP are one list of results; SEL's lanes are picked one by one or by the bit of their pair. -/
theorem compareAndSelect : Obligations.CompareAndSelect := by
  unfold Obligations.CompareAndSelect
  intro n imm rel rels true1 shape
  have results {c : Ctx} (hv : c.v = viewD 0x09C n) :
      (List.range (elemCount c.v.typ c.wa)).map (fun j => c.icmpResult (c.aElem j) (c.bElem j)) = rels c := by
    have typ : c.v.typ = n.typ := congrArg NV.typ hv
    rw [Ctx.map_elems_eq (g := fun w a b => bitRel c.signed n.mod.toNat a (c.comparand n w b)) (Ctx.icmpResult_toNat hv), Ctx.elems,
      typ]
    rfl
  have reduced {c : Ctx} (hv : c.v = viewD 0x09C n) (all : Bool) :
      reducedLane all (c.v.bits 0 1 == 1)
        ((List.range (elemCount c.v.typ c.wa)).map (fun j => c.icmpResult (c.aElem j) (c.bElem j))) =
      [if (if all then (rels c).all id else (rels c).any id) then true1 else 0] := by
    rw [results hv, show (c.v.bits 0 1 == 1) = n.lit.getLsbD 0 by rw [hv, viewD_bit]]
    rfl
  refine ⟨completes_of_done (fun _ => rfl) ?each, completes_of_done (fun _ => rfl) ?any, completes_of_done (fun _ => rfl) ?all,
    completes_of_done (fun _ => rfl) ?sel⟩
  case each =>
    intro _ c hv h0
    have each : c.v.bits 1 2 = 0 := by rw [hv, viewD_bits]; exact h0
    simp only [each, List.map_map]
    exact congrArg (c.emitBoth c.s · c.poison) (Ctx.packElems_eq_each (op := c.icmpElem) (Ctx.ofNat_icmpElem hv))
  case any =>
    intro _ c hv h1
    have any : c.v.bits 1 2 = 1 := by rw [hv, viewD_bits]; exact h1
    simp only [any]
    exact congrArg (c.emitBoth c.s · c.poison) (reduced hv false)
  case all =>
    intro _ c hv h2
    have all : c.v.bits 1 2 = 2 := by rw [hv, viewD_bits]; exact h2
    simp only [all]
    exact congrArg (c.emitBoth c.s · c.poison) (reduced hv true)
  case sel =>
    intro _ c hv _
    exact congrArg (c.emitBoth c.s · c.poison) (Ctx.picked_lanes hv)

end Sys2Proof.Machine
end

section
/-! PROOFS. Literals, addresses and conversion between integer types (07 R198 to R200): the literal of Format L, the source elements of
CVTI as a list of values, and the lanes of what they convert to. -/
namespace Sys2Proof.Machine
open Sys2Proof

theorem viewL_bits (opc : BitVec 10) (n : NodeL) (lo k : Nat) : (viewL opc n).bits lo k = (n.lit.extractLsb' lo k).toNat := by
  rw [BitVec.extractLsb'_toNat, Nat.shiftRight_eq_div_pow]
  rfl

/-- AADR takes the 64-bit types alone (07 Table 1). -/
theorem is64_of_aadr {n : NodeL} (h : checkFields (viewL 0x09F n) = none) : is64 n.typ = true := by
  have row : opSpec (0x09F : BitVec 10).toNat =
    some { exts := 0, fmtL := true, typ := 0x00C, ary := 3, mod := 1, tgo := 0xDF, dst := .general } := rfl
  have masked : maskBit 0x00C (typCode n.typ) = true := (Bool.and_eq_true_iff.1 (typOk_of_checkFields h row)).1
  revert masked
  cases n.typ <;> decide

theorem flatMap_replicate_eq {α β : Type} (k : Nat) (x : α) (f : α → List β) :
    (List.replicate k x).flatMap f = (List.range k).flatMap (fun _ => f x) := by
  rw [List.flatMap_replicate, List.flatMap_def, List.map_const', List.length_range]

/-- The element that LIT makes of its 53-bit literal for a 64-bit type (07 R198). -/
theorem ofNat_literal (signed : Bool) (l : BitVec 53) :
    BitVec.ofNat 64 (if signed then lowBits 64 (toS 53 l.toNat) else l.toNat) = if signed then l.signExtend 64 else l.setWidth 64 := by
  rw [toS_toNat, apply_ite (BitVec.ofNat 64), ofNat_lowBits, BitVec.ofNat_toNat]
  rfl

/-- The element of AADR (07 R199). -/
theorem ofNat_address {w : Nat} (a b : BitVec w) (s : Nat) (d : BitVec 48) :
    BitVec.ofNat w ((a.toNat + b.toNat * 2 ^ s + (BitVec.ofInt w d.toInt).toNat) % 2 ^ w) = a + b <<< s + d.signExtend w :=
  BitVec.eq_of_toNat_eq (by simp [Nat.shiftLeft_eq, BitVec.signExtend])

section conversion

/-- The elements of operand a, read as a type of their own (07 R200). -/
def Ctx.sourceVals (c : Ctx) (t : ETyp) : List Int :=
  if is64 t then (List.range (c.f.a.lanes.length / 2)).map (fun j => valOf (isSigned t) (c.ad j))
  else (List.range c.f.a.lanes.length).map (fun i => valOf (isSigned t) (c.aw i))

theorem Ctx.map_intVal_unpackLanes (c : Ctx) (t : ETyp) :
    (unpackLanes (intBits t) c.f.a.lanes).map (intVal t) = c.sourceVals t := by
  unfold Ctx.sourceVals
  cases width : is64 t
  case false =>
    have bits : intBits t = 32 := by simp [intBits, width]
    rw [bits, lanes_eq_map_tlane c.f.a]
    simp [unpackLanes, intVal_toNat_of_bits bits, Ctx.aw]
  case true =>
    have bits : intBits t = 64 := by simp [intBits, width]
    have value (j : Nat) : intVal t ((tlane c.f.a (2 * j)).toNat + 4294967296 * (tlane c.f.a (2 * j + 1)).toNat) =
        valOf (isSigned t) (c.ad j) :=
      (congrArg (intVal t) (pair_toNat _ _).symm).trans (intVal_toNat_of_bits bits _)
    rw [bits, if_pos rfl, ← funext value, unpackLanes, if_pos rfl, List.map_map]
    rfl

/-- CVTI's source type: LIT[1] is its width and LIT[0] its sign (07 R200). -/
theorem source_intTyp (n : Node) : is64 (intTyp ((viewD 0x0A0 n).bits 0 2)) = n.lit.getLsbD 1 ∧
    isSigned (intTyp ((viewD 0x0A0 n).bits 0 2)) = !n.lit.getLsbD 0 := by
  have codes (x : BitVec 2) : is64 (intTyp x.toNat) = x.getLsbD 1 ∧ isSigned (intTyp x.toNat) = !x.getLsbD 0 := by
    revert x
    decide
  rw [viewD_bits]
  simpa [BitVec.getLsbD_extractLsb'] using codes (n.lit.extractLsb' 0 2)

/-- The elements that CVTI takes: to a wider type those of one half of the lanes, by .HI (07 R200). -/
def Ctx.halved {α : Type} (c : Ctx) (t : ETyp) (xs : List α) : List α :=
  if is64 c.v.typ ∧ ¬ is64 t then (if c.v.bits 2 1 = 1 then xs.drop 16 else xs.take 16) else xs

theorem Ctx.map_halved {α β : Type} (c : Ctx) (t : ETyp) (f : α → β) (xs : List α) :
    (c.halved t xs).map f = c.halved t (xs.map f) := by
  simp only [Ctx.halved, apply_ite (List.map f), List.map_drop, List.map_take]

theorem Ctx.length_halved {c : Ctx} {t : ETyp} (h : is64 t = true) :
    (c.halved t (unpackLanes (intBits t) c.f.a.lanes)).length = c.wa / 2 := by
  have length := congrArg List.length (c.map_intVal_unpackLanes t)
  simpa [Ctx.halved, Ctx.sourceVals, Ctx.wa, h] using length

/-- A value in the destination type of CVTI: clamped with .SAT, else its low bits (07 R200). -/
def Ctx.converted (c : Ctx) (w : Nat) (v : Int) : BitVec w :=
  if c.v.mod = 1 then clampBits w c.signed v else BitVec.ofInt w v

theorem Ctx.ofNat_converted (c : Ctx) (v : Int) :
    BitVec.ofNat c.n (lowBits c.n (if c.v.mod == 1 then clampTo c.v.typ v else v)) = c.converted c.n v := by
  unfold Ctx.converted
  by_cases sat : c.v.mod = 1
  · simp only [sat, beq_self_eq_true, if_true, Ctx.ofNat_clampTo]
  · simp only [beq_iff_eq, sat, if_false, ofNat_lowBits]

theorem packLanes_of_wide {t : ETyp} (h : is64 t = true) (vs : List Nat) :
    packLanes (intBits t) vs = vs.flatMap (fun v => pairOf (BitVec.ofNat 64 v)) := by
  rw [intBits, if_pos h, packLanes, if_pos rfl, lanes64_eq]

theorem packLanes_of_narrow {t : ETyp} (h : is64 t = false) (vs : List Nat) : packLanes (intBits t) vs = vs.map word := by
  simp [intBits, h, packLanes]

/-- The lanes of what CVTI converts to: a 64-bit layout that stays as it is keeps its odd last lane (07 R200). -/
theorem Ctx.convertedLanes_eq {c : Ctx} {from64 : Bool} {value : Nat → Int} {xs : List Nat}
    (hl : from64 = true → xs.length = c.wa / 2) :
    (let conv (x : Nat) : Nat := lowBits c.n (if c.v.mod == 1 then clampTo c.v.typ (value x) else value x)
      if is64 c.v.typ ∧ from64 then packElems c.v.typ c.wa (xs.map conv) else packLanes (intBits c.v.typ) (xs.map conv)) =
    if is64 c.v.typ then (xs.map value).flatMap (fun v => pairOf (c.converted 64 v)) ++
      (if from64 then List.replicate (c.wa % 2) 0 else [])
    else (xs.map value).map (c.converted 32) := by
  have conv := c.ofNat_converted
  cases width : is64 c.v.typ
  case false =>
    rw [Ctx.n_of_narrow width] at conv ⊢
    simp only [Bool.false_eq_true, false_and, if_false, packLanes_of_narrow width, List.map_map, ← funext conv]
    rfl
  case true =>
    rw [Ctx.n_of_wide width] at conv ⊢
    cases from64
    case false =>
      simp [packLanes_of_wide width, List.flatMap_map, ← funext conv]
    case true =>
      simp [packElems_of_wide width, hl, List.flatMap_map, ← funext conv]

end conversion

/-- Settles O5: LIT repeats one element, AADR adds in 64 bits, and CVTI converts the values of the elements that it takes. -/
theorem literalsAddressesConversion : Obligations.LiteralsAddressesConversion := by
  unfold Obligations.LiteralsAddressesConversion
  refine ⟨fun n => ⟨completes_of_done (fun _ => rfl) ?lit, completes_of_done (fun _ => rfl) ?aadr⟩,
    fun n => completes_of_done (fun _ => rfl) ?cvti⟩
  case lit =>
    intro _ c hv _
    have typ : n.typ = c.v.typ := (congrArg NV.typ hv).symm
    have lit : c.v.bits 0 53 = n.lit.toNat := by rw [hv, viewL_bits, BitVec.extractLsb'_eq_self]
    simp only [typ, lit]
    cases width : is64 c.v.typ
    case false =>
      simp only [Bool.false_eq_true, if_false, word_toNat]
      rfl
    case true =>
      simp only [if_true]
      have element : BitVec.ofNat 64 (if isSigned c.v.typ then lowBits 64 (toS 53 n.lit.toNat) else n.lit.toNat) =
        if c.signed then n.lit.signExtend 64 else n.lit.setWidth 64 := ofNat_literal c.signed n.lit
      rw [packElems_of_wide width List.length_replicate, flatMap_replicate_eq, element]
      rfl
  case aadr =>
    intro fields c hv _
    have wide : is64 c.v.typ = true := (congrArg (fun v => is64 v.typ) hv).trans (is64_of_aadr fields)
    have place : c.v.bits 48 3 = (n.lit.extractLsb' 48 3).toNat := by rw [hv, viewL_bits]
    have disp : c.v.bits 0 48 = (n.lit.extractLsb' 0 48).toNat := by rw [hv, viewL_bits]
    refine Ctx.mapInt_eq ?_
    rw [Ctx.n_of_wide wide, place, disp, toS_toNat, lowBits_eq_toNat]
    exact fun a b => ofNat_address a b _ _
  case cvti =>
    intro _ c hv _
    have typ : n.typ = c.v.typ := (congrArg NV.typ hv).symm
    have mod : n.mod = c.v.mod := (congrArg NV.mod hv).symm
    obtain ⟨from64, signed⟩ := source_intTyp n
    have hi : (c.v.bits 2 1 = 1) = (n.lit.getLsbD 2 = true) := by rw [← viewD_bit 0x0A0 n, ← hv, beq_iff_eq]
    rw [← hv] at from64 signed
    refine congrArg (c.emitBoth c.s · c.f.a.poison) ((Ctx.convertedLanes_eq (value := intVal (intTyp (c.v.bits 0 2)))
      (xs := c.halved (intTyp (c.v.bits 0 2)) (unpackLanes (intBits (intTyp (c.v.bits 0 2))) c.f.a.lanes)) Ctx.length_halved).trans ?_)
    rw [c.map_halved, c.map_intVal_unpackLanes]
    simp only [Ctx.halved, hi, Ctx.sourceVals, Ctx.converted, typ, mod, from64, signed, Bool.not_eq_true, Bool.not_eq_true']
    rfl

end Sys2Proof.Machine
end

section
/-! PROOFS. The layouts of the floating group (08 R202; 03 R80): the lanes and flags of jets, the two elements of a lane, and what a
floating operation emits. -/
namespace Sys2Proof.Machine
open Sys2Proof

theorem length_padTo {α : Type} (d : α) (n : Nat) (l : List α) : (padTo d n l).length = n := by
  rw [padTo, List.length_append, List.length_take, List.length_replicate]
  omega

theorem padTo_eq_map_getD {α : Type} (d : α) (n : Nat) (l : List α) : padTo d n l = (List.range n).map (l.getD · d) := by
  refine List.ext_getElem (by rw [length_padTo, List.length_map, List.length_range]) (fun i hi _ => ?_)
  rw [length_padTo] at hi
  by_cases inside : i < l.length
  · have place : i < (l.take n).length := by rw [List.length_take]; omega
    simp only [padTo, List.getElem_append_left place, List.getElem_take, List.getElem_map, List.getElem_range,
      List.getD_eq_getElem?_getD, List.getElem?_eq_getElem inside, Option.getD_some]
  · have place : (l.take n).length ≤ i := by rw [List.length_take]; omega
    simp only [padTo, List.getElem_append_right place, List.getElem_replicate, List.getElem_map, List.getElem_range,
      List.getD_eq_getElem?_getD, List.getElem?_eq_none (Nat.not_lt.1 inside), Option.getD_none]

theorem padTo_of_length_le {α : Type} (d : α) {n : Nat} {l : List α} (h : l.length ≤ n) :
    padTo d n l = l ++ List.replicate (n - l.length) d := by
  rw [padTo, List.take_of_length_le h]

theorem padTo_replicate {α : Type} (d x : α) (n : Nat) : padTo d n (List.replicate n x) = List.replicate n x := by
  simp [padTo]

theorem length_flatMap_of_length {α β : Type} {f : α → List β} {k : Nat} (h : ∀ x, (f x).length = k) (l : List α) :
    (l.flatMap f).length = l.length * k := by
  induction l with
  | nil => rw [List.flatMap_nil, List.length_nil, List.length_nil, Nat.zero_mul]
  | cons x l ih => rw [List.flatMap_cons, List.length_append, h, ih, List.length_cons, Nat.succ_mul, Nat.add_comm]

/-- The lanes of whole jets, and +0 in the lanes beyond them (03 R80). -/
theorem jetLanes_eq {w d : Nat} {js : List Jet} (hl : js.length = w / (d + 1)) : jetLanes w d js =
    js.flatMap (fun y => (List.range (d + 1)).map (fun k => word (co y.1 k))) ++ List.replicate (w % (d + 1)) 0 := by
  have cells : (js.flatMap (fun y => padTo 0 (d + 1) y.1)).map word =
      js.flatMap (fun y => (List.range (d + 1)).map (fun k => word (co y.1 k))) := by
    simp only [List.map_flatMap, padTo_eq_map_getD, List.map_map]
    rfl
  have length : (js.flatMap (fun y => (List.range (d + 1)).map (fun k => word (co y.1 k)))).length = w / (d + 1) * (d + 1) := by
    rw [length_flatMap_of_length (k := d + 1) (fun y => by rw [List.length_map, List.length_range]), hl]
  have split := Nat.div_add_mod' w (d + 1)
  rw [jetLanes, cells, padTo_of_length_le 0 (by omega), length, show w - w / (d + 1) * (d + 1) = w % (d + 1) by omega]

theorem word_lane (x : Word) : word x.toNat = x := by rw [word_toNat, BitVec.setWidth_eq]

theorem half_toNat (x : Word) (h : Nat) : x.toNat / 65536 ^ h % 65536 = (x.extractLsb' (16 * h) 16).toNat := by
  rw [BitVec.extractLsb'_toNat, Nat.shiftRight_eq_div_pow, Nat.pow_mul]

theorem word_joinBits_pair (lo hi : Nat) : word (joinBits 16 [lo, hi]) = BitVec.ofNat 16 hi ++ BitVec.ofNat 16 lo :=
  BitVec.eq_of_toNat_eq (by
    have low : lo % 65536 < 2 ^ 16 := Nat.mod_lt lo (by decide)
    rw [BitVec.toNat_append, BitVec.toNat_ofNat, BitVec.toNat_ofNat, ← Nat.shiftLeft_add_eq_or_of_lt low, Nat.shiftLeft_eq]
    simp only [word, joinBits, BitVec.toNat_ofNat]
    omega)

/-- Elements of 16 bits two by two in lanes (02 R38). -/
theorem packLanes_halves {α : Type} (f : α → Nat → Nat) (l : List α) :
    packLanes 16 (l.flatMap (fun i => (List.range 2).map (f i))) = l.map (fun i => BitVec.ofNat 16 (f i 1) ++ BitVec.ofNat 16 (f i 0)) := by
  have packed : packSmall 16 l.length (l.flatMap (fun i => (List.range 2).map (f i))) =
      l.map (fun i => BitVec.ofNat 16 (f i 1) ++ BitVec.ofNat 16 (f i 0)) := by
    induction l with
    | nil => rfl
    | cons i l ih =>
      have first : packSmall 16 (i :: l).length ((i :: l).flatMap (fun i => (List.range 2).map (f i))) =
          word (joinBits 16 [f i 0, f i 1]) :: packSmall 16 l.length (l.flatMap (fun i => (List.range 2).map (f i))) := rfl
      rw [first, ih, word_joinBits_pair, List.map_cons]
  have length : (l.flatMap (fun i => (List.range 2).map (f i))).length = l.length * 2 :=
    length_flatMap_of_length (k := 2) (fun i => by rw [List.length_map, List.length_range]) l
  rw [packLanes, if_neg (by decide), if_neg (by decide), length, show (l.length * 2 * 16 + 31) / 32 = l.length by omega, packed]

theorem orAll_halves {α : Type} (f : α → Nat → Fr) (l : List α) :
    orAll (l.flatMap (fun i => (List.range 2).map (f i))) = l.foldl (fun g i => g ||| (f i 0).2 ||| (f i 1).2) 0 := by
  rw [orAll, List.foldl_flatMap]
  rfl

section result
variable {c : Ctx}

/-- The result jets of a floating operation, one for each whole jet of a (03 R80). -/
def Ctx.resultJets (c : Ctx) (jf : Nat → List Nat → List Nat → Jet) : List Jet :=
  (List.range (jetCount c.wa c.order)).map (fun j => jf j (c.aJet c.order j) (c.bJet c.order j))

theorem Ctx.floats_of_f32 (h : c.v.typ = .f32) (jf : Nat → List Nat → List Nat → Jet) (ef : Nat → Nat → Fmt → Nat → Nat → Fr) :
    c.floats jf ef = (jetLanes c.wa c.order (c.resultJets jf), jetFlags (c.resultJets jf)) := by
  have length : (c.resultJets jf).length = c.wa / (c.order + 1) := by rw [Ctx.resultJets, List.length_map, List.length_range]; rfl
  rw [Ctx.floats, if_pos h, jetLanes_eq length]
  rfl

/-- The result for one of the two elements of a lane (08 R202). -/
def Ctx.halfAt (c : Ctx) (ef : Nat → Nat → Fmt → Nat → Nat → Fr) (i h : Nat) : Fr :=
  ef i h (fmtOf c.v.typ) ((c.aw i).extractLsb' (16 * h) 16).toNat ((c.bw i).extractLsb' (16 * h) 16).toNat

/-- The results for the two elements of each lane. -/
def Ctx.resultHalves (c : Ctx) (ef : Nat → Nat → Fmt → Nat → Nat → Fr) : List Fr :=
  (List.range c.wa).flatMap (fun i => (List.range 2).map (c.halfAt ef i))

theorem Ctx.floats_of_half (h : c.v.typ ≠ .f32) (jf : Nat → List Nat → List Nat → Jet) (ef : Nat → Nat → Fmt → Nat → Nat → Fr) :
    c.floats jf ef = (packLanes 16 ((c.resultHalves ef).map Prod.fst), orAll (c.resultHalves ef)) := by
  have lanes : (c.resultHalves ef).map Prod.fst =
      (List.range c.wa).flatMap (fun i => (List.range 2).map (fun h => (c.halfAt ef i h).1)) := List.map_flatMap
  rw [Ctx.floats, if_neg h, lanes, packLanes_halves, Ctx.resultHalves, orAll_halves]
  rfl

theorem Ctx.aLane_half (c : Ctx) (i h : Nat) : c.aLane i / 65536 ^ h % 65536 = ((c.aw i).extractLsb' (16 * h) 16).toNat :=
  half_toNat (c.aw i) h

theorem Ctx.bLane_half (c : Ctx) (i h : Nat) : c.bLane i / 65536 ^ h % 65536 = ((c.bw i).extractLsb' (16 * h) 16).toNat := by
  rw [← c.bw_toNat, half_toNat]

theorem Ctx.emitF_eq (c : Ctx) (lanes : List Word) (g : Nat) : c.emitF lanes g = .done (c.flagged c.poison g) (c.both lanes c.poison) := rfl

/-- A floating operation emits its result to both destinations, and ORs its flags into JXF (08 R202, R203). -/
def Ctx.emitsFloats (c : Ctx) (jf : Nat → List Nat → List Nat → Jet) (ef : Nat → Nat → Fmt → Nat → Nat → Fr) : FireRes :=
  .done (c.flagged c.poison (c.floats jf ef).2) (c.both (c.floats jf ef).1 c.poison)

theorem Ctx.mapJet_eq (h : c.v.typ = .f32) (jf : Nat → List Nat → List Nat → Jet) (ef : Nat → Nat → Fmt → Nat → Nat → Fr) :
    c.mapJet jf = c.emitsFloats jf ef := by
  rw [Ctx.emitsFloats, Ctx.floats_of_f32 h]
  rfl

theorem Ctx.mapHalf_eq (h : c.v.typ ≠ .f32) (jf : Nat → List Nat → List Nat → Jet) (ef : Nat → Nat → Fmt → Nat → Nat → Fr) :
    c.mapHalf (fun i h => ef i h (fmtOf c.v.typ)) = c.emitsFloats jf ef := by
  simp only [Ctx.mapHalf, Ctx.aLane_half, Ctx.bLane_half, Ctx.emitsFloats, Ctx.floats_of_half h]
  rfl

theorem Ctx.mapFloat_eq (c : Ctx) (jf : List Nat → List Nat → Jet) (ef : Fmt → Nat → Nat → Fr) :
    c.mapFloat jf ef = c.emitsFloats (fun _ => jf) (fun _ _ => ef) := by
  unfold Ctx.mapFloat
  split
  next h => exact Ctx.mapJet_eq h (fun _ => jf) _
  next h => exact Ctx.mapHalf_eq h _ (fun _ _ => ef)

end result

section fields
variable {c : Ctx} {opc : BitVec 10} {n : Node} (hv : c.v = viewD opc n)
include hv

/-- The fields of a Format-D record in its view (02 R36). -/
theorem Ctx.bits_eq (lo k : Nat) : c.v.bits lo k = (n.lit.extractLsb' lo k).toNat := by rw [hv, viewD_bits]

theorem Ctx.typ_eq : c.v.typ = n.typ := congrArg NV.typ hv

theorem Ctx.ary_eq : c.v.ary = n.ary := congrArg NV.ary hv

theorem Ctx.mod_eq : c.v.mod = n.mod := congrArg NV.mod hv

theorem Ctx.flag_eq (k : Nat) : (c.v.bits k 1 = 1) = (n.lit.getLsbD k = true) := by rw [← viewD_bit opc n, ← hv, beq_iff_eq]

/-- The rounding mode of a node (03 R69). -/
theorem Ctx.rnd_eq : c.rnd = rndOf n.mod.toNat := by rw [Ctx.rnd, Ctx.mod_eq hv]

end fields

end Sys2Proof.Machine
end

section
/-! PROOFS. Floating arithmetic, selection and signs (08 R204 to R207): operations by whole jets or by the elements of lanes, and the
addend of the fused ones. -/
namespace Sys2Proof.Machine
open Sys2Proof

theorem completesF_of_mapFloat {i : Instr} {opc : BitVec 10} {n : Node} (jf : Rnd → Nat → List Nat → List Nat → Jet)
    (ef : Rnd → Fmt → Nat → Nat → Fr)
    (hi : ∀ s, exec i s = fire (viewD opc n) s (fun c => c.mapFloat (jf c.rnd c.order) (ef c.rnd))) :
    CompletesF i opc n (fun c _ => jf (rndOf n.mod.toNat) c.regs.order.toNat) (fun _ _ _ => ef (rndOf n.mod.toNat)) := by
  refine completes_of_done hi (fun _ c hv _ => ?_)
  rw [c.mapFloat_eq, Ctx.rnd_eq hv]
  rfl

section fused
variable {c : Ctx} {opc : BitVec 10} {n : Node}

/-- The addend of FMA, FMS and FNMA in a lane: an accumulator's or a constant's (08 R205). -/
def Ctx.addendLane (c : Ctx) (n : Node) (lane : Nat) : Word :=
  if n.lit.getLsbD 12 then SMap.get 0 (c.x.acc (n.lit.extractLsb' 6 4).toNat).val lane else c.x.kreg (n.lit.extractLsb' 6 6).toNat

theorem Ctx.addend_eq (hv : c.v = viewD opc n) (lane : Nat) : c.addend lane = (c.addendLane n lane).toNat := by
  simp only [Ctx.addend, Ctx.addendLane, Ctx.flag_eq hv 12, Ctx.bits_eq hv 6, apply_ite BitVec.toNat]
  rfl

theorem Ctx.addend_half (hv : c.v = viewD opc n) (i h : Nat) :
    c.addend i / 65536 ^ h % 65536 = ((c.addendLane n i).extractLsb' (16 * h) 16).toNat := by
  rw [Ctx.addend_eq hv, half_toNat]

/-- The jet of a fused operation, its multiplicand or its addend negated (03 R83). -/
def Ctx.fusedJet (c : Ctx) (n : Node) (negA negC : Bool) (j : Nat) (a b : List Nat) : Jet :=
  let addend := (c.addendLane n (j * (c.order + 1))).toNat :: List.replicate c.order 0
  jetFma (rndOf n.mod.toNat) c.order (if negA then a.map flipF else a) b (if negC then addend.map flipF else addend)

/-- The element of a fused operation. -/
def Ctx.fusedHalf (c : Ctx) (n : Node) (negA negC : Bool) (i h : Nat) (f : Fmt) (x y : Nat) : Fr :=
  let addend := f.dec ((c.addendLane n i).extractLsb' (16 * h) 16).toNat
  f.fmaN (rndOf n.mod.toNat) (if negA then (f.dec x).negate else f.dec x) (f.dec y) (if negC then addend.negate else addend)

theorem Ctx.fused_eq (hv : c.v = viewD opc n) (negA negC : Bool) :
    c.fused negA negC = c.emitsFloats (c.fusedJet n negA negC) (c.fusedHalf n negA negC) := by
  unfold Ctx.fused
  split
  next h =>
    rw [← Ctx.mapJet_eq h]
    simp only [Ctx.addendJet, Ctx.addend_eq hv, Ctx.rnd_eq hv]
    rfl
  next h =>
    rw [← Ctx.mapHalf_eq h]
    simp only [Ctx.addend_half hv, Ctx.rnd_eq hv]
    rfl

theorem completesF_of_fused {i : Instr} (negA negC : Bool)
    (hi : ∀ s, exec i s = fire (viewD opc n) s (fun c => c.fused negA negC)) :
    CompletesF i opc n (fun c => c.fusedJet n negA negC) (fun c => c.fusedHalf n negA negC) :=
  completes_of_done hi (fun _ _ hv _ => Ctx.fused_eq hv negA negC)

end fused

/-- Settles O6: each operation is one by whole jets or by elements, and each fused one negates its multiplicand, its addend or
neither. -/
theorem floatArithmetic : Obligations.FloatArithmetic := by
  unfold Obligations.FloatArithmetic
  intro n
  exact ⟨completesF_of_mapFloat (jetAdd · false) (fun m f => f.add m) (fun _ => rfl),
    completesF_of_mapFloat (jetAdd · true) (fun m f => f.sub m) (fun _ => rfl),
    completesF_of_mapFloat jetMul (fun m f => f.mul m) (fun _ => rfl),
    completesF_of_mapFloat jetDiv (fun m f => f.div m) (fun _ => rfl),
    completesF_of_fused false false (fun _ => rfl), completesF_of_fused false true (fun _ => rfl),
    completesF_of_fused true false (fun _ => rfl)⟩

/-- Settles O7: each operation is one by whole jets or by elements, whatever the rounding mode. -/
theorem floatSelectionAndSigns : Obligations.FloatSelectionAndSigns := by
  unfold Obligations.FloatSelectionAndSigns
  intro n
  exact ⟨completesF_of_mapFloat (fun _ => jetPick false false) (fun _ f => f.minmax false false) (fun _ => rfl),
    completesF_of_mapFloat (fun _ => jetPick true false) (fun _ f => f.minmax true false) (fun _ => rfl),
    completesF_of_mapFloat (fun _ => jetPick false true) (fun _ f => f.minmax false true) (fun _ => rfl),
    completesF_of_mapFloat (fun _ => jetPick true true) (fun _ f => f.minmax true true) (fun _ => rfl),
    completesF_of_mapFloat (fun _ d a _ => jetSign (f32.isNeg (co a 0)) d a) (fun _ f x _ => f.withSign false x) (fun _ => rfl),
    completesF_of_mapFloat (fun _ d a _ => jetSign true d a) (fun _ f x _ => f.withSign (!f.isNeg x) x) (fun _ => rfl),
    completesF_of_mapFloat
      (fun _ d a b =>
        let y := jetSign (f32.isNeg (co a 0) != f32.isNeg (co b 0)) d a
        (y.1, y.2 ||| (f32.dec (co b 0)).inv))
      (fun _ f x y => ((f.withSign (f.isNeg y) x).1, (f.withSign (f.isNeg y) x).2 ||| (f.dec y).inv)) (fun _ => rfl),
    completesF_of_mapFloat (fun _ d a _ => (List.replicate (d + 1) (f32.cls (co a 0)), 0)) (fun _ f x _ => (f.cls x, 0))
      (fun _ => rfl)⟩

end Sys2Proof.Machine
end

section
/-! PROOFS. The functions of F32 (08 R208, R209, R212): each a jet by jet operation at the order of the firing's colour. -/
namespace Sys2Proof.Machine
open Sys2Proof

section jets
variable {i : Instr} {opc : BitVec 10} {n : Node}

/-- The result of an operation that takes no elements of BF16 and F16 (08 R202). -/
def Ctx.jetFloats (c : Ctx) (jf : Nat → List Nat → List Nat → Jet) : List Word × Nat := c.floats jf (fun _ _ _ _ _ => (0, 0))

theorem Ctx.mapJet_eq_jetFloats {c : Ctx} (h : c.v.typ = .f32) (jf : Nat → List Nat → List Nat → Jet) :
    c.mapJet jf = .done (c.flagged c.poison (c.jetFloats jf).2) (c.both (c.jetFloats jf).1 c.poison) :=
  Ctx.mapJet_eq h jf _

/-- An operation by whole jets completes with TYP 4. -/
theorem completes_of_mapJet (jf : Rnd → Nat → List Nat → List Nat → Jet)
    (hi : ∀ s, exec i s = fire (viewD opc n) s (fun c => c.mapJet (fun _ => jf c.rnd c.order))) :
    Completes i (viewD opc n) (fun _ => n.typ = .f32)
      (fun c => c.flagged c.poison (c.jetFloats (fun _ => jf (rndOf n.mod.toNat) c.order)).2)
      (fun c => c.both (c.jetFloats (fun _ => jf (rndOf n.mod.toNat) c.order)).1 c.poison) := by
  refine completes_of_done hi (fun _ c hv typ => ?_)
  have f32 : c.v.typ = .f32 := (Ctx.typ_eq hv).trans typ
  rw [Ctx.mapJet_eq_jetFloats f32, Ctx.rnd_eq hv]

end jets

section scaling
variable {c : Ctx}

/-- Coefficient 0 of a jet of b: a token's, or the constant of every jet (03 R81). -/
theorem Ctx.co_bJet_zero (h : is64 c.v.typ = false) (d j : Nat) : co (c.bJet d j) 0 = (c.bw (j * (d + 1))).toNat := by
  rw [c.bw_toNat]
  unfold Ctx.bJet
  split
  next => simp [co]
  next other =>
    have same : c.bLane j = c.bLane (j * (d + 1)) := by cases ary : c.v.ary <;> simp [Ctx.bLane, ary, h] at other ⊢
    simpa [co] using same

theorem Ctx.mapJet_congr {jf jf' : Nat → List Nat → List Nat → Jet}
    (h : ∀ j, jf j (c.aJet c.order j) (c.bJet c.order j) = jf' j (c.aJet c.order j) (c.bJet c.order j)) : c.mapJet jf = c.mapJet jf' := by
  simp only [Ctx.mapJet, h]

/-- The exponent of FSCALE is a signed lane (08 R208). -/
theorem Ctx.scaleExponent (h : is64 c.v.typ = false) (d j : Nat) :
    toS 32 (co (c.bJet d j) 0) = (BitVec.ofNat 32 (co (c.bJet d j) 0)).toInt := by
  rw [Ctx.co_bJet_zero h, toS_toNat, BitVec.ofNat_toNat, BitVec.setWidth_eq]

end scaling

/-- FSINCOS sends each series as the jets of its destination, and raises the flags of both (08 R212). -/
theorem Ctx.sincos_eq {c : Ctx} (h : c.v.typ = .f32) (sc : List Nat → List Nat × List Nat × Nat) :
    (let rs := (List.range (jetCount c.wa c.order)).map (fun j => sc (c.aJet c.order j))
     FireRes.done (c.withFlags c.poison (rs.foldl (fun g r => g ||| r.2.2) 0))
      [c.outA (jetLanes c.wa c.order (rs.map (fun r => (r.1, 0)))) c.poison,
       c.outB (jetLanes c.wa c.order (rs.map (fun r => (r.2.1, 0)))) c.poison]) =
    .done (c.flagged c.poison (c.jetFloats (fun _ a _ => ([], (sc a).2.2))).2)
      [c.outA (c.jetFloats (fun _ a _ => ((sc a).1, 0))).1 c.poison, c.outB (c.jetFloats (fun _ a _ => ((sc a).2.1, 0))).1 c.poison] := by
  simp only [Ctx.jetFloats, Ctx.floats_of_f32 h, Ctx.resultJets, jetFlags, List.map_map, List.foldl_map]
  rfl

/-- Settles O8: each function is one by whole jets; FSINCOS is two of them, and the exponent of FSCALE is a signed lane of b. -/
theorem floatFunctions : Obligations.FloatFunctions := by
  unfold Obligations.FloatFunctions
  intro n
  refine ⟨completes_of_mapJet (fun m d a _ => jetSqrt m d a) (fun _ => rfl),
    completes_of_mapJet (fun m d a _ => jetRsqrt m d a) (fun _ => rfl),
    completes_of_mapJet (fun m d a _ => jetRcp m d a) (fun _ => rfl),
    completes_of_mapJet (fun m d a _ => jetExp m false d a) (fun _ => rfl),
    completes_of_mapJet (fun m d a _ => jetExp m true d a) (fun _ => rfl),
    completes_of_mapJet (fun m d a _ => jetLog m d a) (fun _ => rfl),
    completes_of_mapJet (fun m d a _ => jetLog2 m d a) (fun _ => rfl),
    completes_of_mapJet (fun m d a _ => ((jetSinCos m true false d a).1, (jetSinCos m true false d a).2.2)) (fun _ => rfl),
    completes_of_mapJet (fun m d a _ => ((jetSinCos m false true d a).2.1, (jetSinCos m false true d a).2.2)) (fun _ => rfl),
    completes_of_done (fun _ => rfl) ?sincos,
    completes_of_mapJet (fun m d a _ => jetTanh m false d a) (fun _ => rfl),
    completes_of_mapJet (fun m d a _ => jetTanh m true d a) (fun _ => rfl),
    completes_of_mapJet (fun m d a _ => jetErf m d a) (fun _ => rfl),
    completes_of_mapJet (fun m d a _ => jetRnd m d a) (fun _ => rfl),
    completes_of_done (fun _ => rfl) ?scale⟩
  case sincos =>
    intro _ c hv typ
    rw [Ctx.rnd_eq hv]
    exact Ctx.sincos_eq ((Ctx.typ_eq hv).trans typ) (jetSinCos (rndOf n.mod.toNat) true true c.order)
  case scale =>
    intro _ c hv typ
    have f32 : c.v.typ = .f32 := (Ctx.typ_eq hv).trans typ
    have narrow : is64 c.v.typ = false := by rw [f32]; rfl
    rw [Ctx.rnd_eq hv, Ctx.mapJet_congr (jf' := fun _ a b => jetScale (rndOf n.mod.toNat) (BitVec.ofNat 32 (co b 0)).toInt c.order a)
      (fun j => by rw [Ctx.scaleExponent narrow])]
    exact Ctx.mapJet_eq_jetFloats f32 _

end Sys2Proof.Machine
end

section
/-! PROOFS. Floating comparison (08 R210): the operands of each relation as one list of pairs, by jets or by the elements of lanes. -/
namespace Sys2Proof.Machine
open Sys2Proof

/-- What FCMP compares with: an element of b, or with ARY 0 the BF16 immediate, an F32 value's upper half (08 R210). -/
def fcmpRight (n : Node) (f : Fmt) (y : Nat) : Nat :=
  if n.ary = .mono then (if f = f32 then (n.lit.extractLsb' 16 16).toNat * 65536 else (n.lit.extractLsb' 16 16).toNat) else y

/-- The relation of FCMP (08 Table 2). -/
def fcmpRel (n : Node) (f : Fmt) (p : Nat × Nat) : Bool := f.rel n.mod.toNat p.1 (fcmpRight n f p.2)

/-- FCMP's INV (08 Table 2). -/
def fcmpInv (n : Node) (f : Fmt) (p : Nat × Nat) : Nat := f.relInv (n.lit.getLsbD 3) p.1 (fcmpRight n f p.2)

/-- Of the types that FCMP takes, TYP 4 alone is of format F32 (08 Table 1). -/
theorem fmtOf_eq_f32_of_fcmp {n : Node} (h : checkFields (viewD 0x10E n) = none) : fmtOf n.typ = f32 ↔ n.typ = .f32 := by
  have row : opSpec (0x10E : BitVec 10).toNat = some (opD 0x070 0x3 0xFF 0xFF .general) := rfl
  have masked : maskBit 0x070 (typCode n.typ) = true := (Bool.and_eq_true_iff.1 (typOk_of_checkFields h row)).1
  revert masked
  cases n.typ <;> decide

theorem Ctx.co_aJet {c : Ctx} {d k : Nat} (h : k ≤ d) (j : Nat) : co (c.aJet d j) k = (c.aw (j * (d + 1) + k)).toNat := by
  simp [co, Ctx.aJet, Ctx.aLane, Ctx.aw, Nat.lt_succ_of_le h]

section comparison
variable {c : Ctx} {n : Node}

/-- The operands of each relation: coefficients 0 of jets, or the elements of lanes (08 R210). -/
def Ctx.fcmpPairs (c : Ctx) : List (Nat × Nat) :=
  if c.v.typ = .f32 then
    (List.range (jetCount c.wa c.order)).map (fun j => (co (c.aJet c.order j) 0, co (c.bJet c.order j) 0))
  else (List.range c.wa).flatMap (fun i => (List.range 2).map (fun h =>
    (((c.aw i).extractLsb' (16 * h) 16).toNat, ((c.bw i).extractLsb' (16 * h) 16).toNat)))

theorem Ctx.compare_eq (hc : checkFields (viewD 0x10E n) = none) (hv : c.v = viewD 0x10E n) :
    c.compare = (c.fcmpPairs.map (fcmpRel n (fmtOf n.typ)), c.fcmpPairs.foldl (fun g p => g ||| fcmpInv n (fmtOf n.typ) p) 0) := by
  have anyNan : (c.v.bits 3 1 == 1) = n.lit.getLsbD 3 := by rw [hv, viewD_bit]
  unfold Ctx.compare Ctx.fcmpPairs
  simp only [Ctx.typ_eq hv, Ctx.ary_eq hv, Ctx.mod_eq hv, Ctx.bits_eq hv 16 16, anyNan, Ctx.aLane_half, Ctx.bLane_half]
  split
  next h =>
    have format : fmtOf n.typ = f32 := (fmtOf_eq_f32_of_fcmp hc).2 h
    simp only [List.map_map, List.foldl_map, Function.comp_def, fcmpRel, fcmpInv, fcmpRight, format, if_true]
  next h =>
    have format : fmtOf n.typ ≠ f32 := fun f => h ((fmtOf_eq_f32_of_fcmp hc).1 f)
    simp only [List.map_flatMap, List.map_map, List.foldl_flatMap, List.foldl_map, Function.comp_def, fcmpRel, fcmpInv, fcmpRight,
      if_neg format]

/-- The results of FCMP as the relation of the lanes in which the operands stand. -/
theorem Ctx.compare_results (hc : checkFields (viewD 0x10E n) = none) (hv : c.v = viewD 0x10E n) : c.compare.1 =
    if n.typ = .f32 then (List.range (c.wa / (c.order + 1))).map (fun j =>
      fcmpRel n f32 ((c.aw (j * (c.order + 1))).toNat, (c.bw (j * (c.order + 1))).toNat))
    else (List.range c.wa).flatMap (fun i => [0, 1].map (fun h =>
      fcmpRel n (fmtOf n.typ) (((c.aw i).extractLsb' (16 * h) 16).toNat, ((c.bw i).extractLsb' (16 * h) 16).toNat))) := by
  rw [Ctx.compare_eq hc hv, Ctx.fcmpPairs, Ctx.typ_eq hv]
  split
  next h =>
    have narrow : is64 c.v.typ = false := by rw [Ctx.typ_eq hv, h]; rfl
    simp only [List.map_map, Function.comp_def, Ctx.co_aJet (Nat.zero_le _), Ctx.co_bJet_zero narrow, h]
    rfl
  next => rw [List.map_flatMap]; rfl

/-- FCMP's results of jets: every coefficient of a jet says what its relation says (08 R210). -/
def fcmpJet (n : Node) (d lane : Nat) (a b : List Nat) : Jet :=
  (List.replicate (d + 1) (if fcmpRel n f32 (co a 0, co b 0) then lane else 0), fcmpInv n f32 (co a 0, co b 0))

/-- FCMP's results of elements of 16 bits. -/
def fcmpHalf (n : Node) (half : Nat) (f : Fmt) (x y : Nat) : Fr := (if fcmpRel n f (x, y) then half else 0, fcmpInv n f (x, y))

theorem Ctx.resultJets_fcmp (h : c.v.typ = .f32) (lane : Nat) : c.resultJets (fun _ => fcmpJet n c.order lane) =
    c.fcmpPairs.map (fun p => (List.replicate (c.order + 1) (if fcmpRel n f32 p then lane else 0), fcmpInv n f32 p)) := by
  rw [Ctx.fcmpPairs, if_pos h, List.map_map]
  rfl

theorem Ctx.resultHalves_fcmp (h : c.v.typ ≠ .f32) (half : Nat) : c.resultHalves (fun _ _ => fcmpHalf n half) =
    c.fcmpPairs.map (fun p => (if fcmpRel n (fmtOf c.v.typ) p then half else 0, fcmpInv n (fmtOf c.v.typ) p)) := by
  simp only [Ctx.fcmpPairs, if_neg h, List.map_flatMap, List.map_map]
  rfl

/-- Jets of one value each (03 R80). -/
theorem jetLanes_replicate {α : Type} (w d : Nat) (x g : α → Nat) (l : List α) :
    jetLanes w d (l.map (fun p => (List.replicate (d + 1) (x p), g p))) =
      padTo 0 w (l.flatMap (fun p => List.replicate (d + 1) (word (x p)))) := by
  simp only [jetLanes, List.flatMap_map, padTo_replicate, List.map_flatMap, List.map_replicate]

/-- The result of FCMP, jet by jet or element by element. -/
def Ctx.fcmpFloats (c : Ctx) (n : Node) (lane half : Nat) : List Word × Nat :=
  c.floats (fun _ => fcmpJet n c.order lane) (fun _ _ => fcmpHalf n half)

variable (hc : checkFields (viewD 0x10E n) = none) (hv : c.v = viewD 0x10E n) (lane half : Nat)
include hc hv

theorem Ctx.compare_flags : c.compare.2 = (c.fcmpFloats n lane half).2 := by
  rw [Ctx.compare_eq hc hv, Ctx.fcmpFloats, ← Ctx.typ_eq hv]
  by_cases h : c.v.typ = .f32
  · rw [Ctx.floats_of_f32 h, Ctx.resultJets_fcmp h, jetFlags, List.foldl_map, h]
    rfl
  · rw [Ctx.floats_of_half h, Ctx.resultHalves_fcmp h, orAll, List.foldl_map]

theorem Ctx.compare_jetLanes (h : c.v.typ = .f32) :
    padTo 0 c.wa (c.compare.1.flatMap (fun r => List.replicate (c.order + 1) (if r then word lane else 0))) =
      (c.fcmpFloats n lane half).1 := by
  have format : fmtOf n.typ = f32 := (fmtOf_eq_f32_of_fcmp hc).2 ((Ctx.typ_eq hv).symm.trans h)
  rw [Ctx.compare_eq hc hv, Ctx.fcmpFloats, Ctx.floats_of_f32 h, Ctx.resultJets_fcmp h, jetLanes_replicate, format, List.flatMap_map]
  simp only [apply_ite word]
  rfl

theorem Ctx.compare_halfLanes (h : c.v.typ ≠ .f32) :
    packLanes 16 (c.compare.1.map (fun r => if r then half else 0)) = (c.fcmpFloats n lane half).1 := by
  rw [Ctx.compare_eq hc hv, Ctx.fcmpFloats, Ctx.floats_of_half h, Ctx.resultHalves_fcmp h, ← Ctx.typ_eq hv, List.map_map, List.map_map]
  rfl

end comparison

/-- Settles O9: the three shapes of FCMP are one list of results, whose operands are the coefficients 0 of jets or the elements of
lanes. -/
theorem floatComparison : Obligations.FloatComparison := by
  unfold Obligations.FloatComparison
  intro n imm d right rel inv lane half shape all each
  have mask {c : Ctx} (hv : c.v = viewD 0x10E n) : (c.v.bits 0 1 == 1) = n.lit.getLsbD 0 := by rw [hv, viewD_bit]
  have ones : word lane = if n.lit.getLsbD 0 then 0xFFFFFFFF else 1 := apply_ite word _ _ _
  have flags {c : Ctx} (hc : checkFields (viewD 0x10E n) = none) (hv : c.v = viewD 0x10E n) : c.compare.2 = (each c).2 :=
    Ctx.compare_flags hc hv lane half
  have results {c : Ctx} (hc : checkFields (viewD 0x10E n) = none) (hv : c.v = viewD 0x10E n) : c.compare.1 = all c :=
    Ctx.compare_results hc hv
  have reduced {c : Ctx} (hc : checkFields (viewD 0x10E n) = none) (hv : c.v = viewD 0x10E n) (every : Bool) :
      c.emitF (execFcmp.reducedF every (c.v.bits 0 1 == 1) c.compare.1) c.compare.2 = .done (c.flagged c.poison (each c).2)
        (c.both [if (if every then (all c).all id else (all c).any id) then word lane else 0] c.poison) := by
    rw [results hc hv, flags hc hv, mask hv, ones]
    rfl
  refine ⟨completes_of_done (fun _ => rfl) ?each, completes_of_done (fun _ => rfl) ?any, completes_of_done (fun _ => rfl) ?all⟩
  case each =>
    intro hc c hv h0
    have shape : c.v.bits 1 2 = 0 := (Ctx.bits_eq hv 1 2).trans h0
    simp only [shape, mask hv, ← ones]
    split
    next h => exact congr (congrArg c.emitF (Ctx.compare_jetLanes hc hv lane half h)) (flags hc hv)
    next h => exact congr (congrArg c.emitF (Ctx.compare_halfLanes hc hv lane half h)) (flags hc hv)
  case any =>
    intro hc c hv h1
    have shape : c.v.bits 1 2 = 1 := (Ctx.bits_eq hv 1 2).trans h1
    simp only [shape]
    exact reduced hc hv false
  case all =>
    intro hc c hv h2
    have shape : c.v.bits 1 2 = 2 := (Ctx.bits_eq hv 1 2).trans h2
    simp only [shape]
    exact reduced hc hv true

end Sys2Proof.Machine
end

section
/-! PROOFS. Conversion and block quantisation (08 R215 to R219): the fields of FCVT's and FQUANT's literals, and the scale byte of FDEQ. -/
namespace Sys2Proof.Machine
open Sys2Proof

theorem byte_toNat (x : Word) (k : Nat) : x.toNat / 256 ^ k % 256 = (x.extractLsb' (8 * k) 8).toNat := by
  rw [BitVec.extractLsb'_toNat, Nat.shiftRight_eq_div_pow, Nat.pow_mul]

/-- The scale token of a block: its byte in the low bits, the others set (08 R217). -/
theorem word_scale (x : Nat) : word (0xFFFFFF00 + x) = 0xFFFFFF00 + BitVec.ofNat 32 x := BitVec.ofNat_add ..

/-- Settles O10: FCVT's elements and flags are maps of one list, FQUANT's two forms are told apart by a bit of its literal, and FDEQ's
scale is a byte of a lane. -/
theorem floatConversion : Obligations.FloatConversion := by
  unfold Obligations.FloatConversion
  intro n m scaleOut q
  refine ⟨completes_of_done (fun _ => rfl) ?cvt, completes_of_done (fun _ => rfl) ?quant, completes_of_done (fun _ => rfl) ?relay,
    completes_of_done (fun _ => rfl) ?deq⟩
  case cvt =>
    intro _ c hv _
    simp only [Ctx.bits_eq hv, Ctx.typ_eq hv, Ctx.mod_eq hv, Ctx.emitF_eq, orAll, List.foldl_map, List.map_map]
    rfl
  case quant =>
    intro _ c hv elements
    have fresh : ¬ (n.lit.extractLsb' 0 1).toNat = 1 := by rw [← Ctx.bits_eq hv, Ctx.flag_eq hv, elements]; decide
    have dst : c.v.dstB = n.dstB := congrArg NV.dstB hv
    simp only [if_neg fresh, Ctx.bits_eq hv, Ctx.typ_eq hv, Ctx.mod_eq hv, dst, word_scale]
    rfl
  case relay =>
    intro _ c hv relayed
    have relay : (n.lit.extractLsb' 0 1).toNat = 1 := by rw [← Ctx.bits_eq hv, Ctx.flag_eq hv, relayed]
    have dst : c.v.dstB = n.dstB := congrArg NV.dstB hv
    simp only [if_pos relay, Ctx.bits_eq hv, dst]
    rfl
  case deq =>
    intro _ c hv _
    simp only [Ctx.bits_eq hv, Ctx.typ_eq hv, Ctx.rnd_eq hv, byte_toNat, orAll, List.foldl_map, List.map_map]
    rfl

end Sys2Proof.Machine
end

section
/-! PROOFS. The jet group (08 R221 to R226): the jets built of scalars, one coefficient of each jet read or replaced, and series cut off. -/
namespace Sys2Proof.Machine
open Sys2Proof

/-- A jet built of two coefficients and zeros (08 R223). -/
theorem padTo_pair (x y d : Nat) : (padTo 0 (d + 1) ([x, y].take (d + 1))).map word =
    (List.range (d + 1)).map (fun i => if i = 0 then word x else if i = 1 then word y else 0) := by
  rw [padTo_eq_map_getD, List.map_map]
  refine List.map_congr_left (fun i hi => ?_)
  have inside : i < d + 1 := List.mem_range.1 hi
  simp only [Function.comp_apply, List.getD_eq_getElem?_getD, List.getElem?_take_of_lt inside]
  match i with
  | 0 => rfl
  | 1 => rfl
  | i + 2 => rfl

theorem Ctx.buildJets_eq (c : Ctx) (f : Nat) (seed : Nat → Nat) : c.buildJets f seed =
    (List.range (min (32 / (c.order + 1)) (c.wa - f))).flatMap (fun j => (List.range (c.order + 1)).map (fun i =>
      if i = 0 then c.aw (f + j) else if i = 1 then word (seed j) else 0)) := by
  have lane (i : Nat) : word (c.aLane i) = c.aw i := word_lane (c.aw i)
  simp only [Ctx.buildJets, padTo_pair, lane]

theorem listSet_eq_set {α : Type} (l : List α) (i : Nat) (v : α) : listSet l i v = l.set i v := by
  induction l generalizing i with
  | nil => rfl
  | cons x l ih => cases i with
    | zero => rfl
    | succ i => exact congrArg (x :: ·) (ih i)

theorem foldl_or_zero {α : Type} (l : List α) (b : Nat) : l.foldl (fun g _ => g ||| 0) b = b := by
  induction l with
  | nil => rfl
  | cons x l ih => rw [List.foldl_cons, Nat.or_zero, ih]

theorem Ctx.flagged_zero (c : Ctx) (poison : Bool) : c.flagged poison 0 = c.s := by simp [Ctx.flagged]

/-- The flags of coefficients that are scaled, or that stand as they are and raise none (08 R224). -/
theorem foldl_scaled_flags {b : Bool} {k : Nat} (l : List Nat) (r : Nat → Fr) (x : Nat → Nat) :
    l.foldl (fun g j => g ||| (if b then Fr.at k (r j) else (x j, 0)).2) 0 =
      if b then l.foldl (fun g j => g ||| atPos k (r j).2) 0 else 0 := by
  cases b
  case false => exact foldl_or_zero l 0
  case true => rfl

theorem word_scaled (b : Bool) (k : Nat) (r : Fr) (x : Nat) :
    word (if b then Fr.at k r else (x, 0)).1 = if b then word r.1 else word x := by
  cases b <;> rfl

theorem map_zipIdx_map_range {α β : Type} (f : Nat → α) (g : α × Nat → β) (n : Nat) :
    ((List.range n).map f).zipIdx.map g = (List.range n).map (fun i => g (f i, i)) := by
  induction n with
  | zero => rfl
  | succ n ih => simp [List.range_succ, List.zipIdx_append, ih]

section jets
variable {c : Ctx}

/-- The lanes of jets, by coefficients that are lanes of their own (03 R80). -/
theorem Ctx.jetLanes_cells (c : Ctx) {g : Nat → Jet} {cell : Nat → Nat → Word}
    (h : ∀ j k, k ≤ c.order → word (co (g j).1 k) = cell j k) :
    jetLanes c.wa c.order ((List.range (jetCount c.wa c.order)).map g) =
      (List.range (c.wa / (c.order + 1))).flatMap (fun j => (List.range (c.order + 1)).map (cell j)) ++
        List.replicate (c.wa % (c.order + 1)) 0 := by
  have cells (j : Nat) : (List.range (c.order + 1)).map (fun k => word (co (g j).1 k)) = (List.range (c.order + 1)).map (cell j) :=
    List.map_congr_left (fun k hk => h j k (Nat.le_of_lt_succ (List.mem_range.1 hk)))
  rw [jetLanes_eq (by rw [List.length_map, List.length_range]; rfl), List.flatMap_map]
  simp only [cells]
  rfl

theorem Ctx.word_co_aJet {d k : Nat} (h : k ≤ d) (j : Nat) : word (co (c.aJet d j) k) = c.aw (j * (d + 1) + k) := by
  rw [Ctx.co_aJet h, word_lane]

/-- A jet with coefficient `k` replaced (08 R224). -/
theorem Ctx.word_co_listSet {d i k : Nat} (h : i ≤ d) (j v : Nat) :
    word (co (listSet (c.aJet d j) k v) i) = if i ≠ k then c.aw (j * (d + 1) + i) else word v := by
  have length : i < (c.aJet d j).length := by rw [Ctx.aJet, List.length_map, List.length_range]; omega
  rw [listSet_eq_set, ← Ctx.word_co_aJet h, co, co, List.getD_eq_getElem?_getD, List.getD_eq_getElem?_getD, List.getElem?_set]
  by_cases same : i = k
  · subst same
    simp [length]
  · simp [same, Ne.symm same]

/-- A jet cut off above coefficient `k` (08 R225). -/
theorem Ctx.word_co_truncate {d i k : Nat} (h : i ≤ d) (j : Nat) :
    word (co (padTo 0 (d + 1) ((c.aJet d j).take (k + 1))) i) = if i ≤ k then c.aw (j * (d + 1) + i) else 0 := by
  rw [← Ctx.word_co_aJet h, co, co, padTo_eq_map_getD, List.getD_eq_getElem?_getD, List.getElem?_map, List.getElem?_range (by omega)]
  by_cases kept : i ≤ k
  · simp only [List.getElem?_take_of_lt (Nat.lt_succ_of_le kept), if_pos kept, Option.map_some, Option.getD_some,
      List.getD_eq_getElem?_getD]
  · simp only [List.getElem?_take_eq_none (Nat.lt_of_not_le kept), if_neg kept, Option.map_some, Option.getD_some, Option.getD_none,
      List.getD_eq_getElem?_getD]
    rfl

/-- The lanes of jets with coefficient `k` replaced. -/
theorem Ctx.jetLanes_listSet (c : Ctx) (k : Nat) (r : Nat → Fr) :
    jetLanes c.wa c.order ((List.range (jetCount c.wa c.order)).map (fun j => (listSet (c.aJet c.order j) k (r j).1, (r j).2))) =
      (List.range (c.wa / (c.order + 1))).flatMap (fun j => (List.range (c.order + 1)).map (fun i =>
        if i ≠ k then c.aw (j * (c.order + 1) + i) else word (r j).1)) ++ List.replicate (c.wa % (c.order + 1)) 0 :=
  c.jetLanes_cells (cell := fun j i => if i ≠ k then c.aw (j * (c.order + 1) + i) else word (r j).1)
    (fun j _ h => Ctx.word_co_listSet h j (r j).1)

/-- The lanes of jets cut off above coefficient `k`. -/
theorem Ctx.jetLanes_truncate (c : Ctx) (k : Nat) :
    jetLanes c.wa c.order ((List.range (jetCount c.wa c.order)).map (fun j =>
        (padTo 0 (c.order + 1) ((c.aJet c.order j).take (k + 1)), 0))) =
      (List.range (c.wa / (c.order + 1))).flatMap (fun j => (List.range (c.order + 1)).map (fun i =>
        if i ≤ k then c.aw (j * (c.order + 1) + i) else 0)) ++ List.replicate (c.wa % (c.order + 1)) 0 :=
  c.jetLanes_cells (cell := fun j i => if i ≤ k then c.aw (j * (c.order + 1) + i) else 0) (fun j _ h => Ctx.word_co_truncate h j)

end jets

/-- Settles O11: JGET, JPUT and JTRUNC by the coefficients of each jet that they keep, the derivative and the integral as operations by
whole jets. -/
theorem jetInstructions : Obligations.JetInstructions := by
  unfold Obligations.JetInstructions
  intro n d w k from5 scaled factorial none2 jets built cell
  have order (c : Ctx) : d c = c.order := rfl
  have index {c : Ctx} {opc : BitVec 10} (hv : c.v = viewD opc n) : c.v.bits 6 3 = k := Ctx.bits_eq hv 6 3
  have scale {c : Ctx} {opc : BitVec 10} (hv : c.v = viewD opc n) : (c.v.bits 9 1 = 1) = (scaled = true) := Ctx.flag_eq hv 9
  refine ⟨completes_of_done (fun _ => rfl) ?ord, completes_of_done (fun _ => rfl) ?seed, completes_of_done (fun _ => rfl) ?const,
    completes_of_done (fun _ => rfl) ?get, completes_of_done (fun _ => rfl) ?putBeyond, completes_of_done (fun _ => rfl) ?put,
    completes_of_mapJet (fun m d a _ => jetDiff m d a) (fun _ => rfl), completes_of_done (fun _ => rfl) ?intg,
    completes_of_done (fun _ => rfl) ?truncNothing, completes_of_done (fun _ => rfl) ?trunc, completes_of_done (fun _ => rfl) ?flag⟩
  case ord =>
    intro _ c hv _
    rw [Ctx.bits_eq hv, Ctx.setOrder, BitVec.ofNat_toNat, BitVec.setWidth_eq]
    rfl
  case seed =>
    intro _ c hv _
    simp only [Ctx.buildJets_eq, Ctx.bits_eq hv, Ctx.ary_eq hv, apply_ite word]
    rfl
  case const =>
    intro _ c hv _
    simp only [Ctx.buildJets_eq, Ctx.bits_eq hv]
    rfl
  case get =>
    intro _ c hv _
    simp only [scale hv, index hv, order, Ctx.rnd_eq hv, Ctx.emitF_eq, List.map_map, orAll, List.foldl_map, Function.comp_def]
    by_cases beyond : c.order < k
    · simp only [if_pos beyond, Nat.not_le.2 beyond, and_false, if_false, foldl_or_zero]
      rfl
    · have inside : k ≤ c.order := Nat.not_lt.1 beyond
      simp only [if_neg beyond, inside, and_true, Ctx.co_aJet inside, foldl_scaled_flags, word_scaled, word_lane]
      rfl
  case putBeyond =>
    intro _ c hv beyond
    rw [order] at beyond
    simp only [index hv, if_pos beyond]
    rfl
  case put =>
    intro _ c hv inside
    rw [order] at inside
    simp only [scale hv, index hv, if_neg (Nat.not_lt.2 inside), Ctx.rnd_eq hv, map_zipIdx_map_range, Ctx.emitF_eq,
      Ctx.jetLanes_listSet, jetFlags, List.foldl_map, ← c.bw_toNat, foldl_scaled_flags, word_scaled, word_lane]
    rfl
  case intg =>
    intro _ c hv typ
    rw [Ctx.mapJet_eq_jetFloats ((Ctx.typ_eq hv).trans typ), Ctx.ary_eq hv]
    rfl
  case truncNothing =>
    intro _ c hv beyond
    rw [order] at beyond
    simp only [index hv, if_pos beyond]
    rfl
  case trunc =>
    rintro _ c hv ⟨inside, -⟩
    rw [order] at inside
    simp only [index hv, if_neg (Nat.not_le.2 inside), Ctx.mapJet, Ctx.jetLanes_truncate, Ctx.emitF_eq,
      jetFlags, List.foldl_map, foldl_or_zero, Ctx.flagged_zero]
    rfl
  case flag =>
    intro _ c hv _
    simp only [Ctx.flag_eq hv]
    rfl

end Sys2Proof.Machine
end

section
/-! PROOFS. Steering (09 R233, R234): where an instruction parks, and the predicate that STEER and GATE read. -/
namespace Sys2Proof.Machine
open Sys2Proof

/-- An instruction parks where its operation waits for a colour or an iteration, on every context of its record. -/
theorem parks_of_park {i : Instr} {v : NV} {body : Ctx → FireRes} {ok : Ctx → Prop} {colour : Bool}
    (hi : ∀ s, exec i s = fire v s body) (h : ∀ c : Ctx, c.v = v → ok c → body c = .park colour) : Parks i v ok colour := by
  intro s f p x regs t tag issues holds
  rw [hi, fire_issues issues, h _ rfl holds]
  rfl

section predicate
variable {c : Ctx} {opc : BitVec 10} {n : Node} (hv : c.v = viewD opc n)
include hv

theorem Ctx.predTok_eq : c.predTok = if n.ary = .dyad then c.bTok else c.f.a := by rw [Ctx.predTok, Ctx.ary_eq hv]

theorem Ctx.pred_eq : c.pred = ((tlane (if n.ary = .dyad then c.bTok else c.f.a) 0).getLsbD 0 != n.lit.getLsbD 0) := by
  rw [Ctx.pred, Ctx.predTok_eq hv, hv, viewD_bit]

end predicate

/-- A STEER with a poisoned predicate traps, and the streams that it governs are resolved as not taken in the state in which it
issued (09 R233). -/
theorem exec_steer_of_poison {n : Node} {s : State} {f : Firing} {p : Pitch} {x : LCore} {regs : ColourRegs} {t : State} {tag : DWord}
    (issues : Issues (viewD 0x001 n) s f p x regs t tag)
    (poisoned : (issueCtx (viewD 0x001 n) f p x regs t tag).predTok.poison = true) : exec (.steer n) s =
      .next ((s.resolveRa f.asid f.lc f.node f.tag none).firingTraps f 0x001 .poisonConsumed 0x01) := by
  show execSteer n s = _
  rw [execSteer, fire_issues issues, if_pos poisoned]
  rfl

/-- Settles O12: STEER and GATE branch on the poison and on the value of their predicate; the others emit their operands. -/
theorem steering : Obligations.Steering := by
  unfold Obligations.Steering
  intro n predicate p b0
  have token {c : Ctx} {opc : BitVec 10} (hv : c.v = viewD opc n) : c.predTok = predicate c := Ctx.predTok_eq hv
  have value {c : Ctx} {opc : BitVec 10} (hv : c.v = viewD opc n) : c.pred = p c := Ctx.pred_eq hv
  have dyadic {c : Ctx} {opc : BitVec 10} (hv : c.v = viewD opc n) (dyad : n.ary = .dyad) : c.predTok = c.bTok :=
    (Ctx.predTok_eq hv).trans (if_pos dyad)
  refine ⟨completes_of_done (fun _ => rfl) fun _ _ _ _ => rfl, ?steer, ?steerTraps,
    completes_of_done (fun _ => rfl) fun _ _ _ _ => rfl, completes_of_done (fun _ => rfl) fun _ _ _ _ => rfl,
    completes_of_done (fun _ => rfl) ?gate, traps_of_trap (fun _ => rfl) ?gateTraps,
    completes_of_done (fun _ => rfl) fun _ _ _ _ => rfl⟩
  case steer =>
    intro s f q x regs t tag issues clean
    have clean : ¬ (issueCtx (viewD 0x001 n) f q x regs t tag).predTok.poison = true := by
      rw [token rfl, clean]; exact Bool.false_ne_true
    refine fire_done issues _ ?_
    rw [if_neg clean, value rfl]
  case steerTraps =>
    intro s f q x regs t tag issues poisoned
    exact exec_steer_of_poison issues ((congrArg Token.poison (token rfl)).trans poisoned)
  case gate =>
    rintro _ c hv ⟨dyad, clean⟩
    have clean : ¬ c.predTok.poison = true := by rw [dyadic hv dyad, clean]; exact Bool.false_ne_true
    have value : c.pred = b0 c := by rw [Ctx.pred_eq hv, if_pos dyad]
    rw [if_neg clean, value]
    split <;> rfl
  case gateTraps =>
    rintro c hv ⟨dyad, poisoned⟩
    exact if_pos ((congrArg Token.poison (dyadic hv dyad)).trans poisoned)

end Sys2Proof.Machine
end

section
/-! PROOFS. Loops (09 R236 to R238): the fields of an iteration stack that LENTER, LNEXT and LEXIT change, and the iteration that a loop
instruction creates, waits for or retires. -/
namespace Sys2Proof.Machine
open Sys2Proof

theorem fitsAll_cons (w u : Nat) (ws us : List Nat) : fitsAll (w :: ws) (u :: us) = (decide (u < 2 ^ w) && fitsAll ws us) := rfl

theorem Ctx.fits_eq (c : Ctx) (us : List Nat) : c.fits us = fitsAll c.ws us := by
  rw [Bool.eq_iff_iff, fitsAll_iff]
  simp [Ctx.fits]

/-- The fields that LENTER makes of a stack: one pushed, and set to the literal (09 R237). -/
def enterFields (start : Nat) (ws vs : List Nat) : Except Nat (List Nat) :=
  match pushFields ws vs with
  | .error d => .error d
  | .ok r => setField0 ws r start

section enter
variable {w start : Nat} {ws vs : List Nat}

theorem enterFields_of_fits (last : vs.getLastD 0 = 0) (fit : fitsAll (w :: ws) (start :: vs.dropLast) = true) :
    enterFields start (w :: ws) vs = .ok (start :: vs.dropLast) := by
  rw [fitsAll_cons, Bool.and_eq_true, decide_eq_true_eq] at fit
  have pushed : fitsAll (w :: ws) (0 :: vs.dropLast) = true := by
    rw [fitsAll_cons, fit.2, decide_eq_true (Nat.two_pow_pos w)]; rfl
  rw [enterFields, pushFields_of_fits last pushed]
  exact if_pos fit.1

theorem enterFields_of_full (last : vs.getLastD 0 ≠ 0) : enterFields start ws vs = .error 2 := by
  rw [enterFields, pushFields, if_pos last]

theorem enterFields_of_misfit (last : vs.getLastD 0 = 0) (misfit : ¬ fitsAll ws (0 :: vs.dropLast) = true) :
    enterFields start ws vs = .error 3 := by
  rw [enterFields, pushFields_of_misfit last misfit]

theorem enterFields_of_wide (last : vs.getLastD 0 = 0) (fit : fitsAll (w :: ws) (0 :: vs.dropLast) = true) (wide : 2 ^ w ≤ start) :
    enterFields start (w :: ws) vs = .error 4 := by
  rw [enterFields, pushFields_of_fits last fit]
  exact if_neg (Nat.not_lt.2 wide)

end enter

section stack
variable {c : Ctx}

/-- A stack with fields has an innermost one, whose value is in its range. -/
theorem Ctx.stack_of_ws_ne_nil (h : c.ws ≠ []) :
    ∃ w ws u us, c.ws = w :: ws ∧ c.stack = u :: us ∧ u < 2 ^ w := by
  unfold Ctx.stack
  cases hw : c.ws with
  | nil => exact absurd hw h
  | cons w ws => exact ⟨w, ws, _, _, rfl, rfl, Nat.mod_lt _ (Nat.two_pow_pos w)⟩

variable {op : List Nat → List Nat → Except Nat (List Nat)}

theorem Ctx.retag_of_ok {us : List Nat} (h : op c.ws c.stack = .ok us) : retag c.ws c.f.tag op = .ok (c.tagWith us) := by
  rw [retag, show op c.ws (stackFields c.ws (tagStack c.f.tag)) = .ok us from h]; rfl

theorem Ctx.retag_of_error {d : Nat} (h : op c.ws c.stack = .error d) : retag c.ws c.f.tag op = .error d := by
  rw [retag, show op c.ws (stackFields c.ws (tagStack c.f.tag)) = .error d from h]

/-- A firing may create an iteration where LIMIT is 0 or not reached (09 R236). -/
theorem quotaFree_iff (r : ColourRegs) : quotaFree r = true ↔ r.limit = 0 ∨ r.live ≠ r.limit := by
  simp [quotaFree]

/-- A loop instruction with an iteration to give counts it and sends a under the changed tag (09 R236, R237). -/
theorem Ctx.enterLoop_of_free {us : List Nat} (h : op c.ws c.stack = .ok us) (free : c.regs.limit = 0 ∨ c.regs.live ≠ c.regs.limit) :
    c.enterLoop op = .done c.createInst (c.aTagged (c.tagWith us)) := by
  rw [Ctx.enterLoop, Ctx.retag_of_ok h]
  exact if_pos ((quotaFree_iff c.regs).2 free)

theorem Ctx.enterLoop_of_full {us : List Nat} (h : op c.ws c.stack = .ok us)
    (full : ¬ (c.regs.limit = 0 ∨ c.regs.live ≠ c.regs.limit)) : c.enterLoop op = .park false := by
  rw [Ctx.enterLoop, Ctx.retag_of_ok h]
  exact if_neg (fun free => full ((quotaFree_iff c.regs).1 free))

theorem Ctx.enterLoop_of_error {d : Nat} (h : op c.ws c.stack = .error d) : c.enterLoop op = .trap .tagWrap d := by
  rw [Ctx.enterLoop, Ctx.retag_of_error h]

/-- The innermost field of a stack counts on while its range allows it (09 R237). -/
theorem Ctx.incFields_of_lt (h : c.ws ≠ []) (room : c.stack.headD 0 + 1 < 2 ^ c.ws.headD 0) :
    incFields c.ws c.stack = .ok ((c.stack.headD 0 + 1) :: c.stack.drop 1) := by
  obtain ⟨w, ws, u, us, hw, hs, -⟩ := Ctx.stack_of_ws_ne_nil h
  rw [hw, hs] at room ⊢
  have room : u + 1 < 2 ^ w := room
  exact if_neg (by omega)

theorem Ctx.incFields_of_eq (h : c.ws ≠ []) (last : c.stack.headD 0 + 1 = 2 ^ c.ws.headD 0) : incFields c.ws c.stack = .error 1 := by
  obtain ⟨w, ws, u, us, hw, hs, -⟩ := Ctx.stack_of_ws_ne_nil h
  rw [hw, hs] at last ⊢
  have last : u + 1 = 2 ^ w := last
  exact if_pos (by omega)

end stack

/-- LENTER's operation, by the fields that it makes. -/
theorem exec_lenter_eq (n : Node) (s : State) :
    exec (.lenter n) s = fire (viewD 0x006 n) s (fun c => c.enterLoop (enterFields (c.v.bits 0 16))) := rfl

/-- Settles O13: what each loop instruction makes of the fields of its stack, then the iteration that it creates, waits for or
retires. -/
theorem loops : Obligations.Loops := by
  unfold Obligations.Loops
  intro n free live retired start pushed enters steps popped
  have first {c : Ctx} (hv : c.v = viewD 0x006 n) : c.v.bits 0 16 = start := Ctx.bits_eq hv 0 16
  have entered {c : Ctx} (hv : c.v = viewD 0x006 n) (h : enters c) :
      enterFields (c.v.bits 0 16) c.ws c.stack = .ok (pushed c) := by
    obtain ⟨some, last, fit⟩ := h
    obtain ⟨w, ws, -, -, hw, -, -⟩ := Ctx.stack_of_ws_ne_nil some
    rw [Ctx.fits_eq] at fit
    rw [first hv, hw]
    exact enterFields_of_fits last (hw ▸ fit)
  have stepped {c : Ctx} (h : steps c) : incFields c.ws c.stack = .ok ((c.stack.headD 0 + 1) :: c.stack.drop 1) :=
    Ctx.incFields_of_lt h.1 h.2
  refine ⟨completes_of_done (exec_lenter_eq n) ?enter, parks_of_park (exec_lenter_eq n) ?enterWaits,
    traps_of_trap (exec_lenter_eq n) ?enterFull, traps_of_trap (exec_lenter_eq n) ?enterMisfit,
    traps_of_trap (exec_lenter_eq n) ?enterWide, completes_of_done (fun _ => rfl) ?next, parks_of_park (fun _ => rfl) ?nextWaits,
    traps_of_trap (fun _ => rfl) ?nextLast, completes_of_done (fun _ => rfl) ?exit, traps_of_trap (fun _ => rfl) ?exitMisfit,
    completes_of_done (fun _ => rfl) fun _ _ _ _ => rfl, completes_of_done (fun _ => rfl) fun _ _ _ _ => rfl⟩
  case enter => exact fun _ c hv h => Ctx.enterLoop_of_free (entered hv h.2) h.1
  case enterWaits => exact fun c hv h => Ctx.enterLoop_of_full (entered hv h.2) h.1
  case enterFull => exact fun c _ h => Ctx.enterLoop_of_error (enterFields_of_full h.2)
  case enterMisfit =>
    rintro c - ⟨-, last, misfit⟩
    rw [Ctx.fits_eq] at misfit
    exact Ctx.enterLoop_of_error (enterFields_of_misfit last misfit)
  case enterWide =>
    rintro c hv ⟨some, last, fit, wide⟩
    obtain ⟨w, ws, -, -, hw, -, -⟩ := Ctx.stack_of_ws_ne_nil some
    rw [Ctx.fits_eq, hw] at fit
    rw [hw] at wide
    refine Ctx.enterLoop_of_error ?_
    rw [first hv, hw]
    exact enterFields_of_wide last fit wide
  case next => exact fun _ c _ h => Ctx.enterLoop_of_free (stepped h.2) h.1
  case nextWaits => exact fun c _ h => Ctx.enterLoop_of_full (stepped h.2) h.1
  case nextLast => exact fun c _ h => Ctx.enterLoop_of_error (Ctx.incFields_of_eq h.1 h.2)
  case exit =>
    rintro _ c - ⟨-, fit⟩
    have kept : popFields c.ws c.stack = .ok (popped c) := if_pos ((c.fits_eq _).symm.trans fit)
    rw [Ctx.retag_of_ok kept]
    rfl
  case exitMisfit =>
    rintro c - ⟨-, misfit⟩
    rw [Ctx.fits_eq] at misfit
    have lost : popFields c.ws c.stack = .error 3 := if_neg misfit
    rw [Ctx.retag_of_error lost]

end Sys2Proof.Machine
end

section
/-! PROOFS. Colours (09 R241 to R243; 02 R47): what an allocation gives, and the token that RET sends to the continuation. -/
namespace Sys2Proof.Machine
open Sys2Proof

section continuation
variable (c : Ctx) (k : BitVec 128)

/-- The core that a continuation names (09 Table 4). -/
theorem contCore_eq : k.toNat / 2 ^ 64 % 2 ^ 17 = (k.extractLsb' 64 17).toNat := by
  rw [BitVec.extractLsb'_toNat, Nat.shiftRight_eq_div_pow]

/-- The token that RET makes of a (09 R243). -/
def Ctx.backToken (c : Ctx) (k : BitVec 128) : Token :=
  { c.f.a with rsv := false, dcore := k.extractLsb' 64 17, dnode := k.extractLsb' 81 12, dport := k.getLsbD 93,
               vc := k.extractLsb' 94 3, tc := k.extractLsb' 97 2, act := k.extractLsb' 99 3,
               tag := k.extractLsb' 0 64, asid := BitVec.ofNat 12 c.f.asid, mark := 0, eosl := 0,
               hb := c.s.liveHb c.f.hb }

/-- RET's token goes by the mesh unless the continuation names the firing's own core (02 R47; 09 R243). -/
theorem Ctx.sendCont_backToken (opc : BitVec 10) :
    c.s.sendCont c.f opc (contToken c.f.asid k { c.f.a with mark := 0, eosl := 0 }) =
      if coreDst c.f.asid (k.extractLsb' 64 17).toNat = .lcore c.f.asid c.f.lc then
        c.s.sendOff (.lcore c.f.asid c.f.lc) (coreDst c.f.asid (k.extractLsb' 64 17).toNat) (c.backToken k)
      else (c.upd (fun x => x.handed (c.backToken k))).sendAs (some (c.f.lc, trapNode c.f.node c.f.port opc))
        (.lcore c.f.asid c.f.lc) (coreDst c.f.asid (k.extractLsb' 64 17).toNat) (c.backToken k) := by
  simp only [State.sendCont, contToken, contCore_eq, BitVec.ofNat_toNat, BitVec.setWidth_eq]
  rfl

end continuation

/-- Settles O14: an allocation gives a colour or none, RET's continuation is valid or not, and a free names a colour that may be freed
or not. -/
theorem colourInstructions : Obligations.ColourInstructions := by
  unfold Obligations.ColourInstructions
  intro n called plain after taken colour k core back named
  have name (c : Ctx) : c.aLane 0 % 65536 = named c := rfl
  refine ⟨completes_of_done (fun _ => rfl) ?call, parks_of_park (fun _ => rfl) ?callWaits, completes_of_done (fun _ => rfl) ?ret,
    traps_of_trap (fun _ => rfl) ?retColour0, traps_of_trap (fun _ => rfl) ?retNowhere, completes_of_done (fun _ => rfl) ?cfree,
    traps_of_trap (fun _ => rfl) ?cfreeColour0, completes_of_done (fun _ => rfl) ?alloc, parks_of_park (fun _ => rfl) ?allocWaits,
    completes_of_done (fun _ => rfl) ?free, traps_of_trap (fun _ => rfl) ?freePoison, traps_of_trap (fun _ => rfl) ?freeColour0,
    traps_of_trap (fun _ => rfl) ?freeUnallocated⟩
  case call =>
    intro _ c _ given
    obtain ⟨r, hr⟩ := Option.isSome_iff_exists.1 given
    have hr : c.allocate (contOfCall c.f.lc c.x c.p c.v c.f.tag) = some r := hr
    simp only [called, hr]
    rfl
  case callWaits =>
    intro c _ starved
    have hr : c.allocate (contOfCall c.f.lc c.x c.p c.v c.f.tag) = none := Option.isNone_iff_eq_none.1 starved
    rw [hr]
  case ret =>
    rintro _ c - ⟨some, valid⟩
    exact (if_neg some).trans ((if_pos valid).trans
      (congrArg (fun s => FireRes.done (s.freeColour c.f.asid c.f.lc (colour c)) []) (c.sendCont_backToken (k c) 0x00C)))
  case retColour0 => exact fun c _ none => if_pos none
  case retNowhere =>
    rintro c - ⟨some, invalid⟩
    exact (if_neg some).trans (if_neg (Bool.not_eq_true _ ▸ invalid))
  case cfree => exact fun _ c _ some => if_neg some
  case cfreeColour0 => exact fun c _ none => if_pos none
  case alloc =>
    intro _ c _ given
    obtain ⟨r, hr⟩ := Option.isSome_iff_exists.1 given
    have hr : c.allocate ((0 : BitVec 64) ++ c.f.tag) = some r := hr
    simp only [plain, hr]
    rfl
  case allocWaits =>
    intro c _ starved
    have hr : c.allocate ((0 : BitVec 64) ++ c.f.tag) = none := Option.isNone_iff_eq_none.1 starved
    rw [hr]
  case free =>
    rintro _ c - ⟨clean, some, allocated⟩
    have clean : ¬ c.f.a.poison = true := by rw [clean]; exact Bool.false_ne_true
    refine (if_neg clean).trans ((if_neg some).trans (if_neg ?_))
    rw [name, Option.isNone_iff_eq_none]
    exact Option.isSome_iff_ne_none.1 allocated
  case freePoison => exact fun c _ poisoned => if_pos poisoned
  case freeColour0 =>
    rintro c - ⟨clean, none⟩
    have clean : ¬ c.f.a.poison = true := by rw [clean]; exact Bool.false_ne_true
    exact (if_neg clean).trans (if_pos none)
  case freeUnallocated =>
    rintro c - ⟨clean, some, unallocated⟩
    have clean : ¬ c.f.a.poison = true := by rw [clean]; exact Bool.false_ne_true
    exact (if_neg clean).trans ((if_neg some).trans (if_pos unallocated))

end Sys2Proof.Machine
end

section
/-! PROOFS. Tags and end of stream (09 R232, R245 to R247): the fault of a tag, the three forms of TAGSET, and what SINK counts. -/
namespace Sys2Proof.Machine
open Sys2Proof

section tags
variable {s : State} {asid lc : Nat} {tag : DWord} {p : Pitch} {r : ColourRegs}

theorem State.tagFault_of_within (hp : s.pitch? asid = some p) (hr : s.colourRegs asid lc (tagColour tag) = some r)
    (h : tagStack tag < 2 ^ shapeBits (p.widths r.shape.toNat)) : s.tagFault asid lc tag = none := by
  simp only [State.tagFault, hp, hr, if_neg (Nat.not_le.2 h)]

theorem State.tagFault_of_beyond (hp : s.pitch? asid = some p) (hr : s.colourRegs asid lc (tagColour tag) = some r)
    (h : 2 ^ shapeBits (p.widths r.shape.toNat) ≤ tagStack tag) : s.tagFault asid lc tag = some (.tagWrap, 0x06) := by
  simp only [State.tagFault, hp, hr, if_pos h]

theorem State.tagFault_of_unallocated (hr : s.colourRegs asid lc (tagColour tag) = none) :
    s.tagFault asid lc tag = some (.accessFault, 0x22) := by
  unfold State.tagFault
  split
  next some => rw [hr] at some; cases some
  next => rfl

end tags

/-- What TAGSET does with the tag that it is given whole (09 R246). -/
def Ctx.setTag (c : Ctx) (t : DWord) : FireRes :=
  match c.s.tagFault c.f.asid c.f.lc t with
  | some (cause, d) => .trap cause d
  | none => c.passTag c.s t

/-- What TAGSET does with field `f` of the firing's stack (09 R246). -/
def Ctx.setField (c : Ctx) (f v : Nat) : FireRes :=
  if c.ws.length ≤ f then .trap .tagWrap 0x05
  else if 2 ^ c.ws.getD f 0 ≤ v then .trap .tagWrap 0x04
  else c.passTag c.s (c.tagWith (listSet c.stack f v))

/-- TAGSET by the form of its tag: from port b, with a colour from the literal, or with a field from the literal (09 R246). -/
def Ctx.tagset (c : Ctx) : FireRes :=
  if c.v.ary = .dyad then
    if c.bTok.poison then .trap .poisonConsumed 0x02 else c.setTag (tlane c.bTok 1 ++ tlane c.bTok 0)
  else if c.v.bits 19 1 = 1 then c.setTag (mkTag (c.v.bits 20 16) (tagStack c.f.tag))
  else c.setField (c.v.bits 0 3) (c.v.bits 3 16)

theorem exec_tagset_eq (l : NodeL) (s : State) : exec (.tagset l) s = fire (viewL 0x00F l) s Ctx.tagset := rfl

theorem Ctx.setTag_of_fault {c : Ctx} {t : DWord} {cause : Cause} {d : Nat}
    (h : c.s.tagFault c.f.asid c.f.lc t = some (cause, d)) : c.setTag t = .trap cause d := by
  rw [Ctx.setTag, h]

theorem Ctx.setTag_of_none {c : Ctx} {t : DWord} (h : c.s.tagFault c.f.asid c.f.lc t = none) :
    c.setTag t = .done c.s (c.aTagged t) := by
  rw [Ctx.setTag, h]; rfl

section fields
variable {c : Ctx} {opc : BitVec 10} {l : NodeL} (hv : c.v = viewL opc l)
include hv

/-- The fields of a Format-L record in its view (02 R41). -/
theorem Ctx.bits_eq_of_viewL (lo k : Nat) : c.v.bits lo k = (l.lit.extractLsb' lo k).toNat := by rw [hv, viewL_bits]

theorem Ctx.ary_eq_of_viewL : c.v.ary = l.ary := congrArg NV.ary hv

theorem Ctx.flag_eq_of_viewL (k : Nat) : (c.v.bits k 1 = 1) = (l.lit.getLsbD k = true) := by
  rw [Ctx.bits_eq_of_viewL hv, BitVec.getLsbD_eq_extractLsb', beq_iff_eq, ← BitVec.toNat_inj]
  rfl

end fields

/-- A count that saturates at its sixteen bits reaches a number of sixteen bits when it stands one below it. -/
theorem sink_reaches {k many : Nat} (h : many < 65536) : k < many ∧ min (k + 1) 65535 = many ↔ k + 1 = many := by omega

/-- Settles O15: TAGSET by its three forms, SINK by whether the token counts and whether it is the last to be counted. -/
theorem tagsAndEndOfStream : Obligations.TagsAndEndOfStream := by
  unfold Obligations.TagsAndEndOfStream
  intro n l t named byTag byField shapeOf pitch within beyond f v level many counted before bumped reports
  have whole {c : Ctx} (hv : c.v = viewL 0x00F l) (h : byTag c) : c.tagset = c.setTag (named c) := by
    simp only [Ctx.tagset, Ctx.ary_eq_of_viewL hv, Ctx.flag_eq_of_viewL hv]
    rcases h with ⟨dyad, clean⟩ | ⟨mono, colour⟩
    · simp only [named, dyad, clean, if_true, Bool.false_eq_true, if_false]
    · simp only [named, mono, colour, reduceCtorEq, if_true, if_false, Ctx.bits_eq_of_viewL hv]
      rfl
  have inner {c : Ctx} (hv : c.v = viewL 0x00F l) (h : byField) : c.tagset = c.setField f v := by
    obtain ⟨mono, field⟩ := h
    simp only [Ctx.tagset, Ctx.ary_eq_of_viewL hv, Ctx.flag_eq_of_viewL hv, mono, field, reduceCtorEq, Bool.false_eq_true, if_false]
    rw [Ctx.bits_eq_of_viewL hv, Ctx.bits_eq_of_viewL hv]
  have counts {c : Ctx} (hv : c.v = viewD 0x011 n) : (isEos c.f.a = true ∧ c.f.a.eosl.toNat = c.v.bits 0 4) = counted c := by
    rw [Ctx.bits_eq hv, BitVec.toNat_inj]
  have last {c : Ctx} (hv : c.v = viewD 0x011 n) : (before c < c.v.bits 8 16 ∧ Nat.min (before c + 1) 65535 = c.v.bits 8 16 ∧
      ¬ c.p.sinksDone.contains (c.f.lc, c.f.node) = true) = reports c := by
    rw [Ctx.bits_eq hv, List.contains_iff_mem, ← and_assoc]
    exact congrArg (· ∧ _) (propext (sink_reaches (BitVec.isLt _)))
  refine ⟨completes_of_done (fun _ => rfl) ?get, completes_of_done (exec_tagset_eq l) ?set, traps_of_trap (exec_tagset_eq l) ?setBeyond,
    traps_of_trap (exec_tagset_eq l) ?setUnallocated, traps_of_trap (exec_tagset_eq l) ?setPoison,
    completes_of_done (exec_tagset_eq l) ?field, traps_of_trap (exec_tagset_eq l) ?noField, traps_of_trap (exec_tagset_eq l) ?wideField,
    completes_of_done (fun _ => rfl) ?eos, completes_of_done (fun _ => rfl) ?sinkOther, completes_of_done (fun _ => rfl) ?sinkCounts,
    completes_of_done (fun _ => rfl) ?sinkReports, completes_of_done (fun _ => rfl) ?purge⟩
  case get =>
    intro _ c hv _
    simp only [Ctx.flag_eq hv]
    rw [Ctx.bits_eq hv]
    rfl
  case set =>
    rintro _ c hv ⟨form, fits⟩
    rw [whole hv form]
    refine Ctx.setTag_of_none ?_
    simp only [within] at fits
    split at fits
    next p r hp hr => exact State.tagFault_of_within hp hr (of_decide_eq_true fits)
    next => cases fits
  case setBeyond =>
    rintro c hv ⟨form, wide⟩
    rw [whole hv form]
    refine Ctx.setTag_of_fault ?_
    simp only [beyond] at wide
    split at wide
    next p r hp hr => exact State.tagFault_of_beyond hp hr (of_decide_eq_true wide)
    next => cases wide
  case setUnallocated =>
    rintro c hv ⟨form, none⟩
    rw [whole hv form]
    exact Ctx.setTag_of_fault (State.tagFault_of_unallocated (Option.isNone_iff_eq_none.1 none))
  case setPoison =>
    rintro c hv ⟨dyad, poisoned⟩
    exact (if_pos ((Ctx.ary_eq_of_viewL hv).trans dyad)).trans (if_pos poisoned)
  case field =>
    rintro _ c hv ⟨form, inside, fits⟩
    rw [inner hv form, Ctx.setField, listSet_eq_set]
    exact (if_neg (Nat.not_le.2 inside)).trans (if_neg (Nat.not_le.2 fits))
  case noField =>
    rintro c hv ⟨form, outside⟩
    rw [inner hv form]
    exact if_pos outside
  case wideField =>
    rintro c hv ⟨form, inside, wide⟩
    rw [inner hv form]
    exact (if_neg (Nat.not_le.2 inside)).trans (if_pos wide)
  case eos =>
    intro _ c hv _
    simp only [Ctx.bits_eq hv, BitVec.ofNat_toNat, BitVec.setWidth_eq]
    rfl
  case sinkOther =>
    intro _ c hv other
    rw [← counts hv] at other
    exact if_neg other
  case sinkCounts =>
    rintro _ c hv ⟨counted, more⟩
    rw [← counts hv] at counted
    rw [← last hv] at more
    exact (if_pos counted).trans (if_neg more)
  case sinkReports =>
    rintro _ c hv ⟨counted, done⟩
    rw [← counts hv] at counted
    rw [← last hv] at done
    refine (if_pos counted).trans ((if_pos done).trans ?_)
    rw [Ctx.bits_eq hv]
    rfl
  case purge =>
    intro _ c hv _
    rw [hv, viewD_bit, viewD_bit, viewD_bits]
    cases isEos c.f.a <;> rfl

end Sys2Proof.Machine
end

section
/-! PROOFS. Traps, breakpoints and events (09 R248; 06 R177): what stops a BRK. -/
namespace Sys2Proof.Machine
open Sys2Proof

/-- Settles O16: TRAP and EVENT emit a; BRK branches on the poison and on the value of its predicate, and under ARY 0 has none. -/
theorem trapsBreaksEvents : Obligations.TrapsBreaksEvents := by
  unfold Obligations.TrapsBreaksEvents
  intro n stops
  refine ⟨completes_of_done (fun _ => rfl) fun _ _ _ _ => rfl, completes_of_done (fun _ => rfl) ?passes,
    traps_of_trap (fun _ => rfl) ?breaks, traps_of_trap (fun _ => rfl) ?poison, completes_of_done (fun _ => rfl) fun _ _ _ _ => rfl⟩
  case passes =>
    rintro _ c hv ⟨dyad, clean, clear⟩
    have sound : ¬ (c.v.ary = .dyad ∧ c.bTok.poison = true) := fun h => by rw [clean] at h; cases h.2
    exact (if_neg sound).trans (if_pos ⟨(Ctx.ary_eq hv).trans dyad, clear⟩)
  case breaks =>
    intro c hv stop
    have ary := Ctx.ary_eq hv
    have sound : ¬ (c.v.ary = .dyad ∧ c.bTok.poison = true) := by
      rcases stop with mono | ⟨-, clean, -⟩
      · rw [ary, mono]; exact fun h => nomatch h.1
      · rw [clean]; exact fun h => nomatch h.2
    have set : ¬ (c.v.ary = .dyad ∧ (tlane c.bTok 0).getLsbD 0 = false) := by
      rcases stop with mono | ⟨-, -, set⟩
      · rw [ary, mono]; exact fun h => nomatch h.1
      · rw [set]; exact fun h => nomatch h.2
    refine (if_neg sound).trans ((if_neg set).trans ?_)
    rw [Ctx.bits_eq hv]
  case poison =>
    rintro c hv ⟨dyad, poisoned⟩
    exact if_pos ⟨(Ctx.ary_eq hv).trans dyad, poisoned⟩

end Sys2Proof.Machine
end

section
/-! PROOFS. Lane moves and width (09 R250, R252): parts of a token's lanes as maps over their places. -/
namespace Sys2Proof.Machine
open Sys2Proof

section lanes
variable {α : Type} (d : α) (l r : List α) (k : Nat)

theorem take_eq_map_getD : l.take k = (List.range (min k l.length)).map (l.getD · d) := by
  refine List.ext_getElem (by simp) (fun i hi _ => ?_)
  have inside : i < l.length := by rw [List.length_take] at hi; omega
  simp [inside]

theorem drop_eq_map_getD : l.drop k = (List.range (l.length - k)).map (fun i => l.getD (k + i) d) := by
  refine List.ext_getElem (by simp) (fun i hi _ => ?_)
  have inside : k + i < l.length := by rw [List.length_drop] at hi; omega
  simp [inside]

/-- A list at a width of its own, and another behind it (09 Table 5). -/
theorem getD_padTo_append (i : Nat) : (padTo d k l ++ r).getD i d = if i < k then l.getD i d else r.getD (i - k) d := by
  rw [padTo_eq_map_getD]
  by_cases inside : i < k
  · simp [inside, List.getElem?_append]
  · simp [inside, List.getElem?_append]

theorem take_padTo_append (m : Nat) : (padTo d k l ++ r).take m =
    (List.range (min m (k + r.length))).map (fun i => if i < k then l.getD i d else r.getD (i - k) d) := by
  rw [take_eq_map_getD d, List.length_append, length_padTo]
  simp only [getD_padTo_append]

/-- A list of a given width with one element replaced (09 Table 5). -/
theorem listSet_padTo (v : α) (w : Nat) :
    listSet (padTo d w l) k v = (List.range w).map (fun i => if i = k then v else l.getD i d) := by
  rw [listSet_eq_set, padTo_eq_map_getD]
  refine List.ext_getElem (by simp) (fun i _ _ => ?_)
  by_cases same : k = i
  · simp [same]
  · simp [same, Ne.symm same]

end lanes

/-- WIDTH's change of its core: the width of the colour is granted up to MAXW, and CLAMPED is set where that is less than asked for
(09 R252; 04 R106). -/
theorem LCore.grantWidth_eq (x : LCore) (colour w m : Nat) :
    (let y := x.updColour colour (fun r => { r with width := BitVec.ofNat 6 (Nat.min w m) })
     if m < w then { y with clamped := true } else y) =
      { x.updColour colour (fun r => { r with width := BitVec.ofNat 6 (min w m) }) with clamped := x.clamped || decide (m < w) } := by
  by_cases less : m < w
  · simp only [if_pos less, decide_eq_true less, Bool.or_true]
  · simp only [if_neg less, decide_eq_false less, Bool.or_false]
    rfl

theorem LCore.laneMax_toNat (x : LCore) : x.laneMax.toNat = if x.maxw = 0 ∨ 32 < x.maxw.toNat then 32 else x.maxw.toNat :=
  apply_ite BitVec.toNat _ _ _

/-- Settles O17: PACK, UNPACK and LPUT as maps over the places of their lanes, the others lane by lane. -/
theorem laneMoves : Obligations.LaneMoves := by
  unfold Obligations.LaneMoves
  intro n w wb six five at0 maxw
  have split {c : Ctx} (hv : c.v = viewD 0x042 n) : (if c.v.bits 6 1 = 1 then c.wa else c.v.bits 0 6) = at0 c := by
    simp only [Ctx.flag_eq hv]
    rw [Ctx.bits_eq hv]
    rfl
  refine ⟨completes_of_done (fun _ => rfl) ?pack, completes_of_done (fun _ => rfl) ?unpack, completes_of_done (fun _ => rfl) ?bcast,
    completes_of_done (fun _ => rfl) ?shuf, completes_of_done (fun _ => rfl) ?get, completes_of_done (fun _ => rfl) ?put,
    completes_of_done (fun _ => rfl) ?width⟩
  case pack =>
    intro _ c hv _
    simp only [split hv, take_padTo_append, Nat.min_comm 32]
    rfl
  case unpack =>
    intro _ c hv _
    simp only [Ctx.bits_eq hv, take_eq_map_getD 0 c.f.a.lanes, drop_eq_map_getD 0 c.f.a.lanes]
    rfl
  case bcast =>
    intro _ c hv _
    rw [Ctx.bits_eq hv, Ctx.bits_eq hv]
    rfl
  case shuf =>
    intro _ c _ _
    conv => lhs; rw [lanes_eq_map_tlane c.bTok, List.map_map]
    rfl
  case get =>
    intro _ c hv _
    rw [Ctx.ary_eq hv, Ctx.bits_eq hv]
    rfl
  case put =>
    intro _ c hv _
    simp only [Ctx.bits_eq hv, listSet_padTo]
    rfl
  case width =>
    intro _ c hv _
    have granted (x : LCore) := x.grantWidth_eq (tagColour c.f.tag) (six 0) (maxw c)
    rw [Ctx.bits_eq hv, LCore.laneMax_toNat]
    exact congrArg (FireRes.done · c.aBoth) (congrArg c.upd (funext granted))

end Sys2Proof.Machine
end

section
/-! PROOFS. The tag operation leaves the open chains of the firing's core: a colour that TGO 6 allocates comes from the pool and goes to
the cache and the table of colours (09 R241). -/
namespace Sys2Proof.Machine
open Sys2Proof

theorem LCore.cacheColour_insts (x : LCore) (asid lc : Nat) (q : List Firing) (c : Nat) (r : ColourRegs) :
    (x.cacheColour asid lc q c r).insts = x.insts := by
  unfold LCore.cacheColour
  simp only
  split
  · rfl
  · split <;> rfl

theorem Pitch.refill_insts {p : Pitch} {lc : Nat} {x : LCore} (hx : SMap.find p.lcores lc = some x) :
    ∃ y, SMap.find (p.refill lc).lcores lc = some y ∧ y.insts = x.insts := by
  unfold Pitch.refill
  simp only [hx]
  split
  · exact ⟨_, SMap.find_ins_self .., rfl⟩
  · exact ⟨x, hx, rfl⟩

theorem State.lc?_eq_some {s : State} {asid lc : Nat} {x : LCore} :
    s.lc? asid lc = some x ↔ ∃ p, s.pitch? asid = some p ∧ SMap.find p.lcores lc = some x := by
  unfold State.lc? State.pitch?
  cases SMap.find s.pitches asid <;> simp

section alloc
variable {s t : State} {asid lc : Nat} {x : LCore} (hx : s.lc? asid lc = some x)
include hx

theorem State.allocColour_insts {c : Nat} {regs : ColourRegs} {cont : BitVec 128}
    (h : s.allocColour asid lc regs cont = some (c, t)) : ∃ y, t.lc? asid lc = some y ∧ y.insts = x.insts := by
  simp only [State.allocColour, hx] at h
  split at h
  next => cases h
  next =>
    cases h
    obtain ⟨p, hp, found⟩ := State.lc?_eq_some.1 (State.updLC_lc? s asid lc
      (fun y => ({ y with pool := (poolTake 1 x.pool).2 } : LCore).cacheColour asid lc (s.cur.toList ++ s.readyQ x.core) c regs) x hx)
    obtain ⟨y, hy, insts⟩ := Pitch.refill_insts
      (p := { p with colours := SMap.ins p.colours c { regs := regs, cont := cont } }) found
    exact ⟨y, State.lc?_eq_some.2 ⟨_, State.updPitch_pitch? _ _ _ p hp, hy⟩, insts.trans (LCore.cacheColour_insts ..)⟩

theorem State.noteClamp_insts (clamp : Bool) : ∃ y, (s.noteClamp asid lc clamp).lc? asid lc = some y ∧ y.insts = x.insts := by
  cases clamp
  case false => exact ⟨x, hx, rfl⟩
  case true => exact ⟨_, State.updLC_lc? s asid lc _ x hx, rfl⟩

/-- The tag operation leaves the open chains of its core. -/
theorem State.tagOp_insts {p : Pitch} {maxw : BitVec 6} {regs : ColourRegs} {g : Tgo} {setN : Nat} {tag tag' : DWord}
    (h : s.tagOp asid lc p maxw regs g setN tag = .ok t tag') : ∃ y, t.lc? asid lc = some y ∧ y.insts = x.insts := by
  have fields {op} (hg : tgoFields setN g = some op) : t = s := by
    cases hop : op (p.widths regs.shape.toNat) (stackFields (p.widths regs.shape.toNat) (tagStack tag)) with
    | ok us => rw [tagOp_of_fields hg hop] at h; cases h; rfl
    | error d => rw [tagOp_of_wrap hg hop] at h; cases h
  cases g with
  | keep => cases h; exact ⟨x, hx, rfl⟩
  | inc | push | pop | zero | set => rw [fields rfl]; exact ⟨x, hx, rfl⟩
  | new =>
    cases ha : s.allocColour asid lc (newRegs maxw regs) ((0 : BitVec 64) ++ tag) with
    | none => rw [tagOp_new_of_starved ha] at h; cases h
    | some r =>
      obtain ⟨k, u⟩ := r
      rw [tagOp_new_of_alloc ha] at h
      cases h
      obtain ⟨y, hy, insts⟩ := State.allocColour_insts hx ha
      obtain ⟨z, hz, same⟩ := State.noteClamp_insts hy (decide (maxw.toNat < regs.width.toNat))
      exact ⟨z, hz, same.trans insts⟩
  | cont =>
    simp only [State.tagOp] at h
    split at h <;> cases h <;> exact ⟨x, hx, rfl⟩

end alloc

/-- The core of a context holds the open chains that its firing found. -/
def Ctx.KeepsInsts (c : Ctx) : Prop := ∀ y, c.s.lc? c.f.asid c.f.lc = some y → y.insts = c.x.insts

theorem Issues.keepsInsts {v : NV} {s : State} {f : Firing} {p : Pitch} {x : LCore} {regs : ColourRegs} {t : State} {tag : DWord}
    (h : Issues v s f p x regs t tag) : (issueCtx v f p x regs t tag).KeepsInsts := by
  intro y hy
  obtain ⟨z, hz, insts⟩ := State.tagOp_insts h.lcore h.tagop
  cases hy.symm.trans hz
  exact insts

/-- An instruction completes where its operation is done, on every context of its record whose core holds the open chains that the
firing found. -/
theorem completes_of_done_keepsInsts {i : Instr} {v : NV} {body : Ctx → FireRes} {ok : Ctx → Prop} {st : Ctx → State}
    {outs : Ctx → List Out} (hi : ∀ s, exec i s = fire v s body)
    (h : ∀ c : Ctx, c.v = v → c.KeepsInsts → ok c → body c = .done (st c) (outs c)) : Completes i v ok st outs := by
  intro s f p x regs t tag issues holds
  rw [hi]
  exact fire_done issues body (h _ rfl issues.keepsInsts holds)

/-- Two changes of a logical core that agree on it make the same state. -/
theorem State.updLC_congr {s : State} {asid lc : Nat} {f g : LCore → LCore} (h : ∀ x, s.lc? asid lc = some x → f x = g x) :
    s.updLC asid lc f = s.updLC asid lc g := by
  unfold State.updLC
  split
  next => rfl
  next p hp =>
    split
    next => rfl
    next x hx => rw [h x (State.lc?_eq_some.2 ⟨p, hp, hx⟩)]

end Sys2Proof.Machine
end

section
/-! PROOFS. Chain members at issue (02 R40; 04 R103; 14 R350 to R352): the fields of a wave literal, the place that a member finds, and the
wave buffer with it. -/
namespace Sys2Proof.Machine
open Sys2Proof

theorem toNat_field {n : Nat} (b : BitVec n) (lo k : Nat) : b.toNat / 2 ^ lo % 2 ^ k = (b.extractLsb' lo k).toNat := by
  rw [BitVec.extractLsb'_toNat, Nat.shiftRight_eq_div_pow]

theorem toNat_flag {n : Nat} (b : BitVec n) (k : Nat) : (b.toNat / 2 ^ k % 2 == 1) = b.getLsbD k :=
  Nat.testBit_eq_decide_div_mod_eq.symm.trans (BitVec.testBit_toNat b)

/-- Whether a member's numbers are the next to enter its chain, open or not (14 R351). -/
def nextMember (first own pred : Nat) : Option ChainInst → Bool
  | some i => i.names first own pred
  | none => own == first

theorem nextMember_eq (first own pred : Nat) (o : Option ChainInst) : nextMember first own pred o =
    match o.bind (·.last) with
    | none => own == first
    | some (last, sc) => sc != 0xFE && (if sc = 0xFF then pred == last else own == sc) := by
  cases o with
  | none => rfl
  | some i =>
    show i.names first own pred = match i.last with | none => _ | some (last, sc) => _
    unfold ChainInst.names
    cases i.last with
    | none => rfl
    | some e => by_cases last : e.2 = 0xFE <;> simp [last]

/-- Where a member's chain is not open, it is opened (14 R350, R352). -/
theorem LCore.addMem_eq (x : LCore) (m : MemAcc) (tile : LCore → LCore) : x.addMem m tile = tile { x with
    insts := if x.insts.any (fun i => i.isOf m) then x.insts
      else x.insts ++ [{ chain := m.chain, colour := tagColour m.fire.tag, stack := tagStack m.fire.tag, last := none,
                         owns := [], hb := [], hbAcq := [] }]
    mem := x.mem ++ [m]
    memId := m.id + 1 } := by
  unfold LCore.addMem
  cases x.insts.any (fun i => i.isOf m) <;> rfl

/-- The open chain of a member: that of its number, under the colour and the stack of its firing's tag (14 R350). -/
def Ctx.openChain (c : Ctx) (w : Node) : Option ChainInst :=
  c.x.insts.find? (fun i => i.chain == (w.lit.extractLsb' 24 4).toNat && i.colour == tagColour c.f.tag &&
    i.stack == tagStack c.f.tag)

section member
variable {c : Ctx} {w : Node}

/-- The member of a firing reads its wave literal field by field (02 R40; 14 R350). -/
theorem Ctx.member_eq_access (htyp : c.v.typ = w.typ) (hA : c.v.dstA = w.dstA) (hB : c.v.dstB = w.dstB) (ha : c.v.actA = w.actA)
    (hb : c.v.actB = w.actB) (kind : AccKind) (scope : Nat) (ps : List Part) :
    { c.member kind w.lit.toNat scope with parts := ps } = { c.access w kind ps with scope := scope } := by
  have chain : w.lit.toNat / 2 ^ 24 % 16 = (w.lit.extractLsb' 24 4).toNat := toNat_field w.lit 24 4
  have own : w.lit.toNat / 2 ^ 8 % 256 = (w.lit.extractLsb' 8 8).toNat := toNat_field w.lit 8 8
  have succ : w.lit.toNat / 2 ^ 16 % 256 = (w.lit.extractLsb' 16 8).toNat := toNat_field w.lit 16 8
  have pred : w.lit.toNat % 256 = (w.lit.extractLsb' 0 8).toNat :=
    (congrArg (· % 256) (Nat.div_one _).symm).trans (toNat_field w.lit 0 8)
  simp only [Ctx.member, Ctx.access, htyp, hA, hB, ha, hb, chain, own, succ, pred, toNat_flag]

variable {m : MemAcc} (hchain : m.chain = (w.lit.extractLsb' 24 4).toNat) (hown : m.own = (w.lit.extractLsb' 8 8).toNat)
  (hpred : m.pred = (w.lit.extractLsb' 0 8).toNat) (hfire : m.fire = c.f)
include hchain hfire

theorem Ctx.find?_isOf : c.x.insts.find? (fun i => i.isOf m) = c.openChain w := by
  simp only [ChainInst.isOf, hchain, hfire]
  rfl

/-- A member that stands in the wave buffer (14 R350, R352). -/
theorem Ctx.upd_addMem (keeps : c.KeepsInsts) (tile : LCore → LCore) : c.upd (fun x => x.addMem m tile) = c.withMember w m tile := by
  refine State.updLC_congr (fun y hy => ?_)
  have opened : y.insts.any (fun i => i.isOf m) = (c.openChain w).isSome := by
    rw [keeps y hy, Bool.eq_iff_iff, List.any_eq_true, ← List.find?_isSome, Ctx.find?_isOf hchain hfire]
  refine (LCore.addMem_eq y m tile).trans ?_
  simp only [opened, hfire]
  rfl

include hown hpred

/-- Whether the wave buffer takes a member (04 R103; 14 R352). -/
theorem Ctx.windowOk_eq : c.x.windowOk m = c.hasPlace w := by
  have first : c.x.waveFirst = (c.x.waveBase.extractLsb' 16 8).toNat := toNat_field c.x.waveBase 16 8
  have window : c.x.waveWindow = (c.x.waveBase.extractLsb' 24 6).toNat := toNat_field c.x.waveBase 24 6
  have fields : c.x.windowOk m =
      (((c.x.insts.find? (fun i => i.isOf m)).isSome || decide (c.x.insts.length < c.x.waveWindow)) &&
        (nextMember c.x.waveFirst m.own m.pred (c.x.insts.find? (fun i => i.isOf m)) ||
          decide ((c.x.mem.filter (fun m => !m.entered)).length < 256))) := rfl
  rw [fields, Ctx.find?_isOf hchain hfire, first, window, hown, hpred, nextMember_eq]
  exact congrArg (and _) (Bool.or_comm _ _)

/-- A member that the wave buffer admits stands in it (04 R103; 14 R351, R352). -/
theorem Ctx.submit_of_admits (admits : c.admits w = true) (keeps : c.KeepsInsts) (outs : List Out) (tile : LCore → LCore) :
    c.submit m outs tile = .done (c.withMember w m tile) outs := by
  simp only [Ctx.admits, Bool.and_eq_true, Bool.not_eq_true'] at admits
  obtain ⟨⟨enabled, fresh⟩, place⟩ := admits
  rw [Ctx.submit, Ctx.find?_isOf hchain hfire, hown, Ctx.windowOk_eq hchain hown hpred hfire, place,
    Ctx.upd_addMem hchain hfire keeps]
  refine (if_neg ?_).trans ((if_neg (Bool.eq_false_iff.1 fresh)).trans rfl)
  rw [hchain, show c.x.chainEn (w.lit.extractLsb' 24 4).toNat = true from enabled]
  exact Bool.false_ne_true

end member

end Sys2Proof.Machine
end

section
/-! PROOFS. LAUNCH and the extension record (09 R249; 14 R352; 02 R43, R58): the chain member of a LAUNCH. -/
namespace Sys2Proof.Machine
open Sys2Proof

/-- A LAUNCH record with the wave literal of its first extension record (09 R249). -/
def launchWave (n : Node) (e1 : BitVec 86) : Node := { n with lit := e1.extractLsb' 0 32 }

/-- The chain member of a LAUNCH (09 R249). -/
def Ctx.launchMember (c : Ctx) (n : Node) (e1 : BitVec 86) (ps : List Part) : MemAcc :=
  { c.access (launchWave n e1) .launch ps with scope := 3, rel := true, aux := (n.lit.extractLsb' 0 5).toNat }

/-- LAUNCH by the fields of its records: whether its pointer is in a, its address, and its wave literal's record (09 R249). -/
def Ctx.launch (c : Ctx) (byA : Bool) (va e1 : Nat) (member : List Part → MemAcc) : FireRes :=
  if byA ∧ c.f.a.poison then .trap .poisonConsumed 0x02
  else match partsOf (tagColour c.f.tag) false (piecesOf va 256) [] with
    | .error _ => .trap .accessFault 0x23
    | .ok ps =>
      if c.x.role = .ag then c.submit (member ps) [] id
      else if e1 ≠ 0 then .trap .illegalNode Diag.reserved.code
      else .done (c.upd (fun x => { x with mem := x.mem ++ [{ member ps with entered := true }], memId := (member ps).id + 1 }))
        [c.outA c.f.a.lanes c.f.a.poison]

theorem fire_congr {v : NV} {s : State} {body body' : Ctx → FireRes} (h : ∀ c : Ctx, c.v = v → body c = body' c) :
    fire v s body = fire v s body' := by
  simp only [fire, State.fireRes, h]

section fields
variable {n : Node} {e1 e2 : BitVec 86}

theorem Ctx.member_eq_launchMember {c : Ctx} (hv : c.v = viewX 0x016 n e1 e2) (ps : List Part) :
    { c.member .launch (c.v.x1 0 32) 3 with rel := true, parts := ps, aux := c.v.bits 0 5 } = c.launchMember n e1 ps := by
  have lit : c.v.x1 0 32 = (launchWave n e1).lit.toNat := by
    rw [hv]
    exact toNat_field e1 0 32
  have aux : c.v.bits 0 5 = (n.lit.extractLsb' 0 5).toNat := by
    rw [hv]
    exact viewD_bits 0x016 n 0 5
  have member := Ctx.member_eq_access (c := c) (w := launchWave n e1) (congrArg NV.typ hv) (congrArg NV.dstA hv) (congrArg NV.dstB hv)
    (congrArg NV.actA hv) (congrArg NV.actB hv) .launch 3 ps
  rw [lit, aux]
  exact congrArg (fun m : MemAcc => { m with rel := true, aux := (n.lit.extractLsb' 0 5).toNat }) member

theorem Ctx.tlane64_eq (c : Ctx) : tlane64 c.f.a 0 = (c.aw 1 ++ c.aw 0 : DWord).toNat := (pair_toNat (c.aw 1) (c.aw 0)).symm

/-- LAUNCH on the contexts of its records. -/
theorem exec_launch_eq (s : State) : exec (.launch n e1 e2) s = fire (viewX 0x016 n e1 e2) s (fun c =>
    c.launch (n.lit.getLsbD 5) (if n.lit.getLsbD 5 then (c.aw 1 ++ c.aw 0 : DWord).toNat else (e2.extractLsb' 0 57).toNat) e1.toNat
      (c.launchMember n e1)) := by
  show fire (viewX 0x016 n e1 e2) s (fun c =>
    c.launch (c.v.bits 5 1 == 1) (if c.v.bits 5 1 == 1 then tlane64 c.f.a 0 else c.v.x2 0 57) c.v.e1
      (fun ps => { c.member .launch (c.v.x1 0 32) 3 with rel := true, parts := ps, aux := c.v.bits 0 5 })) = _
  refine fire_congr (fun c hv => ?_)
  have byA : (c.v.bits 5 1 == 1) = n.lit.getLsbD 5 := by
    rw [hv]
    exact viewD_bit 0x016 n 5
  have va : c.v.x2 0 57 = (e2.extractLsb' 0 57).toNat := by
    rw [hv]
    exact toNat_field e2 0 57
  rw [byA, va, Ctx.tlane64_eq, funext (Ctx.member_eq_launchMember hv), show c.v.e1 = e1.toNat from congrArg NV.e1 hv]

section outcome
variable {c : Ctx} {byA : Bool} {va e : Nat} {member : List Part → MemAcc} (clean : ¬ (byA = true ∧ c.f.a.poison = true))
include clean

theorem Ctx.launch_of_fault {d : Nat} (h : partsOf (tagColour c.f.tag) false (piecesOf va 256) [] = .error d) :
    c.launch byA va e member = .trap .accessFault 0x23 := by
  rw [Ctx.launch, if_neg clean, h]

variable {ps : List Part} (h : partsOf (tagColour c.f.tag) false (piecesOf va 256) [] = .ok ps)
include h

theorem Ctx.launch_of_ag (ag : c.x.role = .ag) : c.launch byA va e member = c.submit (member ps) [] id := by
  rw [Ctx.launch, if_neg clean, h]
  exact if_pos ag

/-- A LAUNCH elsewhere than on an AG core makes its access at once, and emits a (09 R249). -/
theorem Ctx.launch_of_other (other : c.x.role ≠ .ag) : c.launch byA va 0 member =
    .done (c.upd (fun x => { x with mem := x.mem ++ [{ member ps with entered := true }], memId := (member ps).id + 1 }))
      [c.outA c.f.a.lanes c.f.a.poison] := by
  rw [Ctx.launch, if_neg clean, h]
  exact if_neg other

end outcome

end fields

/-- The extension record that a firing holds is an illegal node (02 R43, R58). -/
theorem exec_ext {e : BitVec 86} {s : State} {f : Firing} (h : s.cur = some f) :
    exec (.ext e) s = .next (s.firingTraps f 0x3FF .illegalNode 0x03) := by
  show execExt e s = _
  rw [execExt, h]

/-- Settles O33: a poisoned pointer, a pointer that faults, a chain member on an AG core, and an access of its own elsewhere. -/
theorem launchAndExt : Obligations.LaunchAndExt := by
  unfold Obligations.LaunchAndExt
  intro n e1 e2 byA wave at_ ok parts member
  refine ⟨completes_of_done_keepsInsts exec_launch_eq ?chain, completes_of_done_keepsInsts exec_launch_eq ?elsewhere,
    traps_of_trap exec_launch_eq ?poison, traps_of_trap exec_launch_eq ?pointer, fun s f => exec_ext⟩
  case chain =>
    rintro c - keeps ⟨clean, good, ag, admits⟩
    cases hp : parts c with
    | error d => rw [hp] at good; cases good
    | ok ps =>
      rw [Ctx.launch_of_ag clean hp ag, Ctx.submit_of_admits (w := wave) rfl rfl rfl rfl admits keeps]
      simp only [member, hp]
      rfl
  case elsewhere =>
    rintro c - - ⟨clean, good, other, rfl⟩
    cases hp : parts c with
    | error d => rw [hp] at good; cases good
    | ok ps =>
      refine (Ctx.launch_of_other clean hp other).trans ?_
      simp only [member, hp]
      rfl
  case poison => exact fun c _ bad => if_pos (Classical.not_not.1 bad)
  case pointer =>
    rintro c - ⟨clean, bad⟩
    cases hp : parts c with
    | error d => exact Ctx.launch_of_fault clean hp
    | ok ps => rw [hp] at bad; cases bad

end Sys2Proof.Machine
end

section
/-! PROOFS. Reduction of lanes (09 R251): the pair tree of LRED has six levels, enough for the lanes that a token holds (02 R52; a
core discards a wider one, R54), and the statement also speaks of a firing whose token is wider. -/
namespace Sys2Proof.Machine
open Sys2Proof

/-- The lanes of the token that was sent last. -/
def State.sentLanes (s : State) : Option (List Word) := s.flight.getLast?.map (·.tok.lanes)

/-- A firing whose one destination is a node of its core sends it the lanes of its result (02 R47). -/
theorem State.sentLanes_fired_both {s : State} {v : NV} {c : Ctx} {k : BitVec 12} {port : Bool} (hA : c.v.dstA = .node k port)
    (hB : c.v.dstB = .none) (lanes : List Word) (poison : Bool) :
    (s.fired c.s v c.f (c.both lanes poison)).sentLanes = some lanes := by
  have first (u : State) (route : Nat → DWord) (opc : BitVec 10) :=
    emit_node (s := u) (route := route) (f := c.f) (opc := opc) (o := c.outA lanes poison) hA
  have second (u : State) (route : Nat → DWord) (opc : BitVec 10) :=
    emit_none (s := u) (route := route) (f := c.f) (opc := opc) (o := c.outB lanes poison) hB
  simp only [State.fired, State.emitAll, Ctx.both, List.foldl_cons, List.foldl_nil, first, second]
  simp [State.sentLanes, State.endFiring, State.sendOff, mkToken, Ctx.outA, Ctx.out]

theorem foldl_add_ones (k : Nat) (x : Word) : (List.replicate k (1 : Word)).foldl (fun x y => x + y) x = x + BitVec.ofNat 32 k := by
  induction k generalizing x with
  | zero => exact (BitVec.add_zero x).symm
  | succ k ih => rw [List.replicate_succ, List.foldl_cons, ih, BitVec.add_assoc, Nat.add_comm k 1, BitVec.ofNat_add]; rfl

namespace WideToken

/-- An integer sum of the lanes of a, sent to node 0 (09 R251). -/
def node : Node :=
  { typ := .i32, ary := .mono, tgo := .keep, mod := 3, dstA := .node 0 false, dstB := .none, actA := .pass, actB := .pass, lit := 0 }

/-- A firing whose token has 65 lanes, each 1. -/
def firing : Firing := { wordFiring with a := { wordToken false with lanes := List.replicate 65 1 }, b := none }

/-- A core with colour 0 in its cache. -/
def core : LCore := { (default : LCore) with cache := [{ colour := 0, regs := default }] }

/-- The pitch of that core. -/
def pitch : Pitch := { (default : Pitch) with colours := [(0, default)], lcores := [(0, core)] }

/-- The module with the LRED at issue. -/
def state : State := { State.reset with pitches := [(1, pitch)], cur := some firing }

theorem issues : Issues (viewD 0x048 node) state firing pitch core default state 0 where
  cur := rfl
  pitch := rfl
  lcore := rfl
  fields := by decide
  setFits := rfl
  kernel := rfl
  role := rfl
  live := rfl
  cached := rfl
  tagop := rfl
  noEos := rfl

/-- The context of that firing. -/
def ctx : Ctx := issueCtx (viewD 0x048 node) firing pitch core default state 0

/-- Six levels leave the sum of the first 64 lanes in front of the last lane. -/
theorem pairTree_ctx : pairTree ctx.laneOp 6 ctx.laneElems = [([64], 0), ([1], 0)] := by decide

theorem exec_state : exec (.lred node) state =
    .next (state.fired state (viewD 0x048 node) firing (ctx.both [64] false)) := by
  refine fire_done issues _ ?_
  show ctx.emitF (((pairTree ctx.laneOp 6 ctx.laneElems).headD ctx.laneIdentity).1.map word)
    ((pairTree ctx.laneOp 6 ctx.laneElems).headD ctx.laneIdentity).2 = _
  rw [pairTree_ctx]
  rfl

end WideToken

/-- Refutes O18: the statement does not bound the width of a token. Of one of 65 lanes, each 1, LRED's pair tree adds 64, and the
statement's fold adds all. -/
theorem not_laneReductions : ¬ Obligations.LaneReductions := by
  unfold Obligations.LaneReductions
  intro h
  obtain ⟨sum, -⟩ := h WideToken.node
  have claimed := sum _ _ _ _ _ _ _ WideToken.issues ⟨.inl rfl, by decide⟩
  have same := congrArg State.sentLanes (Host.Outcome.next.inj (claimed.symm.trans WideToken.exec_state))
  have sent := State.sentLanes_fired_both (s := WideToken.state) (v := viewD 0x048 WideToken.node) (c := WideToken.ctx) rfl rfl
  have lanes := (sent _ _).symm.trans (same.trans (sent [64] false))
  have folded : some [(65 : Word)] = some [64] := (congrArg (fun x => some [x]) (foldl_add_ones 65 0)).symm.trans lanes
  exact absurd folded (by decide)

end Sys2Proof.Machine
end

section
/-! PROOFS. Rounds of meetings (11 R286, R288, R292, R293; 12 R306, R308): the classes of a contribution, the terms of a result, the
timeout of a round, and the commands at the meeting and mapping units. -/
namespace Sys2Proof.Machine
open Sys2Proof

@[simp] theorem URes.ok_bind {α β : Type} (a : α) (g : α → URes β) : (URes.ok a).bind g = g a := rfl

@[simp] theorem State.unitStep_ok (s t : State) (fi asid e : Nat) : s.unitStep fi asid e (.ok t) = t := rfl

/-- How many rounds a contribution of round-field value `t` is ahead of the open round (11 R286). -/
def Meeting.aheadBy (m : Meeting) (t : Nat) : Nat := (t % m.span + m.span - m.roundMod) % m.span

/-- How many rounds a contribution of round-field value `t` is behind the open round (11 R286). -/
def Meeting.behindBy (m : Meeting) (t : Nat) : Nat := (m.roundMod + m.span - t % m.span) % m.span

/-- A meeting with a contribution of the open round counted on time (11 R286). -/
def Meeting.countOnTime (m : Meeting) (c : Contrib) : Meeting :=
  { m.updMember c.member (fun x => { x with on := true, miss := 0, absent := false, last := m.round.toNat }) with
    oncnt := m.oncnt + 1, onTime := m.onTime ++ [{ c with t := c.t % m.span, delta := 0 }] }

/-- A meeting with a stale contribution counted at its member (11 R286). -/
def Meeting.countStale (m : Meeting) (c : Contrib) : Meeting :=
  m.updMember c.member (fun x => { x with lag := min 65535 (x.lag + 1) })

/-- A duplicate, or a contribution of no member, counts in DUP and is discarded (11 R286). -/
def State.discardCounted (s : State) (fi e : Nat) (m : Meeting) (first : Bool) (c : Contrib) (detail : Nat) : URes State :=
  .ok ((s.setMeeting fi e m.dupInc).discard m first c detail)

/-- What was held ahead for the round that opens is processed as arrivals (11 R287 step 7). -/
def State.openRound (s : State) (fuel fi e : Nat) : URes State :=
  match s.meeting? fi e with
  | none => .ok s
  | some m =>
    let now := m.ahead.filter (fun c => c.t % m.span == m.roundMod)
    let later := { m with ahead := m.ahead.filter (fun c => c.t % m.span != m.roundMod) }
    now.foldl (fun r c => r.bind (fun s => s.contribute fuel fi e false c)) (.ok (s.setMeeting fi e later))

/-- A contribution on time is held and counted, and the k-th closes the round (11 R286, R287); a second of its member is a duplicate. -/
def State.takeOnTime (s : State) (fuel fi e : Nat) (m : Meeting) (first : Bool) (c : Contrib) : URes State :=
  if (m.member c.member).on then s.discardCounted fi e m first c 0x4C
  else ((s.hold fi m first c m.round.toNat).bind (fun s1 =>
    (s1.setMeeting fi e (m.countOnTime c)).writeMember fi (m.countOnTime c) c.member)).bind (fun s2 =>
      if m.oncnt + 1 = m.k then (s2.closeRound fi e (m.countOnTime c) false).bind (fun s3 => s3.openRound fuel fi e) else .ok s2)

/-- A contribution ahead of the open round is held for its own (11 R286); a second of its member for that round is a duplicate. -/
def State.takeAhead (s : State) (fi e : Nat) (m : Meeting) (first : Bool) (c : Contrib) : URes State :=
  if m.ahead.any (fun a => a.member == c.member && a.t == c.t % m.span) then s.discardCounted fi e m first c 0x4C
  else (s.hold fi m first c (m.round.toNat + m.aheadBy c.t)).bind (fun s1 =>
    .ok (s1.setMeeting fi e { m with ahead := m.ahead ++ [{ c with t := c.t % m.span }] }))

/-- A late contribution is held as a late term of the open round (11 R286), where none of its member is held for it yet (log 98). -/
def State.takeLate (s : State) (fi e : Nat) (m : Meeting) (first : Bool) (c : Contrib) : URes State :=
  if m.late.any (fun a => a.member == c.member) then s.discardCounted fi e m first c 0x4C
  else (s.hold fi m first c (m.round.toNat + 4294967296 - m.behindBy c.t)).bind (fun s1 => .ok (s1.setMeeting fi e
    { m with late := m.late ++ [{ c with t := c.t % m.span, delta := m.behindBy c.t }], latecnt := m.latecnt + 1 }))

/-- A stale contribution counts at its member and is discarded (11 R286). -/
def State.takeStale (s : State) (fi e : Nat) (m : Meeting) (first : Bool) (c : Contrib) : URes State :=
  ((s.setMeeting fi e (m.countStale c)).writeMember fi (m.countStale c) c.member).bind (fun s1 =>
    .ok (s1.discard (m.countStale c) first c 0x4D))

section contribute
variable {s : State} {fuel fi e : Nat} {first : Bool} {c : Contrib} {m : Meeting}

/-- The classes of a contribution (11 R286). -/
theorem State.contribute_eq (hm : s.meeting? fi e = some m) : s.contribute (fuel + 1) fi e first c =
    if m.n ≤ c.member then s.discardCounted fi e m first c 0x43
    else if m.aheadBy c.t = 0 then s.takeOnTime fuel fi e m first c
    else if m.aheadBy c.t ≤ m.aheadN then s.takeAhead fi e m first c
    else if m.behindBy c.t ≤ m.lag then s.takeLate fi e m first c
    else s.takeStale fi e m first c := by
  rw [State.contribute]
  simp only [hm]
  rfl

/-- A round that opens with nothing held for it takes what closed the last one as it stands. -/
theorem State.openRound_of_none_held (hm : s.meeting? fi e = some m) (none : ∀ a ∈ m.ahead, a.t % m.span ≠ m.roundMod) :
    s.openRound fuel fi e = .ok (s.setMeeting fi e m) := by
  have now : m.ahead.filter (fun a => a.t % m.span == m.roundMod) = [] := by simpa using none
  have later : m.ahead.filter (fun a => a.t % m.span != m.roundMod) = m.ahead := by simpa using none
  simp only [State.openRound, hm, now, later, List.foldl_nil]

theorem State.takeOnTime_of_twice (twice : (m.member c.member).on = true) :
    s.takeOnTime fuel fi e m first c = s.discardCounted fi e m first c 0x4C := if_pos twice

section onTime
variable {s1 s2 : State} (once : (m.member c.member).on = false) (held : s.hold fi m first c m.round.toNat = .ok s1)
  (written : (s1.setMeeting fi e (m.countOnTime c)).writeMember fi (m.countOnTime c) c.member = .ok s2)
include once held written

theorem State.takeOnTime_of_open (still : m.oncnt + 1 ≠ m.k) : s.takeOnTime fuel fi e m first c = .ok s2 := by
  simp only [State.takeOnTime, once, Bool.false_eq_true, if_false, held, URes.ok_bind, written, if_neg still]

theorem State.takeOnTime_of_close {s3 : State} (full : m.oncnt + 1 = m.k)
    (closed : s2.closeRound fi e (m.countOnTime c) false = .ok s3) :
    s.takeOnTime fuel fi e m first c = s3.openRound fuel fi e := by
  simp only [State.takeOnTime, once, Bool.false_eq_true, if_false, held, URes.ok_bind, written, if_pos full, closed]

end onTime

theorem State.takeAhead_of_twice (twice : ∃ a ∈ m.ahead, a.member = c.member ∧ a.t = c.t % m.span) :
    s.takeAhead fi e m first c = s.discardCounted fi e m first c 0x4C := if_pos (by simpa using twice)

theorem State.takeAhead_of_held {s1 : State} (once : ∀ a ∈ m.ahead, ¬ (a.member = c.member ∧ a.t = c.t % m.span))
    (held : s.hold fi m first c (m.round.toNat + m.aheadBy c.t) = .ok s1) :
    s.takeAhead fi e m first c = .ok (s1.setMeeting fi e { m with ahead := m.ahead ++ [{ c with t := c.t % m.span }] }) := by
  refine (if_neg (by simpa using once)).trans ?_
  rw [held, URes.ok_bind]

theorem State.takeLate_of_twice (twice : ∃ a ∈ m.late, a.member = c.member) :
    s.takeLate fi e m first c = s.discardCounted fi e m first c 0x4C := if_pos (by simpa using twice)

theorem State.takeLate_of_held {s1 : State} (once : ∀ a ∈ m.late, a.member ≠ c.member)
    (held : s.hold fi m first c (m.round.toNat + 4294967296 - m.behindBy c.t) = .ok s1) :
    s.takeLate fi e m first c = .ok (s1.setMeeting fi e { m with
      late := m.late ++ [{ c with t := c.t % m.span, delta := m.behindBy c.t }], latecnt := m.latecnt + 1 }) := by
  refine (if_neg (by simpa using once)).trans ?_
  rw [held, URes.ok_bind]

theorem State.takeStale_of_written {s1 : State}
    (written : (s.setMeeting fi e (m.countStale c)).writeMember fi (m.countStale c) c.member = .ok s1) :
    s.takeStale fi e m first c = .ok (s1.discard m first c 0x4D) := by
  simp only [State.takeStale, written, URes.ok_bind]
  rfl

end contribute

/-- The terms of an element are combined in order, from the first (11 R288). -/
theorem combineElem_terms (op v w x : Nat) : combineElem op [] = (meetIdent op, 0) ∧ combineElem op [(none, v)] = (v, 0) ∧
    combineElem 4 [(none, v), (none, w), (none, x)] = (((v + w) % 4294967296 + x) % 4294967296, 0) ∧
    combineElem 0 [(none, v), (none, w)] = f32.add .rne v w := by
  simp [combineElem, meetOp]

section arrival
variable {s : State} {fi k : Nat} {c : Contrib}

/-- The state from which the contribution at `k` has been taken (11 R286). -/
def State.takeContrib (s : State) (fi k : Nat) (c : Contrib) : State :=
  ({ s with contribs := listDrop s.contribs k } : State).moveUp c.job fi

variable (hc : s.contribs[k]? = some c) (here : c.field = fi) (next : c.job.prog = 0)
include hc here next

theorem exec_contributionArrival_of_none (h : (s.field fi).takes c.job.asid c.job.tagOut = none) :
    exec (.contributionArrival fi k) s = .next ((s.takeContrib fi k c).endMeet c.job (some 0x42)) := by
  show execContributionArrival fi k s = _
  simp [execContributionArrival, hc, here, next, h, State.takeContrib]

variable {e : Nat} {m : Meeting} (h : (s.field fi).takes c.job.asid c.job.tagOut = some (e, m))
include h

/-- A contribution to a frozen meeting is held in the order of arrival (11 R294). -/
theorem exec_contributionArrival_of_frozen (frozen : m.frozen = true) : exec (.contributionArrival fi k) s =
    .next ((s.takeContrib fi k c).setMeeting fi e { m with waiting := m.waiting ++ [c] }) := by
  show execContributionArrival fi k s = _
  simp [execContributionArrival, hc, here, next, h, frozen, State.takeContrib]

theorem exec_contributionArrival_of_ok {t : State} (thawed : m.frozen = false)
    (taken : (s.takeContrib fi k c).contribute (m.held.length + 2) fi e true c = .ok t) :
    exec (.contributionArrival fi k) s = .next t := by
  unfold State.takeContrib at taken
  show execContributionArrival fi k s = _
  simp [execContributionArrival, hc, here, next, h, thawed, taken]

end arrival

section timeout
variable {s : State} {fi e : Nat} {m : Meeting}

/-- Whether fewer than k members are not absent once the misses of a timeout are counted, and no event has said so yet (11 R293). -/
def State.losesQuorum (s : State) (m : Meeting) : Bool :=
  decide (((List.range m.n).filter (fun i => !((s.missAll m).2.member i).absent)).length < m.k) && !m.unreach

theorem State.losesQuorum_iff : s.losesQuorum m = true ↔
    ((List.range m.n).filter (fun i => !((s.missAll m).2.member i).absent)).length < m.k ∧ m.unreach = false := by
  simp [State.losesQuorum]

/-- The timeout of a round starts again, and its member table is written (11 R292, R293). -/
def State.restartTimeout (s : State) (fi e : Nat) (m : Meeting) (unreach : Bool) : URes State :=
  let m1 := s.startTimeout fi { m with unreach := unreach }
  (s.setMeeting fi e m1).writeMembers fi m1

variable (hm : s.meeting? fi e = some m)
include hm

theorem exec_roundTimeout_of_early (h : m.frozen = true ∨ m.timeout = 0 ∨ (s.field fi).time.toNat < m.deadline) :
    exec (.roundTimeout fi e) s = .next s := by
  show execRoundTimeout fi e s = _
  simp only [execRoundTimeout, hm, if_pos (Or.inr h)]

/-- An expired timeout counts misses, raises QUORUM_UNREACHABLE once, and starts again (11 R292, R293). -/
theorem exec_roundTimeout_of_due (quorum : m.ring = false) (thawed : m.frozen = false) (set : m.timeout ≠ 0)
    (due : m.deadline ≤ (s.field fi).time.toNat) : exec (.roundTimeout fi e) s = .next (s.unitStep fi m.asid e
      ((if s.losesQuorum m then (s.missAll m).1.quorumEvent m .quorumUnreachable m.mnum (some m.tag) else (s.missAll m).1).restartTimeout
        fi e (s.missAll m).2 (m.unreach || s.losesQuorum m))) := by
  have expired : ¬ (m.ring = true ∨ m.frozen = true ∨ m.timeout = 0 ∨ (s.field fi).time.toNat < m.deadline) := by
    simp [quorum, thawed, set, due]
  show execRoundTimeout fi e s = _
  simp only [execRoundTimeout, hm, if_neg expired]
  rfl

end timeout

section commands
variable {s : State} {fi : Nat} {j : EJob}

/-- The oldest command of a local unit whose pitch runs is taken (12 R308). -/
theorem exec_meetingCommandDequeue_zero (h : (s.field fi).mq.find? (fun j => s.walks j.asid) = some j) :
    exec (.meetingCommandDequeue fi 0) s = .next (s.localCommand fi j) := by
  show execMeetingCommandDequeue fi 0 s = _
  simp only [execMeetingCommandDequeue, if_true, h]

/-- The state in which a command of a local unit is outstanding (12 R308). -/
def State.outstand (s : State) (fi : Nat) (j : EJob) : State :=
  s.updField fi (fun f => { f with mq := removeJob f.mq j, mOut := f.mOut ++ [j] })

/-- A command with its place behind those of its source that have yet to reach its home (12 R308; 01 R26). -/
def State.sentJob (s : State) (j : EJob) : EJob := { j with prog := s.ahead j (s.homeOfJob j) }

/-- The contribution of a QCONTRIB, on its way to its home unit (12 R311). -/
def State.contribOf (s : State) (j : EJob) : Contrib :=
  { member := (j.scale.getD 0 0).toNat % 1024, t := j.tagOut.toNat % 65536, delta := 0, lanes := j.fire.a.lanes,
    poison := j.fire.a.poison, job := s.sentJob j, field := s.homeOfJob j }

theorem State.homeStep_of_ok {taken t : State} (h : taken.homeCommand fi j = .ok t) : s.homeStep fi j taken = t := by
  simp only [State.homeStep, h]

theorem State.localCommand_of_open (h : j.opc = 0x307) : s.localCommand fi j = s.openMeeting fi j := by
  simp [State.localCommand, h]

theorem State.localCommand_of_weights (h : j.opc = 0x30C) : s.localCommand fi j = s.setWeights fi j := by
  simp [State.localCommand, h]

section away
variable (away : s.homeOfJob j = 64)
include away

theorem State.localCommand_of_leaving (notOpen : j.opc ≠ 0x307) (notWeights : j.opc ≠ 0x30C) (notWalk : j.opc ≠ 0x30D) :
    s.localCommand fi j = (s.outstand fi j).leaveWafer fi j := by
  unfold State.localCommand
  exact (if_neg fun h => notWalk h.2).trans (if_pos ⟨away, notOpen, notWeights⟩)

theorem State.localCommand_of_walkOff (walk : j.opc = 0x30D) : s.localCommand fi j = s.walkOff fi j := by
  simp [State.localCommand, away, walk]

end away

section wafer
variable (wafer : s.homeOfJob j ≠ 64)
include wafer

theorem State.localCommand_of_walk (walk : j.opc = 0x30D) : s.localCommand fi j = s.startWalk fi j := by
  simp [State.localCommand, wafer, walk]

theorem State.localCommand_of_contrib (h : j.opc = 0x308) :
    s.localCommand fi j = { s.outstand fi j with contribs := s.contribs ++ [s.contribOf j] } := by
  simp [State.localCommand, wafer, h, State.outstand, State.contribOf, State.sentJob]

theorem State.localCommand_of_home (h : j.opc = 0x309 ∨ j.opc = 0x30A ∨ j.opc = 0x30B) : s.localCommand fi j =
    if s.homeOfJob j = fi then s.homeStep fi j s else { s.outstand fi j with mfwd := s.mfwd ++ [(s.homeOfJob j, s.sentJob j)] } := by
  rcases h with h | h | h <;> simp [State.localCommand, wafer, h, State.outstand, State.sentJob]

end wafer

/-- A forwarded command is taken at its home when it is the next of its source (12 R308; 01 R26). -/
theorem exec_meetingCommandDequeue_succ {k : Nat} (hk : s.mfwd[k]? = some (fi, j)) (next : j.prog = 0) (run : s.walks j.asid = true) :
    exec (.meetingCommandDequeue fi (k + 1)) s =
      .next (s.homeStep fi j (({ s with mfwd := listDrop s.mfwd k } : State).moveUp j fi)) := by
  show execMeetingCommandDequeue fi (k + 1) s = _
  simp [execMeetingCommandDequeue, hk, next, run]

/-- Send the result of a MAPRD to one of its destinations (12 R306). -/
def State.sendMap (s : State) (fi : Nat) (r : MapReq) (lanes : List Word) (d : Dest) (a : Act) (rt : DWord) : State :=
  s.deliver (.rc fi) 0 (fun _ => rt) r.fire 0x305
    { dest := d, act := a, eos := none, poison := r.fire.a.poison, lanes := lanes, tag := r.tagOut, code := 0, hb := s.liveHb r.fire.hb }

/-- The mapping unit sends its answer to both destinations of the MAPRD (12 R306). -/
theorem exec_mappingUnitRequest {k : Nat} {r : MapReq} {p : Pitch} (hk : s.mapReqs[k]? = some (fi, r)) (hp : s.pitch? r.asid = some p) :
    exec (.mappingUnitRequest k) s =
      .next ((({ s with mapReqs := listDrop s.mapReqs k } : State).sendMap fi r (s.mapLanes fi p r) r.n.dstA r.n.actA r.rtA).sendMap
        fi r (s.mapLanes fi p r) r.n.dstB r.n.actB r.rtB) := by
  show execMappingUnitRequest k s = _
  simp only [execMappingUnitRequest, hk, hp]
  rfl

end commands

/-- Settles O48: the classes of a contribution, the terms of an element, an arrival, a timeout, and the commands of the meeting and
mapping units, each by its equation above. -/
theorem rounds : Obligations.Rounds := by
  refine ⟨?contribute, combineElem_terms, ?arrival, ?timeout, ?commands, ?forwarded, fun s k fi r p => exec_mappingUnitRequest⟩
  case contribute =>
    intro s fuel fi e first c m hm t u d takes counted
    have classes := State.contribute_eq (fuel := fuel) (first := first) (c := c) hm
    have known (member : c.member < m.n) := classes.trans (if_neg (Nat.not_le.2 member))
    have distant (member : c.member < m.n) (h : ¬ u = 0) := (known member).trans (if_neg h)
    have past (member : c.member < m.n) (h : m.aheadN < u) := (distant member (by omega)).trans (if_neg (Nat.not_le.2 h))
    refine ⟨fun stranger => classes.trans (if_pos stranger), fun member now twice => ?twice, ?onTime, fun member apart near => ?ahead,
      fun member behind near => ?late, ?stale⟩
    case twice => exact (known member).trans ((if_pos now).trans (State.takeOnTime_of_twice twice))
    case onTime =>
      intro member now once s1 held m1 m2 s2 written
      have takes_of {r : URes State} (h : s.takeOnTime fuel fi e m first c = r) : takes r := (known member).trans ((if_pos now).trans h)
      exact ⟨fun still => takes_of (State.takeOnTime_of_open once held written still), fun full s3 m3 closed hm3 none =>
        takes_of ((State.takeOnTime_of_close once held written full closed).trans (State.openRound_of_none_held hm3 none))⟩
    case ahead =>
      have takes_of {r : URes State} (h : s.takeAhead fi e m first c = r) : takes r :=
        (distant member (by omega)).trans ((if_pos near).trans h)
      exact ⟨fun twice => takes_of (State.takeAhead_of_twice twice), fun once s1 held => takes_of (State.takeAhead_of_held once held)⟩
    case late =>
      have takes_of {r : URes State} (h : s.takeLate fi e m first c = r) : takes r := (past member behind).trans ((if_pos near).trans h)
      exact ⟨fun twice => takes_of (State.takeLate_of_twice twice), fun once s1 held => takes_of (State.takeLate_of_held once held)⟩
    case stale =>
      intro member behind far m1 s1 written
      exact (past member behind).trans ((if_neg (Nat.not_le.2 far)).trans (State.takeStale_of_written written))
  case arrival =>
    intro s fi k c hc here next rest
    exact ⟨exec_contributionArrival_of_none hc here next, fun e m h => ⟨exec_contributionArrival_of_frozen hc here next h,
      fun t => exec_contributionArrival_of_ok hc here next h⟩⟩
  case timeout =>
    intro s fi e m hm
    refine ⟨exec_roundTimeout_of_early hm, fun quorum thawed set due => ?_⟩
    have expires := exec_roundTimeout_of_due hm quorum thawed set due
    refine ⟨fun few t restarted => expires.trans (congrArg _ ?_), fun kept t restarted => expires.trans (congrArg _ ?_)⟩
    · rw [State.losesQuorum_iff.2 few, Bool.or_true, if_pos rfl]
      exact congrArg _ restarted
    · rw [Bool.eq_false_iff.2 (mt State.losesQuorum_iff.1 kept), Bool.or_false, if_neg Bool.false_ne_true]
      exact congrArg _ restarted
  case commands =>
    intro s fi j hj home out sent becomes
    have taken := exec_meetingCommandDequeue_zero hj
    have becomes_of {t : State} (h : s.localCommand fi j = t) : becomes t := taken.trans (congrArg _ h)
    exact ⟨fun h => becomes_of (State.localCommand_of_open h), fun h => becomes_of (State.localCommand_of_weights h),
      fun away h1 h2 h3 => becomes_of (State.localCommand_of_leaving away h1 h2 h3),
      fun away walk => becomes_of (State.localCommand_of_walkOff away walk),
      fun wafer walk => becomes_of (State.localCommand_of_walk wafer walk),
      fun wafer h => becomes_of (State.localCommand_of_contrib wafer h), fun wafer h => ⟨
        fun own t done => becomes_of ((State.localCommand_of_home wafer h).trans ((if_pos own).trans (State.homeStep_of_ok done))),
        fun other => becomes_of ((State.localCommand_of_home wafer h).trans (if_neg other))⟩⟩
  case forwarded =>
    rintro s fi k _ j hk rfl next run t done
    exact (exec_meetingCommandDequeue_succ hk next run).trans (congrArg _ (State.homeStep_of_ok done))

end Sys2Proof.Machine
end

section
/-! PROOFS. Ring meetings (11 R296 to R300): the arrivals of chunks, credits, DEAD notices and completion indices, the timeout of a
walker, the death that stops a ring, and the opening of an epoch. -/
namespace Sys2Proof.Machine
open Sys2Proof

/-- What the step of a walker of field `fi` comes to: the state, a wait for a page, a wait for a line, or the fault of its meeting. -/
def State.walkStep (s : State) (fi asid hf he : Nat) (r : URes State) : State :=
  match r with
  | .ok t => t
  | .page va => s.missAt fi asid (va / 4096) (.meet hf he)
  | .wait => s
  | .fault => s.meetFault hf he

@[simp] theorem State.walkStep_ok (s t : State) (fi asid hf he : Nat) : s.walkStep fi asid hf he (.ok t) = t := rfl

theorem Walker.isOlder_iff {w : Walker} {epoch dead : Nat} :
    w.isOlder epoch dead = true ↔ w.epoch < epoch ∨ (w.epoch = epoch ∧ w.dead.length < dead) := by
  simp [Walker.isOlder]

theorem Walker.isPast_iff {w : Walker} {epoch dead : Nat} :
    w.isPast epoch dead = true ↔ epoch < w.epoch ∨ (epoch = w.epoch ∧ dead < w.dead.length) := by
  simp [Walker.isPast]

section message
variable {s : State} {k hf he fi wi : Nat} {m : Meeting} {w : Walker}

/-- A message waits only for a walker that is frozen or whose pitch does not run (11 R294). -/
theorem State.not_held {a : Nat} (thawed : w.frozen = false) (run : s.walks a = true) :
    ¬ (w.frozen = true ∨ (!s.walks a) = true) := by
  simp [thawed, run]

section chunk
variable {x : RingMsg} (hx : s.ring[k]? = some x) (hm : s.findMeeting x.asid x.mnum x.owner = some (hf, he, m))
  (hw : s.walkerOf m x.dst = some (fi, wi, w)) (thawed : w.frozen = false) (run : s.walks x.asid = true)
  (first : RingMsg.first s.ring k = true)
include hx hm hw thawed run first

/-- The next chunk of its sender reaches a walker (11 R297, R300). -/
theorem exec_ringChunkArrival : exec (.ringChunkArrival k) s = .next (
    let rest : State := { s with ring := listDrop s.ring k }
    if x.epoch < w.epoch then rest
    else if w.isOlder x.epoch x.dead = true ∨ w.stopped = true then s
    else if w.isPast x.epoch x.dead = true then rest
    else s.walkStep fi x.asid hf he ((rest.takeChunk fi wi m w x).bind (fun t => t.ringCheck hf he))) := by
  have ready : ¬ ((!RingMsg.first s.ring k) = true ∨ w.frozen = true ∨ (!s.walks x.asid) = true) := by simp [thawed, run, first]
  show execRingChunkArrival k s = _
  simp only [execRingChunkArrival, hx, hm, hw, if_neg ready]
  rfl

end chunk

section control
variable {x : RingCtl} (hm : s.findMeeting x.asid x.mnum x.owner = some (hf, he, m)) (hw : s.walkerOf m x.dst = some (fi, wi, w))
  (thawed : w.frozen = false) (run : s.walks x.asid = true)
include hm hw thawed run

/-- A credit reaches the walker that sent the chunk (11 R297). -/
theorem exec_ringCreditArrival (hx : s.ringCredit[k]? = some x) : exec (.ringCreditArrival k) s = .next (
    let rest : State := { s with ringCredit := listDrop s.ringCredit k }
    if w.isPast x.epoch x.dead = true then rest
    else if w.isOlder x.epoch x.dead = true then s
    else s.walkStep fi x.asid hf he
      (((rest.setWalker fi wi { w with credits := w.credits + 1 }).sendOut 8 fi wi m.n).startChunks (m.count + 1) fi wi m)) := by
  show execRingCreditArrival k s = _
  simp only [execRingCreditArrival, hx, hm, hw, if_neg (State.not_held thawed run)]
  rfl

/-- A DEAD notice reaches a walker (11 R298, R299). -/
theorem exec_deadNotice (hx : s.ringDead[k]? = some x) : exec (.deadNotice k) s = .next (
    let rest : State := { s with ringDead := listDrop s.ringDead k }
    if x.arg = w.member then s.unitStep hf x.asid he
      (((if w.job.stopped then rest else rest.endMeet w.job (some 0x44)).updField fi (fun f =>
        { f with walkers := SMap.del f.walkers wi })).ringCheck hf he)
    else if w.dead.any (fun d => d.1 == x.arg) = true ∨ x.epoch + 1 < w.epoch then rest
    else if w.epoch < x.epoch then s
    else s.unitStep hf x.asid he (rest.learnDeath fi wi hf he m w x.arg x.epoch)) := by
  show execDeadNotice k s = _
  simp only [execDeadNotice, hx, hm, hw, if_neg (State.not_held thawed run)]

/-- A completion index reaches a walker, behind the notices that its sender sent before it (11 R299; 01 R26). -/
theorem exec_completionIndex (hx : s.ringQ[k]? = some x)
    (first : ∀ y ∈ s.ringDead, y.isOf m = true → y.src = x.src → y.dst = x.dst → x.epoch < y.epoch) :
    exec (.completionIndex k) s = .next (
      let rest : State := { s with ringQ := listDrop s.ringQ k }
      if x.epoch < w.epoch then rest
      else if w.epoch < x.epoch ∨ (!w.stopped) = true then s
      else s.unitStep hf x.asid he (rest.openEpoch fi wi hf he m { w with qs := w.qs ++ [(x.src, x.arg)] })) := by
  have ready : ¬ (w.frozen = true ∨ (!s.walks x.asid) = true ∨
      s.ringDead.any (fun y => y.isOf m && y.src == x.src && y.dst == x.dst && decide (y.epoch ≤ x.epoch)) = true) := by
    simpa [thawed, run] using first
  show execCompletionIndex k s = _
  simp only [execCompletionIndex, hx, hm, hw, if_neg ready]

end control
end message

section timeout
variable {s : State} {fi k hf he : Nat} {w : Walker} {m : Meeting}

/-- A walker has awaited a chunk that its predecessor owes it for TIMEOUT ticks (11 R298). -/
def State.ringDue (s : State) (fi : Nat) (m : Meeting) (w : Walker) : Prop :=
  w.frozen = false ∧ s.walks w.asid = true ∧ m.timeout ≠ 0 ∧ 1 < (w.survivors m.n).length ∧
    w.completed.length < m.count ∧ w.waitSince + m.timeout ≤ (s.field fi).time.toNat

/-- The walker declares its predecessor dead: a DEAD notice to every other member (11 R298). -/
def State.sendNotices (s : State) (m : Meeting) (w : Walker) : State :=
  { s with ringDead := s.ringDead ++
      ((List.range m.n).filter (· ≠ w.member)).map (fun i => w.ctl i (ringPrev (w.survivors m.n) w.member)) }

theorem State.not_ringDue_iff : ¬ s.ringDue fi m w ↔ w.frozen = true ∨ (!s.walks w.asid) = true ∨ m.timeout = 0 ∨
    (w.survivors m.n).length ≤ 1 ∨ m.count ≤ w.completed.length ∨ (s.field fi).time.toNat < w.waitSince + m.timeout := by
  simp only [State.ringDue, Classical.not_and_iff_not_or_not, ne_eq, Classical.not_not, Nat.not_lt, Nat.not_le, Bool.not_eq_false,
    Bool.not_eq_true, Bool.not_eq_true']

variable (hw : SMap.find (s.field fi).walkers k = some w) (hm : s.findMeeting w.asid w.mnum w.owner = some (hf, he, m))
include hw hm

theorem exec_ringTimeout_of_not_due (h : ¬ s.ringDue fi m w) : exec (.ringTimeout fi k) s = .next s := by
  show execRingTimeout fi k s = _
  simp only [execRingTimeout, hw, hm, if_pos (State.not_ringDue_iff.1 h)]

theorem exec_ringTimeout_of_due (h : s.ringDue fi m w) : exec (.ringTimeout fi k) s =
    .next (s.unitStep hf w.asid he
      ((s.sendNotices m w).learnDeath fi k hf he m w (ringPrev (w.survivors m.n) w.member) w.epoch)) := by
  show execRingTimeout fi k s = _
  simp only [execRingTimeout, hw, hm, if_neg (mt State.not_ringDue_iff.2 (not_not_intro h))]
  rfl

end timeout

/-- The least completion index of the survivors (11 R299). -/
def Walker.least (w : Walker) (m : Meeting) : Nat :=
  (w.qs.filter (fun q => (w.survivors m.n).contains q.1)).foldl (fun a q => min a q.2) m.count

/-- The walker in its next epoch, which opens at `b` (11 R299). -/
def Walker.reopen (w : Walker) (b now : Nat) : Walker :=
  { w with epoch := w.epoch + 1, bs := w.bs ++ [b], completed := w.completed.filter (· < b), started := b, credits := 4,
           stopped := false, qs := [], waitSince := now, out := [], prevDone := w.completed, prevQs := w.qs }

section epoch
variable {s : State} {fi wi hf he : Nat} {m : Meeting} {w : Walker}

/-- A fifth death, or fewer than k live members, stops the ring (11 R300). -/
theorem State.learnDeath_of_few {d e : Nat} (few : 4 ≤ w.dead.length ∨ m.n < m.k + (w.dead.length + 1)) :
    s.learnDeath fi wi hf he m w d e = .ok (s.ringStop hf he m (w.dead ++ [(d, min e w.epoch + 1)])) := by
  unfold State.learnDeath
  extract_lets w0 w1 q sv
  have dead : w1.dead = w.dead ++ [(d, min e w.epoch + 1)] := by
    unfold w1
    split <;> rfl
  rw [dead, if_pos (by simpa using few)]

variable (stopped : w.stopped = true)
include stopped

/-- A walker that lacks the index of a survivor waits for it (11 R299). -/
theorem State.openEpoch_of_missing (missing : ∃ i ∈ w.survivors m.n, ∀ q, (i, q) ∉ w.qs) :
    s.openEpoch fi wi hf he m w = .ok (s.setWalker fi wi w) :=
  if_neg (by simpa [stopped] using missing)

/-- The next epoch opens at the least completion index (11 R299). -/
theorem State.openEpoch_of_complete (complete : ∀ i ∈ w.survivors m.n, ∃ q, (i, q) ∈ w.qs) :
    s.openEpoch fi wi hf he m w =
      (((s.setWalker fi wi (w.reopen (w.least m) (s.field fi).time.toNat)).setMeeting hf he
        { m with oncnt := (w.survivors m.n).length, latecnt := w.epoch + 1 }).startChunks (m.count + 1) fi wi m).bind
          (fun t => t.ringCheck hf he) :=
  if_pos (by simpa [stopped] using complete)

end epoch

/-- Settles O49: each arrival, the timeout, the death that stops the ring and the opening of an epoch, by its equation above. -/
theorem rings : Obligations.Rings := by
  refine ⟨?chunk, ?credit, ?timeout, ?notice, ?index, fun s fi wi hf he m w d e => State.learnDeath_of_few, ?opening⟩
  case chunk =>
    intro s k hf he fi wi x m w hx hm hw thawed run first rest
    rw [exec_ringChunkArrival hx hm hw thawed run first]
    simp only [Walker.isOlder_iff, Walker.isPast_iff]
    refine ⟨fun past => ?_, fun future => ?_, fun same waits => ?_, fun same runs past => ?_,
      fun same runs alike t u taken checked => ?_⟩
    · rw [if_pos past]
    · rw [if_neg (by omega), if_pos (.inl (.inl future))]
    · rw [if_neg (by omega), if_pos (waits.elim .inr fun knows => .inl (.inr ⟨same.symm, knows⟩))]
    · rw [if_neg (by omega), if_neg (not_or.2 ⟨by omega, by simp [runs]⟩), if_pos (.inr ⟨same, past⟩)]
    · rw [if_neg (by omega), if_neg (not_or.2 ⟨by omega, by simp [runs]⟩), if_neg (by omega), taken, URes.ok_bind, checked,
        State.walkStep_ok]
  case credit =>
    intro s k hf he fi wi x m w hx hm hw thawed run rest
    rw [exec_ringCreditArrival hm hw thawed run hx]
    simp only [Walker.isOlder_iff, Walker.isPast_iff]
    refine ⟨fun past => ?_, fun future => ?_, fun same alike t taken => ?_⟩
    · rw [if_pos past]
    · rw [if_neg (by omega), if_pos (by omega)]
    · rw [if_neg (by omega), if_neg (by omega), taken, State.walkStep_ok]
  case timeout =>
    intro s fi k hf he w m hw hm live due dead notices
    refine ⟨exec_ringTimeout_of_not_due hw hm, fun t late learnt => ?_⟩
    exact (exec_ringTimeout_of_due hw hm late).trans (congrArg _ (congrArg (s.unitStep hf w.asid he) learnt))
  case notice =>
    intro s k hf he fi wi x m w hx hm hw thawed run rest known
    have known_iff : w.dead.any (fun d => d.1 == x.arg) = true ↔ known := by simp [known]
    rw [exec_deadNotice hm hw thawed run hx]
    refine ⟨fun own pending t checked => ?_, fun other old => ?_, fun other new future => ?_, fun other new now near t learnt => ?_⟩
    · rw [if_pos own, pending, if_neg Bool.false_ne_true, checked, State.unitStep_ok]
    · rw [if_neg other, if_pos (old.imp_left known_iff.2)]
    · rw [if_neg other, if_neg (not_or.2 ⟨mt known_iff.1 new, by omega⟩), if_pos future]
    · rw [if_neg other, if_neg (not_or.2 ⟨mt known_iff.1 new, by omega⟩), if_neg (by omega), learnt, State.unitStep_ok]
  case index =>
    intro s k hf he fi wi x m w hx hm hw thawed run first rest
    rw [exec_completionIndex hm hw thawed run hx first]
    refine ⟨fun past => ?_, fun future => ?_, fun same stopped t opened => ?_⟩
    · rw [if_pos past]
    · rw [if_neg (by omega), if_pos (.inl future)]
    · rw [if_neg (by omega), if_neg (by simp [stopped, same]), opened, State.unitStep_ok]
  case opening =>
    intro s fi wi hf he m w stopped
    exact ⟨State.openEpoch_of_missing stopped, State.openEpoch_of_complete stopped⟩

end Sys2Proof.Machine
end

section
/-! PROOFS. Tile, route and band tables (12 R302 to R305, R307): the control operand of ARY 1, the words of tile-table entries and bands
as the OR of their fields, the slot that LOOKUP finds, and route indices. -/
namespace Sys2Proof.Machine
open Sys2Proof

section control
variable {c : Ctx} {opc : BitVec 10} {n : Node} (hv : c.v = viewD opc n)
include hv

/-- A poisoned control operand of ARY 1 traps (12 R302). -/
theorem Ctx.control_of_poison (bad : n.ary = .dyad ∧ c.bTok.poison = true) (lit : Nat) (k : Nat → FireRes) :
    c.control lit k = .trap .poisonConsumed 0x03 :=
  (if_pos ((Ctx.ary_eq hv).trans bad.1)).trans (if_pos bad.2)

variable (clean : ¬ (n.ary = .dyad ∧ c.bTok.poison = true))
include clean

/-- The control operand of ARY 1 is lane 0 of b, and of the other arities a value of the literal (12 R302). -/
theorem Ctx.control_of_clean (lit : Nat) (k : Nat → FireRes) :
    c.control lit k = k (if n.ary = .dyad then (tlane c.bTok 0).toNat else lit) := by
  unfold Ctx.control
  rw [Ctx.ary_eq hv]
  split
  next dyad => exact if_neg fun poisoned => clean ⟨dyad, poisoned⟩
  next => rfl

/-- The control operand of an instruction whose whole literal is one (12 R306). -/
theorem Ctx.control_lit (k : Nat → FireRes) : c.control c.v.lit k = k (if n.ary = .dyad then tlane c.bTok 0 else n.lit).toNat := by
  rw [Ctx.control_of_clean hv clean, apply_ite BitVec.toNat, show c.v.lit = n.lit.toNat from congrArg NV.lit hv]

/-- The route index of RTRD and RTWR (12 R305). -/
theorem Ctx.routeIdx_eq {e : Nat} (he : (if n.ary = .dyad then (tlane c.bTok 0).toNat else (n.lit.extractLsb' 0 10).toNat) = e)
    (k : Nat → FireRes) : c.routeIdx k = if 1024 ≤ e ∨ c.x.reqRoutes ≤ e then .trap .accessFault 0x33 else k e := by
  rw [Ctx.routeIdx, Ctx.control_of_clean hv clean, Ctx.bits_eq hv, he]

end control

theorem ofNat_two_pow_mul {w j : Nat} (k : Nat) (b : BitVec j) : BitVec.ofNat w (2 ^ k * b.toNat) = b.setWidth w <<< k :=
  BitVec.eq_of_toNat_eq (by simp [Nat.shiftLeft_eq, Nat.mul_comm])

section fields
variable {w a k j : Nat} (h : a < 2 ^ k) (b : BitVec j)
include h

/-- A field above the first `k` bits of a register. -/
theorem ofNat_add_bits : BitVec.ofNat w (a + 2 ^ k * b.toNat) = BitVec.ofNat w a ||| b.setWidth w <<< k := by
  rw [Nat.add_comm, Nat.two_pow_add_eq_or_of_lt h, Nat.or_comm, ← ofNat_two_pow_mul]
  exact BitVec.ofNat_or

theorem add_bits_lt : a + 2 ^ k * b.toNat < 2 ^ (k + j) := add_field_lt h b.isLt

end fields

/-- The tile-table entry of a tile: its state, role, DONE, INITED, job and engine, each at its place (10 Table 8). -/
theorem Tile.entry_eq (t : Tile) : t.entry =
    (BitVec.ofNat 3 t.state.code).setWidth 32 ||| (BitVec.ofNat 2 (tileRoleCode t.role)).setWidth 32 <<< 3 |||
      (BitVec.ofBool t.done).setWidth 32 <<< 5 ||| (BitVec.ofBool t.inited).setWidth 32 <<< 6 ||| t.job.setWidth 32 <<< 7 |||
      t.eng.setWidth 32 <<< 23 := by
  have state : t.state.code = (BitVec.ofNat 3 t.state.code).toNat := by cases t.state <;> rfl
  have role : tileRoleCode t.role = (BitVec.ofNat 2 (tileRoleCode t.role)).toNat := by cases t.role <;> rfl
  have toRole := add_bits_lt (BitVec.ofNat 3 t.state.code).isLt (BitVec.ofNat 2 (tileRoleCode t.role))
  have toDone := add_bits_lt toRole (BitVec.ofBool t.done)
  have toInited := add_bits_lt toDone (BitVec.ofBool t.inited)
  have toJob := add_bits_lt toInited t.job
  rw [← BitVec.ofNat_toNat, ← ofNat_add_bits (BitVec.isLt _), ← ofNat_add_bits toRole, ← ofNat_add_bits toDone,
    ← ofNat_add_bits toInited, ← ofNat_add_bits toJob, ← state, ← role, BitVec.toNat_ofBool, BitVec.toNat_ofBool]
  rfl

/-- The word of a band: BAND0, BAND1, VALID, STALE and GEN, each at its place (10 Table 11). -/
theorem Band.word_eq (b : Band) : b.word =
    b.band0.setWidth 64 ||| b.band1.setWidth 64 <<< 4 ||| (BitVec.ofBool b.valid).setWidth 64 <<< 8 |||
      (BitVec.ofBool b.stale).setWidth 64 <<< 9 ||| b.gen.setWidth 64 <<< 16 := by
  have toBand1 := add_bits_lt b.band0.isLt b.band1
  have toValid := add_bits_lt toBand1 (BitVec.ofBool b.valid)
  have toStale := Nat.lt_of_lt_of_le (add_bits_lt toValid (BitVec.ofBool b.stale)) (show 2 ^ (4 + 4 + 1 + 1) ≤ 2 ^ 16 by decide)
  rw [← BitVec.ofNat_toNat, ← ofNat_add_bits b.band0.isLt, ← ofNat_add_bits toBand1, ← ofNat_add_bits toValid,
    ← ofNat_add_bits toStale, BitVec.toNat_ofBool, BitVec.toNat_ofBool]
  rfl

/-- The slot of a tag table that holds the line of an address (12 R303). -/
def Tile.hitSlot (t : Tile) (d : DWord) : Option Nat :=
  (List.range 64).find? (fun i => ((t.cbLine i).v || (t.cbLine i).p) && (t.cbLine i).tag == d.extractLsb' 9 48)

theorem Tile.cbHit_eq (t : Tile) (d : DWord) : t.cbHit (BitVec.ofNat 48 (d.toNat / 512)) = t.hitSlot d := by
  have tag : BitVec.ofNat 48 (d.toNat / 512) = d.extractLsb' 9 48 :=
    BitVec.eq_of_toNat_eq (toNat_field d 9 48)
  rw [tag]
  rfl

theorem Tile.lookupLane_of_miss {t : Tile} {d : DWord} (h : t.hitSlot d = none) :
    t.lookupLane d.toNat = BitVec.ofNat 32 t.cbVictim := by
  rw [Tile.lookupLane, Tile.cbHit_eq, h]
  rfl

theorem Tile.lookupLane_of_hit {t : Tile} {d : DWord} {i : Nat} (h : t.hitSlot d = some i) : t.lookupLane d.toNat =
    BitVec.ofNat 32 (i + 128 + (if (t.cbLine i).p then 256 else 0) + (if (t.cbLine i).d then 512 else 0)) := by
  rw [Tile.lookupLane, Tile.cbHit_eq, h]
  show word _ = _
  cases (t.cbLine i).p <;> cases (t.cbLine i).d <;> rfl

/-- The addresses of a LOOKUP are the lane pairs of a (12 R303). -/
theorem Ctx.map_tlane64_eq (c : Ctx) (k : Nat) :
    (List.range k).map (fun j => tlane64 c.f.a (2 * j)) = (List.range k).map (fun j => (c.ad j).toNat) :=
  List.map_congr_left fun j _ => (pair_toNat (c.aw (2 * j + 1)) (c.aw (2 * j))).symm

/-- LOOKUP at the tile that its literal names (12 R303). -/
def Ctx.lookup (c : Ctx) (i : Nat) : FireRes :=
  let vas := (List.range (c.f.a.lanes.length / 2)).map (fun j => (c.ad j).toNat)
  if c.f.a.poison then .trap .poisonConsumed 0x03
  else if c.x.tileCount ≤ i then .trap .accessFault 0x32
  else if (c.x.tile i).state ≠ .ready then .hold
  else if (c.x.tile i).role ≠ .cb then .trap .accessFault 0x32
  else .done (c.upd (fun x => x.updTile i (vas.foldl Tile.noteHit ·))) (c.both (vas.map (c.x.tile i).lookupLane) false)

/-- A LOOKUP needs the tile that it names READY (06 Table 5). -/
theorem LCore.tilesOk_lookup (x : LCore) (n : Node) (lc : Nat) :
    x.tilesOk (viewD 0x300 n) lc = ((x.tile (n.lit.extractLsb' 0 5).toNat).state == .ready) := by
  have needs : tileNeeds (viewD 0x300 n) lc = { ready := [(viewD 0x300 n).bits 0 5], free := [], empty := [] } := rfl
  rw [LCore.tilesOk, needs, viewD_bits]
  simp

theorem exec_lookup_eq (n : Node) (s : State) :
    exec (.lookup n) s = fire (viewD 0x300 n) s (·.lookup (n.lit.extractLsb' 0 5).toNat) := by
  refine fire_congr fun c hv => ?_
  have wait : (!c.x.tilesOk c.v c.f.lc) = decide ((c.x.tile (n.lit.extractLsb' 0 5).toNat).state ≠ .ready) := by
    rw [hv, LCore.tilesOk_lookup, decide_not]
    rfl
  simp only [Ctx.bits_eq hv, wait, decide_eq_true_eq, Ctx.wa, Ctx.map_tlane64_eq]
  rfl

/-- Whether a route entry may be written, field by field (02 R50, Table 11). -/
theorem routeEntryOk_iff (n : Nat) (d : DWord) : routeEntryOk n d = true ↔
    (routeV d).rsv = 0 ∧ (routeV d).act ≠ 7 ∧ ((routeV d).valid = true → (routeV d).vc ≠ 7 ∧ (routeV d).act ≠ 5 ∧
      (65536 ≤ (routeV d).core ∨ (routeV d).core < n)) := by
  unfold routeEntryOk RouteV.live
  cases h : (routeV d).valid <;> simp [h, and_assoc]

/-- The write of a route entry (12 R305). -/
def Ctx.writeRoute (c : Ctx) (d : DWord) (e : Nat) : FireRes :=
  if routeEntryOk c.p.n d then
    .done (c.upd (fun x => { x with routes := SMap.put 0 x.routes e d })) (c.both (c.x.route e).lanes false)
  else .trap .accessFault 0x34

/-- RTWR (12 R305). -/
def Ctx.rtwr (c : Ctx) : FireRes :=
  if !c.x.control then .trap .roleViolation 0
  else if c.f.a.poison then .trap .poisonConsumed 0x03
  else c.routeIdx (c.writeRoute (c.aw 1 ++ c.aw 0))

theorem exec_rtwr_eq (n : Node) (s : State) : exec (.rtwr n) s = fire (viewD 0x304 n) s Ctx.rtwr := rfl

/-- Settles O29: each clause by what its instruction does on a context of its record, and the words it emits by their fields. -/
theorem tablesAndRoutes : Obligations.TablesAndRoutes := by
  unfold Obligations.TablesAndRoutes
  intro n num t exists_ five sum at_ slots hit lane index named routed entry pair r sound writes band bandWord
  have lanes (c : Ctx) (k : Nat) : ((List.range k).map (fun j => (c.ad j).toNat)).map (t c).lookupLane =
      (List.range k).map (fun j => lane c (at_ c j)) := by
    rw [List.map_map]
    refine List.map_congr_left fun j _ => ?_
    simp only [lane]
    split
    next i found => exact Tile.lookupLane_of_hit found
    next missed => exact Tile.lookupLane_of_miss missed
  have routes {c : Ctx} {opc : BitVec 10} (hv : c.v = viewD opc n) (h : routed c) (k : Nat → FireRes) : c.routeIdx k = k (index c) := by
    obtain ⟨clean, low, own⟩ := h
    exact (Ctx.routeIdx_eq hv clean rfl k).trans (if_neg (not_or.2 ⟨Nat.not_le.2 low, Nat.not_le.2 own⟩))
  have replaces {c : Ctx} (hv : c.v = viewD 0x304 n) (h : writes c) : c.rtwr = c.writeRoute (entry c) (index c) := by
    obtain ⟨control, clean, h⟩ := h
    rw [Ctx.rtwr, control, clean]
    exact routes hv h _
  have slot (opc : BitVec 10) {c : Ctx} (hv : c.v = viewD opc n) : c.v.bits 0 5 = num := Ctx.bits_eq hv 0 5
  have flag (opc : BitVec 10) {c : Ctx} (hv : c.v = viewD opc n) : (c.v.bits 5 1 = 1) = (five = true) := Ctx.flag_eq hv 5
  refine ⟨completes_of_done (exec_lookup_eq n) ?lookup, holds_of_hold (exec_lookup_eq n) ?lookupWaits,
    traps_of_trap (exec_lookup_eq n) ?lookupRole, completes_of_done (fun _ => rfl) ?tstateOne,
    completes_of_done (fun _ => rfl) ?tstateAll, completes_of_done (fun _ => rfl) ?tset, traps_of_trap (fun _ => rfl) ?tsetHeld,
    completes_of_done (fun _ => rfl) ?rtrd, traps_of_trap (fun _ => rfl) ?rtrdBeyond, traps_of_trap (fun _ => rfl) ?rtrdPoison,
    completes_of_done (exec_rtwr_eq n) ?rtwr, traps_of_trap (exec_rtwr_eq n) ?rtwrBad, traps_of_trap (exec_rtwr_eq n) ?rtwrRole,
    completes_of_done (fun _ => rfl) ?bandrd⟩
  case lookup =>
    rintro - c - ⟨clean, inside, ready, role⟩
    rw [Ctx.lookup, if_neg (Bool.eq_false_iff.1 clean), if_neg (Nat.not_le.2 inside), if_neg (not_not_intro ready),
      if_neg (not_not_intro role), lanes]
    rfl
  case lookupWaits =>
    rintro c - ⟨clean, inside, busy⟩
    rw [Ctx.lookup, if_neg (Bool.eq_false_iff.1 clean), if_neg (Nat.not_le.2 inside), if_pos busy]
  case lookupRole =>
    rintro c - ⟨clean, inside, ready, role⟩
    rw [Ctx.lookup, if_neg (Bool.eq_false_iff.1 clean), if_neg (Nat.not_le.2 inside), if_neg (not_not_intro ready), if_pos role]
  case tstateOne =>
    intro _ c hv one
    simp only [flag 0x301 hv, one, Bool.false_eq_true, if_false, slot 0x301 hv, Tile.entry_eq]
    rfl
  case tstateAll =>
    intro _ c hv all
    simp only [flag 0x301 hv, all, if_true, Tile.entry_eq]
    rfl
  case tset =>
    rintro _ c hv ⟨inside, free⟩
    simp only [flag 0x302 hv, slot 0x302 hv]
    rw [if_pos free, if_pos inside]
    rfl
  case tsetHeld =>
    intro c hv held
    simp only [slot 0x302 hv]
    refine if_neg fun free => ?_
    rcases held with h | h | h <;> rcases free with f | f <;> exact absurd (h.symm.trans f) (by decide)
  case rtrd => exact fun _ c hv h => routes hv h _
  case rtrdBeyond =>
    rintro c hv ⟨clean, far⟩
    exact (Ctx.routeIdx_eq hv clean rfl _).trans (if_pos far)
  case rtrdPoison => exact fun c hv bad => Ctx.control_of_poison hv (Classical.not_not.1 bad) _ _
  case rtwr =>
    rintro _ c hv ⟨h, good⟩
    exact (replaces hv h).trans (if_pos ((routeEntryOk_iff ..).2 good))
  case rtwrBad =>
    rintro c hv ⟨h, bad⟩
    exact (replaces hv h).trans (if_neg (mt (routeEntryOk_iff ..).1 bad))
  case rtwrRole =>
    intro c _ control
    rw [Ctx.rtwr, control]
    rfl
  case bandrd =>
    intro _ c hv clean
    rw [Ctx.control_of_clean hv clean, Band.word_eq, Ctx.bits_eq hv]
    rfl

end Sys2Proof.Machine
end

section
/-! PROOFS. MAPRD (12 R306): the request of each of its forms, by the fields of its operand. -/
namespace Sys2Proof.Machine
open Sys2Proof

/-- A request to the mapping unit of a field (12 R306). -/
def Ctx.askMap (c : Ctx) (n : Node) (form field arg : Nat) : FireRes :=
  .done { c.s with mapReqs := c.s.mapReqs ++
    [(field, { asid := c.f.asid, lc := c.f.lc, fire := c.f, what := form, arg := arg, n := n, tagOut := c.tag,
               rtA := c.x.destEntry n.dstA, rtB := c.x.destEntry n.dstB })] } []

/-- What each form of MAPRD asks of its operand: a logical core, a register of a field, or a remap entry of a field (12 R306). -/
def Ctx.mapForm (c : Ctx) (n : Node) (form : Nat) (b : Word) : FireRes :=
  let lc := (b.extractLsb' 0 17).toNat
  let field := (b.extractLsb' 0 6).toNat
  if form = 0 then (if c.p.n ≤ lc then .trap .accessFault 0x35 else c.askMap n form (c.p.posField lc) lc)
  else if form = 1 then c.askMap n form field (b.extractLsb' 6 5).toNat
  else if form = 2 then c.askMap n form field (b.extractLsb' 6 8).toNat
  else .trap .illegalNode Diag.reserved.code

/-- MAPRD by its control operand and its form (12 R306). -/
def Ctx.maprd (c : Ctx) (n : Node) : FireRes :=
  if n.ary = .dyad ∧ c.bTok.poison = true then .trap .poisonConsumed 0x03
  else c.mapForm n (n.lit.extractLsb' 30 2).toNat (if n.ary = .dyad then tlane c.bTok 0 else n.lit)

theorem toNat_low {n : Nat} (b : BitVec n) (k : Nat) : b.toNat % 2 ^ k = (b.extractLsb' 0 k).toNat := by
  rw [BitVec.extractLsb'_toNat, Nat.shiftRight_zero]

theorem exec_maprd_eq (n : Node) (s : State) : exec (.maprd n) s = fire (viewD 0x305 n) s (·.maprd n) := by
  refine fire_congr fun c hv => ?_
  unfold Ctx.maprd
  split
  next bad => exact Ctx.control_of_poison hv bad _ _
  next clean =>
    rw [Ctx.control_lit hv clean, Ctx.bits_eq hv]
    generalize (if n.ary = .dyad then tlane c.bTok 0 else n.lit) = b
    rw [Ctx.mapForm, ← toNat_low b 17, ← toNat_low b 6, ← toNat_field b 6 5, ← toNat_field b 6 8]
    rfl

/-- Settles O30: each form asks the mapping unit of its field. -/
theorem mappingRequests : Obligations.MappingRequests := by
  unfold Obligations.MappingRequests
  intro n named form arg lc field asks
  have asked {c : Ctx} (clean : named c) : c.maprd n = c.mapForm n form (arg c) := if_neg clean
  refine ⟨completes_of_done (exec_maprd_eq n) ?core, completes_of_done (exec_maprd_eq n) ?register,
    completes_of_done (exec_maprd_eq n) ?remap, traps_of_trap (exec_maprd_eq n) ?beyond, traps_of_trap (exec_maprd_eq n) ?poison⟩
  case core =>
    rintro - c - ⟨clean, isCore, inside⟩
    rw [asked clean, isCore]
    exact if_neg (Nat.not_le.2 inside)
  case register =>
    rintro - c - ⟨clean, isRegister⟩
    rw [asked clean, isRegister]
    rfl
  case remap =>
    rintro - c - ⟨clean, isRemap⟩
    rw [asked clean, isRemap]
    rfl
  case beyond =>
    rintro c - ⟨clean, isCore, outside⟩
    rw [asked clean, isCore]
    exact if_pos outside
  case poison => exact fun c _ bad => if_pos (Classical.not_not.1 bad)

end Sys2Proof.Machine
end

section
/-! PROOFS. Meeting commands at issue (12 R308, R310 to R314): the room for a command, the command that is sent, and member words. -/
namespace Sys2Proof.Machine
open Sys2Proof

/-- The room for a meeting command (12 R308; 06 Table 6; 11 R285). -/
theorem State.meetRoom_iff {s : State} {unit asid lc : Nat} : s.meetRoom unit asid lc = true ↔
    s.outstanding .meet unit asid lc ((s.field unit).mq ++ (s.field unit).mOut) < 4 ∧
      s.queued .meet unit ((s.field unit).mq ++ (s.field unit).mOut.filter (fun j => j.opc != 0x308)) < 64 := by
  rw [State.meetRoom, Bool.and_eq_true, decide_eq_true_eq, decide_eq_true_eq]

section sent
variable (c : Ctx) (n : Node) (e1 e2 : BitVec 86) (w : Word)

/-- The state in which a meeting command is on its way to the local unit (12 R308). -/
def Ctx.sendMeet : State :=
  let t := c.upd (fun x => x.perfEvent 0x0B 1)
  { t with cmds := t.cmds ++ [mkCmd .meet c.x.field { c.job n e1 e2 [w] with aux := c.x.field }] }

variable {c}

theorem Ctx.meetCmd_of_room (room : c.s.meetRoom c.x.field c.f.asid c.f.lc = true) :
    c.meetCmd n e1 e2 w = .done (c.sendMeet n e1 e2 w) [] := if_pos room

theorem Ctx.meetCmd_of_full (full : ¬ c.s.meetRoom c.x.field c.f.asid c.f.lc = true) : c.meetCmd n e1 e2 w = .hold := if_neg full

end sent

section member
variable {c : Ctx} {w : Word}

/-- Whether a member word has its reserved bits clear and names an owner that there is (12 R311). -/
def Ctx.SoundMember (c : Ctx) (w : Word) : Prop :=
  w.extractLsb' 27 5 = 0 ∧ ¬ ((w.extractLsb' 10 17).toNat < 65536 ∧ c.p.n ≤ (w.extractLsb' 10 17).toNat)

theorem Ctx.soundMember_iff : c.SoundMember w ↔
    ¬ (w.toNat / 134217728 ≠ 0 ∨ (w.toNat / 1024 % 131072 < 65536 ∧ c.p.n ≤ w.toNat / 1024 % 131072)) := by
  have owner : w.toNat / 1024 % 131072 = (w.extractLsb' 10 17).toNat := toNat_field w 10 17
  have reserved : w.toNat / 134217728 = (w.extractLsb' 27 5).toNat := by
    rw [← toNat_field w 27 5]
    omega
  rw [owner, reserved, Ctx.SoundMember, not_or, not_not, ← BitVec.toNat_inj]
  rfl

theorem Ctx.memberWord_of_sound (h : c.SoundMember w) (k : Word → FireRes) : c.memberWord w.toNat k = k w :=
  (if_neg (Ctx.soundMember_iff.1 h)).trans (congrArg k (word_lane w))

theorem Ctx.memberWord_of_unsound (h : ¬ c.SoundMember w) (k : Word → FireRes) : c.memberWord w.toNat k = .trap .accessFault 0x36 :=
  if_pos (Classical.not_not.1 (mt Ctx.soundMember_iff.2 h))

end member

/-- The member word that names a logical core (12 R311). -/
theorem word_owner {k : Nat} (h : k < 131072) : word (1024 * k) = (BitVec.ofNat 17 k).setWidth 32 <<< 10 := by
  rw [← ofNat_two_pow_mul, show (BitVec.ofNat 17 k).toNat = k from Nat.mod_eq_of_lt h]
  rfl

section owner
variable {c : Ctx} {opc : BitVec 10} {n : Node} (hv : c.v = viewD opc n)
include hv

theorem Ctx.ownerWord_of_const (const : n.ary = .const) (k : Word → FireRes) :
    c.ownerWord k = c.memberWord (c.x.kreg (n.lit.extractLsb' 0 6).toNat).toNat k := by
  rw [Ctx.ownerWord, if_pos ((Ctx.ary_eq hv).trans const), Ctx.bits_eq hv]
  rfl

/-- The owner of QCLOSE, QSTAT and QLAG: a constant register names it, or it is the issuing core (12 R312). -/
theorem Ctx.ownerWord_of_sound (ruled : n.ary = .const → c.SoundMember (c.x.kreg (n.lit.extractLsb' 0 6).toNat))
    (lcOk : c.f.lc < 131072) (k : Word → FireRes) : c.ownerWord k =
      k (if n.ary = .const then c.x.kreg (n.lit.extractLsb' 0 6).toNat else (BitVec.ofNat 17 c.f.lc).setWidth 32 <<< 10) := by
  split
  next const => rw [Ctx.ownerWord_of_const hv const, Ctx.memberWord_of_sound (ruled const)]
  next own => rw [Ctx.ownerWord, if_neg (fun h => own ((Ctx.ary_eq hv).symm.trans h)), word_owner lcOk]

end owner

/-- The member word of a QCONTRIB: lane 0 of b, a constant register or the literal (12 R311). -/
def Ctx.contribWord (c : Ctx) (n : Node) : Word :=
  if n.ary = .dyad then tlane c.bTok 0 else if n.ary = .const then c.x.kreg (n.lit.extractLsb' 0 6).toNat else n.lit

/-- QCONTRIB by its member word (12 R311). -/
def Ctx.qcontrib (c : Ctx) (n : Node) : FireRes :=
  if n.ary = .dyad ∧ c.bTok.poison = true then .trap .poisonConsumed 0x03
  else c.memberWord (c.contribWord n).toNat (c.meetCmd n 0 0)

theorem exec_qcontrib_eq (n : Node) (s : State) : exec (.qcontrib n) s = fire (viewD 0x308 n) s (·.qcontrib n) := by
  refine fire_congr fun c hv => ?_
  have whole : n.lit.extractLsb' 0 32 = n.lit := BitVec.extractLsb'_eq_self
  simp only [Ctx.ary_eq hv, Ctx.bits_eq hv, whole, Ctx.qcontrib, Ctx.contribWord]
  cases n.ary with
  | dyad => simp only [true_and, if_true]
  | mono => rfl
  | const => rfl
  | lit => rfl

/-- Settles O31: where its operand is clean and its member word sound, a command leaves or waits by the room of its unit. -/
theorem meetingCommands : Obligations.MeetingCommands := by
  unfold Obligations.MeetingCommands
  intro n e1 e2 unit room sent own sound k member named owner ruled clean lcOk walked
  have leaves {c : Ctx} (h : room c) (e1 e2 : BitVec 86) (w : Word) : c.meetCmd n e1 e2 w = .done (sent c e1 e2 w) [] :=
    Ctx.meetCmd_of_room n e1 e2 w (State.meetRoom_iff.2 h)
  have waits {c : Ctx} (h : ¬ room c) (e1 e2 : BitVec 86) (w : Word) : c.meetCmd n e1 e2 w = .hold :=
    Ctx.meetCmd_of_full n e1 e2 w (mt State.meetRoom_iff.1 h)
  have tried {c : Ctx} (h : named c) : c.qcontrib n = c.memberWord (member c).toNat (c.meetCmd n 0 0) := if_neg h
  have owned {c : Ctx} {opc : BitVec 10} (hv : c.v = viewD opc n) (h : ruled c ∧ lcOk c ∧ room c) :
      c.ownerWord (c.meetCmd n 0 0) = .done (sent c 0 0 (owner c)) [] := by
    obtain ⟨rules, inside, free⟩ := h
    exact (Ctx.ownerWord_of_sound hv rules inside _).trans (leaves free 0 0 _)
  refine ⟨completes_of_done (fun _ => rfl) ?qopen, completes_of_done (exec_qcontrib_eq n) ?qcontrib,
    completes_of_done (fun _ => rfl) fun _ _ => owned, completes_of_done (fun _ => rfl) fun _ _ => owned,
    completes_of_done (fun _ => rfl) fun _ _ => owned, completes_of_done (fun _ => rfl) ?qwset,
    completes_of_done (fun _ => rfl) ?cwalk, holds_of_hold (fun _ => rfl) ?qopenWaits, holds_of_hold (exec_qcontrib_eq n) ?contribWaits,
    traps_of_trap (exec_qcontrib_eq n) ?unsound, traps_of_trap (exec_qcontrib_eq n) ?unnamed, traps_of_trap (fun _ => rfl) ?close,
    traps_of_trap (fun _ => rfl) ?weights⟩
  case qopen =>
    rintro - c - ⟨clear, inside, free⟩
    rw [if_neg (Bool.eq_false_iff.1 clear), leaves free, word_owner inside]
  case qcontrib =>
    rintro - c - ⟨known, good, free⟩
    rw [tried known, Ctx.memberWord_of_sound good, leaves free]
  case qwset =>
    rintro - c - ⟨clear, free⟩
    rw [if_neg (Bool.eq_false_iff.1 clear), leaves free]
  case cwalk =>
    rintro - c hv ⟨clear, free⟩
    have first : c.v.x1 0 17 = (e1.extractLsb' 0 17).toNat := by
      rw [hv]
      exact toNat_field e1 0 17
    rw [if_neg (Bool.eq_false_iff.1 clear), leaves free, first, word_owner (BitVec.isLt _), BitVec.ofNat_toNat, BitVec.setWidth_eq]
  case qopenWaits =>
    rintro c - ⟨clear, full⟩
    rw [if_neg (Bool.eq_false_iff.1 clear), waits full]
  case contribWaits =>
    rintro c - ⟨known, good, full⟩
    rw [tried known, Ctx.memberWord_of_sound good, waits full]
  case unsound =>
    rintro c - ⟨known, bad⟩
    rw [tried known, Ctx.memberWord_of_unsound bad]
  case unnamed => exact fun c _ bad => if_pos (Classical.not_not.1 bad)
  case close =>
    rintro c hv ⟨const, bad⟩
    rw [Ctx.ownerWord_of_const hv const, Ctx.memberWord_of_unsound bad]
  case weights => exact fun c _ bad => if_pos (Bool.not_eq_false _ ▸ bad)

end Sys2Proof.Machine
end

section
/-! PROOFS. A stripe of DRAM (13 R321, R326): the nine bytes of a stripe as one function of the layer, the exclusive OR of them, and
what a read and a write of a data unit are in these terms. -/
namespace Sys2Proof.Machine
open Sys2Proof

/-- The exclusive OR of the first `n` values of `f`. -/
def xorBelow (n : Nat) (f : Nat → Byte) : Byte := (List.range n).foldl (fun a m => a ^^^ f m) 0

theorem xorBelow_succ (n : Nat) (f : Nat → Byte) : xorBelow (n + 1) f = xorBelow n f ^^^ f n := by
  simp [xorBelow, List.range_succ]

theorem xorBelow_update_above (f : Nat → Byte) (v : Byte) {n l : Nat} (h : n ≤ l) :
    xorBelow n (Function.update f l v) = xorBelow n f := by
  induction n with
  | zero => rfl
  | succ n ih => rw [xorBelow_succ, xorBelow_succ, ih (by omega), Function.update_of_ne (by omega)]

/-- A value that changes changes the exclusive OR by its own difference. -/
theorem xorBelow_update (f : Nat → Byte) (v : Byte) {n l : Nat} (h : l < n) :
    xorBelow n (Function.update f l v) = xorBelow n f ^^^ f l ^^^ v := by
  induction n with
  | zero => omega
  | succ n ih =>
    rw [xorBelow_succ, xorBelow_succ]
    obtain rfl | below : l = n ∨ l < n := by omega
    · rw [xorBelow_update_above f v (Nat.le_refl l), Function.update_self, BitVec.xor_assoc (xorBelow l f), BitVec.xor_self,
        BitVec.xor_zero]
    · rw [ih below, Function.update_of_ne (by omega)]
      ac_rfl

/-- The exclusive OR of all values but one. -/
theorem foldl_xor_except (f : Nat → Byte) {n l : Nat} (h : l < n) :
    (List.range n).foldl (fun a m => if m = l then a else a ^^^ f m) 0 = xorBelow n f ^^^ f l := by
  have skip : (fun a m => if m = l then a else a ^^^ f m) = fun a m => a ^^^ Function.update f l 0 m := by
    funext a m
    by_cases same : m = l
    · subst same; simp
    · simp [same]
  rw [skip]
  exact (xorBelow_update f 0 h).trans BitVec.xor_zero

/-- A data unit and its parity that change alike leave the exclusive OR of the stripe as it was (13 R321). -/
theorem xorBelow_update_parity (f : Nat → Byte) (v : Byte) {n l p : Nat} (hl : l < n) (hp : p < n) (ne : p ≠ l) :
    xorBelow n (Function.update (Function.update f l v) p (f p ^^^ f l ^^^ v)) = xorBelow n f := by
  rw [xorBelow_update _ _ hp, xorBelow_update f v hl, Function.update_of_ne ne]
  calc xorBelow n f ^^^ f l ^^^ v ^^^ f p ^^^ (f p ^^^ f l ^^^ v)
      = xorBelow n f ^^^ (f l ^^^ f l) ^^^ (v ^^^ v) ^^^ (f p ^^^ f p) := by ac_rfl
    _ = xorBelow n f := by simp

/-- Byte `b` of the unit of layer `m` of stripe `q`, where the unit stands in its own bank. -/
def State.unitByte (s : State) (k c q b m : Nat) : Byte := s.raw (locKey k c m q b)

theorem locKey_inj_layer {k c l m q b : Nat} : locKey k c l q b = locKey k c m q b ↔ l = m := by
  unfold locKey
  omega

theorem State.raw_setRaw_ne (s : State) (v : Byte) {a loc : Nat} (h : a ≠ loc) : (s.setRaw loc v).raw a = s.raw a :=
  SMap.get_put_ne 0 s.mem loc a v h

theorem State.setRaw_wf {s : State} (wf : Memory.wf s.mem = true) (loc : Nat) (v : Byte) : Memory.wf (s.setRaw loc v).mem = true :=
  (State.setRaw_keeps s loc v).2 wf

theorem State.unitByte_setRaw {s : State} (wf : Memory.wf s.mem = true) (k c q b l : Nat) (v : Byte) :
    (s.setRaw (locKey k c l q b) v).unitByte k c q b = Function.update (s.unitByte k c q b) l v := by
  funext m
  by_cases same : m = l
  · subst same
    rw [Function.update_self]
    exact SMap.get_put_self 0 s.mem _ v wf
  · rw [Function.update_of_ne same]
    exact s.raw_setRaw_ne v (mt locKey_inj_layer.1 same)

/-- A write of DRAM changes the memory alone. -/
theorem State.setDramByte_clusters (s : State) (k c l q b : Nat) (v : Byte) : (s.setDramByte k c l q b v).clusters = s.clusters := by
  unfold State.setDramByte
  extract_lets x lp loc
  split_ifs <;> rfl

theorem State.setDramByte_cluster (s : State) (k c l q b : Nat) (v : Byte) (j : Nat) :
    (s.setDramByte k c l q b v).cluster j = s.cluster j := by
  rw [State.cluster, State.setDramByte_clusters, State.cluster]

/-- A column all of whose banks work, but for the data bank `bad` where there is one, and whose LP bank serves no other (13 R326). -/
structure Cluster.Sound (x : Cluster) (c : Nat) (bad : Option Nat) : Prop where
  banks : ∀ m, m < 9 → (x.bank c m).lost = [] ∧ (x.bank c m).down = false ∧
    (x.bank c m).st = if bad = some m then .degraded else .healthy
  parity : bad ≠ some 8
  serves : (x.col c).lpServes = []

namespace Cluster.Sound
variable {x : Cluster} {c : Nat} {bad : Option Nat} (sound : x.Sound c bad)
include sound

theorem usable_of_ne {l : Nat} (hl : l < 9) (works : bad ≠ some l) (q : Nat) : x.usable c l q = true := by
  obtain ⟨lost, down, st⟩ := sound.banks l hl
  rw [if_neg works] at st
  simp [Cluster.usable, st, down]

theorem usable_of_eq {l : Nat} (hl : l < 9) (fails : bad = some l) (q : Nat) : x.usable c l q = false := by
  obtain ⟨lost, down, st⟩ := sound.banks l hl
  rw [if_pos fails] at st
  simp [Cluster.usable, inIvs, lost, st]

theorem lpHolds (l q : Nat) : x.lpHolds c l q = false := by
  simp [Cluster.lpHolds, sound.serves]

theorem lpParity (q : Nat) : x.lpParity c q = true := by
  simp [Cluster.lpParity, Cluster.lpTaken, sound.usable_of_ne (by decide : 8 < 9) sound.parity, sound.serves]

/-- No bank is substituted, so every unit stands in its own bank (13 R327). -/
theorem unitLoc {m : Nat} (hm : m < 9) (k q b : Nat) : x.unitLoc k c m q + b = locKey k c m q b := by
  obtain ⟨-, -, st⟩ := sound.banks m hm
  have own : ¬ ((x.bank c m).st = .substituted ∨ ((x.bank c m).st = .rebuilding ∧ q < (x.bank c m).done)) := by
    rw [st]
    split <;> simp
  simp [Cluster.unitLoc, own, locKey]

theorem reconstruct (s : State) {l : Nat} (hl : l < 9) (k q b : Nat) :
    s.reconstruct x k c l q b = xorBelow 9 (s.unitByte k c q b) ^^^ s.unitByte k c q b l := by
  rw [← foldl_xor_except _ hl]
  refine List.foldl_ext _ _ _ fun a m hm => ?_
  rw [sound.unitLoc (List.mem_range.1 hm)]
  rfl

end Cluster.Sound

section stripe
variable {s : State} {k c : Nat} {bad : Option Nat} (sound : (s.cluster k).Sound c bad) {l : Nat} (hl : l < 8) (q b : Nat)
include sound hl

/-- A unit whose bank works reads as its own bank's bytes. -/
theorem State.dramByte_of_works (works : bad ≠ some l) : s.dramByte k c l q b = s.unitByte k c q b l := by
  have hl : l < 9 := by omega
  simp only [State.dramByte, sound.usable_of_ne hl works, if_true, sound.unitLoc hl, State.unitByte]

/-- The unit of the degraded bank reads as the exclusive OR of the others (13 R326). -/
theorem State.dramByte_of_degraded (fails : bad = some l) :
    s.dramByte k c l q b = xorBelow 9 (s.unitByte k c q b) ^^^ s.unitByte k c q b l := by
  have hl : l < 9 := by omega
  simp only [State.dramByte, sound.usable_of_eq hl fails, sound.lpHolds, sound.lpParity, Bool.false_eq_true, if_false, if_true,
    sound.reconstruct s hl]

/-- A unit whose bank works is written with its parity (13 R321). -/
theorem State.setDramByte_of_works (works : bad ≠ some l) (v : Byte) : s.setDramByte k c l q b v =
    (s.setRaw (locKey k c l q b) v).setRaw (locKey k c 8 q b) (s.unitByte k c q b 8 ^^^ s.unitByte k c q b l ^^^ v) := by
  have hl : l < 9 := by omega
  simp only [State.setDramByte, sound.usable_of_ne hl works, sound.lpParity, if_true, sound.unitLoc hl,
    sound.unitLoc (by decide : 8 < 9), State.unitByte]

/-- A write of the degraded bank's unit changes the parity alone (13 R326). -/
theorem State.setDramByte_of_degraded (fails : bad = some l) (v : Byte) : s.setDramByte k c l q b v =
    s.setRaw (locKey k c 8 q b)
      (s.unitByte k c q b 8 ^^^ (xorBelow 9 (s.unitByte k c q b) ^^^ s.unitByte k c q b l) ^^^ v) := by
  have hl : l < 9 := by omega
  simp only [State.setDramByte, sound.usable_of_eq hl fails, sound.lpHolds, sound.lpParity, Bool.false_eq_true, if_false, if_true,
    sound.unitLoc (by decide : 8 < 9), sound.reconstruct s hl, State.unitByte]

/-- A write stores nothing beside the byte's own place and its parity's. -/
theorem State.setDramByte_raw (v : Byte) {a : Nat} (own : a ≠ locKey k c l q b) (parity : a ≠ locKey k c 8 q b) :
    (s.setDramByte k c l q b v).raw a = s.raw a := by
  by_cases fails : bad = some l
  · rw [State.setDramByte_of_degraded sound hl q b fails, State.raw_setRaw_ne _ _ parity]
  · rw [State.setDramByte_of_works sound hl q b fails, State.raw_setRaw_ne _ _ parity, State.raw_setRaw_ne _ _ own]

/-- A write leaves every other data unit as it was stored. -/
theorem State.unitByte_setDramByte_ne (v : Byte) {m : Nat} (hm : m < 8) (ne : m ≠ l) :
    (s.setDramByte k c l q b v).unitByte k c q b m = s.unitByte k c q b m :=
  State.setDramByte_raw sound hl q b v (mt locKey_inj_layer.1 ne) (mt locKey_inj_layer.1 (by omega))

variable (wf : Memory.wf s.mem = true)
include wf

theorem State.unitByte_setDramByte_of_works (works : bad ≠ some l) (v : Byte) :
    (s.setDramByte k c l q b v).unitByte k c q b = Function.update (Function.update (s.unitByte k c q b) l v) 8
      (s.unitByte k c q b 8 ^^^ s.unitByte k c q b l ^^^ v) := by
  rw [State.setDramByte_of_works sound hl q b works, State.unitByte_setRaw (State.setRaw_wf wf _ _), State.unitByte_setRaw wf]

theorem State.unitByte_setDramByte_of_degraded (fails : bad = some l) (v : Byte) :
    (s.setDramByte k c l q b v).unitByte k c q b = Function.update (s.unitByte k c q b) 8
      (s.unitByte k c q b 8 ^^^ (xorBelow 9 (s.unitByte k c q b) ^^^ s.unitByte k c q b l) ^^^ v) := by
  rw [State.setDramByte_of_degraded sound hl q b fails, State.unitByte_setRaw wf]

/-- Beside a bank that works, a write leaves the exclusive OR of the stripe as it was (13 R321). -/
theorem State.xorBelow_setDramByte (works : bad ≠ some l) (v : Byte) :
    xorBelow 9 ((s.setDramByte k c l q b v).unitByte k c q b) = xorBelow 9 (s.unitByte k c q b) := by
  rw [State.unitByte_setDramByte_of_works sound hl q b wf works, xorBelow_update_parity _ _ (by omega) (by decide) (by omega)]

/-- A byte written reads back. -/
theorem State.dramByte_setDramByte_self (v : Byte) : (s.setDramByte k c l q b v).dramByte k c l q b = v := by
  have sound' : ((s.setDramByte k c l q b v).cluster k).Sound c bad := by rwa [State.setDramByte_cluster]
  by_cases fails : bad = some l
  · rw [State.dramByte_of_degraded sound' hl q b fails, State.unitByte_setDramByte_of_degraded sound hl q b wf fails,
      xorBelow_update _ _ (by decide), Function.update_of_ne (by omega)]
    generalize xorBelow 9 _ = x, s.unitByte k c q b 8 = p, s.unitByte k c q b l = u
    calc x ^^^ p ^^^ (p ^^^ (x ^^^ u) ^^^ v) ^^^ u = (x ^^^ x) ^^^ (p ^^^ p) ^^^ (u ^^^ u) ^^^ v := by ac_rfl
      _ = v := by simp
  · rw [State.dramByte_of_works sound' hl q b fails, State.unitByte_setDramByte_of_works sound hl q b wf fails,
      Function.update_of_ne (by omega), Function.update_self]

/-- Every other data unit of the stripe reads as before, that of a degraded bank too. -/
theorem State.dramByte_setDramByte_ne (v : Byte) {m : Nat} (hm : m < 8) (ne : m ≠ l) :
    (s.setDramByte k c l q b v).dramByte k c m q b = s.dramByte k c m q b := by
  have sound' : ((s.setDramByte k c l q b v).cluster k).Sound c bad := by rwa [State.setDramByte_cluster]
  have stored := State.unitByte_setDramByte_ne sound hl q b v hm ne
  by_cases fails : bad = some m
  · have works : bad ≠ some l := by rw [fails]; simpa using ne
    rw [State.dramByte_of_degraded sound' hm q b fails, State.dramByte_of_degraded sound hm q b fails, stored,
      State.xorBelow_setDramByte sound hl q b wf works]
  · rw [State.dramByte_of_works sound' hm q b fails, State.dramByte_of_works sound hm q b fails, stored]

end stripe

/-- Settles O43: the bank of the unit works or is the degraded one, and a write changes the exclusive OR of the stripe accordingly. -/
theorem dramStripes : Obligations.Stripes := by
  unfold Obligations.Stripes
  intro s k c q b bad _ _ wf banks parity serves held others
  have sound : (s.cluster k).Sound c bad := ⟨banks, parity, serves⟩
  refine ⟨fun l hl => ?read, fun l v hl => ⟨?self, ?frame, ?canonical, ?stripe, ?beside, ?elsewhere⟩⟩
  case read =>
    by_cases fails : bad = some l
    · rw [if_pos fails, State.dramByte_of_degraded sound hl q b fails]
      exact (foldl_xor_except _ (by omega)).symm
    · rw [if_neg fails]
      exact State.dramByte_of_works sound hl q b fails
  case self => exact State.dramByte_setDramByte_self sound hl q b wf v
  case frame => exact s.setDramByte_clusters k c l q b v
  case canonical => exact (s.setDramByte_keeps k c l q b v).2 wf
  case stripe =>
    intro none even
    have works : bad ≠ some l := by simp [none]
    exact (State.xorBelow_setDramByte sound hl q b wf works v).trans even
  case beside => exact fun m hm ne => State.dramByte_setDramByte_ne sound hl q b wf v hm ne
  case elsewhere => exact fun a own lp => State.setDramByte_raw sound hl q b v own lp

end Sys2Proof.Machine
end

section
/-! PROOFS. Translation (13 R341, R344 to R347; 10 R276; 17 R411): a miss at a field's walker, what ends a walk and what a walk that
found V = 0 waits for, and the queue of invalidations. -/
namespace Sys2Proof.Machine
open Sys2Proof

theorem length_eraseDups_le {α : Type} [BEq α] : ∀ l : List α, l.eraseDups.length ≤ l.length
  | [] => by simp
  | a :: r => by
    have fewer : (r.filter (fun b => !b == a)).length ≤ r.length := List.length_filter_le _ r
    have := length_eraseDups_le (r.filter (fun b => !b == a))
    rw [List.eraseDups_cons, List.length_cons, List.length_cons]
    omega
termination_by l => l.length
decreasing_by
  rw [List.length_cons]
  omega

section miss
variable {f : Field} {asid vpn : Nat} {who : Miss}

/-- A miss joins the walk of its page (13 R344). -/
theorem Field.miss_of_walked {w : Walk} (hw : w ∈ f.walks) (ha : w.asid = asid) (hv : w.vpn = vpn) :
    (f.miss asid vpn who).walks.length = f.walks.length ∧ (f.miss asid vpn who).wqueue = f.wqueue := by
  have walked : f.walks.any (fun w => w.asid == asid && w.vpn == vpn) = true :=
    List.any_eq_true.2 ⟨w, hw, by simp [ha, hv]⟩
  rw [Field.miss, if_pos walked]
  exact ⟨List.length_map _, rfl⟩

variable (unwalked : ∀ w ∈ f.walks, ¬ (w.asid = asid ∧ w.vpn = vpn)) (unqueued : (asid, vpn, who) ∉ f.wqueue)
include unwalked unqueued

/-- A miss of a page that no walk is of, by the room of the walker and of its queue. -/
theorem Field.miss_of_unwalked : f.miss asid vpn who =
    if f.walks.length < 16 then { f with walks := f.walks ++ [{ asid := asid, vpn := vpn, who := [who], fault := none }] }
    else if ((f.wqueue.map (fun q => (q.1, q.2.1))).eraseDups).length < 64 ∨ f.wqueue.any (fun q => q.1 == asid && q.2.1 == vpn) then
      { f with wqueue := f.wqueue ++ [(asid, vpn, who)] }
    else f := by
  have new : ¬ f.walks.any (fun w => w.asid == asid && w.vpn == vpn) = true := by
    simpa [List.any_eq_true] using unwalked
  rw [Field.miss, if_neg new, if_neg (mt List.contains_iff_mem.1 unqueued)]

theorem Field.miss_starts (room : f.walks.length < 16) : f.miss asid vpn who =
    { f with walks := f.walks ++ [{ asid := asid, vpn := vpn, who := [who], fault := none }] } := by
  rw [Field.miss_of_unwalked unwalked unqueued, if_pos room]

theorem Field.miss_queues (full : 16 ≤ f.walks.length) (room : f.wqueue.length < 64) :
    f.miss asid vpn who = { f with wqueue := f.wqueue ++ [(asid, vpn, who)] } := by
  have pages : ((f.wqueue.map (fun q => (q.1, q.2.1))).eraseDups).length < 64 :=
    (length_eraseDups_le _).trans_lt (by rwa [List.length_map])
  rw [Field.miss_of_unwalked unwalked unqueued, if_neg (Nat.not_lt.2 full), if_pos (.inl pages)]

end miss

/-- An access that misses goes to the walker of its field (13 R344). -/
theorem exec_tlbMissWalk_access {s : State} {fi asid lc id vpn : Nat} {x : LCore} {m : MemAcc} (hx : s.lc? asid lc = some x)
    (hm : x.mem.find? (fun m => m.id == id) = some m) (hf : x.field = fi) (active : s.active asid = true) (entered : m.entered = true)
    (misses : ∃ p ∈ m.toWalk, p.va / 4096 = vpn ∧ s.lookup asid x p.va m.writes = .miss) :
    exec (.tlbMissWalk fi asid vpn (.access asid lc id)) s =
      .next (s.updField fi (fun f => f.miss asid vpn (.access asid lc id))) := by
  have misses : m.toWalk.any (fun p => p.va / 4096 == vpn && s.lookup asid x p.va m.writes == .miss) = true := by
    simpa [List.any_eq_true] using misses
  show execTlbMissWalk fi asid vpn (.access asid lc id) s = _
  simp only [execTlbMissWalk, hx, hm, hf, active, entered, misses, and_self, if_true, State.missAt]

/-- Whether the waiter that started a walk writes (13 R346). -/
def State.walkWrites (s : State) (w : Walk) : Bool :=
  match w.who with
  | a :: _ => s.missWrites a
  | [] => false

/-- A fault reaches every waiter of a walk (13 R345). -/
def State.failAll (s : State) (w : Walk) (cause : Cause) (d : Nat) : State :=
  w.who.foldl (fun s a => (s.countMiss a).failMiss w.vpn cause d a) s

/-- The walk of a page is made again once an entry is written where it found V = 0 (13 R345). -/
def State.walkAgain (s : State) (fi k at_ : Nat) (e : DWord) : State :=
  ((s.assign at_).setBytes at_ (bytesOfNat 8 e.toNat)).updField fi (fun f =>
    { f with walks := f.walks.mapIdx (fun j w => if j = k then { w with fault := none } else w) })

section walk
variable {s : State} {fi k : Nat} {w : Walk} (hw : (s.field fi).walks[k]? = some w)
include hw

section complete

/-- A walk waits while an engine owns an entry that it reads (14 R361). -/
theorem exec_walkComplete_of_owned (owned : s.walkOwned fi w.asid w.vpn = true) : exec (.walkComplete fi k) s = .next s := by
  show execWalkComplete fi k s = _
  simp only [execWalkComplete, hw]
  exact congrArg _ (if_pos (.inr (.inl owned)))

variable (clear : w.fault = none) (free : s.walkOwned fi w.asid w.vpn = false) (rcFree : ∀ a ∈ w.who, s.rcOwned a = false)
include clear free rcFree

omit hw in
/-- No line keeps the walk from its end. -/
theorem State.walk_ends : ¬ (w.fault.isSome = true ∨ s.walkOwned fi w.asid w.vpn = true ∨ w.who.any s.rcOwned = true) := by
  simpa [clear, free, List.any_eq_true] using rcFree

/-- A leaf fills the caches and answers every waiter; A is set, and D for the walk of a write (13 R344, R346). -/
theorem exec_walkComplete_of_leaf {at_ level : Nat} {e : DWord} {upper : List (Nat × Nat)}
    (found : s.walk fi w.asid w.vpn = .leaf at_ e level upper) :
    let pa := ppnOf e * 4096 + (w.vpn * 4096) % (4096 * 512 ^ level)
    let setD := s.walkWrites w && (leafFault s e pa true true true).isNone
    let e' := e ||| (if setD then 0x30 else 0x10)
    exec (.walkComplete fi k) s = .next ((w.who.foldl (fun s a => s.fillMiss fi (tlbOf w.asid w.vpn level e') a)
      (((s.walkNote fi w.asid w.vpn).setAD at_ e setD).updField fi
        (fun f => { f with pwc := pwcFill f.pwc w.asid w.vpn upper }))).dropWalk fi k) := by
  show execWalkComplete fi k s = _
  simp only [execWalkComplete, hw, if_neg (State.walk_ends clear free rcFree), found]
  rfl

/-- V = 0 raises one PAGE_FAULT, of the first access that can fault, and the walk waits (13 R345). -/
theorem exec_walkComplete_of_absent {at_ asid lc id : Nat} {x : LCore} {m : MemAcc} (found : s.walk fi w.asid w.vpn = .absent at_)
    (loud : w.who.find? (fun a => !s.missQuiet a) = some (.access asid lc id)) (hm : s.missMem (.access asid lc id) = some (x, m)) :
    exec (.walkComplete fi k) s = .next (((s.walkNote fi w.asid w.vpn).updField fi (fun f =>
      { f with walks := f.walks.mapIdx (fun j w => if j = k then { w with fault := some at_, since := f.time.toNat } else w) })).sendTrap
        asid lc (m.trapInfo .pageFault 0) false none) := by
  show execWalkComplete fi k s = _
  simp only [execWalkComplete, hw, if_neg (State.walk_ends clear free rcFree), found, loud, hm]

/-- Where none of its accesses can fault, V = 0 ends the walk (13 R345). -/
theorem exec_walkComplete_of_quiet {at_ : Nat} (found : s.walk fi w.asid w.vpn = .absent at_)
    (quiet : ∀ a ∈ w.who, s.missQuiet a = true) :
    exec (.walkComplete fi k) s = .next (((s.walkNote fi w.asid w.vpn).failAll w .pageFault 0).dropWalk fi k) := by
  have silent : w.who.find? (fun a => !s.missQuiet a) = none := List.find?_eq_none.2 fun a ha => by simp [quiet a ha]
  show execWalkComplete fi k s = _
  simp only [execWalkComplete, hw, if_neg (State.walk_ends clear free rcFree), found, silent, State.failAll]

/-- A fault ends the walk (13 R345). -/
theorem exec_walkComplete_of_fault {d : Nat} (found : s.walk fi w.asid w.vpn = .fault d) :
    exec (.walkComplete fi k) s = .next (((s.walkNote fi w.asid w.vpn).failAll w .accessFault d).dropWalk fi k) := by
  show execWalkComplete fi k s = _
  simp only [execWalkComplete, hw, if_neg (State.walk_ends clear free rcFree), found, State.failAll]

end complete

section resolution
variable {at_ : Nat} (hf : w.fault = some at_)
include hf

/-- The region controller waits while an engine owns the entry (14 R361). -/
theorem exec_pageFaultResolution_of_owned (owned : s.isOwned at_ 8 = true) (leaf : Option DWord) :
    exec (.pageFaultResolution fi k leaf) s = .next s := by
  show execPageFaultResolution fi k leaf s = _
  simp only [execPageFaultResolution, hw, hf, owned, if_true]

/-- A walk of a window's page waits 10 ms of its field's TIME for a page of an empty pool (17 R411). -/
theorem exec_backingPageTimeout_of_empty (window : 17592186044416 ≤ w.vpn) (empty : (s.field fi).pages = []) :
    exec (.backingPageTimeout fi k) s = .next (if w.since + 10000000 ≤ (s.field fi).time.toNat then
      (s.failAll w .accessFault 0x59).dropWalk fi k else s) := by
  have late : (w.fault.isSome = true ∧ 17592186044416 ≤ w.vpn ∧ (s.field fi).pages = [] ∧
      w.since + 10000000 ≤ (s.field fi).time.toNat) ↔ w.since + 10000000 ≤ (s.field fi).time.toNat := by
    simp [hf, window, empty]
  show execBackingPageTimeout fi k s = _
  simp only [execBackingPageTimeout, hw, late, State.failAll]

variable (free : s.isOwned at_ 8 = false)
include free

/-- Without an entry, every waiter raises ACCESS_FAULT (13 R345). -/
theorem exec_pageFaultResolution_none :
    exec (.pageFaultResolution fi k none) s = .next ((s.failAll w .accessFault 0x59).dropWalk fi k) := by
  show execPageFaultResolution fi k none s = _
  simp only [execPageFaultResolution, hw, hf, free, Bool.false_eq_true, if_false, State.failAll]

/-- An entry that the region controller gives of a page outside the windows is written, and the walk is made again (13 R345). -/
theorem exec_pageFaultResolution_of_outside (outside : w.vpn < 17592186044416) (e : DWord) :
    exec (.pageFaultResolution fi k (some e)) s = .next (s.walkAgain fi k at_ e) := by
  have outside : ¬ (17592186044416 ≤ w.vpn ∧ e.getLsbD 3 = true) := fun h => Nat.not_le.2 outside h.1
  show execPageFaultResolution fi k (some e) s = _
  simp only [execPageFaultResolution, hw, hf, free, Bool.false_eq_true, if_false, if_neg outside, State.walkAgain]

/-- The backing of a window's page comes, zero-filled, from the field's pool (13 R341). -/
theorem exec_pageFaultResolution_of_window (window : 17592186044416 ≤ w.vpn) {e : DWord} (leaf : e.getLsbD 3 = true)
    (pooled : ppnOf e ∈ (s.field fi).pages) : exec (.pageFaultResolution fi k (some e)) s = .next (State.walkAgain
      (State.poolLow { ((s.writeRange 64 (ppnOf e * 4096) (List.replicate 4096 0) false).updField fi
          (fun f => { f with pages := f.pages.filter (· ≠ ppnOf e) })) with
        backing := (w.asid, w.vpn) :: s.backing.filter (· ≠ (w.asid, w.vpn)) } fi) fi k at_ e) := by
  show execPageFaultResolution fi k (some e) s = _
  simp only [execPageFaultResolution, hw, hf, free, Bool.false_eq_true, if_false, if_pos (And.intro window leaf),
    if_pos (List.contains_iff_mem.2 pooled), State.walkAgain]

end resolution
end walk

section invalidation
variable {s : State} {fi : Nat}

/-- At most 8 invalidations are queued (13 R347). -/
theorem State.updField_queueInval (s : State) (fi : Nat) (i : Inval) :
    s.updField fi (fun f => f.queueInval i) = if (s.field fi).invq.length < 8
      then s.updField fi (fun f => { f with invq := f.invq ++ [i], issued := f.issued + 1 })
      else s.updField fi (fun f => { f with overrun := true }) := by
  simp only [State.updField, Field.queueInval, apply_ite (s.setField fi)]

theorem exec_of_queueInval {e : Instr} {i : Inval} (queues : exec e s = .next (s.updField fi (fun f => f.queueInval i))) :
    ((s.field fi).invq.length < 8 →
      exec e s = .next (s.updField fi (fun f => { f with invq := f.invq ++ [i], issued := f.issued + 1 }))) ∧
    (8 ≤ (s.field fi).invq.length → exec e s = .next (s.updField fi (fun f => { f with overrun := true }))) := by
  rw [queues, State.updField_queueInval]
  exact ⟨fun room => by rw [if_pos room], fun full => by rw [if_neg (Nat.not_lt.2 full)]⟩

/-- A cluster whose TLB has dropped the entries that an invalidation names (10 R276). -/
def Inval.sweepCluster (i : Inval) (x : Cluster) : Cluster := { x with tlb := x.tlb.filter (fun e => !i.hits e) }

/-- A field whose page-walk cache has dropped the entries that an invalidation names (10 R276). -/
def Inval.sweepField (i : Inval) (f : Field) : Field := { f with pwc := f.pwc.filter (fun e => !i.hitsUpper e) }

/-- The state once every TLB and page-walk cache has dropped the entries that an invalidation names (10 R276, 13 R347). -/
def State.sweep (s : State) (i : Inval) : State :=
  { s with
    tlbs := (s.tlbs.map (fun t => (t.1, t.2.filter (fun e => !i.hits e)))).filter (fun t => !t.2.isEmpty)
    clusters := s.clusters.map (fun e => (e.1, i.sweepCluster e.2))
    fields := s.fields.map (fun e => (e.1, i.sweepField e.2)) }

/-- The oldest invalidation completes once the accesses that it waits for have (10 R276, 13 R347). -/
theorem exec_invalidationComplete {i : Inval} {r : List Inval} (hi : (s.field fi).invq = i :: r) :
    exec (.invalidationComplete fi) s = .next (if s.invalPending i = true then s
      else (s.sweep i).updField fi (fun f => { f with invq := r, doneInv := f.doneInv + 1 })) := by
  show execInvalidationComplete fi s = _
  simp only [execInvalidationComplete, hi]
  rfl

/-- A map of the values of a sparse map, where it leaves what an unlisted key reads as. -/
theorem SMap.get_mapVals {α : Type} {d : α} {g : α → α} (hd : g d = d) (m : SMap α) (k : Nat) :
    SMap.get d (m.map (fun e => (e.1, g e.2))) k = g (SMap.get d m k) := by
  induction m with
  | nil => exact hd.symm
  | cons e r ih => by_cases h : e.1 = k <;> simp [SMap.get, h, ih]

theorem State.sweep_cluster (s : State) (i : Inval) (k : Nat) : (s.sweep i).cluster k = i.sweepCluster (s.cluster k) :=
  SMap.get_mapVals rfl s.clusters k

theorem State.sweep_field (s : State) (i : Inval) (g : Nat) : (s.sweep i).field g = i.sweepField (s.field g) :=
  SMap.get_mapVals rfl s.fields g

theorem Inval.mem_sweepCluster (i : Inval) (x : Cluster) (e : TlbEntry) :
    e ∈ (i.sweepCluster x).tlb ↔ e ∈ x.tlb ∧ i.hits e = false := by
  simp [Inval.sweepCluster]

theorem Inval.mem_sweepField (i : Inval) (f : Field) (e : TlbEntry) :
    e ∈ (i.sweepField f).pwc ↔ e ∈ f.pwc ∧ i.hitsUpper e = false := by
  simp [Inval.sweepField]

/-- A core's TLB is listed with the entries that are left of it, where any are. -/
theorem State.mem_sweep_tlbs (s : State) (i : Inval) (c : Nat) (l : List TlbEntry) :
    (c, l) ∈ (s.sweep i).tlbs ↔ l ≠ [] ∧ ∃ l', (c, l') ∈ s.tlbs ∧ l = l'.filter (fun e => !i.hits e) := by
  simp only [State.sweep, List.mem_filter, List.mem_map, Prod.mk.injEq, Bool.not_eq_true', List.isEmpty_eq_false_iff]
  rw [and_comm]
  refine and_congr_right fun _ => ⟨?_, ?_⟩
  · rintro ⟨⟨c', l'⟩, listed, rfl, rfl⟩
    exact ⟨l', listed, rfl⟩
  · rintro ⟨l', listed, rfl⟩
    exact ⟨(c, l'), listed, rfl, rfl⟩

/-- To count an invalidation leaves every page-walk cache as it was. -/
theorem State.updField_doneInv_pwc (s : State) (fi g : Nat) (r : List Inval) :
    ((s.updField fi (fun f => { f with invq := r, doneInv := f.doneInv + 1 })).field g).pwc = (s.field g).pwc := by
  by_cases same : g = fi
  · rw [same, State.updField_field]
  · rw [State.updField_field_ne _ _ _ _ same]

end invalidation

/-- Settles O42: a miss by the room of the walker; each end of a walk, the controller's answers, and the invalidations, by the equations
above. -/
theorem translation : Obligations.Translation := by
  unfold Obligations.Translation
  refine ⟨fun f asid vpn who => ⟨fun w hw ha hv => Field.miss_of_walked hw ha hv,
    fun unwalked unqueued => ⟨Field.miss_starts unwalked unqueued, Field.miss_queues unwalked unqueued⟩⟩, ?_⟩
  intro s fi f
  refine ⟨?access, ?walks, ?queues, ?completes⟩
  case access =>
    intro asid lc id x m vpn hx hm hf active entered misses
    exact exec_tlbMissWalk_access hx hm hf active entered misses
  case walks =>
    intro k w hw drop u change again fails write
    refine ⟨fun _ owned => exec_walkComplete_of_owned hw owned, fun clear free rcFree => ⟨?leaf, ?absent, ?quiet, ?fault⟩,
      fun at_ leaf hf owned => exec_pageFaultResolution_of_owned hw hf owned leaf,
      fun at_ hf free => ⟨exec_pageFaultResolution_none hw hf free, fun e outside => exec_pageFaultResolution_of_outside hw hf free outside e,
        fun e window leaf pooled => exec_pageFaultResolution_of_window hw hf free window leaf pooled, ?timeout⟩⟩
    case leaf =>
      intro at_ e level upper found
      exact exec_walkComplete_of_leaf hw clear free rcFree found
    case absent => exact fun at_ asid lc id x m found loud hm => exec_walkComplete_of_absent hw clear free rcFree found loud hm
    case quiet => exact fun at_ found quiet => exec_walkComplete_of_quiet hw clear free rcFree found quiet
    case fault => exact fun d found => exec_walkComplete_of_fault hw clear free rcFree found
    case timeout =>
      intro window empty
      rw [exec_backingPageTimeout_of_empty hw hf window empty]
      exact ⟨fun late => congrArg _ (if_pos late), fun early => congrArg _ (if_neg (Nat.not_le.2 early))⟩
  case queues =>
    intro asid queues
    exact ⟨exec_of_queueInval rfl, exec_of_queueInval rfl, exec_of_queueInval rfl⟩
  case completes =>
    intro i r hi
    rw [exec_invalidationComplete hi]
    refine ⟨fun pending => by rw [if_pos pending], fun settled => ⟨_, by rw [if_neg (Bool.eq_false_iff.1 settled)], ?_⟩⟩
    refine ⟨by rw [State.updField_field], by rw [State.updField_field, State.sweep_field]; rfl, rfl, rfl, rfl, ?clusters, ?fields, rfl,
      s.mem_sweep_tlbs i⟩
    case clusters =>
      intro k e
      show e ∈ ((s.sweep i).cluster k).tlb ↔ _
      rw [State.sweep_cluster]
      exact i.mem_sweepCluster _ e
    case fields =>
      intro g e
      rw [State.updField_doneInv_pwc, State.sweep_field]
      exact i.mem_sweepField _ e

end Sys2Proof.Machine
end

section
/-! PROOFS. What every step keeps (17 R413; log 3, log 5): the issue of a firing, an action of the agenda, and what the device does of
itself. -/
namespace Sys2Proof.Machine
open Sys2Proof

theorem State.issueAt_keeps {s : State} {core k : Nat} {o : Host.Outcome State Fault Refusal} (h : s.issueAt core k = some o) :
    Outcome.Keeps s o := by
  unfold State.issueAt at h
  split at h
  next => cases h
  next f _ =>
    split at h
    next =>
      split at h
      next => cases h
      next x _ =>
        have taken := State.take_keeps s core k f
        split at h
        next => cases h; exact .next (taken.trans (State.firingTraps_keeps ..))
        next i _ =>
          have done := Outcome.Keeps.trans taken (exec_keeps i (s.take core k f))
          split at h
          next t ht =>
            rw [ht] at done
            split at h <;> cases h
            exact done
          next => cases h; exact done
    next => cases h

theorem State.issueFrom_keeps (s : State) (core : Nat) (ks : List Nat) : Outcome.Keeps s (s.issueFrom core ks) := by
  induction ks with
  | nil => exact .next (.refl s)
  | cons k r ih =>
    unfold State.issueFrom
    split
    next o ho =>
      split at ho
      · cases ho
      · exact State.issueAt_keeps ho
    next => exact ih

theorem State.issue_keeps (s : State) (core : Nat) : Outcome.Keeps s (s.issue core) := by
  unfold State.issue
  split
  · exact .next (.refl s)
  · exact .trans (State.noteWaits_keeps s core) (State.issueFrom_keeps _ _ _)

theorem perform_keeps (a : Action) (s : State) : Outcome.Keeps s (perform a s) := by
  cases a with
  | issue core => exact State.issue_keeps s core
  | event i =>
    show Outcome.Keeps s (if isNode i then .next s else exec i s)
    split
    · exact .next (.refl s)
    · exact exec_keeps i s
  | elapse field ticks => exact .next (State.elapse_keeps ..)
  | cycle asid lc busy held => exact .next (State.cycle_keeps ..)
  | sram asid lc e => exact .next (State.sramError_keeps ..)
  | junction field temp => exact .next (State.junction_keeps ..)

theorem State.firstChange_keeps (s : State) (as : List Action) : Outcome.Keeps s (s.firstChange as) := by
  induction as with
  | nil => exact .next (.refl s)
  | cons a r ih =>
    have done := perform_keeps a s
    unfold State.firstChange
    split
    next t ht =>
      rw [ht] at done
      split
      · exact ih
      · exact done
    next => exact done

theorem runStep_keeps (s : State) : Outcome.Keeps s (runStep s) := by
  unfold runStep
  split
  next a r _ => exact .trans (t := { s with agenda := r }) (.same rfl rfl) (perform_keeps a _)
  next => exact State.firstChange_keeps s _

theorem step_keeps (s : State) : Outcome.Keeps s (step s) := by
  have ran := runStep_keeps s
  unfold step
  split
  next t ht => exact .next ((ran t ht).trans (State.mirror_keeps s t))
  next => exact ran

/-- Settles O54: a step keeps the canonical form of memory and a boot field among the host-port fields. -/
theorem stepKeepsGood : Obligations.StepKeepsGood := by
  unfold Obligations.StepKeepsGood
  exact fun s t good run => (step_keeps s t run).good good

/-- Settles O1: no byte of memory is listed at reset, and the boot field is F(3,0). -/
theorem resetGood : Obligations.ResetGood := by
  unfold Obligations.ResetGood
  exact ⟨rfl, rfl⟩

end Sys2Proof.Machine
end

section
/-! PROOFS. Memory accesses at issue (15 R374, R376, R377, R382, R384; 04 R103; 14 R350 to R352): the member that a load, a store, an
atomic or a fence submits, its parts, and the bytes of its lanes. -/
namespace Sys2Proof.Machine
open Sys2Proof

theorem bytesOfNat_word (w : Word) : bytesOfNat 4 w.toNat = (List.range 4).map (fun k => w.extractLsb' (8 * k) 8) := by
  have byte (k : Nat) : BitVec.ofNat 8 (w.toNat / 2 ^ (8 * k)) = w.extractLsb' (8 * k) 8 :=
    BitVec.eq_of_toNat_eq (by rw [BitVec.toNat_ofNat, BitVec.extractLsb'_toNat, Nat.shiftRight_eq_div_pow])
  show [BitVec.ofNat 8 w.toNat, _, _, _] = [_, _, _, _]
  simp only [← byte, Nat.div_div_eq_div_mul]
  norm_num

theorem bytesOfLanes_eq (ls : List Word) :
    bytesOfLanes ls = ls.flatMap (fun w => (List.range 4).map (fun k => w.extractLsb' (8 * k) 8)) :=
  congrArg (List.flatMap · ls) (funext bytesOfNat_word)

/-- The lane pair of a 64-bit number in operand a (15 R374). -/
theorem Ctx.tlane64_aw (c : Ctx) (i : Nat) : tlane64 c.f.a i = (c.aw (i + 1) ++ c.aw i : DWord).toNat :=
  (pair_toNat (c.aw (i + 1)) (c.aw i)).symm

section member
variable {c : Ctx} {w : Node} {m : MemAcc} (hchain : m.chain = (w.lit.extractLsb' 24 4).toNat)
include hchain

theorem Ctx.submit_of_closed (closed : c.chainOpen w = false) (outs : List Out) (tile : LCore → LCore) :
    c.submit m outs tile = .trap .accessFault 0x01 := by
  refine if_pos ?_
  rw [hchain, show c.x.chainEn (w.lit.extractLsb' 24 4).toNat = false from closed]
  rfl

variable (hown : m.own = (w.lit.extractLsb' 8 8).toNat) (hfire : m.fire = c.f) (enabled : c.chainOpen w = true)
include hown hfire enabled

theorem Ctx.submit_of_twice (twice : c.ownTwice w = true) (outs : List Out) (tile : LCore → LCore) :
    c.submit m outs tile = .trap .accessFault 0x5B := by
  rw [Ctx.submit, Ctx.find?_isOf hchain hfire, hown]
  refine (if_neg ?_).trans (if_pos twice)
  rw [hchain, show c.x.chainEn (w.lit.extractLsb' 24 4).toNat = true from enabled]
  exact Bool.false_ne_true

variable (hpred : m.pred = (w.lit.extractLsb' 0 8).toNat)
include hpred

theorem Ctx.submit_of_full (fresh : c.ownTwice w = false) (full : c.hasPlace w = false) (outs : List Out) (tile : LCore → LCore) :
    c.submit m outs tile = .hold := by
  rw [Ctx.submit, Ctx.find?_isOf hchain hfire, hown, Ctx.windowOk_eq hchain hown hpred hfire, full]
  refine (if_neg ?_).trans ((if_neg (Bool.eq_false_iff.1 fresh)).trans rfl)
  rw [hchain, show c.x.chainEn (w.lit.extractLsb' 24 4).toNat = true from enabled]
  exact Bool.false_ne_true

end member

section access
variable {i : Instr} {opc : BitVec 10} {n : Node} {kind : AccKind} {ok : Ctx → Prop} {parts : Ctx → Except Nat (List Part)}
  {body : Ctx → FireRes}

theorem Ctx.member_parts {c : Ctx} (hv : c.v = viewD opc n) (kind : AccKind) (ps : List Part) :
    { c.member kind c.v.lit c.v.mod.toNat with parts := ps } = c.access n kind ps := by
  have lit : c.v.lit = n.lit.toNat := congrArg NV.lit hv
  have scope : c.v.mod = n.mod := congrArg NV.mod hv
  rw [lit, scope]
  exact Ctx.member_eq_access (congrArg NV.typ hv) (congrArg NV.dstA hv) (congrArg NV.dstB hv) (congrArg NV.actA hv)
    (congrArg NV.actB hv) kind n.mod.toNat ps

/-- An instruction that submits a member with its parts, on every context of its record where `ok` holds, stands in the wave buffer,
waits, or traps (04 R103; 14 R351, R352). -/
theorem accesses_of_submitParts (hi : ∀ s, exec i s = fire (viewD opc n) s body)
    (h : ∀ c : Ctx, c.v = viewD opc n → ok c →
      body c = c.submitParts (c.member kind c.v.lit c.v.mod.toNat) (parts c)) :
    Accesses i (viewD opc n) n kind ok parts := by
  have submits {c : Ctx} (hv : c.v = viewD opc n) (good : ok c ∧ (parts c).isOk = true) :
      ∃ ps, parts c = .ok ps ∧ body c = c.submit (c.access n kind ps) [] id := by
    cases hp : parts c with
    | error d => rw [hp] at good; cases good.2
    | ok ps =>
      refine ⟨ps, rfl, ?_⟩
      rw [h c hv good.1, hp, ← Ctx.member_parts hv]
      rfl
  refine ⟨completes_of_done_keepsInsts hi ?admits, holds_of_hold hi ?full, traps_of_trap hi ?closed, traps_of_trap hi ?twice,
    fun d => traps_of_trap hi ?pointer⟩
  case admits =>
    rintro c hv keeps ⟨good, admits⟩
    obtain ⟨ps, hp, hb⟩ := submits hv good
    rw [hb, hp, Ctx.submit_of_admits (w := n) rfl rfl rfl rfl admits keeps]
  case full =>
    rintro c hv ⟨good, enabled, fresh, full⟩
    obtain ⟨ps, -, hb⟩ := submits hv good
    rw [hb, Ctx.submit_of_full (w := n) rfl rfl rfl enabled rfl fresh full]
  case closed =>
    rintro c hv ⟨good, closed⟩
    obtain ⟨ps, -, hb⟩ := submits hv good
    rw [hb, Ctx.submit_of_closed (w := n) rfl closed]
  case twice =>
    rintro c hv ⟨good, enabled, twice⟩
    obtain ⟨ps, -, hb⟩ := submits hv good
    rw [hb, Ctx.submit_of_twice (w := n) rfl rfl rfl enabled twice]
  case pointer =>
    rintro c hv ⟨holds, hp⟩
    rw [h c hv holds, hp]
    rfl

end access

section operand
variable {c : Ctx} {m : MemAcc}

theorem controlOk_of_clean {t : Token} (clean : t.poison = false) (k : FireRes) : controlOk t k = k :=
  if_neg (Bool.eq_false_iff.1 clean)

theorem controlOk_of_poison {t : Token} (bad : t.poison = true) (k : FireRes) : controlOk t k = .trap .poisonConsumed 0x04 := if_pos bad

/-- An access at the address in a (15 R374, R376). -/
theorem Ctx.linear_of_aligned (clean : c.f.a.poison = false) (aligned : (c.aw 1 ++ c.aw 0 : DWord).toNat % memAlign c.v.typ = 0)
    (n : Nat) (data : List Byte) (poison : Bool) : c.linear m n data poison =
      c.submitParts m (partsOf (tagColour c.f.tag) poison (piecesOf (c.aw 1 ++ c.aw 0 : DWord).toNat n) data) := by
  rw [Ctx.linear, controlOk_of_clean clean, Ctx.tlane64_aw]
  exact if_neg (not_not_intro aligned)

theorem Ctx.linear_of_misaligned (clean : c.f.a.poison = false)
    (misaligned : (c.aw 1 ++ c.aw 0 : DWord).toNat % memAlign c.v.typ ≠ 0) (n : Nat) (data : List Byte) (poison : Bool) :
    c.linear m n data poison = .trap .align 0 := by
  rw [Ctx.linear, controlOk_of_clean clean, Ctx.tlane64_aw]
  exact if_pos misaligned

/-- The address of an element of an LDG or STS (15 R376). -/
def Ctx.elemAt (c : Ctx) (j : Nat) : Nat := (c.aw (2 * j + 1) ++ c.aw (2 * j) : DWord).toNat

theorem Ctx.map_elemAt : (List.range c.gathers).map (fun j => tlane64 c.f.a (2 * j)) = (List.range c.gathers).map c.elemAt :=
  List.map_congr_left (fun j _ => Ctx.tlane64_aw c (2 * j))

/-- An access of the elements whose addresses are in a (15 R374, R376). -/
theorem Ctx.scattered_of_aligned (clean : c.f.a.poison = false) (aligned : ∀ j < c.gathers, c.elemAt j % memAlign c.v.typ = 0)
    (data : List Byte) (poison : Bool) : c.scattered m data poison = c.submitParts m
      (partsOf (tagColour c.f.tag) poison ((List.range c.gathers).map (fun j => (c.elemAt j, memAlign c.v.typ))) data) := by
  rw [Ctx.scattered, controlOk_of_clean clean, Ctx.map_elemAt]
  refine (if_neg ?_).trans (by rw [List.map_map]; rfl)
  simpa using aligned

theorem Ctx.scattered_of_misaligned (clean : c.f.a.poison = false)
    (misaligned : ¬ ∀ j < c.gathers, c.elemAt j % memAlign c.v.typ = 0) (data : List Byte) (poison : Bool) :
    c.scattered m data poison = .trap .align 0 := by
  rw [Ctx.scattered, controlOk_of_clean clean, Ctx.map_elemAt]
  exact if_pos (by simpa using misaligned)

end operand

section pref
variable {c : Ctx} {w : Node} {m : MemAcc} (hchain : m.chain = (w.lit.extractLsb' 24 4).toNat)
  (hown : m.own = (w.lit.extractLsb' 8 8).toNat) (hfire : m.fire = c.f)
include hchain hown hfire

/-- A PREF whose chain is not enabled, or whose own number has entered (15 R376; log 83). -/
theorem Ctx.submitPref_of_closed (closed : c.chainOpen w = false ∨ c.ownTwice w = true) : c.submitPref m =
    .done (c.upd (fun x => { x with mem := x.mem ++ [{ m with entered := true, parts := [] }], memId := m.id + 1 })) [] := by
  rw [Ctx.submitPref, Ctx.find?_isOf hchain hfire, hown, hchain]
  refine if_pos ?_
  rw [Bool.or_eq_true]
  exact closed.imp (fun shut => by rw [show c.x.chainEn _ = false from shut]; rfl) id

variable (hpred : m.pred = (w.lit.extractLsb' 0 8).toNat) (enabled : c.chainOpen w = true) (fresh : c.ownTwice w = false)
include hpred enabled fresh

theorem Ctx.submitPref_of_open : c.submitPref m = if !c.hasPlace w then .hold else .done (c.upd (fun x => x.addMem m id)) [] := by
  rw [Ctx.submitPref, Ctx.find?_isOf hchain hfire, hown, Ctx.windowOk_eq hchain hown hpred hfire, hchain]
  refine if_neg ?_
  rw [show c.x.chainEn _ = true from enabled]
  exact Bool.eq_false_iff.1 fresh

end pref

/-- The part that a PREF touches: none where its pointer is poisoned or fails (15 R376). -/
def Ctx.touched (c : Ctx) : List Part :=
  if c.f.a.poison then []
  else match partsOf (tagColour c.f.tag) false [((c.aw 1 ++ c.aw 0 : DWord).toNat, 1)] [] with | .ok ps => ps | .error _ => []

theorem exec_pref_eq (n : Node) (s : State) :
    exec (.pref n) s = fire (viewD 0x246 n) s (fun c => c.submitPref (c.access n .pref c.touched)) := by
  refine fire_congr (fun c hv => ?_)
  simp only [Ctx.tlane64_aw, Ctx.member_parts hv]
  rfl

/-- Settles O23: an address in a or one an element, each aligned or not; then the member in its place. PREF has a case of its own. -/
theorem loadsAndStores : Obligations.LoadsAndStores := by
  unfold Obligations.LoadsAndStores
  intro n align at0 many at_ bytes one all elements touched
  have typ {opc : BitVec 10} {c : Ctx} (hv : c.v = viewD opc n) : memAlign c.v.typ = align :=
    congrArg (fun v => memAlign v.typ) hv
  have lanes (ls : List Word) : bytesOfLanes ls = bytes ls := bytesOfLanes_eq ls
  refine ⟨accesses_of_submitParts (fun _ => rfl) ?ld, accesses_of_submitParts (fun _ => rfl) ?st,
    accesses_of_submitParts (fun _ => rfl) ?ldg, accesses_of_submitParts (fun _ => rfl) ?sts,
    completes_of_done_keepsInsts (exec_pref_eq n) ?pref, completes_of_done (exec_pref_eq n) ?closed, holds_of_hold (exec_pref_eq n) ?full,
    traps_of_trap (fun _ => rfl) ?ldPoison, traps_of_trap (fun _ => rfl) ?stAlign, traps_of_trap (fun _ => rfl) ?ldgAlign,
    traps_of_trap (fun _ => rfl) ?stsPoison⟩
  case ld =>
    rintro c hv ⟨clean, aligned⟩
    rw [Ctx.linear_of_aligned clean (by rw [typ hv]; exact aligned)]
  case st =>
    rintro c hv ⟨clean, aligned⟩
    rw [Ctx.linear_of_aligned clean (by rw [typ hv]; exact aligned), lanes]
  case ldg =>
    rintro c hv ⟨clean, aligned⟩
    rw [Ctx.scattered_of_aligned clean (by rw [typ hv]; exact aligned), typ hv]
    rfl
  case sts =>
    rintro c hv ⟨clean, aligned⟩
    simp only
    rw [Ctx.scattered_of_aligned clean (by rw [typ hv]; exact aligned), typ hv, lanes]
    rfl
  case pref =>
    rintro c hv keeps admits
    have admitted := admits
    simp only [Ctx.admits, Bool.and_eq_true, Bool.not_eq_true'] at admitted
    obtain ⟨⟨enabled, fresh⟩, place⟩ := admitted
    rw [Ctx.submitPref_of_open (w := n) rfl rfl rfl rfl enabled fresh, place, Ctx.upd_addMem (w := n) rfl rfl keeps]
    rfl
  case closed =>
    rintro - c - closed
    exact Ctx.submitPref_of_closed (w := n) rfl rfl rfl closed
  case full =>
    rintro c hv ⟨enabled, fresh, full⟩
    rw [Ctx.submitPref_of_open (w := n) rfl rfl rfl rfl enabled fresh, full]
    rfl
  case ldPoison => exact fun c _ bad => controlOk_of_poison bad _
  case stAlign =>
    rintro c hv ⟨clean, misaligned⟩
    exact Ctx.linear_of_misaligned clean (by rw [typ hv]; exact misaligned) ..
  case ldgAlign =>
    rintro c hv ⟨clean, misaligned⟩
    exact Ctx.scattered_of_misaligned clean (by rw [typ hv]; exact misaligned) ..
  case stsPoison => exact fun c _ bad => controlOk_of_poison bad _

section atomic
variable {c : Ctx}

/-- The four lanes of b, as every part of an atomic carries them (15 R382). -/
def Ctx.atomicData (c : Ctx) : List Byte :=
  (List.range 4).flatMap (fun i => (List.range 4).map (fun k => (tlane c.bTok i).extractLsb' (8 * k) 8))

theorem Ctx.bytesOfLanes_bTok : bytesOfLanes ((List.range 4).map (fun i => tlane c.bTok i)) = c.atomicData := by
  rw [bytesOfLanes_eq, List.flatMap_map]
  rfl

variable (clean : c.f.a.poison = false)
include clean

theorem Ctx.atomic_of_poison (bad : c.bTok.poison = true) : c.atomic = .trap .poisonConsumed 0x05 :=
  (if_neg (Bool.eq_false_iff.1 clean)).trans (if_pos bad)

variable (cleanB : c.bTok.poison = false)
include cleanB

theorem Ctx.atomic_of_misaligned (misaligned : (c.aw 1 ++ c.aw 0 : DWord).toNat % memAlign c.v.typ ≠ 0) :
    c.atomic = .trap .align 0 := by
  rw [Ctx.atomic, if_neg (Bool.eq_false_iff.1 clean), if_neg (Bool.eq_false_iff.1 cleanB), Ctx.tlane64_aw]
  exact if_pos misaligned

theorem Ctx.atomic_of_aligned (aligned : (c.aw 1 ++ c.aw 0 : DWord).toNat % memAlign c.v.typ = 0) :
    c.atomic = c.submitParts (c.member .atomic c.v.lit c.v.mod.toNat)
      (match partsOf (tagColour c.f.tag) false [((c.aw 1 ++ c.aw 0 : DWord).toNat, memAlign c.v.typ)] [] with
        | .ok ps => .ok (ps.map (fun p => { p with data := c.atomicData }))
        | .error d => .error d) := by
  rw [Ctx.atomic, if_neg (Bool.eq_false_iff.1 clean), if_neg (Bool.eq_false_iff.1 cleanB), Ctx.tlane64_aw,
    Ctx.bytesOfLanes_bTok]
  refine (if_neg (not_not_intro aligned)).trans ?_
  cases partsOf (tagColour c.f.tag) false [((c.aw 1 ++ c.aw 0 : DWord).toNat, memAlign c.v.typ)] [] <;> rfl

end atomic

/-- Settles O24: each atomic is one operation at issue, and a FENCE is a member without parts. -/
theorem atomicsAndFences : Obligations.AtomicsAndFences := by
  unfold Obligations.AtomicsAndFences
  intro n align at0 ok bytes parts
  have typ {opc : BitVec 10} {c : Ctx} (hv : c.v = viewD opc n) : memAlign c.v.typ = align :=
    congrArg (fun v => memAlign v.typ) hv
  have atomic {i : Instr} {opc : BitVec 10} (hi : ∀ s, exec i s = fire (viewD opc n) s (fun c => c.atomic)) :
      Accesses i (viewD opc n) n .atomic ok parts := by
    refine accesses_of_submitParts hi ?_
    rintro c hv ⟨clean, cleanB, aligned⟩
    rw [Ctx.atomic_of_aligned clean cleanB (by rw [typ hv]; exact aligned), typ hv]
    rfl
  refine ⟨atomic (fun _ => rfl), atomic (fun _ => rfl), atomic (fun _ => rfl), atomic (fun _ => rfl), atomic (fun _ => rfl),
    atomic (fun _ => rfl), atomic (fun _ => rfl), atomic (fun _ => rfl), atomic (fun _ => rfl), atomic (fun _ => rfl),
    accesses_of_submitParts (fun _ => rfl) (fun _ _ _ => rfl), traps_of_trap (fun _ => rfl) ?poison,
    traps_of_trap (fun _ => rfl) ?align⟩
  case poison =>
    rintro c - ⟨clean, bad⟩
    exact Ctx.atomic_of_poison clean bad
  case align =>
    rintro c hv ⟨clean, cleanB, misaligned⟩
    exact Ctx.atomic_of_misaligned clean cleanB (by rw [typ hv]; exact misaligned)

end Sys2Proof.Machine
end

section
/-! PROOFS. Streams at issue (15 R378 to R380; 04 R104; 01 R32): the fields of a stream's extension record, its pieces, and the member
that stands in the wave buffer for it. -/
namespace Sys2Proof.Machine
open Sys2Proof

/-- The stream that an extension record describes (15 Table 2). -/
def streamFields (e1 : BitVec 86) : StreamP :=
  { tile := (e1.extractLsb' 0 5).toNat, toff := (e1.extractLsb' 5 15).toNat, roww := (e1.extractLsb' 20 11).toNat,
    rows := (e1.extractLsb' 31 9).toNat + 1, stride := (e1.extractLsb' 40 24).toInt, token := e1.getLsbD 64,
    eosl := (e1.extractLsb' 65 4).toNat, eosen := e1.getLsbD 69, snode := (e1.extractLsb' 70 12).toNat, spath := e1.getLsbD 82 }

section fields
variable {opc : BitVec 10} {n : Node} {e1 e2 : BitVec 86}

theorem viewX_x1 (opc : BitVec 10) (n : Node) (e1 e2 : BitVec 86) (lo k : Nat) :
    (viewX opc n e1 e2).x1 lo k = (e1.extractLsb' lo k).toNat := toNat_field e1 lo k

theorem viewX_x1_flag (opc : BitVec 10) (n : Node) (e1 e2 : BitVec 86) (k : Nat) :
    ((viewX opc n e1 e2).x1 k 1 == 1) = e1.getLsbD k := toNat_flag e1 k

theorem viewX_bits (opc : BitVec 10) (n : Node) (e1 e2 : BitVec 86) (lo k : Nat) :
    (viewX opc n e1 e2).bits lo k = (n.lit.extractLsb' lo k).toNat := viewD_bits opc n lo k

theorem viewX_bit (opc : BitVec 10) (n : Node) (e1 e2 : BitVec 86) (k : Nat) :
    ((viewX opc n e1 e2).bits k 1 == 1) = n.lit.getLsbD k := viewD_bit opc n k

theorem streamOf_viewX (opc : BitVec 10) (n : Node) (e1 e2 : BitVec 86) : streamOf (viewX opc n e1 e2) = streamFields e1 := by
  simp only [streamOf, viewX_x1_flag]
  simp only [viewX_x1, toS_toNat]
  rfl

/-- The tiles that a STRM needs (15 R375). -/
theorem LCore.tilesOk_strm_iff (x : LCore) (n : Node) (e1 : BitVec 86) (lc : Nat) : x.tilesOk (viewX 0x244 n e1 0) lc = true ↔
    (streamFields e1).token = true ∨ if n.lit.getLsbD 30 = true then (x.tile (streamFields e1).tile).state = .empty
      else (x.tile (streamFields e1).tile).state = .empty ∨ (x.tile (streamFields e1).tile).state = .ready := by
  have needs : tileNeeds (viewX 0x244 n e1 0) lc =
      if (streamFields e1).token = true then { ready := [], free := [], empty := [] }
      else if n.lit.getLsbD 30 = true then { ready := [], free := [], empty := [(streamFields e1).tile] }
      else { ready := [], free := [(streamFields e1).tile], empty := [] } := by
    rw [show (streamFields e1).tile = _ from (viewX_x1 0x244 n e1 0 0 5).symm]
    refine ite_congr (propext ?_) (fun _ => rfl) (fun _ => ite_congr (propext ?_) (fun _ => rfl) (fun _ => rfl))
    · exact beq_iff_eq.symm.trans (by rw [viewX_x1_flag]; rfl)
    · exact beq_iff_eq.symm.trans (by rw [viewX_bit])
  simp only [LCore.tilesOk, needs]
  cases (streamFields e1).token with
  | true => simp
  | false => cases n.lit.getLsbD 30 <;> simp

theorem LCore.tilesOk_strmst_iff (x : LCore) (n : Node) (e1 : BitVec 86) (lc : Nat) :
    x.tilesOk (viewX 0x245 n e1 0) lc = true ↔ (x.tile (streamFields e1).tile).state = .ready := by
  have needs : tileNeeds (viewX 0x245 n e1 0) lc = { ready := [(streamFields e1).tile], free := [], empty := [] } := by
    rw [show (streamFields e1).tile = _ from (viewX_x1 0x245 n e1 0 0 5).symm]
    rfl
  simp only [LCore.tilesOk, needs]
  simp

end fields

/-- The pieces of a stream; those of a run-ahead stream hold the faults of their pointers (01 R32; 15 R380). -/
def Ctx.streamPieces (c : Ctx) (kind : AccKind) (t : StreamP) (ra : Bool) : Except Nat (List Part) :=
  let lines := (t.linePieces (c.aw 1 ++ c.aw 0 : DWord).toNat).map (fun e => e.2.2)
  if ra ∧ kind = .strm ∧ !t.token then .ok (raParts (tagColour c.f.tag) lines) else partsOf (tagColour c.f.tag) false lines []

/-- The chain member of a stream (15 R378). -/
def Ctx.streamMember (c : Ctx) (n : Node) (kind : AccKind) (t : StreamP) (ps : List Part) : MemAcc :=
  { c.access n kind ps with strm := some t, was := (c.x.tile t.tile).state }

/-- Whether a run-ahead stream stays within MAXSPEC (04 R104). -/
def Ctx.aheadOk (c : Ctx) : Bool := c.x.raCtl.getLsbD 0 && decide (c.x.specTiles < c.x.maxSpec)

/-- A stream whose pieces are found: it waits for its tile, or stands in the wave buffer (15 R378 to R380). -/
def Ctx.placeStream (c : Ctx) (kind : AccKind) (t : StreamP) (ra : Bool) (m : MemAcc) : FireRes :=
  if !c.x.tilesOk c.v c.f.lc then .hold
  else if kind = .strmst then c.submit m [] (fun x => x.setTile t.tile .draining)
  else if t.token then c.submit m [] id
  else if ra then
    if c.aheadOk then c.submit { m with ra := .ahead } [c.outB [] false] (fun x => x.setSpec t.tile)
    else c.submit { m with ra := .wait, aux := 2 } [c.outB [] false] id
  else c.submit m [] (fun x => x.setTile t.tile .filling)

theorem LCore.tileIs_iff (x : LCore) (k : Nat) (r : TileRole) : x.tileIs k r = true ↔ k < x.tileCount ∧ (x.tile k).role = r := by
  rw [LCore.tileIs, Bool.and_eq_true, decide_eq_true_iff, beq_iff_eq]

section stream
variable {opc : BitVec 10} {n : Node} {e1 : BitVec 86} {c : Ctx}

theorem Ctx.member_streamMember (hv : c.v = viewX opc n e1 0) (kind : AccKind) (t : StreamP) (ps : List Part) :
    { c.member kind c.v.lit c.v.mod.toNat with strm := some t, parts := ps, was := (c.x.tile t.tile).state } =
      c.streamMember n kind t ps := by
  have member := Ctx.member_eq_access (congrArg NV.typ hv) (congrArg NV.dstA hv) (congrArg NV.dstB hv) (congrArg NV.actA hv)
    (congrArg NV.actB hv) kind n.mod.toNat ps
  rw [show c.v.lit = n.lit.toNat from congrArg NV.lit hv, show c.v.mod = n.mod from congrArg NV.mod hv]
  exact congrArg (fun m : MemAcc => { m with strm := some t, was := (c.x.tile t.tile).state }) member

/-- A stream at issue, by the fields of its records. -/
theorem Ctx.stream_eq (hv : c.v = viewX opc n e1 0) (kind : AccKind) : c.stream kind =
    let t := streamFields e1
    let ra := n.lit.getLsbD 30
    controlOk c.f.a (
      if (c.aw 1 ++ c.aw 0 : DWord).toNat % 4 ≠ 0 then .trap .align 0
      else if t.stride % 4 ≠ 0 then .trap .align 1
      else if !t.token ∧ !c.x.tileIs t.tile .ab then .trap .accessFault 0x60
      else match c.streamPieces kind t ra with
        | .error d => .trap .accessFault d
        | .ok ps => c.placeStream kind t ra (c.streamMember n kind t ps)) := by
  have fields : streamOf c.v = streamFields e1 := by rw [hv, streamOf_viewX]
  have ahead : (c.v.bits 30 1 == 1) = n.lit.getLsbD 30 := by rw [hv, viewX_bit]
  simp only [Ctx.stream, fields, ahead, Ctx.tlane64_aw, ← Ctx.member_streamMember hv]
  rfl

variable (hv : c.v = viewX opc n e1 0) (clean : c.f.a.poison = false)
include hv clean

theorem Ctx.stream_of_misaligned (misaligned : (c.aw 1 ++ c.aw 0 : DWord).toNat % 4 ≠ 0) (kind : AccKind) :
    c.stream kind = .trap .align 0 := by
  rw [Ctx.stream_eq hv]
  exact (controlOk_of_clean clean _).trans (if_pos misaligned)

variable (aligned : (c.aw 1 ++ c.aw 0 : DWord).toNat % 4 = 0)
include aligned

theorem Ctx.stream_of_odd (odd : ¬ (streamFields e1).stride % 4 = 0) (kind : AccKind) : c.stream kind = .trap .align 1 := by
  rw [Ctx.stream_eq hv]
  exact (controlOk_of_clean clean _).trans ((if_neg (not_not_intro aligned)).trans (if_pos odd))

variable (even : (streamFields e1).stride % 4 = 0)
include even

theorem Ctx.stream_of_wrong_tile (named : (streamFields e1).token = false) (wrong : ¬ c.x.tileIs (streamFields e1).tile .ab = true)
    (kind : AccKind) : c.stream kind = .trap .accessFault 0x60 := by
  rw [Ctx.stream_eq hv]
  refine (controlOk_of_clean clean _).trans ((if_neg (not_not_intro aligned)).trans ((if_neg (not_not_intro even)).trans (if_pos ?_)))
  rw [named, Bool.eq_false_iff.2 wrong]
  exact ⟨rfl, rfl⟩

variable (tile : (streamFields e1).token = true ∨ c.x.tileIs (streamFields e1).tile .ab = true)
include tile

theorem Ctx.stream_of_tile (kind : AccKind) : c.stream kind =
    match c.streamPieces kind (streamFields e1) (n.lit.getLsbD 30) with
    | .error d => .trap .accessFault d
    | .ok ps => c.placeStream kind (streamFields e1) (n.lit.getLsbD 30) (c.streamMember n kind (streamFields e1) ps) := by
  rw [Ctx.stream_eq hv]
  refine (controlOk_of_clean clean _).trans ((if_neg (not_not_intro aligned)).trans ((if_neg (not_not_intro even)).trans (if_neg ?_)))
  rintro ⟨named, wrong⟩
  rcases tile with h | h <;> simp [h] at named wrong

end stream

theorem LCore.maxSpec_eq (x : LCore) : x.maxSpec = min 8 (x.raCtl.extractLsb' 1 4).toNat := by
  have low : x.raCtl.toNat / 2 ^ 1 % 2 ^ 4 = (x.raCtl.extractLsb' 1 4).toNat := toNat_field x.raCtl 1 4
  have bound := x.raCtl.isLt
  show min 8 (x.raCtl.toNat / 2) = _
  omega

theorem Ctx.aheadOk_iff (c : Ctx) : c.aheadOk = true ↔ c.x.raCtl.getLsbD 0 = true ∧
    (c.x.tiles.filter (fun e => e.2.state == .spec)).length < min 8 (c.x.raCtl.extractLsb' 1 4).toNat := by
  rw [Ctx.aheadOk, Bool.and_eq_true, decide_eq_true_iff, LCore.maxSpec_eq]
  rfl

/-- Settles O25: the checks of a stream in their order, its tile's state, and the member by what the tile becomes. -/
theorem streams : Obligations.Streams := by
  unfold Obligations.Streams
  intro n e1 at0 rows t ra ab sound even lines ahead pieces good free spare placed early strm
  have tileIs (c : Ctx) : c.x.tileIs (streamFields e1).tile .ab = true ↔ ab c := LCore.tileIs_iff ..
  have found (kind : AccKind) (c : Ctx) : c.streamPieces kind (streamFields e1) ra = pieces kind c := by
    refine ite_congr (propext ?_) (fun _ => rfl) (fun _ => rfl)
    rw [and_left_comm, ← Bool.and_eq_true]
    rfl
  have places {kind : AccKind} {opc : BitVec 10} {c : Ctx} (hv : c.v = viewX opc n e1 0) (h : good kind c)
      (tile : rows.token = true ∨ ab c) : ∃ ps, pieces kind c = .ok ps ∧
        c.stream kind = c.placeStream kind rows ra (c.streamMember n kind rows ps) := by
    obtain ⟨⟨clean, aligned⟩, evenly, parts⟩ := h
    rw [Ctx.stream_of_tile hv clean aligned evenly (tile.imp id (tileIs c).2), found]
    cases hp : pieces kind c with
    | error d => rw [hp] at parts; cases parts
    | ok ps => exact ⟨ps, rfl, rfl⟩
  have fits {c : Ctx} (hv : c.v = viewX 0x244 n e1 0) : c.x.tilesOk c.v c.f.lc = true ↔
      rows.token = true ∨ if ra = true then (t c).state = .empty else free c := by
    rw [hv]
    exact LCore.tilesOk_strm_iff ..
  have drains {c : Ctx} (hv : c.v = viewX 0x245 n e1 0) : c.x.tilesOk c.v c.f.lc = true ↔ (t c).state = .ready := by
    rw [hv]
    exact LCore.tilesOk_strmst_iff ..
  refine ⟨completes_of_done_keepsInsts (fun _ => rfl) ?token, completes_of_done_keepsInsts (fun _ => rfl) ?fill,
    completes_of_done_keepsInsts (fun _ => rfl) ?ahead, completes_of_done_keepsInsts (fun _ => rfl) ?wait,
    holds_of_hold (fun _ => rfl) ?held, completes_of_done_keepsInsts (fun _ => rfl) ?drain, holds_of_hold (fun _ => rfl) ?undrained,
    traps_of_trap (fun _ => rfl) ?misaligned, traps_of_trap (fun _ => rfl) ?odd, traps_of_trap (fun _ => rfl) ?role,
    fun d => traps_of_trap (fun _ => rfl) ?pointer, traps_of_trap (fun _ => rfl) ?poison⟩
  case token =>
    rintro c hv keeps ⟨h, admits, named⟩
    obtain ⟨ps, hp, hs⟩ := places hv h (.inl named)
    rw [hs, Ctx.placeStream, (fits hv).2 (.inl named), named]
    refine (Ctx.submit_of_admits (w := n) rfl rfl rfl rfl admits keeps ..).trans ?_
    simp only [placed, hp]
    rfl
  case fill =>
    rintro c hv keeps ⟨h, admits, unnamed, role, plain, state⟩
    obtain ⟨ps, hp, hs⟩ := places hv h (.inr role)
    rw [hs, Ctx.placeStream, (fits hv).2 (.inr (by rw [plain]; exact state)), unnamed, plain]
    refine (Ctx.submit_of_admits (w := n) rfl rfl rfl rfl admits keeps ..).trans ?_
    simp only [placed, hp, LCore.setTile, ne_eq, reduceCtorEq, not_false_eq_true, decide_true, Bool.and_true]
    rfl
  case ahead =>
    rintro c hv keeps ⟨h, admits, unnamed, role, runs, state, spare⟩
    obtain ⟨ps, hp, hs⟩ := places hv h (.inr role)
    rw [hs, Ctx.placeStream, (fits hv).2 (.inr (by rw [runs]; exact state)), unnamed, runs, (Ctx.aheadOk_iff c).2 spare]
    refine (Ctx.submit_of_admits (w := n) rfl rfl rfl rfl admits keeps ..).trans ?_
    simp only [placed, hp, ne_eq, not_true_eq_false, decide_false, Bool.and_false]
    rfl
  case wait =>
    rintro c hv keeps ⟨h, admits, unnamed, role, runs, state, full⟩
    obtain ⟨ps, hp, hs⟩ := places hv h (.inr role)
    rw [hs, Ctx.placeStream, (fits hv).2 (.inr (by rw [runs]; exact state)), unnamed, runs,
      Bool.eq_false_iff.2 (mt (Ctx.aheadOk_iff c).1 full)]
    refine (Ctx.submit_of_admits (w := n) rfl rfl rfl rfl admits keeps ..).trans ?_
    simp only [placed, hp]
    rfl
  case held =>
    rintro c hv ⟨h, unnamed, role, busy⟩
    obtain ⟨ps, hp, hs⟩ := places hv h (.inr role)
    rw [hs, Ctx.placeStream, Bool.eq_false_iff.2 (mt (fits hv).1 (by simpa [unnamed] using busy))]
    rfl
  case drain =>
    rintro c hv keeps ⟨h, admits, role, state, -⟩
    obtain ⟨ps, hp, hs⟩ := places hv h (.inr role)
    rw [hs, Ctx.placeStream, (drains hv).2 state]
    refine (Ctx.submit_of_admits (w := n) rfl rfl rfl rfl admits keeps ..).trans ?_
    simp only [placed, hp, LCore.setTile, ne_eq, reduceCtorEq, not_false_eq_true, decide_true, Bool.and_true]
    rfl
  case undrained =>
    rintro c hv ⟨h, role, busy⟩
    obtain ⟨ps, hp, hs⟩ := places hv h (.inr role)
    rw [hs, Ctx.placeStream, Bool.eq_false_iff.2 (mt (drains hv).1 busy)]
    rfl
  case misaligned =>
    rintro c hv ⟨clean, misaligned⟩
    exact Ctx.stream_of_misaligned hv clean misaligned _
  case odd =>
    rintro c hv ⟨⟨clean, aligned⟩, odd⟩
    exact Ctx.stream_of_odd hv clean aligned odd _
  case role =>
    rintro c hv ⟨⟨clean, aligned⟩, evenly, unnamed, role⟩
    exact Ctx.stream_of_wrong_tile hv clean aligned evenly unnamed (mt (tileIs c).1 role) _
  case pointer =>
    rintro c hv ⟨⟨clean, aligned⟩, evenly, tile, hp⟩
    rw [Ctx.stream_of_tile hv clean aligned evenly (tile.imp id (tileIs c).2), found, hp]
  case poison => exact fun c _ bad => controlOk_of_poison bad _

end Sys2Proof.Machine
end

section
/-! PROOFS. Tile loads and stores (15 R381; 13 R319): the checks of an access in their order, the lanes that a tile's bytes make, and
the token ring of a TF tile. -/
namespace Sys2Proof.Machine
open Sys2Proof

theorem append_toNat {h l : Nat} (hi : BitVec h) (lo : BitVec l) : (hi ++ lo).toNat = lo.toNat + 2 ^ l * hi.toNat := by
  have shifted : hi.toNat <<< l + lo.toNat = hi.toNat <<< l ||| lo.toNat := Nat.shiftLeft_add_eq_or_of_lt lo.isLt _
  rw [BitVec.toNat_append, ← shifted, Nat.shiftLeft_eq]
  ring

/-- A lane from its four bytes (02 R52). -/
theorem word_natOfBytes (a b c d : Byte) : BitVec.ofNat 32 (natOfBytes [a, b, c, d]) = d ++ c ++ b ++ a := by
  refine BitVec.eq_of_toNat_eq ?_
  rw [BitVec.toNat_ofNat]
  simp only [natOfBytes, append_toNat]
  omega

theorem SMap.getN_add {α : Type} (z : α) (m : SMap α) (k a b : Nat) : SMap.getN z m k (a + b) = SMap.getN z m k a ++ SMap.getN z m (k + a) b := by
  simp [SMap.getN, List.range_add, Function.comp_def, Nat.add_assoc]

/-- The lane at a place of a sparse map of bytes (15 R381). -/
def SMap.wordAt (m : SMap Byte) (k : Nat) : Word :=
  SMap.get 0 m (k + 3) ++ SMap.get 0 m (k + 2) ++ SMap.get 0 m (k + 1) ++ SMap.get 0 m k

theorem lanesOfBytes_getN (m : SMap Byte) (w k : Nat) :
    lanesOfBytes w (SMap.getN 0 m k (4 * w)) = (List.range w).map (fun i => SMap.wordAt m (k + 4 * i)) := by
  induction w generalizing k with
  | zero => rfl
  | succ w ih =>
    have first : SMap.getN 0 m k 4 = [SMap.get 0 m k, SMap.get 0 m (k + 1), SMap.get 0 m (k + 2), SMap.get 0 m (k + 3)] := rfl
    rw [show 4 * (w + 1) = 4 + 4 * w from by omega, SMap.getN_add, first]
    show BitVec.ofNat 32 (natOfBytes [_, _, _, _]) :: lanesOfBytes w (SMap.getN 0 m (k + 4) (4 * w)) = _
    rw [word_natOfBytes, ih, List.range_succ_eq_map, List.map_cons, List.map_map]
    refine congrArg (SMap.wordAt m k :: ·) (List.map_congr_left (fun i _ => ?_))
    exact congrArg (SMap.wordAt m) (by simp only [Nat.succ_eq_add_one]; omega)

theorem LCore.tilesOk_tile_iff (x : LCore) {opc : BitVec 10} (n : Node) (lc : Nat) (h : opc = 0x247 ∨ opc = 0x248) :
    x.tilesOk (viewD opc n) lc = true ↔ (x.tile (n.lit.extractLsb' 0 5).toNat).state = .ready := by
  have needs : tileNeeds (viewD opc n) lc = { ready := [(n.lit.extractLsb' 0 5).toNat], free := [], empty := [] } := by
    rw [← viewD_bits opc]
    rcases h with rfl | rfl <;> rfl
  simp only [LCore.tilesOk, needs]
  simp

/-- The offset of a tile access: that of its literal, and the first lane of its index operand (15 R381). -/
def tileOff (base : Nat) (add : Option Token) : Nat := base + (match add with | some a => (tlane a 0).toNat | none => 0)

/-- Whether an index operand is poisoned. -/
def tilePoison (add : Option Token) : Bool := match add with | some a => a.poison | none => false

section access
variable {opc : BitVec 10} {n : Node} {c : Ctx} {add : Option Token} {size : Nat} {k : Tile → Nat → FireRes}

theorem Ctx.tileAcc_eq (hv : c.v = viewD opc n) (h : opc = 0x247 ∨ opc = 0x248) : c.tileAcc add size k =
    let num := (n.lit.extractLsb' 0 5).toNat
    let t := c.x.tile num
    let off := tileOff (n.lit.extractLsb' 5 15).toNat add
    if tilePoison add then .trap .poisonConsumed 0x04
    else if c.x.tileCount ≤ num then .trap .accessFault 0x60
    else if off % 4 ≠ 0 then .trap .align 0
    else if 32768 < off + size then .trap .accessFault 0x61
    else if t.state ≠ .ready then .hold
    else if t.role = .cb ∧ (cbLines off size).any (fun l => (t.cbLine l).p) then .hold
    else k t off := by
  have held : (!c.x.tilesOk c.v c.f.lc) = true ↔ (c.x.tile (n.lit.extractLsb' 0 5).toNat).state ≠ .ready := by
    rw [hv, Bool.not_eq_true', ← Bool.not_eq_true, LCore.tilesOk_tile_iff _ _ _ h]
  have num : c.v.bits 0 5 = (n.lit.extractLsb' 0 5).toNat := by rw [hv, viewD_bits]
  have base : c.v.bits 5 15 = (n.lit.extractLsb' 5 15).toNat := by rw [hv, viewD_bits]
  simp only [Ctx.tileAcc, num, base, held]
  rfl

variable (hv : c.v = viewD opc n) (h : opc = 0x247 ∨ opc = 0x248)
include hv h

theorem Ctx.tileAcc_of_poison (bad : tilePoison add = true) : c.tileAcc add size k = .trap .poisonConsumed 0x04 := by
  rw [Ctx.tileAcc_eq hv h]
  exact if_pos bad

variable (clean : tilePoison add = false)
include clean

theorem Ctx.tileAcc_of_missing (missing : ¬ (n.lit.extractLsb' 0 5).toNat < c.x.tileCount) :
    c.tileAcc add size k = .trap .accessFault 0x60 := by
  rw [Ctx.tileAcc_eq hv h]
  exact (if_neg (Bool.eq_false_iff.1 clean)).trans (if_pos (Nat.not_lt.1 missing))

variable (there : (n.lit.extractLsb' 0 5).toNat < c.x.tileCount)
include there

theorem Ctx.tileAcc_of_misaligned (misaligned : tileOff (n.lit.extractLsb' 5 15).toNat add % 4 ≠ 0) :
    c.tileAcc add size k = .trap .align 0 := by
  rw [Ctx.tileAcc_eq hv h]
  exact (if_neg (Bool.eq_false_iff.1 clean)).trans ((if_neg (Nat.not_le.2 there)).trans (if_pos misaligned))

variable (aligned : tileOff (n.lit.extractLsb' 5 15).toNat add % 4 = 0)
include aligned

theorem Ctx.tileAcc_of_beyond (beyond : 32768 < tileOff (n.lit.extractLsb' 5 15).toNat add + size) :
    c.tileAcc add size k = .trap .accessFault 0x61 := by
  rw [Ctx.tileAcc_eq hv h]
  exact (if_neg (Bool.eq_false_iff.1 clean)).trans
    ((if_neg (Nat.not_le.2 there)).trans ((if_neg (not_not_intro aligned)).trans (if_pos beyond)))

variable (fits : tileOff (n.lit.extractLsb' 5 15).toNat add + size ≤ 32768)
include fits

/-- A tile access that passes its checks waits for the tile to be READY and for no line of it to be pending (15 R381). -/
theorem Ctx.tileAcc_of_fits : c.tileAcc add size k =
    let t := c.x.tile (n.lit.extractLsb' 0 5).toNat
    let off := tileOff (n.lit.extractLsb' 5 15).toNat add
    if t.state ≠ .ready then .hold
    else if t.role = .cb ∧ (cbLines off size).any (fun l => (t.cbLine l).p) then .hold
    else k t off := by
  rw [Ctx.tileAcc_eq hv h]
  exact (if_neg (Bool.eq_false_iff.1 clean)).trans
    ((if_neg (Nat.not_le.2 there)).trans ((if_neg (not_not_intro aligned)).trans (if_neg (Nat.not_lt.2 fits))))

end access

/-- TLD by the fields of its record (15 R381; 13 R319). -/
def Ctx.tld (c : Ctx) (n : Node) : FireRes :=
  let num := (n.lit.extractLsb' 0 5).toNat
  let w := (n.lit.extractLsb' 20 6).toNat
  let t := c.x.tile num
  if t.role = .tf then
    if (n.lit.extractLsb' 5 15).toNat ≠ 0 ∨ n.lit.getLsbD 26 ∨ w ≠ 32 then .trap .illegalNode Diag.reserved.code
    else if t.state ≠ .ready then .hold
    else match t.pop with
      | none => .hold
      | some (ls, pz, u) => .done (c.upd (fun x => x.updTile num (fun _ => u))) (c.both ls pz)
  else
    c.tileAcc (if n.lit.getLsbD 26 then some c.f.a else none) (4 * w) (fun t off =>
      .done c.s (c.both ((List.range w).map (fun i => SMap.wordAt t.bytes (off + 4 * i))) (t.poisonIn off (4 * w))))

theorem exec_tld_eq (n : Node) (s : State) : exec (.tld n) s = fire (viewD 0x247 n) s (fun c => c.tld n) := by
  refine fire_congr (fun c hv => ?_)
  have held : (!c.x.tilesOk c.v c.f.lc) = true ↔ (c.x.tile (n.lit.extractLsb' 0 5).toNat).state ≠ .ready := by
    rw [hv, Bool.not_eq_true', ← Bool.not_eq_true, LCore.tilesOk_tile_iff _ _ _ (.inl rfl)]
  have flag : (c.v.bits 26 1 == 1) = n.lit.getLsbD 26 := by rw [hv, viewD_bit]
  have bits (lo k : Nat) : c.v.bits lo k = (n.lit.extractLsb' lo k).toNat := by rw [hv, viewD_bits]
  simp only [flag, held, Tile.read, lanesOfBytes_getN]
  simp only [bits]
  rfl

/-- TST by the fields of its record (15 R381; 13 R319). -/
def Ctx.tst (c : Ctx) (n : Node) : FireRes :=
  let num := (n.lit.extractLsb' 0 5).toNat
  let size := 4 * c.f.a.lanes.length
  let add := if n.ary = .dyad then some c.bTok else none
  let write (u : Tile) : FireRes := .done (c.upd (fun x => x.updTile num (fun _ => u))) c.aBoth
  if (c.x.tile num).role = .tf then
    if (n.lit.extractLsb' 5 15).toNat ≠ 0 then .trap .illegalNode Diag.reserved.code
    else c.tileAcc add 4 (fun t _ => match t.push c.f.a with | none => .hold | some u => write u)
  else c.tileAcc add size (fun t off => write ((t.store off (bytesOfLanes c.f.a.lanes) c.f.a.poison).cbDirty off size))

theorem exec_tst_eq (n : Node) (s : State) : exec (.tst n) s = fire (viewD 0x248 n) s (fun c => c.tst n) := by
  refine fire_congr (fun c hv => ?_)
  have bits (lo k : Nat) : c.v.bits lo k = (n.lit.extractLsb' lo k).toNat := by rw [hv, viewD_bits]
  have ary : c.v.ary = n.ary := congrArg NV.ary hv
  simp only [bits, ary]
  rfl

section ring
variable {n : Node} {c : Ctx} (ring : (c.x.tile (n.lit.extractLsb' 0 5).toNat).role = .tf) (start : (n.lit.extractLsb' 5 15).toNat = 0)
include ring start

theorem Ctx.tld_of_ring (width : (n.lit.extractLsb' 20 6).toNat = 32) (plain : n.lit.getLsbD 26 = false) : c.tld n =
    let t := c.x.tile (n.lit.extractLsb' 0 5).toNat
    if t.state ≠ .ready then .hold
    else match t.pop with
      | none => .hold
      | some (ls, pz, u) => .done (c.upd (fun x => x.updTile (n.lit.extractLsb' 0 5).toNat (fun _ => u))) (c.both ls pz) := by
  refine (if_pos ring).trans (if_neg ?_)
  simp only [start, width, plain]
  decide

theorem Ctx.tst_of_ring : c.tst n = c.tileAcc (if n.ary = .dyad then some c.bTok else none) 4 (fun t _ =>
    match t.push c.f.a with
    | none => .hold
    | some u => .done (c.upd (fun x => x.updTile (n.lit.extractLsb' 0 5).toNat (fun _ => u))) c.aBoth) :=
  (if_pos ring).trans (if_neg (not_not_intro start))

end ring

section linear
variable {n : Node} {c : Ctx} (linear : (c.x.tile (n.lit.extractLsb' 0 5).toNat).role ≠ .tf)
include linear

theorem Ctx.tld_of_linear : c.tld n =
    let w := (n.lit.extractLsb' 20 6).toNat
    c.tileAcc (if n.lit.getLsbD 26 then some c.f.a else none) (4 * w) (fun t off =>
      .done c.s (c.both ((List.range w).map (fun i => SMap.wordAt t.bytes (off + 4 * i))) (t.poisonIn off (4 * w)))) := if_neg linear

theorem Ctx.tst_of_linear : c.tst n =
    let size := 4 * c.f.a.lanes.length
    c.tileAcc (if n.ary = .dyad then some c.bTok else none) size (fun t off =>
      .done (c.upd (fun x => x.updTile (n.lit.extractLsb' 0 5).toNat (fun _ =>
        (t.store off (bytesOfLanes c.f.a.lanes) c.f.a.poison).cbDirty off size))) c.aBoth) := if_neg linear

end linear

theorem Tile.pop_of_empty {t : Tile} (h : t.ctl 4 = 0) : t.pop = none := if_pos h

theorem Tile.push_of_full {t : Tile} {tok : Token} (h : t.ctl 4 + flitsOf tok.lanes.length > 511) : t.push tok = none := if_pos h

theorem tileOff_ite (base : Nat) (p : Prop) [Decidable p] (a : Token) :
    tileOff base (if p then some a else none) = base + (if p then (tlane a 0).toNat else 0) := by split <;> rfl

theorem tilePoison_ite (p : Prop) [Decidable p] (a : Token) : tilePoison (if p then some a else none) = true ↔ p ∧ a.poison = true := by
  split
  next h => exact ⟨fun bad => ⟨h, bad⟩, fun bad => bad.2⟩
  next h => exact ⟨fun bad => (Bool.false_ne_true bad).elim, fun bad => (h bad.1).elim⟩

/-- Settles O26: each access by its checks in their order, then the tile's bytes, or the images of its ring. -/
theorem tileAccesses : Obligations.TileAccesses := by
  unfold Obligations.TileAccesses
  intro n num t base w idx offL offS size clean cleanS within linear exists_ ready pending byte word bytes ring fitsS popped write
  have offsetL (c : Ctx) : tileOff base (if idx then some c.f.a else none) = offL c := tileOff_ite ..
  have offsetS (c : Ctx) : tileOff base (if n.ary = .dyad then some c.bTok else none) = offS c := tileOff_ite ..
  have cleanL {c : Ctx} (h : clean c) : tilePoison (if idx then some c.f.a else none) = false :=
    Bool.eq_false_iff.2 (mt (tilePoison_ite ..).1 h)
  have cleanB {c : Ctx} (h : cleanS c) : tilePoison (if n.ary = .dyad then some c.bTok else none) = false :=
    Bool.eq_false_iff.2 (mt (tilePoison_ite ..).1 h)
  have poisonB {c : Ctx} (h : ¬ cleanS c) : tilePoison (if n.ary = .dyad then some c.bTok else none) = true :=
    (tilePoison_ite ..).2 (not_not.1 h)
  refine ⟨completes_of_done (exec_tld_eq n) ?load, completes_of_done (exec_tst_eq n) ?store, holds_of_hold (exec_tld_eq n) ?loadHeld,
    holds_of_hold (exec_tst_eq n) ?storeHeld, traps_of_trap (exec_tld_eq n) ?missing, traps_of_trap (exec_tst_eq n) ?misaligned,
    traps_of_trap (exec_tld_eq n) ?beyond, traps_of_trap (exec_tst_eq n) ?poison, completes_of_done (exec_tld_eq n) ?pop,
    holds_of_hold (exec_tld_eq n) ?empty, completes_of_done (exec_tst_eq n) ?push, holds_of_hold (exec_tst_eq n) ?full,
    traps_of_trap (exec_tst_eq n) ?ringPoison, traps_of_trap (exec_tst_eq n) ?ringMisaligned, traps_of_trap (exec_tst_eq n) ?ringBeyond⟩
  case load =>
    rintro - c hv ⟨lin, cl, there, ⟨aligned, fits⟩, rd, settled⟩
    rw [← offsetL] at aligned fits settled
    rw [Ctx.tld_of_linear lin, Ctx.tileAcc_of_fits hv (.inl rfl) (cleanL cl) there aligned fits]
    refine (if_neg (not_not_intro rd)).trans ((if_neg settled).trans ?_)
    rw [← offsetL]
    rfl
  case store =>
    rintro - c hv ⟨lin, cl, there, ⟨aligned, fits⟩, rd, settled⟩
    rw [← offsetS] at aligned fits settled
    rw [Ctx.tst_of_linear lin, Ctx.tileAcc_of_fits hv (.inr rfl) (cleanB cl) there aligned fits]
    refine (if_neg (not_not_intro rd)).trans ((if_neg settled).trans ?_)
    rw [← offsetS, bytesOfLanes_eq]
  case loadHeld =>
    rintro c hv ⟨lin, cl, there, ⟨aligned, fits⟩, held⟩
    rw [← offsetL] at aligned fits held
    rw [Ctx.tld_of_linear lin, Ctx.tileAcc_of_fits hv (.inl rfl) (cleanL cl) there aligned fits]
    by_cases rd : ready c
    · exact (if_neg (not_not_intro rd)).trans (if_pos (held.resolve_left (not_not_intro rd)))
    · exact if_pos rd
  case storeHeld =>
    rintro c hv ⟨lin, cl, there, ⟨aligned, fits⟩, held⟩
    rw [← offsetS] at aligned fits held
    rw [Ctx.tst_of_linear lin, Ctx.tileAcc_of_fits hv (.inr rfl) (cleanB cl) there aligned fits]
    by_cases rd : ready c
    · exact (if_neg (not_not_intro rd)).trans (if_pos (held.resolve_left (not_not_intro rd)))
    · exact if_pos rd
  case missing =>
    rintro c hv ⟨lin, cl, missing⟩
    rw [Ctx.tld_of_linear lin, Ctx.tileAcc_of_missing hv (.inl rfl) (cleanL cl) missing]
  case misaligned =>
    rintro c hv ⟨lin, cl, there, misaligned⟩
    rw [← offsetS] at misaligned
    rw [Ctx.tst_of_linear lin, Ctx.tileAcc_of_misaligned hv (.inr rfl) (cleanB cl) there misaligned]
  case beyond =>
    rintro c hv ⟨lin, cl, there, aligned, beyond⟩
    rw [← offsetL] at aligned beyond
    rw [Ctx.tld_of_linear lin, Ctx.tileAcc_of_beyond hv (.inl rfl) (cleanL cl) there aligned beyond]
  case poison =>
    rintro c hv ⟨lin, bad⟩
    rw [Ctx.tst_of_linear lin, Ctx.tileAcc_of_poison hv (.inr rfl) (poisonB bad)]
  case pop =>
    rintro - c hv ⟨⟨tf, start⟩, width, plain, rd, image⟩
    obtain ⟨⟨ls, pz, u⟩, hp⟩ := Option.isSome_iff_exists.1 image
    rw [Ctx.tld_of_ring tf start width plain]
    refine (if_neg (not_not_intro rd)).trans ?_
    simp only [write, popped, t, num] at hp ⊢
    rw [hp]
    rfl
  case empty =>
    rintro c hv ⟨⟨tf, start⟩, width, plain, none⟩
    rw [Ctx.tld_of_ring tf start width plain]
    by_cases rd : ready c
    · refine (if_neg (not_not_intro rd)).trans ?_
      rw [Tile.pop_of_empty none]
    · exact if_pos rd
  case push =>
    rintro - c hv ⟨⟨tf, start⟩, cl, ⟨there, aligned, fits⟩, rd, room⟩
    obtain ⟨u, hu⟩ := Option.isSome_iff_exists.1 room
    rw [← offsetS] at aligned fits
    rw [Ctx.tst_of_ring tf start, Ctx.tileAcc_of_fits hv (.inr rfl) (cleanB cl) there aligned fits]
    refine (if_neg (not_not_intro rd)).trans ((if_neg ?_).trans ?_)
    · rw [tf]
      exact fun h => nomatch h.1
    · simp only [write, t, num] at hu ⊢
      rw [hu]
      rfl
  case full =>
    rintro c hv ⟨⟨tf, start⟩, cl, ⟨there, aligned, fits⟩, full⟩
    rw [← offsetS] at aligned fits
    rw [Ctx.tst_of_ring tf start, Ctx.tileAcc_of_fits hv (.inr rfl) (cleanB cl) there aligned fits]
    by_cases rd : ready c
    · refine (if_neg (not_not_intro rd)).trans ((if_neg ?_).trans ?_)
      · rw [tf]
        exact fun h => nomatch h.1
      · rw [Tile.push_of_full full]
    · exact if_pos rd
  case ringPoison =>
    rintro c hv ⟨⟨tf, start⟩, bad⟩
    rw [Ctx.tst_of_ring tf start, Ctx.tileAcc_of_poison hv (.inr rfl) (poisonB bad)]
  case ringMisaligned =>
    rintro c hv ⟨⟨tf, start⟩, cl, there, misaligned⟩
    rw [← offsetS] at misaligned
    rw [Ctx.tst_of_ring tf start, Ctx.tileAcc_of_misaligned hv (.inr rfl) (cleanB cl) there misaligned]
  case ringBeyond =>
    rintro c hv ⟨⟨tf, start⟩, cl, there, aligned, beyond⟩
    rw [← offsetS] at aligned beyond
    rw [Ctx.tst_of_ring tf start, Ctx.tileAcc_of_beyond hv (.inr rfl) (cleanB cl) there aligned beyond]

end Sys2Proof.Machine
end

section
/-! PROOFS. Copy commands at issue (15 R385): a command of a source kind that no record may hold, which the checks at issue do not look
at, has no address operand in a. -/
namespace Sys2Proof.Machine
open Sys2Proof

namespace ReservedSource

/-- A CPY whose SK and DK are 2, which 15 Table 3 reserves. -/
def node : Node :=
  { typ := .i32, ary := .mono, tgo := .keep, mod := 0, dstA := .cu, dstB := .none, actA := .pass, actB := .pass, lit := 10 }

/-- A firing whose token is poisoned. -/
def firing : Firing := { wordFiring with a := { wordToken false with poison := true }, b := none }

/-- An AG core with colour 0 in its cache. -/
def core : LCore := { (default : LCore) with role := .ag, cache := [{ colour := 0, regs := default }] }

/-- The pitch of that core. -/
def pitch : Pitch := { (default : Pitch) with colours := [(0, default)], lcores := [(0, core)] }

/-- The module with the CPY at issue. -/
def state : State := { State.reset with pitches := [(1, pitch)], cur := some firing }

theorem issues : Issues (viewX 0x2C0 node 0 0) state firing pitch core default state 0 where
  cur := rfl
  pitch := rfl
  lcore := rfl
  fields := by decide
  setFits := rfl
  kernel := rfl
  role := rfl
  live := rfl
  cached := rfl
  tagop := rfl
  noEos := rfl

/-- The context of that firing. -/
def ctx : Ctx := issueCtx (viewX 0x2C0 node 0 0) firing pitch core default state 0

/-- The state in which that command is on its way. -/
def sent : State :=
  let t := ctx.upd (fun x => x.perfEvent 0x0B 1)
  { t with cmds := [mkCmd .copy core.cluster (ctx.job node 0 0 [])] }

theorem copyCmd_ctx : ctx.copyCmd node 0 0 = .done sent [] := rfl

theorem exec_state : exec (.cpy node 0) state = .next (state.fired sent (viewX 0x2C0 node 0 0) firing []) :=
  fire_done issues _ copyCmd_ctx

theorem cmds_of_trap : (state.firingTraps firing 0x2C0 .poisonConsumed 0x04).cmds = [] := rfl

end ReservedSource

/-- Refutes O27: the statement says that a CPY whose source is no tile traps where a is poisoned, and speaks also of a record with the
reserved SK 2, which names no address in a: such a command leaves for the copy unit. -/
theorem not_copyCommands : ¬ Obligations.CopyCommands := by
  unfold Obligations.CopyCommands
  intro h
  obtain ⟨-, -, -, -, -, -, -, poison, -⟩ := h ReservedSource.node 0 0
  have claimed := poison _ _ _ _ _ _ _ ReservedSource.issues ⟨by decide, rfl⟩
  have same := congrArg State.cmds (Host.Outcome.next.inj (claimed.symm.trans ReservedSource.exec_state))
  exact absurd (ReservedSource.cmds_of_trap.symm.trans same) (List.cons_ne_nil _ _).symm

end Sys2Proof.Machine
end

section
/-! PROOFS. Cache-bank commands at issue (15 R393): the room of the copy unit, and the checks of a command in their order. -/
namespace Sys2Proof.Machine
open Sys2Proof

/-- The room for a copy command (06 Table 6). -/
theorem State.copyRoom_iff {s : State} {unit asid lc : Nat} {q : List EJob} : s.queueRoom .copy unit asid lc q = true ↔
    s.outstanding .copy unit asid lc q < 8 ∧ s.queued .copy unit q < 32 := by
  show (decide _ && decide _) = true ↔ _
  rw [Bool.and_eq_true, decide_eq_true_eq, decide_eq_true_eq]

/-- The room of a firing's cluster for a copy command. -/
def Ctx.copyRoom (c : Ctx) : Bool := c.s.queueRoom .copy c.x.cluster c.f.asid c.f.lc (c.s.cluster c.x.cluster).cpq

/-- The state in which a cache-bank command is on its way (15 R393). -/
def Ctx.sendCb (c : Ctx) (n : Node) : State :=
  { c.upd (fun x => x.perfEvent 0x0B 1) with cmds := c.s.cmds ++ [mkCmd .copy c.x.cluster (c.job n 0 0 [])] }

/-- A cache-bank command whose checks pass leaves where there is room, and waits where there is none. -/
def Ctx.sendCbOrHold (c : Ctx) (n : Node) : FireRes := if c.copyRoom then .done (c.sendCb n) [] else .hold

section command
variable {opc : BitVec 10} {n : Node} {c : Ctx} (hv : c.v = viewD opc n)
include hv

theorem Ctx.cbCmd_eq : c.cbCmd n =
    let idx := n.lit.getLsbD 11
    let fill := opc == 0x2C6
    if (idx ∨ fill) ∧ c.f.a.poison then .trap .poisonConsumed 0x04
    else if !c.x.tileIs (n.lit.extractLsb' 0 5).toNat .cb then .trap .accessFault 0x60
    else if idx ∧ 63 < (c.aw 2).toNat then .trap .accessFault 0x62
    else if fill ∧ (c.aw 1 ++ c.aw 0 : DWord).toNat % 512 ≠ 0 then .trap .align 0
    else match (if fill then checkPtr (tagColour c.f.tag) (c.aw 1 ++ c.aw 0 : DWord).toNat else .ok (0, false)) with
      | .error d => .trap .accessFault d
      | .ok _ => c.sendCbOrHold n := by
  have flag : (c.v.bits 11 1 == 1) = n.lit.getLsbD 11 := by rw [hv, viewD_bit]
  have tile : c.v.bits 0 5 = (n.lit.extractLsb' 0 5).toNat := by rw [hv, viewD_bits]
  have code : c.v.opc = opc := congrArg NV.opc hv
  simp only [Ctx.cbCmd, flag, tile, code, Ctx.tlane64_aw]
  rfl

theorem Ctx.cbCmd_of_poison (names : n.lit.getLsbD 11 = true ∨ opc = 0x2C6) (bad : c.f.a.poison = true) :
    c.cbCmd n = .trap .poisonConsumed 0x04 := by
  rw [Ctx.cbCmd_eq hv]
  exact if_pos ⟨names.imp id beq_iff_eq.2, bad⟩

variable (clean : n.lit.getLsbD 11 = true ∨ opc = 0x2C6 → c.f.a.poison = false)
include clean

theorem Ctx.cbCmd_of_wrong_tile (wrong : ¬ c.x.tileIs (n.lit.extractLsb' 0 5).toNat .cb = true) :
    c.cbCmd n = .trap .accessFault 0x60 := by
  rw [Ctx.cbCmd_eq hv]
  refine (if_neg fun bad => ?_).trans (if_pos (by rw [Bool.eq_false_iff.2 wrong]; rfl))
  exact Bool.eq_false_iff.1 (clean (bad.1.imp id beq_iff_eq.1)) bad.2

variable (tile : c.x.tileIs (n.lit.extractLsb' 0 5).toNat .cb = true)
include tile

theorem Ctx.cbCmd_of_tile : c.cbCmd n =
    let fill := opc == 0x2C6
    if n.lit.getLsbD 11 ∧ 63 < (c.aw 2).toNat then .trap .accessFault 0x62
    else if fill ∧ (c.aw 1 ++ c.aw 0 : DWord).toNat % 512 ≠ 0 then .trap .align 0
    else match (if fill then checkPtr (tagColour c.f.tag) (c.aw 1 ++ c.aw 0 : DWord).toNat else .ok (0, false)) with
      | .error d => .trap .accessFault d
      | .ok _ => c.sendCbOrHold n := by
  rw [Ctx.cbCmd_eq hv]
  refine (if_neg fun bad => ?_).trans (if_neg (by rw [tile]; exact Bool.false_ne_true))
  exact Bool.eq_false_iff.1 (clean (bad.1.imp id beq_iff_eq.1)) bad.2

variable (slot : n.lit.getLsbD 11 = true → (c.aw 2).toNat ≤ 63)
include slot

theorem Ctx.cbCmd_of_fill_misaligned (fill : opc = 0x2C6) (misaligned : (c.aw 1 ++ c.aw 0 : DWord).toNat % 512 ≠ 0) :
    c.cbCmd n = .trap .align 0 := by
  rw [Ctx.cbCmd_of_tile hv clean tile]
  exact (if_neg fun bad => Nat.not_lt.2 (slot bad.1) bad.2).trans (if_pos ⟨beq_iff_eq.2 fill, misaligned⟩)

theorem Ctx.cbCmd_of_fill (fill : opc = 0x2C6) (aligned : (c.aw 1 ++ c.aw 0 : DWord).toNat % 512 = 0)
    (pointer : (checkPtr (tagColour c.f.tag) (c.aw 1 ++ c.aw 0 : DWord).toNat).isOk = true) : c.cbCmd n = c.sendCbOrHold n := by
  rw [Ctx.cbCmd_of_tile hv clean tile]
  refine (if_neg fun bad => Nat.not_lt.2 (slot bad.1) bad.2).trans ((if_neg fun bad => bad.2 aligned).trans ?_)
  rw [fill]
  cases hp : checkPtr (tagColour c.f.tag) (c.aw 1 ++ c.aw 0 : DWord).toNat with
  | error d => rw [hp] at pointer; cases pointer
  | ok p => rfl

theorem Ctx.cbCmd_of_other (other : opc ≠ 0x2C6) : c.cbCmd n = c.sendCbOrHold n := by
  have fill : (opc == 0x2C6) = false := beq_eq_false_iff_ne.2 other
  rw [Ctx.cbCmd_of_tile hv clean tile, fill]
  exact (if_neg fun bad => Nat.not_lt.2 (slot bad.1) bad.2).trans (if_neg fun bad => Bool.false_ne_true bad.1)

end command

/-- Settles O28: the checks of a command in their order, then the room of its copy unit. -/
theorem cacheBankCommands : Obligations.CacheBankCommands := by
  unfold Obligations.CacheBankCommands
  intro n jobs room num idx cb slot at0 line sent
  have tileIs {c : Ctx} (h : cb c) : c.x.tileIs num .cb = true := (LCore.tileIs_iff ..).2 h
  have leaves {c : Ctx} (h : room c) : c.sendCbOrHold n = .done (sent c) [] := if_pos (State.copyRoom_iff.2 h)
  have waits {c : Ctx} (h : ¬ room c) : c.sendCbOrHold n = .hold := if_neg (mt State.copyRoom_iff.1 h)
  have clean {opc : BitVec 10} (c : Ctx) (other : opc ≠ 0x2C6) (h : slot c) (names : n.lit.getLsbD 11 = true ∨ opc = 0x2C6) :
      c.f.a.poison = false := (h (names.resolve_right other)).1
  refine ⟨completes_of_done (fun _ => rfl) ?fill, completes_of_done (fun _ => rfl) ?evict, completes_of_done (fun _ => rfl) ?inv,
    holds_of_hold (fun _ => rfl) ?held, traps_of_trap (fun _ => rfl) ?role, traps_of_trap (fun _ => rfl) ?slot,
    traps_of_trap (fun _ => rfl) ?align, traps_of_trap (fun _ => rfl) ?poison⟩
  case fill =>
    rintro - c hv ⟨tile, sl, ⟨cl, aligned, pointer⟩, rm⟩
    rw [Ctx.cbCmd_of_fill hv (fun _ => cl) (tileIs tile) (fun h => (sl h).2) rfl aligned pointer, leaves rm]
  case evict =>
    rintro - c hv ⟨tile, sl, rm⟩
    rw [Ctx.cbCmd_of_other hv (clean c (by decide) sl) (tileIs tile) (fun h => (sl h).2) (by decide), leaves rm]
  case inv =>
    rintro - c hv ⟨tile, sl, rm⟩
    rw [Ctx.cbCmd_of_other hv (clean c (by decide) sl) (tileIs tile) (fun h => (sl h).2) (by decide), leaves rm]
  case held =>
    rintro c hv ⟨tile, sl, full⟩
    rw [Ctx.cbCmd_of_other hv (clean c (by decide) sl) (tileIs tile) (fun h => (sl h).2) (by decide), waits full]
  case role =>
    rintro c hv ⟨plain, wrong⟩
    refine Ctx.cbCmd_of_wrong_tile hv (fun names => ?_) (mt (LCore.tileIs_iff ..).1 wrong)
    exact names.elim (fun h => (Bool.eq_false_iff.1 plain h).elim) (fun h => absurd h (by decide))
  case slot =>
    rintro c hv ⟨named, cl, tile, beyond⟩
    rw [Ctx.cbCmd_of_tile hv (fun _ => cl) (tileIs tile)]
    exact if_pos ⟨named, beyond⟩
  case align =>
    rintro c hv ⟨tile, sl, cl, misaligned⟩
    exact Ctx.cbCmd_of_fill_misaligned hv (fun _ => cl) (tileIs tile) (fun h => (sl h).2) rfl misaligned
  case poison => exact fun c hv bad => Ctx.cbCmd_of_poison hv (.inr rfl) bad

end Sys2Proof.Machine
end

section
/-! PROOFS. Time and counters (16 R400 to R402): the control operand of ARY 1, the lanes of an offset, and the counter at an index. -/
namespace Sys2Proof.Machine
open Sys2Proof

section operand
variable {c : Ctx} {opc : BitVec 10} {n : Node} (hv : c.v = viewD opc n)
include hv

theorem Ctx.counterOp_of_poison (bad : n.ary = .dyad ∧ c.bTok.poison = true) (lit : Nat) (k : Nat → FireRes) :
    c.counterOp lit k = .trap .poisonConsumed 0x06 :=
  (if_pos ((Ctx.ary_eq hv).trans bad.1)).trans (if_pos bad.2)

/-- The control operand of TOFFS and CNTRD: lane 0 of b, or a value of the literal (16 R401). -/
theorem Ctx.counterOp_of_clean (clean : ¬ (n.ary = .dyad ∧ c.bTok.poison = true)) (lit : Nat) (k : Nat → FireRes) :
    c.counterOp lit k = k (if n.ary = .dyad then (tlane c.bTok 0).toNat else lit) := by
  unfold Ctx.counterOp
  rw [Ctx.ary_eq hv]
  split
  next dyad => exact if_neg fun poisoned => clean ⟨dyad, poisoned⟩
  next => rfl

end operand

/-- The uncertainty and the valid bit of an offset in one lane (16 R400, R402). -/
theorem word_unc_valid (o : Offs) (t : Nat) :
    word (o.unc t + 4096 * o.valid.toNat) = BitVec.ofNat 32 (o.unc t) ||| (if o.valid then 0x1000 else 0) := by
  have low : o.unc t < 2 ^ 12 := Nat.lt_succ_of_le (Nat.min_le_left 4095 _)
  rw [show 4096 = 2 ^ 12 from rfl, word_add_field low]
  cases o.valid <;> rfl

theorem low_toNat {w : Nat} (b : BitVec w) (k : Nat) : b.toNat % 2 ^ k = (b.extractLsb' 0 k).toNat := by
  rw [← toNat_field, Nat.pow_zero, Nat.div_one]

/-- The value of a counter as 64 bits (16 Table 4); a sub-index in range names a bank, a column or a node. -/
def State.counterBits (s : State) (x : LCore) (i sub : Nat) : DWord :=
  let k := x.cnt
  let bank : Bank := (s.cluster x.cluster).bank (sub / 16) (sub % 16)
  if i < 8 then SMap.get 0 k.perf i
  else if i < 16 then (SMap.get 0 k.perfSel (i - 8)).setWidth 64
  else match i with
    | 0x10 => k.raCancel.setWidth 64 | 0x11 => k.mspill.setWidth 64 | 0x12 => k.mrefill.setWidth 64 | 0x13 => k.cspill.setWidth 64
    | 0x14 => k.ucdrop.setWidth 64 | 0x15 => k.sramCe.setWidth 64 | 0x16 => k.sramUe.setWidth 64
    | 0x18 => if (x.node sub).extractLsb' 86 10 = 0x011 then (SMap.get 0 k.sink sub).setWidth 64 else 0
    | 0x19 => if sub = 0 then (s.cluster x.cluster).nextJob.setWidth 64
        else if sub = 1 then (s.cluster x.cluster).cpNext.setWidth 64 else (s.field x.field).mNext.setWidth 64
    | 0x20 => bank.ce.setWidth 64 | 0x21 => bank.ue.setWidth 64
    | 0x22 => bank.refpress.setWidth 64 | 0x23 => bank.degraded.setWidth 64
    | 0x24 => ((s.cluster x.cluster).col sub).dupdisc.setWidth 64
    | _ => 0

theorem State.ofNat_counter (s : State) (x : LCore) (i sub : Nat) (h : cntSubOk i sub = true) :
    BitVec.ofNat 64 (s.counter x i sub) = s.counterBits x i sub := by
  have column (k : Nat) (bank : 0x20 ≤ k ∧ k ≤ 0x23) (hk : cntSubOk k sub = true) : sub / 16 % 8 = sub / 16 := by
    have below : sub < 128 := by
      obtain ⟨lo, hi⟩ := bank
      simp only [cntSubOk, show ¬ k ≤ 0x16 by omega, show k ≠ 0x18 by omega, show k ≠ 0x19 by omega, show k ≠ 0x24 by omega, if_false,
        Bool.and_eq_true, decide_eq_true_eq] at hk
      exact hk.1
    omega
  unfold State.counter State.counterBits
  by_cases perf : i < 8
  · simp only [if_pos perf, BitVec.ofNat_toNat, BitVec.setWidth_eq]
  by_cases sel : i < 16
  · simp only [if_neg perf, if_pos sel, BitVec.ofNat_toNat]
  simp only [if_neg perf, if_neg sel]
  split
  case h_8 => exact (apply_ite (BitVec.ofNat 64) _ _ _).trans (ite_congr rfl (fun _ => BitVec.ofNat_toNat ..) (fun _ => rfl))
  case h_9 =>
    exact (apply_ite (BitVec.ofNat 64) _ _ _).trans (ite_congr rfl (fun _ => BitVec.ofNat_toNat ..)
      (fun _ => (apply_ite (BitVec.ofNat 64) _ _ _).trans (ite_congr rfl (fun _ => BitVec.ofNat_toNat ..) (fun _ => BitVec.ofNat_toNat ..))))
  case h_10 | h_11 | h_12 | h_13 =>
    rw [column _ (by decide) h]
    exact BitVec.ofNat_toNat ..
  case h_14 =>
    rw [Nat.mod_eq_of_lt (Nat.lt_succ_of_le (of_decide_eq_true h))]
    exact BitVec.ofNat_toNat ..
  case h_15 => simp
  all_goals exact BitVec.ofNat_toNat ..

theorem cntSubOk_iff (i sub : Nat) : cntSubOk i sub = true ↔
    if i ≤ 0x16 then sub = 0 else if i = 0x18 then True else if i = 0x19 then sub ≤ 2 else if i = 0x24 then sub ≤ 7
    else sub < 128 ∧ sub % 16 ≤ 8 := by
  unfold cntSubOk
  repeat' split
  all_goals simp

theorem apply_extractLsb' {w lo k : Nat} (p : Prop) [Decidable p] (a b : BitVec w) :
    ((if p then a else b).extractLsb' lo k).toNat = if p then (a.extractLsb' lo k).toNat else (b.extractLsb' lo k).toNat := by
  split <;> rfl

/-- Settles O32: each instruction by its control operand, and each counter by its index. -/
theorem timeAndCounters : Obligations.TimeAndCounters := by
  unfold Obligations.TimeAndCounters
  intro n now named pair f o unc offset idx sub inRange bank value v written
  have field (c : Ctx) : (if n.ary = .dyad then (tlane c.bTok 0).toNat else (n.lit.extractLsb' 0 6).toNat) % 64 = f c := by
    simp only [f, apply_extractLsb', ← low_toNat]
    split
    next => rfl
    next => exact Nat.mod_mod ..
  have index (c : Ctx) : (if n.ary = .dyad then (tlane c.bTok 0).toNat else (n.lit.extractLsb' 8 12).toNat) % 4096 = sub c := by
    simp only [sub, apply_ite BitVec.toNat]
    split
    next => exact low_toNat _ 12
    next => exact Nat.mod_eq_of_lt (n.lit.extractLsb' 8 12).isLt
  have lanes (c : Ctx) : (c.s.field c.x.field).toffs c.x.field (f c) (c.s.field (f c)).joined = offset c := by
    simp only [Field.toffs, word_unc_valid]
    rfl
  have read (c : Ctx) (h : inRange c) : BitVec.ofNat 64 (c.s.counter c.x idx (sub c)) = value c := by
    rw [State.ofNat_counter _ _ _ _ ((cntSubOk_iff ..).2 h)]
    rfl
  refine ⟨completes_of_done (fun _ => rfl) (fun _ _ _ _ => rfl), completes_of_done (fun _ => rfl) ?toffs, traps_of_trap (fun _ => rfl) ?toffsPoison,
    completes_of_done (fun _ => rfl) ?cntrd, traps_of_trap (fun _ => rfl) ?beyond, completes_of_done (fun _ => rfl) ?cntwr,
    traps_of_trap (fun _ => rfl) ?cntwrPoison⟩
  case toffs =>
    rintro - c hv clean
    rw [Ctx.bits_eq hv, Ctx.counterOp_of_clean hv clean, field, lanes]
    rfl
  case toffsPoison => exact fun c hv bad => Ctx.counterOp_of_poison hv (not_not.1 bad) ..
  case cntrd =>
    rintro - c hv ⟨clean, range⟩
    simp only [Ctx.bits_eq hv, Ctx.counterOp_of_clean hv clean, index]
    rw [if_pos ((cntSubOk_iff ..).2 range), read c range]
    rfl
  case beyond =>
    rintro c hv ⟨clean, range⟩
    simp only [Ctx.bits_eq hv, Ctx.counterOp_of_clean hv clean, index]
    exact if_neg (mt (cntSubOk_iff ..).1 range)
  case cntwr =>
    rintro - c hv clean
    have low : BitVec.ofNat 9 (v c).toNat = (v c).extractLsb' 0 9 := by
      rw [← BitVec.toNat_inj, BitVec.toNat_ofNat, low_toNat]
    refine (if_neg (Bool.eq_false_iff.1 clean)).trans ?_
    rw [Ctx.aBoth, clean, Ctx.tlane64_aw, Ctx.bits_eq hv, BitVec.ofNat_toNat, BitVec.setWidth_eq, low]
    refine congrArg (fun t => FireRes.done t (c.both c.f.a.lanes false)) (congrArg c.upd (funext fun x => ?_))
    simp only [LCore.count, written, idx]
    split
    next => rfl
    next => split <;> rfl
  case cntwrPoison => exact fun c _ bad => if_pos bad

end Sys2Proof.Machine
end

section
/-! PROOFS. Jobs of the copy unit (15 R386, R388, R390, R393; 14 R361): the start, the claim of a destination tile, the lines of the next
page, the end, and a multicast line at its destination. -/
namespace Sys2Proof.Machine
open Sys2Proof

/-- Whether a destination core of a copy job has the job's tile as an AB tile (15 R386). -/
def State.destIsAb (s : State) (j : EJob) (l : Nat) : Bool :=
  match s.lc? j.asid l with | some y => y.tileIs j.dtile .ab | none => false

theorem EJob.dtile_eq (j : EJob) : j.dtile = (j.e1.extractLsb' 17 5).toNat := viewX_x1 j.opc j.n j.e1 j.e2 17 5

section job
variable {s : State} {ci k : Nat} {j : EJob} {x : LCore} (hj : (s.cluster ci).cpq[k]? = some j) (hx : s.lc? j.asid j.lc = some x)
  (runs : s.running j.asid = true)

include hj

section start
include hx runs
variable (granted : j.granted = true) (waiting : j.started = false)
include granted waiting

/-- COPY_JOB_START of a granted job that waits (15 R386, R393). -/
theorem exec_copyJobStart : exec (.copyJobStart ci k) s = .next (
    if isCopyCmd j.opc.toNat then
      if (copyDests j.view).any (fun l => !s.destIsAb j l) then s.failCopy ci j .jobFault 0x67
      else (s.fresh.2.updLC j.asid j.lc (fun x => x.holdCopy j.view ((copyDests j.view).contains j.lc) j.id)).setCopy ci
        { j with started := true, pass := if j.opc = 0x2C0 then s.fresh.1 else 0 }
    else s.startCb ci j x) := by
  show Host.Outcome.next _ = _
  have dests (l : Nat) : (match s.lc? j.asid l with | some y => !y.tileIs j.dtile .ab | none => true) = !s.destIsAb j l := by
    unfold State.destIsAb
    cases s.lc? j.asid l <;> rfl
  simp only [State.copyJob, hj, hx, granted, waiting, runs, ← dests]
  rfl

theorem exec_copyJobStart_of_no_tile (copies : isCopyCmd j.opc.toNat = true) (bad : ∃ l ∈ copyDests j.view, s.destIsAb j l = false) :
    exec (.copyJobStart ci k) s = .next (s.failCopy ci j .jobFault 0x67) := by
  have fails : (copyDests j.view).any (fun l => !s.destIsAb j l) = true := by simpa using bad
  rw [exec_copyJobStart hj hx runs granted waiting, if_pos copies, if_pos fails]

theorem exec_copyJobStart_of_tiles (copies : isCopyCmd j.opc.toNat = true) (good : ∀ l ∈ copyDests j.view, s.destIsAb j l = true)
    (memory : j.srcTile = false) (elsewhere : j.lc ∉ copyDests j.view) : exec (.copyJobStart ci k) s =
      .next ((s.fresh.2.updLC j.asid j.lc (fun x => x)).setCopy ci
        { j with started := true, pass := if j.opc = 0x2C0 then s.fresh.1 else 0 }) := by
  have sound : ¬ (copyDests j.view).any (fun l => !s.destIsAb j l) = true := by simpa using good
  have own : (copyDests j.view).contains j.lc = false := by simpa using elsewhere
  have holds (x : LCore) : x.holdCopy j.view false j.id = x := if_neg (beq_eq_false_iff_ne.1 memory)
  rw [exec_copyJobStart hj hx runs granted waiting, if_pos copies, if_neg sound, own, funext holds]

theorem exec_copyJobStart_of_pending (other : isCopyCmd j.opc.toNat = false) (pending : ((x.tile (j.view.bits 0 5)).cbLine j.slot).p = true) :
    exec (.copyJobStart ci k) s = .next (s.failCopy ci j .jobFault 0x65) := by
  rw [exec_copyJobStart hj hx runs granted waiting, if_neg (Bool.eq_false_iff.1 other)]
  exact congrArg Host.Outcome.next (if_pos pending)

end start

section started
variable (started : j.started = true)
include started

theorem exec_copyTileClaim (copies : isCopyCmd j.opc.toNat = true) (runs : s.running j.asid = true) {l : Nat} {y : LCore}
    (next : (copyDests j.view).find? (fun l => !j.claims.contains l) = some l) (hy : s.lc? j.asid l = some y)
    (free : (y.tile j.dtile).state = .empty ∨ (y.tile j.dtile).state = .ready) :
    exec (.copyTileClaim ci k) s = .next ((s.updLC j.asid l (fun y => y.holdTile j.dtile .filling j.id 1)).setCopy ci
      { j with claims := j.claims ++ [l] }) := by
  show Host.Outcome.next _ = _
  simp only [State.copyJob, hj, started, copies, runs, next, hy, if_pos free]
  rfl

/-- The next lines of a CPY to memory are those of the page that it has reached (14 R361). -/
theorem exec_engineLineOwnership_of_cpy (runs : s.running j.asid = true) (cpy : j.opc = 0x2C0) (none : j.owns = [])
    (memory : j.dstTile = false) (left : j.prog < j.len) : exec (.engineLineOwnership ci k) s = .next (s.takeLines ci j (j.ptr 2 + j.prog)
      (min (4096 - (j.ptr 2 + j.prog) % 4096) (j.len - j.prog) / 64)) := by
  show Host.Outcome.next _ = _
  have moves : s.moveMem ci j = s.takeLines ci j (j.ptr 2 + j.prog)
      (min (4096 - (j.ptr 2 + j.prog) % 4096) (j.len - j.prog) / 64) := by
    have dest : s.jobDest ci j j.prog = .ok (s, j.ptr 2 + j.prog) := by simp [State.jobDest, cpy]
    simp only [State.moveMem, cpy, none, dest]
    rw [if_neg (by decide), if_neg (not_not_intro rfl), if_neg (Nat.not_le.2 left), if_neg (by decide)]
    exact congrArg (fun n => s.takeLines ci j (j.ptr 2 + j.prog) (min n (j.len - j.prog) / 64)) (Nat.min_self _)
  simp only [State.copyJob, hj, started, runs, none, cpy, memory, moves]
  rfl

theorem exec_copyJobRetire (runs : s.running j.asid = true) (moved : j.moved = true)
    (plain : j.opc ≠ 0x2C1 ∧ j.opc ≠ 0x2C2 ∨ j.ptr 4 = 0) : exec (.copyJobRetire ci k) s = .next (s.endCopy ci j none) := by
  show Host.Outcome.next _ = _
  have third : (if j.opc = 0x2C1 ∨ j.opc = 0x2C2 then j.ptr 4 else 0) = 0 := by
    rcases plain with ⟨decodes, encodes⟩ | zero
    · exact if_neg (not_or.2 ⟨decodes, encodes⟩)
    · rw [zero, ite_self]
  simp only [State.copyJob, hj, started, moved, runs, third]
  simp

end started

end job

theorem State.takeLines_of_ok {s u : State} {ci p n : Nat} {j : EJob} {ls : List Nat} (h : s.ownPage ci j p n = .ok (u, ls)) :
    s.takeLines ci j p n = ({ u with owned := u.owned ++ ls.map (fun l => (l, j.key ci)) }).setCopy ci { j with owns := ls } := by
  rw [State.takeLines, h]

/-- A multicast line that is not the last, at the one destination of its request (15 R390). -/
theorem exec_multicastDelivery {s : State} {i : Nat} {r : HReq} {j : EJob} (hr : s.reqs[i]? = some r) (mcast : r.kind = .mcast)
    (home : r.atHost = true) (alone : ∀ q ∈ listDrop s.reqs i, q.kind = .mcast → q.atHost = true → q.read ≠ r.read)
    (hj : s.mcastJob r = some j) (runs : s.running j.asid = true) (more : j.prog + 64 < j.len) (one : j.claims = [j.lc]) :
    exec (.multicastDelivery i) s = .next (({ s with reqs := listDrop s.reqs i }.updLC j.asid j.lc (fun x =>
      x.updTile j.dtile (fun t => t.store (j.view.x1 22 15 + 64 * r.part) r.data r.poison))).setCopy r.chain
        { j with prog := j.prog + 64 }) := by
  show Host.Outcome.next _ = _
  have stays : (listDrop s.reqs i).map (fun q => if q.kind = .mcast ∧ q.atHost ∧ q.read = r.read then { q with left := true } else q) =
      listDrop s.reqs i :=
    (List.map_congr_left (fun q hq => if_neg (fun ⟨kind, at_, same⟩ => alone q hq kind at_ same))).trans (List.map_id _)
  have last : decide (j.len ≤ j.prog + 64) = false := decide_eq_false (Nat.not_le.2 more)
  simp only [hr, mcast, home, hj, stays, runs, one, last, LCore.takeLine]
  rfl

/-- Settles O39: each step of a copy job by its equation above. -/
theorem copyJobs : Obligations.CopyJobs := by
  unfold Obligations.CopyJobs
  intro s ci k j x p hj hx hp running tile copies ab
  have runs : s.running j.asid = true := (State.running_iff ..).2 ⟨p, hp, running⟩
  have dtile : j.dtile = tile := EJob.dtile_eq j
  have dest (l : Nat) : s.destIsAb j l = ab l := by
    simp only [State.destIsAb, dtile] <;> rfl
  have copy (h : copies) : isCopyCmd j.opc.toNat = true := by simpa [isCopyCmd] using h
  refine ⟨?noTile, ?tiles, ?pending, ?claim, ?lines, ?retire, ?line⟩
  case noTile =>
    rintro h granted waiting ⟨l, hl, bad⟩
    exact exec_copyJobStart_of_no_tile hj hx runs granted waiting (copy h) ⟨l, hl, (dest l).trans bad⟩
  case tiles =>
    intro h granted waiting good memory elsewhere
    exact exec_copyJobStart_of_tiles hj hx runs granted waiting (copy h) (fun l hl => (dest l).trans (good l hl)) memory elsewhere
  case pending =>
    intro h granted waiting pending
    exact exec_copyJobStart_of_pending hj hx runs granted waiting (by rw [h]; rfl) pending
  case claim =>
    intro h started l y next hy free
    rw [exec_copyTileClaim hj started (copy h) runs next hy (by rw [dtile]; exact free), dtile]
    rfl
  case lines =>
    intro cpy started none memory left ls u at_ n owned
    rw [exec_engineLineOwnership_of_cpy hj started runs cpy none memory left]
    exact congrArg Host.Outcome.next (State.takeLines_of_ok owned)
  case retire => exact fun started moved plain => exec_copyJobRetire hj started runs moved plain
  case line =>
    rintro i r hr mcast home rfl alone hu more one
    rw [exec_multicastDelivery hr mcast home alone hu runs more one, dtile, show j.view.x1 22 15 = _ from viewX_x1 ..]

end Sys2Proof.Machine
end

section
/-! PROOFS. Ownership, the mailbox and the reports (17 R405 to R412; 13 R324): the owner and its claims, the commands of a mailbox, a
region that is given back, the report ring, the link of a port, and a host's requests. -/
namespace Sys2Proof.Machine
open Sys2Proof

section owner
variable {s : State} {port : Nat}

/-- The owner is lost: its port's link is down, or its last beat is 100 ms old (17 R409). -/
theorem State.ownerLost_iff (s : State) : s.ownerLost = true ↔
    s.owner ≠ 0 ∧ ((s.pcieBlk (s.owner.toNat - 1)).up = false ∨ 100000 ≤ s.hbage.toNat) := by
  simp [State.ownerLost]

theorem State.isOwner_iff (s : State) (port : Nat) : s.isOwner port = true ↔ s.owner.toNat = port + 1 := beq_iff_eq

theorem State.claim_of_owner (mine : s.owner.toNat = port + 1) : s.claim port = s := if_pos (.inr ((s.isOwner_iff port).2 mine))

variable (there : port < 2) (other : ¬ s.owner.toNat = port + 1)
include there other

theorem State.claim_of_free (free : s.owner = 0 ∨ s.ownerLost = true) :
    s.claim port = ({ s with owner := BitVec.ofNat 2 (port + 1), hbage := 0 } : State).firePf0 2 :=
  (if_neg (not_or.2 ⟨Nat.not_le.2 there, mt (s.isOwner_iff port).1 other⟩)).trans (if_pos free)

theorem State.claim_of_taken (taken : ¬ (s.owner = 0 ∨ s.ownerLost = true)) :
    s.claim port = s.updPcie port (fun b => { b with claimfail := true }) :=
  (if_neg (not_or.2 ⟨Nat.not_le.2 there, mt (s.isOwner_iff port).1 other⟩)).trans (if_neg taken)

end owner

/-- The command of an OP runs where it stands at a field's mailbox (17 R411). -/
theorem State.mailbox_of_op {s : State} {fi op : Nat} (busy : (s.field fi).mbBusy = true) (hop : (s.field fi).mbOp.toNat = op)
    (run : Field → State) : s.mailbox fi op run = run (s.field fi) := if_pos ⟨busy, hop⟩

section mailbox
variable {s : State} {fi : Nat} (busy : (s.field fi).mbBusy = true)
include busy

theorem exec_regionRelease (hop : (s.field fi).mbOp = 1) : exec (.regionRelease fi) s = .next (
    let f := s.field fi
    if f.mbArg0.toNat < 128 ∧ f.mbArg1.toNat < 496 then
      (s.updCluster (clusterAt fi f.mbArg0.toNat) (fun x => x.releaseRegion f.mbArg1.toNat)).mbEnd fi 0 f.mbRes
    else s.mbEnd fi 1 f.mbRes) :=
  congrArg _ (State.mailbox_of_op busy (by rw [hop]; rfl) _)

theorem exec_unitClear_of_unit (hop : (s.field fi).mbOp = 2) {k c l q : Nat}
    (unit : s.resolve (s.field fi).mbArg0.toNat = .dram k c l q 0) : exec (.unitClear fi) s = .next (
    if fieldOfCluster k = fi then
      (s.updCluster k (fun x => { x with unitPz := x.unitPz.filter (· ≠ unitKey c l q) })).mbEnd fi 0 (s.field fi).mbRes
    else s.mbEnd fi 1 (s.field fi).mbRes) := by
  refine congrArg Host.Outcome.next ((State.mailbox_of_op busy (by rw [hop]; rfl) _).trans ?_)
  simp only [unit]

theorem exec_unitClear_of_other (hop : (s.field fi).mbOp = 2)
    (other : ∀ k c l q, s.resolve (s.field fi).mbArg0.toNat = .dram k c l q 0 → fieldOfCluster k ≠ fi) :
    exec (.unitClear fi) s = .next (s.mbEnd fi 1 (s.field fi).mbRes) := by
  refine congrArg Host.Outcome.next ((State.mailbox_of_op busy (by rw [hop]; rfl) _).trans ?_)
  split
  next k c l q unit => exact if_neg (other k c l q unit)
  next => rfl

/-- The pages that a PAGE_GRANT lists (17 R411). -/
def State.granted (s : State) (fi : Nat) : List Nat :=
  (List.range (s.field fi).mbArg1.toNat).map (fun i => (s.word64 ((s.field fi).mbArg0.toNat + 8 * i)).toNat)

/-- Whether a PAGE_GRANT lists pages, and each is a page of the device's memory that there is (17 R411). -/
def State.GrantOk (s : State) (fi : Nat) : Prop :=
  0 < (s.field fi).mbArg1.toNat ∧ (s.field fi).mbArg1.toNat ≤ 65536 ∧ s.present (s.field fi).mbArg0.toNat = true ∧
    ∀ p ∈ s.granted fi, p % 4096 = 0 ∧ p < 0x80000000000 ∧ s.present p = true

omit busy in
theorem State.grantOk_iff (s : State) (fi : Nat) : s.GrantOk fi ↔ ¬ ((s.field fi).mbArg1.toNat = 0 ∨ 65536 < (s.field fi).mbArg1.toNat ∨
    (!s.present (s.field fi).mbArg0.toNat) = true ∨
    (s.granted fi).any (fun p => p % 4096 != 0 || decide (0x80000000000 ≤ p) || !s.present p) = true) := by
  simp [State.GrantOk, Nat.pos_iff_ne_zero, and_assoc]

theorem exec_pageGrant_of_ok (hop : (s.field fi).mbOp = 3) (ok : s.GrantOk fi) : exec (.pageGrant fi) s = .next (
    let all := ((s.granted fi).map (· / 4096)).foldl addNat (s.field fi).pages
    (s.updField fi (fun f => { f with pages := all })).mbEnd fi 0 (BitVec.ofNat 64 all.length)) :=
  congrArg Host.Outcome.next ((State.mailbox_of_op busy (by rw [hop]; rfl) _).trans (if_neg ((s.grantOk_iff fi).1 ok)))

theorem exec_pageGrant_of_bad (hop : (s.field fi).mbOp = 3) (bad : ¬ s.GrantOk fi) :
    exec (.pageGrant fi) s = .next (s.mbEnd fi 1 (s.field fi).mbRes) :=
  congrArg Host.Outcome.next ((State.mailbox_of_op busy (by rw [hop]; rfl) _).trans (if_pos (not_not.1 (mt (s.grantOk_iff fi).2 bad))))

theorem exec_coreRetire (hop : (s.field fi).mbOp = 4) : exec (.coreRetire fi) s = .next (
    let f := s.field fi
    let cx := f.mbArg0.toNat % 256
    let cy := f.mbArg0.toNat / 256 % 256
    if fieldOfCore cx cy = fi then (s.retireCore cx cy 4).mbEnd fi 0 f.mbRes else s.mbEnd fi 1 f.mbRes) :=
  congrArg _ (State.mailbox_of_op busy (by rw [hop]; rfl) _)

theorem exec_journalClear (hop : (s.field fi).mbOp = 5) : exec (.journalClear fi) s = .next (
    if fi = s.bootField then { s with clearPend := true }.mbEnd fi 0 (s.field fi).mbRes else s.mbEnd fi 2 (s.field fi).mbRes) :=
  congrArg _ (State.mailbox_of_op busy (by rw [hop]; rfl) _)

theorem exec_svnCommit (hop : (s.field fi).mbOp = 6) : exec (.svnCommit fi) s = .next (
    if fi = s.bootField then { s with svnMin := max s.svnMin (s.field fi).fwrev.toNat }.mbEnd fi 0 (s.field fi).mbRes
    else s.mbEnd fi 2 (s.field fi).mbRes) :=
  congrArg _ (State.mailbox_of_op busy (by rw [hop]; rfl) _)

theorem exec_mailboxBadCommand (hop : (s.field fi).mbOp = 0 ∨ 6 < (s.field fi).mbOp.toNat) :
    exec (.mailboxBadCommand fi) s = .next (s.mbEnd fi 1 (s.field fi).mbRes) :=
  congrArg Host.Outcome.next (if_pos ⟨busy, hop⟩)

end mailbox

section region
variable (k : Cluster) (g : Nat)

theorem Cluster.releaseRegion_descAt (wf : SMap.wf Desc.init k.desc = true) : (k.releaseRegion g).descAt g = Desc.init :=
  SMap.get_put_self Desc.init k.desc g Desc.init wf

theorem Cluster.releaseRegion_descAt_ne {h : Nat} (other : h ≠ g) : (k.releaseRegion g).descAt h = k.descAt h :=
  SMap.get_put_ne Desc.init k.desc g h Desc.init other

/-- A region that is given back keeps the poison of no unit of its own (13 R335). -/
theorem Cluster.releaseRegion_unitPz {c l u : Nat} (hu : u < 3968) :
    (k.releaseRegion g).unitPz.contains (unitKey c l u) = (k.unitPz.contains (unitKey c l u) && !(u / 8 == g)) := by
  have place : unitKey c l u % 4096 = u := by unfold unitKey; omega
  rw [Bool.eq_iff_iff]
  simp [Cluster.releaseRegion, place]

end region

theorem exec_reportRingWrite {s : State} {r : Report} {rest : List Report} (h : s.reports = r :: rest) :
    exec .reportRingWrite s = .next (
      let n := s.rptLog2n.toNat
      if s.rptEn ∧ 4 ≤ n ∧ n ≤ 12 ∧ (s.rptProd - s.rptCons).toNat < 2 ^ n then
        ({ s.fresh.2.writeRange 2 (s.rptBase.toNat / 64 % 70368744177664 * 64 + 32 * (s.rptProd.toNat % 2 ^ n))
            (r.bytes (Config.freeWord s.fresh.1)) false with reports := rest, rptProd := s.rptProd + 1 }).firePf0 1
      else s) := by
  show Host.Outcome.next _ = _
  rw [h]

section link
variable {s : State} {port : Nat} (there : port < 2) (rate width : Nat)

theorem State.updPcie_congr {f g : PcieBlk → PcieBlk} (h : f (s.pcieBlk port) = g (s.pcieBlk port)) : s.updPcie port f = s.updPcie port g := by
  rw [State.updPcie, State.updPcie, h]

theorem exec_linkUpChange_of_fenced (fenced : (s.field (3 + port)).fenced = true) : exec (.linkUpChange port true rate width) s = .next s :=
  congrArg Host.Outcome.next (if_pos (.inr ⟨rfl, fenced⟩))

include there

theorem exec_linkUpChange {up : Bool} (free : ¬ (up = true ∧ (s.field (3 + port)).fenced = true)) :
    exec (.linkUpChange port up rate width) s = .next (s.updPcie port (fun b =>
      { b with up := up, rate := BitVec.ofNat 3 rate, width := BitVec.ofNat 4 width,
               retrains := if up ∧ !b.up ∧ s.booted ∧ b.retrains ≠ 0xFF then b.retrains + 1 else b.retrains })) :=
  congrArg Host.Outcome.next (if_neg (not_or.2 ⟨Nat.not_le.2 there, free⟩))

end link

/-- A request of a function that there is, by its BAR (17 Table 1). -/
def State.barAccess (s : State) (r : HostReq) : State :=
  match r.bar with
  | 0 => if r.fn = 0 then (if r.off < 0x4100000 then s.hostAccess r (bar0 r.off) else s.hostDone r.port false []) else s.vfBar0 r
  | 2 => s.queuePage r
  | 4 =>
    if r.fn = 0 then (if r.off + r.len ≤ 2 ^ 45 then s.hostAccess r r.off else s.hostDone r.port false [])
    else if r.off + r.len ≤ 2 ^ 36 then
      s.hostAccess r ((SMap.get (FnEntry.init r.fn) (s.pcieBlk r.port).fn r.fn).vfbase.toNat * 2 ^ 30 + r.off)
    else s.hostDone r.port false []
  | 7 => s.configSpace r
  | _ => s.hostDone r.port false []

section request
variable {s : State} {r : HostReq} (port : r.port < 2) (function : r.fn < 64) (up : (s.pcieBlk r.port).up = true)
include port function up

theorem exec_hostMemoryRequest_of_beyond (beyond : (s.pcieBlk r.port).numVfs < r.fn) :
    exec (.hostMemoryRequest r) s = .next (s.hostDone r.port false []) := by
  refine congrArg Host.Outcome.next ((if_neg ?_).trans (if_pos beyond))
  simpa [up] using And.intro port function

theorem exec_hostMemoryRequest (within : r.fn ≤ (s.pcieBlk r.port).numVfs) :
    exec (.hostMemoryRequest r) s = .next (s.barAccess r) := by
  refine congrArg Host.Outcome.next ((if_neg ?_).trans (if_neg (Nat.not_lt.2 within)))
  simpa [up] using And.intro port function

end request

section bar
variable {s : State} {r : HostReq}

theorem State.barAccess_field (bar : r.bar = 0) (physical : r.fn = 0) (low : r.off < 0x4000000) :
    s.barAccess r = s.hostAccess r (0x200000000000 + r.off) := by
  rw [State.barAccess, bar]
  refine (if_pos physical).trans ((if_pos (by omega)).trans ?_)
  rw [bar0, if_pos low]

theorem State.barAccess_wafer (bar : r.bar = 0) (physical : r.fn = 0) (high : 0x4000000 ≤ r.off) (within : r.off < 0x4100000) :
    s.barAccess r = s.hostAccess r (0x200040000000 + (r.off - 0x4000000)) := by
  rw [State.barAccess, bar]
  refine (if_pos physical).trans ((if_pos within).trans ?_)
  rw [bar0, if_neg (Nat.not_lt.2 high)]

theorem State.barAccess_beyond (bar : r.bar = 0) (physical : r.fn = 0) (beyond : 0x4100000 ≤ r.off) :
    s.barAccess r = s.hostDone r.port false [] := by
  rw [State.barAccess, bar]
  exact (if_pos physical).trans (if_neg (Nat.not_lt.2 beyond))

theorem State.barAccess_virtual (bar : r.bar = 0) (virtual : r.fn ≠ 0) : s.barAccess r = s.vfBar0 r := by
  rw [State.barAccess, bar]
  exact if_neg virtual

theorem State.barAccess_queue (bar : r.bar = 2) : s.barAccess r = s.queuePage r := by
  simp only [State.barAccess, bar]

theorem State.barAccess_memory (bar : r.bar = 4) (physical : r.fn = 0) :
    s.barAccess r = if r.off + r.len ≤ 2 ^ 45 then s.hostAccess r r.off else s.hostDone r.port false [] := by
  rw [State.barAccess, bar]
  exact if_pos physical

theorem State.barAccess_window (bar : r.bar = 4) (virtual : r.fn ≠ 0) : s.barAccess r =
    if r.off + r.len ≤ 2 ^ 36 then
      s.hostAccess r ((SMap.get (FnEntry.init r.fn) (s.pcieBlk r.port).fn r.fn).vfbase.toNat * 2 ^ 30 + r.off)
    else s.hostDone r.port false [] := by
  rw [State.barAccess, bar]
  exact if_neg virtual

theorem State.barAccess_numVfs {bs : List Byte} (bar : r.bar = 7) (physical : r.fn = 0) (off : r.off = 16) (write : r.data = some bs) :
    s.barAccess r =
      (s.updPcie r.port (fun b => { b with numVfs := min 63 (natOfBytes (bs.take 2)) })).hostDone r.port true [] := by
  rw [State.barAccess, bar]
  simp only [State.configSpace, write]
  exact if_pos ⟨physical, off⟩

end bar

theorem State.queuePage_of_doorbell {s : State} {r : HostReq} {bs : List Byte} {q : Nat} (write : r.data = some bs)
    (page : r.off = 4096 * q) (there : q < 16) (wide : 2 ≤ r.len) (mine : (SMap.get 0 (s.pcieBlk r.port).qfn q).toNat = r.fn) :
    s.queuePage r = (s.writeProd r.port (16 * r.port + q) (natOfBytes (bs.take 2))).hostDone r.port true [] := by
  have number : r.off / 4096 = q := by omega
  have start : r.off % 4096 = 0 := by omega
  simp only [State.queuePage, number, start, write, mine, beq_self_eq_true]
  rw [if_neg (by omega), if_pos ⟨trivial, trivial, wide⟩]

/-- BAR0 of a virtual function: DEV_ID, then its FN entry (17 Table 1; log 99). -/
theorem State.vfBar0_of_read {s : State} {r : HostReq} (read : r.data = none) (wide : r.len = 8) :
    (r.off = 0 → s.vfBar0 r = s.hostDone r.port true (bytesOfNat 8 s.devId.toNat)) ∧
    (r.off = 8 → s.vfBar0 r = s.hostDone r.port true
      (bytesOfNat 8 (SMap.get (FnEntry.init r.fn) (s.pcieBlk r.port).fn r.fn).word.toNat)) := by
  have eight (v : Nat) : ∃ a b c d e f g h, bytesOfNat 8 v = [a, b, c, d, e, f, g, h] := ⟨_, _, _, _, _, _, _, _, rfl⟩
  obtain ⟨a, b, c, d, e, f, g, h, first⟩ := eight s.devId.toNat
  obtain ⟨a', b', c', d', e', f', g', h', second⟩ := eight (SMap.get (FnEntry.init r.fn) (s.pcieBlk r.port).fn r.fn).word.toNat
  refine ⟨fun off => ?_, fun off => ?_⟩ <;>
  · simp only [State.vfBar0, off, wide, read, first, second]
    rfl

section register
variable {s : State} {port fn : Nat} {pa : Nat} {v : DWord}

theorem exec_registerWrite_of_virtual (virtual : fn ≠ 0) : exec (.registerWrite (.host port fn) pa v) s = .next s :=
  congrArg Host.Outcome.next (if_neg (fun h => virtual h.2))

theorem exec_registerWrite_of_host (there : port < 2) : exec (.registerWrite (.host port 0) pa v) s = .next (s.writeReg (.host port 0) pa v) :=
  congrArg Host.Outcome.next (if_pos ⟨there, rfl⟩)

theorem State.writeReg_of_denied {fi off : Nat} (aligned : pa % 8 = 0) (block : s.resolve pa = .fieldBlk fi off)
    (other : ¬ s.owner.toNat = port + 1) : s.writeReg (.host port fn) pa v = s.deny port := by
  refine (if_neg (not_not_intro aligned)).trans ?_
  simp only [block]
  exact if_neg (mt (s.isOwner_iff port).1 other)

end register

/-- Settles O50: the owner's claims, each command of the mailbox, the region, the ring, the link, and each BAR. -/
theorem ownersAndMailbox : Obligations.OwnersAndMailbox := by
  unfold Obligations.OwnersAndMailbox
  refine ⟨?owner, ?mailbox, ?region, ?ring, ?link, ?request, ?register⟩
  case owner =>
    intro s port there lost mine
    have lostIff : s.ownerLost = true ↔ lost := s.ownerLost_iff
    refine ⟨fun h => congrArg _ (State.claim_of_owner h),
      fun other free => congrArg _ (State.claim_of_free there other (free.imp id lostIff.2)),
      fun other taken kept => congrArg _ (State.claim_of_taken there other (not_or.2 ⟨taken, mt lostIff.1 kept⟩)),
      fun h => congrArg _ (if_pos ((s.isOwner_iff port).2 h)), fun other => congrArg _ (if_neg (mt (s.isOwner_iff port).1 other)),
      fun h => congrArg _ (if_pos ((s.isOwner_iff port).2 h)), fun other => congrArg _ (if_neg (mt (s.isOwner_iff port).1 other)), rfl⟩
  case mailbox =>
    intro s fi f ends fails busy
    refine ⟨?release, fun hop => ⟨fun k c l q unit own => ?clear, fun other => exec_unitClear_of_other busy hop other⟩, ?grant, ?retire,
      fun hop => ⟨fun own => ?journal, fun other => ?noJournal⟩, fun hop => ⟨fun own => ?svn, fun other => ?noSvn⟩,
      fun hop => exec_mailboxBadCommand busy hop⟩
    case release =>
      intro hop good
      exact ⟨fun ok => (exec_regionRelease busy hop).trans (congrArg _ (if_pos ok)),
        fun bad => (exec_regionRelease busy hop).trans (congrArg _ (if_neg bad))⟩
    case clear => exact (exec_unitClear_of_unit busy hop unit).trans (congrArg _ (if_pos own))
    case grant =>
      intro hop n ps good all
      exact ⟨fun ok => exec_pageGrant_of_ok busy hop ok, fun bad => exec_pageGrant_of_bad busy hop bad⟩
    case retire =>
      intro hop cx cy
      exact ⟨fun own => (exec_coreRetire busy hop).trans (congrArg _ (if_pos own)),
        fun other => (exec_coreRetire busy hop).trans (congrArg _ (if_neg other))⟩
    case journal => exact (exec_journalClear busy hop).trans (congrArg _ (if_pos own))
    case noJournal => exact (exec_journalClear busy hop).trans (congrArg _ (if_neg other))
    case svn => exact (exec_svnCommit busy hop).trans (congrArg _ (if_pos own))
    case noSvn => exact (exec_svnCommit busy hop).trans (congrArg _ (if_neg other))
  case region =>
    intro k g r
    refine ⟨fun wf => ⟨k.releaseRegion_descAt g wf, fun h other => k.releaseRegion_descAt_ne g other⟩, fun c l u _ hu own => ?own,
      fun c l u _ hu other => ?other⟩
    case own => rw [k.releaseRegion_unitPz g hu, own, beq_self_eq_true, Bool.not_true, Bool.and_false]
    case other => rw [k.releaseRegion_unitPz g hu, beq_eq_false_iff_ne.2 other, Bool.not_false, Bool.and_true]
  case ring =>
    intro s r rest h n room at_
    exact ⟨fun ok => (exec_reportRingWrite h).trans (congrArg _ (if_pos ok)), fun full => (exec_reportRingWrite h).trans (congrArg _ (if_neg full))⟩
  case link =>
    intro s port rate width there b
    refine ⟨?down, fun fenced => exec_linkUpChange_of_fenced rate width fenced, ?up⟩
    case down =>
      rw [exec_linkUpChange there rate width (fun h => Bool.false_ne_true h.1)]
      rfl
    case up =>
      intro free again
      rw [exec_linkUpChange there rate width (fun h => Bool.eq_false_iff.1 free h.2)]
      refine congrArg Host.Outcome.next (State.updPcie_congr ?_)
      simp [again, b]
  case request =>
    intro s r port function up done access unsupported
    refine ⟨fun beyond => exec_hostMemoryRequest_of_beyond port function up beyond, fun within => ?_⟩
    have goes {t : State} (h : s.barAccess r = t) : exec (.hostMemoryRequest r) s = .next t :=
      h ▸ exec_hostMemoryRequest port function up within
    exact ⟨fun bar pf low => goes (State.barAccess_field bar pf low),
      fun bar pf high low => goes (State.barAccess_wafer bar pf high low),
      fun bar pf beyond => goes (State.barAccess_beyond bar pf beyond),
      fun bar pf fits => goes ((State.barAccess_memory bar pf).trans (if_pos fits)),
      fun bar pf beyond => goes ((State.barAccess_memory bar pf).trans (if_neg (Nat.not_le.2 beyond))),
      fun bar vf fits => goes ((State.barAccess_window bar vf).trans (if_pos fits)),
      fun bar vf beyond => goes ((State.barAccess_window bar vf).trans (if_neg (Nat.not_le.2 beyond))),
      fun bar => goes (State.barAccess_queue bar),
      fun bs q bar write page there wide mine =>
        goes ((State.barAccess_queue bar).trans (State.queuePage_of_doorbell write page there wide mine)),
      fun bar vf read wide => ⟨fun off => goes ((State.barAccess_virtual bar vf).trans ((State.vfBar0_of_read read wide).1 off)),
        fun off => goes ((State.barAccess_virtual bar vf).trans ((State.vfBar0_of_read read wide).2 off))⟩,
      fun bs bar pf off write => goes (State.barAccess_numVfs bar pf off write)⟩
  case register =>
    intro s port fn pa v there
    refine ⟨exec_registerWrite_of_virtual, rfl, exec_registerWrite_of_host there, fun fi off aligned block other => ?_⟩
    rw [exec_registerWrite_of_host there, State.writeReg_of_denied aligned block other]
    rfl

end Sys2Proof.Machine
end

section
/-! PROOFS. Boot, verification, power and heat (17 R413 to R423): the records of the journal, the steps of a boot, recovery mode, the
loss of power, and the throttle of a field. -/
namespace Sys2Proof.Machine
open Sys2Proof

section verification

theorem firmwareOk_iff (v : FirmwareCheck) (m : Nat) : firmwareOk v m = true ↔
    v.rsaOk = true ∧ v.slhOk = true ∧ v.keysOk = true ∧ v.arch = 1 ∧ m ≤ v.svn ∧ v.lenOk = true := by
  simp [firmwareOk, and_assoc]

/-- The checks of the signatures and of the SVN decide the result of an image with good keys, length and architecture (17 Table 2). -/
theorem verifyResult_of_good {c : FirmwareCheck} (keys : c.keysOk = true) (len : c.lenOk = true) (arch : c.arch = 1) (m : Nat) (w : Word) :
    (m ≤ c.svn → c.rsaOk = false → c.slhOk = true → verifyResult c m w = 1) ∧
    (m ≤ c.svn → c.rsaOk = true → c.slhOk = false → verifyResult c m w = 2) ∧
    (m ≤ c.svn → c.rsaOk = false → c.slhOk = false → verifyResult c m w = 3) ∧
    (c.svn < m → c.rsaOk = true → c.slhOk = true → verifyResult c m w = 4) := by
  refine ⟨fun svn rsa slh => ?_, fun svn rsa slh => ?_, fun svn rsa slh => ?_, fun svn rsa slh => ?_⟩ <;>
    simp [verifyResult, keys, len, arch, rsa, slh, Nat.not_lt.2, svn]

end verification

section boot
variable {s : State} {step : Nat}

theorem exec_bootStep (s : State) (step : Nat) (e : StepResult) : exec (.bootStep step e) s = execBootStep step e s := rfl

theorem execBootStart_of_busy (rom : RomTest) (factory : FirmwareCheck)
    (busy : s.booted = true ∨ s.booting = true ∨ (s.field 3).recovery = true ∨ (s.field 4).recovery = true) :
    exec (.bootStart rom factory) s = .next s := congrArg Host.Outcome.next (if_pos busy)

theorem State.beginMandatory_of_none (none : latestRec s.journal step = none) : s.beginMandatory step = s.putStart step 0 := by
  simp only [State.beginMandatory, none]

variable {r : JRec} (hr : latestRec s.journal step = some r)
include hr

theorem State.beginMandatory_of_failed (bad : r.start = true ∨ r.result = 1) : s.beginMandatory step =
    if step = 0 ∨ 3 ≤ r.variant then s.recover else s.putStart step (r.variant + 1) := by
  simp only [State.beginMandatory, hr, if_pos bad]

theorem State.beginMandatory_of_ended (ended : ¬ (r.start = true ∨ r.result = 1)) : s.beginMandatory step = s.putStart step r.variant := by
  simp only [State.beginMandatory, hr, if_neg ended]

theorem State.beginJoin_of_skipped (bad : r.start = true ∨ r.result = 1 ∨ r.result = 2) :
    s.beginJoin step = (s.putEnd step r.variant 2).fence (stepField step) := by
  simp only [State.beginJoin, hr, if_pos bad]

variable (on : s.booting = true) (runs : s.stepRuns step = true)
include on runs

/-- What a step that runs leaves when it ends, before boot goes on (17 Table 5): the ROM's own step, the host-port fields, a join. -/
theorem execBootStep_zero_done (t : Nat) (zero : step = 0) (pass : s.romPass = true) :
    exec (.bootStep step (.done t)) s = .next ((s.putEnd 0 r.variant 0).advanceBoot 13) := by
  subst zero
  simp [exec_bootStep, execBootStep, hr, on, runs, pass]

theorem execBootStep_zero_failed (zero : step = 0) :
    exec (.bootStep step .failed) s = .next ((s.failMandatory 0 r.variant).advanceBoot 13) := by
  subst zero
  simp [exec_bootStep, execBootStep, hr, on, runs]

theorem execBootStep_one_done (t : Nat) (one : step = 1) : exec (.bootStep step (.done t)) s = .next (State.advanceBoot 13
    (if (s.pcieBlk 0).up = true ∨ (s.pcieBlk 1).up = true then
      ((s.join s.bootField r.variant t).join (7 - s.bootField) r.variant t).putEnd 1 r.variant 0
    else s.failMandatory 1 r.variant)) := by
  subst one
  simp [exec_bootStep, execBootStep, hr, on, runs]

theorem execBootStep_one_doneOne (t : Nat) (one : step = 1) : exec (.bootStep step (.doneOne t)) s = .next (State.advanceBoot 13
    (if (s.pcieBlk (s.bootField - 3)).up = true then
      ((s.join s.bootField r.variant t).fence (7 - s.bootField)).putEnd 1 r.variant 0
    else s.failMandatory 1 r.variant)) := by
  subst one
  simp [exec_bootStep, execBootStep, hr, on, runs]

theorem execBootStep_one_failed (one : step = 1) :
    exec (.bootStep step .failed) s = .next ((s.failMandatory 1 r.variant).advanceBoot 13) := by
  subst one
  simp [exec_bootStep, execBootStep, hr, on, runs]

theorem execBootStep_join (field : 2 ≤ step) :
    (∀ t, exec (.bootStep step (.done t)) s =
      .next (((s.join (stepField step) r.variant t).putEnd step r.variant 0).advanceBoot 13)) ∧
    exec (.bootStep step .failed) s = .next (((s.putEnd step r.variant 1).fence (stepField step)).advanceBoot 13) ∧
    exec (.bootStep step .noPath) s = .next (((s.putEnd step r.variant 3).fence (stepField step)).advanceBoot 13) := by
  obtain ⟨n, rfl⟩ := Nat.exists_eq_add_of_le' field
  refine ⟨fun t => ?_, ?_, ?_⟩ <;> simp [exec_bootStep, execBootStep, hr, on, runs]

end boot

theorem execBootStep_of_idle {s : State} {step : Nat} (e : StepResult) (idle : s.booting = false ∨ s.stepRuns step = false) :
    exec (.bootStep step e) s = .next s := by
  show Host.Outcome.next _ = _
  congr 1
  split
  · rfl
  · exact if_pos (by simpa using idle)

section image
variable {s : State}

theorem execRcvcmdGo_eq {port : Nat} (there : port < 2) (j : Bool) : exec (.rcvcmdGo port j) s = .next (
    let on (b : PcieBlk) : PcieBlk := { b with busy := true, wait := false }
    if (s.field s.bootField).recovery = true ∧ (s.pcieBlk port).wait = true then
      { (s.updPcie 0 on).updPcie 1 on with rcvPort := port, rcvJclr := j }
    else s) := by
  show Host.Outcome.next _ = _
  simp [State.rcvGo, there]

theorem execImageVerification_of_idle {port : Nat} (idle : port ≠ s.rcvPort ∨ (s.pcieBlk port).busy = false) :
    exec (.imageVerification port) s = .next s :=
  congrArg Host.Outcome.next (if_pos (by simpa using idle))

theorem execImageVerification_of_busy (busy : (s.pcieBlk s.rcvPort).busy = true) : exec (.imageVerification s.rcvPort) s = .next (
    let on (b : PcieBlk) : PcieBlk :=
      { b with busy := false, wait := true, result := verifyResult s.pushedCheck s.svnMin (Config.freeWord s.fresh.1) }
    if firmwareOk s.pushedCheck s.svnMin then
      { s with fwOk := true, fwSvn := s.pushedCheck.svn, flash := some s.pushed,
               journal := if s.rcvJclr then [] else s.journal }.restart true
    else (s.fresh.2.updPcie 0 on).updPcie 1 on) :=
  congrArg Host.Outcome.next (if_neg (by simp [busy]))

/-- The sum of a record is that of its other fields, so the complement of it in its place is never right (17 R415). -/
theorem JRec.torn_not_valid (r : JRec) : JRec.valid { r with crc := ~~~ r.sum } = false :=
  beq_eq_false_iff_ne.2 fun (same : ~~~ r.sum = r.sum) => by simpa using congrArg (·.getLsbD 0) same

theorem tornJournal_of_last {l : List JRec} {r : JRec} (last : l.getLast? = some r) :
    ∃ u, tornJournal l = l.dropLast ++ [u] ∧ u.valid = false :=
  ⟨{ r with crc := ~~~ r.sum }, by simp only [tornJournal, last], r.torn_not_valid⟩

end image

section fields
variable (s : State)

@[simp] theorem State.firePf0_fields (vec : Nat) : (s.firePf0 vec).fields = s.fields := rfl

@[simp] theorem State.pushReport_fields (kind field detail pa len : Nat) : (s.pushReport kind field detail pa len).fields = s.fields := by
  simp [State.pushReport, apply_ite State.fields]

@[simp] theorem State.reportThrottle_fields (field threshold : Nat) : (s.reportThrottle field threshold).fields = s.fields :=
  State.pushReport_fields ..

@[simp] theorem State.pushFree_fields (kind field : Nat) : (s.pushFree kind field).fields = s.fields := State.pushReport_fields ..

@[simp] theorem State.reportChanges_fields (field : Nat) (a b : Field) : (s.reportChanges field a b).fields = s.fields := by
  simp [State.reportChanges, apply_ite State.fields]

theorem State.requestPreempt_fields (asid : Nat) : (s.requestPreempt asid).fields = s.fields := by
  unfold State.requestPreempt
  split
  · rfl
  · simp [apply_ite State.fields]

@[simp] theorem State.preemptField_fields (field : Nat) : (s.preemptField field).fields = s.fields := by
  suffices h : ∀ (l : List Nat) (s : State), (l.foldl State.requestPreempt s).fields = s.fields from h _ s
  intro l
  induction l with
  | nil => exact fun _ => rfl
  | cons a r ih => exact fun s => (ih _).trans (s.requestPreempt_fields a)

theorem State.field_congr {s t : State} (h : t.fields = s.fields) (i : Nat) : t.field i = s.field i := by
  rw [State.field, h, State.field]

/-- A map of the values of a sparse map by their keys, where it leaves what an unlisted key reads as. -/
theorem SMap.get_mapKeyed {α : Type} {d : α} {g : Nat → α → α} (hd : ∀ k, g k d = d) (m : SMap α) (k : Nat) :
    SMap.get d (m.map (fun e => (e.1, g e.1 e.2))) k = g k (SMap.get d m k) := by
  induction m with
  | nil => exact (hd k).symm
  | cons e r ih => by_cases h : e.1 = k <;> simp [SMap.get, h, ih]

/-- Field `i` with each band marked whose path runs through field `f` (10 R278). -/
def Field.markBands (f i : Nat) (x : Field) : Field :=
  { x with band := x.band.map (fun e => if e.2.valid ∧ onPath i e.1 f then (e.1, { e.2 with stale := true }) else e) }

theorem State.staleBands_field (f i : Nat) : (s.staleBands f).field i = (s.field i).markBands f i :=
  SMap.get_mapKeyed (g := Field.markBands f) (fun _ => rfl) s.fields i

/-- A code put in force changes the clock of its field, and of the rest of it the bands alone. -/
theorem State.setCur_field (fi : Nat) (c : BitVec 6) : ∃ b, (s.setCur fi c).field fi = { s.field fi with cur := c, band := b } := by
  unfold State.setCur
  split
  case isTrue same => exact ⟨(s.field fi).band, by rw [← same]⟩
  case isFalse => exact ⟨_, by rw [State.staleBands_field, State.updField_field]; rfl⟩

end fields

section heat
variable (s : State) (fi : Nat)

/-- The throttle state of a field after a step of its region controller (17 R422). -/
def Field.throttled (f : Field) (power : Bool) : Field :=
  { f with jthrot := f.jthrot || f.jHot, lthrot := f.lthrot || f.lHot, powerThrot := power,
           hold := f.hold || (f.cur == 0 && decide (840 ≤ f.tj.toNat)) }

/-- The code of a field after that step: 4 lower while a threshold is reached or the rails draw too much (17 R422). -/
def Field.lowered (f : Field) (power : Bool) : BitVec 6 :=
  if f.jHot = true ∨ f.lHot = true ∨ power = true then BitVec.ofNat 6 (f.cur.toNat - 4) else f.cur

/-- The state after that step, before a field newly held pre-empts its pitches (17 R422). -/
def State.throttle (power : Bool) : State :=
  let f := s.field fi
  let s1 := (s.setField fi (f.throttled power)).reportChanges fi f (f.throttled power)
  if f.jHot ∨ f.lHot ∨ power then s1.setCur fi (BitVec.ofNat 6 (f.cur.toNat - 4)) else s1

theorem execThrottleStep_eq (power : Bool) : exec (.throttleStep fi power) s = .next (
    if ((s.field fi).throttled power).hold = true ∧ !(s.field fi).hold then (s.throttle fi power).preemptField fi
    else s.throttle fi power) := rfl

theorem State.throttle_field (power : Bool) : ∃ b, (s.throttle fi power).field fi =
    { (s.field fi).throttled power with cur := (s.field fi).lowered power, band := b } := by
  have mid := State.field_congr
    (State.reportChanges_fields (s.setField fi ((s.field fi).throttled power)) fi (s.field fi) ((s.field fi).throttled power)) fi
  rw [State.setField_field] at mid
  unfold State.throttle Field.lowered
  simp only
  split
  · obtain ⟨b, hb⟩ := State.setCur_field ((s.setField fi ((s.field fi).throttled power)).reportChanges fi (s.field fi)
      ((s.field fi).throttled power)) fi (BitVec.ofNat 6 ((s.field fi).cur.toNat - 4))
    exact ⟨b, by rw [hb, mid]⟩
  · exact ⟨((s.field fi).throttled power).band, by rw [mid]; rfl⟩

theorem execThrottleStep_field (power : Bool) : ∃ t, exec (.throttleStep fi power) s = .next t ∧
    (t.field fi).cur = (s.field fi).lowered power ∧ (t.field fi).hold = ((s.field fi).throttled power).hold := by
  obtain ⟨b, hb⟩ := s.throttle_field fi power
  refine ⟨_, execThrottleStep_eq s fi power, ?_⟩
  split
  · simp [State.field_congr (State.preemptField_fields _ fi), hb]
  · simp [hb]

/-- A field is newly held at 105 °C with CUR at 0 alone (17 R422). -/
theorem Field.throttled_hold_eq {f : Field} (power : Bool) (other : f.hold = true ∨ f.cur ≠ 0 ∨ f.tj.toNat < 840) :
    (f.throttled power).hold = f.hold := by
  rcases other with h | h | h
  · simp [Field.throttled, h]
  · simp [Field.throttled, show ¬ f.cur = 0#6 from h]
  · simp [Field.throttled, Nat.not_le.2 h]

theorem execThrottleRecovery_of_cool (cool : (s.field fi).cool = true) (free : (s.field fi).hold = false)
    (power : (s.field fi).powerThrot = false) : ∃ t, exec (.throttleRecovery fi) s = .next t ∧
      (t.field fi).cur = BitVec.ofNat 6 (min (s.field fi).clkset.toNat ((s.field fi).cur.toNat + 4)) ∧
      (t.field fi).jthrot = false ∧ (t.field fi).lthrot = false := by
  refine ⟨_, congrArg Host.Outcome.next (if_neg (by simp [cool, free, power])), ?_⟩
  simp only
  obtain ⟨b, hb⟩ := State.setCur_field ((s.setField fi { s.field fi with jthrot := false, lthrot := false }).reportChanges fi (s.field fi)
    { s.field fi with jthrot := false, lthrot := false }) fi
    (BitVec.ofNat 6 (Nat.min (s.field fi).clkset.toNat ((s.field fi).cur.toNat + 4)))
  rw [hb, State.field_congr (State.reportChanges_fields ..), State.setField_field]
  exact ⟨rfl, rfl, rfl⟩

theorem execThrottleRecovery_of_hot (hot : (s.field fi).cool = false ∨ (s.field fi).hold = true ∨ (s.field fi).powerThrot = true) :
    exec (.throttleRecovery fi) s = .next s := congrArg Host.Outcome.next (if_pos (by simpa using hot))

/-- The end of a hold is reported as a passage of 95 °C, and nothing else of the throttle state changes (17 R412, R422). -/
theorem State.reportChanges_of_release {f : Field} (held : f.hold = true) :
    s.reportChanges fi f { f with hold := false } = s.reportThrottle fi 95 := by
  simp [State.reportChanges, held]

theorem execHoldClear_eq : exec (.holdClear fi) s = .next (
    if (s.field fi).hold = true ∧ (s.field fi).tj.toNat ≤ 760 ∧ (s.field fi).tjSince + 1000000 ≤ (s.field fi).time.toNat then
      ((s.setField fi { s.field fi with hold := false }).reportChanges fi (s.field fi) { s.field fi with hold := false }).boothScan
    else s) := rfl

theorem State.setClk_field {code : Nat} (low : code ≤ 44) : ((s.setClk fi code).field fi).clkset = BitVec.ofNat 6 code ∧
    ((s.setClk fi code).field fi).cur = if code < (s.field fi).cur.toNat then BitVec.ofNat 6 code else (s.field fi).cur := by
  rw [State.setClk, if_neg (Nat.not_lt.2 low)]
  simp only
  split
  · obtain ⟨b, hb⟩ := State.setCur_field (s.updField fi (fun f => { f with clkset := BitVec.ofNat 6 code })) fi (BitVec.ofNat 6 code)
    simp [hb]
  · simp

end heat

section obligation

/-- How a step of a boot begins and ends (17 R413 to R416). -/
theorem execBootStep_of_runs (s : State) (step t : Nat) (r : JRec) (hr : latestRec s.journal step = some r) (on : s.booting = true)
    (runs : s.stepRuns step = true) :
    let v := r.variant
    let goes (e : StepResult) (u : State) : Prop := exec (.bootStep step e) s = .next (u.advanceBoot 13)
    (step = 0 → s.romPass = true → goes (.done t) (s.putEnd 0 v 0)) ∧
    (step = 0 → goes .failed (s.failMandatory 0 v)) ∧
    (step = 1 → let up (port : Nat) : Prop := (s.pcieBlk port).up = true
      let own := s.bootField - 3
      (up 0 ∨ up 1 → goes (.done t) (((s.join s.bootField v t).join (7 - s.bootField) v t).putEnd 1 v 0)) ∧
      (¬ up 0 → ¬ up 1 → goes (.done t) (s.failMandatory 1 v)) ∧
      (up own → goes (.doneOne t) (((s.join s.bootField v t).fence (7 - s.bootField)).putEnd 1 v 0)) ∧
      (¬ up own → goes (.doneOne t) (s.failMandatory 1 v)) ∧ goes .failed (s.failMandatory 1 v)) ∧
    (2 ≤ step → goes (.done t) ((s.join (stepField step) v t).putEnd step v 0) ∧
      goes .failed ((s.putEnd step v 1).fence (stepField step)) ∧
      goes .noPath ((s.putEnd step v 3).fence (stepField step))) := by
  intro v goes
  refine ⟨execBootStep_zero_done hr on runs t, execBootStep_zero_failed hr on runs, fun one => ?_, fun field => ?_⟩
  · intro up own
    have both := execBootStep_one_done hr on runs t one
    have mine := execBootStep_one_doneOne hr on runs t one
    refine ⟨fun h => ?_, fun h0 h1 => ?_, fun h => ?_, fun h => ?_, execBootStep_one_failed hr on runs one⟩
    · rwa [if_pos h] at both
    · rwa [if_neg (not_or.2 ⟨h0, h1⟩)] at both
    · rwa [if_pos h] at mine
    · rwa [if_neg h] at mine
  · obtain ⟨done, failed, noPath⟩ := execBootStep_join hr on runs field
    exact ⟨done t, failed, noPath⟩

/-- What the loss of power leaves (17 R415, R418). -/
theorem execPowerLoss_next (s : State) (flashing : Bool) : let image := (s.pcieBlk s.rcvPort).busy
    ∃ t, exec (.powerLoss flashing) s = .next t ∧ t.svnMin = s.svnMin ∧ t.flash = s.flash ∧ t.pitches = [] ∧ t.booted = false ∧
      (flashing = false ∨ image = true → t.journal = s.journal) ∧
      (flashing = true → image = false → t.fwOk = s.fwOk ∧ t.journal = tornJournal s.journal ∧
        ∀ r, s.journal.getLast? = some r → ∃ u, t.journal = s.journal.dropLast ++ [u] ∧ u.valid = false) ∧
      (flashing = true → image = true → t.fwOk = false) := by
  intro image
  refine ⟨_, rfl, rfl, rfl, rfl, rfl, fun kept => if_neg ?_, fun flash idle => ?_, fun flash busy => ?_⟩
  · rcases kept with h | h <;> simp [h, show (s.pcieBlk s.rcvPort).busy = image from rfl]
  · have off : (flashing && (s.pcieBlk s.rcvPort).busy) = false := by simp [show (s.pcieBlk s.rcvPort).busy = false from idle]
    have torn : (if flashing && !(flashing && (s.pcieBlk s.rcvPort).busy) then tornJournal s.journal else s.journal) =
        tornJournal s.journal := if_pos (by rw [off, flash]; rfl)
    refine ⟨?_, torn, fun r last => ?_⟩
    · show (s.fwOk && !(flashing && (s.pcieBlk s.rcvPort).busy)) = _
      simp [off]
    · obtain ⟨u, hu, bad⟩ := tornJournal_of_last last
      exact ⟨u, torn.trans hu, bad⟩
  · show (s.fwOk && !(flashing && (s.pcieBlk s.rcvPort).busy)) = _
    simp [flash, show (s.pcieBlk s.rcvPort).busy = true from busy]

/-- Settles O51: clause by clause, by the rules of the journal's records, of a boot's steps and of a field's throttle state. -/
theorem bootAndHeat : Obligations.BootAndHeat := by
  unfold Obligations.BootAndHeat
  refine ⟨firmwareOk_iff, fun s rom factory => ⟨execBootStart_of_busy rom factory, fun done going rec3 rec4 => ?start⟩,
    fun s step => ⟨State.beginMandatory_of_none, fun r hr bad => ⟨fun last => ?recover, fun first low => ?again⟩,
      fun r hr going ok => ?ended, fun r => State.beginJoin_of_skipped⟩,
    fun s step t r hr on runs => execBootStep_of_runs s step t r hr on runs, fun s step e => execBootStep_of_idle e,
    fun s port j there => ?go, fun s port => execImageVerification_of_idle, fun s busy => execImageVerification_of_busy busy,
    fun c m w keys len arch => verifyResult_of_good keys len arch m w, fun s port i there low high => ?spdm, execPowerLoss_next,
    fun s fi power => ?heat, fun s port fi code => ?clk⟩
  case start =>
    intro fw ok t
    refine congrArg Host.Outcome.next ((if_neg (by simp [done, going, rec3, rec4])).trans ?_)
    have image : (s.flash.map s.imageCheck).getD factory = fw := by
      cases hf : s.flash <;> simp [fw, hf]
    simp only [image]
    rfl
  case recover => rw [State.beginMandatory_of_failed hr bad, if_pos last]
  case again => rw [State.beginMandatory_of_failed hr bad, if_neg (not_or.2 ⟨first, Nat.not_le.2 low⟩)]
  case ended => exact State.beginMandatory_of_ended hr (by simp [going, ok])
  case go =>
    intro waits on
    exact ⟨fun h => by rw [execRcvcmdGo_eq there, if_pos h], fun h => by rw [execRcvcmdGo_eq there, if_neg h]⟩
  case spdm => exact ⟨s.spdmAnswer port i, congrArg Host.Outcome.next (if_pos ⟨there, low, high⟩), rfl, rfl, rfl⟩
  case heat =>
    intro f
    obtain ⟨t, ht, cur, hold⟩ := execThrottleStep_field s fi power
    refine ⟨fun hot other => ⟨t, ht, cur.trans (if_pos hot), hold.trans (Field.throttled_hold_eq power other)⟩,
      fun j l p _ => ⟨t, ht, cur.trans (if_neg ?cold)⟩, fun free low hot => ⟨t, ht, hold.trans ?held⟩,
      execThrottleRecovery_of_cool s fi, execThrottleRecovery_of_hot s fi, fun held cool long => ?clear, fun not => ?kept⟩
    case cold => simp [show (s.field fi).jHot = false from j, show (s.field fi).lHot = false from l, p]
    case held =>
      show (f.hold || (f.cur == 0 && decide (840 ≤ f.tj.toNat))) = true
      simp [low, hot]
    case clear => rw [execHoldClear_eq, if_pos ⟨held, cool, long⟩, State.reportChanges_of_release _ fi held]
    case kept =>
      refine (execHoldClear_eq s fi).trans (congrArg Host.Outcome.next (if_neg ?_))
      rintro ⟨held, cool, long⟩
      rcases not with h | h | h
      · exact absurd held (by simp [show (s.field fi).hold = false from h])
      · exact absurd cool (Nat.not_le.2 h)
      · exact absurd long (Nat.not_le.2 h)
  case clk =>
    refine ⟨fun own high => ?_, fun own low => ⟨_, congrArg Host.Outcome.next (if_pos own), s.setClk_field fi low⟩,
      fun other => congrArg Host.Outcome.next (if_neg (by simp [other]))⟩
    refine congrArg Host.Outcome.next ((if_pos own).trans (if_pos high))

end obligation

end Sys2Proof.Machine
end

section
/-! PROOFS. The lanes of a port (18 R425, R433 to R435): what the operations of memory and of the ring page leave of a port, the targets
of a failover, a port that goes DOWN, and one that trains anew. -/
namespace Sys2Proof.Machine
open Sys2Proof

section port

@[simp] theorem State.updPort_port (s : State) (n : Nat) (f : OptPort → OptPort) : (s.updPort n f).port n = f (s.port n) :=
  SMap.get_ins_self _ s.ports n _

theorem State.port_congr {s t : State} (h : t.ports = s.ports) (n : Nat) : t.port n = s.port n := by
  rw [State.port, h, State.port]

theorem OptPort.lane_congr {p q : OptPort} (h : q.lanes = p.lanes) (l : Nat) : q.lane l = p.lane l := by
  rw [OptPort.lane, h, OptPort.lane]

theorem OptPort.lanesIn_congr {p q : OptPort} (h : q.lanes = p.lanes) (t : LaneSt → Bool) : q.lanesIn t = p.lanesIn t := by
  simp only [OptPort.lanesIn, OptPort.lane_congr h]

theorem OptPort.mem_lanesIn {p : OptPort} {t : LaneSt → Bool} {l : Nat} : l ∈ p.lanesIn t ↔ l < 14 ∧ t (p.lane l) = true := by
  simp [OptPort.lanesIn]

theorem OptPort.lanesIn_nodup (p : OptPort) (t : LaneSt → Bool) : (p.lanesIn t).Nodup := List.nodup_range.filter _

@[simp] theorem OptPort.updLane_lane (p : OptPort) (l : Nat) (f : LaneSt → LaneSt) : (p.updLane l f).lane l = f (p.lane l) :=
  SMap.get_ins_self _ p.lanes l _

theorem OptPort.updLane_lane_ne (p : OptPort) {l k : Nat} (f : LaneSt → LaneSt) (h : k ≠ l) : (p.updLane l f).lane k = p.lane k :=
  SMap.get_ins_ne _ p.lanes l k _ h

/-- A change of several lanes, each changed once. -/
theorem OptPort.foldl_updLane_lane (f : LaneSt → LaneSt) {ls : List Nat} (once : ls.Nodup) (p : OptPort) (k : Nat) :
    (ls.foldl (fun q l => q.updLane l f) p).lane k = if k ∈ ls then f (p.lane k) else p.lane k := by
  induction ls generalizing p with
  | nil => rfl
  | cons a r ih =>
    obtain ⟨new, rest⟩ := List.nodup_cons.1 once
    rw [List.foldl_cons, ih rest]
    by_cases h : k = a
    · subst h; simp [new]
    · simp [h, OptPort.updLane_lane_ne p f h]

/-- A change of the sites of a port leaves its lanes. -/
theorem OptPort.foldl_updSite_lanes (f : Nat → SiteSt → SiteSt) (is : List Nat) (p : OptPort) :
    (is.foldl (fun q i => q.updSite i (f i)) p).lanes = p.lanes := by
  induction is generalizing p with
  | nil => rfl
  | cons a r ih => exact ih (p.updSite a (f a))

/-- A change of the lanes of a port leaves the rest of it. -/
theorem OptPort.foldl_updLane (f : LaneSt → LaneSt) (ls : List Nat) (p : OptPort) :
    ∃ y, ls.foldl (fun q l => q.updLane l f) p = { p with lanes := y } := by
  induction ls generalizing p with
  | nil => exact ⟨p.lanes, rfl⟩
  | cons a r ih => exact (ih (p.updLane a f)).imp fun _ h => h

end port

section memory
variable (s : State)

@[simp] theorem State.assign_ports (pa : Nat) : (s.assign pa).ports = s.ports := by simp [State.assign, apply_ite State.ports]

@[simp] theorem State.setDramByte_ports (k c l q b : Nat) (v : Byte) : (s.setDramByte k c l q b v).ports = s.ports := by
  simp [State.setDramByte, apply_ite State.ports]

@[simp] theorem State.countDegraded_ports (k c l q : Nat) : (s.countDegraded k c l q).ports = s.ports := by
  simp [State.countDegraded, apply_ite State.ports]

@[simp] theorem State.writeTile_ports (core off : Nat) (v : Byte) : (s.writeTile core off v).ports = s.ports := by
  unfold State.writeTile; (repeat' split) <;> simp

@[simp] theorem State.setByte_ports (pa : Nat) (v : Byte) : (s.setByte pa v).ports = s.ports := by
  unfold State.setByte; split <;> simp

@[simp] theorem State.setBytes_ports (pa : Nat) (vs : List Byte) : (s.setBytes pa vs).ports = s.ports := by
  induction vs generalizing s pa with
  | nil => rfl
  | cons v r ih => exact (ih ..).trans (by simp)

@[simp] theorem State.pushReport_ports (kind field detail pa len : Nat) : (s.pushReport kind field detail pa len).ports = s.ports := by
  simp [State.pushReport, apply_ite State.ports]

@[simp] theorem State.reportPoison_ports (k : Nat) (pa : Option Nat) (len : Nat) : (s.reportPoison k pa len).ports = s.ports := by
  unfold State.reportPoison; (repeat' split) <;> simp [State.fresh]

@[simp] theorem State.markLine_ports (pa : Nat) (poison clean : Bool) : (s.markLine pa poison clean).ports = s.ports := by
  unfold State.markLine; split
  · simp [apply_ite State.ports]
  · split <;> simp [apply_ite State.ports]
  · rfl

@[simp] theorem State.noteAccess_ports (pa : Nat) : (s.noteAccess pa).ports = s.ports := by
  unfold State.noteAccess; split <;> simp

@[simp] theorem State.writeLine_ports (pa : Nat) (vs : List Byte) (poison : Bool) : (s.writeLine pa vs poison).ports = s.ports := by
  simp [State.writeLine]

/-- A write of memory leaves the optical ports. -/
@[simp] theorem State.writeRange_ports (fuel pa : Nat) (vs : List Byte) (poison : Bool) :
    (s.writeRange fuel pa vs poison).ports = s.ports := by
  induction fuel generalizing s pa vs with
  | zero => rfl
  | succ fuel ih =>
    unfold State.writeRange; split
    · rfl
    · exact (ih ..).trans (by simp)

end memory

section answer
variable (s : State) (n : Nat)

/-- A port but for the answers that it owes its ring page (18 R439). -/
def OptPort.SameButAnswer (p q : OptPort) : Prop := ∃ a r, q = { p with asked := a, resp := r }

theorem OptPort.SameButAnswer.refl (p : OptPort) : p.SameButAnswer p := ⟨p.asked, p.resp, rfl⟩

theorem OptPort.SameButAnswer.trans {p q r : OptPort} (h : p.SameButAnswer q) (g : q.SameButAnswer r) : p.SameButAnswer r := by
  obtain ⟨_, _, rfl⟩ := h
  obtain ⟨a, b, rfl⟩ := g
  exact ⟨a, b, rfl⟩

theorem State.putResp_port : (s.port n).SameButAnswer ((s.putResp n).port n) := by
  have dropped : (s.port n).SameButAnswer ((s.updPort n (fun p => { p with resp := none })).port n) :=
    ⟨(s.port n).asked, none, State.updPort_port ..⟩
  unfold State.putResp
  simp only
  split
  · exact .refl _
  · split
    · exact dropped
    · split
      · exact .refl _
      · rwa [State.port_congr ((State.writeRange_ports ..).trans (State.writeRange_ports ..))]

theorem State.lmResp_port (code cseq : Nat) : (s.port n).SameButAnswer ((s.lmResp n code cseq).port n) := by
  refine .trans ?_ (State.putResp_port _ n)
  exact ⟨(s.port n).asked, some (code, cseq), State.updPort_port ..⟩

theorem State.answerAsked_port (l code : Nat) : (s.port n).SameButAnswer ((s.answerAsked n l code).port n) := by
  unfold State.answerAsked
  split
  · exact .refl _
  · split
    · refine .trans ?_ (State.lmResp_port _ n _ _)
      exact ⟨none, (s.port n).resp, State.updPort_port ..⟩
    · exact .refl _

theorem State.answerAsked_of_none {s : State} {n : Nat} (free : (s.port n).asked = none) (l code : Nat) : s.answerAsked n l code = s := by
  simp only [State.answerAsked, free]

theorem State.answerAsked_of_asked {s : State} {n l c : Nat} (asked : (s.port n).asked = some (l, c)) (code : Nat) :
    s.answerAsked n l code = (s.updPort n (fun p => { p with asked := none })).lmResp n code c := by
  simp [State.answerAsked, asked]

/-- The state after a port that goes DOWN has answered the request of its ring page whose move has not ended (18 R439). -/
def State.answerDown : State := match (s.port n).asked with | some (l, _) => s.answerAsked n l 2 | none => s

theorem State.answerDown_port : (s.port n).SameButAnswer ((s.answerDown n).port n) := by
  unfold State.answerDown
  split
  · exact s.answerAsked_port n _ 2
  · exact .refl _

/-- A port that is DOWN, with what it counts of discarded frames (18 R435). -/
def OptPort.downed (p : OptPort) (d : Discard) (now : Nat) : OptPort :=
  { (List.range 14).foldl (fun q l => q.updLane l LaneSt.clear) p with
      st := 0, downs := if p.downs = 0xFFFF then p.downs else p.downs + 1, linkDown := true, egress := [], again := [],
      sent := [], lcms := [], half := none, flits := [], freed := [], ackDue := false, sched := Sched.init, disc := d, downAt := now }

theorem State.goDown_eq : s.goDown n =
    (((s.answerDown n).pdrop n ((s.port n).tokens + (s.port n).unconsumed.2)).linkLost n).updPort n
      (fun p => p.downed (s.port n).unconsumed.1 (s.portNow n)) := rfl

theorem OptPort.downed_lane (p : OptPort) (d : Discard) (now : Nat) {l : Nat} (h : l < 14) : (p.downed d now).lane l = (p.lane l).clear :=
  (OptPort.foldl_updLane_lane LaneSt.clear List.nodup_range p l).trans (if_pos (List.mem_range.2 h))

theorem OptPort.downed_hmode (p : OptPort) (d : Discard) (now : Nat) : (p.downed d now).hmode = p.hmode := by
  obtain ⟨y, hy⟩ := OptPort.foldl_updLane LaneSt.clear (List.range 14) p
  show OptPort.hmode (List.foldl _ p _) = _
  rw [hy]

/-- A port that goes DOWN keeps its configuration, and each lane but what it holds (18 R435). -/
theorem State.goDown_port : ∃ p : OptPort, (p.lanes = (s.port n).lanes ∧ p.hmode = (s.port n).hmode) ∧
    (s.goDown n).port n = p.downed (s.port n).unconsumed.1 (s.portNow n) := by
  obtain ⟨a, r, h⟩ := s.answerDown_port n
  refine ⟨((s.answerDown n).pdrop n ((s.port n).tokens + (s.port n).unconsumed.2)).port n, ?_, State.updPort_port ..⟩
  rw [State.pdrop, State.updPort_port, h]
  exact ⟨rfl, rfl⟩

theorem State.goDown_lane {l : Nat} (h : l < 14) : ((s.goDown n).port n).lane l = ((s.port n).lane l).clear := by
  obtain ⟨p, ⟨lanes, _⟩, hp⟩ := s.goDown_port n
  rw [hp, OptPort.downed_lane _ _ _ h, OptPort.lane_congr lanes]

theorem State.goDown_hmode : ((s.goDown n).port n).hmode = (s.port n).hmode := by
  obtain ⟨p, ⟨_, hmode⟩, hp⟩ := s.goDown_port n
  rw [hp, OptPort.downed_hmode, hmode]

theorem State.goDown_down : ((s.goDown n).port n).st = 0 ∧ ((s.goDown n).port n).linkDown = true ∧ ((s.goDown n).port n).egress = [] := by
  obtain ⟨p, _, hp⟩ := s.goDown_port n
  rw [hp]
  exact ⟨rfl, rfl, rfl⟩

end answer

section target
variable {p : OptPort} {l : Nat}

theorem OptPort.target_of_spare {n : Nat} (spare : p.spareSite l (p.lane l).wl.toNat = some n) :
    p.target l true = some ((p.lane l).wl.toNat, n) := by
  simp [OptPort.target, spare]

variable (ring : Bool) (away : ring = true → p.spareSite l (p.lane l).wl.toNat = none)
include away

/-- Without a spare site on its own wavelength a lane takes the first free spare wavelength (18 R434). -/
theorem OptPort.target_of_no_spare : p.target l ring = ([14, 15].find? p.wlFree).bind (fun w => (p.siteFor l w).map (fun n => (w, n))) := by
  have none : (if ring then p.spareSite l (p.lane l).wl.toNat else none) = none := by
    cases ring
    · rfl
    · exact away rfl
  simp only [OptPort.target, none]
  cases [14, 15].find? p.wlFree <;> rfl

end target

section failover
variable (s : State) (n l : Nat) (ring : Bool)

/-- The state in which a lane looks for a target: the site of a ring that has failed is BAD (18 R434). -/
def State.faulted : State :=
  if ring then s.updPort n (fun p => p.updSite (p.lane l).site.toNat (fun y => { y with bad := true })) else s

theorem State.failLane_of_none (none : ((s.faulted n l ring).port n).target l ring = none) :
    s.failLane n l ring = (s.faulted n l ring).retireLane n l := by
  unfold State.failLane
  simp only
  rw [show (if ring = true then _ else _) = s.faulted n l ring from rfl, none]

theorem State.failLane_of_some {wl site : Nat} (some : ((s.faulted n l ring).port n).target l ring = some (wl, site)) :
    let peer := decide (wl ≠ (((s.faulted n l ring).port n).lane l).wl.toNat)
    s.failLane n l ring = ((s.faulted n l ring).updPort n (fun p =>
      let q := p.startMove l wl site peer
      if peer then { q with lcms := q.lcms ++ [Lcm.mk 1 l wl 0] } else q)).flushPort n := by
  unfold State.failLane
  simp only
  rw [show (if ring = true then _ else _) = s.faulted n l ring from rfl, some]

end failover

section lane
variable {s : State} {n l : Nat} (there : l < 14)
include there

theorem exec_laneTuneDone (mon : Nat) : exec (.laneTuneDone n l mon) s = .next (
    let x := (s.port n).lane l
    let tuned (site : BitVec 4) : State := s.updPort n (fun p => p.updSite site.toNat (fun y => y.read p.lockth (s.portNow n) mon))
    if x.st = 1 then
      (if (s.port n).lockth.toNat ≤ min 4095 mon then (tuned x.site).updPort n (fun p => p.updLane l (fun x => { x with st := 2 }))
       else if x.since + 50000 ≤ s.portNow n then (tuned x.site).failLane n l true
       else tuned x.site)
    else if x.st = 4 ∧ x.await = false then
      (if (s.port n).lockth.toNat ≤ min 4095 mon then (tuned x.moveSite).land n l else tuned x.moveSite)
    else s) := by
  refine congrArg Host.Outcome.next ((if_neg (Nat.not_le.2 there)).trans ?_)
  simp only [decide_eq_true_eq, Bool.not_eq_true']

theorem exec_movenak : exec (.movenak n l) s = .next (
    let x := (s.port n).lane l
    if x.st = 4 ∧ x.await = true then
      (if (s.port n).asked.any (fun a => a.1 == l) then
        ((s.answerAsked n l 5).updPort n (fun p =>
          ((p.letGo l).updLane l (fun x => { x with st := 3, await := false })).updSite x.site.toNat (fun y =>
            if x.moveSite = x.site then { y with code := y.codeFor x.wl.toNat } else y))).flushPort n
       else s.retireLane n l)
    else s) := by
  show Host.Outcome.next (State.moveNak s n l) = _
  simp only [State.moveNak, there, true_and]

section move
variable {wl : Nat} (active : ((s.port n).lane l).st = 3) (free : (s.port n).asked = none)
include active free

/-- The peer's MOVE of an ACTIVE lane, with no request of the ring page in the way (18 R434): it is made to the site that the port picks. -/
theorem exec_move_of_site {site : Nat} (ok : (s.port n).wlFree wl = true ∨ ((s.port n).lane l).wl.toNat = wl)
    (pick : (s.port n).siteFor l wl = some site) : exec (.move n l wl) s =
      .next ((s.updPort n (fun p => let q := p.startMove l wl site false; { q with lcms := q.lcms ++ [Lcm.mk 2 l wl 0] })).flushPort n) := by
  show Host.Outcome.next (State.moveIn s n l wl) = _
  simp [State.moveIn, Nat.not_le.2 there, active, State.answerAsked_of_none free, ok, pick]

theorem exec_move_of_none (bad : (s.port n).siteFor l wl = none ∨ (s.port n).wlFree wl = false ∧ ((s.port n).lane l).wl.toNat ≠ wl) :
    exec (.move n l wl) s =
      .next ((s.updPort n (fun p => { p with lcms := p.lcms ++ [Lcm.mk 3 l wl 0] })).retireLane n l) := by
  show Host.Outcome.next (State.moveIn s n l wl) = _
  rcases bad with h | ⟨h, g⟩
  · simp [State.moveIn, Nat.not_le.2 there, active, State.answerAsked_of_none free, h]
  · simp [State.moveIn, Nat.not_le.2 there, active, State.answerAsked_of_none free, h, g]

end move

theorem exec_restripe (q : Nat) : exec (.restripe n l q) s = .next ((
    if ((s.port n).lane l).st ≠ 0 ∧ ((s.port n).lane l).st ≠ 5 then s.retireLane n l else s).restripeOut n (BitVec.ofNat 12 q)) := by
  show Host.Outcome.next (State.restripe s n l _) = _
  simp only [State.restripe, there, true_and]

end lane

section trouble
variable (s : State) (n : Nat)

/-- A site has lost lock for as long as a ring fault takes (18 R434, R439). -/
def State.ringLost (site : Nat) : Prop :=
  ((s.port n).sitest site).lock = false ∧
    ((s.port n).sitest site).lostAt + (if (s.port n).hmode then 1000 * (s.port n).holdoff.toNat else 1000) ≤ s.portNow n

/-- The ACTIVE lanes that a site carries. -/
def OptPort.carried (p : OptPort) (site : Nat) : List Nat := p.lanesIn (fun x => x.site.toNat == site && x.st == 3)

theorem exec_ringFault_of_locked {site : Nat} (no : ¬ s.ringLost n site) : exec (.ringFault n site) s = .next s := by
  refine congrArg Host.Outcome.next (if_pos ?_)
  rw [State.ringLost, not_and_or, Bool.not_eq_false, Nat.not_le] at no
  exact no

theorem exec_ringFault_of_lost {site : Nat} (lost : s.ringLost n site) :
    (((s.poll n).port n).carried site = [] → exec (.ringFault n site) s = .next (s.poll n)) ∧
    ∀ l r, ((s.poll n).port n).carried site = l :: r → exec (.ringFault n site) s = .next ((s.poll n).failLane n l true) := by
  have no : ¬ (((s.port n).sitest site).lock = true ∨ s.portNow n <
      ((s.port n).sitest site).lostAt + (if (s.port n).hmode then 1000 * (s.port n).holdoff.toNat else 1000)) := by
    simpa [State.ringLost] using lost
  constructor
  · intro none
    rw [OptPort.carried] at none
    refine congrArg Host.Outcome.next ((if_neg no).trans ?_)
    simp only [none]
  · intro l r some
    rw [OptPort.carried] at some
    refine congrArg Host.Outcome.next ((if_neg no).trans ?_)
    simp only [some]

/-- A port whose lanes that are not RETIRED train anew (18 R435). -/
def OptPort.retrained (p : OptPort) (now : Nat) : OptPort :=
  let q := (p.lanesIn (fun x => x.st != 5)).foldl (fun q l => q.updLane l (fun x => { x with st := 1, rxseq := 0, since := now })) p
  { (List.range 16).foldl (fun q i => q.updSite i (fun x => { x with held := false })) q with st := 1, txs := 0, rxc := 0 }

theorem OptPort.retrained_lane (p : OptPort) (now : Nat) {l : Nat} (h : l < 14) : (p.retrained now).lane l =
    if (p.lane l).st = 5 then p.lane l else { p.lane l with st := 1, rxseq := 0, since := now } := by
  have lanes : (p.retrained now).lanes = ((p.lanesIn (fun x => x.st != 5)).foldl
      (fun q l => q.updLane l (fun x => { x with st := 1, rxseq := 0, since := now })) p).lanes := by
    simp only [OptPort.retrained, OptPort.foldl_updSite_lanes (fun _ x => { x with held := false })]
  rw [OptPort.lane_congr lanes, OptPort.foldl_updLane_lane _ (p.lanesIn_nodup _)]
  by_cases retired : (p.lane l).st = 5 <;> simp [OptPort.mem_lanesIn, h, retired]

/-- The tokens counted of discarded frames leave the lanes of a port. -/
theorem State.settle_port : ∃ d c, (s.settle n).port n = { s.port n with pdrop := c, disc := d } :=
  ⟨Discard.init, satAdd (s.port n).pdrop (s.port n).disc.rest, by simp [State.settle, State.pdrop]⟩

theorem exec_portRetrain : exec (.portRetrain n) s = .next (
    if (s.port n).en = true ∧ (s.port n).st = 0 ∧ (s.port n).downAt + 1000000 ≤ s.portNow n then
      (s.settle n).updPort n (fun p => p.retrained (s.portNow n))
    else s) := rfl

end trouble

section obligation

theorem State.failLane_cases (s : State) (n l : Nat) (ring : Bool) :
    let s1 := if ring then s.updPort n (fun p => p.updSite (p.lane l).site.toNat (fun y => { y with bad := true })) else s
    let p := s1.port n
    (p.target l ring = none → s.failLane n l ring = s1.retireLane n l) ∧
    (∀ site, p.target l ring = some ((p.lane l).wl.toNat, site) →
      s.failLane n l ring = (s1.updPort n (fun q => q.startMove l (p.lane l).wl.toNat site false)).flushPort n) ∧
    (∀ wl site, p.target l ring = some (wl, site) → wl ≠ (p.lane l).wl.toNat →
      s.failLane n l ring = (s1.updPort n (fun p => let q := p.startMove l wl site true
        { q with lcms := q.lcms ++ [Lcm.mk 1 l wl 0] })).flushPort n) := by
  intro s1 p
  refine ⟨s.failLane_of_none n l ring, fun site some => ?_, fun wl site some other => ?_⟩
  · refine (s.failLane_of_some n l ring some).trans ?_
    simp only [show ((s.faulted n l ring).port n) = p from rfl, ne_eq, not_true_eq_false, decide_false]
    rfl
  · refine (s.failLane_of_some n l ring some).trans ?_
    simp only [show ((s.faulted n l ring).port n) = p from rfl, ne_eq, other, not_false_eq_true, decide_true]
    rfl

/-- What a lane that is tuned comes to (18 R433, R434). -/
theorem exec_laneTuneDone_cases {s : State} {n l : Nat} (there : l < 14) (mon : Nat) :
    let x := (s.port n).lane l
    let locks : Prop := (s.port n).lockth.toNat ≤ min 4095 mon
    let late : Prop := x.since + 50000 ≤ s.portNow n
    let tuned (site : BitVec 4) : State := s.updPort n (fun p => p.updSite site.toNat (fun y => y.read p.lockth (s.portNow n) mon))
    let done (t : State) : Prop := exec (.laneTuneDone n l mon) s = .next t
    (x.st = 1 → (locks → done ((tuned x.site).updPort n (fun p => p.updLane l (fun x => { x with st := 2 })))) ∧
      (¬ locks → late → done ((tuned x.site).failLane n l true)) ∧ (¬ locks → ¬ late → done (tuned x.site))) ∧
    (x.st = 4 → x.await = false → (locks → done ((tuned x.moveSite).land n l)) ∧ (¬ locks → done (tuned x.moveSite))) ∧
    (x.st ≠ 1 → x.st ≠ 4 ∨ x.await = true → done s) := by
  intro x locks late tuned done
  have run := exec_laneTuneDone (s := s) (n := n) there mon
  refine ⟨fun tune => ⟨fun h => ?_, fun h g => ?_, fun h g => ?_⟩, fun move free => ⟨fun h => ?_, fun h => ?_⟩, fun idle rest => ?_⟩
  · exact run.trans (congrArg Host.Outcome.next ((if_pos tune).trans (if_pos h)))
  · exact run.trans (congrArg Host.Outcome.next ((if_pos tune).trans ((if_neg h).trans (if_pos g))))
  · exact run.trans (congrArg Host.Outcome.next ((if_pos tune).trans ((if_neg h).trans (if_neg g))))
  · have other : ¬ x.st = 1 := by rw [move]; decide
    exact run.trans (congrArg Host.Outcome.next ((if_neg other).trans ((if_pos ⟨move, free⟩).trans (if_pos h))))
  · have other : ¬ x.st = 1 := by rw [move]; decide
    exact run.trans (congrArg Host.Outcome.next ((if_neg other).trans ((if_pos ⟨move, free⟩).trans (if_neg h))))
  · refine run.trans (congrArg Host.Outcome.next ((if_neg idle).trans (if_neg ?_)))
    rintro ⟨move, free⟩
    rcases rest with h | h
    · exact h move
    · exact Bool.false_ne_true (free.symm.trans h)

/-- What the peer's MOVENAK comes to (18 R434, R439). -/
theorem exec_movenak_cases {s : State} {n l : Nat} (there : l < 14) : let x := (s.port n).lane l
    (x.st = 4 → x.await = true → (∀ c, (s.port n).asked ≠ some (l, c)) → exec (.movenak n l) s = .next (s.retireLane n l)) ∧
    (x.st = 4 → x.await = true → ∀ c, (s.port n).asked = some (l, c) →
      exec (.movenak n l) s = .next ((((s.updPort n (fun p => { p with asked := none })).lmResp n 5 c).updPort n (fun p =>
        ((p.letGo l).updLane l (fun x => { x with st := 3, await := false })).updSite x.site.toNat (fun y =>
          if x.moveSite = x.site then { y with code := y.codeFor x.wl.toNat } else y))).flushPort n)) ∧
    (x.st ≠ 4 ∨ x.await = false → exec (.movenak n l) s = .next s) := by
  intro x
  have run := exec_movenak (s := s) (n := n) there
  refine ⟨fun move waits other => ?_, fun move waits c asked => ?_, fun idle => ?_⟩
  · refine run.trans (congrArg Host.Outcome.next ((if_pos ⟨move, waits⟩).trans (if_neg ?_)))
    cases asked : (s.port n).asked with
    | none => simp
    | some a =>
      have no : a.1 ≠ l := fun h => other a.2 (by rw [asked, ← h])
      simp [no]
  · refine run.trans (congrArg Host.Outcome.next ((if_pos ⟨move, waits⟩).trans ((if_pos (by simp [asked])).trans ?_)))
    rw [State.answerAsked_of_asked asked]
  · refine run.trans (congrArg Host.Outcome.next (if_neg ?_))
    rintro ⟨move, waits⟩
    rcases idle with h | h
    · exact h move
    · exact Bool.false_ne_true (h.symm.trans waits)

/-- Settles O52: by the targets of a failover, the rules of a lane's states, and what a port that goes DOWN or trains anew leaves of its
lanes. -/
theorem opticalLanes : Obligations.OpticalLanes := by
  unfold Obligations.OpticalLanes
  refine ⟨fun p l => ?target, State.failLane_cases, fun s n l there => ?lane, fun s n site => ?ring, fun s n => ?port⟩
  case target =>
    intro wl
    refine ⟨fun n => OptPort.target_of_spare, fun none => ⟨?_, fun away => ?_⟩, fun w n free pick => ⟨?_, fun away => ?_⟩⟩
    · simp [OptPort.target_of_no_spare (p := p) (l := l) false (by simp), none]
    · simp [OptPort.target_of_no_spare true (fun _ => away), none]
    · simp [OptPort.target_of_no_spare (p := p) (l := l) false (by simp), free, pick]
    · simp [OptPort.target_of_no_spare true (fun _ => away), free, pick]
  case lane =>
    intro x
    obtain ⟨nak, nakAsked, nakIdle⟩ := exec_movenak_cases (s := s) (n := n) there
    refine ⟨exec_laneTuneDone_cases there, fun train => congrArg Host.Outcome.next (if_pos ⟨there, train⟩),
      fun other => congrArg Host.Outcome.next (if_neg fun h => other h.2),
      fun active bad => congrArg Host.Outcome.next (if_pos ⟨there, active, bad⟩),
      fun good => congrArg Host.Outcome.next (if_neg ?_), fun move => congrArg Host.Outcome.next (if_pos ⟨there, move⟩),
      fun other => congrArg Host.Outcome.next (if_neg fun h => other h.2), nak, nakAsked, nakIdle,
      fun wl site active free ok pick => exec_move_of_site there active free ok pick,
      fun wl active free bad => exec_move_of_none there active free bad, fun q on live => ?_, fun q out => ?_⟩
    · rintro ⟨_, active, bad⟩
      rcases good with h | h
      · exact h active
      · exact Bool.false_ne_true (h.symm.trans bad)
    · rw [exec_restripe there, if_pos ⟨on, live⟩]
    · rw [exec_restripe there, if_neg (fun h => out.elim h.1 h.2)]
  case ring =>
    intro y due t at_
    exact ⟨exec_ringFault_of_locked s n, fun lost => (exec_ringFault_of_lost s n lost).1,
      fun l r lost => (exec_ringFault_of_lost s n lost).2 l r⟩
  case port =>
    refine ⟨fun down => congrArg Host.Outcome.next (if_pos down), fun up => congrArg Host.Outcome.next (if_neg up), ?_,
      fun wait => ?_, fun en down long => ⟨_, by rw [exec_portRetrain, if_pos ⟨en, down, long⟩], ?_⟩⟩
    · intro q
      obtain ⟨st, link, egress⟩ := s.goDown_down n
      refine ⟨st, link, egress, fun l there => ?_⟩
      rw [show q = (s.goDown n).port n from rfl, State.goDown_lane s n there]
      exact ⟨rfl, rfl, rfl⟩
    · rw [exec_portRetrain, if_neg]
      rintro ⟨en, down, long⟩
      rcases wait with h | h | h
      · exact Bool.false_ne_true (h.symm.trans en)
      · exact h down
      · exact Nat.not_le.2 h long
    · obtain ⟨d, c, settled⟩ := s.settle_port n
      rw [State.updPort_port, settled]
      exact ⟨rfl, rfl, rfl, fun l there => OptPort.retrained_lane _ _ there⟩

end obligation

end Sys2Proof.Machine
end

section
/-! PROOFS. Frames, ring pages and lasers (18 R427 to R440): the mesh flits of a token do not give it back where writes happen before
it. -/
namespace Sys2Proof.Machine
open Sys2Proof

namespace HappensBefore

/-- The fibre carries the bits of a token alone (02 R53): a token read from mesh flits has no write that happens before it. -/
theorem flitsTok_hb (fs : List (BitVec 512)) : (flitsTok fs).hb = [] := rfl

/-- A token without lanes, after one store (14 R348). -/
def token : Token := { (default : Token) with hb := [default] }

end HappensBefore

/-- Refutes O53: a token that leaves after a store of its sender is not the token of its mesh flits, which has nothing happen before
it. -/
theorem not_opticalLinks : ¬ Obligations.OpticalLinks := by
  unfold Obligations.OpticalLinks
  rintro ⟨_, flits, _⟩
  obtain ⟨same, _⟩ := flits HappensBefore.token (by decide)
  have hb := (HappensBefore.flitsTok_hb (tokFlits HappensBefore.token)).symm.trans (congrArg Token.hb same)
  exact absurd hb (by decide)

end Sys2Proof.Machine
end

section
/-! PROOFS. The wave buffer (14 R348 to R357; 15 R379): a stream that is complete makes its rows of its own bytes, as every member of
its number does of its own. -/
namespace Sys2Proof.Machine
open Sys2Proof

namespace SharedNumber

/-- A part of a stream that has its bytes. -/
def part (data : List Byte) : Part := { va := 0, pa := 0, len := 4, data := data, poison := false, stage := 4 }

/-- One row of one lane, in token mode (15 R380). -/
def rows : StreamP :=
  { tile := 0, toff := 0, roww := 1, rows := 1, stride := 0, token := true, eosl := 0, eosen := false, snode := 0, spath := false }

/-- A released stream in token mode with its bytes. -/
def stream (data : List Byte) : MemAcc :=
  { (default : MemAcc) with kind := .strm, strm := some rows, ra := .none, parts := [part data], released := true, bound := false,
                            acq := false }

/-- A logical core whose wave buffer holds two streams of one number. -/
def core : LCore := { (default : LCore) with mem := [stream [1, 0, 0, 0], stream [2, 0, 0, 0]] }

/-- A running pitch of that core. -/
def state : State := { State.reset with pitches := [(0, { (default : Pitch) with st := .running, lcores := [(0, core)] })] }

/-- The bytes of the parts in a core's wave buffer. -/
def held (s : State) : Option (List (List (List Byte))) := (s.lc? 0 0).map (fun x => x.mem.map (fun m => m.parts.map (·.data)))

end SharedNumber


/-- Refutes O40: a stream in token mode that is complete gives each member of its number the rows of that member's own bytes, where the
statement gives each the rows of the stream. -/
theorem not_waveBuffer : ¬ Obligations.WaveBuffer := by
  unfold Obligations.WaveBuffer
  intro h
  obtain ⟨_, _, _, _, complete⟩ := h SharedNumber.state 0 0 0 SharedNumber.core (SharedNumber.stream [1, 0, 0, 0]) rfl rfl
  obtain ⟨bind, _⟩ := complete SharedNumber.rows rfl rfl rfl rfl (by decide)
  have next := (bind rfl (.inl rfl)).2.2 rfl
  have own : exec (.streamComplete 0 0 0) SharedNumber.state = .next _ := rfl
  have same := congrArg SharedNumber.held (Host.Outcome.next.inj (own.symm.trans next))
  exact absurd same (by decide)

end Sys2Proof.Machine
end

section
/-! PROOFS. Memory at its homes (14 R348 to R367; 15 R382, R383, R391): the values of the atomics, what a request does at its home, its
resends, and what a host port completes. -/
namespace Sys2Proof.Machine
open Sys2Proof

section atomics
variable (o v y : Word)

theorem atomicNew_add : atomicNew 0x280 .i32 o.toNat v.toNat y.toNat = some (o + v).toNat := by
  rw [BitVec.toNat_add]; rfl

theorem atomicNew_min {t : ETyp} (narrow : is64 t = false) : atomicNew 0x282 t o.toNat v.toNat y.toNat =
    some (if valOf (isSigned t) v < valOf (isSigned t) o then v else o).toNat := by
  show some (if intVal t v.toNat < intVal t o.toNat then v.toNat else o.toNat) = _
  rw [intVal_toNat narrow, intVal_toNat narrow, apply_ite BitVec.toNat]

theorem atomicNew_max {t : ETyp} (narrow : is64 t = false) : atomicNew 0x283 t o.toNat v.toNat y.toNat =
    some (if valOf (isSigned t) o < valOf (isSigned t) v then v else o).toNat := by
  show some (if intVal t o.toNat < intVal t v.toNat then v.toNat else o.toNat) = _
  rw [intVal_toNat narrow, intVal_toNat narrow, apply_ite BitVec.toNat]

theorem valOf_true_lt (a b : Word) : valOf true a < valOf true b ↔ a.slt b = true := by
  simp [valOf, BitVec.slt_iff_toInt_lt]

theorem valOf_false_lt (a b : Word) : valOf false a < valOf false b ↔ a.ult b = true := by
  simp [valOf, BitVec.ult_iff_lt, BitVec.lt_def]

theorem atomicNew_swapIf : atomicNew 0x288 .n32 o.toNat v.toNat y.toNat = if o = v then some y.toNat else none := by
  show (if o.toNat = v.toNat then some y.toNat else none) = _
  simp only [BitVec.toNat_inj]

theorem atomicNew_wrap : atomicNew 0x289 .n32 o.toNat v.toNat y.toNat = some (if v.ule o then 0 else (o + 1).toNat) := by
  show some (if v.toNat ≤ o.toNat then 0 else o.toNat + 1) = _
  by_cases h : v.toNat ≤ o.toNat
  · simp [BitVec.ule, h]
  · rw [show (o + 1).toNat = o.toNat + 1 by bv_omega]
    simp [BitVec.ule, h]

end atomics

section home
variable {s : State} {k : Nat} {r : HReq}

/-- A read at its home, by the member that it serves (14 R348, R353, R355, R360). -/
theorem State.homeRead_of_mem {x : LCore} {m : MemAcc} (hx : s.reqMem r = some (x, m)) : s.homeRead k r =
    if (s.loadWaits r || (decide (2 ≤ r.scope) && s.pending x.cluster r.pa r.len) ||
        s.hbWaits r.asid r.lc x r.scope m.hb r.pa r.len) = true then s
    else if isHostPa r.pa = true then s.toHost k
    else ({ s with reqs := listDrop s.reqs k } : State).readHome r x m := by
  simp [State.homeRead, hx, or_assoc]

theorem State.readHome_wide (wide : 2 ≤ r.scope) (x : LCore) (m : MemAcc) : s.readHome r x m =
    (s.readNote r.pa).bindPart r x m ((s.readNote r.pa).bytesAt r.pa r.len) ((s.readNote r.pa).poisonIn r.pa r.len) :=
  if_neg (Nat.not_lt.2 wide)

theorem State.readHome_near (near : r.scope < 2) (x : LCore) (m : MemAcc) : s.readHome r x m =
    let u := s.readNote r.pa
    let v := u.readThrough r.asid r.lc x r.pa r.len
    let seen := (u.seenPends r.asid r.lc x).filter (fun w => overlaps w.pa w.data.length r.pa r.len)
    (u.learn r.asid r.lc m false (seen.map (·.id))).bindPart r x m v.1 v.2 := if_pos near

theorem State.homeWrite_of_dup (dup : s.isDup r = true) : s.homeWrite k r =
    (({ s with reqs := listDrop s.reqs k } : State).noteFloor r).countDup r := if_pos dup

/-- A write at its home that is no duplicate (14 R355, R360). -/
theorem State.homeWrite_of_new (new : s.isDup r = false) : s.homeWrite k r =
    let u := (({ s with reqs := listDrop s.reqs k } : State).writeLine r.pa r.data r.poison).markDone r
    if (s.writeWaits k r || s.hbHolds (s.reqHb r) r.pa) = true then s
    else if isHostPa r.pa = true then { u with reqs := u.reqs ++ [{ r with atHost := true }] }.finishPart r r.data r.poison 3
    else u.finishPart r r.data r.poison 4 := by
  simp [State.homeWrite, new]

theorem State.homeAtomic_of_dup (dup : s.isDup r = true) : s.homeAtomic k r =
    (({ s with reqs := listDrop s.reqs k } : State).noteFloor r).countDup r := if_pos dup

/-- An atomic at its home that is no duplicate (14 R357, R360; 15 R383). -/
theorem State.homeAtomic_of_new (new : s.isDup r = false) {x : LCore} {m : MemAcc} (hx : s.reqMem r = some (x, m)) :
    s.homeAtomic k r =
    let rest : State := { s with reqs := listDrop s.reqs k }
    if (s.pending x.cluster r.pa r.len || s.loadWaits r || s.hbHolds m.hb r.pa) = true then s
    else if isHostPa r.pa = true then
      if r.opc = 0x280 ∨ r.opc = 0x287 ∨ r.opc = 0x288 then (s.toHost k).markDone r else rest.endMem r.asid r.lc m .accessFault 0x63
    else (rest.markDone r).doAtomic r x m := by
  simp [State.homeAtomic, new, hx, or_assoc]

section mcast
variable {j : EJob} (hj : s.mcastJob r = some j)
include hj

theorem State.homeMcast_of_wait (waits : (s.pending r.chain r.pa r.len || s.hbHolds j.fire.hb r.pa) = true) : s.homeMcast k r = s := by
  simp only [State.homeMcast, hj]
  exact if_pos (by simpa using waits)

variable (free : (s.pending r.chain r.pa r.len || s.hbHolds j.fire.hb r.pa) = false)
include free

theorem State.homeMcast_of_merge {q : HReq} (merge : s.mergesWith r = some q) : s.homeMcast k r =
    let r' := { r with data := q.data, linePz := q.linePz, poison := r.poison || q.linePz, atHost := true, read := q.read }
    { s with reqs := listSet s.reqs k r' } := by
  simp only [State.homeMcast, hj, merge]
  exact if_neg (by simpa using free)

theorem State.homeMcast_of_alone (alone : s.mergesWith r = none) : s.homeMcast k r =
    let u := s.readNote r.pa
    let pz := u.poisonIn r.pa r.len
    let r' := { r with data := u.bytesAt r.pa r.len, linePz := pz, poison := r.poison || pz, atHost := true, read := u.freeCtr }
    { u with freeCtr := u.freeCtr + 1, reqs := listSet u.reqs k r' } := by
  simp only [State.homeMcast, hj, alone]
  exact if_neg (by simpa using free)

end mcast

variable (hr : s.reqs[k]? = some r)
include hr

theorem exec_homeAccess_of_wait (owned : s.isOwned r.pa r.len = true) (new : s.isDup r = false) :
    exec (.homeAccess k) s = .next s := by
  show Host.Outcome.next _ = _
  simp [hr, owned, new]

/-- A request that no owned line holds is made at its home, as its kind says. -/
theorem exec_homeAccess_of_free (away : r.atHost = false)
    (free : s.isOwned r.pa r.len = false ∨ (r.kind = .write ∨ r.kind = .atomic) ∧ s.isDup r = true) :
    (r.kind = .read → exec (.homeAccess k) s = .next (s.homeRead k r)) ∧
    (r.kind = .write → exec (.homeAccess k) s = .next (s.homeWrite k r)) ∧
    (r.kind = .atomic → exec (.homeAccess k) s = .next (s.homeAtomic k r)) ∧
    (r.kind = .mcast → exec (.homeAccess k) s = .next (s.homeMcast k r)) := by
  have go : ¬ (r.atHost = true ∨ (s.isOwned r.pa r.len = true ∧ (!((r.kind == .write || r.kind == .atomic) && s.isDup r)) = true)) := by
    rcases free with h | ⟨h | h, g⟩
    · simp [away, h]
    · simp [away, h, g]
    · simp [away, h, g]
  refine ⟨fun kind => ?_, fun kind => ?_, fun kind => ?_, fun kind => ?_⟩ <;>
    (refine (show exec (.homeAccess k) s = .next _ from rfl).trans (congrArg Host.Outcome.next ?_)
     simp only [hr, if_neg go]
     simp only [kind])

section resend
variable (kind : r.kind = .write ∨ r.kind = .atomic) (away : r.atHost = false) (new : s.isDup r = false)
include kind away new

theorem exec_writeResend_in_time (early : s.srcTime r < r.sent + 100000) : exec (.writeResend k) s = .next
    (let floor := (s.unacked r.asid r.lc r.chain (s.homeOf r.pa)).foldl (fun f q => if seqBelow q.seq f then q.seq else f) r.seq
     { s with reqs := s.reqs.take (k + 1) ++ [{ r with floor := floor }] ++ s.reqs.drop (k + 1) }) := by
  refine (show exec (.writeResend k) s = .next _ from rfl).trans (congrArg Host.Outcome.next ?_)
  simp only [hr]
  exact if_pos ⟨kind, by simp [away], by simp [new], early⟩

theorem exec_writeResendExpiry_late (late : r.sent + 100000 ≤ s.srcTime r) {x : LCore} {m : MemAcc} (hx : s.lc? r.asid r.lc = some x)
    (hm : x.mem.find? (fun m => m.id == r.id) = some m) : exec (.writeResendExpiry k) s = .next
    (({ s with reqs := s.reqs.filter (fun q => !(q.asid == r.asid && q.lc == r.lc && q.id == r.id)) } : State).endMem r.asid r.lc m
      .accessFault 0x5A) := by
  refine (show exec (.writeResendExpiry k) s = .next _ from rfl).trans (congrArg Host.Outcome.next ?_)
  simp only [hr, hx, hm]
  exact if_pos ⟨kind, by simp [away], by simp [new], late⟩

end resend

/-- What stands at a host port completes as its kind says (14 R348; 15 R383). -/
theorem exec_hostPortCompletion (there : r.atHost = true) (ok : Bool) :
    let rest : State := { s with reqs := listDrop s.reqs k }
    (r.kind = .write → ok = true → exec (.hostPortCompletion k ok) s = .next (rest.finishPart r r.data r.poison 4)) ∧
    ∀ x m, s.reqMem r = some (x, m) →
      (r.kind = .read → ok = true → exec (.hostPortCompletion k ok) s = .next (rest.readHome r x m)) ∧
      (r.kind = .atomic → exec (.hostPortCompletion k ok) s = .next
        (if ok = true then rest.doAtomic r x m else rest.endMem r.asid r.lc m .accessFault 0x63)) := by
  intro rest
  refine ⟨fun kind good => ?_, fun x m hx => ⟨fun kind good => ?_, fun kind => ?_⟩⟩
  · refine (show exec (.hostPortCompletion k ok) s = .next _ from rfl).trans (congrArg Host.Outcome.next ?_)
    simp [hr, there, kind, good, rest]
  · refine (show exec (.hostPortCompletion k ok) s = .next _ from rfl).trans (congrArg Host.Outcome.next ?_)
    simp [hr, there, kind, good, hx, rest]
  · refine (show exec (.hostPortCompletion k ok) s = .next _ from rfl).trans (congrArg Host.Outcome.next ?_)
    simp [hr, there, kind, hx, rest]

end home

section obligation

/-- The values that the atomics leave, by their operations on words (15 R382). -/
theorem atomicNew_values (o v y : BitVec 32) :
    let a (opc : BitVec 10) (t : ETyp) : Option Nat := atomicNew opc t o.toNat v.toNat y.toNat
    a 0x280 .i32 = some (o + v).toNat ∧ a 0x281 .f32 = some (f32.add .rne o.toNat v.toNat).1 ∧
    a 0x282 .i32 = some (if v.slt o then v else o).toNat ∧ a 0x282 .n32 = some (if v.ult o then v else o).toNat ∧
    a 0x283 .i32 = some (if o.slt v then v else o).toNat ∧ a 0x283 .n32 = some (if o.ult v then v else o).toNat ∧
    a 0x284 .n32 = some (o &&& v).toNat ∧ a 0x285 .n32 = some (o ||| v).toNat ∧ a 0x286 .n32 = some (o ^^^ v).toNat ∧
    a 0x287 .n32 = some v.toNat ∧ a 0x288 .n32 = (if o = v then some y.toNat else none) ∧
    a 0x289 .n32 = some (if v.ule o then 0 else (o + 1).toNat) := by
  intro a
  refine ⟨atomicNew_add o v y, rfl, ?_, ?_, ?_, ?_, ?_, ?_, ?_, rfl, atomicNew_swapIf o v y, atomicNew_wrap o v y⟩
  · exact (atomicNew_min o v y rfl).trans (by simp only [← valOf_true_lt]; rfl)
  · exact (atomicNew_min o v y rfl).trans (by simp only [← valOf_false_lt]; rfl)
  · exact (atomicNew_max o v y rfl).trans (by simp only [← valOf_true_lt]; rfl)
  · exact (atomicNew_max o v y rfl).trans (by simp only [← valOf_false_lt]; rfl)
  · rw [BitVec.toNat_and]; rfl
  · rw [BitVec.toNat_or]; rfl
  · rw [BitVec.toNat_xor]; rfl

/-- Settles O41: by the operations of the atomics, and by what a request does at its home as its kind says. -/
theorem homes : Obligations.Homes := by
  unfold Obligations.Homes
  refine ⟨atomicNew_values, fun s k r hr => ?_⟩
  intro rest owned home
  refine ⟨fun away held new => exec_homeAccess_of_wait hr held new, ?read, fun away kind dup => ?dup, ?write, ?atomic, ?mcast,
    fun kind away new => ⟨exec_writeResend_in_time hr kind away new,
      fun x m late hx hm => exec_writeResendExpiry_late hr kind away new late hx hm⟩, fun there => ⟨fun x m hx => ?port, fun kind => ?flush⟩⟩
  case read =>
    intro x m hx away free kind waits u
    have run := ((exec_homeAccess_of_free hr away (.inl free)).1 kind).trans (congrArg Host.Outcome.next (State.homeRead_of_mem hx))
    refine ⟨fun w => ?_, fun w host => ?_, fun w host wide => ?_, fun w host near => ?_⟩
    · exact run.trans (congrArg Host.Outcome.next (if_pos w))
    · exact run.trans (congrArg Host.Outcome.next ((if_neg (Bool.eq_false_iff.1 w)).trans (if_pos host)))
    · exact run.trans (congrArg Host.Outcome.next ((if_neg (Bool.eq_false_iff.1 w)).trans
        ((if_neg (Bool.eq_false_iff.1 host)).trans (State.readHome_wide wide x m))))
    · exact run.trans (congrArg Host.Outcome.next ((if_neg (Bool.eq_false_iff.1 w)).trans
        ((if_neg (Bool.eq_false_iff.1 host)).trans (State.readHome_near near x m))))
  case dup =>
    obtain ⟨_, write, atomic, _⟩ := exec_homeAccess_of_free hr away (.inr ⟨kind, dup⟩)
    rcases kind with kind | kind
    · exact (write kind).trans (congrArg Host.Outcome.next (State.homeWrite_of_dup dup))
    · exact (atomic kind).trans (congrArg Host.Outcome.next (State.homeAtomic_of_dup dup))
  case write =>
    intro away free kind new waits u
    have run := ((exec_homeAccess_of_free hr away (.inl free)).2.1 kind).trans (congrArg Host.Outcome.next (State.homeWrite_of_new new))
    refine ⟨fun w => ?_, fun w host => ?_, fun w host => ?_⟩
    · exact run.trans (congrArg Host.Outcome.next (if_pos w))
    · exact run.trans (congrArg Host.Outcome.next ((if_neg (Bool.eq_false_iff.1 w)).trans (if_neg (Bool.eq_false_iff.1 host))))
    · exact run.trans (congrArg Host.Outcome.next ((if_neg (Bool.eq_false_iff.1 w)).trans (if_pos host)))
  case atomic =>
    intro x m hx away free kind new waits
    have run := ((exec_homeAccess_of_free hr away (.inl free)).2.2.1 kind).trans
      (congrArg Host.Outcome.next (State.homeAtomic_of_new new hx))
    refine ⟨fun w => ?_, fun w host => ?_, fun w host op => ?_, fun w host op => ?_⟩
    · exact run.trans (congrArg Host.Outcome.next (if_pos w))
    · exact run.trans (congrArg Host.Outcome.next ((if_neg (Bool.eq_false_iff.1 w)).trans (if_neg (Bool.eq_false_iff.1 host))))
    · exact run.trans (congrArg Host.Outcome.next ((if_neg (Bool.eq_false_iff.1 w)).trans ((if_pos host).trans (if_pos op))))
    · exact run.trans (congrArg Host.Outcome.next ((if_neg (Bool.eq_false_iff.1 w)).trans ((if_pos host).trans
        (if_neg (fun h => h.elim op.1 (fun h => h.elim op.2.1 op.2.2))))))
  case mcast =>
    intro j hj away free kind waits
    have run := (exec_homeAccess_of_free hr away (.inl free)).2.2.2 kind
    exact ⟨fun w => run.trans (congrArg Host.Outcome.next (State.homeMcast_of_wait hj w)),
      fun q w merge => run.trans (congrArg Host.Outcome.next (State.homeMcast_of_merge hj w merge)),
      fun w alone => run.trans (congrArg Host.Outcome.next (State.homeMcast_of_alone hj w alone))⟩
  case port =>
    obtain ⟨_, good⟩ := exec_hostPortCompletion hr there true
    obtain ⟨_, bad⟩ := exec_hostPortCompletion hr there false
    exact ⟨fun kind => (good x m hx).1 kind rfl, (good x m hx).2, (bad x m hx).2⟩
  case flush => exact (exec_hostPortCompletion hr there true).1 kind rfl

end obligation

end Sys2Proof.Machine
end

section
/-! PROOFS. Retirements, the remap table and measurements (01 R8, R21; 10 R265 to R270, R277, R278; 13 R334; 16 R400): what leaves the
remap tables alone, the entry that a retirement or a rebuild writes, and each step by its equation. -/
namespace Sys2Proof.Machine
open Sys2Proof

section remapKept
variable (s : State) (i : Nat)

/-- A fold of steps that each leave a part of the state alone leaves it alone. -/
theorem foldl_leaves {α β : Type} (get : State → β) {g : State → α → State} (hg : ∀ s a, get (g s a) = get s) (l : List α) (s : State) :
    get (l.foldl g s) = get s := by
  induction l generalizing s with
  | nil => rfl
  | cons a r ih => exact (ih _).trans (hg s a)

theorem State.updField_remap {f : Field → Field} (hf : ∀ x, (f x).remap = x.remap) (k : Nat) :
    ((s.updField k f).field i).remap = (s.field i).remap := by
  by_cases h : i = k
  · rw [h, State.updField_field, hf]
  · rw [State.updField_field_ne _ _ _ _ h]

theorem State.setOvr_remap (p : Pitch) (asid lc : Nat) (w : DWord) :
    ((s.setOvr p asid lc w).field i).remap = (s.field i).remap := by
  refine s.updField_remap i (fun f => ?_) _
  cases f.ovr.find? (fun e => e.2.getLsbD 0 && decide (e.2.toNat / 4 % 4096 = asid) && decide (e.2.toNat / 16384 % 131072 = lc)) with
  | some e => rfl
  | none => cases (List.range 256).find? (fun i => !(SMap.get 0 f.ovr i).getLsbD 0) <;> rfl

theorem State.spillArrived_fields (asid lc : Nat) (l : List Flight) : (s.spillArrived asid lc l).fields = s.fields := by
  induction l generalizing s with
  | nil => rfl
  | cons g r ih =>
    unfold State.spillArrived
    split
    · rfl
    · split
      · rw [ih, State.updLC_fields]
      · rw [State.updLC_fields]

theorem State.blockCore_remap (asid : Nat) (p : Pitch) (lc pos : Nat) :
    ((s.blockCore asid p lc pos).field i).remap = (s.field i).remap := by
  unfold State.blockCore
  split
  · rfl
  · rw [State.field_congr (State.spillArrived_fields ..), State.setOvr_remap]
    exact congrArg Field.remap (State.field_congr (State.updLC_fields ..) i)

theorem State.retireIn_remap (cx cy asid : Nat) (p : Pitch) :
    ((s.retireIn cx cy asid p).field i).remap = (s.field i).remap := by
  have asked : ((s.requestPreempt asid).field i).remap = (s.field i).remap :=
    congrArg Field.remap (State.field_congr (s.requestPreempt_fields asid) i)
  unfold State.retireIn
  split
  · rfl
  · dsimp only
    split
    · exact asked
    · split
      · exact asked
      · exact (foldl_leaves (fun s => (s.field i).remap) (fun s (h : Nat × Nat) => s.blockCore_remap i asid p h.1 h.2) _ _).trans
          (foldl_leaves (fun s => (s.field i).remap) (fun s (e : Nat × LCore) => s.setOvr_remap i p asid e.1 _) _ _)

theorem State.staleBands_remap (f : Nat) : ((s.staleBands f).field i).remap = (s.field i).remap := by
  rw [State.staleBands_field]; rfl

end remapKept

section written

/-- An entry that is not as after reset is read where it was written. -/
theorem State.setRemap_remapAt (s : State) (f e : Nat) {r : Remap} (used : r ≠ Remap.init) :
    ((s.setRemap f e r).field f).remapAt e = r := by
  simp [State.setRemap, Field.remapAt, SMap.put, used]

theorem remapWord_used (kind gen : Nat) (h : kind < 4) :
    (remapWord kind gen).getLsbD 2 = true ∧ (remapWord kind gen).getLsbD 3 = true ∧ (remapWord kind gen).toNat % 4 = kind := by
  have small : kind + 4 + 8 + 65536 * (gen % 65536) < 2 ^ 64 := by omega
  refine ⟨?_, ?_, ?_⟩ <;> simp [remapWord, BitVec.getLsbD, Nat.testBit, Nat.shiftRight_eq_div_pow] <;> omega

/-- An entry in use is not as after reset. -/
theorem mkRemap_ne_init (kind gen : Nat) (h : kind < 4) (w1 w2 w3 : DWord) : mkRemap (remapWord kind gen) w1 w2 w3 ≠ Remap.init := by
  intro same
  have bit := (remapWord_used kind gen h).1
  rw [show remapWord kind gen = 0 from congrArg Remap.w0 same] at bit
  exact absurd bit (by decide)

/-- The word of a RETIRE has no bit beside those of its core and its CAUSE (10 Table 7). -/
theorem retireWord_masked (cx cy cause : Nat) (hc : cause ≤ 4) (hx : cx < 256) (hy : cy < 256) :
    BitVec.ofNat 64 (cx + 256 * cy + 65536 * (cause % 8)) &&& remapMask 0 1 = BitVec.ofNat 64 (cx + 256 * cy + 65536 * cause) := by
  rw [Nat.mod_eq_of_lt (by omega : cause < 8)]
  apply BitVec.eq_of_toNat_eq
  have mask : (remapMask 0 1).toNat = 2 ^ 19 - 1 := rfl
  rw [BitVec.toNat_and, mask, Nat.and_two_pow_sub_one_eq_mod, BitVec.toNat_ofNat]
  omega

end written
section retirement
variable {s : State} {cx cy cause : Nat}

theorem State.retireCore_of_dead (dead : s.deadCore cx cy = true) : s.retireCore cx cy cause = s := if_pos (.inl dead)

/-- A RETIRE stands in the lowest free entry; what becomes of the pitches changes no remap table (10 R265, R269). -/
theorem State.retireCore_remapAt (hx : cx < 256) (hy : cy < 256) (alive : s.deadCore cx cy = false) {e : Nat}
    (free : (s.field (fieldOfCore cx cy)).freeRemap = some e) :
    ∃ gen w2, ((s.retireCore cx cy cause).field (fieldOfCore cx cy)).remapAt e =
      mkRemap (remapWord 0 gen) (BitVec.ofNat 64 (cx + 256 * cy + 65536 * (cause % 8))) w2 0 := by
  have live : ¬ (s.deadCore cx cy = true ∨ 256 ≤ cx ∨ 256 ≤ cy) := by simp [alive, hx, hy]
  have kept (u : State) (f : Nat) :
      (((u.pitches.foldl (fun s p => s.retireIn cx cy p.1 p.2) u).staleBands f).pushFree 4 f |>.field f).remap = (u.field f).remap :=
    (congrArg Field.remap (State.field_congr (State.pushFree_fields ..) f)).trans
      ((State.staleBands_remap ..).trans (foldl_leaves (fun s => (s.field f).remap) (fun s (p : Nat × Pitch) => s.retireIn_remap f cx cy p.1 p.2) _ u))
  refine ⟨?_, ?_, ?entry⟩
  case entry =>
    simp only [State.retireCore, if_neg live, free, Option.isNone_some, Bool.false_eq_true, if_false, State.writeRemap]
    rw [Field.remapAt, kept]
    exact State.setRemap_remapAt s _ e (mkRemap_ne_init 0 _ (by decide) _ _ _)

end retirement

section rebuild
variable {s : State}

/-- With no launch waiting, a scan of the Booth changes no field. -/
theorem State.boothScan_fields (idle : s.waiting = []) : s.boothScan.fields = s.fields := by
  have rest (u : State) (h : u.waiting = []) : u.boothPreempt = u := by
    unfold State.boothPreempt State.ranked; rw [h]; rfl
  have still : s.endRoom.waiting = [] := by unfold State.endRoom; split <;> exact idle
  rw [State.boothScan, State.ranked, idle]
  show s.endRoom.boothPreempt.fields = _
  rw [rest _ still]
  unfold State.endRoom
  split <;> rfl

/-- A rebuilt entry stands where it was; the quarantine that it lifts and a scan of an empty waiting table change no remap table (10
R268). -/
theorem exec_remapRebuildComplete {fi e : Nat} {w : List DWord} (lost : ((s.field fi).remapAt e).w0.getLsbD 10 = true)
    (used : (w.getD 0 0).getLsbD 2 = true) (idle : s.waiting = []) :
    ∃ t, exec (.remapRebuildComplete fi e w) s = .next t ∧ (t.field fi).remapAt e =
      mkRemap (remapWord ((w.getD 0 0).toNat % 4) (((s.field fi).remapAt e).gen + 1)) (w.getD 1 0) (w.getD 2 0) (w.getD 3 0) := by
  generalize new : mkRemap (remapWord ((w.getD 0 0).toNat % 4) (((s.field fi).remapAt e).gen + 1)) (w.getD 1 0) (w.getD 2 0)
    (w.getD 3 0) = r
  have inUse : r ≠ Remap.init := new ▸ mkRemap_ne_init _ _ (Nat.mod_lt _ (by decide)) _ _ _
  let seen (u : State) : SMap Remap × List Waiting := ((u.field fi).remap, u.waiting)
  have lifted (still : List Nat) (u : State) (k : Nat) : seen (if still.contains k then u
      else u.updField (fieldOfCluster k) (fun f => { f with quar := f.quar.filter (· ≠ clusterInField k) })) = seen u := by
    split
    · rfl
    · refine Prod.ext (u.updField_remap fi ?_ _) rfl
      exact fun _ => rfl
  have staled (u : State) (b : Prop) [Decidable b] : seen (if b then u.staleBands fi else u) = seen u := by
    split
    · exact Prod.ext (u.staleBands_remap fi fi) rfl
    · rfl
  refine ⟨_, rfl, ?_⟩
  simp only [lost, used, Bool.not_true, Bool.false_eq_true, if_false, if_true, new]
  obtain ⟨table, waiting⟩ := Prod.mk.inj ((foldl_leaves seen (lifted _) ((s.field fi).remapAt e).clusters _).trans
    (staled (s.setRemap fi e r) (((s.field fi).remapAt e).kind ≤ 1)))
  rw [Field.remapAt, State.field_congr (State.boothScan_fields (waiting.trans idle)), table]
  exact s.setRemap_remapAt fi e inUse

end rebuild

section link
variable {s : State} {cx cy dir : Nat}

/-- A link goes behind a detour where the router that it leads to lies on the wafer and has none yet (13 R334). -/
theorem State.retireLink_of_free {e : Nat} (hx : (linkTo cx cy dir).1 < 256) (hy : (linkTo cx cy dir).2 < 256)
    (other : linkTo cx cy dir ≠ (cx, cy)) (new : ∀ d ∈ s.detours, d.router ≠ linkTo cx cy dir)
    (free : (s.field (fieldOfCore (linkTo cx cy dir).1 (linkTo cx cy dir).2)).freeRemap = some e) :
    let r := linkTo cx cy dir
    let w := Detour.words { router := r, way := wayRound r }
    s.retireLink cx cy dir = s.installDetour (fieldOfCore r.1 r.2) e w.1 w.2 := by
  have none : s.detours.any (fun d => d.router == linkTo cx cy dir) = false :=
    List.any_eq_false.2 fun d hd => by simpa using new d hd
  simp only [State.retireLink, free]
  exact if_pos ⟨hx, hy, other, by rw [none]; rfl⟩

end link

section scrub
variable {s : State} {fi e : Nat} {reads : CopyReads}

theorem exec_remapScrub (h : e < 256) : exec (.remapScrub fi e reads) s = .next (s.scrubEntry fi e reads) :=
  congrArg Host.Outcome.next (if_neg (by omega))

/-- Where no two copies agree, and no pitch stands on the clusters concerned, no launch ends (10 R268). -/
theorem State.scrubEntry_of_lost (lost : copyMajority (((s.field fi).remapAt e).reads reads) = none)
    (clear : ∀ p ∈ s.pitches, ¬ (p.2.placed = true ∧ ∃ k ∈ p.2.rect.clusters, k ∈ ((s.field fi).remapAt e).clusters)) :
    let r := (s.field fi).remapAt e
    let x := r.reads reads
    let w0 := withCopies r.w0 x.a.state.toNat x.b.state.toNat x.c.state.toNat true
    s.scrubEntry fi e reads =
      (s.setRemap fi e { r with w0 := w0, copies := [x.a.words, x.b.words, x.c.words] }).quarantine r.clusters := by
  have none : s.pitches.filter (fun p => p.2.placed && p.2.rect.clusters.any (fun k => ((s.field fi).remapAt e).clusters.contains k)) = [] :=
    List.filter_eq_nil_iff.2 fun p hp => by simpa using clear p hp
  simp only [State.scrubEntry, lost, none]
  rfl

end scrub

section write
variable {s : State} {fi e : Nat} {w : List DWord}

/-- A DETOUR with 1 to 4 waypoints is installed in a free entry (10 R266). -/
theorem exec_remapEntryWrite_of_install (h : e < 256) (used : (w.getD 0 0).getLsbD 2 = true) (kind : (w.getD 0 0).toNat % 4 = 1)
    (free : ((s.field fi).remapAt e).w0.getLsbD 2 = false) (lo : 1 ≤ (w.getD 1 0).toNat / 65536 % 8)
    (hi : (w.getD 1 0).toNat / 65536 % 8 ≤ 4) :
    exec (.remapEntryWrite fi e w) s = .next (s.installDetour fi e (w.getD 1 0) (w.getD 2 0)) :=
  congrArg Host.Outcome.next ((if_neg (by omega)).trans ((if_pos ⟨used, kind, by rw [free]; rfl⟩).trans (if_pos ⟨lo, hi⟩)))

/-- A DETOUR is removed once no path between two endpoints enters its dead router (10 R269). -/
theorem exec_remapEntryWrite_of_remove (h : e < 256) (unused : (w.getD 0 0).getLsbD 2 = false)
    (used : ((s.field fi).remapAt e).w0.getLsbD 2 = true) (kind : ((s.field fi).remapAt e).kind = 1) :
    exec (.remapEntryWrite fi e w) s = .next (
      let r := (s.field fi).remapAt e
      if s.detourIdle (detourOf r.w1 r.w2) = true then (s.setRemap fi e r.cleared).staleBands fi else s) := by
  refine congrArg Host.Outcome.next ((if_neg (by omega)).trans ((if_neg (fun g => Bool.noConfusion (unused.symm.trans g.1))).trans ?_))
  exact if_congr ⟨fun ⟨_, _, _, idle⟩ => idle, fun idle => ⟨by rw [unused]; rfl, used, kind, idle⟩⟩ rfl rfl

end write

section obligation

/-- Settles O45: each step by its equation; what a retirement makes of the pitches leaves the entry that it wrote. -/
theorem repairs : Obligations.Repairs := by
  unfold Obligations.Repairs
  refine ⟨?retire, ?link, ?residue, ?rebind, ?scrub, ?write, ?band, ?offset⟩
  case retire =>
    intro s cx cy cause lo hi hx hy f
    have run : exec (.coreRetirement cx cy cause) s = .next (s.retireCore cx cy cause) := congrArg Host.Outcome.next (if_pos ⟨lo, hi⟩)
    refine ⟨fun dead => run.trans (congrArg Host.Outcome.next (State.retireCore_of_dead dead)), fun e alive free => ⟨_, run, ?_⟩⟩
    obtain ⟨gen, w2, entry⟩ := State.retireCore_remapAt (cause := cause) hx hy alive free
    obtain ⟨used, installed, kind⟩ := remapWord_used 0 gen (by decide)
    rw [entry]
    refine ⟨?_, kind, used, installed, rfl⟩
    show BitVec.ofNat 64 _ &&& remapMask ((remapWord 0 gen).toNat % 4) 1 = _
    rw [kind, retireWord_masked cx cy cause hi hx hy]
  case link =>
    intro s cx cy dir link run now u r w
    refine ⟨fun few => congrArg Host.Outcome.next (if_neg (fun h => few.elim (· h.1) (· h.2))), ?_⟩
    intro e two three hx hy other new free
    exact congrArg Host.Outcome.next ((if_pos ⟨two, three⟩).trans (State.retireLink_of_free hx hy other new free))
  case residue =>
    exact fun s cx cy k => ⟨rfl, rfl, rfl, fun h => congrArg Host.Outcome.next (if_pos ⟨rfl, h⟩)⟩
  case rebind =>
    intro s asid lc p x h hp hx bound runs
    have step : exec (.rebindComplete asid lc) s = execRebindComplete asid lc s := rfl
    refine ⟨fun busy => ?_, fun u quiet evicted => ?_⟩
    · simp [step, execRebindComplete, hp, hx, bound, busy]
    · simp [step, execRebindComplete, hp, hx, bound, runs, quiet, evicted]
  case scrub =>
    intro s fi e reads h r x
    refine ⟨fun w agree => ?_, fun lost clear => ?_⟩
    · refine (exec_remapScrub h).trans (congrArg Host.Outcome.next ?_)
      simp only [State.scrubEntry, show copyMajority (((s.field fi).remapAt e).reads reads) = some w from agree]
      rfl
    · exact (exec_remapScrub h).trans (congrArg Host.Outcome.next (State.scrubEntry_of_lost lost clear))
  case write =>
    intro s fi e w h r w0 d ds done free gone put
    refine ⟨fun sound => ?_, fun lost used idle => exec_remapRebuildComplete lost used idle, fun used kind unused lo hi => ?_,
      fun unused used kind => ?_⟩
    · exact congrArg Host.Outcome.next (if_pos (by rw [show ((s.field fi).remapAt e).w0.getLsbD 10 = false from sound]; rfl))
    · refine (exec_remapEntryWrite_of_install h used kind unused lo hi).trans (congrArg Host.Outcome.next ?_)
      exact if_congr (by simp [free]; rfl) rfl rfl
    · have run := exec_remapEntryWrite_of_remove h unused used kind
      exact ⟨fun idle => run.trans (congrArg Host.Outcome.next (if_pos idle)),
        fun busy => run.trans (congrArg Host.Outcome.next (if_neg (by rw [show s.detourIdle _ = false from busy]; decide)))⟩
  case band =>
    exact fun s fi g rtt0 rtt1 hf hg joined other => congrArg Host.Outcome.next (if_pos ⟨hf, hg, joined, other⟩)
  case offset =>
    exact fun s fi g t1 t2 t3 ne hg joined other order now before after =>
      congrArg Host.Outcome.next (if_pos ⟨ne, hg, joined, other, order, now, before, after⟩)

end obligation

end Sys2Proof.Machine
end

section
/-! PROOFS. What the own operation of a record's firing changes of the state (01 R14): its pitch, the queues of ready firings, the tokens,
traps and commands that it sends, and what they bear on; never memory, a field, another pitch, or the device beyond. -/
namespace Sys2Proof.Machine
open Sys2Proof

/-- A state without what the own operation of a record's firing may change. -/
def State.offCore (s : State) : State :=
  { s with pitches := [], clusters := [], ready := [], held := [], cur := none, flight := [], traps := [], cmds := [], mapReqs := [] }

/-- A state that differs from another in nothing but what a firing's own operation may change, in a pitch `a` whose launch and event
count stay. -/
structure State.Within (a : Nat) (s t : State) : Prop where
  off : t.offCore = s.offCore
  others : ∀ b, b ≠ a → t.pitch? b = s.pitch? b
  launch : ∀ p, s.pitch? a = some p → ∃ q, t.pitch? a = some q ∧ q.launch = p.launch ∧ q.evWritten = p.evWritten

namespace State.Within
variable {a : Nat} {s t u : State}

theorem refl (s : State) : s.Within a s := ⟨rfl, fun _ _ => rfl, fun p hp => ⟨p, hp, rfl, rfl⟩⟩

theorem trans (h : s.Within a t) (g : t.Within a u) : s.Within a u := by
  refine ⟨g.off.trans h.off, fun b hb => (g.others b hb).trans (h.others b hb), fun p hp => ?_⟩
  obtain ⟨q, hq, launch, written⟩ := h.launch p hp
  obtain ⟨r, hr, launch', written'⟩ := g.launch q hq
  exact ⟨r, hr, launch'.trans launch, written'.trans written⟩

/-- A change that leaves the pitches alone. -/
theorem of_pitches (off : t.offCore = s.offCore) (same : t.pitches = s.pitches) : s.Within a t := by
  have look (b : Nat) : t.pitch? b = s.pitch? b := by rw [State.pitch?, same, State.pitch?]
  exact ⟨off, fun b _ => look b, fun p hp => ⟨p, (look a).trans hp, rfl, rfl⟩⟩

theorem setPitch {p q : Pitch} (hp : s.pitch? a = some p) (launch : q.launch = p.launch) (written : q.evWritten = p.evWritten) :
    s.Within a (s.setPitch a q) :=
  ⟨rfl, fun b hb => s.setPitch_pitch?_ne a b q hb, fun r hr => by
    cases hp.symm.trans hr
    exact ⟨q, s.setPitch_pitch? a q, launch, written⟩⟩

theorem updPitch (s : State) {f : Pitch → Pitch} (hf : ∀ p, (f p).launch = p.launch ∧ (f p).evWritten = p.evWritten) :
    s.Within a (s.updPitch a f) := by
  unfold State.updPitch
  split
  next => exact .refl s
  next p hp => exact .setPitch hp (hf p).1 (hf p).2

theorem updLC (s : State) (l : Nat) (f : LCore → LCore) : s.Within a (s.updLC a l f) := by
  unfold State.updLC
  split
  next => exact .refl s
  next p hp =>
    split
    · exact .refl s
    · exact .setPitch hp rfl rfl

theorem ite {p : Prop} [Decidable p] (ht : s.Within a t) (hu : s.Within a u) : s.Within a (if p then t else u) := by
  split
  · exact ht
  · exact hu

theorem foldl {α : Type} {g : State → α → State} (hg : ∀ (s : State) x, s.Within a (g s x)) (l : List α) (s : State) : s.Within a (l.foldl g s) := by
  induction l generalizing s with
  | nil => exact .refl s
  | cons x r ih => exact (hg s x).trans (ih (g s x))

end State.Within

section queues
variable {a : Nat} (s : State)

theorem State.requeue_within (f : Firing) : s.Within a (s.requeue f) := by
  unfold State.requeue
  split
  · exact .refl s
  · exact .ite (.of_pitches rfl rfl) (.of_pitches rfl rfl)

theorem State.queueReady_within (f : Firing) : s.Within a (s.queueReady f) := by
  unfold State.queueReady
  split
  · exact .refl s
  · exact .ite (.of_pitches rfl rfl) (.of_pitches rfl rfl)

theorem State.enterReady_within (f : Firing) : s.Within f.asid (s.enterReady f) := (State.Within.updLC ..).trans (State.queueReady_within ..)

theorem State.releaseDeferred_within (fuel asid lc : Nat) : s.Within asid (s.releaseDeferred fuel asid lc) := by
  induction fuel generalizing s with
  | zero => exact .refl s
  | succ fuel ih =>
    unfold State.releaseDeferred
    split
    next => exact .refl s
    next x _ =>
      dsimp only
      split
      next => exact .refl s
      next e _ =>
        split
        next => exact .refl s
        next =>
          exact (State.Within.trans (.updLC ..) (.ite (State.queueReady_within _ _)
            (State.enterReady_within _ (e.firing asid lc)))).trans (ih _)

theorem State.releaseAll_within (asid lc : Nat) : s.Within asid (s.releaseAll asid lc) := by
  unfold State.releaseAll
  split
  · exact .refl s
  · exact s.releaseDeferred_within _ asid lc

end queues

section colours
variable (s : State) (asid lc : Nat)

theorem State.updRegs_within (c : Nat) (g : ColourRegs → ColourRegs) : s.Within asid (s.updRegs asid lc c g) := by
  unfold State.updRegs
  split
  · exact .refl s
  · exact .updLC ..

theorem State.retryWith_within (p : Parked → Bool) (gs : List Grant) : s.Within asid (s.retryWith asid lc p gs) := by
  unfold State.retryWith
  split
  · exact .refl s
  · exact (State.Within.updLC ..).trans (.foldl (fun s q => s.requeue_within _) ..)

theorem State.retryTags_within (colour : Nat) : s.Within asid (s.retryTags asid lc colour) := by
  unfold State.retryTags
  split
  · exact (s.updRegs_within asid lc ..).trans (State.retryWith_within ..)
  · exact .refl s

theorem State.freeColour_within (c : Nat) : s.Within asid (s.freeColour asid lc c) :=
  (State.Within.updLC ..).trans (.updPitch _ fun _ => ⟨rfl, rfl⟩)

theorem Pitch.refill_launch (p : Pitch) : (p.refill lc).launch = p.launch ∧ (p.refill lc).evWritten = p.evWritten := by
  unfold Pitch.refill
  split
  · exact ⟨rfl, rfl⟩
  · dsimp only
    split <;> exact ⟨rfl, rfl⟩

theorem State.allocColour_within {s t : State} {asid lc c : Nat} {regs : ColourRegs} {cont : BitVec 128}
    (h : s.allocColour asid lc regs cont = some (c, t)) : s.Within asid t := by
  unfold State.allocColour at h
  split at h
  · cases h
  · split at h
    · cases h
    · cases h
      exact (State.Within.updLC ..).trans (.updPitch _ fun p => Pitch.refill_launch lc _)

theorem State.noteClamp_within (clamp : Bool) : s.Within asid (s.noteClamp asid lc clamp) := by
  unfold State.noteClamp
  exact .ite (.updLC ..) (.refl s)

/-- The tag operation takes a colour of its own pitch at most (09 R241). -/
theorem State.tagOp_within {s t : State} {asid lc : Nat} {p : Pitch} {maxw : BitVec 6} {regs : ColourRegs} {g : Tgo} {setN : Nat}
    {tag tag' : DWord} (h : s.tagOp asid lc p maxw regs g setN tag = .ok t tag') : s.Within asid t := by
  have fields {op} (hg : tgoFields setN g = some op) : t = s := by
    cases hop : op (p.widths regs.shape.toNat) (stackFields (p.widths regs.shape.toNat) (tagStack tag)) with
    | ok us => rw [tagOp_of_fields hg hop] at h; cases h; rfl
    | error d => rw [tagOp_of_wrap hg hop] at h; cases h
  cases g with
  | keep => cases h; exact .refl s
  | inc | push | pop | zero | set => rw [fields rfl]; exact .refl s
  | new =>
    cases ha : s.allocColour asid lc (newRegs maxw regs) ((0 : BitVec 64) ++ tag) with
    | none => rw [tagOp_new_of_starved ha] at h; cases h
    | some r =>
      rw [tagOp_new_of_alloc ha] at h
      cases h
      exact (State.allocColour_within ha).trans (State.noteClamp_within ..)
  | cont =>
    simp only [State.tagOp] at h
    split at h <;> cases h <;> exact .refl s

end colours

section traps
variable (s : State) (asid lc : Nat)

theorem State.takeTrap_within (t : TrapInfo) : s.Within asid (s.takeTrap asid lc t) := by
  unfold State.takeTrap
  exact .ite (.of_pitches rfl rfl) ((State.Within.updLC ..).trans (.of_pitches rfl rfl))

theorem State.fillStream_within (m : MemAcc) (t : StreamP) : s.Within asid (s.fillStream asid lc m t) :=
  (State.Within.updLC ..).trans (.foldl (fun s _ => s.takeTrap_within asid lc _) ..)

theorem State.resolveStream_within (m : MemAcc) (t : StreamP) (commit : Bool) : s.Within asid (s.resolveStream asid lc m t commit) := by
  have committed : s.Within asid (s.commitStream asid lc m t) := by
    unfold State.commitStream
    exact .ite (.updLC ..) ((s.fillStream_within asid lc m t).trans (.updLC ..))
  unfold State.resolveStream
  dsimp only
  split
  · exact .ite (.updLC ..) (.updLC ..)
  · exact .ite committed (.updLC ..)
  · exact .refl s

theorem State.resolveRa_within (node : Nat) (tag : DWord) (taken : Option Bool) : s.Within asid (s.resolveRa asid lc node tag taken) := by
  unfold State.resolveRa
  split
  · exact .refl s
  · refine .foldl (fun s m => ?_) _ s
    split
    · exact .ite (s.resolveStream_within ..) (.refl s)
    · exact .refl s

end traps

/-- A token to a continuation leaves from its own core (09 R243). -/
theorem State.sendCont_within (s : State) (f : Firing) (opc : BitVec 10) (c : Dst × Token) : s.Within f.asid (s.sendCont f opc c) := by
  unfold State.sendCont
  exact .ite (.of_pitches rfl rfl) ((State.Within.updLC ..).trans (.of_pitches rfl rfl))

end Sys2Proof.Machine
end

section
/-! PROOFS. The own operation of each record (01 R14): of every instruction, what its firing comes to stays within what a firing may
change. -/
namespace Sys2Proof.Machine
open Sys2Proof

/-- An outcome whose state, where it has one, differs from `s` in nothing but what an operation of pitch `a` may change. -/
def FireRes.Within (a : Nat) (s : State) : FireRes → Prop
  | .done t _ => s.Within a t
  | .trapWith t _ _ => s.Within a t
  | _ => True

/-- An outcome of a firing that changes no more of the state at issue than its own operation may. -/
def Ctx.Inside (c : Ctx) (r : FireRes) : Prop := r.Within c.f.asid c.s

theorem FireRes.Within.trans {a : Nat} {s t : State} (h : s.Within a t) {r : FireRes} (g : r.Within a t) : r.Within a s := by
  cases r with
  | done u outs => exact State.Within.trans h g
  | trapWith u cause detail => exact State.Within.trans h g
  | trap | hold | park => trivial

section combinators
variable (c : Ctx)

theorem Ctx.Inside.ite {p : Prop} [Decidable p] {c : Ctx} {r q : FireRes} (hr : c.Inside r) (hq : c.Inside q) :
    c.Inside (if p then r else q) := by
  split
  · exact hr
  · exact hq

/-- Operations that change the firing's own core alone. -/
theorem Ctx.upd_inside (g : LCore → LCore) (outs : List Out) : c.Inside (.done (c.upd g) outs) := State.Within.updLC ..

theorem Ctx.done_inside (outs : List Out) : c.Inside (.done c.s outs) := State.Within.refl _

theorem Ctx.emitBoth_inside (lanes : List Word) (poison : Bool) : c.Inside (c.emitBoth c.s lanes poison) := State.Within.refl _

theorem Ctx.withFlags_within (poison : Bool) (g : Nat) : c.s.Within c.f.asid (c.withFlags poison g) := .ite (.refl _) (.updLC ..)

theorem Ctx.withFlags_inside (poison : Bool) (g : Nat) (outs : List Out) : c.Inside (.done (c.withFlags poison g) outs) :=
  c.withFlags_within poison g

theorem Ctx.emitF_inside (lanes : List Word) (g : Nat) : c.Inside (c.emitF lanes g) := c.withFlags_within ..

theorem Ctx.mapInt_inside (g : Nat → Nat → Nat) : c.Inside (c.mapInt g) := c.emitBoth_inside ..

theorem Ctx.logic_inside (g : Nat → Nat → Nat) : c.Inside (c.logic g) := c.mapInt_inside _

theorem Ctx.divide_inside (g : Nat × Nat → Nat) : c.Inside (c.divide g) :=
  State.Within.ite (c.withFlags_within ..) (.refl _)

theorem Ctx.mapJet_inside (g : Nat → List Nat → List Nat → Jet) : c.Inside (c.mapJet g) := c.emitF_inside ..

theorem Ctx.mapHalf_inside (g : Nat → Nat → Nat → Nat → Fr) : c.Inside (c.mapHalf g) := c.emitF_inside ..

theorem Ctx.mapFloat_inside (jf : List Nat → List Nat → Jet) (ef : Fmt → Nat → Nat → Fr) : c.Inside (c.mapFloat jf ef) :=
  .ite (c.mapJet_inside _) (c.mapHalf_inside _)

theorem Ctx.fused_inside (negA negC : Bool) : c.Inside (c.fused negA negC) := .ite (c.mapJet_inside _) (c.mapHalf_inside _)

theorem Ctx.passA_inside {s : State} (h : c.s.Within c.f.asid s) : c.Inside (c.passA s) := h

theorem Ctx.passTag_inside {s : State} (h : c.s.Within c.f.asid s) (tag : DWord) : c.Inside (c.passTag s tag) := h

variable {c}

theorem Ctx.clean_inside {k : FireRes} (h : c.Inside k) : c.Inside (c.clean k) := .ite trivial h

theorem Ctx.control_inside {k : Nat → FireRes} (lit : Nat) (h : ∀ n, c.Inside (k n)) : c.Inside (c.control lit k) :=
  .ite (.ite trivial (h _)) (h _)

theorem Ctx.counterOp_inside {k : Nat → FireRes} (lit : Nat) (h : ∀ n, c.Inside (k n)) : c.Inside (c.counterOp lit k) :=
  .ite (.ite trivial (h _)) (h _)

end combinators

section flow
variable (c : Ctx)

theorem Ctx.enterLoop_inside (f : List Nat → List Nat → Except Nat (List Nat)) : c.Inside (c.enterLoop f) := by
  unfold Ctx.enterLoop
  split
  · trivial
  · exact .ite (c.passTag_inside (.updLC ..) _) trivial

theorem Ctx.retireInst_within : c.s.Within c.f.asid c.retireInst := (State.Within.updLC ..).trans (State.retryTags_within ..)

theorem Ctx.allocate_within {cont : BitVec 128} {k : Nat} {t : State} (h : c.allocate cont = some (k, t)) : c.s.Within c.f.asid t :=
  State.Within.trans (.ite (.updLC ..) (.refl _)) (State.allocColour_within h)

end flow

section memory
variable (c : Ctx)

theorem Ctx.submit_inside (m : MemAcc) (outs : List Out) (tile : LCore → LCore) : c.Inside (c.submit m outs tile) :=
  .ite trivial (.ite trivial (.ite trivial (c.upd_inside ..)))

theorem Ctx.submitParts_inside (m : MemAcc) (ps : Except Nat (List Part)) : c.Inside (c.submitParts m ps) := by
  cases ps with
  | error d => trivial
  | ok ps => exact c.submit_inside ..

theorem Ctx.linear_inside (m : MemAcc) (n : Nat) (data : List Byte) (poison : Bool) : c.Inside (c.linear m n data poison) :=
  .ite trivial (.ite trivial (c.submitParts_inside ..))

theorem Ctx.scattered_inside (m : MemAcc) (data : List Byte) (poison : Bool) : c.Inside (c.scattered m data poison) :=
  .ite trivial (.ite trivial (c.submitParts_inside ..))

theorem Ctx.submitPref_inside (m : MemAcc) : c.Inside (c.submitPref m) :=
  .ite (c.upd_inside ..) (.ite trivial (c.upd_inside ..))

theorem Ctx.atomic_inside : c.Inside c.atomic := .ite trivial (.ite trivial (.ite trivial (c.submitParts_inside ..)))

theorem Ctx.stream_inside (kind : AccKind) : c.Inside (c.stream kind) := by
  refine .ite trivial (.ite trivial (.ite trivial (.ite trivial ?_)))
  dsimp only
  split
  · trivial
  · exact .ite trivial (.ite (c.submit_inside ..) (.ite (c.submit_inside ..)
      (.ite (.ite (c.submit_inside ..) (c.submit_inside ..)) (c.submit_inside ..))))

theorem Ctx.tileAcc_inside (add : Option Token) (n : Nat) {k : Tile → Nat → FireRes} (h : ∀ t off, c.Inside (k t off)) :
    c.Inside (c.tileAcc add n k) :=
  .ite trivial (.ite trivial (.ite trivial (.ite trivial (.ite trivial (.ite trivial (h _ _))))))

end memory

section accumulators
variable (c : Ctx)

theorem Ctx.accCheck_inside {k : Acc → FireRes} (h : ∀ acc, c.Inside (k acc)) : c.Inside (c.accCheck k) :=
  Ctx.clean_inside (.ite trivial (h _))

theorem Ctx.accFinish_inside (acc : Acc) (flags : Nat) (close : Acc → Acc × Nat) : c.Inside (c.accFinish acc flags close) :=
  .ite ((State.Within.updLC ..).trans (State.releaseAll_within ..)) ((State.Within.updLC ..).trans (State.releaseAll_within ..))

theorem Ctx.csrWrite_within (i : Nat) (v : Word) : c.s.Within c.f.asid (c.csrWrite i v) := by
  unfold Ctx.csrWrite
  split
  · exact .updLC ..
  · exact .ite (.updLC ..) (.refl _)
  · exact .updLC ..
  · exact .ite (.of_pitches rfl rfl) (.refl _)
  · exact .refl _

end accumulators

section commands
variable (c : Ctx)

theorem Ctx.sendCmd_within {s : State} (h : c.s.Within c.f.asid s) (j : EJob) : c.Inside (c.sendCmd s j) :=
  h.trans ((State.Within.updLC ..).trans (.of_pitches rfl rfl))

theorem Ctx.matrixCmd_inside (n : Node) (e1 e2 : BitVec 86) {k : (List Word → FireRes) → FireRes}
    (h : ∀ go, (∀ scale, c.Inside (go scale)) → c.Inside (k go)) : c.Inside (c.matrixCmd n e1 e2 k) :=
  Ctx.clean_inside (.ite (h _ fun _ => .ite (c.sendCmd_within (.refl _) _) trivial) trivial)

theorem Ctx.plainCmd_inside (n : Node) (e1 e2 : BitVec 86) : c.Inside (c.plainCmd n e1 e2) := c.matrixCmd_inside n e1 e2 fun _ go => go _

theorem Ctx.copyCmd_inside (n : Node) (e1 e2 : BitVec 86) : c.Inside (c.copyCmd n e1 e2) := by
  refine .ite trivial (.ite trivial (.ite trivial ?_))
  dsimp only
  split
  · trivial
  · exact .ite trivial (.ite trivial (.ite ((State.Within.updLC ..).trans (.of_pitches rfl rfl)) trivial))

theorem Ctx.cbCmd_inside (n : Node) : c.Inside (c.cbCmd n) := by
  refine .ite trivial (.ite trivial (.ite trivial (.ite trivial ?_)))
  dsimp only
  split
  · trivial
  · exact .ite ((State.Within.updLC ..).trans (.of_pitches rfl rfl)) trivial

theorem Ctx.meetCmd_inside (n : Node) (e1 e2 : BitVec 86) (w : Word) : c.Inside (c.meetCmd n e1 e2 w) :=
  .ite ((State.Within.updLC ..).trans (.of_pitches rfl rfl)) trivial

theorem Ctx.memberWord_inside (w : Nat) {k : Word → FireRes} (h : ∀ w, c.Inside (k w)) : c.Inside (c.memberWord w k) :=
  .ite trivial (h _)

theorem Ctx.ownerWord_inside {k : Word → FireRes} (h : ∀ w, c.Inside (k w)) : c.Inside (c.ownerWord k) :=
  .ite (c.memberWord_inside _ h) (h _)

theorem Ctx.routeIdx_inside {k : Nat → FireRes} (h : ∀ e, c.Inside (k e)) : c.Inside (c.routeIdx k) :=
  Ctx.control_inside _ fun _ => .ite trivial (h _)

end commands

/-- An instruction whose firing runs an operation that stays within what a firing may change. -/
def Instr.Inside (i : Instr) : Prop :=
  ∃ (v : NV) (body : State → Ctx → FireRes), view i = some v ∧ (∀ s, exec i s = fire v s (body s)) ∧
    ∀ (s : State) (c : Ctx), s.Within c.f.asid c.s → (body s c).Within c.f.asid s

theorem Instr.Inside.of {i : Instr} {v : NV} {body : Ctx → FireRes} (hv : view i = some v) (hi : ∀ s, exec i s = fire v s body)
    (h : ∀ c : Ctx, c.Inside (body c)) : Instr.Inside i :=
  ⟨v, fun _ => body, hv, hi, fun _ c hc => (h c).trans hc⟩

section arms
variable (n : Node)

theorem steer_inside : Instr.Inside (.steer n) := by
  refine ⟨_, _, rfl, fun _ => rfl, fun s c hc => ?_⟩
  split
  · exact State.resolveRa_within ..
  · exact hc.trans (State.resolveRa_within ..)

theorem call_inside : Instr.Inside (.call n) := by
  refine .of rfl (fun _ => rfl) fun c => ?_
  split
  next => trivial
  next taken => exact c.allocate_within taken

theorem ctxalloc_inside : Instr.Inside (.ctxalloc n) := by
  refine .of rfl (fun _ => rfl) fun c => ?_
  split
  next => trivial
  next taken => exact c.allocate_within taken

theorem lexit_inside : Instr.Inside (.lexit n) := by
  refine .of rfl (fun _ => rfl) fun c => ?_
  split
  · trivial
  · exact c.passTag_inside c.retireInst_within _

theorem ret_inside : Instr.Inside (.ret n) :=
  .of rfl (fun _ => rfl) fun _ => .ite trivial (.ite ((State.sendCont_within ..).trans (State.freeColour_within ..)) trivial)

theorem tagset_inside (l : NodeL) : Instr.Inside (.tagset l) := by
  have sent (c : Ctx) (t : DWord) : c.Inside (match c.s.tagFault c.f.asid c.f.lc t with
      | some (cause, d) => .trap cause d
      | none => c.passTag c.s t) := by
    split
    · trivial
    · exact c.passTag_inside (.refl _) _
  exact .of rfl (fun _ => rfl) fun c => .ite (.ite trivial (sent c _)) (.ite (sent c _)
    (.ite trivial (.ite trivial (c.passTag_inside (.refl _) _))))

theorem sink_inside : Instr.Inside (.sink n) :=
  .of rfl (fun _ => rfl) fun c => .ite (.ite ((State.Within.updLC ..).trans (.updPitch _ fun _ => ⟨rfl, rfl⟩)) (c.upd_inside ..))
    (c.done_inside _)

theorem mmax_inside (e1 e2 : BitVec 86) : Instr.Inside (.mmax n e1 e2) := by
  refine .of rfl (fun _ => rfl) fun c => ?_
  split
  next => exact c.matrixCmd_inside n e1 e2 fun _ _ => trivial
  next e x' _ =>
    let f := { c.f with a := { c.f.a with hb := hbJoin c.f.a.hb e.tok.hb } }
    let c' : Ctx := { c with s := c.upd (fun _ => x'), f := f }
    exact .ite trivial (FireRes.Within.trans (State.Within.updLC ..) (c'.matrixCmd_inside n e1 e2 fun _ go => go _))

theorem tld_inside : Instr.Inside (.tld n) := by
  refine .of rfl (fun _ => rfl) fun c => .ite (.ite trivial (.ite trivial ?_)) (c.tileAcc_inside _ _ fun _ _ => c.emitBoth_inside ..)
  split
  · trivial
  · exact c.upd_inside ..

theorem tst_inside : Instr.Inside (.tst n) := by
  refine .of rfl (fun _ => rfl) fun c => .ite (.ite trivial (c.tileAcc_inside _ _ fun t _ => ?_))
    (c.tileAcc_inside _ _ fun _ _ => c.upd_inside ..)
  split
  · trivial
  · exact c.upd_inside ..

theorem launch_inside (e1 e2 : BitVec 86) : Instr.Inside (.launch n e1 e2) := by
  refine .of rfl (fun _ => rfl) fun c => .ite trivial ?_
  dsimp only
  split
  · trivial
  · exact .ite (c.submit_inside ..) (.ite trivial (c.upd_inside ..))

theorem icmp_inside : Instr.Inside (.icmp n) := by
  refine .of rfl (fun _ => rfl) fun c => ?_
  dsimp only
  split <;> exact c.emitBoth_inside ..

theorem fcmp_inside : Instr.Inside (.fcmp n) := by
  refine .of rfl (fun _ => rfl) fun c => ?_
  dsimp only
  split
  · exact .ite (c.emitF_inside ..) (c.emitF_inside ..)
  · exact c.emitF_inside ..
  · exact c.emitF_inside ..

theorem qcontrib_inside : Instr.Inside (.qcontrib n) := by
  refine .of rfl (fun _ => rfl) fun c => ?_
  have named (w : Nat) : c.Inside (c.memberWord w (fun w => c.meetCmd n 0 0 w)) := c.memberWord_inside w fun _ => c.meetCmd_inside ..
  split
  · exact .ite trivial (named _)
  · exact named _
  · exact named _

theorem maprd_inside : Instr.Inside (.maprd n) :=
  .of rfl (fun _ => rfl) fun c => c.control_inside _ fun _ => .ite (.ite trivial (.of_pitches rfl rfl)) (.ite (.of_pitches rfl rfl)
    (.ite (.of_pitches rfl rfl) trivial))

theorem fquant_inside : Instr.Inside (.fquant n) :=
  .of rfl (fun _ => rfl) fun c => .ite (c.done_inside _) (c.withFlags_inside ..)

theorem jflag_inside : Instr.Inside (.jflag n) := by
  refine .of rfl (fun _ => rfl) fun c => ?_
  exact State.Within.ite (.refl _) (.updLC ..)

theorem tset_inside : Instr.Inside (.tset n) := by
  refine .of rfl (fun _ => rfl) fun c => .ite ?_ trivial
  exact State.Within.ite (.updLC ..) (.refl _)

theorem accinit_inside : Instr.Inside (.accinit n) :=
  .of rfl (fun _ => rfl) fun c => c.clean_inside (.ite trivial (c.passA_inside ((State.Within.updLC ..).trans (State.releaseAll_within ..))))

theorem jobpoll_inside : Instr.Inside (.jobpoll n) := by
  refine .of rfl (fun _ => rfl) fun c => c.clean_inside ?_
  split
  · trivial
  · exact c.emitBoth_inside ..

theorem jobwait_inside : Instr.Inside (.jobwait n) := by
  refine .of rfl (fun _ => rfl) fun c => c.clean_inside ?_
  split
  · trivial
  · exact .ite (c.passA_inside (.refl _)) trivial

end arms

/-- Every record but EXT runs an operation of its own, which stays within what a firing may change (01 R14). -/
theorem isNode_inside {i : Instr} (node : isNode i = true) : Instr.Inside i ∨ ∃ v, i = .ext v := by
  cases i with
  | ext v => exact .inr ⟨v, rfl⟩
  -- the flow of tokens, loops, calls and colours (09)
  | pass n | merge n | mergec n | lbound n | event n => exact .inl (.of rfl (fun _ => rfl) fun c => c.passA_inside (.refl _))
  | steer n => exact .inl (steer_inside n)
  | gate n => exact .inl (.of rfl (fun _ => rfl) fun c => .ite trivial (.ite (c.passA_inside (.refl _)) (c.done_inside _)))
  | sync n | trap n | eos n | unpack n => exact .inl (.of rfl (fun _ => rfl) fun c => c.done_inside _)
  | brk n => exact .inl (.of rfl (fun _ => rfl) fun c => .ite trivial (.ite (c.passA_inside (.refl _)) trivial))
  | lenter n | lnext n => exact .inl (.of rfl (fun _ => rfl) fun c => c.enterLoop_inside _)
  | lexit n => exact .inl (lexit_inside n)
  | ldone n => exact .inl (.of rfl (fun _ => rfl) fun c => c.passA_inside c.retireInst_within)
  | call n => exact .inl (call_inside n)
  | ctxalloc n => exact .inl (ctxalloc_inside n)
  | ret n => exact .inl (ret_inside n)
  | cfree n => exact .inl (.of rfl (fun _ => rfl) fun c => .ite trivial (c.passA_inside (State.freeColour_within ..)))
  | ctxfree n =>
    exact .inl (.of rfl (fun _ => rfl) fun c => .ite trivial (.ite trivial (.ite trivial (c.passA_inside (State.freeColour_within ..)))))
  | tagset l => exact .inl (tagset_inside l)
  | sink n => exact .inl (sink_inside n)
  | launch n e1 e2 => exact .inl (launch_inside n e1 e2)
  -- results of the operands alone (07, 08)
  | sel n | cvti n | tagget n | pack n | bcast n | shuf n | lget n | lput n | jseed n | jconst n | tstate n | time n =>
    exact .inl (.of rfl (fun _ => rfl) fun c => c.emitBoth_inside ..)
  | lit l => exact .inl (.of rfl (fun _ => rfl) fun c => .ite (c.emitBoth_inside ..) (c.emitBoth_inside ..))
  | iadd n | isub n | iadds n | isubs n | imul n | imulh n | imad n | imin n | imax n | iabs n | ineg n | shl n | shr n | sar n | rol n | clz n
  | ctz n | popc n | brev n | bfx n | bfi n | aadr n => exact .inl (.of rfl (fun _ => rfl) fun c => c.mapInt_inside _)
  | idiv n | irem n => exact .inl (.of rfl (fun _ => rfl) fun c => c.divide_inside _)
  | and n | or n | xor n | andn n | orn n => exact .inl (.of rfl (fun _ => rfl) fun c => c.logic_inside _)
  | icmp n => exact .inl (icmp_inside n)
  | fcmp n => exact .inl (fcmp_inside n)
  | fadd n | fsub n | fmul n | fdiv n | fmin n | fmax n | fminn n | fmaxn n | fabs n | fneg n | fcpsgn n | fclass n =>
    exact .inl (.of rfl (fun _ => rfl) fun c => c.mapFloat_inside ..)
  | fma n | fms n | fnma n => exact .inl (.of rfl (fun _ => rfl) fun c => c.fused_inside ..)
  | fsqrt n | frsq n | frcp n | fexp n | fexp2 n | flog n | flog2 n | fsin n | fcos n | ftanh n | fsigm n | ferf n | frnd n | fscale n | jdiff n
  | jintg n => exact .inl (.of rfl (fun _ => rfl) fun c => c.mapJet_inside _)
  | fcvt n | jget n | lred n | lscan n => exact .inl (.of rfl (fun _ => rfl) fun c => c.emitF_inside ..)
  | fsincos n | fdeq n => exact .inl (.of rfl (fun _ => rfl) fun c => c.withFlags_within ..)
  | fquant n => exact .inl (fquant_inside n)
  | jput n => exact .inl (.of rfl (fun _ => rfl) fun c => .ite (c.emitBoth_inside ..) (c.emitF_inside ..))
  | jtrunc n => exact .inl (.of rfl (fun _ => rfl) fun c => .ite (c.emitBoth_inside ..) (c.mapJet_inside _))
  -- a core's own registers, tiles and accumulators
  | purge n | jord n | width n => exact .inl (.of rfl (fun _ => rfl) fun c => c.upd_inside ..)
  | jflag n => exact .inl (jflag_inside n)
  | accinit n => exact .inl (accinit_inside n)
  | accadd n | accmax n | accmin n => exact .inl (.of rfl (fun _ => rfl) fun c => c.accCheck_inside fun _ => c.accFinish_inside ..)
  | accrd n | krd n | csrrd n => exact .inl (.of rfl (fun _ => rfl) fun c => c.clean_inside (c.emitBoth_inside ..))
  | kwr n => exact .inl (.of rfl (fun _ => rfl) fun c => c.clean_inside (.ite trivial (c.upd_inside ..)))
  | csrwr n => exact .inl (.of rfl (fun _ => rfl) fun c => c.clean_inside (c.passA_inside (c.csrWrite_within ..)))
  | tset n => exact .inl (tset_inside n)
  | rtrd n => exact .inl (.of rfl (fun _ => rfl) fun c => c.routeIdx_inside fun _ => c.emitBoth_inside ..)
  | rtwr n =>
    exact .inl (.of rfl (fun _ => rfl) fun c => .ite trivial (.ite trivial (c.routeIdx_inside fun _ => .ite (c.upd_inside ..) trivial)))
  | lookup n => exact .inl (.of rfl (fun _ => rfl) fun c => .ite trivial (.ite trivial (.ite trivial (.ite trivial (c.upd_inside ..)))))
  -- commands of the engines (05, 15)
  | wload n | wloadx n | wswap n | apzero n | apmv n | mma n _ => exact .inl (.of rfl (fun _ => rfl) fun c => c.plainCmd_inside ..)
  | mmaj n e1 => exact .inl (.of rfl (fun _ => rfl) fun c => c.matrixCmd_inside n e1 0 fun _ go => .ite trivial (go _))
  | mmax n e1 e2 => exact .inl (mmax_inside n e1 e2)
  | appeek n => exact .inl (.of rfl (fun _ => rfl) fun c => c.clean_inside (c.sendCmd_within (.refl _) _))
  | jobpoll n => exact .inl (jobpoll_inside n)
  | jobwait n => exact .inl (jobwait_inside n)
  | cpy n _ | cpyd n _ | cpye n _ | mcast n _ _ | gath n _ | scat n _ => exact .inl (.of rfl (fun _ => rfl) fun c => c.copyCmd_inside ..)
  | tfill n | tevict n | tinv n => exact .inl (.of rfl (fun _ => rfl) fun c => c.cbCmd_inside n)
  -- memory (14)
  | ld n | st n => exact .inl (.of rfl (fun _ => rfl) fun c => c.linear_inside ..)
  | ldg n | sts n => exact .inl (.of rfl (fun _ => rfl) fun c => c.scattered_inside ..)
  | strm n e1 | strmst n e1 => exact .inl (.of rfl (fun _ => rfl) fun c => c.stream_inside _)
  | pref n => exact .inl (.of rfl (fun _ => rfl) fun c => c.submitPref_inside _)
  | fence n => exact .inl (.of rfl (fun _ => rfl) fun c => c.submit_inside ..)
  | aadd n | afadd n | amin n | amax n | aand n | aor n | axor n | axchg n | acas n | aincb n =>
    exact .inl (.of rfl (fun _ => rfl) fun c => c.atomic_inside)
  | tld n => exact .inl (tld_inside n)
  | tst n => exact .inl (tst_inside n)
  -- the network, the meetings and the counters (10, 11, 16)
  | maprd n => exact .inl (maprd_inside n)
  | bandrd n => exact .inl (.of rfl (fun _ => rfl) fun c => c.control_inside _ fun _ => c.emitBoth_inside ..)
  | qopen n _ _ | cwalk n _ | qwset n => exact .inl (.of rfl (fun _ => rfl) fun c => .ite trivial (c.meetCmd_inside ..))
  | qcontrib n => exact .inl (qcontrib_inside n)
  | qclose n | qstat n | qlag n => exact .inl (.of rfl (fun _ => rfl) fun c => c.ownerWord_inside fun _ => c.meetCmd_inside ..)
  | toffs n => exact .inl (.of rfl (fun _ => rfl) fun c => c.counterOp_inside _ fun _ => c.emitBoth_inside ..)
  | cntrd n => exact .inl (.of rfl (fun _ => rfl) fun c => c.counterOp_inside _ fun _ => .ite (c.emitBoth_inside ..) trivial)
  | cntwr n => exact .inl (.of rfl (fun _ => rfl) fun c => .ite trivial (c.upd_inside ..))
  | _ => exact Bool.noConfusion node

end Sys2Proof.Machine
end

section
/-! PROOFS. What a record's firing comes to (01 R14): it is done and its tokens leave, or it changes no more than its own operation may. -/
namespace Sys2Proof.Machine
open Sys2Proof

section outcome
variable {v : NV} {s t : State} {f : Firing} {p : Pitch} {x : LCore} {body : Ctx → FireRes}

theorem State.eosFire_within {tag : DWord} : (s.eosFire f p v tag).Within f.asid s := by
  unfold State.eosFire
  split
  · dsimp only
    split
    · exact State.sendCont_within ..
    · trivial
  · exact State.Within.refl s

theorem State.fireRes_within (inside : ∀ c : Ctx, s.Within c.f.asid c.s → (body c).Within c.f.asid s) :
    (s.fireRes f p x v body).Within f.asid s := by
  unfold State.fireRes
  split
  · trivial
  split
  · trivial
  split
  · split
    · trivial
    split
    · trivial
    · dsimp only
      split
      · trivial
      · trivial
      next taken =>
        have moved := State.tagOp_within taken
        split
        · exact FireRes.Within.trans moved State.eosFire_within
        · exact inside _ moved
  · trivial

theorem State.firingTraps_within {opc : BitVec 10} {cause : Cause} {detail : Nat} : s.Within f.asid (s.firingTraps f opc cause detail) :=
  (State.Within.of_pitches rfl rfl : s.Within f.asid { s with cur := none }).trans (State.takeTrap_within ..)

theorem State.parkFiring_within {colour : Bool} : s.Within f.asid (s.parkFiring f colour) := by
  unfold State.parkFiring
  split
  · exact .refl s
  · split
    · exact (State.Within.updLC ..).trans (.of_pitches rfl rfl)
    · exact .refl s

/-- A firing whose operation is not done changes no more than an operation may. -/
theorem State.finish_cases {r : FireRes} (h : r.Within f.asid s) :
    (∃ u outs, s.Within f.asid u ∧ s.finish f v.opc r = s.fired u v f outs) ∨ s.Within f.asid (s.finish f v.opc r) := by
  cases r with
  | done u outs => exact .inl ⟨u, outs, h, rfl⟩
  | trap cause detail => exact .inr State.firingTraps_within
  | trapWith u cause detail => exact .inr (State.Within.trans h State.firingTraps_within)
  | hold => exact .inr (.refl s)
  | park colour => exact .inr State.parkFiring_within

theorem fire_cases (cur : s.cur = some f) (inside : ∀ c : Ctx, s.Within c.f.asid c.s → (body c).Within c.f.asid s)
    (h : fire v s body = .next t) :
    (∃ p u outs, s.pitch? f.asid = some p ∧ s.Within f.asid u ∧ t = s.fired u v f outs) ∨ s.Within f.asid t := by
  simp only [fire, cur] at h
  split at h
  next p x hp _ =>
    cases h
    obtain ⟨u, outs, within, done⟩ | rest := s.finish_cases (v := v) (State.fireRes_within (v := v) (p := p) (x := x) inside)
    · exact .inl ⟨p, u, outs, hp, within, done⟩
    · exact .inr rest
  next => cases h

end outcome

/-- What a record's firing comes to: it is done and its tokens leave, or it changes no more than its own operation may. -/
theorem isNode_cases {i : Instr} {s t : State} {f : Firing} (node : isNode i = true) (cur : s.cur = some f) (h : exec i s = .next t) :
    (∃ v p u outs, view i = some v ∧ s.pitch? f.asid = some p ∧ s.Within f.asid u ∧ t = s.fired u v f outs) ∨ s.Within f.asid t := by
  obtain ⟨v, body, hv, run, inside⟩ | ⟨w, rfl⟩ := isNode_inside node
  · obtain ⟨p, u, outs, hp, within, done⟩ | rest := fire_cases cur (inside s) ((run s).symm.trans h)
    · exact .inl ⟨v, p, u, outs, hv, hp, within, done⟩
    · exact .inr rest
  · simp only [exec, execExt, cur] at h
    cases h
    exact .inr State.firingTraps_within

end Sys2Proof.Machine
end

section
/-! PROOFS. What a write by a walker leaves alone (06 R172; 13 R337): the tokens on their way and the device's other state, and of the
pitches all but the tiles whose window is open. -/
namespace Sys2Proof.Machine
open Sys2Proof

/-- A state without what the tokens of a firing and the writes of a walker may change. -/
def State.offTokens (s : State) : State :=
  { s with pitches := [], clusters := [], mem := [], fields := [], flight := [], traps := [], rcq := [], freeCtr := 0, reports := [],
           rptLost := 0 }

/-- A pitch without its logical cores. -/
def Pitch.shell (p : Pitch) : Pitch := { p with lcores := [] }

section cores
variable {s t : State} {a b l m : Nat} {g : LCore → LCore}

theorem State.updLC_of_find {p : Pitch} {x : LCore} (hp : s.pitch? a = some p) (hx : SMap.find p.lcores l = some x) :
    s.updLC a l g = s.setPitch a (p.setLC l (g x)) := by
  unfold State.pitch? at hp
  simp only [State.updLC, hp, hx]

theorem State.updLC_of_none (h : s.lc? a l = none) : s.updLC a l g = s := by
  unfold State.lc? at h
  unfold State.updLC
  split
  next => rfl
  next p hp =>
    rw [hp] at h
    simp only [h]

theorem State.updLC_lc?_map {α : Type} {h : LCore → α} (hg : ∀ x, h (g x) = h x) : ((s.updLC a l g).lc? b m).map h = (s.lc? b m).map h := by
  by_cases here : b = a ∧ m = l
  · obtain ⟨rfl, rfl⟩ := here
    cases hx : s.lc? b m with
    | none => rw [State.updLC_of_none hx, hx]
    | some x => rw [s.updLC_lc? b m g x hx]; exact congrArg some (hg x)
  · rw [s.updLC_lc?_ne a l b m g (by omega)]

theorem State.updLC_pitch?_ne (h : b ≠ a) : (s.updLC a l g).pitch? b = s.pitch? b := by
  cases hx : s.lc? a l with
  | none => rw [State.updLC_of_none hx]
  | some x =>
    obtain ⟨p, hp, found⟩ := State.lc?_eq_some.1 hx
    rw [State.updLC_of_find hp found, s.setPitch_pitch?_ne a b _ h]

theorem State.updLC_shell : ((s.updLC a l g).pitch? b).map Pitch.shell = (s.pitch? b).map Pitch.shell := by
  by_cases here : b = a
  · subst here
    cases hx : s.lc? b l with
    | none => rw [State.updLC_of_none hx]
    | some x =>
      obtain ⟨p, hp, found⟩ := State.lc?_eq_some.1 hx
      rw [State.updLC_of_find hp found, State.setPitch_pitch?, hp]
      rfl
  · rw [State.updLC_pitch?_ne here]

/-- Whether a window takes writes is in its pitch's state and its core's rebind alone. -/
theorem State.tileOpen_congr (hp : (t.pitch? a).map Pitch.shell = (s.pitch? a).map Pitch.shell)
    (hx : (t.lc? a l).map LCore.blocked = (s.lc? a l).map LCore.blocked) : t.tileOpen a l = s.tileOpen a l := by
  have st : (t.pitch? a).map Pitch.st = (s.pitch? a).map Pitch.st := by
    have h := congrArg (Option.map Pitch.st) hp
    rw [Option.map_map, Option.map_map] at h
    exact h
  unfold State.tileOpen
  revert st hx
  cases t.pitch? a <;> cases s.pitch? a <;> cases t.lc? a l <;> cases s.lc? a l <;> simp +contextual

end cores

/-- A state that differs from another by a walker's writes: of the pitches it changes only the tiles whose window is open. -/
structure State.Windowed (s t : State) : Prop where
  off : t.offTokens = s.offTokens
  opened : ∀ a l, t.tileOpen a l = s.tileOpen a l
  cores : ∀ a l, s.tileOpen a l = false → t.lc? a l = s.lc? a l
  pitches : ∀ a, (∀ l, s.tileOpen a l = false) → t.pitch? a = s.pitch? a
  shell : ∀ a, (t.pitch? a).map Pitch.shell = (s.pitch? a).map Pitch.shell

namespace State.Windowed
variable {s t u : State}

theorem refl (s : State) : s.Windowed s := ⟨rfl, fun _ _ => rfl, fun _ _ _ => rfl, fun _ _ => rfl, fun _ => rfl⟩

theorem trans (h : s.Windowed t) (g : t.Windowed u) : s.Windowed u where
  off := g.off.trans h.off
  opened a l := (g.opened a l).trans (h.opened a l)
  cores a l shut := (g.cores a l ((h.opened a l).trans shut)).trans (h.cores a l shut)
  pitches a shut := (g.pitches a fun l => (h.opened a l).trans (shut l)).trans (h.pitches a shut)
  shell a := (g.shell a).trans (h.shell a)

/-- A change that leaves the pitches alone. -/
theorem of_pitches (off : t.offTokens = s.offTokens) (same : t.pitches = s.pitches) : s.Windowed t := by
  have look (a : Nat) : t.pitch? a = s.pitch? a := by rw [State.pitch?, same, State.pitch?]
  have core (a l : Nat) : t.lc? a l = s.lc? a l := by rw [State.lc?, same, State.lc?]
  exact ⟨off, fun a l => State.tileOpen_congr (by rw [look]) (by rw [core]), fun a l _ => core a l, fun a _ => look a, fun a => by rw [look]⟩

theorem ite {p : Prop} [Decidable p] (ht : s.Windowed t) (hu : s.Windowed u) : s.Windowed (if p then t else u) := by
  split
  · exact ht
  · exact hu

theorem foldl {α : Type} {g : State → α → State} (hg : ∀ (s : State) x, s.Windowed (g s x)) (l : List α) (s : State) :
    s.Windowed (l.foldl g s) := by
  induction l generalizing s with
  | nil => exact .refl s
  | cons x r ih => exact (hg s x).trans (ih (g s x))

/-- A tile whose window is open is written. -/
theorem updTile {a l : Nat} (opened : s.tileOpen a l = true) (n : Nat) (g : Tile → Tile) :
    s.Windowed (s.updLC a l (fun x => x.updTile n g)) where
  off := by rw [State.updLC_eq]; rfl
  opened b m := State.tileOpen_congr State.updLC_shell (State.updLC_lc?_map fun _ => rfl)
  cores b m shut := s.updLC_lc?_ne a l b m _ (by
    by_contra here
    obtain ⟨rfl, rfl⟩ : b = a ∧ m = l := by omega
    exact Bool.noConfusion (opened.symm.trans shut))
  pitches b shut := State.updLC_pitch?_ne (fun here => Bool.noConfusion ((here ▸ opened.symm).trans (shut l)))
  shell b := State.updLC_shell

end State.Windowed

section writes
variable (s : State)

theorem State.updCluster_windowed (k : Nat) (f : Cluster → Cluster) : s.Windowed (s.updCluster k f) := .of_pitches rfl rfl

theorem State.assign_windowed (pa : Nat) : s.Windowed (s.assign pa) := .ite (s.updCluster_windowed ..) (.refl s)

theorem State.setRaw_windowed (loc : Nat) (v : Byte) : s.Windowed (s.setRaw loc v) := .of_pitches rfl rfl

theorem State.setDramByte_windowed (k c l q b : Nat) (v : Byte) : s.Windowed (s.setDramByte k c l q b v) :=
  .ite (.ite (.of_pitches rfl rfl) (s.setRaw_windowed ..)) (.ite (s.setRaw_windowed ..) (.ite (s.setRaw_windowed ..) (.refl s)))

theorem State.writeTile_windowed (core off : Nat) (v : Byte) : s.Windowed (s.writeTile core off v) := by
  unfold State.writeTile
  split
  · exact .refl s
  · split
    next opened => exact .updTile opened ..
    next => exact .refl s

theorem State.setByte_windowed (pa : Nat) (v : Byte) : s.Windowed (s.setByte pa v) := by
  unfold State.setByte
  split
  · exact s.setDramByte_windowed ..
  · exact s.setRaw_windowed ..
  · exact s.writeTile_windowed ..
  · exact .refl s

theorem State.setBytes_windowed (pa : Nat) (vs : List Byte) : s.Windowed (s.setBytes pa vs) := by
  induction vs generalizing s pa with
  | nil => exact .refl s
  | cons v r ih => exact (s.setByte_windowed pa v).trans (ih _ _)

theorem State.pushReport_windowed (kind field detail pa len : Nat) : s.Windowed (s.pushReport kind field detail pa len) :=
  .ite (.refl s) (.ite (.of_pitches rfl rfl) (.of_pitches rfl rfl))

theorem State.reportPoison_windowed (k : Nat) (pa : Option Nat) (len : Nat) : s.Windowed (s.reportPoison k pa len) := by
  cases pa with
  | none => exact .refl s
  | some p =>
    have counted : s.Windowed s.fresh.2 := .of_pitches rfl rfl
    exact .ite (counted.trans (State.pushReport_windowed ..)) (.refl s)

theorem State.markLine_windowed (pa : Nat) (poison clean : Bool) : s.Windowed (s.markLine pa poison clean) := by
  unfold State.markLine
  split
  · exact .ite (.ite (.refl s) ((s.updCluster_windowed ..).trans (State.reportPoison_windowed ..))) (.ite (s.updCluster_windowed ..) (.refl s))
  · split
    · dsimp only
      split
      next opened => exact .updTile opened ..
      next => exact .refl s
    · exact .refl s
  · exact .refl s

theorem State.noteAccess_windowed (pa : Nat) : s.Windowed (s.noteAccess pa) := by
  unfold State.noteAccess
  split
  · exact .ite (.refl s) (s.updCluster_windowed ..)
  · exact .refl s

theorem State.writeLine_windowed (pa : Nat) (vs : List Byte) (poison : Bool) : s.Windowed (s.writeLine pa vs poison) :=
  (((s.assign_windowed pa).trans (State.noteAccess_windowed ..)).trans (State.setBytes_windowed ..)).trans (State.markLine_windowed ..)

theorem State.writeRange_windowed (fuel pa : Nat) (vs : List Byte) (poison : Bool) : s.Windowed (s.writeRange fuel pa vs poison) := by
  induction fuel generalizing s pa vs with
  | zero => exact .refl s
  | succ fuel ih =>
    cases vs with
    | nil => exact .refl s
    | cons v r => exact (s.writeLine_windowed ..).trans (ih ..)

theorem State.walkNote_windowed (fi asid vpn : Nat) : s.Windowed (s.walkNote fi asid vpn) :=
  .ite (.foldl (fun s pa => s.assign_windowed pa) ..) (.refl s)

theorem State.setAD_windowed (at_ : Nat) (e : DWord) (write : Bool) : s.Windowed (s.setAD at_ e write) :=
  .ite (.refl s) (s.setBytes_windowed ..)

theorem State.translate_windowed {s u : State} {fi asid va pa : Nat} {write window super z : Bool}
    (h : s.translate fi asid va write window super = .ok (pa, z, u)) : s.Windowed u := by
  unfold State.translate at h
  split at h
  · cases h
  split at h
  · cases h
  · cases h
  · dsimp only at h
    split at h
    · cases h
    · cases h
      exact ((s.walkNote_windowed ..).trans (State.setAD_windowed ..)).trans (State.assign_windowed ..)

theorem State.missAt_windowed (fi asid vpn : Nat) (who : Miss) : s.Windowed (s.missAt fi asid vpn who) := .of_pitches rfl rfl

/-- The record of an event is written, or waits, or the launch is reported (06 R172). -/
theorem State.rcWrite_windowed {w : RcWrite} (event : w.vector = false) : s.Windowed (s.rcWrite w) := by
  have queued (q : List RcWrite) : s.Windowed { s with rcq := q } := .of_pitches rfl rfl
  have waits (q : List RcWrite) (who : Miss) : s.Windowed (State.missAt { s with rcq := q } w.field w.asid (w.va / 4096) who) :=
    (queued q).trans (State.missAt_windowed ..)
  unfold State.rcWrite
  dsimp only
  split
  next pa _ u ok =>
    have written (bs : List Byte) (q : List RcWrite) : s.Windowed { u.writeRange 2 pa bs false with rcq := q } :=
      ((State.translate_windowed ok).trans (u.writeRange_windowed 2 pa bs false)).trans (.of_pitches rfl rfl)
    rw [event]
    exact .ite (waits ..) (written ..)
  next => exact waits ..
  next => exact (queued _).trans (State.pushReport_windowed ..)

end writes

end Sys2Proof.Machine
end

section
/-! PROOFS. What the tokens of a firing leave alone (01 R14): the device's other state, every other logical core whose window the
launch's events cannot reach, and of its own core all but its counters, trap registers and record, colour cache and accumulators. -/
namespace Sys2Proof.Machine
open Sys2Proof

/-- A state without what sending a token may change: no event is written. -/
def State.offQuiet (s : State) : State := { s with pitches := [], flight := [], traps := [] }

namespace LCore.likeOf
variable {x y z : LCore}

theorem refl (x : LCore) : x.likeOf x := rfl

theorem trans (h : x.likeOf y) (g : y.likeOf z) : x.likeOf z := by
  unfold LCore.likeOf at *
  rw [g, h]

theorem field (h : x.likeOf y) : y.field = x.field := by rw [h]; rfl

theorem blocked (h : x.likeOf y) : y.blocked = x.blocked := by rw [h]; rfl

end LCore.likeOf

/-- A state that differs from another by the sending of tokens from core `l` of pitch `a`, where no event is written; `keep` says that
none of them goes to an accumulator. -/
structure State.Quiet (a l : Nat) (keep : Prop) (s t : State) : Prop where
  off : t.offQuiet = s.offQuiet
  others : ∀ b m, (b, m) ≠ (a, l) → t.lc? b m = s.lc? b m
  pitches : ∀ b, b ≠ a → t.pitch? b = s.pitch? b
  shell : (t.pitch? a).map Pitch.shell = (s.pitch? a).map Pitch.shell
  empty : s.lc? a l = none → t.lc? a l = none
  own : ∀ x, s.lc? a l = some x → ∃ y, t.lc? a l = some y ∧ x.likeOf y ∧ (keep → y.accs = x.accs)

namespace State.Quiet
variable {a l : Nat} {keep : Prop} {s t u : State}

theorem of_pitches (off : t.offQuiet = s.offQuiet) (same : t.pitches = s.pitches) : s.Quiet a l keep t := by
  have look (b : Nat) : t.pitch? b = s.pitch? b := by rw [State.pitch?, same, State.pitch?]
  have core (b m : Nat) : t.lc? b m = s.lc? b m := by rw [State.lc?, same, State.lc?]
  exact ⟨off, fun b m _ => core b m, fun b _ => look b, by rw [look], fun h => by rw [core, h],
    fun x hx => ⟨x, by rw [core, hx], .refl x, fun _ => rfl⟩⟩

theorem refl (s : State) : s.Quiet a l keep s := .of_pitches rfl rfl

theorem trans (h : s.Quiet a l keep t) (g : t.Quiet a l keep u) : s.Quiet a l keep u where
  off := g.off.trans h.off
  others b m other := (g.others b m other).trans (h.others b m other)
  pitches b other := (g.pitches b other).trans (h.pitches b other)
  shell := g.shell.trans h.shell
  empty hx := g.empty (h.empty hx)
  own x hx := by
    obtain ⟨y, hy, like, accs⟩ := h.own x hx
    obtain ⟨z, hz, like', accs'⟩ := g.own y hy
    exact ⟨z, hz, like.trans like', fun k => (accs' k).trans (accs k)⟩

theorem updLC {g : LCore → LCore} (like : ∀ x : LCore, x.likeOf (g x)) (accs : keep → ∀ x, (g x).accs = x.accs) :
    s.Quiet a l keep (s.updLC a l g) where
  off := by rw [State.updLC_eq]; rfl
  others b m other := s.updLC_lc?_ne a l b m g (by
    by_contra here
    exact other (Prod.ext (by omega) (by omega)))
  pitches b other := State.updLC_pitch?_ne other
  shell := State.updLC_shell
  empty hx := by rw [State.updLC_of_none hx, hx]
  own x hx := ⟨g x, s.updLC_lc? a l g x hx, like x, fun k => accs k x⟩

theorem tileOpen (h : s.Quiet a l keep t) (b m : Nat) : t.tileOpen b m = s.tileOpen b m := by
  refine State.tileOpen_congr ?_ ?_
  · by_cases here : b = a
    · exact here ▸ h.shell
    · rw [h.pitches b here]
  · by_cases here : (b, m) = (a, l)
    · obtain ⟨rfl, rfl⟩ := Prod.mk.inj here
      cases hx : s.lc? b m with
      | none => rw [h.empty hx]
      | some x =>
        obtain ⟨y, hy, like, _⟩ := h.own x hx
        rw [hy, Option.map_some, like.blocked, Option.map_some]
    · rw [h.others b m here]

/-- The field whose walker serves the core stays. -/
theorem evField (h : s.Quiet a l keep t) : t.evField a l = s.evField a l := by
  have boot : t.bootField = s.bootField := (congrArg State.bootField h.off :)
  unfold State.evField
  cases hx : s.lc? a l with
  | none => rw [h.empty hx]; exact boot
  | some x =>
    obtain ⟨y, hy, like, _⟩ := h.own x hx
    rw [hy]
    exact like.field

end State.Quiet

/-- A state that differs from another by tokens sent from core `l` of pitch `a`, events among them. -/
structure State.Emits (a l : Nat) (keep : Prop) (s t : State) : Prop where
  off : t.offTokens = s.offTokens
  opened : ∀ b m, t.tileOpen b m = s.tileOpen b m
  launch : (t.pitch? a).map Pitch.launch = (s.pitch? a).map Pitch.launch
  others : ∀ b m, (b, m) ≠ (a, l) → s.windowShut a b m → t.lc? b m = s.lc? b m
  pitches : ∀ b, b ≠ a → (∀ m, s.windowShut a b m) → t.pitch? b = s.pitch? b
  own : s.windowShut a a l → ∀ x, s.lc? a l = some x → ∃ y, t.lc? a l = some y ∧ x.likeOf y ∧ (keep → y.accs = x.accs)
  mem : (∀ p, s.pitch? a = some p → p.ringless) → t.mem = s.mem

theorem State.setPitch_lc?_of_lcores {s : State} {a : Nat} {p q : Pitch} (hp : s.pitch? a = some p) (cores : q.lcores = p.lcores) (b m : Nat) :
    (s.setPitch a q).lc? b m = s.lc? b m := by
  by_cases here : b = a
  · subst here
    unfold State.pitch? at hp
    simp only [State.lc?, State.setPitch, SMap.find_ins_self, hp, cores]
  · simp only [State.lc?, State.setPitch, SMap.find_ins_ne _ _ _ _ here]

section launch
variable {s t : State} {a : Nat}

theorem ringless_congr (h : (t.pitch? a).map Pitch.launch = (s.pitch? a).map Pitch.launch) :
    (∀ p, t.pitch? a = some p → p.ringless) ↔ ∀ p, s.pitch? a = some p → p.ringless := by
  unfold Pitch.ringless
  revert h
  cases t.pitch? a <;> cases s.pitch? a <;> simp +contextual

theorem State.windowShut_congr {b m : Nat} (h : (t.pitch? a).map Pitch.launch = (s.pitch? a).map Pitch.launch)
    (opened : t.tileOpen b m = s.tileOpen b m) : t.windowShut a b m ↔ s.windowShut a b m := by
  unfold State.windowShut
  rw [ringless_congr h, opened]

theorem launch_of_shell (h : (t.pitch? a).map Pitch.shell = (s.pitch? a).map Pitch.shell) :
    (t.pitch? a).map Pitch.launch = (s.pitch? a).map Pitch.launch := by
  have g := congrArg (Option.map Pitch.launch) h
  rw [Option.map_map, Option.map_map] at g
  exact g

end launch

namespace State.Emits
variable {a l : Nat} {keep : Prop} {s t u : State}

theorem shut (h : s.Emits a l keep t) (b m : Nat) : t.windowShut a b m ↔ s.windowShut a b m := State.windowShut_congr h.launch (h.opened b m)

theorem trans (h : s.Emits a l keep t) (g : t.Emits a l keep u) : s.Emits a l keep u where
  off := g.off.trans h.off
  opened b m := (g.opened b m).trans (h.opened b m)
  launch := g.launch.trans h.launch
  others b m other shut := (g.others b m other ((h.shut b m).2 shut)).trans (h.others b m other shut)
  pitches b other shut := (g.pitches b other fun m => (h.shut b m).2 (shut m)).trans (h.pitches b other shut)
  own shut x hx := by
    obtain ⟨y, hy, like, accs⟩ := h.own shut x hx
    obtain ⟨z, hz, like', accs'⟩ := g.own ((h.shut a l).2 shut) y hy
    exact ⟨z, hz, like.trans like', fun k => (accs' k).trans (accs k)⟩
  mem ringless := (g.mem ((ringless_congr h.launch).2 ringless)).trans (h.mem ringless)

theorem of_quiet (h : s.Quiet a l keep t) : s.Emits a l keep t where
  off := (congrArg State.offTokens h.off :)
  opened := h.tileOpen
  launch := launch_of_shell h.shell
  others b m other _ := h.others b m other
  pitches b other _ := h.pitches b other
  own _ := h.own
  mem _ := (congrArg State.mem h.off :)

theorem refl (s : State) : s.Emits a l keep s := .of_quiet (.refl s)

theorem mono {keep' : Prop} (h : s.Emits a l keep t) (k : keep' → keep) : s.Emits a l keep' t where
  off := h.off
  opened := h.opened
  launch := h.launch
  others := h.others
  pitches := h.pitches
  own shut x hx := by
    obtain ⟨y, hy, like, accs⟩ := h.own shut x hx
    exact ⟨y, hy, like, fun k' => accs (k k')⟩
  mem := h.mem

/-- The writes of a walker for a launch that has an event ring. -/
theorem of_windowed (h : s.Windowed t) {p : Pitch} (hp : s.pitch? a = some p) (ring : ¬ p.ringless) : s.Emits a l keep t := by
  have no : ¬ ∀ p, s.pitch? a = some p → p.ringless := fun all => ring (all p hp)
  have core {b m : Nat} (shut : s.windowShut a b m) : t.lc? b m = s.lc? b m := h.cores b m (shut.resolve_left no)
  exact ⟨h.off, h.opened, launch_of_shell (h.shell a), fun b m _ shut => core shut,
    fun b _ shut => h.pitches b fun m => (shut m).resolve_left no,
    fun shut x hx => ⟨x, (core shut).trans hx, .refl x, fun _ => rfl⟩, fun all => absurd all no⟩

/-- A pitch's counts change. -/
theorem setPitch {p q : Pitch} (hp : s.pitch? a = some p) (cores : q.lcores = p.lcores) (st : q.st = p.st) (launch : q.launch = p.launch) :
    s.Emits a l keep (s.setPitch a q) := by
  have core (b m : Nat) : (s.setPitch a q).lc? b m = s.lc? b m := State.setPitch_lc?_of_lcores hp cores b m
  refine ⟨rfl, fun b m => ?_, ?_, fun b m _ _ => core b m, fun b other _ => s.setPitch_pitch?_ne a b q other,
    fun _ x hx => ⟨x, (core a l).trans hx, .refl x, fun _ => rfl⟩, fun _ => rfl⟩
  · by_cases here : b = a
    · subst here
      unfold State.tileOpen
      rw [core, State.setPitch_pitch?, hp]
      cases s.lc? b m with
      | none => rfl
      | some x => simp only [st]
    · unfold State.tileOpen
      rw [core, s.setPitch_pitch?_ne a b q here]
  · rw [State.setPitch_pitch?, hp, Option.map_some, Option.map_some, launch]

end State.Emits

end Sys2Proof.Machine
end

section
/-! PROOFS. The tokens of a firing, one by one (02 R45 to R51; 06 R172): each is sent, and at most one event is appended to the launch's
event ring. -/
namespace Sys2Proof.Machine
open Sys2Proof

section sends
variable (s : State) {a l : Nat} {keep : Prop}

/-- What a token of core `l` of pitch `a` comes to: it is sent, or the trap registers and counters take note of it, and then an event may be
appended to the ring. -/
def State.Sends (a l : Nat) (keep : Prop) (s t : State) : Prop :=
  ∃ u, s.Quiet a l keep u ∧ (t = u ∨ ∃ info, t = u.ringAppend a l info)

theorem State.Sends.quiet {s t : State} (h : s.Quiet a l keep t) : s.Sends a l keep t := ⟨t, h, .inl rfl⟩

theorem State.Sends.ite {s t u : State} {p : Prop} [Decidable p] (ht : s.Sends a l keep t) (hu : s.Sends a l keep u) :
    s.Sends a l keep (if p then t else u) := by
  split
  · exact ht
  · exact hu

theorem State.count_quiet (g : Counters → Counters) : s.Quiet a l keep (s.updLC a l (fun x => x.count g)) :=
  .updLC (fun _ => rfl) fun _ _ => rfl

theorem State.recordEvent_quiet (info : TrapInfo) : s.Quiet a l keep (s.recordEvent a l info) := .updLC (fun _ => rfl) fun _ _ => rfl

theorem State.recordTrap_quiet (info : TrapInfo) : s.Quiet a l keep (s.recordTrap a l info) := .updLC (fun _ => rfl) fun _ _ => rfl

theorem State.handed_quiet (t : Token) : s.Quiet a l keep (s.updLC a l (fun x => x.handed t)) := .updLC (fun _ => rfl) fun _ _ => rfl

theorem State.raiseEvent_sends (info : TrapInfo) : s.Sends a l keep (s.raiseEvent a l info) :=
  ⟨s.recordEvent a l info, s.recordEvent_quiet info, .inr ⟨info, rfl⟩⟩

theorem State.ucDrop_sends (tag : DWord) (node : Nat) (port : Bool) (opc : BitVec 10) : s.Sends a l keep (s.ucDrop a l tag node port opc) :=
  ⟨_, (s.count_quiet _).trans (State.recordEvent_quiet ..), .inr ⟨_, rfl⟩⟩

theorem State.sendTo_sends (src : Src) (vc : BitVec 3) (d : Dest) (rt : DWord) (flip : Bool) (node : Nat) (port : Bool) (opc : BitVec 10)
    (ftag : DWord) (o : Out) : s.Sends a l keep (s.sendTo src a l vc d rt flip node port opc ftag o) := by
  unfold State.sendTo
  split
  next => exact .ite (.quiet (.of_pitches rfl rfl)) (.quiet (.of_pitches rfl rfl))
  next =>
    split
    next =>
      exact .ite (.quiet ((s.handed_quiet _).trans (.of_pitches rfl rfl))) (s.ucDrop_sends ..)
    next => exact .quiet (.refl s)
  next => exact .quiet (.refl s)

theorem State.sendScale_sends (f : Firing) (opc : BitVec 10) (rt : DWord) (o : Out) :
    s.Sends f.asid f.lc keep (s.sendScale f opc rt o) := by
  unfold State.sendScale
  split
  · exact .ite (.quiet (.of_pitches rfl rfl)) (s.ucDrop_sends ..)
  · exact .quiet (.refl s)

/-- What a token of a firing comes to. -/
theorem State.emit_sends (route : Nat → DWord) (f : Firing) (opc : BitVec 10) (o : Out) :
    s.Sends f.asid f.lc (∀ n, o.dest ≠ .acc n) (s.emit route f opc o) := by
  unfold State.emit State.deliver
  cases hd : o.dest with
  | none => exact .quiet (.refl s)
  | acc n => exact .ite (.quiet (.refl s)) (.quiet (.updLC (fun _ => rfl) fun keep => absurd rfl (keep n)))
  | scale => exact .ite (.quiet (.refl s)) (s.sendScale_sends ..)
  | event => exact .ite (.quiet (.refl s)) (s.raiseEvent_sends _)
  | trap => exact .quiet ((s.recordTrap_quiet _).trans (.of_pitches rfl rfl))
  | route e => exact s.sendTo_sends ..
  | _ => exact s.sendTo_sends ..

end sends

section events
variable (s : State) {a l : Nat} {keep : Prop}

theorem State.Emits.updPitch {g : Pitch → Pitch} (same : ∀ p, (g p).lcores = p.lcores ∧ (g p).st = p.st ∧ (g p).launch = p.launch) :
    s.Emits a l keep (s.updPitch a g) := by
  unfold State.updPitch
  split
  next => exact .refl s
  next p hp =>
    obtain ⟨cores, st, launch⟩ := same p
    exact .setPitch hp cores st launch

/-- An event is written where the launch has an event ring, and counted as dropped where not (06 R172). -/
theorem State.ringAppend_emits (info : TrapInfo) : s.Emits a l keep (s.ringAppend a l info) := by
  unfold State.ringAppend
  split
  next => exact .refl s
  next p hp =>
    split
    next => exact .setPitch hp rfl rfl rfl
    next ring =>
      have counted : s.Windowed s.fresh.2 := .of_pitches rfl rfl
      refine (State.Emits.of_windowed (counted.trans (State.rcWrite_windowed _ rfl)) hp ?_).trans (.updPitch _ fun _ => ⟨rfl, rfl, rfl⟩)
      rintro (none | none)
      · exact ring (.inl none)
      · exact ring (.inr (.inl none))

theorem State.Sends.emits {s t : State} (h : s.Sends a l keep t) : s.Emits a l keep t := by
  obtain ⟨u, quiet, rfl | ⟨info, rfl⟩⟩ := h
  · exact .of_quiet quiet
  · exact (State.Emits.of_quiet quiet).trans (u.ringAppend_emits info)

theorem State.emitAll_emits (route : Nat → DWord) (f : Firing) (opc : BitVec 10) (outs : List Out) :
    s.Emits f.asid f.lc (∀ o, o ∈ outs → ∀ n, o.dest ≠ .acc n) (s.emitAll route f opc outs) := by
  induction outs generalizing s with
  | nil => exact .refl s
  | cons o r ih =>
    have first : s.Emits f.asid f.lc (∀ p, p ∈ o :: r → ∀ n, p.dest ≠ .acc n) (s.emit route f opc o) :=
      (s.emit_sends route f opc o).emits.mono fun none => none o List.mem_cons_self
    exact first.trans ((ih (s.emit route f opc o)).mono fun none p mem => none p (List.mem_cons_of_mem o mem))

theorem LCore.touchColour_likeOf (x : LCore) (c : Nat) : x.likeOf (x.touchColour c) ∧ (x.touchColour c).accs = x.accs := by
  unfold LCore.touchColour
  split <;> exact ⟨rfl, rfl⟩

/-- What the end of a firing counts: the firing, with its colour as the most recently issued, and the time of its pitch's last firing. -/
def State.countFiring (s : State) (f : Firing) : State :=
  (s.updLC f.asid f.lc (fun x => (x.touchColour (tagColour f.tag)).perfEvent 0x02 1)).updPitch f.asid
    (fun p => { p with lastFiring := (s.field p.homeField).time.toNat })

theorem State.endFiring_eq (f : Firing) : s.endFiring f = { s.countFiring f with cur := none } := rfl

theorem State.countFiring_mem (f : Firing) : (s.countFiring f).mem = s.mem := (State.updPitch_mem ..).trans (State.updLC_mem ..)

theorem State.countFiring_emits (f : Firing) : s.Emits f.asid f.lc keep (s.countFiring f) := by
  have like (x : LCore) : x.likeOf ((x.touchColour (tagColour f.tag)).perfEvent 0x02 1) := (x.touchColour_likeOf _).1.trans rfl
  exact (State.Emits.of_quiet (.updLC like fun _ x => (x.touchColour_likeOf _).2)).trans (.updPitch _ fun _ => ⟨rfl, rfl, rfl⟩)

/-- A firing that is done: its tokens leave, and it ends. -/
theorem State.fired_emits (t : State) (v : NV) (f : Firing) (outs : List Out) :
    ∃ u, t.Emits f.asid f.lc (∀ o, o ∈ outs → ∀ n, o.dest ≠ .acc n) u ∧ s.fired t v f outs = { u with cur := none } :=
  ⟨_, (t.emitAll_emits ..).trans (State.countFiring_emits _ f), State.endFiring_eq _ f⟩

theorem State.fired_mem (t : State) (v : NV) (f : Firing) (outs : List Out) :
    (s.fired t v f outs).mem = (t.emitAll (s.routesOf f.asid f.lc) f v.opc outs).mem := State.countFiring_mem _ f

end events

end Sys2Proof.Machine
end

section
/-! PROOFS. Where a write of bytes changes what is stored (13 R321, R326): at the places of its addresses alone. A write moves no byte: it
leaves the regions' descriptors, the columns and the places of the banks' units. -/
namespace Sys2Proof.Machine
open Sys2Proof

/-- Two states of a cluster that hold every byte at the same place. -/
structure Cluster.Lays (x y : Cluster) : Prop where
  desc : y.desc = x.desc
  cols : y.cols = x.cols
  units : ∀ k c l q, y.unitLoc k c l q = x.unitLoc k c l q

theorem Cluster.Lays.refl (x : Cluster) : x.Lays x := ⟨rfl, rfl, fun _ _ _ _ => rfl⟩

theorem Cluster.Lays.trans {x y z : Cluster} (h : x.Lays y) (g : y.Lays z) : x.Lays z :=
  ⟨g.desc.trans h.desc, g.cols.trans h.cols, fun k c l q => (g.units k c l q).trans (h.units k c l q)⟩

theorem Cluster.bank_updBank {α : Type} {h : Bank → α} {f : Bank → Bank} (hf : ∀ b, h (f b) = h b) (x : Cluster) (c l d m : Nat) :
    h ((x.updBank c l f).bank d m) = h (x.bank d m) := by
  unfold Cluster.updBank Cluster.bank
  by_cases here : 16 * d + m = 16 * c + l
  · simp only [here, SMap.get_ins_self, hf]
  · simp only [SMap.get_ins_ne _ _ _ _ _ here]

/-- A count of a bank's degraded accesses moves no unit. -/
theorem Cluster.lays_count (x : Cluster) (c l : Nat) {f : Bank → Bank} (hf : ∀ b, f b = { b with degraded := (f b).degraded }) :
    x.Lays (x.updBank c l f) := by
  refine ⟨rfl, rfl, fun k d m q => ?_⟩
  have st := Cluster.bank_updBank (h := Bank.st) (f := f) (fun b => by rw [hf b]) x c l d m
  have done := Cluster.bank_updBank (h := Bank.done) (f := f) (fun b => by rw [hf b]) x c l d m
  have skip := Cluster.bank_updBank (h := Bank.skip) (f := f) (fun b => by rw [hf b]) x c l d m
  have spare := Cluster.bank_updBank (h := Bank.spare) (f := f) (fun b => by rw [hf b]) x c l d m
  simp only [Cluster.unitLoc, st, done, skip, spare]

/-- A state that holds every byte at the same place as another. -/
structure State.Lays (s t : State) : Prop where
  fields : t.fields = s.fields
  cluster : ∀ k, (s.cluster k).Lays (t.cluster k)

/-- The places where a write of a byte may change what is stored. -/
def State.bytePlaces (s : State) (pa : Nat) : List Nat :=
  match s.resolve pa with
  | .dram k c l q b => [(s.cluster k).unitLoc k c l q + b, (s.cluster k).unitLoc k c 8 q + b]
  | .host a => [a]
  | _ => []

theorem State.mem_placesOf {s : State} {loc pa n : Nat} : loc ∈ s.placesOf pa n ↔ ∃ i, i < n ∧ loc ∈ s.bytePlaces (pa + i) := by
  have same : s.placesOf pa n = (List.range n).flatMap (fun i => s.bytePlaces (pa + i)) := rfl
  rw [same, List.mem_flatMap]
  simp only [List.mem_range]

namespace State.Lays
variable {s t u : State}

theorem refl (s : State) : s.Lays s := ⟨rfl, fun _ => .refl _⟩

theorem trans (h : s.Lays t) (g : t.Lays u) : s.Lays u := ⟨g.fields.trans h.fields, fun k => (h.cluster k).trans (g.cluster k)⟩

theorem of_same (fields : t.fields = s.fields) (clusters : t.clusters = s.clusters) : s.Lays t :=
  ⟨fields, fun k => by rw [State.cluster, State.cluster, clusters]; exact .refl _⟩

theorem ite {p : Prop} [Decidable p] (ht : s.Lays t) (hu : s.Lays u) : s.Lays (if p then t else u) := by
  split
  · exact ht
  · exact hu

theorem updCluster {k : Nat} {g : Cluster → Cluster} (hg : (s.cluster k).Lays (g (s.cluster k))) : s.Lays (s.updCluster k g) := by
  refine ⟨rfl, fun j => ?_⟩
  by_cases here : j = k
  · subst here
    rw [State.updCluster_cluster]
    exact hg
  · rw [State.updCluster_cluster_ne _ _ _ _ here]
    exact .refl _

theorem resolve (h : s.Lays t) (pa : Nat) : t.resolve pa = s.resolve pa := by
  have desc (k g : Nat) : (t.cluster k).descAt g = (s.cluster k).descAt g := by rw [Cluster.descAt, (h.cluster k).desc, Cluster.descAt]
  simp only [State.resolve, desc, State.field_congr h.fields]

theorem bytePlaces (h : s.Lays t) (pa : Nat) : t.bytePlaces pa = s.bytePlaces pa := by
  unfold State.bytePlaces
  rw [h.resolve pa]
  split
  · simp only [(h.cluster _).units]
  · rfl
  · rfl

theorem assign (h : s.Lays t) (pa : Nat) : (s.assign pa).Lays (t.assign pa) := by
  have desc (k g : Nat) : (t.cluster k).descAt g = (s.cluster k).descAt g := by rw [Cluster.descAt, (h.cluster k).desc, Cluster.descAt]
  have fresh (k : Nat) : (t.cluster k).newDesc = (s.cluster k).newDesc := by
    simp only [Cluster.newDesc, Cluster.liveCols, Cluster.col, (h.cluster k).cols]
  unfold State.assign
  simp only [desc]
  split
  · refine ⟨h.fields, fun j => ?_⟩
    by_cases here : j = pa / 1073741824
    · subst here
      rw [State.updCluster_cluster, State.updCluster_cluster]
      exact ⟨by simp only [fresh, (h.cluster _).desc], (h.cluster _).cols, (h.cluster _).units⟩
    · rw [State.updCluster_cluster_ne _ _ _ _ here, State.updCluster_cluster_ne _ _ _ _ here]
      exact h.cluster j
  · exact h

end State.Lays

section writes
variable (s : State)

theorem State.setDramByte_fields (k c l q b : Nat) (v : Byte) : (s.setDramByte k c l q b v).fields = s.fields := by
  unfold State.setDramByte
  extract_lets x lp loc
  split_ifs <;> rfl

theorem State.writeTile_eq (core off : Nat) (v : Byte) :
    s.writeTile core off v = s ∨ ∃ a l g, s.writeTile core off v = s.updLC a l g := by
  unfold State.writeTile
  split
  · exact .inl rfl
  · split
    · exact .inr ⟨_, _, _, rfl⟩
    · exact .inl rfl

theorem State.setByte_lays (pa : Nat) (v : Byte) : s.Lays (s.setByte pa v) := by
  unfold State.setByte
  split
  · exact .of_same (s.setDramByte_fields ..) (s.setDramByte_clusters ..)
  · exact .of_same rfl rfl
  · obtain same | ⟨a, l, g, same⟩ := s.writeTile_eq _ _ v
    · rw [same]; exact .refl s
    · rw [same]; exact .of_same (State.updLC_fields ..) (State.updLC_clusters ..)
  · exact .refl s

theorem State.setDramByte_raw_ne {k c l q b loc : Nat} (v : Byte) (own : loc ≠ (s.cluster k).unitLoc k c l q + b)
    (parity : loc ≠ (s.cluster k).unitLoc k c 8 q + b) : (s.setDramByte k c l q b v).raw loc = s.raw loc := by
  unfold State.setDramByte
  extract_lets x lp here
  split_ifs
  · rw [State.raw_setRaw_ne _ _ parity, State.raw_setRaw_ne _ _ own]
  · exact State.raw_setRaw_ne _ _ own
  · exact State.raw_setRaw_ne _ _ parity
  · exact State.raw_setRaw_ne _ _ parity
  · rfl

/-- A byte that is written changes what is stored at its own places alone. -/
theorem State.setByte_raw {pa loc : Nat} (v : Byte) (away : loc ∉ s.bytePlaces pa) : (s.setByte pa v).raw loc = s.raw loc := by
  unfold State.bytePlaces at away
  unfold State.setByte
  split
  next k c l q b at_ =>
    rw [at_] at away
    simp only [List.mem_cons, List.not_mem_nil, or_false, not_or] at away
    exact s.setDramByte_raw_ne v away.1 away.2
  next p at_ =>
    rw [at_] at away
    exact State.raw_setRaw_ne _ _ (by simpa using away)
  next core off _ =>
    obtain same | ⟨a, l, g, same⟩ := s.writeTile_eq core off v
    · rw [same]
    · rw [same, State.raw, State.updLC_mem, State.raw]
  next => rfl

theorem State.setBytes_lays (pa : Nat) (vs : List Byte) : s.Lays (s.setBytes pa vs) := by
  induction vs generalizing s pa with
  | nil => exact .refl s
  | cons v r ih => exact (s.setByte_lays pa v).trans (ih _ _)

theorem State.setBytes_raw {pa loc : Nat} {vs : List Byte} (away : ∀ i, i < vs.length → loc ∉ s.bytePlaces (pa + i)) :
    (s.setBytes pa vs).raw loc = s.raw loc := by
  induction vs generalizing s pa with
  | nil => rfl
  | cons v r ih =>
    have rest : ∀ i, i < r.length → loc ∉ (s.setByte pa v).bytePlaces (pa + 1 + i) := fun i hi => by
      rw [(s.setByte_lays pa v).bytePlaces, Nat.add_assoc, Nat.add_comm 1 i]
      exact away (i + 1) (Nat.succ_lt_succ hi)
    exact (ih _ rest).trans (s.setByte_raw v (away 0 (Nat.succ_pos _)))

theorem State.noteAccess_lays (pa : Nat) : s.Lays (s.noteAccess pa) := by
  unfold State.noteAccess
  split
  · exact .ite (.refl s) (.updCluster (Cluster.lays_count _ _ _ fun _ => rfl))
  · exact .refl s

theorem State.noteAccess_mem (pa : Nat) : (s.noteAccess pa).mem = s.mem := by
  unfold State.noteAccess State.countDegraded
  split
  · split <;> rfl
  · rfl

theorem State.assign_mem (pa : Nat) : (s.assign pa).mem = s.mem := by
  unfold State.assign
  dsimp only
  split <;> rfl

/-- The clean marking of a line stores nothing, and moves no byte. -/
theorem State.markLine_clean (pa : Nat) (clean : Bool) : s.Lays (s.markLine pa false clean) ∧ (s.markLine pa false clean).mem = s.mem := by
  unfold State.markLine
  split
  · rw [if_neg Bool.false_ne_true]
    split
    · exact ⟨.updCluster ⟨rfl, rfl, fun _ _ _ _ => rfl⟩, rfl⟩
    · exact ⟨.refl s, rfl⟩
  · split
    · dsimp only
      split
      · exact ⟨.of_same (State.updLC_fields ..) (State.updLC_clusters ..), State.updLC_mem ..⟩
      · exact ⟨.refl s, rfl⟩
    · exact ⟨.refl s, rfl⟩
  · exact ⟨.refl s, rfl⟩

theorem State.writeLine_lays (pa : Nat) (vs : List Byte) : (s.assign pa).Lays (s.writeLine pa vs false) :=
  ((State.noteAccess_lays _ pa).trans (State.setBytes_lays ..)).trans (State.markLine_clean ..).1

theorem State.writeLine_raw {pa loc : Nat} {vs : List Byte} (away : ∀ i, i < vs.length → loc ∉ (s.assign pa).bytePlaces (pa + i)) :
    (s.writeLine pa vs false).raw loc = s.raw loc := by
  have noted := (s.assign pa).noteAccess_lays pa
  have stored := ((s.assign pa).noteAccess pa).setBytes_raw (vs := vs) (pa := pa) (loc := loc) fun i hi => by
    rw [noted.bytePlaces]
    exact away i hi
  rw [State.writeLine, State.raw, (State.markLine_clean ..).2]
  exact stored.trans (by rw [State.raw, State.noteAccess_mem, State.assign_mem, State.raw])

end writes

end Sys2Proof.Machine
end

section
/-! PROOFS. The record of an event is written at the places of its slot and of its page's leaf alone (06 R172; 13 R324, R346). -/
namespace Sys2Proof.Machine
open Sys2Proof

section assign
variable (s : State) {x y z : Nat}

/-- A region whose descriptor is assigned, where the address is one of DRAM data. -/
def State.Assigned (s : State) (pa : Nat) : Prop :=
  pa / 1073741824 < 8192 → pa % 1073741824 < 0x3E000000 →
    ((s.cluster (pa / 1073741824)).descAt (pa % 1073741824 / 2097152)).frozen = true

theorem State.assign_fields : (s.assign y).fields = s.fields := by
  unfold State.assign
  dsimp only
  split <;> rfl

theorem State.assign_cluster (k : Nat) : ∃ desc, (s.assign y).cluster k = { s.cluster k with desc := desc } := by
  unfold State.assign
  dsimp only
  split
  · by_cases here : k = y / 1073741824
    · subst here
      exact ⟨_, State.updCluster_cluster ..⟩
    · exact ⟨_, State.updCluster_cluster_ne _ _ _ _ here⟩
  · exact ⟨_, rfl⟩

theorem State.assign_unitLoc (k j c l q : Nat) : ((s.assign y).cluster k).unitLoc j c l q = (s.cluster k).unitLoc j c l q := by
  obtain ⟨desc, same⟩ := s.assign_cluster (y := y) k
  rw [same]
  rfl

/-- Addresses of one region have one descriptor. -/
theorem State.assign_region (same : x / 2097152 = y / 2097152) : s.assign x = s.assign y := by
  have cluster : x / 1073741824 = y / 1073741824 := by omega
  have region : x % 1073741824 / 2097152 = y % 1073741824 / 2097152 := by omega
  have data : x % 1073741824 < 0x3E000000 ↔ y % 1073741824 < 0x3E000000 := by omega
  simp only [State.assign, cluster, region, data]

theorem State.assign_assigned (same : z / 2097152 = x / 2097152) : (s.assign x).Assigned z := by
  intro hk ho
  have cluster : z / 1073741824 = x / 1073741824 := by omega
  have region : z % 1073741824 / 2097152 = x % 1073741824 / 2097152 := by omega
  have data : x % 1073741824 < 0x3E000000 := by omega
  rw [cluster, region]
  unfold State.assign
  dsimp only
  split
  next => simp [Cluster.descAt, Cluster.newDesc]
  next no =>
    simp only [← cluster, hk, data, true_and, Bool.not_eq_false] at no
    rw [← cluster]
    exact no

/-- A descriptor that is assigned stays (13 R324). -/
theorem State.assign_descAt {k g : Nat} (assigned : ((s.cluster k).descAt g).frozen = true) :
    ((s.assign y).cluster k).descAt g = (s.cluster k).descAt g := by
  unfold State.assign
  dsimp only
  split
  next fresh =>
    by_cases here : k = y / 1073741824
    · subst here
      rw [State.updCluster_cluster]
      refine SMap.get_ins_ne _ _ _ _ _ fun other => ?_
      rw [other, fresh.2.2] at assigned
      exact Bool.noConfusion assigned
    · rw [State.updCluster_cluster_ne _ _ _ _ here]
  next => rfl

/-- An address of an assigned region stays where it is. -/
theorem State.assign_resolve (assigned : s.Assigned z) : (s.assign y).resolve z = s.resolve z := by
  unfold State.resolve
  simp only [State.field_congr s.assign_fields]
  split
  next dram =>
    split
    · rfl
    · split
      · rfl
      next data => rw [s.assign_descAt (assigned (by omega) (by omega))]
  next => rfl

theorem State.assign_bytePlaces (assigned : s.Assigned z) : (s.assign y).bytePlaces z = s.bytePlaces z := by
  unfold State.bytePlaces
  rw [s.assign_resolve assigned]
  split
  · simp only [State.assign_unitLoc]
  · rfl
  · rfl

theorem State.walkNote_mem (fi asid vpn : Nat) : (s.walkNote fi asid vpn).mem = s.mem := by
  have all (l : List Nat) (s : State) : (l.foldl State.assign s).mem = s.mem := by
    induction l generalizing s with
    | nil => rfl
    | cons pa r ih => exact (ih (s.assign pa)).trans (s.assign_mem pa)
  unfold State.walkNote
  dsimp only
  split
  · exact all ..
  · rfl

end assign

section ranges
variable (s : State)

/-- A write of at most 64 bytes, which lie in one line or two. -/
theorem State.writeRange_raw {pa loc : Nat} {vs : List Byte} (short : vs.length ≤ 64)
    (away : loc ∉ ((s.assign pa).assign (pa + 63)).placesOf pa 64) : (s.writeRange 2 pa vs false).raw loc = s.raw loc := by
  have places (i : Nat) (hi : i < 64) : loc ∉ ((s.assign pa).assign (pa + 63)).bytePlaces (pa + i) :=
    fun mem => away (State.mem_placesOf.2 ⟨i, hi, mem⟩)
  cases vs with
  | nil => rfl
  | cons v r =>
    let n := 64 - pa % 64
    let first := s.writeLine pa ((v :: r).take n) false
    have line : first.raw loc = s.raw loc := s.writeLine_raw fun i hi => by
      have bound : i < n := lt_of_lt_of_le hi (List.length_take_le ..)
      rw [← State.assign_bytePlaces (y := pa + 63) (s.assign pa) (s.assign_assigned (by omega))]
      exact places i (by omega)
    cases rest : (v :: r).drop n with
    | nil =>
      have done : s.writeRange 2 pa (v :: r) false = first := by
        show first.writeRange 1 (pa + n) ((v :: r).drop n) false = first
        rw [rest]
        rfl
      rw [done, line]
    | cons w q =>
      have len : q.length + 1 + n ≤ 64 := by
        have h := congrArg List.length rest
        rw [List.length_drop, List.length_cons (a := w)] at h
        omega
      have done : s.writeRange 2 pa (v :: r) false =
          first.writeLine (pa + n) ((w :: q).take (64 - (pa + n) % 64)) false := by
        show first.writeRange 1 (pa + n) ((v :: r).drop n) false = _
        rw [rest]
        rfl
      rw [done, ← line]
      refine first.writeLine_raw fun i hi => ?_
      have bound : i < q.length + 1 := lt_of_lt_of_le hi (List.length_take_le' ..)
      rw [((s.writeLine_lays pa ((v :: r).take n)).assign (pa + n)).bytePlaces,
        (s.assign pa).assign_region (show (pa + n) / 2097152 = (pa + 63) / 2097152 by omega), Nat.add_assoc]
      exact places (n + i) (by omega)

theorem length_bytesOfNat (n v : Nat) : (bytesOfNat n v).length = n := by
  induction n generalizing v with
  | zero => rfl
  | succ n ih => exact congrArg (· + 1) (ih _)

theorem length_bytesOfLanes (ls : List Word) : (bytesOfLanes ls).length = 4 * ls.length := by
  induction ls with
  | nil => rfl
  | cons w r ih =>
    rw [bytesOfLanes, List.flatMap_cons, List.length_append, length_bytesOfNat, ← bytesOfLanes, ih, List.length_cons]
    omega

/-- An event record has 64 bytes (06 R172). -/
theorem length_evBytes (n lc : Nat) (time : DWord) (t : TrapInfo) : (evBytes n lc time t).length = 64 := by
  simp [evBytes, length_bytesOfNat, length_bytesOfLanes, length_padTo]

theorem State.setAD_raw {at_ loc : Nat} (e : DWord) (write : Bool) (away : loc ∉ s.placesOf at_ 8) :
    (s.setAD at_ e write).raw loc = s.raw loc := by
  unfold State.setAD
  extract_lets e'
  split
  · rfl
  · refine s.setBytes_raw fun i hi mem => away (State.mem_placesOf.2 ⟨i, ?_, mem⟩)
    rwa [length_bytesOfNat] at hi

end ranges

section translation
variable {s u : State} {fi asid va pa : Nat} {write window super z : Bool}

/-- The state that a translation leaves, of a leaf at `at_` (13 R346). -/
def State.translated (s : State) (fi asid va : Nat) (write : Bool) (at_ : Nat) (e : DWord) (level : Nat) : Nat × Bool × State :=
  let pa := ppnOf e * 4096 + va % (4096 * 512 ^ level)
  (pa, e.getLsbD 6, ((s.walkNote fi asid (va / 4096)).setAD at_ e write).assign pa)

/-- A walk that finds no leaf translates nothing. -/
theorem State.translate_of_no_leaf (bare : ∀ at_ e level upper, s.walk fi asid (va / 4096) ≠ .leaf at_ e level upper) :
    ∃ d, s.translate fi asid va write window super = .error d := by
  unfold State.translate
  split
  · exact ⟨_, rfl⟩
  split
  · exact ⟨_, rfl⟩
  · exact ⟨_, rfl⟩
  next leaf => exact (bare _ _ _ _ leaf).elim

theorem State.translate_of_leaf {at_ level : Nat} {e : DWord} {upper : List (Nat × Nat)}
    (leaf : s.walk fi asid (va / 4096) = .leaf at_ e level upper) :
    s.translate fi asid va write window super =
      if s.walkOwned fi asid (va / 4096) then .error none
      else match leafFault s e (ppnOf e * 4096 + va % (4096 * 512 ^ level)) write window super with
        | some d => .error (some d)
        | none => .ok (s.translated fi asid va write at_ e level) := by
  unfold State.translate
  rw [leaf]
  rfl

/-- A translation that succeeds has found a leaf. -/
theorem State.translate_leaf (h : s.translate fi asid va write window super = .ok (pa, z, u)) :
    ∃ at_ e level upper, s.walk fi asid (va / 4096) = .leaf at_ e level upper ∧ (pa, z, u) = s.translated fi asid va write at_ e level := by
  cases leaf : s.walk fi asid (va / 4096) with
  | leaf at_ e level upper =>
    rw [State.translate_of_leaf leaf] at h
    split at h
    · cases h
    · split at h
      · cases h
      · exact ⟨at_, e, level, upper, rfl, (Except.ok.inj h).symm⟩
  | absent at_ =>
    obtain ⟨d, no⟩ := State.translate_of_no_leaf (s := s) (fi := fi) (asid := asid) (va := va) (write := write) (window := window)
      (super := super) (by rw [leaf]; simp)
    rw [no] at h
    cases h
  | fault d =>
    obtain ⟨d, no⟩ := State.translate_of_no_leaf (s := s) (fi := fi) (asid := asid) (va := va) (write := write) (window := window)
      (super := super) (by rw [leaf]; simp)
    rw [no] at h
    cases h

end translation

theorem State.pushReport_mem (s : State) (kind field detail pa len : Nat) : (s.pushReport kind field detail pa len).mem = s.mem := by
  unfold State.pushReport
  split
  · rfl
  · split <;> rfl

/-- Where a record of 64 bytes at an address of an address space is stored: its bytes, and the leaf whose A and D are set. -/
def State.slotPlaces (s : State) (fi asid va : Nat) : List Nat :=
  let leaf : List Nat := match s.walk fi asid (va / 4096) with
    | .leaf at_ _ _ _ => (s.walkNote fi asid (va / 4096)).placesOf at_ 8
    | _ => []
  match s.translate fi asid va true false true with
  | .ok (pa, _, u) => leaf ++ ((u.assign pa).assign (pa + 63)).placesOf pa 64
  | .error _ => []

theorem State.eventPlaces_eq {s : State} {a l : Nat} {p : Pitch} (hp : s.pitch? a = some p) :
    s.eventPlaces a l = s.slotPlaces (s.evField a l) a p.evAddr := by
  unfold State.eventPlaces
  rw [hp]
  rfl

/-- A record of at most 64 bytes is stored at its places alone. -/
theorem State.rcWrite_raw (s : State) {w : RcWrite} {loc : Nat} (event : w.vector = false) (short : w.bytes.length ≤ 64)
    (away : loc ∉ s.slotPlaces w.field w.asid w.va) : (s.rcWrite w).raw loc = s.raw loc := by
  unfold State.rcWrite
  dsimp only
  split
  next pa z u ok =>
    obtain ⟨at_, e, level, upper, leaf, found⟩ := State.translate_leaf ok
    simp only [State.slotPlaces, leaf, ok, List.mem_append, not_or] at away
    obtain ⟨noLeaf, noSlot⟩ := away
    have stored : (u.writeRange 2 pa w.bytes false).raw loc = s.raw loc := by
      rw [u.writeRange_raw short noSlot]
      obtain ⟨rfl, rfl, rfl⟩ : pa = _ ∧ z = _ ∧ u = _ := by simpa [State.translated] using found
      rw [State.raw, State.assign_mem]
      refine (State.setAD_raw _ e true noLeaf).trans ?_
      rw [State.raw, State.walkNote_mem, State.raw]
    rw [event]
    split
    · rfl
    · exact stored
  next => rfl
  next => exact congrArg (SMap.get 0 · loc) (State.pushReport_mem ..)

end Sys2Proof.Machine
end

section
/-! PROOFS. A walk reads entries in DRAM and host memory alone (13 R336, R347), so the places of an event's slot stay while tokens are
sent: pitches, tokens and traps have no part in them. -/
namespace Sys2Proof.Machine
open Sys2Proof

/-- A state without what a sent token changes, and the count of free values: what walks and writes of events rest on. -/
def State.ground (s : State) : State := { s with pitches := [], flight := [], traps := [], freeCtr := 0 }

/-- Whether an address is one of DRAM data or host memory. -/
def PaKind.data : PaKind → Bool
  | .dram .. => true
  | .host _ => true
  | _ => false

section ground
variable (s : State)

theorem State.ground_resolve (pa : Nat) : s.ground.resolve pa = s.resolve pa := rfl

theorem State.ground_assign (pa : Nat) : s.ground.assign pa = (s.assign pa).ground := by
  unfold State.assign
  dsimp only
  split
  next fresh => rw [if_pos (by exact fresh)]; rfl
  next old => rw [if_neg (by exact old)]

theorem State.present_eq (pa : Nat) : s.present pa = ((s.assign pa).resolve pa).data := by
  unfold State.present
  cases (s.assign pa).resolve pa <;> rfl

theorem State.ground_present (pa : Nat) : s.ground.present pa = s.present pa := by
  rw [State.present_eq, State.ground_assign, State.ground_resolve, State.present_eq]

theorem State.ground_byteAt {pa : Nat} (data : (s.resolve pa).data = true) : s.ground.byteAt pa = s.byteAt pa := by
  unfold State.byteAt
  rw [State.ground_resolve]
  cases at_ : s.resolve pa with
  | tile core off => rw [at_] at data; exact Bool.noConfusion data
  | dram | host | view | fieldBlk | waferBlk | absent => rfl

/-- The bytes of an aligned word lie together. -/
theorem State.data_near {pa i : Nat} (aligned : pa % 8 = 0) (hi : i < 8) (data : (s.resolve pa).data = true) :
    (s.resolve (pa + i)).data = true := by
  have cluster : (pa + i) / 1073741824 = pa / 1073741824 := by omega
  have region : (pa + i) % 1073741824 / 2097152 = pa % 1073741824 / 2097152 := by omega
  have unit : (pa + i) % 1073741824 / 4096 = pa % 1073741824 / 4096 := by omega
  have bound : (pa + i < 0x80000000000) ↔ pa < 0x80000000000 := by omega
  have data' : (pa + i) % 1073741824 ≥ 0x3E000000 ↔ pa % 1073741824 ≥ 0x3E000000 := by omega
  have host : (0x8000000000000 ≤ pa + i ∧ pa + i < 0x10000000000000) ↔ (0x8000000000000 ≤ pa ∧ pa < 0x10000000000000) := by omega
  have tile : (0x100000000000 ≤ pa + i ∧ pa + i < 0x101000000000) ↔ (0x100000000000 ≤ pa ∧ pa < 0x101000000000) := by omega
  have block : (0x200000000000 ≤ pa + i ∧ pa + i < 0x200004000000) ↔ (0x200000000000 ≤ pa ∧ pa < 0x200004000000) := by omega
  have wafer : (0x200040000000 ≤ pa + i ∧ pa + i < 0x200040100000) ↔ (0x200040000000 ≤ pa ∧ pa < 0x200040100000) := by omega
  revert data
  unfold State.resolve
  simp only [cluster, region, unit, bound, data', host, tile, block, wafer]
  split_ifs <;> simp [PaKind.data]

theorem State.ground_word64 {pa : Nat} (aligned : pa % 8 = 0) (present : s.present pa = true) :
    (s.ground.assign pa).word64 pa = (s.assign pa).word64 pa := by
  rw [State.present_eq] at present
  rw [State.ground_assign]
  unfold State.word64 State.bytesAt
  congr 2
  refine List.map_congr_left fun i hi => State.ground_byteAt _ ?_
  exact State.data_near _ aligned (List.mem_range.1 hi) present

theorem State.ground_walkFrom (f : Field) (asid vpn level tbl : Nat) (upper : List (Nat × Nat)) :
    s.ground.walkFrom f asid vpn level tbl upper = s.walkFrom f asid vpn level tbl upper := by
  induction level generalizing tbl upper with
  | zero =>
    unfold State.walkFrom
    dsimp only
    rw [State.ground_present]
    split
    next present => rw [s.ground_word64 (by omega) present]
    next => rfl
  | succ l ih =>
    unfold State.walkFrom
    dsimp only
    rw [State.ground_present]
    split
    · exact ih ..
    · split
      next present => rw [s.ground_word64 (by omega) present, ih]
      next => rfl

/-- The entries that a walk to a leaf reads. -/
theorem State.ground_readsFrom (f : Field) (asid vpn level tbl : Nat) (upper : List (Nat × Nat)) {at_ lv : Nat} {e : DWord}
    {up : List (Nat × Nat)} (leaf : s.walkFrom f asid vpn level tbl upper = .leaf at_ e lv up) :
    s.ground.readsFrom f asid vpn level tbl = s.readsFrom f asid vpn level tbl := by
  induction level generalizing tbl upper with
  | zero => rfl
  | succ l ih =>
    unfold State.walkFrom at leaf
    unfold State.readsFrom
    dsimp only at leaf ⊢
    split at leaf
    next t _ => exact ih _ _ leaf
    next miss =>
      split at leaf
      next present =>
        rw [s.ground_word64 (by omega) present]
        split
        next down =>
          obtain ⟨valid, table⟩ := down
          rw [Bool.not_eq_true'] at table
          simp only [valid, table, Bool.not_true, Bool.false_eq_true, if_false] at leaf
          split at leaf
          · cases leaf
          · exact congrArg (List.cons _) (ih _ _ leaf)
        next => rfl
      next => cases leaf

/-- A walk is what it is whatever stands in the tiles: an entry there is none. -/
theorem State.ground_walk (fi asid vpn : Nat) : s.ground.walk fi asid vpn = s.walk fi asid vpn := by
  have same : s.ground.field fi = s.field fi := rfl
  unfold State.walk
  dsimp only
  rw [same, State.ground_present]
  by_cases present : s.present ((s.field fi).rootPa * 4096 + 8 * asid) = true
  · rw [s.ground_word64 (by omega) present, State.ground_walkFrom]
  · simp only [present, Bool.not_false, if_true]

/-- The entries that a walk reads, its directory's first. -/
def State.walkReads (s : State) (fi asid vpn : Nat) : List Nat :=
  let dir := (s.field fi).rootPa * 4096 + 8 * asid
  dir :: s.readsFrom (s.field fi) asid vpn 4 (ppnOf ((s.assign dir).word64 dir))

theorem State.walkNote_eq (fi asid vpn : Nat) :
    s.walkNote fi asid vpn = if (s.field fi).rootEn then (s.walkReads fi asid vpn).foldl State.assign s else s := rfl

theorem State.walkOwned_eq (fi asid vpn : Nat) :
    s.walkOwned fi asid vpn = ((s.field fi).rootEn && (s.walkReads fi asid vpn).any (fun pa => s.isOwned pa 8)) := rfl

variable {s} {fi asid vpn at_ level : Nat} {e : DWord} {upper : List (Nat × Nat)}

theorem State.ground_walkReads (leaf : s.walk fi asid vpn = .leaf at_ e level upper) :
    s.ground.walkReads fi asid vpn = s.walkReads fi asid vpn := by
  have same : s.ground.field fi = s.field fi := rfl
  unfold State.walk at leaf
  unfold State.walkReads
  dsimp only at leaf ⊢
  rw [same]
  split at leaf
  · cases leaf
  split at leaf
  · cases leaf
  next present =>
    rw [Bool.not_eq_true', Bool.not_eq_false] at present
    rw [s.ground_word64 (by omega) present]
    split at leaf
    · cases leaf
    · rw [s.ground_readsFrom _ _ _ _ _ _ leaf]

theorem State.ground_walkOwned (leaf : s.walk fi asid vpn = .leaf at_ e level upper) :
    s.ground.walkOwned fi asid vpn = s.walkOwned fi asid vpn := by
  rw [State.walkOwned_eq, State.ground_walkReads leaf]
  rfl

theorem State.ground_walkNote (leaf : s.walk fi asid vpn = .leaf at_ e level upper) :
    s.ground.walkNote fi asid vpn = (s.walkNote fi asid vpn).ground := by
  have all (l : List Nat) (s : State) : l.foldl State.assign s.ground = (l.foldl State.assign s).ground := by
    induction l generalizing s with
    | nil => rfl
    | cons pa r ih => rw [List.foldl_cons, State.ground_assign, ih, List.foldl_cons]
  have same : s.ground.field fi = s.field fi := rfl
  rw [State.walkNote_eq, State.walkNote_eq, State.ground_walkReads leaf, same]
  split
  · exact all ..
  · rfl

end ground

section stores
variable (s : State)

theorem State.ground_setDramByte (k c l q b : Nat) (v : Byte) : s.ground.setDramByte k c l q b v = (s.setDramByte k c l q b v).ground := by
  have same : s.ground.cluster k = s.cluster k := rfl
  unfold State.setDramByte
  rw [same]
  extract_lets x lp loc
  split_ifs <;> rfl

theorem State.ground_writeTile (core off : Nat) (v : Byte) : s.ground.writeTile core off v = (s.writeTile core off v).ground := by
  have none : s.ground.writeTile core off v = s.ground := by
    unfold State.writeTile
    split
    next => rfl
    next at_ =>
      split at at_
      · cases at_
      · cases at_
  obtain same | ⟨a, l, g, same⟩ := s.writeTile_eq core off v
  · rw [none, same]
  · rw [none, same, State.updLC_eq]
    rfl

theorem State.ground_setByte (pa : Nat) (v : Byte) : s.ground.setByte pa v = (s.setByte pa v).ground := by
  unfold State.setByte
  rw [State.ground_resolve]
  split
  · exact s.ground_setDramByte ..
  · rfl
  · exact s.ground_writeTile ..
  · rfl

theorem State.ground_setBytes (pa : Nat) (vs : List Byte) : s.ground.setBytes pa vs = (s.setBytes pa vs).ground := by
  induction vs generalizing s pa with
  | nil => rfl
  | cons v r ih =>
    rw [State.setBytes, State.ground_setByte, ih]
    rfl

theorem State.ground_setAD (at_ : Nat) (e : DWord) (write : Bool) : s.ground.setAD at_ e write = (s.setAD at_ e write).ground := by
  unfold State.setAD
  extract_lets e'
  split
  · rfl
  · exact s.ground_setBytes ..

theorem ground_leafFault (e : DWord) (pa : Nat) (write window super : Bool) :
    leafFault s.ground e pa write window super = leafFault s e pa write window super := by
  have reach : s.ground.leafReach pa (e.getLsbD 2) = s.leafReach pa (e.getLsbD 2) := by
    unfold State.leafReach
    rw [State.ground_assign]
    rfl
  unfold leafFault
  rw [reach]

end stores

section slots
variable {s t : State} {fi asid va : Nat}

theorem State.ground_translated {at_ level : Nat} {e : DWord} {upper : List (Nat × Nat)}
    (leaf : s.walk fi asid (va / 4096) = .leaf at_ e level upper) (write : Bool) :
    s.ground.translated fi asid va write at_ e level =
      ((s.translated fi asid va write at_ e level).1, (s.translated fi asid va write at_ e level).2.1,
        (s.translated fi asid va write at_ e level).2.2.ground) := by
  simp only [State.translated, State.ground_walkNote leaf, State.ground_setAD, State.ground_assign]

theorem State.slotPlaces_of_no_leaf (bare : ∀ at_ e level upper, s.walk fi asid (va / 4096) ≠ .leaf at_ e level upper) :
    s.slotPlaces fi asid va = [] := by
  obtain ⟨d, no⟩ := State.translate_of_no_leaf (write := true) (window := false) (super := true) bare
  unfold State.slotPlaces
  rw [no]

/-- The places of a slot rest on what walks and writes rest on. -/
theorem State.ground_slotPlaces : s.ground.slotPlaces fi asid va = s.slotPlaces fi asid va := by
  cases leaf : s.walk fi asid (va / 4096) with
  | leaf at_ e level upper =>
    have gleaf := (s.ground_walk ..).trans leaf
    unfold State.slotPlaces
    rw [gleaf, leaf, State.translate_of_leaf leaf, State.translate_of_leaf gleaf, State.ground_walkOwned leaf, ground_leafFault,
      State.ground_translated leaf, State.ground_walkNote leaf]
    cases s.walkOwned fi asid (va / 4096) with
    | true => rfl
    | false =>
      cases leafFault s e (ppnOf e * 4096 + va % (4096 * 512 ^ level)) true false true with
      | some d => rfl
      | none =>
        rw [if_neg Bool.false_ne_true, if_neg Bool.false_ne_true]
        dsimp only
        rw [State.ground_assign, State.ground_assign]
        rfl
  | absent at_ =>
    rw [State.slotPlaces_of_no_leaf (s := s) (by simp [leaf]), State.slotPlaces_of_no_leaf (s := s.ground) (by simp [State.ground_walk, leaf])]
  | fault d =>
    rw [State.slotPlaces_of_no_leaf (s := s) (by simp [leaf]), State.slotPlaces_of_no_leaf (s := s.ground) (by simp [State.ground_walk, leaf])]

theorem State.slotPlaces_congr (h : t.ground = s.ground) : t.slotPlaces fi asid va = s.slotPlaces fi asid va := by
  rw [← State.ground_slotPlaces, h, State.ground_slotPlaces]

end slots

section events
variable {s t : State} {a l : Nat} {keep : Prop}

/-- A token that is sent moves no event's place. -/
theorem State.Quiet.eventPlaces (h : s.Quiet a l keep t) : t.eventPlaces a l = s.eventPlaces a l := by
  have ground : t.ground = s.ground := (congrArg State.ground h.off :)
  cases hp : s.pitch? a with
  | none =>
    have gone : t.pitch? a = none := by simpa [hp] using h.shell
    unfold State.eventPlaces
    rw [hp, gone]
  | some p =>
    obtain ⟨q, hq, shell⟩ : ∃ q, t.pitch? a = some q ∧ q.shell = p.shell := by simpa [hp] using h.shell
    have addr : q.evAddr = p.evAddr := (congrArg Pitch.evAddr shell :)
    rw [State.eventPlaces_eq hp, State.eventPlaces_eq hq, h.evField, addr, State.slotPlaces_congr ground]

/-- An event is stored at its places alone (06 R172). -/
theorem State.ringAppend_raw {loc : Nat} (info : TrapInfo) (away : loc ∉ s.eventPlaces a l) :
    (s.ringAppend a l info).raw loc = s.raw loc := by
  unfold State.ringAppend
  split
  next => rfl
  next p hp =>
    split
    next => rfl
    next =>
      rw [State.eventPlaces_eq hp] at away
      have counted : s.fresh.2.ground = s.ground := rfl
      rw [State.evWrite, State.raw, State.updPitch_mem]
      refine State.rcWrite_raw _ rfl (length_evBytes ..).le ?_
      rwa [State.slotPlaces_congr counted]

theorem State.Sends.raw {loc : Nat} (h : s.Sends a l keep t) (away : loc ∉ s.eventPlaces a l) : t.raw loc = s.raw loc := by
  obtain ⟨u, quiet, done⟩ := h
  have same : u.raw loc = s.raw loc := congrArg (SMap.get 0 · loc) (congrArg State.mem quiet.off :)
  obtain rfl | ⟨info, rfl⟩ := done
  · exact same
  · exact (State.ringAppend_raw info (quiet.eventPlaces ▸ away)).trans same

/-- The tokens of a firing store at the places of their events alone, each at the state in which it goes. -/
theorem State.emitAll_raw {loc : Nat} (s : State) (route : Nat → DWord) (f : Firing) (opc : BitVec 10) (outs : List Out)
    (away : ∀ j, j < outs.length → loc ∉ (s.emitAll route f opc (outs.take j)).eventPlaces f.asid f.lc) :
    (s.emitAll route f opc outs).raw loc = s.raw loc := by
  induction outs generalizing s with
  | nil => rfl
  | cons o r ih =>
    have first := (s.emit_sends route f opc o).raw (away 0 (Nat.succ_pos _))
    exact (ih (s.emit route f opc o) fun j hj => away (j + 1) (Nat.succ_lt_succ hj)).trans first

end events

end Sys2Proof.Machine
end

section
/-! PROOFS. The frame of every instruction of a node record (01 R14; 06 R172; 13 R337, R346). -/
namespace Sys2Proof.Machine
open Sys2Proof

/-- A state without what a firing may change, by its operation or by its tokens. -/
def State.offFiring (s : State) : State := s.offTokens.offCore

section within
variable {a b l : Nat} {s t : State} {p : Pitch}

theorem State.Within.offFiring (h : s.Within a t) : t.offFiring = s.offFiring := (congrArg State.offTokens h.off :)

theorem State.Within.mem (h : s.Within a t) : t.mem = s.mem := (congrArg State.mem h.off :)

theorem State.lc?_congr (h : t.pitch? b = s.pitch? b) (l : Nat) : t.lc? b l = s.lc? b l := by
  unfold State.pitch? at h
  unfold State.lc?
  rw [h]

theorem State.Within.launch_map (h : s.Within a t) (hp : s.pitch? a = some p) :
    (t.pitch? a).map Pitch.launch = (s.pitch? a).map Pitch.launch := by
  obtain ⟨q, hq, launch, _⟩ := h.launch p hp
  rw [hq, hp, Option.map_some, Option.map_some, launch]

/-- An operation opens no window of another pitch, and shuts none. -/
theorem State.Within.windowShut (h : s.Within a t) (hp : s.pitch? a = some p) (other : b ≠ a) : t.windowShut a b l ↔ s.windowShut a b l :=
  State.windowShut_congr (h.launch_map hp)
    (State.tileOpen_congr (by rw [h.others b other]) (by rw [State.lc?_congr (h.others b other)]))

end within

section emits
variable {a l : Nat} {keep : Prop} {s t : State}

theorem State.Emits.offFiring (h : s.Emits a l keep t) : { t with cur := none }.offFiring = s.offFiring :=
  (congrArg State.offCore h.off :)

end emits

/-- The frame of a record's firing: other pitches, the device beyond, and memory but for the events. -/
theorem node_frame {i : Instr} {s t : State} {f : Firing} (node : isNode i = true) (cur : s.cur = some f) (h : exec i s = .next t) :
    t.offFiring = s.offFiring ∧ (∀ a, a ≠ f.asid → (∀ l, s.windowShut f.asid a l) → t.pitch? a = s.pitch? a) ∧
    ((∀ p, s.pitch? f.asid = some p → p.ringless) → t.mem = s.mem) ∧
    (t.mem = s.mem ∨ ∃ v u outs, view i = some v ∧ t = s.fired u v f outs ∧ u.mem = s.mem ∧ u.fields = s.fields ∧
      ∀ p, s.pitch? f.asid = some p → ∃ q, u.pitch? f.asid = some q ∧ q.launch = p.launch ∧ q.evWritten = p.evWritten) := by
  obtain ⟨v, p, u, outs, hv, hp, within, done⟩ | within := isNode_cases node cur h
  · obtain ⟨w, emits, ends⟩ := s.fired_emits u v f outs
    have fields : u.fields = s.fields := (congrArg State.fields within.off :)
    refine ⟨?_, fun a other shut => ?_, fun ringless => ?_, .inr ⟨v, u, outs, hv, done, within.mem, fields, within.launch⟩⟩
    · rw [done, ends]
      exact emits.offFiring.trans within.offFiring
    · rw [done, ends]
      exact (emits.pitches a other fun l => (within.windowShut hp other).2 (shut l)).trans (within.others a other)
    · rw [done, ends]
      exact (emits.mem ((ringless_congr (within.launch_map hp)).2 ringless)).trans within.mem
  · exact ⟨within.offFiring, fun a other _ => within.others a other, fun _ => within.mem, .inl within.mem⟩

/-- What the tokens and the end of a firing leave alone, but for memory. -/
theorem fired_frame (s t : State) (v : NV) (f : Firing) (outs : List Out) {x : LCore} (hx : t.lc? f.asid f.lc = some x) :
    (t.windowShut f.asid f.asid f.lc → ∃ y, (s.fired t v f outs).lc? f.asid f.lc = some y ∧ x.likeOf y ∧
      ((∀ o, o ∈ outs → ∀ n, o.dest ≠ .acc n) → y.accs = x.accs)) ∧
    (∀ a l, (a, l) ≠ (f.asid, f.lc) → t.windowShut f.asid a l → (s.fired t v f outs).lc? a l = t.lc? a l) ∧
    { s.fired t v f outs with cur := t.cur }.offTokens = t.offTokens ∧ (s.fired t v f outs).cur = none := by
  obtain ⟨u, emits, ends⟩ := s.fired_emits t v f outs
  rw [ends]
  refine ⟨fun shut => emits.own shut x hx, emits.others, ?_, rfl⟩
  rw [← emits.off]
  have cur : u.cur = t.cur := (congrArg State.cur emits.off :)
  rw [← cur]

/-- Settles O60: what a record's own operation changes stays within its pitch, its queues and its tokens; a token that is sent changes
its own core's counters, trap registers and accumulators at most; and an event changes memory in its own slot and in its page's leaf. -/
theorem nodeFrame : Obligations.NodeFrame := by
  unfold Obligations.NodeFrame
  refine ⟨fun i s t f node cur h => ?_, fun s t v f outs x hx => ?_⟩
  · obtain ⟨off, pitches, ringless, mem⟩ := node_frame node cur h
    exact ⟨pitches, (congrArg State.lq off :), (congrArg State.waiting off :), (congrArg State.owner off :), (congrArg State.bootField off :),
      (congrArg State.journal off :), (congrArg State.ports off :), (congrArg State.lasers off :), (congrArg State.ring off :),
      (congrArg State.contribs off :), (congrArg State.agenda off :), ringless, mem⟩
  · obtain ⟨own, others, off, cur⟩ := fired_frame s t v f outs hx
    refine ⟨fun loc away => ?_, own, others, (congrArg State.ready off :), (congrArg State.held off :), cur, (congrArg State.reqs off :),
      (congrArg State.cmds off :)⟩
    rw [State.raw, s.fired_mem]
    exact t.emitAll_raw _ f v.opc outs away

end Sys2Proof.Machine
end
